-- ==== Sys2Proof/Word.lean ====
section
/-!
DEFINITION. Word.lean: bytes and words, the access types of R3, a register field as the register tables of
spec/ give it, and a row of the register map of R403.
-/
namespace Sys2Proof

/-- One byte of memory, of a mailbox buffer or of a flash area. -/
abbrev Byte := BitVec 8

/-- A run of bytes, the lowest address or the first transmitted first (R6). -/
abbrev Bytes := List Byte

/-- The access types of R3. -/
inductive Access where
  | rw | ro | w1c | wo | rc
  deriving DecidableEq, Repr

/-- One field of a register table: the byte address of its register in the map of R402, its lowest bit and
width (R6), its access type (R3), its reset value, and the least and greatest value that a write may put in it
(read as a signed number when `sgn`). -/
structure Fld where
  addr  : Nat
  lo    : Nat
  width : Nat
  acc   : Access
  rst   : Nat
  mn    : Int := 0
  mx    : Int := 2 ^ width - 1
  sgn   : Bool := false
  deriving DecidableEq, Repr

/-- The key under which the register file holds a field: its address above its lowest bit. -/
def Fld.key (f : Fld) : Nat := f.addr * 65536 + f.lo

/-- One row of the register map: `count` registers of `bits` bits, `stride` bytes apart from `base`, and the
fields of the n-th of them. A field lies at bit `8 * (addr - base of its register) + lo` of the register. -/
structure RegRow where
  name   : String
  base   : Nat
  stride : Nat
  count  : Nat
  bits   : Nat
  fields : Nat → List Fld

end Sys2Proof
end

