-- ==== Sys2Proof/Types.lean ====
section
/-!
DEFINITION. Types.lean: the names and records that commands carry and that the state holds: requesters, roles, lanes,
frames of the links. Plain data only.
-/
namespace Sys2Proof

/-- Who makes a register access (R62, R318): a helm core, the management processor, or the mailbox path. -/
inductive Requester where
  | core (n : Fin 8) | mgmt | mbox
  deriving DecidableEq, Repr

/-- Who accesses memory (R402, R412). -/
inductive Agent where
  | proc (r : Requester) | solver | fabric | mirror | memRead | scrub
  deriving DecidableEq, Repr

/-- The roles of R2. -/
inductive Role where
  | monitor | coordinator | dominoHalf | standby
  deriving DecidableEq, Repr

/-- The code of a role in a status block (R285) and in STATUS (R317). -/
def Role.code : Role → Nat
  | .monitor => 0 | .coordinator => 1 | .dominoHalf => 2 | .standby => 3

/-- The two pair lanes. -/
inductive Lane where
  | ml | dl
  deriving DecidableEq, Repr

/-- A status block of R285; `take` is the block with O code 0xB. `third` is SYNCED on the mirror lane and ready on the
Domino lane. -/
structure StatusBlock where
  take  : Bool
  hold  : Bool
  alive : Bool
  third : Bool
  pos   : Bool
  half  : Bool
  role  : Role
  hb    : Nat
  deriving DecidableEq, Repr

/-- A Pip word as it stands on a link or in storage: 32 data bytes, d0 first, and 4 check bytes, c0 first (R408). -/
structure WireWord where
  data : Bytes
  chk  : Bytes
  deriving DecidableEq, Repr

/-- The header word of a mirror lane or Domino lane frame (R286). -/
structure MirHeader where
  ver    : Nat
  kind   : Nat
  blocks : Nat
  region : Nat
  offset : Nat
  ci     : Nat
  dseq   : Nat
  count  : Nat
  deriving DecidableEq, Repr

/-- A frame of the mirror lane: its header and its payload words (R286). -/
structure MirFrame where
  hdr   : MirHeader
  words : List WireWord
  deriving DecidableEq, Repr

/-- A Flip order: the instant F in ns of epoch:NS32 and the CRC of the set (R330, R333). -/
structure FlipOrder where
  f   : Nat
  crc : Nat
  deriving DecidableEq, Repr

/-- One fault-log entry of R451; INDEX and the instant are given when the entry is staged. -/
structure LogEntry where
  index     : Nat
  ns32      : Nat
  epoch     : Nat
  source    : Nat
  code      : Nat
  status    : Nat
  timeValid : Bool
  merged    : Bool
  deferred  : Bool
  inst      : Nat
  rep       : Nat
  detail    : Nat
  deriving DecidableEq, Repr

/-! ### Fabric frames -/

/-- The header word of a fabric frame (R240); `rsv` holds its reserved bits (79, and 255:160 above them). -/
structure ZHdr where
  ver    : Nat := 1
  cls    : Nat
  dst    : Nat
  dstDom : Nat := 0
  src    : Nat := 0
  srcDom : Nat := 0
  blocks : Nat
  ttl    : Nat := 255
  wrap   : Bool := false
  late   : Bool := false
  scope  : Bool := false
  coord  : Bool := false
  seq    : Nat := 0
  tag    : Nat := 0
  aux    : Nat := 0
  rsv    : Nat := 0
  deriving DecidableEq, Repr

/-- A fabric frame: header, payload words, whether it ends with the error end (R242), whether this node originated it,
and the identifier of a transmit stamp asked for (R268). -/
structure ZFrame where
  hdr   : ZHdr
  words : List WireWord
  err   : Bool := false
  own   : Bool := false
  ts    : Option Nat := none
  deriving DecidableEq, Repr

/-- What the two halves of a Domino pair pass to each other over the Domino lane beside status blocks (R295, R333, R334):
a frame with the port it arrived on, a request for Roll call, a Flip order or its cancel, IDENT, block columns of a factorisation, and the frames of the time exchange (R221). -/
inductive DominoMsg where
  | frame (port : Nat) (f : ZFrame)
  | rollStart
  | flip (o : Option FlipOrder)
  | ident (active shadow : Nat)
  | columns (words : List WireWord)
  | time (words : List WireWord)
  deriving DecidableEq, Repr

/-- The fields of PRESENT (R252). -/
structure Present where
  uid    : BitVec 64
  dom    : Nat
  role   : Nat
  half   : Nat
  pos    : Nat
  arr    : Nat
  curId  : Nat
  curGen : Nat
  cN     : Bytes
  deriving DecidableEq, Repr

/-- One item of a COMMAND frame (R262). -/
structure CmdItem where
  op     : Nat
  target : Nat
  effect : Nat
  value  : Nat
  seq    : Nat
  rsv    : Nat
  deriving DecidableEq, Repr

/-! ### Measurements -/

/-- What firmware knows from the navigation words of a channel's satellite at an epoch (R118, R123): its position in m in an
earth-fixed frame at the instant of transmission, and the metres that its corrections add to a pseudorange. -/
structure GnbSat where
  ch  : Fin 24
  x   : Rat
  y   : Rat
  z   : Rat
  cor : Rat
  deriving DecidableEq, Repr

/-! ### Replacement (R104) -/

/-- What passes between coordinator and module for a REPLACED slot: the challenge with SLOT, SEG_GEN and SEQ of the slot's
record; the module's answer for the SLOT; the status that the coordinator returns. -/
inductive ReplMsg where
  | challenge (ch : Bytes) (slot : BitVec 20) (gen : BitVec 16) (seq : BitVec 32)
  | answer (slot : BitVec 20) (reply : Bytes)
  | verdict (ok : Bool)
  deriving DecidableEq, Repr

/-! ### Crossing frames -/

/-- A downlink frame to the cell front end (R41); `sync` is 0xA5 or 0x5A. -/
structure CfeDown where
  sync : Nat
  cnt  : Nat
  bal  : Nat
  op   : Nat
  addr : Nat
  data : Nat
  rsv  : Nat
  crc  : Nat
  deriving DecidableEq, Repr

/-- The content of STATUS in an uplink frame (R42): the front end's state, flags, read data and error indications. The places
of its bits are not stated (notes/assumptions/12.md). -/
structure CfeStat where
  state   : Nat
  ov      : Nat
  uv      : Nat
  ot      : Nat
  act     : Nat
  dieHot  : Bool
  wake    : Bool
  rejects : Nat
  syncRej : Bool
  adjRej  : Bool
  por     : Bool
  wakeSrc : Nat
  firstCh : Option Nat
  rd      : Option Nat
  deriving DecidableEq, Repr

/-- An uplink frame of the cell front end (R42): `word` is STATUS as its 32 bits travel and `stat` what they say; `mod` holds
64 modulator bits of each of 49 channels, the first in bit 0. -/
structure CfeUp where
  sync   : Nat
  seq    : Nat
  echo   : Nat
  word   : Nat
  stat   : CfeStat
  auxIdx : Nat
  aux    : Nat
  rsv    : Nat
  mod    : List Nat
  crc    : Nat
  deriving DecidableEq, Repr

/-- A downlink frame to the field side (R359). -/
structure FioDown where
  sync   : Bool
  seq    : Nat
  out    : Nat
  opcode : Nat
  addr   : Nat
  data   : Nat
  crc    : Nat
  deriving DecidableEq, Repr

/-- A downlink frame of the safety crossing (R383): reserved bits, four telegram places of 16 bytes. -/
structure SafDown where
  seq    : Nat
  req    : Nat
  permit : Bool
  reset  : Nat
  take   : Bool
  nTel   : Nat
  rsv    : Nat := 0
  tels   : List Bytes
  crc    : Nat
  deriving DecidableEq, Repr

/-- Levels of the output pins at a lane sample, in mV: P and M of each pair. -/
structure SafPins where
  p : List Nat
  m : List Nat
  deriving DecidableEq, Repr

/-- An uplink frame of the field side (R360). -/
structure FioUp where
  seqEcho : Nat
  inp     : Nat
  rb      : Nat
  act     : Nat
  ovl     : Nat
  openW   : Nat
  ot      : Nat
  disc    : Nat
  state   : Nat
  fsOk    : Bool
  por     : Bool
  discN   : Nat
  syncIn  : Bool
  rd      : Nat
  chg     : Nat
  ofs     : List Nat
  nchg    : List Nat
  crc     : Nat
  deriving DecidableEq, Repr

/-- A CAN frame on a bus (R367, R370). -/
structure CanFrame where
  id   : Nat
  ide  : Bool
  fdf  : Bool
  brs  : Bool
  esi  : Bool
  rtr  : Bool
  dlc  : Nat
  data : Bytes
  sof  : Nat
  deriving DecidableEq, Repr

/-- The kind of a bus error, coded as CANn_STATUS.LEC (R380). -/
inductive CanErr where
  | stuff | form | ack | bit1 | bit0 | crc
  deriving DecidableEq, Repr

/-- Its LEC code. -/
def CanErr.lec : CanErr → Nat
  | .stuff => 1 | .form => 2 | .ack => 3 | .bit1 => 4 | .bit0 => 5 | .crc => 6

end Sys2Proof
end

