-- ==== Sys2Proof/Machine/Parts.lean ====
section
/-!
DEFINITION. Machine/Parts.lean: the parts of the state that a COMMIT carries to the partner (R288), before the commands, one of
which carries them. Plain data.
-/
namespace Sys2Proof.Machine

/-! ### Reference fusion (chapter 6) -/

/-- What a KIND 7 sample found of one satellite when it was committed (R134, R139): pseudorange in UQ32.32 m, Doppler in
2^−16 Hz, C/N0 in 0.01 dB-Hz, PARTNER_MISMATCH, and the numbers of its FUS_SAT entry: position, correction, velocity. -/
structure FusRaw where
  pr   : Nat
  dopp : Int
  cn0  : Nat
  mism : Bool
  sat  : List Rat
  deriving DecidableEq, Repr

/-- A sample of R134 in the input ring: instant and arrival stamp in ns of epoch:NS32, V0 to V3 and SIGMA as binary64
patterns, the satellites of a raw one; `stored` once a cycle has considered it; `how` it was applied: 0 not, 1 as an update,
2 by setting the states (R143). -/
structure FusSample where
  t       : Int
  arr     : Int
  slot    : Nat
  kind    : Nat
  flags   : Nat
  tgt     : Nat
  v       : List Nat
  sig     : Nat
  raw     : List FusRaw
  stored  : Bool
  how     : Nat
  deriving DecidableEq, Repr

/-- A reference slot: its latest on-time sample with its compensated value (R138) and what the filter held there at its instant
(R140); the track that a relative one went to; cycles beyond and within. -/
structure FusSlot where
  latest : Option FusSample
  val    : Rat × Rat
  ref    : Rat × Rat
  trk    : Option Nat
  dev    : Nat
  within : Nat
  excl   : Bool
  susp   : Bool
  deriving DecidableEq, Repr

/-- A group of R133 (0 POSITION, 1 HEADING, 2 MRU, 3 WIND, 4 RELATIVE): in contradiction; cycles without majority; state
instant at which its coast began; VALID; LOST; the first sample after a coast is still to come. -/
structure FusGroup where
  contra : Bool
  noMaj  : Nat
  coast  : Option Int
  valid  : Bool
  lost   : Bool
  first  : Bool
  deriving DecidableEq, Repr

/-- The vote of one interval as decided (R147): for each group its number of references, its median and whether it was
in contradiction; the slots EXCLUDED; the roll and pitch carried (R138). -/
structure FusVote where
  j    : Int
  ns   : List Nat
  med  : List (Rat × Rat)
  con  : List Bool
  excl : Nat
  att  : Rat × Rat
  deriving DecidableEq, Repr

/-- A posterior of the vessel filter (R137, R146): the index and instant of its state instant, its 17 states and their covariance
by rows. -/
structure FusPost where
  j : Int
  t : Int
  x : List Rat
  p : List (List Rat)
  deriving DecidableEq, Repr

/-- A track beside its registers (R148, R149): the instant of its 6 states, the states and their covariance, cycles since it
began, the instant of its last association. -/
structure FusTrack where
  t   : Int
  x   : List Rat
  p   : List (List Rat)
  win : Nat
  upd : Int
  deriving DecidableEq, Repr

structure FusState where
  /-- k of the sweep that is F_0, and the next cycle (R128). -/
  k0     : Option Nat
  next   : Nat
  /-- Slots enabled as of the last input cutoff (R152). -/
  en     : Nat
  ring   : List FusSample
  slots  : List FusSlot
  groups : List FusGroup
  /-- For every pair of slots, 64 · i + j: cycles in a row beyond and within its threshold (R142, R143). -/
  pairs  : List (Nat × (Nat × Nat))
  hist   : List FusVote
  /-- The last nine posteriors, newest first (R146). -/
  post   : List FusPost
  tracks : List FusTrack
  /-- The voted roll, pitch and heave, and true wind to north and east, carried (R138). -/
  mru    : Rat × Rat × Rat
  wind   : Rat × Rat
  /-- The output of the update that is complete and not yet published, with its cycle. -/
  out    : Option (Nat × Bytes)
  deriving DecidableEq, Repr

/-! ### Solver (chapter 7) -/

/-- A term of R160: target, row, column, the two source indices, coefficient pattern. -/
structure SlvTerm where
  target : Nat
  row    : Nat
  col    : Nat
  a      : Nat
  b      : Nat
  coef   : Nat
  deriving DecidableEq, Repr

/-- A slot (R156): the structure it holds (class, feed, n, m, nvec, permutation, pattern entries as row and column, terms), its
values by target, row and column as binary64 patterns (0 where unlisted), and its stored solution. The state, sizes and
signatures stand in its registers. -/
structure SlvSlot where
  cls   : Nat
  feed  : Bool
  n     : Nat
  m     : Nat
  nvec  : Nat
  perm  : List Nat
  pat   : List (Nat × Nat)
  terms : List SlvTerm
  vals  : List (Nat × Nat)
  sol   : Option (List Nat)
  deriving DecidableEq, Repr

/-! ### Helm allocation (chapter 8) -/

/-- Position north and east in m, heading in rad, velocity ahead and to starboard in m/s, turn rate in rad/s. -/
structure Motion where
  n : Rat
  e : Rat
  h : Rat
  u : Rat
  v : Rat
  r : Rat
  deriving DecidableEq, Repr

/-- A surge, sway and yaw triple. -/
structure Triple where
  x : Rat
  y : Rat
  n : Rat
  deriving DecidableEq, Repr

/-- A thruster's commands in force (R196): tunnel thrust in `a`; azimuth force ahead and to starboard in `a`, `b`; propeller
thrust and rudder lift; in kN. Azimuth in 0.01°, rudder command in Q15. Cycles in a row in which R188's conditions held. -/
structure HlmThr where
  a    : Rat
  b    : Rat
  az   : Nat
  rud  : Int
  pers : Nat
  deriving DecidableEq, Repr

/-- A transit (R188): its thruster, the far edge in 0.01°, whether it runs clockwise. -/
structure HlmTransit where
  thr : Nat
  far : Nat
  cw  : Bool
  deriving DecidableEq, Repr

/-- A string (R192, R193, R199): its limits in kW, the sweeps of the payloads that they came from, cycles in a row on those
limits for want of newer ones, set-point in kW, cycles for which its request for rest has waited, and its grant: the ns to
rest and the ns rested. -/
structure HlmStr where
  dis   : Rat
  chg   : Rat
  ids   : List Nat
  stale : Nat
  p     : Rat
  wait  : Nat
  grant : Option (Nat × Nat)
  deriving DecidableEq, Repr

/-- A row of the QP: coefficients by variable, bounds (none where infinite). -/
structure HlmRow where
  coef : List (Nat × Rat)
  lo   : Option Rat
  hi   : Option Rat
  deriving DecidableEq, Repr

/-- The QP of a cycle (R185 to R191): bounds of the variables, rows, H by its lower triangle, gradient. -/
structure HlmQp where
  lo   : List (Option Rat)
  hi   : List (Option Rat)
  rows : List HlmRow
  quad : List ((Nat × Nat) × Rat)
  lin  : List Rat
  deriving DecidableEq, Repr

/-- What a cycle takes of the registers at its law start (R176): THR_AVAIL, GEN_ONLINE, TIE_CLOSED, feedback of azimuth and thrust by
thruster, and by string the band in kW within which it rests (R199). -/
structure HlmIn where
  avail  : Nat
  gens   : Nat
  ties   : Nat
  az     : List Nat
  thrust : List Nat
  bands  : List Rat
  deriving DecidableEq, Repr

/-- Commands as published: thrusters, strings and generator sets in kW. -/
structure HlmPub where
  thrs : List HlmThr
  strs : List Rat
  gens : List Rat
  deriving DecidableEq, Repr

structure HlmState where
  /-- Newest cell-state payload received, by segment SLOT: sweep ID and header word (R82). -/
  pay     : List (Nat × (Nat × Nat))
  /-- When RUN was set (R174); the present control instant in ns, and the count of cycles. -/
  runAt   : Nat
  ck      : Option Nat
  cycle   : Nat
  /-- A mode request that waits for the next control instant (R200), and requests refused. -/
  modeReq : Option Nat
  rejCnt  : Nat
  /-- Joystick surge and sway, and yaw, forced to 0 until HLM_JOY is written. -/
  joyXY   : Bool
  joyN    : Bool
  /-- HLM_SP has been written and not yet taken (R202). -/
  spNew   : Bool
  /-- The target; in FOLLOW_TARGET its offset from the track. -/
  tgt     : Triple
  offN    : Rat
  offE    : Rat
  rel     : Bool
  /-- Reference model (R181): η_ref with ν_ref, and a_ref. -/
  ref     : Motion
  aRef    : Triple
  /-- Reference and target were set to the predicted state at this control instant. -/
  entry   : Bool
  pred    : Motion
  windM   : Triple
  dem     : Triple
  inp     : HlmIn
  thrs    : List HlmThr
  strs    : List HlmStr
  gens    : List Rat
  /-- The commands last published, and the control instant of their cycle (R177). -/
  pub     : HlmPub
  pubCk   : Option Nat
  transit : Option HlmTransit
  /-- Generalised forces published, newest first, with their instants in ns (R182, R184). -/
  hist    : List (Nat × Triple)
  qp      : Option HlmQp
  /-- Values last sent to the slot, by target, row and column (R194). -/
  sent    : List (Nat × Nat)
  /-- TAG of the request whose result is awaited, and the instant of C_(k+1). -/
  tag     : Option Nat
  cNext   : Nat
  outcome : Nat
  iter    : Nat
  /-- Force and bus slacks of the last result are all 0; cycles in a row in which they were not. -/
  force0  : Bool
  bus0    : Bool
  slackN  : Nat
  /-- Fallback cycles in a row (R195). -/
  falls   : Nat
  /-- COAST bits of the last fusion output. -/
  coast   : Nat
  /-- The unit has taken over within this cycle (R177). -/
  held    : Bool
  deriving DecidableEq, Repr

/-! ### Loop engine (chapter 9) -/

/-- What a loop carries from sample to sample (R210, R214, R216): the integrator and the offset u_off in Q10.30; the
derivative and the last feedback in Q15; of each biquad section x_s1, x_s2, w_s1, w_s2; y_m. -/
structure LpeDyn where
  i    : Int
  off  : Int
  d    : Int
  y    : Int
  hist : List (Int × Int × Int × Int)
  ym   : Int
  deriving DecidableEq, Repr

/-- A loop: what it carries, and what it carried before the sample that awaits its publish instant, with its persistence count and
its hold (R208); the output to be published, with its QUAL; outputs published, newest first; the staging copy (R213) and the
instant in ns at which it was committed; the OPEN (false) or CLOSE (true) command that waits, and whether CLEAR does, with the
instants at which they and EN were written; MAN written since the loop came to OPEN; a closing hold is due (R215). -/
structure LpeLoop where
  dyn     : LpeDyn
  back    : LpeDyn
  cnt0    : Nat
  hold0   : Bool
  out     : Option (Int × Nat)
  sampled : Bool
  us      : List Int
  staging : List Nat
  swapAt  : Nat
  cmd     : Option (Bool × Nat)
  clear   : Option Nat
  enAt    : Nat
  manNew  : Bool
  hold    : Bool
  deriving DecidableEq, Repr

/-- The loops, and the base tick last sampled (R204), none since RUN was set. -/
structure LpeState where
  loops : List LpeLoop
  tick  : Option Int
  deriving DecidableEq, Repr

/-! ### The Roll call map (chapter 11) -/

/-- A node that Roll call has found (R252): its pending ID, UID, the place of its parent in the list and the parent's
port, the port it was reached by (7 in the coordinator group), its level, the exit ports of the path to it from the
coordinator, and whether it has a front end. -/
structure RollNode where
  id     : Nat
  uid    : BitVec 64
  parent : Nat
  pport  : Nat
  up     : Nat
  level  : Nat
  path   : List Nat
  front  : Bool
  deriving DecidableEq, Repr

/-- A link that Roll call records beside the tree: spare, with the node ID and port at its far end; boundary; foreign. -/
inductive LinkKind where
  | spare (far port : Nat) | boundary | foreign
  deriving DecidableEq, Repr

structure RollLink where
  node : Nat
  port : Nat
  kind : LinkKind
  deriving DecidableEq, Repr

/-! ### Tasks (chapter 15) -/

/-- A task descriptor (R335). -/
structure TaskDesc where
  index  : Nat
  kind   : Nat
  prio   : Nat
  core   : Nat
  half   : Nat
  holdOk : Bool
  evt    : Nat
  div    : Nat
  ph     : Nat
  inOff  : Nat
  outOff : Nat
  wcet   : Nat
  minSep : Nat
  evtArg : Nat
  ins    : List Nat
  outs   : List Nat
  deriving DecidableEq, Repr

/-- A task (R339 to R343): the descriptor that its present instance runs under (R332); the level of its source signal when last looked
at (R340); release instant in ns of that instance; released and not complete; its input copy done, and
when; complete with its output instant to come; j; one instance allowed by STEP; no release before `start`; input image,
qualities and output image. -/
structure CrtTask where
  d      : Option TaskDesc
  lvl    : Option Bool
  rel    : Option Nat
  prog   : Bool
  copied : Bool
  inAt   : Nat
  ready  : Bool
  j      : Nat
  step   : Bool
  start  : Nat
  img    : List Nat
  qual   : List Nat
  out    : List Nat
  deriving DecidableEq, Repr

/-- A slot occurrence: its slot, its instant t, its record and the end of its window, t + WINDOW (R373). -/
structure CanOcc where
  slot : Nat
  t    : Nat
  msg  : Nat
  ends : Nat
  deriving DecidableEq, Repr

/-! ### The mirrored image (R288) -/

/-- What the mirror carries of the units' engines and firmware (R288), as it stands when a delta is committed: `regs` are the
register fields by their keys, of those that are mirrored, that differ from their reset values; pages of the loop engine by index
with value and quality; retained signals; occurrences in progress by CAN controller; the last CMD_SEQ by source and the next one
sent; learned records committed
within the delta, by index; a Flip order written to its journal region within the delta, or its cancel. -/
structure MirImage where
  regs   : List (Nat × Nat)
  fus    : FusState
  slots  : List SlvSlot
  hlm    : HlmState
  lpe    : LpeState
  page   : List (Nat × Nat × Nat)
  tasks  : List CrtTask
  vals   : List (Nat × (Nat × Nat))
  forces : List (Nat × Nat)
  map    : List RollNode
  links  : List RollLink
  occ    : List (List CanOcc)
  cmdSeq : List (Nat × Nat)
  txCmd  : Nat
  rtOut  : Nat
  recs   : List (Nat × Bytes)
  flip   : Option (Option FlipOrder)
  deriving DecidableEq, Repr

end Sys2Proof.Machine
end

