-- ==== Sys2Proof/Syntax.lean ====
section
/-!
DEFINITION. Syntax.lean: the commands of spec/opcode_table.json, one constructor per row, in the table's order.
-/
namespace Sys2Proof

/-- The commands that the block takes (Agents, R302: processors, links, pins and the mailboxes send them). -/
inductive Instr where
  /-- REGISTER_WRITE (R3): A write to a register that has no row of its own stores, ignores or clears fields by their access types and the block's refusal rules. -/
  | registerWrite (who : Requester) (addr : BitVec 64) (v : BitVec 32)
  /-- READ_CLEAR (R5): A read of a register holding RC fields returns the values and clears those fields in the same access. -/
  | readClear (who : Requester) (addr : BitVec 64)
  /-- WIDE_REG_LOW_READ (R62): A read of the lowest word of a 64-bit or wider register reads it whole, clears its RC fields and latches the other words for that requester. -/
  | wideRegLowRead (who : Requester) (addr : BitVec 64)
  /-- WIDE_REG_HIGH_READ (R62): A read of a higher word returns the latched value and ends the latch, or returns the live word and clears its RC fields if no latch is held. -/
  | wideRegHighRead (who : Requester) (addr : BitVec 64)
  /-- WIDE_REG_LOWER_WRITE (R107): A write to a lower word of a wide register is held for that requester and leaves the register unchanged. -/
  | wideRegLowerWrite (who : Requester) (addr : BitVec 64) (v : BitVec 32)
  /-- WIDE_REG_COMMIT_WRITE (R107): A write to the highest word of a wide register commits all its words together with any held lower-word writes. -/
  | wideRegCommitWrite (who : Requester) (addr : BitVec 64) (v : BitVec 32)
  /-- POWER_ON_RESET (R433): VIN first rising through the brown-out threshold resets the module, clears PRD_CAUSE and the retained start-failure register, and starts plant time afresh. -/
  | powerOnReset
  /-- RESET_PIN (R433): RESET_N held low for 1 µs or more holds the module in reset until it rises and the rails qualify. -/
  | resetPin (high : Bool)
  /-- BROWN_OUT (R424): VIN crossing the falling threshold, or rising above 33 V, releases TOKEN, stops all crossings and frames and ends in a restart. -/
  | brownOut (high inTime collapse : Bool)
  /-- RAIL_OUT_OF_WINDOW (R422): A logic rail outside its window for 0.5 µs fails the SUPPLY check, releases TOKEN if enabled and holds the module in reset. -/
  | railOutOfWindow (rail : Fin 5)
  /-- RAILS_QUALIFIED (R422): Every rail inside its window for 10 ms releases a reset held by the SUPPLY check or a brown-out. -/
  | railsQualified (vin : BitVec 10)
  /-- JUNCTION_HOT (R430): The logic junction reaching 115 °C sets JUNCT_HOT and enters the fault log without changing any rate. -/
  | junctionHot (tj : BitVec 9)
  /-- TEMP_CHECK_FAIL (R430): The junction at 135 °C for 10 µs fails the TEMP check, releases TOKEN if enabled and holds the module in reset with THERMAL set. -/
  | tempCheckFail (tj : BitVec 9)
  /-- JUNCTION_COOL (R430): The junction reading below 110 °C clears the hot condition and releases a thermal reset so the module starts again. -/
  | junctionCool (tj : BitVec 9)
  /-- START_SEQUENCE (R435): Reset release runs the start steps: SRAM clear, firmware load, DRAM clear, set apply, REFCLK wait, block enables, lane training and role taking. -/
  | startSequence (straps : BitVec 16) (bad : List (Nat × Option (Fin 36)))
  /-- REFCLK_WAIT_TIMEOUT (R435): REFCLK_OK not reached within 1 s in step 5 fails the start with REFCLK_ABSENT. -/
  | refclkWaitTimeout
  /-- LANE_TRAIN_TIMEOUT (R435): A pair lane still untrained 2 s into step 7 counts as not trained and the start proceeds to role taking. -/
  | laneTrainTimeout
  /-- START_WATCHDOG_EXPIRY (R436): The start watchdog expiring 30 s after reset release without success resets the module as a failed start with START_TIMEOUT. -/
  | startWatchdogExpiry
  /-- RESTART_AFTER_RELEASE (R274): 1 ms after a TOKEN release the module restarts, unless a supply, thermal or brown-out reset holds it. -/
  | restartAfterRelease
  /-- TOKEN_COUNT_CHANGE (R273): The filtered TOKEN net voltage changes the driver count reported in TOKEN_CNT and seen by the gate. -/
  | tokenCountChange (cnt : Fin 5)
  /-- TOKEN_ASSERT (R275): A module in IDLE whose take conditions hold, the count having read 0 for t_q, switches its TOKEN source on. -/
  | tokenAssert
  /-- DOMINO_TAKE (R275): Half 2 receiving half 1's TAKE status block asserts TOKEN within 200 ns. -/
  | dominoTake
  /-- TOKEN_CONFIRM (R274): The count equal to N_EXP for 500 ns moves the gate to HOLD and begins enabling transmitters, fabric origination and output refresh up to t_drive. -/
  | tokenConfirm (drive : Fin 1001)
  /-- TOKEN_CONFIRM_TIMEOUT (R274): No confirmation within 5 µs of assertion switches the source off, sets TOKEN_LINE and at start fails the start. -/
  | tokenConfirmTimeout
  /-- TOKEN_LINE_FAULT (R274): In HOLD a count differing from N_EXP for 1 µs sets TOKEN_LINE without releasing TOKEN. -/
  | tokenLineFault
  /-- VETO_DETECT (R277): A standby reading count 0 for 2 µs while its partner shows HOLD = 1 sets VETO and TOKEN_LINE. -/
  | vetoDetect
  /-- RELEASE (R278): A write of PRD_CTRL.RELEASE in HOLD releases TOKEN within 0.5 µs. -/
  | prdRelease
  /-- WATCHDOG_KICK (R280): A write of PRD_KICK records a kick for its source and restarts the count once every enabled source has kicked. -/
  | watchdogKick (src : Fin 9)
  /-- WATCHDOG_EXPIRY (R280): The release watchdog expiring releases TOKEN if held and clears ALIVE in every role. -/
  | watchdogExpiry
  /-- PRD_WDT_WRITE (R280): A write of PRD_WDT sets the watchdog, and once EN is 1 any changing write is refused with CFG_REJ. -/
  | prdWdtWrite (v : BitVec 32)
  /-- HEARTBEAT_TICK (R283): A write of PRD_HB.TICK advances the heartbeat count sent in status blocks. -/
  | heartbeatTick
  /-- HEARTBEAT_LOSS (R283): The partner's heartbeat unchanged for HB_TO sets HB_LOST, clears PART_HB_OK and lowers redund_cap. -/
  | heartbeatLoss
  /-- STATUS_BLOCK_SEND (R285): Each lane end sends a status block at least every 600 ns and within 50 ns of any change of HOLD. -/
  | statusBlockSend (lane : Lane)
  /-- STATUS_BLOCK_RECEIVE (R285): A received status block updates the partner's HOLD, ALIVE, SYNCED or ready, role and heartbeat. -/
  | statusBlockReceive (lane : Lane) (b : StatusBlock)
  /-- LANE_TRAINED (R271): A pair lane with block lock for 1 ms and a status block received from each end becomes trained. -/
  | laneTrained (lane : Lane)
  /-- LANE_DOWN (R271): A pair lane with no valid block for 0.8 µs goes DOWN, sets ML_DOWN or DL_DOWN and clears TAKE_READY. -/
  | laneDown (lane : Lane)
  /-- PRD_COMMIT (R290): A write of the control instant to PRD_COMMIT queues a COMMIT frame closing the delta and starts the next delta. -/
  | prdCommit (ci : BitVec 32)
  /-- DELTA_FRAME (R291): The standby writes received DELTA words into its journal. -/
  | deltaFrame (f : MirFrame)
  /-- CMDPAGE_FRAME (R291): The standby writes received CMDPAGE words into the inactive command-page bank. -/
  | cmdpageFrame (f : MirFrame)
  /-- BULK_FRAME (R292): The standby journals received BULK words of a synchronising pass like DELTA words. -/
  | bulkFrame (f : MirFrame)
  /-- COMMIT_FRAME (R291): At a received COMMIT the standby checks DSEQ, COUNT and Pip checks, then flips the command page and applies the journal, or discards the delta. -/
  | commitFrame (f : MirFrame) (img : Option Machine.MirImage)
  /-- BULK_SEND (R292): In SYNCING the active unit passes journal and command-page words into the queue while it holds less than 16 KiB. -/
  | bulkSend
  /-- LOAD_FRAME (R289): The standby receives a solver slot's structure words and answers LOAD_CONFIRM once all pass their Pip check. -/
  | loadFrame (f : MirFrame)
  /-- LOAD_CONFIRM_FRAME (R289): The active unit receiving LOAD_CONFIRM lets the solver post OK for the LOAD. -/
  | loadConfirmFrame (f : MirFrame)
  /-- IDENT_FRAME (R333): A received IDENT carrying active and shadow set CRCs sets or clears CFG_DIFF and gates synchronisation and Flip. -/
  | identFrame (lane : Lane) (f : MirFrame)
  /-- SYNC_REQ_FRAME (R292): The active unit receiving SYNC_REQ starts a fresh bulk pass from the first journal region. -/
  | syncReqFrame (f : MirFrame)
  /-- PRD_SYNC_REQ (R292): A write of PRD_CTRL.SYNC_REQ in STANDBY moves the lane to SYNCING and sends SYNC_REQ. -/
  | prdSyncReq
  /-- GNSS_PARTNER_FRAME (R126): Partner time offset and pseudoranges received on the mirror lane feed the partner integrity check. -/
  | gnssPartnerFrame (sweep : BitVec 32) (off : Rat) (prs : List (Nat × Nat))
  /-- NS32_WRAP (R219): The NS32 counter wrapping advances the epoch word in the same tick. -/
  | ns32Wrap
  /-- REFCLK_LOSS (R220): REFCLK absent for 200 ns or out of band over a 10 µs window sets REFCLK_LOSS, switches to the internal oscillator and enters FREE. -/
  | refclkLoss
  /-- REFCLK_RETURN (R220): REFCLK valid for 10 ms sets REFCLK_OK again. -/
  | refclkReturn
  /-- SYNC_EXCHANGE_START (R224): Every SYNC_INT a node with SRC FABRIC or ML sends a DELAY_REQ to its parent and stamps t1. -/
  | syncExchangeStart (t1 : BitVec 34)
  /-- DELAY_REQ (R264): A parent receiving DELAY_REQ stamps t2 and answers with a DELAY_RESP carrying t2, t3, epoch and state. -/
  | delayReq (port : Fin 6) (t2 t3 : BitVec 34)
  /-- DELAY_RESP (R224): A node receiving DELAY_RESP stamps t4, computes delay and offset, and filters or passes the offset to the servo. -/
  | delayResp (port : Fin 6) (t2 t3 t4 : BitVec 34) (epoch : BitVec 32) (pstate : Fin 5) (valid : Bool) (depth : Nat)
  /-- EXCHANGE_MISSING (R225): No valid answer within SYNC_INT counts the exchange as missing. -/
  | exchangeMissing
  /-- PTU_OFFSET_IN (R235): A write of PTU_OFFSET_IN with SRC = HOST commits a software offset to the servo. -/
  | ptuOffsetIn (off t : BitVec 32)
  /-- PPS_IN_EDGE (R231): A PPS_IN edge of the selected polarity is stamped and, with SRC = PPS_IN, gives an offset to the nearest second boundary. -/
  | ppsInEdge (falling : Bool) (t : BitVec 32)
  /-- HOLDOVER_ENTRY (R227): No offset for HOLD_T in LOCKED or SLEW enters HOLDOVER at the held rate and sets HOLDOVER_ENT. -/
  | holdoverEntry
  /-- STEP_NOTICE (R229): A node receiving a step notice from the time root enters STEP_PEND with the same step and boundary. -/
  | stepNotice (delta : BitVec 32) (tb : BitVec 64)
  /-- STEP_APPLY (R229): The counter reaching T_B is loaded with T_B plus the step, setting STEP and filling PTU_STEP. -/
  | stepApply
  /-- SECOND_BOUNDARY (R230): At each second boundary PPS_OUT rises for WIDTH when PPS_EN = 1. -/
  | secondBoundary
  /-- REBASE (R230): A write of PTU_CTRL.REBASE in FREE or HOLDOVER clears BASE so the next GNSS offset sets it. -/
  | rebase
  /-- TSQ_POP (R232): A write of PTU_TSQ_POP removes the head entry of each named port's timestamp queue. -/
  | tsqPop (mask : BitVec 6)
  /-- PORT_BLOCK_LOCK (R249): Block lock held for 1 ms moves a fabric port from DOWN to RESTRICTED and sends EVENT LINK_UP. -/
  | portBlockLock (p : Fin 4)
  /-- PORT_LINK_LOSS (R249): No valid block for 1.0 µs or lost block lock moves a port to DOWN, starts protection and sends EVENT LINK_DOWN. -/
  | portLinkLoss (p : Fin 4)
  /-- GUARD_TRIP (R258): An unterminated frame, excess rate or header errors trip a port to GUARDED, discarding received blocks. -/
  | guardTrip (p : Fin 4) (long : Bool) (kib bad : Nat)
  /-- GUARD_HOLD_EXPIRY (R249): HOLD elapsed in GUARDED moves the port to DOWN and restarts the lane. -/
  | guardHoldExpiry (p : Fin 4)
  /-- FRAME_RECEIVE (R241): A node checks a received frame's header, discards or routes it, forwards cut-through and delivers it locally. -/
  | frameReceive (p : Fin 4) (hdr : WireWord) (words : List WireWord) (ends : Bool)
  /-- FRAME_TRANSMIT_START (R243): An idle egress port starts the highest-priority queued frame, blocking frames with SRC = CID from a non-holder. -/
  | frameTransmitStart (p : Fin 4)
  /-- TX_RING_SUBMIT (R268): A write of ZFB_TX_PTR.TAIL submits descriptors for transmission or is refused with RING_FULL. -/
  | txRingSubmit (tail : Fin 64)
  /-- RX_RING_HEAD (R268): A write of ZFB_RX_PTR.HEAD frees receive-ring entries for the hardware. -/
  | rxRingHead (head : Fin 64)
  /-- ZFB_ROLL_START (R252): A write of ZFB_CTRL.ROLL_START on the TOKEN holder starts Roll call with a new generation. -/
  | zfbRollStart
  /-- PROBE (R252): A node receiving PROBE answers with PRESENT carrying its identity and challenge. -/
  | rollProbe
  /-- PROBE_TIMEOUT (R252): No PRESENT within 1 ms is retried, and after three tries the port is recorded empty. -/
  | probeTimeout
  /-- PRESENT (R252): The coordinator receiving PRESENT records a spare, boundary or foreign link or begins authentication of the node. -/
  | rollPresent
  /-- CHAL (R250): A node receiving CHAL checks the coordinator's proof and answers ANSWER or DENY. -/
  | authChal
  /-- ANSWER (R250): The coordinator receiving ANSWER checks the node's proof and assigns it or counts a CHECK_FAILED. -/
  | authAnswer
  /-- DENY (R252): The coordinator receiving DENY leaves the node unassigned and counts the failure. -/
  | authDeny
  /-- ASSIGN (R252): A node receiving ASSIGN takes a pending ID, domain, UP port and level. -/
  | rollAssign
  /-- TABLE (R252): A node receiving TABLE stores pending routing entries and port roles and acknowledges. -/
  | rollTable
  /-- ACK (R252): The coordinator receiving ACK records that a node has taken a Roll call message. -/
  | rollAck
  /-- OPEN (R249): A port receiving OPEN from the coordinator after authentication moves from RESTRICTED to OPEN. -/
  | portOpen
  /-- ROLL_DONE (R252): A node receiving ROLL_DONE records the activation instant and floods it over the pending tree. -/
  | rollDone
  /-- ROLL_ACTIVATION (R252): At the activation instant every node makes its pending ID, tables and port roles active and clears REVERSED. -/
  | rollActivation
  /-- EVENT_LINK_UP (R254): The coordinator receiving LINK_UP between Roll calls probes and authenticates the node and OPENs or holds the link. -/
  | eventLinkUp
  /-- EVENT_LINK_DOWN (R265): The coordinator receiving LINK_DOWN logs it and marks stations beyond it LOST. -/
  | eventLinkDown
  /-- EVENT_GUARD_TRIP (R265): The coordinator receiving GUARD_TRIP enters it in the fault log. -/
  | eventGuardTrip
  /-- EVENT_NEW_NODE (R265): The coordinator receiving NEW_NODE enters it in the fault log for the next Roll call. -/
  | eventNewNode
  /-- REVERSAL_NOTICE (R256): A node receiving the reversal notice sets REVERSED, reroutes UP traffic and retakes its time parent until a terminal node. -/
  | reversalNotice
  /-- SWEEP_FRAME_SEND (R82): At S + D_n + 250 µs a node sends its sweep frame, with the cell-state payload on update sweeps, to its domain's CID. -/
  | sweepFrameSend
  /-- SWEEP_FRAME_RECEIVE (R259): A group member accepts a new sweep frame, marks it LATE if after DUE, and writes its records into the endpoint table. -/
  | sweepFrameReceive
  /-- RECALL_ISSUE (R261): At S + DUE the TOKEN holder broadcasts a RECALL for missing sweep senders. -/
  | recallIssue (sweep : BitVec 32)
  /-- RECALL_REPEAT (R261): Every RECALL_INT while frames are still missing the recall is repeated up to RECALL_MAX times. -/
  | recallRepeat (sweep : BitVec 32)
  /-- RECALL_RECEIVE (R261): A node in a recalled interval resends every listed sweep it still holds, in sweep order, marked LATE. -/
  | recallReceive
  /-- COMMAND_FRAME_RECEIVE (R263): A target node checks each item of a COMMAND frame, discarding unknown, far-future or repeated items and scheduling the rest. -/
  | commandFrameReceive
  /-- POWER_SETPOINT (R263): A POWER_SETPOINT item passes a string power set-point to the runtime at its EFFECT instant. -/
  | powerSetpoint
  /-- SIGNAL_WRITE (R338): A SIGNAL_WRITE item is accepted for a bound fabric-input signal and taken at the first input copy after EFFECT, or refused with SIG_REJ. -/
  | signalWrite
  /-- WAKE (R263): A WAKE item wakes the cell state engine as R97. -/
  | wakeItem
  /-- COMMAND_ITEM_EFFECT (R263): At an item's EFFECT instant the held item is handed to the runtime as process input. -/
  | commandItemEffect
  /-- CFE_DOWNLINK_SEND (R41): Every 20 µs the logic side sends a command or synchronising frame with the balancing mask and any pending HV-held operation to the front end. -/
  | cfeDownlinkSend
  /-- CFE_COMMAND_FRAME (R44): The front end accepts a valid command frame in sequence, applies its mask and opcode and restarts the silence timer, or discards and counts it. -/
  | cfeCommandFrame (f : CfeDown)
  /-- CFE_SYNC_FRAME (R45): A synchronising frame outside ACTIVE loads the command counter and enters ACTIVE, and in ACTIVE is discarded as SYNC_IN_ACTIVE. -/
  | cfeSyncFrame (f : CfeDown)
  /-- CFE_UPLINK_SEND (R42): Every 64 modulator clocks the front end sends an uplink frame with status, thermistor code and modulator bits. -/
  | cfeUplinkSend (aux : BitVec 16) (mod : List (BitVec 64))
  /-- CFE_UPLINK_RECEIVE (R45): The logic side checks an uplink frame's CRC and echo, confirms HV-held operations and passes the bits to the sample chain. -/
  | cfeUplinkReceive (f : CfeUp) (t : BitVec 32)
  /-- CFE_SILENCE (R46): No accepted command frame for 100 µs opens every balancing switch and enters LINK_DOWN. -/
  | cfeSilence
  /-- CFE_LINK_LOST (R47): No valid uplink frame for 100 µs clears LINK, sets LINK_LOST, marks records BAD and starts synchronising frames. -/
  | cfeLinkLost
  /-- HV_WRITE (R48): A write to an HV-held register updates the shadow and is carried to the front end in a write frame, or only to the shadow while the link is down. -/
  | hvWrite (r : Fin 3) (v : BitVec 32)
  /-- HV_RESEND (R48): An HV-held operation unconfirmed 80 µs after its send instant is sent again in the next frame. -/
  | hvResend
  /-- STACK_RISE (R49): The stack rising above 19 V takes the front end from POR to LINK_DOWN with reset HV-held values and comparators running. -/
  | stackRise
  /-- STACK_FALL (R49): The stack falling below 17 V opens all switches and puts the front end in POR. -/
  | stackFall
  /-- SNOWDROP_AUTO (R49): No frame for 1 s in LINK_DOWN with AUTO = 1 enters SNOWDROP. -/
  | snowdropAuto
  /-- CFE_ENABLE (R63): A write of CFE_CTRL.ENABLE starts synchronising and command frames, or stops sending so the front end falls to LINK_DOWN. -/
  | cfeEnable (on : Bool)
  /-- SNOW_ENTER (R63): A write of CFE_CTRL.SNOW_ENTER in ACTIVE sends the enter-Snowdrop opcode. -/
  | snowEnter
  /-- HIB_ENTER (R63): A write of CFE_CTRL.HIB_ENTER in ACTIVE sends the enter-hibernate opcode. -/
  | hibEnter
  /-- SNOWDROP_CHECK (R58): Every PERIOD seconds in SNOWDROP the front end measures cells and thermistors and compares them with the limits. -/
  | snowdropCheck (cells : List Int) (codes : List Nat)
  /-- SHUNT_WAKE (R59): Shunt voltage above the threshold for 10 ms in SNOWDROP or HIBERNATE asserts WAKE. -/
  | shuntWake
  /-- CELL_COMPARATOR_CHANGE (R39): A cell beyond or back inside its window for 1 ms sets or clears its OV or UV flag. -/
  | cellComparatorChange (ch : Fin 48) (uv on : Bool)
  /-- OT_FLAG_CHANGE (R39): Four consecutive thermistor scans at or below OT_CODE, or above it, set or clear the OT flag. -/
  | otFlagChange (n : Fin 16) (on : Bool)
  /-- BAL_REQ_WRITE (R50): A write of CFE_BAL_REQ sets the balancing requests and restarts the lease. -/
  | balReqWrite (req : BitVec 48)
  /-- BAL_LEASE_EXPIRY (R50): The lease expiring clears CFE_BAL_REQ so the switches open in the next frame. -/
  | balLeaseExpiry
  /-- BAL_PHASE_CHANGE (R51): Each PHASE_LEN × 10 ms the scheduler alternates the even and odd phase masks. -/
  | balPhaseChange
  /-- SWITCH_OVERCURRENT (R53): A balancing switch above 400 mA turns off and stays off until its request is rewritten. -/
  | switchOvercurrent (ch : Fin 48)
  /-- DIE_HOT_CHANGE (R54): The front-end die at 110 °C opens all switches with DIE_HOT, released below 100 °C. -/
  | dieHotChange (hot : Bool)
  /-- MEAS_PAUSE_OPEN (R55): Before T_open of a paused sweep the logic side sends the all-open mask. -/
  | measPauseOpen (sweep : BitVec 32)
  /-- MEAS_PAUSE_CLOSE (R55): From T_close the logic side resumes non-zero masks and applies changes held during the pause. -/
  | measPauseClose
  /-- SCH_RUN (R78): A write of SCH_CTRL.RUN starts or stops record production from the next sweep instant. -/
  | schRun (run : Bool)
  /-- SCH_RESP_SEL_WRITE (R68): A write of SCH_RESP_SEL.NEXT makes a response index pending for the first eligible sweep. -/
  | schRespSelWrite (idx : Fin 16)
  /-- SWEEP_PUBLISH (R70): At S + D_n + 50 µs the chain publishes the 65 sweep records of sweep S with their quality flags. -/
  | sweepPublish
  /-- CSE_RUN (R106): A write of CSE_CTRL.RUN starts the engine in START or stops it to OFF with cell entries BAD. -/
  | cseRun (run : Bool)
  /-- CSE_UPDATE (R82): On every (DIV + 1)-th sweep the engine updates SOC, uncertainty, end flags, state of power and learning for its 48 cells. -/
  | cseUpdate
  /-- HIBERNATE_ENTRY (R96): Current within HIB_I for HIB_T with HIB_EN records state, stops updates and commands the front end to sleep. -/
  | hibernateEntry
  /-- ENGINE_WAKE (R97): WAKE from the front end wakes the engine, restarts the link and widens U for the hibernated span. -/
  | engineWake
  /-- CSE_WAKE_NOW (R97): A write of CSE_CTRL.WAKE_NOW wakes the engine from hibernation. -/
  | cseWakeNow
  /-- REPLACEMENT_CHALLENGE (R104): A module receiving the replacement challenge answers with an HMAC under its device key. -/
  | replacementChallenge (m : ReplMsg)
  /-- GNB_RUN (R127): A write of GNB_CTRL.RUN starts the baseband or returns all channels to IDLE. -/
  | gnbRun (run : Bool)
  /-- GNSS_CLK_LOSS (R109): No GNSS_CLK edge for 1 µs sets CLK_LOSS, clears CLK_OK and moves every enabled channel to SEARCH. -/
  | gnssClkLoss
  /-- GNSS_CLK_RETURN (R109): GNSS_CLK edges returning set CLK_OK so time solutions may be delivered again. -/
  | gnssClkReturn
  /-- INPUT_OVERFLOW (R110): The correlator input buffer overflowing sets IN_OVF and moves every channel to SEARCH. -/
  | inputOverflow
  /-- GNB_CHANNEL_ENABLE (R115): A write of GNB_CHn_CFG.EN queues the channel for search or returns it to IDLE. -/
  | gnbChannelEnable (n : Fin 24) (en : Bool)
  /-- SEARCH_COMPLETE (R115): The search engine finishing a satellite moves the channel to PULL_IN or repeats the search with ACQ_CNT incremented. -/
  | searchComplete (n : Fin 24) (dwells : Fin 4) (bin : Int) (cell : Fin 2046)
  /-- PULL_IN_LOCK (R115): PLL lock held 100 ms moves the channel to TRACK with ADR started. -/
  | pullInLock (n : Fin 24)
  /-- PULL_IN_TIMEOUT (R115): No lock within 1 s returns the channel to SEARCH keeping its hint. -/
  | pullInTimeout (n : Fin 24)
  /-- BIT_SYNC (R115): Twenty bit edges in one position over 100 bits move the channel to BIT_SYNC with 20 ms integration. -/
  | bitSync (n : Fin 24)
  /-- FRAME_SYNC (R117): A preamble with parity recurring 6 s later moves the channel to NAV and resolves the half cycle. -/
  | frameSync (n : Fin 24) (back : Fin 300)
  /-- CYCLE_SLIP (R115): The PLL lock indicator below 0.5 for 20 ms sets SLIP and restarts LOCK_T. -/
  | cycleSlip (n : Fin 24)
  /-- SIGNAL_LOSS (R115): C/N0 below CN0_LOSS for 500 ms returns the channel to SEARCH. -/
  | signalLoss (n : Fin 24)
  /-- NAV_PARITY_LOSS (R115): TLM parity failing in two consecutive subframes returns a NAV channel to BIT_SYNC. -/
  | navParityLoss (n : Fin 24)
  /-- NAV_WORD (R118): A complete navigation word is written to the ring, or dropped with NAV_OVF when the ring is full. -/
  | navWord (n : Fin 24) (w : BitVec 30) (t : BitVec 32)
  /-- CORRELATOR_MS (R113): At the end of each millisecond privileged correlator sums are published in GNB_PCm_CORR. -/
  | correlatorMs (samples : List (BitVec 4)) (t : BitVec 32)
  /-- FIRMWARE_ERROR_DEADLINE (R113): A firmware code error not written within 800 µs is taken as 0 and counted. -/
  | firmwareErrorDeadline (m : Fin 4)
  /-- MEASUREMENT_LATCH (R119): At measurement instant M the baseband latches and interpolates each channel's code and carrier states. -/
  | measurementLatch (cn0 : List (Fin 24 × Nat))
  /-- MEASUREMENT_PUBLISH (R121): At M + 2.0 ms the measurement epoch is published to GNB_MEAS and fusion and partner data sent. -/
  | measurementPublish
  /-- TIME_SOLUTION (R123): Firmware solves position and clock offset per epoch and, if integrity allows, delivers the offset to plant time. -/
  | timeSolution (week : BitVec 10) (sats : List GnbSat)
  /-- FUS_RUN (R128): A write of FUS_CTRL.RUN starts fusion from the next fusion instant or clears its ring, history and tracks. -/
  | fusRun (run : Bool)
  /-- FUS_SAMPLE_COMMIT (R135): A fusion sample arriving from the fabric is stamped and committed to the input ring or refused. -/
  | fusSampleCommit
  /-- FUS_IN_PUSH (R135): A write to offset 0x07C of FUS_IN_PUSH commits the requester's assembled sample. -/
  | fusInPush (who : Requester) (v : BitVec 32)
  /-- FUS_REF_ENABLE (R152): A write of FUS_REFi_CFG.EN enables or disables a slot from the next input cutoff. -/
  | fusRefEnable (r : Fin 34) (en : Bool)
  /-- FUS_UPDATE (R131): At cutoff C_k the engine votes references, applies on-time and late samples, updates tracks and the vessel filter. -/
  | fusUpdate
  /-- FUS_PUBLISH (R129): At F_k + PUB_OFF the output for state instant F_(k−2) is published to FUS_OUT, the helm and the mirror lane. -/
  | fusPublish
  /-- SLV_RING_SUBMIT (R162): A write of SLV_RING_PTR.TAIL submits descriptors, or is refused with RING_FULL. -/
  | slvRingSubmit (tail : Fin 32)
  /-- SLV_REQUEST_RELEASE (R162): A request reaching its release instant becomes eligible and may preempt a lower-priority request. -/
  | slvRequestRelease (num : Nat)
  /-- SLV_LOAD (R157): A LOAD request checks a structure block, computes the signature and moves the slot to READY or EMPTY. -/
  | slvLoad
  /-- SLV_SOLVE (R163): A SOLVE request runs setup, warm or cold start, factorisation and iterations under its deadline. -/
  | slvSolve
  /-- SLV_CLEAR (R156): A CLEAR request frees a slot's workspace and stored solution. -/
  | slvClear
  /-- SLV_SETUP_COMPLETE (R161): At the end of setup the staged change list or input vector replaces the slot's values in one step. -/
  | slvSetupComplete (pip : Fin 3)
  /-- SLV_ITERATION_COMPLETE (R165): A completed interior-point iteration is tested for convergence, infeasibility, the limit and the guard. -/
  | slvIterationComplete (dur : Nat) (pip : Fin 3)
  /-- SLV_DEADLINE (R166): The deadline reached abandons the work and ends with DEADLINE_ITERATE or DEADLINE_PRIOR. -/
  | slvDeadline (num : Nat) (phaseS : Bool) (begun : Fin 5)
  /-- HLM_RUN (R197): A write of HLM_CTRL.RUN runs the admission check and loads the structure, or refuses with ADMIT_REJ. -/
  | hlmRun (run : Bool)
  /-- HLM_LAW_START (R176): At C_k + PUB_OFF the helm checks validity, predicts the state, forms the demand and submits the QP. -/
  | hlmLawStart (remote : List (Nat × Rat × Rat))
  /-- HLM_QP_RESULT (R195): The posted QP result gives new commands or a fallback to previous commands. -/
  | hlmQpResult
  /-- HLM_COMMAND_PUBLISH (R196): At C_k + CMD_OFF thruster commands go to CAN FD slots and string and generator set-points go as fabric commands. -/
  | hlmCommandPublish
  /-- HLM_MODE_SET (R200): A write of HLM_MODE_REQ with SET requests a mode change at the next control instant. -/
  | hlmModeSet (mode : Fin 8)
  /-- HLM_RESTORE (R201): A write of HLM_MODE_REQ with RESTORE sets LOWERED to 0 when no contradiction or ALLOC_FAIL holds. -/
  | hlmRestore
  /-- LOOP_EN_WRITE (R207): A write of LPE_LOOPn_CFG.EN enables a loop after the admission check, or disables it. -/
  | loopEnWrite (n : Fin 64) (en : Bool)
  /-- LOOP_SAMPLE (R206): At L_j the engine snapshots page words and computes each released loop, running supervision and holds. -/
  | loopSample
  /-- LOOP_PUBLISH (R206): At L_j + OUT_OFF each released loop writes its output word. -/
  | loopPublish (ovr : BitVec 64)
  /-- LOOP_OPEN (R212): The OPEN command opens a closed loop at its next instant. -/
  | loopOpen (n : Fin 64)
  /-- LOOP_CLOSE (R212): The CLOSE command closes an open loop with the closing hold, or is refused in FAULT. -/
  | loopClose (n : Fin 64)
  /-- LOOP_COMMIT (R213): The COMMIT command stages the pending coefficients for the loop's next instant. -/
  | loopCommit (n : Fin 64)
  /-- LOOP_CLEAR (R212): The CLEAR command moves a loop from FAULT to OPEN. -/
  | loopClear (n : Fin 64)
  /-- TASK_RELEASE (R339): At R_j a cyclic task instance is released on its core under fixed priority. -/
  | taskRelease (t : Fin 32)
  /-- INPUT_COPY (R339): At I_j the runtime copies the task's input signals with forces into its input image. -/
  | inputCopy (t : Fin 32)
  /-- INSTANCE_COMPLETE (R339): A task instance's code finishing frees the core and releases any latched event. -/
  | instanceComplete (t : Fin 32) (outs : List (BitVec 64)) (ints : List (BitVec 32 × BitVec 64))
  /-- OUTPUT_INSTANT (R339): At O_j the runtime copies the output image with forces and safe states to each binding. -/
  | outputInstant (t : Fin 32)
  /-- EVENT_RELEASE (R340): An event source occurring releases its event task or latches the event. -/
  | eventRelease (t : Fin 32)
  /-- LATCHED_EVENT_RELEASE (R340): A latched event releases its task at the later of completion and the last release plus MIN_SEP. -/
  | latchedEventRelease (t : Fin 32)
  /-- CRT_RUN_WRITE (R350): A write of CRT_CTRL.RUN acts as TASK_CONTROL RUN or STOP. -/
  | crtRunWrite (run : Bool)
  /-- CRT_RESET_WRITE (R342): A write of CRT_CTRL.RESET moves the controller from SAFE_STOP to STOPPED. -/
  | crtResetWrite
  /-- CRT_STN_ACK_WRITE (R349): A write of CRT_STN_ACK acknowledges READY stations. -/
  | crtStnAckWrite (mask : BitVec 64)
  /-- STATION_INPUT_SEND (R348): A station samples its exported inputs at R_j and sends them at R_j + 10 µs. -/
  | stationInputSend (cycle rj : BitVec 32)
  /-- STATION_INPUT_FRAME (R349): The master receiving a station input frame stores its values and moves a LOST station to READY. -/
  | stationInputFrame
  /-- STATION_OUTPUT_FRAME (R348): A station receiving an output frame holds it for its apply instant, ignoring it after WDT_FIRED without REJOIN. -/
  | stationOutputFrame
  /-- STATION_APPLY (R348): At A_j a station applies its valid output frame or counts toward ST_WDT and sets SAFE with WDT_FIRED. -/
  | stationApply
  /-- FIO_ENABLE (R361): A write of FIO_CTRL.ENABLE starts synchronising then command frames to the field side, or stops sending. -/
  | fioEnable (on : Bool)
  /-- FIO_DOWNLINK_SEND (R359): Every 20 µs the logic side sends the field side a frame with the output image and any field-held operation. -/
  | fioDownlinkSend
  /-- FIO_COMMAND_FRAME (R361): The field side accepts a valid command frame in sequence, applies the outputs and restarts its silence timer, or discards it. -/
  | fioCommandFrame (d : FioDown) (rb : BitVec 16)
  /-- FIO_SYNC_FRAME (R361): A synchronising frame in LINK_DOWN loads the sequence and enters ACTIVE, and in ACTIVE is discarded. -/
  | fioSyncFrame (d : FioDown) (rb : BitVec 16)
  /-- FIO_UPLINK_SEND (R360): 2 µs after an accepted downlink frame the field side answers with inputs, read-back, faults and state. -/
  | fioUplinkSend
  /-- FIO_UPLINK_RECEIVE (R360): The logic side checks the uplink frame and updates FIO_IN, FIO_FAULT, FIO_EDGEn and error counts. -/
  | fioUplinkReceive (f : FioUp)
  /-- FIO_SILENCE (R362): No command frame accepted for SILENCE turns every output off and enters LINK_DOWN. -/
  | fioSilence
  /-- FIO_LINK_LOST (R363): No valid uplink for 100 µs clears LINK, sets LINK_LOST, marks inputs BAD and starts synchronising frames. -/
  | fioLinkLost
  /-- FIELD_HELD_WRITE (R364): A write to a field-held register updates the shadow and is carried to the field side in a write frame. -/
  | fieldHeldWrite (r : Fin 33) (v : BitVec 32)
  /-- FIELD_HELD_RESEND (R364): A field-held operation unconfirmed within 100 µs is sent again. -/
  | fieldHeldResend
  /-- FIELD_SUPPLY_LOW (R358): FS_24V below 17 V for 100 µs turns every output off and reports FS_OK = 0. -/
  | fieldSupplyLow
  /-- FIELD_SUPPLY_GOOD (R358): FS_24V above 18 V for 10 ms restores normal inputs and outputs. -/
  | fieldSupplyGood
  /-- FIELD_POR (R362): FS_24V below 12 V resets the field side into POR with all switches off. -/
  | fieldPor
  /-- FIELD_SUPPLY_RISE (R362): FS_24V above 12 V takes the field side from POR to LINK_DOWN with reset field-held values. -/
  | fieldSupplyRise
  /-- INPUT_DEBOUNCE_CHANGE (R353): A raw input held at a new level for DEB samples changes the debounced value and counts it. -/
  | inputDebounceChange (n : Fin 16) (raw : Bool)
  /-- OUTPUT_OVERLOAD (R355): A current limit engaged for OVL_T switches the channel off and latches OVL. -/
  | outputOverload (n : Fin 16)
  /-- OUTPUT_OVER_TEMP (R355): A switch reaching 150 °C switches off and latches OT. -/
  | outputOverTemp (n : Fin 16)
  /-- OUTPUT_RETRY (R355): With RESTART = 1 a latched channel retries after 100 ms or on cooling, clearing the latch if it holds. -/
  | outputRetry (n : Fin 16) (holds : Bool)
  /-- OPEN_WIRE (R355): Load current below or above 8 mA for 20 ms with the output on sets or clears OPEN. -/
  | openWire (n : Fin 16) (on : Bool)
  /-- DISCREPANCY (R356): Read-back differing from the applied state for RB_T sets DISC and may release TOKEN. -/
  | discrepancy (n : Fin 16) (on : Bool)
  /-- CAN_BIT_TIMING_WRITE (R368): A write of bit-timing registers takes effect after the current frame and sends the controller to INTEGRATING. -/
  | canBitTimingWrite (n : Fin 4) (off v : Nat) (inFrame : Bool)
  /-- CAN_INTEGRATION_DONE (R368): Eleven consecutive recessive bits let an integrating controller rejoin the bus. -/
  | canIntegrationDone (n : Fin 4)
  /-- CAN_SLOT_OCCURRENCE (R373): At a slot instant the record enters arbitration as PENDING. -/
  | canSlotOccurrence (n : Fin 4) (k : Fin 64)
  /-- CAN_WINDOW_END (R373): A slot occurrence not started by the window end is MISSED and its record returns to IDLE. -/
  | canWindowEnd (n : Fin 4) (k : Fin 64) (started : Bool)
  /-- CAN_ARBITRATION_LOST (R373): A lost arbitration leaves the record pending for automatic retransmission within its window. -/
  | canArbitrationLost (n : Fin 4) (m : Fin 128)
  /-- CAN_FRAME_COMPLETE (R373): A transmitted frame completing sets CODE = OK and its record IDLE. -/
  | canFrameComplete (n : Fin 4) (m : Fin 128) (sof : BitVec 32)
  /-- CAN_BUS_ERROR (R377): A bus error updates the error counters and may make the controller ERROR_PASSIVE or BUS_OFF. -/
  | canBusError (n : Fin 4) (kind : CanErr) (transmitting dominant : Bool)
  /-- CAN_FRAME_RECEIVE (R376): A valid received frame is filtered and stored in its receive record or discarded with NO_MATCH. -/
  | canFrameReceive (n : Fin 4) (f : CanFrame)
  /-- CAN_TXREQ (R374): A write of CANn_TXREQ makes an event record PENDING or is refused with CMD_REJ. -/
  | canTxreq (n : Fin 4) (m : Fin 128)
  /-- CAN_RECOVER (R378): A write of CANn_CTRL.RECOVER on a BUS_OFF controller enters RECOVERING. -/
  | canRecover (n : Fin 4)
  /-- CAN_RECOVERY_DONE (R378): 128 recessive sequences counted return the controller to ERROR_ACTIVE and re-pend held records. -/
  | canRecoveryDone (n : Fin 4)
  /-- CAN_TX_CLR (R378): A write of CANn_CTRL.TX_CLR returns every held and pending event record to IDLE. -/
  | canTxClr (n : Fin 4)
  /-- SAF_DOWNLINK_SEND (R383): Every 250 µs the logic side sends each safety lane a frame with requests, permit, resets and telegrams. -/
  | safDownlinkSend
  /-- SAF_LANE_FRAME (R383): A lane accepts a valid downlink frame as a refresh and takes its telegrams, or discards it with SX_REJ. -/
  | safLaneFrame (k : Fin 2) (f : SafDown)
  /-- SAF_UPLINK_RECEIVE (R384): The logic side receives a lane's states, pin levels and decision word. -/
  | safUplinkReceive (k : Fin 2) (valid : Bool)
  /-- SAF_REFRESH_SILENCE (R384): No refresh for SX_SIL makes a lane take REQ as 0 and turn its outputs OFF. -/
  | safRefreshSilence (k : Fin 2)
  /-- SAF_LANE_SILENT (R384): No valid uplink from a lane for 1 ms clears its LINK bit and sets SX_SILENT. -/
  | safLaneSilent (k : Fin 2)
  /-- LANE_SAMPLE (R381): Every 250 µs of its own clock a lane samples every input terminal and output pin. -/
  | laneSample (k : Fin 2) (levels : BitVec 8) (pins : SafPins)
  /-- LANE_CYCLE (R382): Every 500 µs a lane evaluates input pairs, functions and output states and exchanges decision words. -/
  | laneCycle (k : Fin 2)
  /-- INPUT_PAIR_DISCREPANCY (R386): DISC_T passing without the pair fully opened latches the input pair in FAULT. -/
  | inputPairDiscrepancy (k : Fin 2) (p : Fin 4)
  /-- FUNCTION_SOURCE_DISCREPANCY (R390): Sources A and B differing beyond TOL for DISC_T put the function in FAULT. -/
  | functionSourceDiscrepancy (k : Fin 2) (n : Fin 8)
  /-- TELEGRAM_ARRIVAL (R387): A telegram arriving in a CAN record or DATA frame is forwarded to both lanes in the next frames. -/
  | telegramArrival (record : Option (Fin 4 × Fin 128))
  /-- TELEGRAM_TIMEOUT (R388): No telegram accepted for a source within TMO makes it invalid and faults functions using it. -/
  | telegramTimeout (k : Fin 2) (m : Fin 13)
  /-- VOTE_SEND (R398): Every 1 ms in pair configuration the logic side sends a vote telegram to the partner. -/
  | voteSend (partner : BitVec 18)
  /-- TEST_PULSE_START (R393): Every TP_INT one switch of an enabled pair is pulsed dark or light. -/
  | testPulseStart (q : Fin 2)
  /-- TEST_PULSE_END (R394): A pulse ending is counted if its read-back passes, or sends the output to FAULT. -/
  | testPulseEnd (q : Fin 2) (mv : Nat)
  /-- TEST_PULSE_OVERDUE (R394): No completed pulse within DIAG_INT sets TP_OVERDUE. -/
  | testPulseOverdue (q : Fin 2) (m : Bool)
  /-- SAF_RESET (R392): A write of SAF_CTRL.RESET sends RESET to the lanes for the named output pair. -/
  | safReset (v : BitVec 2)
  /-- SAF_REQ_WRITE (R392): A write of SAF_REQ sets the run requests carried to the lanes. -/
  | safReqWrite (v : BitVec 2)
  /-- MEMORY_STORE (R410): A store to SRAM or DRAM is made as indivisible whole-word read-merge-writes, refused with a bus error on an uncorrectable word. -/
  | memoryStore (addr : BitVec 64) (data : List Byte)
  /-- MEMORY_READ (R409): A read of Pip-coded memory decodes each word as clean, corrected or uncorrectable. -/
  | memoryRead (who : Requester) (addr : BitVec 64) (len : Fin 64) (code : Bool)
  /-- BUS_ERROR_ACCESS (R402): An access outside the map or a whole-word access to a register block returns a bus error and sets BUS_ERR. -/
  | busErrorAccess (who : Agent) (addr : BitVec 64)
  /-- SCRUB_READ (R413): The scrubber reads each SRAM and DRAM word once per period and corrects or reports it. -/
  | scrubRead (dram : Bool) (code : Bool)
  /-- FLASH_SCRUB (R413): Flash is read-scrubbed once per FLASH_PER and corrected words are reported. -/
  | flashScrub
  /-- DOORBELL (R303): A write of MBX_DOORBELL freezes an IDLE or DONE mailbox's command and queues it, or is refused as busy or wrong path. -/
  | doorbell (mask : BitVec 8)
  /-- MBX_ACK (R303): A write of MBX_ACK returns a DONE mailbox to IDLE. -/
  | mbxAck (mask : BitVec 8)
  /-- HOST_BUFFER_WRITE (R303): A host write to a command buffer stores the data, or is refused with WR_BUSY while BUSY. -/
  | hostBufferWrite (word : Fin 512) (v : BitVec 16)
  /-- MBX_PATH_WRITE (R302): A write of MBX_PATH assigns paths to IDLE mailboxes and refuses others with CFG_REJ. -/
  | mbxPathWrite (v : BitVec 16)
  /-- MAILBOX_FRAME_RECEIVE (R312): A MAILBOX frame delivers a command to its mailbox or is refused for wrong path, busy or length. -/
  | mailboxFrameReceive
  /-- ETHERNET_DATAGRAM (R315): A UDP mailbox datagram is checked for tag and counter and delivered as a command or refused. -/
  | ethernetDatagram (addr : BitVec 128) (port : BitVec 16) (b : List Byte)
  /-- INTERNAL_COMMAND (R302): A helm-core command on the internal path enters its mailbox. -/
  | internalCommand (n : Fin 8) (c : List Byte)
  /-- LONG_COMMAND_COMPLETE (R310): A long flash-writing command finishing in the background writes its response and frees the long-command slot. -/
  | longCommandComplete
  /-- IDENTIFY (R317): IDENTIFY returns UID, firmware, ordering code, role, PAIR_POS and the active set CRC. -/
  | identify
  /-- STATUS (R317): STATUS returns role, gate state, PTU state, Bulb reason and alarm words. -/
  | statusCommand
  /-- RESTART (R317): RESTART responds and restarts the module, refused in HOLD unless FORCE releases TOKEN first. -/
  | restartCommand
  /-- FAULT_LOG_READ (R456): FAULT_LOG_READ returns up to 31 fault-log entries from a first index. -/
  | faultLogRead
  /-- REG_READ (R318): REG_READ returns register words from a register block. -/
  | regRead
  /-- REG_WRITE (R318): REG_WRITE writes exactly one register as a processor write would. -/
  | regWrite
  /-- MEM_READ (R318): MEM_READ returns whole Pip words of memory, or CHECK_FAILED on an uncorrectable word. -/
  | memRead
  /-- MEM_WRITE (R318): MEM_WRITE writes whole Pip words of SRAM or DRAM. -/
  | memWrite
  /-- SHADOW_WRITE (R329): SHADOW_WRITE erases the shadow slot at offset 0 and programs bytes in order. -/
  | shadowWrite
  /-- SHADOW_CHECK (R328): SHADOW_CHECK checks the whole shadow set and moves it to CHECKED, sending IDENT. -/
  | shadowCheck
  /-- FLIP (R330): FLIP schedules the shadow set to become active at an eligible instant, or forces a restart on a start-only difference. -/
  | flip
  /-- FLIP_INSTANT (R332): At F the module applies the new set's registers, loops, sections, plant and task image and exchanges the slots. -/
  | flipInstant
  /-- SET_READ (R329): SET_READ returns bytes of the active or shadow set. -/
  | setRead
  /-- FW_WRITE (R440): FW_WRITE programs a firmware slot in order or stages key-table data. -/
  | fwWrite
  /-- FW_VERIFY (R440): FW_VERIFY checks a firmware slot or the staged key table. -/
  | fwVerify
  /-- FW_SELECT (R440): FW_SELECT verifies and selects a firmware slot or commits the staged key table. -/
  | fwSelect
  /-- BULB_CLEAR (R443): BULB_CLEAR in Bulb mode commits a clean start record and resets. -/
  | bulbClear
  /-- KEY_PROVISION (R320): KEY_PROVISION stores a device or host key when none of that kind is stored. -/
  | keyProvision
  /-- KEY_ERASE (R320): KEY_ERASE erases a key, accepted only in Bulb mode. -/
  | keyErase
  /-- HLM_SETPOINT (R202): HLM_SETPOINT sets the target set-point for the next control instant. -/
  | hlmSetpoint
  /-- HLM_JOYSTICK (R202): HLM_JOYSTICK sets the joystick demand for the next control instant. -/
  | hlmJoystick
  /-- HLM_MODE (R200): HLM_MODE carries a mode request or restore for the next control instant. -/
  | hlmMode
  /-- CSE_RESTORE (R99): CSE_RESTORE loads learned values and cell SOC and enters RUN, or is refused. -/
  | cseRestore
  /-- CSE_SERVICE (R105): CSE_SERVICE decides a REPLACED or SEG_DOUBT segment as cells kept or segment new. -/
  | cseService
  /-- CSE_WAKE (R97): CSE_WAKE wakes the cell state engine from hibernation. -/
  | cseWake
  /-- CSE_COMMIT (R102): CSE_COMMIT makes the coordinator commit a segment's learned record to flash. -/
  | cseCommit
  /-- FUS_PUSH (R135): FUS_PUSH commits one fusion sample to the input ring. -/
  | fusPush
  /-- ROLL_START (R252): ROLL_START starts Roll call on the TOKEN holder. -/
  | rollStart
  /-- ROUTE_READ (R317): ROUTE_READ returns routing entries of a port. -/
  | routeRead
  /-- TASK_CONTROL_RUN (R342): TASK_CONTROL RUN starts the controller with a valid image. -/
  | taskControlRun
  /-- TASK_CONTROL_STOP (R342): TASK_CONTROL STOP stops further releases. -/
  | taskControlStop
  /-- TASK_CONTROL_RESET (R342): TASK_CONTROL RESET moves the controller from SAFE_STOP to STOPPED. -/
  | taskControlReset
  /-- TASK_RUN (R343): TASK_RUN runs a stopped task from its next release. -/
  | taskRun
  /-- TASK_STOP (R343): TASK_STOP stops a task after its instance in progress. -/
  | taskStop
  /-- HOLD (R343): HOLD holds a debug-enabled task from its next release. -/
  | taskHold
  /-- STEP (R343): STEP runs exactly one instance of a held task. -/
  | taskStep
  /-- RESUME (R343): RESUME returns a held task to RUN. -/
  | taskResume
  /-- STN_ACK (R349): STN_ACK acknowledges a READY station so it goes ONLINE. -/
  | stnAck
  /-- TRIGGER (R340): TRIGGER releases an event task whose source is TASK_CONTROL. -/
  | taskTrigger
  /-- FORCE_SET (R344): FORCE_SET forces an input or output signal's value. -/
  | forceSet
  /-- FORCE_CLEAR (R344): FORCE_CLEAR removes one force or all forces. -/
  | forceClear
  /-- CAN_BUSOFF_RETURN (R378): CAN_BUSOFF_RETURN starts bus-off recovery of a controller. -/
  | canBusoffReturn
  /-- PMC_COUNTER_WRAP (R445): A counter wrapping sets its PMC_OVF bit and may raise a sampling interrupt. -/
  | pmcCounterWrap (n : Fin 32) (k : Nat)
  /-- PMC_CNT_WRITE (R447): A write of PMC_CNTn takes effect in one tick and wins over a same-tick increment. -/
  | pmcCntWrite (n : Fin 32) (v : BitVec 32)
  /-- PMC_FREEZE (R449): A write of PMC_CTRL.FREEZE takes a MANUAL snapshot of all counters. -/
  | pmcFreeze
  /-- PERIODIC_SNAPSHOT (R449): At each PER multiple of fabric time a periodic snapshot is taken with DUMP_EN. -/
  | periodicSnapshot (manual : Bool)
  /-- FAULT_LOG_MERGE_EXPIRY (R453): One second after an entry's first occurrence its merge window closes and the entry is written. -/
  | faultLogMergeExpiry
  /-- FAULT_LOG_FLASH_WRITE (R454): Staged entries are programmed to flash within the hourly limit, erasing the oldest block when needed. -/
  | faultLogFlashWrite
  /-- LEARNED_RECORD_COMMIT (R102): When MIN_COMMIT hours have passed since a segment's last commit and LRN_CHG is set, the coordinator commits that segment's learned record to flash on its own. -/
  | learnedRecordCommit (slot : Nat)
  /-- ROLL_CALL_RESTART (R253): After an ABORTED Roll call, the coordinator starts a fresh run once all ports have been stable for 1 s. -/
  | rollCallRestart
  /-- SLV_SOLVE_COMPLETE (R167): A class 0–4 solve finishing its factorisation and triangular solves posts its result record and output and stores the solution. -/
  | slvSolveComplete (pip : Fin 3)
  /-- MIRROR_LANE_TRANSMIT (R287): The mirror or Domino lane transmitter takes the next captured frame from the 64 KiB queue and sends it, releasing a stalled writer. -/
  | mirrorLaneTransmit (lane : Lane)
  /-- DOMINO_LANE_FRAME (R295): A half receives a frame over the Domino lane, such as a forwarded CID frame or mailbox, a Flip order or solver block-column data, and acts on it. -/
  | dominoLaneFrame (m : DominoMsg)
  /-- HOST_ETHERNET_FRAME (R314): A frame received on the host Ethernet port that is not a mailbox datagram is stamped if it is an IEEE 1588 event message, and is answered by firmware if it is ARP, neighbour discovery or ICMP echo. -/
  | hostEthernetFrame (event : Bool) (t : BitVec 32)
  deriving DecidableEq, Repr

end Sys2Proof
end

