-- ==== Sys2Proof/Decode.lean ====
section
/-!
DEFINITION. Decode.lean: commands spelt by words. No row of the opcode table gives bits: the rows are accesses, frames,
pins and instants, and a mailbox command is named by the opcode in its header, which its own row reads (R304, R317;
notes/assumptions/34.md).
-/
namespace Sys2Proof

/-- The command that a word spells by the table's bits: none, since no row of the table has any. -/
def decodeTableWord (_nbits _w : Nat) : Option Instr := none

end Sys2Proof
end

