-- ==== Sys2Proof/Config.lean ====
section
/-!
DEFINITION. Config.lean: what one module fixes for its life, and the free values. Every constant here but shipLen is opaque:
the spec fixes that a value exists and does not say which, so nothing can be proved about it. `free…` constants are
applied to the model's own counter `State.free`, which each use advances (notes/assumptions/3.md).
-/
namespace Sys2Proof.Config

/-- The module's UID (R317, R464, R488): fixed at manufacture, the value is the part's own. -/
opaque uid : BitVec 64

/-- The ordering code that IDENTIFY returns (R317, R488); its two-byte encoding is not stated. -/
opaque orderingCode : BitVec 16

/-- The firmware of boot ROM (R442): the version bytes IDENTIFY returns in Bulb mode are not stated. -/
opaque bootVersion : Nat → BitVec 8

/-- The firmware image shipped in slot 0 (R489): its length in 32-byte words beyond its header, and its bytes (R439). -/
opaque shipWords : Nat
opaque shipByte : Nat → BitVec 8

/-- Length in bytes of the shipped image: a multiple of 32 from 64 to 6,291,456 (R439). -/
def shipLen : Nat := 64 + 32 * (shipWords % 196607)

/-- A natural number the spec leaves open. -/
opaque freeNat : Nat → Nat

/-- A signed number the spec leaves open. -/
opaque freeInt : Nat → Int

/-- A yes or no the spec leaves open. -/
opaque freeBool : Nat → Bool

/-- A byte the spec leaves open, such as one byte of a random challenge (R104, R250). -/
opaque freeByte : Nat → BitVec 8

/-- The CODE under which a fabric event of R265, by its AUX type, is entered in the fault log; not stated. -/
opaque eventCode : Nat → BitVec 8

/-- The segment SLOT of the module at a node ID, and the node ID of a segment SLOT (R101, R405): how the two are tied
together is not stated. -/
opaque slotOfNode : Nat → Nat
opaque nodeOfSlot : Nat → Nat

/-- The solver's numbers that depend on the order of its operations, which is not stated (R153), as binary64 patterns: functions of
all that they depend on, so that equal solves give equal results. Element `k` of a solution, given the problem and the shift; the
residual norm of class 3; max|k_ii| of a matrix that is formed, or the largest column norm (R164); the pivot of column `j`; a row of A
times x; element `k` of the iterate that follows another; of an iterate the relative duality gap, primal and dual residual, and μ
(R165); the operations counted. -/
opaque solveBits : List Nat → Nat → Nat
opaque solveNorm : List Nat → Nat
opaque facScale : List Nat → Nat
opaque facPivot : List Nat → Nat → Nat
opaque qpRow : List (Nat × Nat) → Nat
opaque qpStep : List Nat → List Nat → Nat → Nat
opaque qpGap : List Nat → List Nat → Nat
opaque qpResP : List Nat → List Nat → Nat
opaque qpResD : List Nat → List Nat → Nat
opaque qpMu : List Nat → List Nat → Nat
opaque solveFlops : List Nat → Nat

/-- The 32 bits of STATUS in an uplink frame as a function of what it says (R42); the places of its bits are not stated. -/
opaque cfeStatus : List Nat → Nat

/-- Volts of a modulator at no ones at all, and those that a density of 1 adds (R35, R36), of a cell channel and of the
shunt. -/
opaque cellZero : Rat
opaque cellSpan : Rat
opaque shuntZero : Rat
opaque shuntSpan : Rat

/-- Coefficient m of the stored prototype of response n, 1,024 to a fine sample, from its middle outwards, in 1/s (R65); the
ROM's numbers are not listed. -/
opaque firCoef : Nat → Nat → Rat

/-- Gains of the rate tracker's second-order loop, for its phase and for its period (R71). -/
opaque trkPhase : Rat
opaque trkPeriod : Rat

/-- The carrier replica of a correlator at a phase in cycles (R111): its cosine and sine as whole numbers; their scale is not
stated. -/
opaque carCos : Rat → Int
opaque carSin : Rat → Int

/-- The loops of a GNSS channel (R111), of which the bandwidths are stated and no filter: the carrier loop's Doppler in Hz and what
else it keeps, the code loop's rate in chips/s and what else it keeps, from what each depends on. -/
opaque pllDopp : List Rat → Rat
opaque pllMem : List Rat → Rat
opaque dllRate : List Rat → Rat
opaque dllMem : List Rat → Rat

/-- Bytes of the partner data that a unit sends, as a function of what they say (R126); their layout is not stated. -/
opaque partnerByte : List Int → Nat → BitVec 8

/-- Granules of 64 KiB that a structure takes, as a function of its sizes (R157); the footprint is not stated. -/
opaque slvFoot : List Nat → Nat

/-- Where helm firmware keeps its solver buffers, in 32-byte words from 0x1A40_0000 (R404); not stated. -/
opaque helmArea : Nat

/-- Runge-Kutta steps beyond the fewest that R182 allows. -/
opaque helmSteps : Nat

/-- The vessel filter's numbers that the spec does not state (R137, R138): noise density, start value and start variance of state i,
prediction steps beyond the fewest, and the deviation of a motion reference's yaw rate by that of its roll and pitch. -/
opaque fusNoise : Nat → Rat
opaque fusX0 : Nat → Rat
opaque fusP0 : Nat → Rat
opaque fusSteps : Nat
opaque fusYawSigma : Rat → Rat

/-- The track filter's (R149): turn acceleration noise, deviation of a target heading, start variance of state i. -/
opaque trkTurn : Rat
opaque trkHdgSigma : Rat
opaque trkVar0 : Nat → Rat

/-- Speed and turn rate that the reference model would take (R181), from its present reference, target and limits; the model
holds them to the limits of R181. -/
opaque refSpeed : List Rat → Rat
opaque refTurn : List Rat → Rat

/-- CAN records that helm firmware fills with commands (R175), as record, byte and value, from the control instant and the commands
in 0.1 kN, 0.01° and W; which records and how is not stated. -/
opaque helmCan : List Int → List (Nat × Nat × Nat)

/-- Bytes of the limits that a domain reports to the helm domain (R21), from its strings' limits; the message is not stated. -/
opaque limitByte : List Rat → Nat → BitVec 8
opaque limitAux : BitVec 8

/-- The part of the power asked of a domain that its coordinator gives a string of its own (R21), in W, from that power and the
strings' discharge and charge limits in kW; how is not stated. -/
opaque ownPower : Rat → List (Rat × Rat) → Nat → Rat

/-- The coordinator ID of a domain (R244), as nodes of another domain know it; how is not stated. -/
opaque cidOfDomain : Nat → Nat

end Sys2Proof.Config
end

