-- ==== Sys2Proof/Machine/Bits.lean ====
section
/-!
DEFINITION. Machine/Bits.lean: bit fields of numbers, two's complement, bytes and numbers, the comparison of bare
NS32 instants (R9), rounding and saturation (R8), and the sorted association lists that hold registers and memory.
-/
namespace Sys2Proof.Machine

/-- Bits lo … lo + w − 1 of n. -/
def bits (n lo w : Nat) : Nat := (n >>> lo) % 2 ^ w

/-- Bit k of n. -/
def bit (n k : Nat) : Bool := n.testBit k

/-- A Boolean as 0 or 1. -/
def b2n (b : Bool) : Nat := if b then 1 else 0

/-- n read as a signed number of w bits. -/
def toSigned (w n : Nat) : Int := if n % 2 ^ w < 2 ^ (w - 1) then (n % 2 ^ w : Nat) else (n % 2 ^ w : Nat) - 2 ^ w

/-- The w-bit two's complement pattern of i. -/
def ofSigned (w : Nat) (i : Int) : Nat := (i % 2 ^ w).toNat

/-- i saturated at the limits of a signed format of w bits (R8). -/
def satSigned (w : Nat) (i : Int) : Int := max (-(2 ^ (w - 1))) (min i (2 ^ (w - 1) - 1))

/-- i clamped to lo … hi. -/
def clampI (lo hi i : Int) : Int := max lo (min i hi)

/-- The fraction q clamped to lo … hi. -/
def clampQ (lo hi q : Rat) : Rat := if q < lo then lo else if hi < q then hi else q

/-- Absolute value of a fraction. -/
def absQ (q : Rat) : Rat := if q < 0 then -q else q

/-- q rounded to the nearest whole number, ties away from zero (R8). -/
def roundQ (q : Rat) : Int := if q < 0 then -((-q + 1 / 2).floor) else (q + 1 / 2).floor

/-- n / d rounded to the nearest whole number, ties away from zero, for d > 0 (R8). -/
def roundDiv (n d : Int) : Int := if n < 0 then -((-n * 2 + d) / (2 * d)) else (n * 2 + d) / (2 * d)

/-- Instant b is later than instant a (R9). -/
def later32 (a b : Nat) : Bool :=
  let d := (b + 2 ^ 32 - a % 2 ^ 32) % 2 ^ 32
  1 ≤ d && d ≤ 2147483647

/-- The signed difference b − a of two bare NS32 instants (R9). -/
def diff32 (a b : Nat) : Int := toSigned 32 ((b + 2 ^ 32 - a % 2 ^ 32) % 2 ^ 32)

/-- n as k bytes, least significant first (R6). -/
def bytesOf : Nat → Nat → Bytes
  | 0, _ => []
  | k + 1, n => BitVec.ofNat 8 n :: bytesOf k (n / 256)

/-- The number whose bytes, least significant first, are bs (R6). -/
def natOf : Bytes → Nat
  | [] => 0
  | b :: bs => b.toNat + 256 * natOf bs

/-- k bytes of bs from offset o; bytes beyond the end read 0. -/
def slice (bs : Bytes) (o k : Nat) : Bytes := (List.range k).map fun i => bs.getD (o + i) 0

/-- The little-endian number of k bytes of bs at offset o. -/
def field (bs : Bytes) (o k : Nat) : Nat := natOf (slice bs o k)

/-- bs with its byte k replaced, or bs where it has no such byte. -/
def putAt {α : Type} (l : List α) (k : Nat) (a : α) : List α := l.set k a

/-- Element k of l changed by f. -/
def modAt {α : Type} (l : List α) (k : Nat) (f : α → α) : List α := l.modify k f

/-! ### Sorted association lists -/

/-- The value under key k. -/
def aGet {β : Type} (k : Nat) : List (Nat × β) → Option β
  | [] => none
  | (k', v) :: l => if k' = k then some v else aGet k l

/-- The list without key k. -/
def aDel {β : Type} (k : Nat) : List (Nat × β) → List (Nat × β)
  | [] => []
  | (k', v) :: l => if k' = k then aDel k l else (k', v) :: aDel k l

/-- The list with (k, v) put before the first greater key. -/
def aIns {β : Type} (k : Nat) (v : β) : List (Nat × β) → List (Nat × β)
  | [] => [(k, v)]
  | (k', v') :: l => if k < k' then (k, v) :: (k', v') :: l else (k', v') :: aIns k v l

/-- Key k set to v, where an unlisted key reads as d: an entry equal to d is not listed. -/
def aSet {β : Type} [DecidableEq β] (d : β) (k : Nat) (v : β) (l : List (Nat × β)) : List (Nat × β) :=
  if v = d then aDel k l else aIns k v (aDel k l)

/-- Keys strictly rising. -/
def aSorted {β : Type} : List (Nat × β) → Bool
  | [] => true
  | (k, _) :: l => l.all (fun e => k < e.1) && aSorted l

end Sys2Proof.Machine
end

