-- ==== Sys2Proof/Machine/Hash.lean ====
section
/-!
DEFINITION. Machine/Hash.lean: the checks over bytes that the spec names by their standards: CRC-32 (R306), CRC-64
(R158), CRC-8 of frame headers (R240), HMAC-SHA-256 of FIPS 198-1 and FIPS 180-4 (R104, R250, R315).
-/
namespace Sys2Proof.Machine

/-- One bit of a reflected CRC register with reflected polynomial poly. -/
def crcReflBit (poly : Nat) (r : Nat) : Nat := if r % 2 = 1 then (r / 2) ^^^ poly else r / 2

/-- One byte into a reflected CRC register. -/
def crcReflByte (poly : Nat) (r : Nat) (b : Byte) : Nat :=
  (List.range 8).foldl (fun r _ => crcReflBit poly r) (r ^^^ b.toNat)

/-- CRC-32 of R306: polynomial 0x04C1_1DB7 reflected, initial value and final XOR 0xFFFF_FFFF. -/
def crc32 (bs : Bytes) : Nat := (bs.foldl (crcReflByte 0xEDB88320) 0xFFFFFFFF) ^^^ 0xFFFFFFFF

/-- One bit of a plain CRC register of w bits, most significant bit first. -/
def crcMsbBit (w poly r : Nat) : Nat :=
  if 2 ^ (w - 1) ≤ r then ((r * 2) % 2 ^ w) ^^^ poly else r * 2

/-- One byte into a plain CRC register of w bits. -/
def crcMsbByte (w poly r : Nat) (b : Byte) : Nat :=
  (List.range 8).foldl (fun r _ => crcMsbBit w poly r) (r ^^^ (b.toNat <<< (w - 8)))

/-- The CRC of a safety telegram (R387): polynomial 0xF4AC_FB13, unreflected, initial value seed, final XOR
0xFFFF_FFFF. -/
def crcTel (seed : Nat) (bs : Bytes) : Nat := (bs.foldl (crcMsbByte 32 0xF4ACFB13) seed) ^^^ 0xFFFFFFFF

/-- One bit, in the order of transmission, into the CRC-8 of R43 (polynomial 0x2F). -/
def crc8Bit (r : Nat) (b : Bool) : Nat :=
  if (128 ≤ r) != b then ((2 * r) % 256) ^^^ 0x2F else (2 * r) % 256

/-- CRC-8 of R43 over len bits of n from bit lo, the least significant bit first: initial value 0xFF, final XOR 0xFF. -/
def crc8 (n lo len : Nat) : Nat :=
  ((List.range len).foldl (fun r i => crc8Bit r (n.testBit (lo + i))) 0xFF) ^^^ 0xFF

/-! ### SHA-256 -/

abbrev W32 := BitVec 32

/-- The round constants of FIPS 180-4, the first 32 bits of the fractions of the cube roots of the first 64 primes, as one
number of 2,048 bits: constant 0 in its highest word. -/
def shaKs : Nat :=
  0x428a2f9871374491b5c0fbcfe9b5dba53956c25b59f111f1923f82a4ab1c5ed5d807aa9812835b01243185be550c7dc372be5d7480deb1fe9bdc06a7c19bf174e49b69c1efbe47860fc19dc6240ca1cc2de92c6f4a7484aa5cb0a9dc76f988da983e5152a831c66db00327c8bf597fc7c6e00bf3d5a7914706ca63511429296727b70a852e1b21384d2c6dfc53380d13650a7354766a0abb81c2c92e92722c85a2bfe8a1a81a664bc24b8b70c76c51a3d192e819d6990624f40e3585106aa07019a4c1161e376c082748774c34b0bcb5391c0cb34ed8aa4a5b9cca4f682e6ff3748f82ee78a5636f84c878148cc7020890befffaa4506cebbef9a3f7c67178f2

/-- Round constant t. -/
def shaK (t : Nat) : W32 := BitVec.ofNat 32 (shaKs >>> (32 * (63 - t)))

/-- The initial hash value of FIPS 180-4. -/
def shaInit : List W32 :=
  [0x6a09e667, 0xbb67ae85, 0x3c6ef372, 0xa54ff53a, 0x510e527f, 0x9b05688c, 0x1f83d9ab, 0x5be0cd19]

/-- Four bytes, most significant first. -/
def be32 (bs : Bytes) : W32 := bs.foldl (fun a b => a * 256 + b.setWidth 32) 0

/-- A word as four bytes, most significant first. -/
def be32Bytes (w : W32) : Bytes :=
  [(w >>> 24).setWidth 8, (w >>> 16).setWidth 8, (w >>> 8).setWidth 8, w.setWidth 8]

/-- The message schedule, newest word first. -/
def shaExtend : Nat → List W32 → List W32
  | 0, ws => ws
  | n + 1, ws =>
    let w15 := ws.getD 14 0
    let w2 := ws.getD 1 0
    let s0 := w15.rotateRight 7 ^^^ w15.rotateRight 18 ^^^ (w15 >>> 3)
    let s1 := w2.rotateRight 17 ^^^ w2.rotateRight 19 ^^^ (w2 >>> 10)
    shaExtend n ((ws.getD 15 0 + s0 + ws.getD 6 0 + s1) :: ws)

/-- One round on the working variables a … h. -/
def shaRound (v : List W32) (kw : W32 × W32) : List W32 :=
  let a := v.getD 0 0; let b := v.getD 1 0; let c := v.getD 2 0; let d := v.getD 3 0
  let e := v.getD 4 0; let f := v.getD 5 0; let g := v.getD 6 0; let h := v.getD 7 0
  let s1 := e.rotateRight 6 ^^^ e.rotateRight 11 ^^^ e.rotateRight 25
  let ch := (e &&& f) ^^^ (~~~e &&& g)
  let t1 := h + s1 + ch + kw.1 + kw.2
  let s0 := a.rotateRight 2 ^^^ a.rotateRight 13 ^^^ a.rotateRight 22
  let maj := (a &&& b) ^^^ (a &&& c) ^^^ (b &&& c)
  [t1 + s0 + maj, a, b, c, d + t1, e, f, g]

/-- One 64-byte block. -/
def shaBlock (h : List W32) (blk : Bytes) : List W32 :=
  let w16 := (List.range 16).map fun i => be32 ((blk.drop (4 * i)).take 4)
  let ws := (shaExtend 48 w16.reverse).reverse
  let v := (List.zip ((List.range 64).map shaK) ws).foldl shaRound h
  List.zipWith (· + ·) h v

/-- The message with its padding. -/
def shaPad (m : Bytes) : Bytes :=
  let z := (119 - m.length % 64) % 64
  m ++ [0x80] ++ List.replicate z 0 ++ (bytesOf 8 (8 * m.length)).reverse

/-- n blocks of a padded message. -/
def shaBlocks : Nat → Bytes → List W32 → List W32
  | 0, _, h => h
  | n + 1, m, h => shaBlocks n (m.drop 64) (shaBlock h (m.take 64))

/-- SHA-256 (FIPS 180-4). -/
def sha256 (m : Bytes) : Bytes :=
  let p := shaPad m
  (shaBlocks (p.length / 64) p shaInit).flatMap be32Bytes

/-- HMAC-SHA-256 (FIPS 198-1) under a key of at most 64 bytes. -/
def hmac (key m : Bytes) : Bytes :=
  let k := slice key 0 64
  sha256 (k.map (· ^^^ 0x5C) ++ sha256 (k.map (· ^^^ 0x36) ++ m))

end Sys2Proof.Machine
end

