-- ==== Sys2Proof/Machine/RegMap.lean ====
section
/-!
DEFINITION. Machine/RegMap.lean: the register fields of the seventeen register blocks (R402, R403), each at its
byte address, lowest bit, width, access type (R3), reset value and stated range. One `Fld` per field of the
register tables of spec/; a register that stands in a row of equal registers takes its index.
-/
namespace Sys2Proof.Machine

/-! CFE_CTRL (R63, 02_cell_front_end.md) -/
def CFE_CTRL_ENABLE : Fld := { addr := 0x40000000, lo := 0, width := 1, acc := .rw, rst := 0 }
def CFE_CTRL_SNOW_ENTER : Fld := { addr := 0x40000000, lo := 1, width := 1, acc := .wo, rst := 0 }
def CFE_CTRL_HIB_ENTER : Fld := { addr := 0x40000000, lo := 2, width := 1, acc := .wo, rst := 0 }

/-! CFE_STATUS (R63, 02_cell_front_end.md) -/
def CFE_STATUS_HV_STATE : Fld := { addr := 0x40000004, lo := 0, width := 3, acc := .ro, rst := 0 }
def CFE_STATUS_LINK : Fld := { addr := 0x40000004, lo := 3, width := 1, acc := .ro, rst := 0 }
def CFE_STATUS_HV_PENDING : Fld := { addr := 0x40000004, lo := 4, width := 1, acc := .ro, rst := 0 }
def CFE_STATUS_BAL_STARVED : Fld := { addr := 0x40000004, lo := 5, width := 1, acc := .ro, rst := 0 }
def CFE_STATUS_DIE_HOT : Fld := { addr := 0x40000004, lo := 6, width := 1, acc := .ro, rst := 0 }
def CFE_STATUS_WAKE : Fld := { addr := 0x40000004, lo := 7, width := 1, acc := .ro, rst := 0 }
def CFE_STATUS_PRESENT : Fld := { addr := 0x40000004, lo := 8, width := 1, acc := .ro, rst := 0 }

/-! CFE_ERR (R63, 02_cell_front_end.md) -/
def CFE_ERR_UP_CRC : Fld := { addr := 0x40000008, lo := 0, width := 1, acc := .w1c, rst := 0 }
def CFE_ERR_DOWN_REJ : Fld := { addr := 0x40000008, lo := 1, width := 1, acc := .w1c, rst := 0 }
def CFE_ERR_ADJ_REJ : Fld := { addr := 0x40000008, lo := 2, width := 1, acc := .w1c, rst := 0 }
def CFE_ERR_SYNC_IN_ACTIVE : Fld := { addr := 0x40000008, lo := 3, width := 1, acc := .w1c, rst := 0 }
def CFE_ERR_LINK_LOST : Fld := { addr := 0x40000008, lo := 4, width := 1, acc := .w1c, rst := 0 }
def CFE_ERR_CFG_REJ : Fld := { addr := 0x40000008, lo := 5, width := 1, acc := .w1c, rst := 0 }
def CFE_ERR_HV_MISMATCH : Fld := { addr := 0x40000008, lo := 6, width := 1, acc := .w1c, rst := 0 }
def CFE_ERR_HV_POR : Fld := { addr := 0x40000008, lo := 7, width := 1, acc := .w1c, rst := 0 }
def CFE_ERR_WR_DROPPED : Fld := { addr := 0x40000008, lo := 8, width := 1, acc := .w1c, rst := 0 }
def CFE_ERR_CMD_REJ : Fld := { addr := 0x40000008, lo := 9, width := 1, acc := .w1c, rst := 0 }

/-! CFE_LINK_ERRCNT (R63, 02_cell_front_end.md) -/
def CFE_LINK_ERRCNT_UP_CRC_CNT : Fld := { addr := 0x4000000C, lo := 0, width := 16, acc := .rc, rst := 0 }
def CFE_LINK_ERRCNT_DOWN_REJ_CNT : Fld := { addr := 0x4000000C, lo := 16, width := 16, acc := .rc, rst := 0 }

/-! CFE_BAL_REQ (R63, 02_cell_front_end.md) -/
def CFE_BAL_REQ_REQ : Fld := { addr := 0x40000010, lo := 0, width := 48, acc := .rw, rst := 0 }

/-! CFE_BAL_ACT (R63, 02_cell_front_end.md) -/
def CFE_BAL_ACT_ACT : Fld := { addr := 0x40000018, lo := 0, width := 48, acc := .ro, rst := 0 }

/-! CFE_BAL_CFG (R63, 02_cell_front_end.md) -/
def CFE_BAL_CFG_PHASE_LEN : Fld := { addr := 0x40000020, lo := 0, width := 8, acc := .rw, rst := 10, mn := 1, mx := 255 }
def CFE_BAL_CFG_LEASE : Fld := { addr := 0x40000020, lo := 16, width := 16, acc := .rw, rst := 1000, mn := 1, mx := 65535 }

/-! CFE_MEAS_CFG (R63, 02_cell_front_end.md) -/
def CFE_MEAS_CFG_SETTLE : Fld := { addr := 0x40000024, lo := 0, width := 10, acc := .rw, rst := 200, mn := 50, mx := 1000 }
def CFE_MEAS_CFG_MEAS_DIV : Fld := { addr := 0x40000024, lo := 16, width := 8, acc := .rw, rst := 0 }
def CFE_MEAS_CFG_PAUSE_EN : Fld := { addr := 0x40000024, lo := 31, width := 1, acc := .rw, rst := 1 }

/-! CFE_CELL_LIM (R63, 02_cell_front_end.md) -/
def CFE_CELL_LIM_OV_THR : Fld := { addr := 0x40000028, lo := 0, width := 9, acc := .rw, rst := 225, mn := 0, mx := 300 }
def CFE_CELL_LIM_UV_THR : Fld := { addr := 0x40000028, lo := 16, width := 9, acc := .rw, rst := 200, mn := 0, mx := 350 }

/-! CFE_NTC_LIM (R63, 02_cell_front_end.md) -/
def CFE_NTC_LIM_OT_CODE : Fld := { addr := 0x4000002C, lo := 0, width := 16, acc := .rw, rst := 15052 }
def CFE_NTC_LIM_NTC_EN : Fld := { addr := 0x4000002C, lo := 16, width := 16, acc := .rw, rst := 65535 }

/-! CFE_SNOW_CFG (R63, 02_cell_front_end.md) -/
def CFE_SNOW_CFG_PERIOD : Fld := { addr := 0x40000030, lo := 0, width := 12, acc := .rw, rst := 60, mn := 1, mx := 3600 }
def CFE_SNOW_CFG_AUTO : Fld := { addr := 0x40000030, lo := 12, width := 1, acc := .rw, rst := 1 }
def CFE_SNOW_CFG_WAKE_EVERY : Fld := { addr := 0x40000030, lo := 16, width := 8, acc := .rw, rst := 0 }
def CFE_SNOW_CFG_SHUNT_THR : Fld := { addr := 0x40000030, lo := 24, width := 8, acc := .rw, rst := 8 }

/-! CFE_WAKE_SRC (R63, 02_cell_front_end.md) -/
def CFE_WAKE_SRC_CELL_OV : Fld := { addr := 0x40000034, lo := 0, width := 1, acc := .w1c, rst := 0 }
def CFE_WAKE_SRC_CELL_UV : Fld := { addr := 0x40000034, lo := 1, width := 1, acc := .w1c, rst := 0 }
def CFE_WAKE_SRC_NTC_OT : Fld := { addr := 0x40000034, lo := 2, width := 1, acc := .w1c, rst := 0 }
def CFE_WAKE_SRC_PERIODIC : Fld := { addr := 0x40000034, lo := 3, width := 1, acc := .w1c, rst := 0 }
def CFE_WAKE_SRC_SHUNT : Fld := { addr := 0x40000034, lo := 4, width := 1, acc := .w1c, rst := 0 }
def CFE_WAKE_SRC_FIRST_CH : Fld := { addr := 0x40000034, lo := 8, width := 6, acc := .ro, rst := 0 }

/-! CFE_CMP_OV (R63, 02_cell_front_end.md) -/
def CFE_CMP_OV_OV : Fld := { addr := 0x40000038, lo := 0, width := 48, acc := .ro, rst := 0 }

/-! CFE_CMP_UV (R63, 02_cell_front_end.md) -/
def CFE_CMP_UV_UV : Fld := { addr := 0x40000040, lo := 0, width := 48, acc := .ro, rst := 0 }

/-! CFE_CMP_OT (R63, 02_cell_front_end.md) -/
def CFE_CMP_OT_OT : Fld := { addr := 0x40000048, lo := 0, width := 16, acc := .ro, rst := 0 }
def CFE_CMP_OT_FAULT : Fld := { addr := 0x40000048, lo := 16, width := 16, acc := .ro, rst := 0 }

/-! SCH_CTRL (R78, 03_sample_chain.md) -/
def SCH_CTRL_RUN : Fld := { addr := 0x40010000, lo := 0, width := 1, acc := .rw, rst := 0 }

/-! SCH_STATUS (R78, 03_sample_chain.md) -/
def SCH_STATUS_LOCK : Fld := { addr := 0x40010004, lo := 0, width := 1, acc := .ro, rst := 0 }
def SCH_STATUS_RESP_PEND : Fld := { addr := 0x40010004, lo := 1, width := 1, acc := .ro, rst := 0 }
def SCH_STATUS_RESP_ACT : Fld := { addr := 0x40010004, lo := 4, width := 4, acc := .ro, rst := 0 }

/-! SCH_ERR (R78, 03_sample_chain.md) -/
def SCH_ERR_UNLOCK : Fld := { addr := 0x40010008, lo := 0, width := 1, acc := .w1c, rst := 0 }
def SCH_ERR_SWEEP_SKIP : Fld := { addr := 0x40010008, lo := 1, width := 1, acc := .w1c, rst := 0 }
def SCH_ERR_SWEEP_HELD : Fld := { addr := 0x40010008, lo := 2, width := 1, acc := .w1c, rst := 0 }
def SCH_ERR_CFG_REJ : Fld := { addr := 0x40010008, lo := 3, width := 1, acc := .w1c, rst := 0 }
def SCH_ERR_CLIP : Fld := { addr := 0x40010008, lo := 4, width := 1, acc := .w1c, rst := 0 }

/-! SCH_GRID_PERIOD (R78, 03_sample_chain.md) -/
def SCH_GRID_PERIOD_PERIOD : Fld := { addr := 0x4001000C, lo := 0, width := 20, acc := .rw, rst := 10000, mn := 250, mx := 1000000 }

/-! SCH_GRID_ORIGIN (R78, 03_sample_chain.md) -/
def SCH_GRID_ORIGIN_NS32 : Fld := { addr := 0x40010010, lo := 0, width := 32, acc := .rw, rst := 0 }
def SCH_GRID_ORIGIN_EPOCH : Fld := { addr := 0x40010010, lo := 32, width := 32, acc := .rw, rst := 0 }

/-! SCH_RESP_SEL (R78, 03_sample_chain.md) -/
def SCH_RESP_SEL_NEXT : Fld := { addr := 0x40010018, lo := 0, width := 4, acc := .rw, rst := 0 }

/-! SCH_RESP_EFF (R78, 03_sample_chain.md) -/
def SCH_RESP_EFF_SWEEP : Fld := { addr := 0x4001001C, lo := 0, width := 32, acc := .ro, rst := 0 }

/-! SCH_SWEEP_ID (R78, 03_sample_chain.md) -/
def SCH_SWEEP_ID_ID : Fld := { addr := 0x40010020, lo := 0, width := 32, acc := .ro, rst := 0 }

/-! SCH_TRK (R78, 03_sample_chain.md) -/
def SCH_TRK_RATE : Fld := { addr := 0x40010024, lo := 0, width := 16, acc := .ro, rst := 0 }
def SCH_TRK_RESID : Fld := { addr := 0x40010024, lo := 16, width := 16, acc := .ro, rst := 0 }

/-! SCH_QUAL_CNT (R78, 03_sample_chain.md) -/
def SCH_QUAL_CNT_COARSE_CNT : Fld := { addr := 0x40010028, lo := 0, width := 16, acc := .rc, rst := 0 }
def SCH_QUAL_CNT_BAD_CNT : Fld := { addr := 0x40010028, lo := 16, width := 16, acc := .rc, rst := 0 }

/-! SCH_FAST (R78, 03_sample_chain.md) -/
def SCH_FAST_VALUE (n : Nat) : Fld := { addr := 0x40010100 + 8 * n, lo := 0, width := 32, acc := .ro, rst := 2147483648 }
def SCH_FAST_T (n : Nat) : Fld := { addr := 0x40010100 + 8 * n, lo := 32, width := 32, acc := .ro, rst := 0 }

/-! CSE_CTRL (R107, 04_cell_state.md) -/
def CSE_CTRL_RUN : Fld := { addr := 0x40020000, lo := 0, width := 1, acc := .rw, rst := 0 }
def CSE_CTRL_LEARN_EN : Fld := { addr := 0x40020000, lo := 1, width := 1, acc := .rw, rst := 1 }
def CSE_CTRL_HIB_EN : Fld := { addr := 0x40020000, lo := 2, width := 1, acc := .rw, rst := 0 }
def CSE_CTRL_FE_MODE : Fld := { addr := 0x40020000, lo := 3, width := 1, acc := .rw, rst := 0 }
def CSE_CTRL_CHG_POS : Fld := { addr := 0x40020000, lo := 4, width := 1, acc := .rw, rst := 1 }
def CSE_CTRL_WAKE_NOW : Fld := { addr := 0x40020000, lo := 5, width := 1, acc := .wo, rst := 0 }
def CSE_CTRL_DIV : Fld := { addr := 0x40020000, lo := 8, width := 8, acc := .rw, rst := 0 }

/-! CSE_STATUS (R107, 04_cell_state.md) -/
def CSE_STATUS_STATE : Fld := { addr := 0x40020004, lo := 0, width := 3, acc := .ro, rst := 0 }
def CSE_STATUS_REST_REQ : Fld := { addr := 0x40020004, lo := 3, width := 1, acc := .ro, rst := 0 }
def CSE_STATUS_STARVED : Fld := { addr := 0x40020004, lo := 4, width := 1, acc := .ro, rst := 0 }
def CSE_STATUS_LRN_CHG : Fld := { addr := 0x40020004, lo := 5, width := 1, acc := .ro, rst := 0 }
def CSE_STATUS_SEG_DOUBT : Fld := { addr := 0x40020004, lo := 6, width := 1, acc := .ro, rst := 0 }
def CSE_STATUS_EOC_ANY : Fld := { addr := 0x40020004, lo := 7, width := 1, acc := .ro, rst := 0 }
def CSE_STATUS_EOD_ANY : Fld := { addr := 0x40020004, lo := 8, width := 1, acc := .ro, rst := 0 }
def CSE_STATUS_WORST_CELL : Fld := { addr := 0x40020004, lo := 16, width := 6, acc := .ro, rst := 0 }

/-! CSE_ERR (R107, 04_cell_state.md) -/
def CSE_ERR_CFG_REJ : Fld := { addr := 0x40020008, lo := 0, width := 1, acc := .w1c, rst := 0 }
def CSE_ERR_SOC_JUMP : Fld := { addr := 0x40020008, lo := 1, width := 1, acc := .w1c, rst := 0 }
def CSE_ERR_CAP_REJ : Fld := { addr := 0x40020008, lo := 2, width := 1, acc := .w1c, rst := 0 }
def CSE_ERR_TEMP_SUB : Fld := { addr := 0x40020008, lo := 3, width := 1, acc := .w1c, rst := 0 }
def CSE_ERR_COMP_CAP : Fld := { addr := 0x40020008, lo := 4, width := 1, acc := .w1c, rst := 0 }
def CSE_ERR_REC_NONE : Fld := { addr := 0x40020008, lo := 5, width := 1, acc := .w1c, rst := 0 }
def CSE_ERR_AUTH_FAIL : Fld := { addr := 0x40020008, lo := 6, width := 1, acc := .w1c, rst := 0 }
def CSE_ERR_GAP : Fld := { addr := 0x40020008, lo := 7, width := 1, acc := .w1c, rst := 0 }

/-! CSE_SHUNT_CFG (R107, 04_cell_state.md) -/
def CSE_SHUNT_CFG_RSH : Fld := { addr := 0x4002000C, lo := 0, width := 32, acc := .rw, rst := 100000, mn := 10000, mx := 100000000 }

/-! CSE_REST_CFG (R107, 04_cell_state.md) -/
def CSE_REST_CFG_REST_I : Fld := { addr := 0x40020010, lo := 0, width := 16, acc := .rw, rst := 10, mn := 1, mx := 65535 }
def CSE_REST_CFG_REST_FULL : Fld := { addr := 0x40020010, lo := 16, width := 16, acc := .rw, rst := 30, mn := 1, mx := 1440 }

/-! CSE_RLX_CFG (R107, 04_cell_state.md) -/
def CSE_RLX_CFG_RLX_MIN : Fld := { addr := 0x40020014, lo := 0, width := 8, acc := .rw, rst := 60, mn := 10, mx := 255 }
def CSE_RLX_CFG_RLX_REQ_T : Fld := { addr := 0x40020014, lo := 16, width := 16, acc := .rw, rst := 120, mn := 10, mx := 3600 }

/-! CSE_UNC_CFG (R107, 04_cell_state.md) -/
def CSE_UNC_CFG_U_REQ : Fld := { addr := 0x40020018, lo := 0, width := 16, acc := .rw, rst := 300 }
def CSE_UNC_CFG_U_LIM : Fld := { addr := 0x40020018, lo := 16, width := 16, acc := .rw, rst := 500 }

/-! CSE_ERR_CFG (R107, 04_cell_state.md) -/
def CSE_ERR_CFG_CNT_ERR : Fld := { addr := 0x4002001C, lo := 0, width := 16, acc := .rw, rst := 3000 }
def CSE_ERR_CFG_I_GAP : Fld := { addr := 0x4002001C, lo := 16, width := 16, acc := .rw, rst := 4000, mn := 1, mx := 65535 }

/-! CSE_SOP_CFG (R107, 04_cell_state.md) -/
def CSE_SOP_CFG_HOR : Fld := { addr := 0x40020020, lo := 0, width := 8, acc := .rw, rst := 10, mn := 1, mx := 60 }
def CSE_SOP_CFG_DERATE : Fld := { addr := 0x40020020, lo := 8, width := 8, acc := .rw, rst := 128, mn := 1, mx := 255 }

/-! CSE_END_CFG (R107, 04_cell_state.md) -/
def CSE_END_CFG_COMP_MAX : Fld := { addr := 0x40020024, lo := 0, width := 10, acc := .rw, rst := 200, mn := 0, mx := 1000 }
def CSE_END_CFG_END_PERS : Fld := { addr := 0x40020024, lo := 16, width := 8, acc := .rw, rst := 100, mn := 1, mx := 255 }
def CSE_END_CFG_END_HYST : Fld := { addr := 0x40020024, lo := 24, width := 8, acc := .rw, rst := 20, mn := 1, mx := 255 }

/-! CSE_HIB_CFG (R107, 04_cell_state.md) -/
def CSE_HIB_CFG_HIB_I : Fld := { addr := 0x40020028, lo := 0, width := 16, acc := .rw, rst := 5, mn := 1, mx := 65535 }
def CSE_HIB_CFG_HIB_T : Fld := { addr := 0x40020028, lo := 16, width := 16, acc := .rw, rst := 120, mn := 1, mx := 65535 }

/-! CSE_LRN_CFG (R107, 04_cell_state.md) -/
def CSE_LRN_CFG_ANCHOR_U : Fld := { addr := 0x4002002C, lo := 0, width := 8, acc := .rw, rst := 100, mn := 10, mx := 255 }
def CSE_LRN_CFG_DSOC_MIN : Fld := { addr := 0x4002002C, lo := 8, width := 8, acc := .rw, rst := 40, mn := 10, mx := 90 }
def CSE_LRN_CFG_MIN_COMMIT : Fld := { addr := 0x4002002C, lo := 16, width := 8, acc := .rw, rst := 24, mn := 6, mx := 255 }

/-! CSE_BAL_RES (R107, 04_cell_state.md) -/
def CSE_BAL_RES_RBAL : Fld := { addr := 0x40020030, lo := 0, width := 16, acc := .rw, rst := 220, mn := 1, mx := 65535 }

/-! CSE_NTC_CFG (R107, 04_cell_state.md) -/
def CSE_NTC_CFG_R25 : Fld := { addr := 0x40020034, lo := 0, width := 16, acc := .rw, rst := 1000, mn := 1, mx := 65535 }
def CSE_NTC_CFG_BETA : Fld := { addr := 0x40020034, lo := 16, width := 16, acc := .rw, rst := 3435, mn := 1000, mx := 10000 }

/-! CSE_TMAP (R107, 04_cell_state.md) -/
def CSE_TMAP_TS (n : Nat) (j : Nat) : Fld := { addr := 0x40020038 + 4 * n, lo := 4*j, width := 4, acc := .rw, rst := (8*n+j)/3 }

/-! CSE_MOD_SOP (R107, 04_cell_state.md) -/
def CSE_MOD_SOP_ICHG : Fld := { addr := 0x40020050, lo := 0, width := 16, acc := .ro, rst := 0 }
def CSE_MOD_SOP_IDIS : Fld := { addr := 0x40020050, lo := 16, width := 16, acc := .ro, rst := 0 }
def CSE_MOD_SOP_PCHG : Fld := { addr := 0x40020050, lo := 32, width := 16, acc := .ro, rst := 0 }
def CSE_MOD_SOP_PDIS : Fld := { addr := 0x40020050, lo := 48, width := 16, acc := .ro, rst := 0 }

/-! CSE_UMAX (R107, 04_cell_state.md) -/
def CSE_UMAX_U_MAX : Fld := { addr := 0x40020058, lo := 0, width := 16, acc := .ro, rst := 5000 }
def CSE_UMAX_CELL : Fld := { addr := 0x40020058, lo := 16, width := 6, acc := .ro, rst := 0 }

/-! CSE_RLX_CNT (R107, 04_cell_state.md) -/
def CSE_RLX_CNT_USED : Fld := { addr := 0x4002005C, lo := 0, width := 16, acc := .rc, rst := 0 }
def CSE_RLX_CNT_SHORT : Fld := { addr := 0x4002005C, lo := 16, width := 16, acc := .rc, rst := 0 }

/-! CSE_CELL (R82, 04_cell_state.md) -/
def CSE_CELL_SOC (n : Nat) : Fld := { addr := 0x40020400 + 16 * n, lo := 0, width := 16, acc := .ro, rst := 0 }
def CSE_CELL_U (n : Nat) : Fld := { addr := 0x40020400 + 16 * n, lo := 16, width := 16, acc := .ro, rst := 0 }
def CSE_CELL_CAP (n : Nat) : Fld := { addr := 0x40020400 + 16 * n, lo := 32, width := 16, acc := .ro, rst := 0 }
def CSE_CELL_R0 (n : Nat) : Fld := { addr := 0x40020400 + 16 * n, lo := 48, width := 16, acc := .ro, rst := 0 }
def CSE_CELL_TEMP (n : Nat) : Fld := { addr := 0x40020400 + 16 * n, lo := 64, width := 16, acc := .ro, rst := 0 }
def CSE_CELL_ICHG (n : Nat) : Fld := { addr := 0x40020400 + 16 * n, lo := 80, width := 16, acc := .ro, rst := 0 }
def CSE_CELL_IDIS (n : Nat) : Fld := { addr := 0x40020400 + 16 * n, lo := 96, width := 16, acc := .ro, rst := 0 }
def CSE_CELL_FLAGS (n : Nat) : Fld := { addr := 0x40020400 + 16 * n, lo := 112, width := 16, acc := .ro, rst := 128 }

/-! GNB_CTRL (R127, 05_gnss_baseband.md) -/
def GNB_CTRL_RUN : Fld := { addr := 0x40030000, lo := 0, width := 1, acc := .rw, rst := 0 }
def GNB_CTRL_TSOL_EN : Fld := { addr := 0x40030000, lo := 1, width := 1, acc := .rw, rst := 1 }

/-! GNB_STATUS (R127, 05_gnss_baseband.md) -/
def GNB_STATUS_CLK_OK : Fld := { addr := 0x40030004, lo := 0, width := 1, acc := .ro, rst := 0 }
def GNB_STATUS_TSOL_VALID : Fld := { addr := 0x40030004, lo := 1, width := 1, acc := .ro, rst := 0 }
def GNB_STATUS_INTEG_OK : Fld := { addr := 0x40030004, lo := 2, width := 1, acc := .ro, rst := 0 }
def GNB_STATUS_N_VALID : Fld := { addr := 0x40030004, lo := 3, width := 5, acc := .ro, rst := 0 }
def GNB_STATUS_CLK_JUMP : Fld := { addr := 0x40030004, lo := 8, width := 1, acc := .ro, rst := 0 }
def GNB_STATUS_CN0_UNIFORM : Fld := { addr := 0x40030004, lo := 9, width := 1, acc := .ro, rst := 0 }
def GNB_STATUS_PARTNER_DIFF : Fld := { addr := 0x40030004, lo := 10, width := 1, acc := .ro, rst := 0 }
def GNB_STATUS_PARTNER_OK : Fld := { addr := 0x40030004, lo := 11, width := 1, acc := .ro, rst := 0 }

/-! GNB_ERR (R127, 05_gnss_baseband.md) -/
def GNB_ERR_CFG_REJ : Fld := { addr := 0x40030008, lo := 0, width := 1, acc := .w1c, rst := 0 }
def GNB_ERR_IN_OVF : Fld := { addr := 0x40030008, lo := 1, width := 1, acc := .w1c, rst := 0 }
def GNB_ERR_CLK_LOSS : Fld := { addr := 0x40030008, lo := 2, width := 1, acc := .w1c, rst := 0 }
def GNB_ERR_NAV_OVF : Fld := { addr := 0x40030008, lo := 3, width := 1, acc := .w1c, rst := 0 }
def GNB_ERR_INTEG_FAIL : Fld := { addr := 0x40030008, lo := 4, width := 1, acc := .w1c, rst := 0 }
def GNB_ERR_CLK_JUMP : Fld := { addr := 0x40030008, lo := 5, width := 1, acc := .w1c, rst := 0 }
def GNB_ERR_PARTNER_DIFF : Fld := { addr := 0x40030008, lo := 6, width := 1, acc := .w1c, rst := 0 }
def GNB_ERR_SLIP : Fld := { addr := 0x40030008, lo := 7, width := 1, acc := .w1c, rst := 0 }
def GNB_ERR_CN0_UNIFORM : Fld := { addr := 0x40030008, lo := 8, width := 1, acc := .w1c, rst := 0 }

/-! GNB_IF_CFG (R127, 05_gnss_baseband.md) -/
def GNB_IF_CFG_IF_HZ : Fld := { addr := 0x4003000C, lo := 0, width := 24, acc := .rw, rst := 4092000, mn := 0, mx := 8184000 }
def GNB_IF_CFG_INV : Fld := { addr := 0x4003000C, lo := 24, width := 1, acc := .rw, rst := 0 }
def GNB_IF_CFG_IQ_SWAP : Fld := { addr := 0x4003000C, lo := 25, width := 1, acc := .rw, rst := 0 }
def GNB_IF_CFG_REAL : Fld := { addr := 0x4003000C, lo := 26, width := 1, acc := .rw, rst := 0 }

/-! GNB_MEAS_CFG (R127, 05_gnss_baseband.md) -/
def GNB_MEAS_CFG_MDIV : Fld := { addr := 0x40030010, lo := 0, width := 8, acc := .rw, rst := 9 }
def GNB_MEAS_CFG_DLL_BW : Fld := { addr := 0x40030010, lo := 8, width := 8, acc := .rw, rst := 50, mn := 5, mx := 200 }
def GNB_MEAS_CFG_PLL_BW : Fld := { addr := 0x40030010, lo := 16, width := 8, acc := .rw, rst := 15, mn := 5, mx := 40 }

/-! GNB_ACQ_CFG (R127, 05_gnss_baseband.md) -/
def GNB_ACQ_CFG_DOPP_WIN : Fld := { addr := 0x40030014, lo := 0, width := 8, acc := .rw, rst := 10, mn := 1, mx := 20 }
def GNB_ACQ_CFG_CN0_LOSS : Fld := { addr := 0x40030014, lo := 8, width := 8, acc := .rw, rst := 26, mn := 20, mx := 40 }

/-! GNB_INTEG_CFG (R127, 05_gnss_baseband.md) -/
def GNB_INTEG_CFG_CLK_THR : Fld := { addr := 0x40030018, lo := 0, width := 8, acc := .rw, rst := 30, mn := 1, mx := 255 }
def GNB_INTEG_CFG_CLK_CONF : Fld := { addr := 0x40030018, lo := 8, width := 8, acc := .rw, rst := 10, mn := 1, mx := 255 }
def GNB_INTEG_CFG_CN0_SPREAD : Fld := { addr := 0x40030018, lo := 16, width := 8, acc := .rw, rst := 15 }
def GNB_INTEG_CFG_CN0_MAX : Fld := { addr := 0x40030018, lo := 24, width := 8, acc := .rw, rst := 55, mn := 45, mx := 70 }

/-! GNB_PARTNER_CFG (R127, 05_gnss_baseband.md) -/
def GNB_PARTNER_CFG_PART_THR : Fld := { addr := 0x4003001C, lo := 0, width := 16, acc := .rw, rst := 100, mn := 10, mx := 10000 }
def GNB_PARTNER_CFG_PART_EN : Fld := { addr := 0x4003001C, lo := 16, width := 1, acc := .rw, rst := 1 }

/-! GNB_DELAY (R127, 05_gnss_baseband.md) -/
def GNB_DELAY_DLY : Fld := { addr := 0x40030020, lo := 0, width := 16, acc := .rw, rst := 0 }

/-! GNB_NAV_PTR (R127, 05_gnss_baseband.md) -/
def GNB_NAV_PTR_WR : Fld := { addr := 0x40030024, lo := 0, width := 8, acc := .ro, rst := 0 }
def GNB_NAV_PTR_RD : Fld := { addr := 0x40030024, lo := 8, width := 8, acc := .rw, rst := 0 }
def GNB_NAV_PTR_DROP_CNT : Fld := { addr := 0x40030024, lo := 16, width := 16, acc := .rc, rst := 0 }

/-! GNB_TSOL (R127, 05_gnss_baseband.md) -/
def GNB_TSOL_NS32 : Fld := { addr := 0x40030030, lo := 0, width := 32, acc := .ro, rst := 0 }
def GNB_TSOL_EPOCH : Fld := { addr := 0x40030030, lo := 32, width := 32, acc := .ro, rst := 0 }
def GNB_TSOL_TOW_NS : Fld := { addr := 0x40030030, lo := 64, width := 50, acc := .ro, rst := 0 }
def GNB_TSOL_WEEK : Fld := { addr := 0x40030030, lo := 114, width := 10, acc := .ro, rst := 0 }
def GNB_TSOL_VALID : Fld := { addr := 0x40030030, lo := 124, width := 1, acc := .ro, rst := 0 }

/-! GNB_PPS (R127, 05_gnss_baseband.md) -/
def GNB_PPS_NS32 : Fld := { addr := 0x40030040, lo := 0, width := 32, acc := .ro, rst := 0 }
def GNB_PPS_TOW_S : Fld := { addr := 0x40030040, lo := 32, width := 20, acc := .ro, rst := 0 }
def GNB_PPS_VALID : Fld := { addr := 0x40030040, lo := 52, width := 1, acc := .ro, rst := 0 }

/-! GNB_CH_CFG (R127, 05_gnss_baseband.md) -/
def GNB_CH_CFG_PRN (n : Nat) : Fld := { addr := 0x40030100 + 4 * n, lo := 0, width := 6, acc := .rw, rst := 0, mn := 0, mx := 32 }
def GNB_CH_CFG_EN (n : Nat) : Fld := { addr := 0x40030100 + 4 * n, lo := 6, width := 1, acc := .rw, rst := 0 }
def GNB_CH_CFG_SPACING (n : Nat) : Fld := { addr := 0x40030100 + 4 * n, lo := 8, width := 7, acc := .rw, rst := 100, mn := 5, mx := 100 }
def GNB_CH_CFG_DISC (n : Nat) : Fld := { addr := 0x40030100 + 4 * n, lo := 16, width := 2, acc := .rw, rst := 0 }
def GNB_CH_CFG_DOPP_HINT (n : Nat) : Fld := { addr := 0x40030100 + 4 * n, lo := 18, width := 14, acc := .rw, rst := 0 }

/-! GNB_CH_STAT (R127, 05_gnss_baseband.md) -/
def GNB_CH_STAT_STATE (n : Nat) : Fld := { addr := 0x40030180 + 4 * n, lo := 0, width := 3, acc := .ro, rst := 0 }
def GNB_CH_STAT_SLIP_CNT (n : Nat) : Fld := { addr := 0x40030180 + 4 * n, lo := 8, width := 8, acc := .ro, rst := 0 }
def GNB_CH_STAT_CN0 (n : Nat) : Fld := { addr := 0x40030180 + 4 * n, lo := 16, width := 8, acc := .ro, rst := 0 }
def GNB_CH_STAT_ACQ_CNT (n : Nat) : Fld := { addr := 0x40030180 + 4 * n, lo := 24, width := 8, acc := .rc, rst := 0 }

/-! GNB_PC_OFF (R127, 05_gnss_baseband.md) -/
def GNB_PC_OFF_OFF (n : Nat) (j : Nat) : Fld := { addr := 0x40030200 + 16 * n, lo := 16*j, width := 16, acc := .rw, rst := if j % 2 = 0 then 0xFFF6 else 0x000A, mn := -150, mx := 150, sgn := true }

/-! GNB_PC_CORR (R127, 05_gnss_baseband.md) -/
def GNB_PC_CORR_SUMS (n : Nat) (j : Nat) : Fld := { addr := 0x40030400 + 128 * n, lo := 32*j, width := 32, acc := .ro, rst := 0 }
def GNB_PC_CORR_T (n : Nat) : Fld := { addr := 0x40030400 + 128 * n, lo := 704, width := 32, acc := .ro, rst := 0 }
def GNB_PC_CORR_SEQ (n : Nat) : Fld := { addr := 0x40030400 + 128 * n, lo := 736, width := 16, acc := .ro, rst := 0 }
def GNB_PC_CORR_LATE (n : Nat) : Fld := { addr := 0x40030400 + 128 * n, lo := 752, width := 16, acc := .ro, rst := 0 }
def GNB_PC_CORR_ERR_IN (n : Nat) : Fld := { addr := 0x40030400 + 128 * n, lo := 768, width := 32, acc := .wo, rst := 0 }

/-! GNB_MEAS (R121, 05_gnss_baseband.md) -/
def GNB_MEAS_W (n : Nat) : Fld := { addr := 0x40030800 + 4 * n, lo := 0, width := 32, acc := .ro, rst := 0 }

/-! GNB_NAV (R118, 05_gnss_baseband.md) -/
def GNB_NAV_WORD (n : Nat) : Fld := { addr := 0x40031000 + 16 * n, lo := 0, width := 30, acc := .ro, rst := 0 }
def GNB_NAV_PARITY_OK (n : Nat) : Fld := { addr := 0x40031000 + 16 * n, lo := 30, width := 1, acc := .ro, rst := 0 }
def GNB_NAV_T (n : Nat) : Fld := { addr := 0x40031000 + 16 * n, lo := 32, width := 32, acc := .ro, rst := 0 }
def GNB_NAV_CH (n : Nat) : Fld := { addr := 0x40031000 + 16 * n, lo := 64, width := 8, acc := .ro, rst := 0 }
def GNB_NAV_PRN (n : Nat) : Fld := { addr := 0x40031000 + 16 * n, lo := 72, width := 8, acc := .ro, rst := 0 }
def GNB_NAV_WORD_IDX (n : Nat) : Fld := { addr := 0x40031000 + 16 * n, lo := 80, width := 8, acc := .ro, rst := 0 }

/-! FUS_CTRL (R152, 06_reference_fusion.md) -/
def FUS_CTRL_RUN : Fld := { addr := 0x40040000, lo := 0, width := 1, acc := .rw, rst := 0 }

/-! FUS_STATUS (R152, 06_reference_fusion.md) -/
def FUS_STATUS_VALID : Fld := { addr := 0x40040004, lo := 0, width := 5, acc := .ro, rst := 0 }
def FUS_STATUS_COAST_ANY : Fld := { addr := 0x40040004, lo := 5, width := 1, acc := .ro, rst := 0 }
def FUS_STATUS_DOMINO : Fld := { addr := 0x40040004, lo := 6, width := 1, acc := .ro, rst := 0 }
def FUS_STATUS_TRK_USED : Fld := { addr := 0x40040004, lo := 8, width := 8, acc := .ro, rst := 0 }

/-! FUS_ERR (R152, 06_reference_fusion.md) -/
def FUS_ERR_CFG_REJ : Fld := { addr := 0x40040008, lo := 0, width := 1, acc := .w1c, rst := 0 }
def FUS_ERR_IN_FULL : Fld := { addr := 0x40040008, lo := 1, width := 1, acc := .w1c, rst := 0 }
def FUS_ERR_KIND_REJ : Fld := { addr := 0x40040008, lo := 2, width := 1, acc := .w1c, rst := 0 }
def FUS_ERR_FUTURE : Fld := { addr := 0x40040008, lo := 3, width := 1, acc := .w1c, rst := 0 }
def FUS_ERR_LATE_DROP : Fld := { addr := 0x40040008, lo := 4, width := 1, acc := .w1c, rst := 0 }
def FUS_ERR_OVERRUN : Fld := { addr := 0x40040008, lo := 5, width := 1, acc := .w1c, rst := 0 }
def FUS_ERR_TRK_FULL : Fld := { addr := 0x40040008, lo := 6, width := 1, acc := .w1c, rst := 0 }
def FUS_ERR_VOTE_REJ : Fld := { addr := 0x40040008, lo := 7, width := 1, acc := .w1c, rst := 0 }

/-! FUS_ALARM (R152, 06_reference_fusion.md) -/
def FUS_ALARM_MODE_DROP : Fld := { addr := 0x4004000C, lo := 0, width := 4, acc := .w1c, rst := 0 }
def FUS_ALARM_WIND_SUSPECT : Fld := { addr := 0x4004000C, lo := 4, width := 1, acc := .w1c, rst := 0 }
def FUS_ALARM_LOST : Fld := { addr := 0x4004000C, lo := 5, width := 5, acc := .w1c, rst := 0 }
def FUS_ALARM_TGT_LOST : Fld := { addr := 0x4004000C, lo := 10, width := 1, acc := .w1c, rst := 0 }
def FUS_ALARM_REF_EXCL : Fld := { addr := 0x4004000C, lo := 11, width := 1, acc := .w1c, rst := 0 }
def FUS_ALARM_POS_RESET : Fld := { addr := 0x4004000C, lo := 12, width := 1, acc := .w1c, rst := 0 }

/-! FUS_CYCLE_CFG (R152, 06_reference_fusion.md) -/
def FUS_CYCLE_CFG_FDIV : Fld := { addr := 0x40040010, lo := 0, width := 8, acc := .rw, rst := 0 }
def FUS_CYCLE_CFG_PUB_OFF : Fld := { addr := 0x40040010, lo := 12, width := 20, acc := .rw, rst := 2000 }

/-! FUS_VOTE_CFG (R152, 06_reference_fusion.md) -/
def FUS_VOTE_CFG_VOTE_K : Fld := { addr := 0x40040014, lo := 0, width := 8, acc := .rw, rst := 64, mn := 16, mx := 255 }
def FUS_VOTE_CFG_VOTE_PERS : Fld := { addr := 0x40040014, lo := 8, width := 8, acc := .rw, rst := 3, mn := 1, mx := 255 }
def FUS_VOTE_CFG_REJOIN : Fld := { addr := 0x40040014, lo := 16, width := 16, acc := .rw, rst := 100, mn := 1, mx := 65535 }

/-! FUS_VOTE_MIN (R152, 06_reference_fusion.md) -/
def FUS_VOTE_MIN_POS : Fld := { addr := 0x40040018, lo := 0, width := 8, acc := .rw, rst := 30, mn := 1, mx := 255 }
def FUS_VOTE_MIN_HDG : Fld := { addr := 0x40040018, lo := 8, width := 8, acc := .rw, rst := 20, mn := 1, mx := 255 }
def FUS_VOTE_MIN_MRU : Fld := { addr := 0x40040018, lo := 16, width := 8, acc := .rw, rst := 10, mn := 1, mx := 255 }
def FUS_VOTE_MIN_WIND : Fld := { addr := 0x40040018, lo := 24, width := 8, acc := .rw, rst := 30, mn := 1, mx := 255 }

/-! FUS_COAST_CFG (R152, 06_reference_fusion.md) -/
def FUS_COAST_CFG_POS : Fld := { addr := 0x4004001C, lo := 0, width := 8, acc := .rw, rst := 30, mn := 10, mx := 120 }
def FUS_COAST_CFG_HDG : Fld := { addr := 0x4004001C, lo := 8, width := 8, acc := .rw, rst := 30, mn := 10, mx := 120 }
def FUS_COAST_CFG_MRU : Fld := { addr := 0x4004001C, lo := 16, width := 8, acc := .rw, rst := 30, mn := 10, mx := 120 }
def FUS_COAST_CFG_WIND : Fld := { addr := 0x4004001C, lo := 24, width := 8, acc := .rw, rst := 30, mn := 10, mx := 120 }

/-! FUS_TRK_CFG (R152, 06_reference_fusion.md) -/
def FUS_TRK_CFG_CONF_M : Fld := { addr := 0x40040020, lo := 0, width := 4, acc := .rw, rst := 3, mn := 1, mx := 15 }
def FUS_TRK_CFG_CONF_N : Fld := { addr := 0x40040020, lo := 4, width := 4, acc := .rw, rst := 5, mn := 1, mx := 15 }
def FUS_TRK_CFG_ACC : Fld := { addr := 0x40040020, lo := 8, width := 8, acc := .rw, rst := 10, mn := 1, mx := 255 }
def FUS_TRK_CFG_COAST : Fld := { addr := 0x40040020, lo := 16, width := 8, acc := .rw, rst := 5, mn := 1, mx := 254 }
def FUS_TRK_CFG_DROP : Fld := { addr := 0x40040020, lo := 24, width := 8, acc := .rw, rst := 60, mn := 2, mx := 255 }

/-! FUS_TGT_SEL (R152, 06_reference_fusion.md) -/
def FUS_TGT_SEL_TRK : Fld := { addr := 0x40040024, lo := 0, width := 7, acc := .rw, rst := 0 }
def FUS_TGT_SEL_BY_ID : Fld := { addr := 0x40040024, lo := 7, width := 1, acc := .rw, rst := 0 }
def FUS_TGT_SEL_TGT_ID : Fld := { addr := 0x40040024, lo := 8, width := 8, acc := .rw, rst := 0 }
def FUS_TGT_SEL_EN : Fld := { addr := 0x40040024, lo := 16, width := 1, acc := .rw, rst := 0 }

/-! FUS_GNSS_CFG (R152, 06_reference_fusion.md) -/
def FUS_GNSS_CFG_ELEV_MASK : Fld := { addr := 0x40040028, lo := 0, width := 8, acc := .rw, rst := 10, mn := 0, mx := 60 }
def FUS_GNSS_CFG_USE_PMM : Fld := { addr := 0x40040028, lo := 8, width := 1, acc := .rw, rst := 0 }
def FUS_GNSS_CFG_DOPP_EN : Fld := { addr := 0x40040028, lo := 9, width := 1, acc := .rw, rst := 1 }

/-! FUS_ORIGIN (R152, 06_reference_fusion.md) -/
def FUS_ORIGIN_LAT : Fld := { addr := 0x40040030, lo := 0, width := 32, acc := .rw, rst := 0, mn := -900000000, mx := 900000000, sgn := true }
def FUS_ORIGIN_LON : Fld := { addr := 0x40040030, lo := 32, width := 32, acc := .rw, rst := 0, mn := -1800000000, mx := 1800000000, sgn := true }

/-! FUS_CNT (R152, 06_reference_fusion.md) -/
def FUS_CNT_LATE_APPL : Fld := { addr := 0x40040038, lo := 0, width := 16, acc := .rc, rst := 0 }
def FUS_CNT_LATE_DROP : Fld := { addr := 0x40040038, lo := 16, width := 16, acc := .rc, rst := 0 }
def FUS_CNT_REJ : Fld := { addr := 0x40040038, lo := 32, width := 16, acc := .rc, rst := 0 }
def FUS_CNT_IN_FULL : Fld := { addr := 0x40040038, lo := 48, width := 16, acc := .rc, rst := 0 }

/-! FUS_IN_PUSH (R152, 06_reference_fusion.md) -/
def FUS_IN_PUSH_SAMPLE : Fld := { addr := 0x40040040, lo := 0, width := 512, acc := .wo, rst := 0 }

/-! FUS_REF_CFG (R152, 06_reference_fusion.md) -/
def FUS_REF_CFG_EN (n : Nat) : Fld := { addr := 0x40040100 + 16 * n, lo := 0, width := 1, acc := .rw, rst := 0 }
def FUS_REF_CFG_KIND (n : Nat) : Fld := { addr := 0x40040100 + 16 * n, lo := 4, width := 3, acc := .rw, rst := 0 }
def FUS_REF_CFG_SIGMA (n : Nat) : Fld := { addr := 0x40040100 + 16 * n, lo := 16, width := 16, acc := .rw, rst := 1000, mn := 1, mx := 65535 }
def FUS_REF_CFG_TIMEOUT (n : Nat) : Fld := { addr := 0x40040100 + 16 * n, lo := 32, width := 16, acc := .rw, rst := 50, mn := 1, mx := 65535 }
def FUS_REF_CFG_LEV_X (n : Nat) : Fld := { addr := 0x40040100 + 16 * n, lo := 48, width := 16, acc := .rw, rst := 0 }
def FUS_REF_CFG_LEV_Y (n : Nat) : Fld := { addr := 0x40040100 + 16 * n, lo := 64, width := 16, acc := .rw, rst := 0 }
def FUS_REF_CFG_LEV_Z (n : Nat) : Fld := { addr := 0x40040100 + 16 * n, lo := 80, width := 16, acc := .rw, rst := 0 }
def FUS_REF_CFG_MOUNT (n : Nat) : Fld := { addr := 0x40040100 + 16 * n, lo := 96, width := 16, acc := .rw, rst := 0 }

/-! FUS_REF_STAT (R152, 06_reference_fusion.md) -/
def FUS_REF_STAT_STATE (n : Nat) : Fld := { addr := 0x40040400 + 4 * n, lo := 0, width := 3, acc := .ro, rst := 0 }
def FUS_REF_STAT_SUSPECT (n : Nat) : Fld := { addr := 0x40040400 + 4 * n, lo := 3, width := 1, acc := .ro, rst := 0 }
def FUS_REF_STAT_DEV_CNT (n : Nat) : Fld := { addr := 0x40040400 + 4 * n, lo := 8, width := 8, acc := .ro, rst := 0 }
def FUS_REF_STAT_AGE (n : Nat) : Fld := { addr := 0x40040400 + 4 * n, lo := 16, width := 16, acc := .ro, rst := 65535 }

/-! FUS_OUT (R151, 06_reference_fusion.md) -/
def FUS_OUT_W (n : Nat) : Fld := { addr := 0x40040800 + 4 * n, lo := 0, width := 32, acc := .ro, rst := 0 }

/-! FUS_SAT (R152, 06_reference_fusion.md) -/
def FUS_SAT_PRN (n : Nat) : Fld := { addr := 0x40041000 + 64 * n, lo := 0, width := 8, acc := .rw, rst := 0, mn := 0, mx := 32 }
def FUS_SAT_M (n : Nat) : Fld := { addr := 0x40041000 + 64 * n, lo := 32, width := 32, acc := .rw, rst := 0 }
def FUS_SAT_X (n : Nat) : Fld := { addr := 0x40041000 + 64 * n, lo := 64, width := 64, acc := .rw, rst := 0 }
def FUS_SAT_Y (n : Nat) : Fld := { addr := 0x40041000 + 64 * n, lo := 128, width := 64, acc := .rw, rst := 0 }
def FUS_SAT_Z (n : Nat) : Fld := { addr := 0x40041000 + 64 * n, lo := 192, width := 64, acc := .rw, rst := 0 }
def FUS_SAT_CORR (n : Nat) : Fld := { addr := 0x40041000 + 64 * n, lo := 256, width := 64, acc := .rw, rst := 0 }
def FUS_SAT_VX (n : Nat) : Fld := { addr := 0x40041000 + 64 * n, lo := 320, width := 64, acc := .rw, rst := 0 }
def FUS_SAT_VY (n : Nat) : Fld := { addr := 0x40041000 + 64 * n, lo := 384, width := 64, acc := .rw, rst := 0 }
def FUS_SAT_VZ (n : Nat) : Fld := { addr := 0x40041000 + 64 * n, lo := 448, width := 64, acc := .rw, rst := 0 }

/-! FUS_TRK (R152, 06_reference_fusion.md) -/
def FUS_TRK_STATE (n : Nat) : Fld := { addr := 0x40042000 + 64 * n, lo := 0, width := 8, acc := .ro, rst := 0 }
def FUS_TRK_TGT_ID (n : Nat) : Fld := { addr := 0x40042000 + 64 * n, lo := 8, width := 8, acc := .ro, rst := 0 }
def FUS_TRK_HITS (n : Nat) : Fld := { addr := 0x40042000 + 64 * n, lo := 16, width := 8, acc := .ro, rst := 0 }
def FUS_TRK_T_UPD (n : Nat) : Fld := { addr := 0x40042000 + 64 * n, lo := 32, width := 32, acc := .ro, rst := 0 }
def FUS_TRK_DN (n : Nat) : Fld := { addr := 0x40042000 + 64 * n, lo := 64, width := 64, acc := .ro, rst := 0 }
def FUS_TRK_DE (n : Nat) : Fld := { addr := 0x40042000 + 64 * n, lo := 128, width := 64, acc := .ro, rst := 0 }
def FUS_TRK_VN (n : Nat) : Fld := { addr := 0x40042000 + 64 * n, lo := 192, width := 64, acc := .ro, rst := 0 }
def FUS_TRK_VE (n : Nat) : Fld := { addr := 0x40042000 + 64 * n, lo := 256, width := 64, acc := .ro, rst := 0 }
def FUS_TRK_PSI (n : Nat) : Fld := { addr := 0x40042000 + 64 * n, lo := 320, width := 64, acc := .ro, rst := 0 }
def FUS_TRK_SIGMA (n : Nat) : Fld := { addr := 0x40042000 + 64 * n, lo := 384, width := 64, acc := .ro, rst := 0 }

/-! SLV_CTRL (R173, 07_solver.md) -/
def SLV_CTRL_RUN : Fld := { addr := 0x40050000, lo := 0, width := 1, acc := .rw, rst := 0 }
def SLV_CTRL_GUARD : Fld := { addr := 0x40050000, lo := 4, width := 8, acc := .rw, rst := 20, mn := 16, mx := 64 }

/-! SLV_STATUS (R173, 07_solver.md) -/
def SLV_STATUS_BUSY : Fld := { addr := 0x40050004, lo := 0, width := 1, acc := .ro, rst := 0 }
def SLV_STATUS_DOMINO : Fld := { addr := 0x40050004, lo := 1, width := 1, acc := .ro, rst := 0 }
def SLV_STATUS_QDEPTH : Fld := { addr := 0x40050004, lo := 2, width := 5, acc := .ro, rst := 0 }
def SLV_STATUS_RUN_SLOT : Fld := { addr := 0x40050004, lo := 8, width := 4, acc := .ro, rst := 0 }

/-! SLV_ERR (R173, 07_solver.md) -/
def SLV_ERR_CFG_REJ : Fld := { addr := 0x40050008, lo := 0, width := 1, acc := .w1c, rst := 0 }
def SLV_ERR_RING_FULL : Fld := { addr := 0x40050008, lo := 1, width := 1, acc := .w1c, rst := 0 }
def SLV_ERR_PIP_CORR : Fld := { addr := 0x40050008, lo := 2, width := 1, acc := .w1c, rst := 0 }
def SLV_ERR_PIP_UNCORR : Fld := { addr := 0x40050008, lo := 3, width := 1, acc := .w1c, rst := 0 }
def SLV_ERR_DEADLINE : Fld := { addr := 0x40050008, lo := 4, width := 1, acc := .w1c, rst := 0 }
def SLV_ERR_REG : Fld := { addr := 0x40050008, lo := 5, width := 1, acc := .w1c, rst := 0 }

/-! SLV_RING_PTR (R173, 07_solver.md) -/
def SLV_RING_PTR_HEAD : Fld := { addr := 0x4005000C, lo := 0, width := 5, acc := .ro, rst := 0 }
def SLV_RING_PTR_TAIL : Fld := { addr := 0x4005000C, lo := 8, width := 5, acc := .rw, rst := 0 }

/-! SLV_RING_BASE (R173, 07_solver.md) -/
def SLV_RING_BASE_ADDR : Fld := { addr := 0x40050010, lo := 0, width := 64, acc := .rw, rst := 0 }

/-! SLV_WS (R173, 07_solver.md) -/
def SLV_WS_USED : Fld := { addr := 0x40050018, lo := 0, width := 16, acc := .ro, rst := 0 }

/-! SLV_CNT (R173, 07_solver.md) -/
def SLV_CNT_ITERATE_CNT : Fld := { addr := 0x40050020, lo := 0, width := 16, acc := .rc, rst := 0 }
def SLV_CNT_PRIOR_CNT : Fld := { addr := 0x40050020, lo := 16, width := 16, acc := .rc, rst := 0 }
def SLV_CNT_COLD_CNT : Fld := { addr := 0x40050020, lo := 32, width := 16, acc := .rc, rst := 0 }
def SLV_CNT_REG_CNT : Fld := { addr := 0x40050020, lo := 48, width := 16, acc := .rc, rst := 0 }

/-! SLV_SLOT_CFG (R173, 07_solver.md) -/
def SLV_SLOT_CFG_PIV_EXP (n : Nat) : Fld := { addr := 0x40050100 + 8 * n, lo := 0, width := 6, acc := .rw, rst := 40, mn := 20, mx := 52 }
def SLV_SLOT_CFG_SHIFT_EXP (n : Nat) : Fld := { addr := 0x40050100 + 8 * n, lo := 8, width := 6, acc := .rw, rst := 36, mn := 16, mx := 52 }
def SLV_SLOT_CFG_MAX_ITER (n : Nat) : Fld := { addr := 0x40050100 + 8 * n, lo := 16, width := 6, acc := .rw, rst := 16, mn := 1, mx := 63 }
def SLV_SLOT_CFG_GAP_EXP (n : Nat) : Fld := { addr := 0x40050100 + 8 * n, lo := 24, width := 6, acc := .rw, rst := 20, mn := 8, mx := 48 }
def SLV_SLOT_CFG_FEAS_EXP (n : Nat) : Fld := { addr := 0x40050100 + 8 * n, lo := 32, width := 6, acc := .rw, rst := 26, mn := 8, mx := 48 }
def SLV_SLOT_CFG_PUSH_EXP (n : Nat) : Fld := { addr := 0x40050100 + 8 * n, lo := 40, width := 6, acc := .rw, rst := 10, mn := 2, mx := 30 }

/-! SLV_SLOT_STAT (R173, 07_solver.md) -/
def SLV_SLOT_STAT_STATE (n : Nat) : Fld := { addr := 0x40050180 + 8 * n, lo := 0, width := 3, acc := .ro, rst := 0 }
def SLV_SLOT_STAT_HAS_SOL (n : Nat) : Fld := { addr := 0x40050180 + 8 * n, lo := 3, width := 1, acc := .ro, rst := 0 }
def SLV_SLOT_STAT_CLASS (n : Nat) : Fld := { addr := 0x40050180 + 8 * n, lo := 4, width := 3, acc := .ro, rst := 0 }
def SLV_SLOT_STAT_FEED (n : Nat) : Fld := { addr := 0x40050180 + 8 * n, lo := 7, width := 1, acc := .ro, rst := 0 }
def SLV_SLOT_STAT_N (n : Nat) : Fld := { addr := 0x40050180 + 8 * n, lo := 8, width := 17, acc := .ro, rst := 0 }
def SLV_SLOT_STAT_M (n : Nat) : Fld := { addr := 0x40050180 + 8 * n, lo := 32, width := 21, acc := .ro, rst := 0 }
def SLV_SLOT_STAT_FOOT (n : Nat) : Fld := { addr := 0x40050180 + 8 * n, lo := 53, width := 11, acc := .ro, rst := 0 }

/-! SLV_SLOT_SIG (R173, 07_solver.md) -/
def SLV_SLOT_SIG_SIG (n : Nat) : Fld := { addr := 0x40050200 + 16 * n, lo := 0, width := 64, acc := .ro, rst := 0 }
def SLV_SLOT_SIG_SOL_SIG (n : Nat) : Fld := { addr := 0x40050200 + 16 * n, lo := 64, width := 64, acc := .ro, rst := 0 }

/-! HLM_CTRL (R203, 08_helm_allocation.md) -/
def HLM_CTRL_RUN : Fld := { addr := 0x40060000, lo := 0, width := 1, acc := .rw, rst := 0 }
def HLM_CTRL_WFF : Fld := { addr := 0x40060000, lo := 8, width := 8, acc := .rw, rst := 128, mn := 0, mx := 128 }
def HLM_CTRL_MAX_CLASS : Fld := { addr := 0x40060000, lo := 16, width := 2, acc := .rw, rst := 1, mn := 1, mx := 3 }

/-! HLM_STATUS (R203, 08_helm_allocation.md) -/
def HLM_STATUS_MODE : Fld := { addr := 0x40060004, lo := 0, width := 3, acc := .ro, rst := 0 }
def HLM_STATUS_CLASS : Fld := { addr := 0x40060004, lo := 3, width := 2, acc := .ro, rst := 0 }
def HLM_STATUS_LOWERED : Fld := { addr := 0x40060004, lo := 5, width := 3, acc := .ro, rst := 0 }
def HLM_STATUS_HELD : Fld := { addr := 0x40060004, lo := 8, width := 1, acc := .ro, rst := 0 }
def HLM_STATUS_TRANSIT : Fld := { addr := 0x40060004, lo := 9, width := 1, acc := .ro, rst := 0 }
def HLM_STATUS_REDUND : Fld := { addr := 0x40060004, lo := 10, width := 1, acc := .ro, rst := 0 }
def HLM_STATUS_REST_N : Fld := { addr := 0x40060004, lo := 16, width := 8, acc := .ro, rst := 0 }

/-! HLM_ERR (R203, 08_helm_allocation.md) -/
def HLM_ERR_CFG_REJ : Fld := { addr := 0x40060008, lo := 0, width := 1, acc := .w1c, rst := 0 }
def HLM_ERR_CMD_REJ : Fld := { addr := 0x40060008, lo := 1, width := 1, acc := .w1c, rst := 0 }
def HLM_ERR_ADMIT_REJ : Fld := { addr := 0x40060008, lo := 2, width := 1, acc := .w1c, rst := 0 }
def HLM_ERR_FALLBACK : Fld := { addr := 0x40060008, lo := 3, width := 1, acc := .w1c, rst := 0 }
def HLM_ERR_STR_STALE : Fld := { addr := 0x40060008, lo := 4, width := 1, acc := .w1c, rst := 0 }

/-! HLM_ALARM (R203, 08_helm_allocation.md) -/
def HLM_ALARM_POS_LOST : Fld := { addr := 0x4006000C, lo := 0, width := 1, acc := .w1c, rst := 0 }
def HLM_ALARM_HDG_LOST : Fld := { addr := 0x4006000C, lo := 1, width := 1, acc := .w1c, rst := 0 }
def HLM_ALARM_TGT_LOST : Fld := { addr := 0x4006000C, lo := 2, width := 1, acc := .w1c, rst := 0 }
def HLM_ALARM_ALLOC_FAIL : Fld := { addr := 0x4006000C, lo := 3, width := 1, acc := .w1c, rst := 0 }
def HLM_ALARM_WATCH : Fld := { addr := 0x4006000C, lo := 4, width := 1, acc := .w1c, rst := 0 }
def HLM_ALARM_FORCE_SHORT : Fld := { addr := 0x4006000C, lo := 5, width := 1, acc := .w1c, rst := 0 }
def HLM_ALARM_BUS_SHORT : Fld := { addr := 0x4006000C, lo := 6, width := 1, acc := .w1c, rst := 0 }
def HLM_ALARM_CLASS_LOW : Fld := { addr := 0x4006000C, lo := 7, width := 1, acc := .w1c, rst := 0 }

/-! HLM_TIME_CFG (R203, 08_helm_allocation.md) -/
def HLM_TIME_CFG_QP_REL : Fld := { addr := 0x40060010, lo := 0, width := 20, acc := .rw, rst := 2100 }
def HLM_TIME_CFG_QP_DL : Fld := { addr := 0x40060010, lo := 20, width := 20, acc := .rw, rst := 8000 }
def HLM_TIME_CFG_CMD_OFF : Fld := { addr := 0x40060010, lo := 40, width := 20, acc := .rw, rst := 9000 }
def HLM_TIME_CFG_HDIV : Fld := { addr := 0x40060010, lo := 60, width := 4, acc := .rw, rst := 0 }

/-! HLM_QP_CFG (R203, 08_helm_allocation.md) -/
def HLM_QP_CFG_SLOT : Fld := { addr := 0x40060018, lo := 0, width := 4, acc := .rw, rst := 0 }
def HLM_QP_CFG_MAX_ITER : Fld := { addr := 0x40060018, lo := 8, width := 6, acc := .rw, rst := 16, mn := 1, mx := 63 }
def HLM_QP_CFG_TRANSIT_PERS : Fld := { addr := 0x40060018, lo := 16, width := 8, acc := .rw, rst := 50, mn := 1, mx := 255 }

/-! HLM_WATCH_CFG (R203, 08_helm_allocation.md) -/
def HLM_WATCH_CFG_WATCH_R : Fld := { addr := 0x4006001C, lo := 0, width := 16, acc := .rw, rst := 50, mn := 1, mx := 65535 }
def HLM_WATCH_CFG_T_W : Fld := { addr := 0x4006001C, lo := 16, width := 8, acc := .rw, rst := 10, mn := 1, mx := 120 }
def HLM_WATCH_CFG_WATCH_ON : Fld := { addr := 0x4006001C, lo := 24, width := 8, acc := .rw, rst := 50, mn := 1, mx := 100 }

/-! HLM_GAIN (R203, 08_helm_allocation.md) -/
def HLM_GAIN_TN (n : Nat) : Fld := { addr := 0x40060020 + 4 * n, lo := 0, width := 16, acc := .rw, rst := 120, mn := 10, mx := 1000 }
def HLM_GAIN_ZETA (n : Nat) : Fld := { addr := 0x40060020 + 4 * n, lo := 16, width := 8, acc := .rw, rst := 90, mn := 30, mx := 200 }

/-! HLM_MOVE_CFG (R203, 08_helm_allocation.md) -/
def HLM_MOVE_CFG_MOVE_V : Fld := { addr := 0x4006002C, lo := 0, width := 12, acc := .rw, rst := 50, mn := 1, mx := 4095 }
def HLM_MOVE_CFG_MOVE_R : Fld := { addr := 0x4006002C, lo := 12, width := 12, acc := .rw, rst := 100, mn := 1, mx := 4095 }
def HLM_MOVE_CFG_MOVE_A : Fld := { addr := 0x4006002C, lo := 24, width := 8, acc := .rw, rst := 10, mn := 1, mx := 255 }

/-! HLM_REST_CFG (R203, 08_helm_allocation.md) -/
def HLM_REST_CFG_EN : Fld := { addr := 0x40060030, lo := 0, width := 1, acc := .rw, rst := 0 }
def HLM_REST_CFG_MAX_REST : Fld := { addr := 0x40060030, lo := 8, width := 8, acc := .rw, rst := 1, mn := 1, mx := 255 }
def HLM_REST_CFG_MARGIN : Fld := { addr := 0x40060030, lo := 16, width := 8, acc := .rw, rst := 20 }
def HLM_REST_CFG_I_REST : Fld := { addr := 0x40060030, lo := 24, width := 8, acc := .rw, rst := 5, mn := 1, mx := 255 }

/-! HLM_MODE_REQ (R203, 08_helm_allocation.md) -/
def HLM_MODE_REQ_MODE : Fld := { addr := 0x40060034, lo := 0, width := 3, acc := .wo, rst := 0 }
def HLM_MODE_REQ_SET : Fld := { addr := 0x40060034, lo := 3, width := 1, acc := .wo, rst := 0 }
def HLM_MODE_REQ_RESTORE : Fld := { addr := 0x40060034, lo := 4, width := 1, acc := .wo, rst := 0 }

/-! HLM_CNT (R203, 08_helm_allocation.md) -/
def HLM_CNT_ITERATE_CNT : Fld := { addr := 0x40060038, lo := 0, width := 16, acc := .rc, rst := 0 }
def HLM_CNT_FALLBACK_CNT : Fld := { addr := 0x40060038, lo := 16, width := 16, acc := .rc, rst := 0 }

/-! HLM_ADMIT (R203, 08_helm_allocation.md) -/
def HLM_ADMIT_BOUND : Fld := { addr := 0x4006003C, lo := 0, width := 20, acc := .ro, rst := 0 }

/-! HLM_SP (R203, 08_helm_allocation.md) -/
def HLM_SP_NORTH : Fld := { addr := 0x40060040, lo := 0, width := 32, acc := .rw, rst := 0 }
def HLM_SP_EAST : Fld := { addr := 0x40060040, lo := 32, width := 32, acc := .rw, rst := 0 }
def HLM_SP_HDG : Fld := { addr := 0x40060040, lo := 64, width := 32, acc := .rw, rst := 0, mn := 0, mx := 359999 }
def HLM_SP_REL : Fld := { addr := 0x40060040, lo := 96, width := 1, acc := .rw, rst := 0 }

/-! HLM_JOY (R203, 08_helm_allocation.md) -/
def HLM_JOY_X : Fld := { addr := 0x40060050, lo := 0, width := 16, acc := .rw, rst := 0 }
def HLM_JOY_Y : Fld := { addr := 0x40060050, lo := 16, width := 16, acc := .rw, rst := 0 }
def HLM_JOY_N : Fld := { addr := 0x40060050, lo := 32, width := 32, acc := .rw, rst := 0 }

/-! HLM_PLANT_IN (R203, 08_helm_allocation.md) -/
def HLM_PLANT_IN_THR_AVAIL : Fld := { addr := 0x40060058, lo := 0, width := 32, acc := .rw, rst := 0 }
def HLM_PLANT_IN_GEN_ONLINE : Fld := { addr := 0x40060058, lo := 32, width := 16, acc := .rw, rst := 0 }
def HLM_PLANT_IN_TIE_CLOSED : Fld := { addr := 0x40060058, lo := 48, width := 3, acc := .rw, rst := 0 }

/-! HLM_LOAD (R203, 08_helm_allocation.md) -/
def HLM_LOAD_LOAD (j : Nat) : Fld := { addr := 0x40060060, lo := 16*j, width := 16, acc := .rw, rst := 0 }

/-! HLM_AZ_FB (R203, 08_helm_allocation.md) -/
def HLM_AZ_FB_AZ (n : Nat) : Fld := { addr := 0x40060080 + 4 * n, lo := 0, width := 16, acc := .rw, rst := 0, mn := 0, mx := 35999 }
def HLM_AZ_FB_THRUST (n : Nat) : Fld := { addr := 0x40060080 + 4 * n, lo := 16, width := 16, acc := .rw, rst := 0 }

/-! HLM_OUT (R203, 08_helm_allocation.md) -/
def HLM_OUT_NS32 : Fld := { addr := 0x40060800, lo := 0, width := 32, acc := .ro, rst := 0 }
def HLM_OUT_EPOCH : Fld := { addr := 0x40060800, lo := 32, width := 32, acc := .ro, rst := 0 }
def HLM_OUT_CYCLE : Fld := { addr := 0x40060800, lo := 64, width := 32, acc := .ro, rst := 0 }
def HLM_OUT_OUTCOME : Fld := { addr := 0x40060800, lo := 96, width := 8, acc := .ro, rst := 0 }
def HLM_OUT_MODE : Fld := { addr := 0x40060800, lo := 104, width := 3, acc := .ro, rst := 0 }
def HLM_OUT_CLASS : Fld := { addr := 0x40060800, lo := 107, width := 2, acc := .ro, rst := 0 }
def HLM_OUT_ITER : Fld := { addr := 0x40060800, lo := 112, width := 8, acc := .ro, rst := 0 }
def HLM_OUT_FLAGS : Fld := { addr := 0x40060800, lo := 120, width := 8, acc := .ro, rst := 0 }
def HLM_OUT_DEM_X : Fld := { addr := 0x40060800, lo := 128, width := 32, acc := .ro, rst := 0 }
def HLM_OUT_DEM_Y : Fld := { addr := 0x40060800, lo := 160, width := 32, acc := .ro, rst := 0 }
def HLM_OUT_DEM_N : Fld := { addr := 0x40060800, lo := 192, width := 32, acc := .ro, rst := 0 }

/-! HLM_OUT_THR (R203, 08_helm_allocation.md) -/
def HLM_OUT_THR_THRUST (n : Nat) : Fld := { addr := 0x40060820 + 8 * n, lo := 0, width := 16, acc := .ro, rst := 0 }
def HLM_OUT_THR_AZ (n : Nat) : Fld := { addr := 0x40060820 + 8 * n, lo := 16, width := 16, acc := .ro, rst := 0 }
def HLM_OUT_THR_RUD (n : Nat) : Fld := { addr := 0x40060820 + 8 * n, lo := 32, width := 16, acc := .ro, rst := 0 }
def HLM_OUT_THR_STATE (n : Nat) : Fld := { addr := 0x40060820 + 8 * n, lo := 48, width := 8, acc := .ro, rst := 0 }

/-! HLM_OUT_STR (R203, 08_helm_allocation.md) -/
def HLM_OUT_STR_P (n : Nat) : Fld := { addr := 0x40060920 + 4 * n, lo := 0, width := 32, acc := .ro, rst := 0 }

/-! HLM_OUT_GEN (R203, 08_helm_allocation.md) -/
def HLM_OUT_GEN_P (n : Nat) : Fld := { addr := 0x40060D20 + 4 * n, lo := 0, width := 32, acc := .ro, rst := 0 }

/-! LPE_CTRL (R217, 09_loop_engine.md) -/
def LPE_CTRL_RUN : Fld := { addr := 0x40070000, lo := 0, width := 1, acc := .rw, rst := 0 }
def LPE_CTRL_OUT_OFF : Fld := { addr := 0x40070000, lo := 8, width := 7, acc := .rw, rst := 100, mn := 10, mx := 120 }

/-! LPE_STATUS (R217, 09_loop_engine.md) -/
def LPE_STATUS_N_CLOSED : Fld := { addr := 0x40070004, lo := 0, width := 7, acc := .ro, rst := 0 }
def LPE_STATUS_N_FAULT : Fld := { addr := 0x40070004, lo := 8, width := 7, acc := .ro, rst := 0 }
def LPE_STATUS_LOAD : Fld := { addr := 0x40070004, lo := 16, width := 16, acc := .ro, rst := 0 }

/-! LPE_ERR (R217, 09_loop_engine.md) -/
def LPE_ERR_CFG_REJ : Fld := { addr := 0x40070008, lo := 0, width := 1, acc := .w1c, rst := 0 }
def LPE_ERR_CMD_REJ : Fld := { addr := 0x40070008, lo := 1, width := 1, acc := .w1c, rst := 0 }
def LPE_ERR_ADMIT_REJ : Fld := { addr := 0x40070008, lo := 2, width := 1, acc := .w1c, rst := 0 }
def LPE_ERR_OVERRUN : Fld := { addr := 0x40070008, lo := 3, width := 1, acc := .w1c, rst := 0 }
def LPE_ERR_SUP_FAULT : Fld := { addr := 0x40070008, lo := 4, width := 1, acc := .w1c, rst := 0 }

/-! LPE_CNT (R217, 09_loop_engine.md) -/
def LPE_CNT_OVR_CNT : Fld := { addr := 0x4007000C, lo := 0, width := 16, acc := .rc, rst := 0 }
def LPE_CNT_SUP_CNT : Fld := { addr := 0x4007000C, lo := 16, width := 16, acc := .rc, rst := 0 }

/-! LPE_ORIGIN (R217, 09_loop_engine.md) -/
def LPE_ORIGIN_NS32 : Fld := { addr := 0x40070010, lo := 0, width := 32, acc := .rw, rst := 0 }
def LPE_ORIGIN_EPOCH : Fld := { addr := 0x40070010, lo := 32, width := 32, acc := .rw, rst := 0 }

/-! LPE_FAULT (R217, 09_loop_engine.md) -/
def LPE_FAULT_LOOP : Fld := { addr := 0x40070018, lo := 0, width := 64, acc := .ro, rst := 0 }

/-! LPE_SAT (R217, 09_loop_engine.md) -/
def LPE_SAT_LOOP : Fld := { addr := 0x40070020, lo := 0, width := 64, acc := .ro, rst := 0 }

/-! LPE_LOOP_CFG (R217, 09_loop_engine.md) -/
def LPE_LOOP_CFG_EN (n : Nat) : Fld := { addr := 0x40071000 + 256 * n, lo := 0, width := 1, acc := .rw, rst := 0 }
def LPE_LOOP_CFG_TYPE (n : Nat) : Fld := { addr := 0x40071000 + 256 * n, lo := 1, width := 2, acc := .rw, rst := 0, mn := 0, mx := 2 }
def LPE_LOOP_CFG_SIZE (n : Nat) : Fld := { addr := 0x40071000 + 256 * n, lo := 4, width := 3, acc := .rw, rst := 0 }
def LPE_LOOP_CFG_SHIFT (n : Nat) : Fld := { addr := 0x40071000 + 256 * n, lo := 8, width := 4, acc := .rw, rst := 0 }
def LPE_LOOP_CFG_DIV (n : Nat) : Fld := { addr := 0x40071000 + 256 * n, lo := 16, width := 16, acc := .rw, rst := 0 }
def LPE_LOOP_CFG_PH (n : Nat) : Fld := { addr := 0x40071000 + 256 * n, lo := 32, width := 16, acc := .rw, rst := 0 }

/-! LPE_LOOP_IO (R217, 09_loop_engine.md) -/
def LPE_LOOP_IO_R_IDX (n : Nat) : Fld := { addr := 0x40071008 + 256 * n, lo := 0, width := 10, acc := .rw, rst := 0 }
def LPE_LOOP_IO_Y_IDX (n : Nat) : Fld := { addr := 0x40071008 + 256 * n, lo := 10, width := 10, acc := .rw, rst := 0 }
def LPE_LOOP_IO_FF_IDX (n : Nat) : Fld := { addr := 0x40071008 + 256 * n, lo := 20, width := 10, acc := .rw, rst := 0 }
def LPE_LOOP_IO_OUT_IDX (n : Nat) : Fld := { addr := 0x40071008 + 256 * n, lo := 30, width := 10, acc := .rw, rst := 0 }

/-! LPE_LOOP_LIM (R217, 09_loop_engine.md) -/
def LPE_LOOP_LIM_UMIN (n : Nat) : Fld := { addr := 0x40071010 + 256 * n, lo := 0, width := 16, acc := .rw, rst := 32768 }
def LPE_LOOP_LIM_UMAX (n : Nat) : Fld := { addr := 0x40071010 + 256 * n, lo := 16, width := 16, acc := .rw, rst := 32767 }

/-! LPE_LOOP_SUP (R217, 09_loop_engine.md) -/
def LPE_LOOP_SUP_THR (n : Nat) : Fld := { addr := 0x40071014 + 256 * n, lo := 0, width := 16, acc := .rw, rst := 3277, mn := 1, mx := 32767 }
def LPE_LOOP_SUP_PERS (n : Nat) : Fld := { addr := 0x40071014 + 256 * n, lo := 16, width := 8, acc := .rw, rst := 8, mn := 1, mx := 255 }
def LPE_LOOP_SUP_DEAD (n : Nat) : Fld := { addr := 0x40071014 + 256 * n, lo := 24, width := 4, acc := .rw, rst := 0 }
def LPE_LOOP_SUP_ACT (n : Nat) : Fld := { addr := 0x40071014 + 256 * n, lo := 28, width := 2, acc := .rw, rst := 1 }
def LPE_LOOP_SUP_EN (n : Nat) : Fld := { addr := 0x40071014 + 256 * n, lo := 31, width := 1, acc := .rw, rst := 0 }

/-! LPE_LOOP_MODEL (R217, 09_loop_engine.md) -/
def LPE_LOOP_MODEL_AM (n : Nat) : Fld := { addr := 0x40071018 + 256 * n, lo := 0, width := 16, acc := .rw, rst := 0 }
def LPE_LOOP_MODEL_BM (n : Nat) : Fld := { addr := 0x40071018 + 256 * n, lo := 16, width := 16, acc := .rw, rst := 0 }
def LPE_LOOP_MODEL_LM (n : Nat) : Fld := { addr := 0x40071018 + 256 * n, lo := 32, width := 16, acc := .rw, rst := 0 }
def LPE_LOOP_MODEL_SAFE (n : Nat) : Fld := { addr := 0x40071018 + 256 * n, lo := 48, width := 16, acc := .rw, rst := 0 }

/-! LPE_LOOP_CMD (R217, 09_loop_engine.md) -/
def LPE_LOOP_CMD_OPEN (n : Nat) : Fld := { addr := 0x40071020 + 256 * n, lo := 0, width := 1, acc := .wo, rst := 0 }
def LPE_LOOP_CMD_CLOSE (n : Nat) : Fld := { addr := 0x40071020 + 256 * n, lo := 1, width := 1, acc := .wo, rst := 0 }
def LPE_LOOP_CMD_COMMIT (n : Nat) : Fld := { addr := 0x40071020 + 256 * n, lo := 2, width := 1, acc := .wo, rst := 0 }
def LPE_LOOP_CMD_CLEAR (n : Nat) : Fld := { addr := 0x40071020 + 256 * n, lo := 3, width := 1, acc := .wo, rst := 0 }

/-! LPE_LOOP_MAN (R217, 09_loop_engine.md) -/
def LPE_LOOP_MAN_MAN (n : Nat) : Fld := { addr := 0x40071024 + 256 * n, lo := 0, width := 16, acc := .rw, rst := 0 }

/-! LPE_LOOP_STAT (R217, 09_loop_engine.md) -/
def LPE_LOOP_STAT_STATE (n : Nat) : Fld := { addr := 0x40071028 + 256 * n, lo := 0, width := 2, acc := .ro, rst := 0 }
def LPE_LOOP_STAT_COMMIT_PEND (n : Nat) : Fld := { addr := 0x40071028 + 256 * n, lo := 2, width := 1, acc := .ro, rst := 0 }
def LPE_LOOP_STAT_SAT (n : Nat) : Fld := { addr := 0x40071028 + 256 * n, lo := 3, width := 1, acc := .ro, rst := 0 }
def LPE_LOOP_STAT_SUP_FLAG (n : Nat) : Fld := { addr := 0x40071028 + 256 * n, lo := 4, width := 1, acc := .ro, rst := 0 }
def LPE_LOOP_STAT_BAD_IN (n : Nat) : Fld := { addr := 0x40071028 + 256 * n, lo := 5, width := 1, acc := .ro, rst := 0 }
def LPE_LOOP_STAT_SUP_CNT (n : Nat) : Fld := { addr := 0x40071028 + 256 * n, lo := 8, width := 8, acc := .ro, rst := 0 }
def LPE_LOOP_STAT_U (n : Nat) : Fld := { addr := 0x40071028 + 256 * n, lo := 16, width := 16, acc := .ro, rst := 0 }
def LPE_LOOP_STAT_RES (n : Nat) : Fld := { addr := 0x40071028 + 256 * n, lo := 32, width := 16, acc := .ro, rst := 0 }

/-! LPE_LOOP_COEF_PEND (R217, 09_loop_engine.md) -/
def LPE_LOOP_COEF_PEND_C (n : Nat) (j : Nat) : Fld := { addr := 0x40071040 + 256 * n, lo := 16*j, width := 16, acc := .rw, rst := 0 }

/-! LPE_LOOP_COEF_ACT (R217, 09_loop_engine.md) -/
def LPE_LOOP_COEF_ACT_C (n : Nat) (j : Nat) : Fld := { addr := 0x40071080 + 256 * n, lo := 16*j, width := 16, acc := .ro, rst := 0 }

/-! LPE_PAGE (R205, 09_loop_engine.md) -/
def LPE_PAGE_VALUE (n : Nat) : Fld := { addr := 0x40078000 + 4 * n, lo := 0, width := 16, acc := .rw, rst := 0 }
def LPE_PAGE_QUAL (n : Nat) : Fld := { addr := 0x40078000 + 4 * n, lo := 16, width := 2, acc := .rw, rst := 0 }

/-! PTU_CTRL (R235, 10_plant_time.md) -/
def PTU_CTRL_SRC : Fld := { addr := 0x40080000, lo := 0, width := 3, acc := .rw, rst := 0, mn := 0, mx := 5 }
def PTU_CTRL_SERVO_EN : Fld := { addr := 0x40080000, lo := 3, width := 1, acc := .rw, rst := 0 }
def PTU_CTRL_PPS_EN : Fld := { addr := 0x40080000, lo := 4, width := 1, acc := .rw, rst := 1 }
def PTU_CTRL_REBASE : Fld := { addr := 0x40080000, lo := 5, width := 1, acc := .wo, rst := 0 }
def PTU_CTRL_TAKE_SRC : Fld := { addr := 0x40080000, lo := 8, width := 3, acc := .rw, rst := 1, mn := 0, mx := 5 }

/-! PTU_STATUS (R235, 10_plant_time.md) -/
def PTU_STATUS_STATE : Fld := { addr := 0x40080004, lo := 0, width := 3, acc := .ro, rst := 0 }
def PTU_STATUS_BASE_SET : Fld := { addr := 0x40080004, lo := 3, width := 1, acc := .ro, rst := 0 }
def PTU_STATUS_REFCLK_OK : Fld := { addr := 0x40080004, lo := 4, width := 1, acc := .ro, rst := 0 }
def PTU_STATUS_PARENT_OK : Fld := { addr := 0x40080004, lo := 5, width := 1, acc := .ro, rst := 0 }
def PTU_STATUS_DEPTH : Fld := { addr := 0x40080004, lo := 8, width := 8, acc := .ro, rst := 0 }

/-! PTU_ERR (R235, 10_plant_time.md) -/
def PTU_ERR_CFG_REJ : Fld := { addr := 0x40080008, lo := 0, width := 1, acc := .w1c, rst := 0 }
def PTU_ERR_OFF_REJ : Fld := { addr := 0x40080008, lo := 1, width := 1, acc := .w1c, rst := 0 }
def PTU_ERR_DLY_REJ : Fld := { addr := 0x40080008, lo := 2, width := 1, acc := .w1c, rst := 0 }
def PTU_ERR_HOLDOVER_ENT : Fld := { addr := 0x40080008, lo := 3, width := 1, acc := .w1c, rst := 0 }
def PTU_ERR_STEP : Fld := { addr := 0x40080008, lo := 4, width := 1, acc := .w1c, rst := 0 }
def PTU_ERR_REFCLK_LOSS : Fld := { addr := 0x40080008, lo := 5, width := 1, acc := .w1c, rst := 0 }

/-! PTU_SERVO (R235, 10_plant_time.md) -/
def PTU_SERVO_KP : Fld := { addr := 0x4008000C, lo := 0, width := 8, acc := .rw, rst := 64, mn := 1, mx := 255 }
def PTU_SERVO_KI : Fld := { addr := 0x4008000C, lo := 8, width := 8, acc := .rw, rst := 4, mn := 1, mx := 255 }
def PTU_SERVO_FREQ_LIM : Fld := { addr := 0x4008000C, lo := 16, width := 8, acc := .rw, rst := 100, mn := 1, mx := 200 }
def PTU_SERVO_SLEW_LIM : Fld := { addr := 0x4008000C, lo := 24, width := 8, acc := .rw, rst := 100, mn := 1, mx := 100 }

/-! PTU_TIME (R235, 10_plant_time.md) -/
def PTU_TIME_NS32 : Fld := { addr := 0x40080010, lo := 0, width := 32, acc := .ro, rst := 0 }
def PTU_TIME_EPOCH : Fld := { addr := 0x40080010, lo := 32, width := 32, acc := .rw, rst := 0 }

/-! PTU_INCR (R235, 10_plant_time.md) -/
def PTU_INCR_INCR : Fld := { addr := 0x40080018, lo := 0, width := 32, acc := .rw, rst := 67108864, mn := 66773320, mx := 67444408 }

/-! PTU_SYNC_CFG (R235, 10_plant_time.md) -/
def PTU_SYNC_CFG_SYNC_INT : Fld := { addr := 0x4008001C, lo := 0, width := 8, acc := .rw, rst := 8, mn := 1, mx := 128 }
def PTU_SYNC_CFG_DLY_TOL : Fld := { addr := 0x4008001C, lo := 8, width := 8, acc := .rw, rst := 20, mn := 1, mx := 255 }
def PTU_SYNC_CFG_HOLD_T : Fld := { addr := 0x4008001C, lo := 16, width := 16, acc := .rw, rst := 300, mn := 1, mx := 65535 }

/-! PTU_OFFSET_IN (R235, 10_plant_time.md) -/
def PTU_OFFSET_IN_OFFSET : Fld := { addr := 0x40080020, lo := 0, width := 32, acc := .wo, rst := 0 }
def PTU_OFFSET_IN_T : Fld := { addr := 0x40080020, lo := 32, width := 32, acc := .wo, rst := 0 }

/-! PTU_LAST_OFF (R235, 10_plant_time.md) -/
def PTU_LAST_OFF_OFFSET : Fld := { addr := 0x40080028, lo := 0, width := 32, acc := .ro, rst := 0 }
def PTU_LAST_OFF_T : Fld := { addr := 0x40080028, lo := 32, width := 32, acc := .ro, rst := 0 }

/-! PTU_GPS_BASE (R235, 10_plant_time.md) -/
def PTU_GPS_BASE_BASE : Fld := { addr := 0x40080030, lo := 0, width := 64, acc := .ro, rst := 0 }

/-! PTU_STEP (R235, 10_plant_time.md) -/
def PTU_STEP_DELTA : Fld := { addr := 0x40080038, lo := 0, width := 32, acc := .ro, rst := 0 }
def PTU_STEP_T : Fld := { addr := 0x40080038, lo := 32, width := 32, acc := .ro, rst := 0 }

/-! PTU_PPS_CFG (R235, 10_plant_time.md) -/
def PTU_PPS_CFG_WIDTH : Fld := { addr := 0x40080040, lo := 0, width := 16, acc := .rw, rst := 100, mn := 1, mx := 65535 }
def PTU_PPS_CFG_PPS_IN_EN : Fld := { addr := 0x40080040, lo := 16, width := 1, acc := .rw, rst := 0 }
def PTU_PPS_CFG_PPS_IN_FALL : Fld := { addr := 0x40080040, lo := 17, width := 1, acc := .rw, rst := 0 }

/-! PTU_HOLD (R235, 10_plant_time.md) -/
def PTU_HOLD_DUR : Fld := { addr := 0x40080044, lo := 0, width := 32, acc := .ro, rst := 0 }

/-! PTU_TSQ_STAT (R235, 10_plant_time.md) -/
def PTU_TSQ_STAT_OVF : Fld := { addr := 0x40080048, lo := 0, width := 6, acc := .w1c, rst := 0 }

/-! PTU_TSQ_POP (R235, 10_plant_time.md) -/
def PTU_TSQ_POP_POP : Fld := { addr := 0x4008004C, lo := 0, width := 6, acc := .wo, rst := 0 }

/-! PTU_PPS_IN (R235, 10_plant_time.md) -/
def PTU_PPS_IN_T : Fld := { addr := 0x40080050, lo := 0, width := 32, acc := .ro, rst := 0 }
def PTU_PPS_IN_CNT : Fld := { addr := 0x40080050, lo := 32, width := 32, acc := .ro, rst := 0 }

/-! PTU_PORT (R235, 10_plant_time.md) -/
def PTU_PORT_ASYM (n : Nat) : Fld := { addr := 0x40080080 + 8 * n, lo := 0, width := 16, acc := .rw, rst := 0 }
def PTU_PORT_DELAY (n : Nat) : Fld := { addr := 0x40080080 + 8 * n, lo := 32, width := 32, acc := .ro, rst := 0 }

/-! PTU_TSQ (R235, 10_plant_time.md) -/
def PTU_TSQ_T (n : Nat) : Fld := { addr := 0x40080100 + 8 * n, lo := 0, width := 32, acc := .ro, rst := 0 }
def PTU_TSQ_ID (n : Nat) : Fld := { addr := 0x40080100 + 8 * n, lo := 32, width := 12, acc := .ro, rst := 0 }
def PTU_TSQ_VALID (n : Nat) : Fld := { addr := 0x40080100 + 8 * n, lo := 44, width := 1, acc := .ro, rst := 0 }
def PTU_TSQ_LEVEL (n : Nat) : Fld := { addr := 0x40080100 + 8 * n, lo := 48, width := 5, acc := .ro, rst := 0 }

/-! ZFB_CTRL (R269, 11_zynum_fabric.md) -/
def ZFB_CTRL_RUN : Fld := { addr := 0x40090000, lo := 0, width := 1, acc := .rw, rst := 0 }
def ZFB_CTRL_ROLL_START : Fld := { addr := 0x40090000, lo := 1, width := 1, acc := .wo, rst := 0 }
def ZFB_CTRL_RECALL_EN : Fld := { addr := 0x40090000, lo := 2, width := 1, acc := .rw, rst := 1 }

/-! ZFB_STATUS (R269, 11_zynum_fabric.md) -/
def ZFB_STATUS_ASSIGNED : Fld := { addr := 0x40090004, lo := 0, width := 1, acc := .ro, rst := 0 }
def ZFB_STATUS_GROUP : Fld := { addr := 0x40090004, lo := 1, width := 1, acc := .ro, rst := 0 }
def ZFB_STATUS_ROLL_RUN : Fld := { addr := 0x40090004, lo := 2, width := 1, acc := .ro, rst := 0 }
def ZFB_STATUS_REVERSED : Fld := { addr := 0x40090004, lo := 3, width := 1, acc := .ro, rst := 0 }
def ZFB_STATUS_DRIVE : Fld := { addr := 0x40090004, lo := 4, width := 1, acc := .ro, rst := 0 }
def ZFB_STATUS_GEN : Fld := { addr := 0x40090004, lo := 16, width := 16, acc := .ro, rst := 0 }

/-! ZFB_ERR (R269, 11_zynum_fabric.md) -/
def ZFB_ERR_CFG_REJ : Fld := { addr := 0x40090008, lo := 0, width := 1, acc := .w1c, rst := 0 }
def ZFB_ERR_HDR_DROP : Fld := { addr := 0x40090008, lo := 1, width := 1, acc := .w1c, rst := 0 }
def ZFB_ERR_LEN_DROP : Fld := { addr := 0x40090008, lo := 2, width := 1, acc := .w1c, rst := 0 }
def ZFB_ERR_TTL_DROP : Fld := { addr := 0x40090008, lo := 3, width := 1, acc := .w1c, rst := 0 }
def ZFB_ERR_NO_ROUTE : Fld := { addr := 0x40090008, lo := 4, width := 1, acc := .w1c, rst := 0 }
def ZFB_ERR_ABORT : Fld := { addr := 0x40090008, lo := 5, width := 1, acc := .w1c, rst := 0 }
def ZFB_ERR_Q_DROP : Fld := { addr := 0x40090008, lo := 6, width := 1, acc := .w1c, rst := 0 }
def ZFB_ERR_GUARD : Fld := { addr := 0x40090008, lo := 7, width := 1, acc := .w1c, rst := 0 }
def ZFB_ERR_PROTECT : Fld := { addr := 0x40090008, lo := 8, width := 1, acc := .w1c, rst := 0 }
def ZFB_ERR_AUTH_FAIL : Fld := { addr := 0x40090008, lo := 9, width := 1, acc := .w1c, rst := 0 }
def ZFB_ERR_DRIVE_BLK : Fld := { addr := 0x40090008, lo := 10, width := 1, acc := .w1c, rst := 0 }
def ZFB_ERR_LATE_RX : Fld := { addr := 0x40090008, lo := 11, width := 1, acc := .w1c, rst := 0 }
def ZFB_ERR_BAD_ENTRY : Fld := { addr := 0x40090008, lo := 12, width := 1, acc := .w1c, rst := 0 }
def ZFB_ERR_RING_FULL : Fld := { addr := 0x40090008, lo := 13, width := 1, acc := .w1c, rst := 0 }

/-! ZFB_ID (R269, 11_zynum_fabric.md) -/
def ZFB_ID_NODE_ID : Fld := { addr := 0x4009000C, lo := 0, width := 18, acc := .ro, rst := 0 }
def ZFB_ID_DOMAIN : Fld := { addr := 0x4009000C, lo := 18, width := 8, acc := .ro, rst := 0 }

/-! ZFB_DOM_CFG (R269, 11_zynum_fabric.md) -/
def ZFB_DOM_CFG_DOMAIN : Fld := { addr := 0x40090010, lo := 0, width := 8, acc := .rw, rst := 0 }
def ZFB_DOM_CFG_ID_BASE : Fld := { addr := 0x40090010, lo := 16, width := 18, acc := .rw, rst := 1, mn := 1, mx := 262139 }
def ZFB_DOM_CFG_ID_COUNT : Fld := { addr := 0x40090010, lo := 48, width := 16, acc := .rw, rst := 32768, mn := 4, mx := 32768 }

/-! ZFB_ROUTE_CFG (R269, 11_zynum_fabric.md) -/
def ZFB_ROUTE_CFG_UP : Fld := { addr := 0x40090018, lo := 0, width := 3, acc := .ro, rst := 7 }
def ZFB_ROUTE_CFG_ALT : Fld := { addr := 0x40090018, lo := 3, width := 3, acc := .ro, rst := 7 }
def ZFB_ROUTE_CFG_STBY_P2 : Fld := { addr := 0x40090018, lo := 6, width := 1, acc := .ro, rst := 0 }
def ZFB_ROUTE_CFG_GRP_P0 : Fld := { addr := 0x40090018, lo := 7, width := 1, acc := .ro, rst := 0 }
def ZFB_ROUTE_CFG_GRP_P1 : Fld := { addr := 0x40090018, lo := 8, width := 1, acc := .ro, rst := 0 }

/-! ZFB_SWEEP_CFG (R269, 11_zynum_fabric.md) -/
def ZFB_SWEEP_CFG_DUE : Fld := { addr := 0x4009001C, lo := 0, width := 16, acc := .rw, rst := 2000, mn := 100, mx := 65535 }
def ZFB_SWEEP_CFG_RECALL_INT : Fld := { addr := 0x4009001C, lo := 16, width := 8, acc := .rw, rst := 10, mn := 1, mx := 255 }
def ZFB_SWEEP_CFG_RECALL_MAX : Fld := { addr := 0x4009001C, lo := 24, width := 2, acc := .rw, rst := 2 }

/-! ZFB_GUARD_CFG (R269, 11_zynum_fabric.md) -/
def ZFB_GUARD_CFG_HOLD : Fld := { addr := 0x40090020, lo := 0, width := 8, acc := .rw, rst := 10, mn := 1, mx := 255 }

/-! ZFB_ROLL_RES (R269, 11_zynum_fabric.md) -/
def ZFB_ROLL_RES_OUTCOME : Fld := { addr := 0x40090024, lo := 0, width := 8, acc := .ro, rst := 0 }
def ZFB_ROLL_RES_NODES : Fld := { addr := 0x40090024, lo := 8, width := 16, acc := .ro, rst := 0 }
def ZFB_ROLL_RES_DEPTH : Fld := { addr := 0x40090024, lo := 24, width := 6, acc := .ro, rst := 0 }

/-! ZFB_CNT (R269, 11_zynum_fabric.md) -/
def ZFB_CNT_DROP_CNT : Fld := { addr := 0x40090028, lo := 0, width := 16, acc := .rc, rst := 0 }
def ZFB_CNT_Q_DROP_CNT : Fld := { addr := 0x40090028, lo := 16, width := 16, acc := .rc, rst := 0 }
def ZFB_CNT_AUTH_FAIL_CNT : Fld := { addr := 0x40090028, lo := 32, width := 16, acc := .rc, rst := 0 }
def ZFB_CNT_RECALL_CNT : Fld := { addr := 0x40090028, lo := 48, width := 16, acc := .rc, rst := 0 }

/-! ZFB_TX_RING (R269, 11_zynum_fabric.md) -/
def ZFB_TX_RING_ADDR : Fld := { addr := 0x40090030, lo := 0, width := 64, acc := .rw, rst := 0 }

/-! ZFB_TX_PTR (R269, 11_zynum_fabric.md) -/
def ZFB_TX_PTR_HEAD : Fld := { addr := 0x40090038, lo := 0, width := 6, acc := .ro, rst := 0 }
def ZFB_TX_PTR_TAIL : Fld := { addr := 0x40090038, lo := 8, width := 6, acc := .rw, rst := 0 }

/-! ZFB_RX_RING (R269, 11_zynum_fabric.md) -/
def ZFB_RX_RING_ADDR : Fld := { addr := 0x40090040, lo := 0, width := 64, acc := .rw, rst := 0 }

/-! ZFB_RX_PTR (R269, 11_zynum_fabric.md) -/
def ZFB_RX_PTR_HEAD : Fld := { addr := 0x40090048, lo := 0, width := 6, acc := .rw, rst := 0 }
def ZFB_RX_PTR_TAIL : Fld := { addr := 0x40090048, lo := 8, width := 6, acc := .ro, rst := 0 }

/-! ZFB_PORT (R269, 11_zynum_fabric.md) -/
def ZFB_PORT_STATE (n : Nat) : Fld := { addr := 0x40090100 + 8 * n, lo := 0, width := 2, acc := .ro, rst := 0 }
def ZFB_PORT_ROLE (n : Nat) : Fld := { addr := 0x40090100 + 8 * n, lo := 2, width := 2, acc := .ro, rst := 0 }
def ZFB_PORT_WRAP (n : Nat) : Fld := { addr := 0x40090100 + 8 * n, lo := 4, width := 1, acc := .ro, rst := 0 }
def ZFB_PORT_RATE (n : Nat) : Fld := { addr := 0x40090100 + 8 * n, lo := 8, width := 11, acc := .rw, rst := 1220, mn := 1, mx := 1220 }
def ZFB_PORT_HDR_ERR_CNT (n : Nat) : Fld := { addr := 0x40090100 + 8 * n, lo := 32, width := 16, acc := .rc, rst := 0 }
def ZFB_PORT_DOWN_CNT (n : Nat) : Fld := { addr := 0x40090100 + 8 * n, lo := 48, width := 16, acc := .rc, rst := 0 }

/-! ZFB_RT (R269, 11_zynum_fabric.md) -/
def ZFB_RT_LO (n : Nat) : Fld := { addr := 0x40091000 + 8 * n, lo := 0, width := 18, acc := .ro, rst := 0 }
def ZFB_RT_HI (n : Nat) : Fld := { addr := 0x40091000 + 8 * n, lo := 20, width := 18, acc := .ro, rst := 0 }
def ZFB_RT_VALID (n : Nat) : Fld := { addr := 0x40091000 + 8 * n, lo := 38, width := 1, acc := .ro, rst := 0 }
def ZFB_RT_STBY (n : Nat) : Fld := { addr := 0x40091000 + 8 * n, lo := 39, width := 1, acc := .ro, rst := 0 }

/-! PRD_CTRL (R297, 12_pair_and_domino.md) -/
def PRD_CTRL_EN : Fld := { addr := 0x400A0000, lo := 0, width := 1, acc := .rw, rst := 0 }
def PRD_CTRL_RELEASE : Fld := { addr := 0x400A0000, lo := 1, width := 1, acc := .wo, rst := 0 }
def PRD_CTRL_SYNC_REQ : Fld := { addr := 0x400A0000, lo := 2, width := 1, acc := .wo, rst := 0 }

/-! PRD_STATUS (R297, 12_pair_and_domino.md) -/
def PRD_STATUS_GATE : Fld := { addr := 0x400A0004, lo := 0, width := 3, acc := .ro, rst := 0 }
def PRD_STATUS_TOKEN_CNT : Fld := { addr := 0x400A0004, lo := 3, width := 3, acc := .ro, rst := 0 }
def PRD_STATUS_N_EXP2 : Fld := { addr := 0x400A0004, lo := 6, width := 1, acc := .ro, rst := 0 }
def PRD_STATUS_POS : Fld := { addr := 0x400A0004, lo := 7, width := 1, acc := .ro, rst := 0 }
def PRD_STATUS_HALF : Fld := { addr := 0x400A0004, lo := 8, width := 1, acc := .ro, rst := 0 }
def PRD_STATUS_ML_STATE : Fld := { addr := 0x400A0004, lo := 9, width := 2, acc := .ro, rst := 0 }
def PRD_STATUS_DL_UP : Fld := { addr := 0x400A0004, lo := 11, width := 1, acc := .ro, rst := 0 }
def PRD_STATUS_PART_HOLD : Fld := { addr := 0x400A0004, lo := 12, width := 1, acc := .ro, rst := 0 }
def PRD_STATUS_PART_ALIVE : Fld := { addr := 0x400A0004, lo := 13, width := 1, acc := .ro, rst := 0 }
def PRD_STATUS_PART_HB_OK : Fld := { addr := 0x400A0004, lo := 14, width := 1, acc := .ro, rst := 0 }
def PRD_STATUS_TAKE_READY : Fld := { addr := 0x400A0004, lo := 15, width := 1, acc := .ro, rst := 0 }
def PRD_STATUS_ALIVE : Fld := { addr := 0x400A0004, lo := 16, width := 1, acc := .ro, rst := 1 }

/-! PRD_ERR (R297, 12_pair_and_domino.md) -/
def PRD_ERR_CFG_REJ : Fld := { addr := 0x400A0008, lo := 0, width := 1, acc := .w1c, rst := 0 }
def PRD_ERR_CMD_REJ : Fld := { addr := 0x400A0008, lo := 1, width := 1, acc := .w1c, rst := 0 }
def PRD_ERR_TOKEN_LINE : Fld := { addr := 0x400A0008, lo := 2, width := 1, acc := .w1c, rst := 0 }
def PRD_ERR_COLLISION : Fld := { addr := 0x400A0008, lo := 3, width := 1, acc := .w1c, rst := 0 }
def PRD_ERR_VETO : Fld := { addr := 0x400A0008, lo := 4, width := 1, acc := .w1c, rst := 0 }
def PRD_ERR_ML_DOWN : Fld := { addr := 0x400A0008, lo := 5, width := 1, acc := .w1c, rst := 0 }
def PRD_ERR_DL_DOWN : Fld := { addr := 0x400A0008, lo := 6, width := 1, acc := .w1c, rst := 0 }
def PRD_ERR_HB_LOST : Fld := { addr := 0x400A0008, lo := 7, width := 1, acc := .w1c, rst := 0 }
def PRD_ERR_MIR_OVF : Fld := { addr := 0x400A0008, lo := 8, width := 1, acc := .w1c, rst := 0 }
def PRD_ERR_DELTA_DISC : Fld := { addr := 0x400A0008, lo := 9, width := 1, acc := .w1c, rst := 0 }
def PRD_ERR_CFG_DIFF : Fld := { addr := 0x400A0008, lo := 10, width := 1, acc := .w1c, rst := 0 }
def PRD_ERR_POS_SAME : Fld := { addr := 0x400A0008, lo := 11, width := 1, acc := .w1c, rst := 0 }

/-! PRD_DIAG_EN (R297, 12_pair_and_domino.md) -/
def PRD_DIAG_EN_CHECK : Fld := { addr := 0x400A000C, lo := 0, width := 4, acc := .rw, rst := 15 }

/-! PRD_CAUSE (R297, 12_pair_and_domino.md) -/
def PRD_CAUSE_CAUSE : Fld := { addr := 0x400A0010, lo := 0, width := 4, acc := .ro, rst := 0 }
def PRD_CAUSE_CHECK : Fld := { addr := 0x400A0010, lo := 4, width := 4, acc := .ro, rst := 0 }
def PRD_CAUSE_T : Fld := { addr := 0x400A0010, lo := 32, width := 32, acc := .ro, rst := 0 }

/-! PRD_WDT (R297, 12_pair_and_domino.md) -/
def PRD_WDT_EN : Fld := { addr := 0x400A0018, lo := 0, width := 1, acc := .rw, rst := 0 }
def PRD_WDT_WIN : Fld := { addr := 0x400A0018, lo := 4, width := 12, acc := .rw, rst := 12, mn := 8, mx := 4095 }
def PRD_WDT_SRC : Fld := { addr := 0x400A0018, lo := 16, width := 9, acc := .rw, rst := 511 }

/-! PRD_KICK (R297, 12_pair_and_domino.md) -/
def PRD_KICK_KICK : Fld := { addr := 0x400A001C, lo := 0, width := 32, acc := .wo, rst := 0 }

/-! PRD_HB (R297, 12_pair_and_domino.md) -/
def PRD_HB_TICK : Fld := { addr := 0x400A0020, lo := 0, width := 1, acc := .wo, rst := 0 }
def PRD_HB_HB_TO : Fld := { addr := 0x400A0020, lo := 8, width := 8, acc := .rw, rst := 10, mn := 1, mx := 255 }

/-! PRD_COMMIT (R297, 12_pair_and_domino.md) -/
def PRD_COMMIT_CI : Fld := { addr := 0x400A0024, lo := 0, width := 32, acc := .wo, rst := 0 }

/-! PRD_MIR_STAT (R297, 12_pair_and_domino.md) -/
def PRD_MIR_STAT_CI_TX : Fld := { addr := 0x400A0028, lo := 0, width := 32, acc := .ro, rst := 0 }
def PRD_MIR_STAT_CI_RX : Fld := { addr := 0x400A0028, lo := 32, width := 32, acc := .ro, rst := 0 }

/-! PRD_CNT (R297, 12_pair_and_domino.md) -/
def PRD_CNT_DISC_CNT : Fld := { addr := 0x400A0030, lo := 0, width := 16, acc := .rc, rst := 0 }
def PRD_CNT_STALL_CNT : Fld := { addr := 0x400A0030, lo := 16, width := 16, acc := .rc, rst := 0 }
def PRD_CNT_COLL_CNT : Fld := { addr := 0x400A0030, lo := 32, width := 16, acc := .rc, rst := 0 }
def PRD_CNT_HB_LOSS_CNT : Fld := { addr := 0x400A0030, lo := 48, width := 16, acc := .rc, rst := 0 }

/-! PRD_TAKE (R297, 12_pair_and_domino.md) -/
def PRD_TAKE_T_ASSERT : Fld := { addr := 0x400A0038, lo := 0, width := 32, acc := .ro, rst := 0 }
def PRD_TAKE_T_DRIVE : Fld := { addr := 0x400A0038, lo := 32, width := 32, acc := .ro, rst := 0 }

/-! PRD_MR (R297, 12_pair_and_domino.md) -/
def PRD_MR_BASE (n : Nat) : Fld := { addr := 0x400A0100 + 8 * n, lo := 0, width := 32, acc := .rw, rst := 0 }
def PRD_MR_SIZE (n : Nat) : Fld := { addr := 0x400A0100 + 8 * n, lo := 32, width := 24, acc := .rw, rst := 0, mn := 0, mx := 3014656 }
def PRD_MR_KIND (n : Nat) : Fld := { addr := 0x400A0100 + 8 * n, lo := 56, width := 2, acc := .rw, rst := 0, mn := 0, mx := 2 }

/-! MBX_DOORBELL (R321, 13_mailboxes.md) -/
def MBX_DOORBELL_RING : Fld := { addr := 0x400B0000, lo := 0, width := 8, acc := .wo, rst := 0 }

/-! MBX_MB_STAT (R321, 13_mailboxes.md) -/
def MBX_MB_STAT_STATE (j : Nat) : Fld := { addr := 0x400B0002, lo := 2*j, width := 2, acc := .ro, rst := 0 }

/-! MBX_ACK (R321, 13_mailboxes.md) -/
def MBX_ACK_ACK : Fld := { addr := 0x400B0004, lo := 0, width := 8, acc := .wo, rst := 0 }

/-! MBX_IRQ (R321, 13_mailboxes.md) -/
def MBX_IRQ_DONE : Fld := { addr := 0x400B0006, lo := 0, width := 8, acc := .w1c, rst := 0 }

/-! MBX_IRQ_EN (R321, 13_mailboxes.md) -/
def MBX_IRQ_EN_EN : Fld := { addr := 0x400B0008, lo := 0, width := 8, acc := .rw, rst := 0 }

/-! MBX_PAGE (R321, 13_mailboxes.md) -/
def MBX_PAGE_MB : Fld := { addr := 0x400B000A, lo := 0, width := 3, acc := .rw, rst := 0 }

/-! MBX_HB_ERR (R321, 13_mailboxes.md) -/
def MBX_HB_ERR_RING_BUSY : Fld := { addr := 0x400B000C, lo := 0, width := 1, acc := .w1c, rst := 0 }
def MBX_HB_ERR_WR_BUSY : Fld := { addr := 0x400B000C, lo := 1, width := 1, acc := .w1c, rst := 0 }
def MBX_HB_ERR_RING_PATH : Fld := { addr := 0x400B000C, lo := 2, width := 1, acc := .w1c, rst := 0 }
def MBX_HB_ERR_CFG_REJ : Fld := { addr := 0x400B000C, lo := 3, width := 1, acc := .w1c, rst := 0 }

/-! MBX_ID (R321, 13_mailboxes.md) -/
def MBX_ID_ID : Fld := { addr := 0x400B000E, lo := 0, width := 16, acc := .ro, rst := 18504 }

/-! MBX_PATH (R321, 13_mailboxes.md) -/
def MBX_PATH_PATH (j : Nat) : Fld := { addr := 0x400B0010, lo := 2*j, width := 2, acc := .rw, rst := (0xE500 >>> (2*j)) % 4 }

/-! MBX_STATUS (R321, 13_mailboxes.md) -/
def MBX_STATUS_DEV_KEY : Fld := { addr := 0x400B0014, lo := 0, width := 1, acc := .ro, rst := 0 }
def MBX_STATUS_HOST_KEY : Fld := { addr := 0x400B0014, lo := 1, width := 1, acc := .ro, rst := 0 }
def MBX_STATUS_LONG_RUN : Fld := { addr := 0x400B0014, lo := 2, width := 1, acc := .ro, rst := 0 }
def MBX_STATUS_LONG_MB : Fld := { addr := 0x400B0014, lo := 3, width := 3, acc := .ro, rst := 0 }

/-! MBX_CNT (R321, 13_mailboxes.md) -/
def MBX_CNT_REFUSED_CNT : Fld := { addr := 0x400B0018, lo := 0, width := 16, acc := .rc, rst := 0 }
def MBX_CNT_CHECK_CNT : Fld := { addr := 0x400B0018, lo := 16, width := 16, acc := .rc, rst := 0 }
def MBX_CNT_LEN_CNT : Fld := { addr := 0x400B0018, lo := 32, width := 16, acc := .rc, rst := 0 }
def MBX_CNT_RESP_LOST : Fld := { addr := 0x400B0018, lo := 48, width := 16, acc := .rc, rst := 0 }

/-! MBX_ETH_CFG (R321, 13_mailboxes.md) -/
def MBX_ETH_CFG_PORT : Fld := { addr := 0x400B0020, lo := 0, width := 16, acc := .rw, rst := 47848, mn := 1, mx := 65535 }
def MBX_ETH_CFG_EN : Fld := { addr := 0x400B0020, lo := 16, width := 1, acc := .rw, rst := 0 }

/-! MBX_PIP_CTRL (R418, 19_memory_and_pip.md) -/
def MBX_PIP_CTRL_DRAM_PER : Fld := { addr := 0x400B0040, lo := 0, width := 11, acc := .rw, rst := 60, mn := 1, mx := 1440 }
def MBX_PIP_CTRL_SRAM_PER : Fld := { addr := 0x400B0040, lo := 16, width := 11, acc := .rw, rst := 10, mn := 1, mx := 1440 }
def MBX_PIP_CTRL_FLASH_PER : Fld := { addr := 0x400B0040, lo := 27, width := 5, acc := .rw, rst := 7, mn := 1, mx := 31 }

/-! MBX_PIP_ERR (R418, 19_memory_and_pip.md) -/
def MBX_PIP_ERR_DRAM_CORR : Fld := { addr := 0x400B0044, lo := 0, width := 1, acc := .w1c, rst := 0 }
def MBX_PIP_ERR_DRAM_UNCORR : Fld := { addr := 0x400B0044, lo := 1, width := 1, acc := .w1c, rst := 0 }
def MBX_PIP_ERR_SRAM_CORR : Fld := { addr := 0x400B0044, lo := 2, width := 1, acc := .w1c, rst := 0 }
def MBX_PIP_ERR_SRAM_UNCORR : Fld := { addr := 0x400B0044, lo := 3, width := 1, acc := .w1c, rst := 0 }
def MBX_PIP_ERR_FLASH_CORR : Fld := { addr := 0x400B0044, lo := 4, width := 1, acc := .w1c, rst := 0 }
def MBX_PIP_ERR_FLASH_UNCORR : Fld := { addr := 0x400B0044, lo := 5, width := 1, acc := .w1c, rst := 0 }
def MBX_PIP_ERR_BUS_ERR : Fld := { addr := 0x400B0044, lo := 6, width := 1, acc := .w1c, rst := 0 }

/-! MBX_PIP_CNT (R418, 19_memory_and_pip.md) -/
def MBX_PIP_CNT_CORR_CNT : Fld := { addr := 0x400B0048, lo := 0, width := 16, acc := .rc, rst := 0 }
def MBX_PIP_CNT_FLASH_CORR_CNT : Fld := { addr := 0x400B0048, lo := 16, width := 16, acc := .rc, rst := 0 }
def MBX_PIP_CNT_UNCORR_CNT : Fld := { addr := 0x400B0048, lo := 32, width := 16, acc := .rc, rst := 0 }
def MBX_PIP_CNT_OLD_CNT : Fld := { addr := 0x400B0048, lo := 48, width := 16, acc := .rc, rst := 0 }

/-! MBX_PIP_ADDR (R418, 19_memory_and_pip.md) -/
def MBX_PIP_ADDR_ADDR : Fld := { addr := 0x400B0050, lo := 0, width := 32, acc := .ro, rst := 0 }
def MBX_PIP_ADDR_SYM : Fld := { addr := 0x400B0050, lo := 32, width := 6, acc := .ro, rst := 0 }
def MBX_PIP_ADDR_UNCORR : Fld := { addr := 0x400B0050, lo := 38, width := 1, acc := .ro, rst := 0 }

/-! MBX_SCRUB_STAT (R418, 19_memory_and_pip.md) -/
def MBX_SCRUB_STAT_DRAM_PASS : Fld := { addr := 0x400B0058, lo := 0, width := 8, acc := .ro, rst := 0 }
def MBX_SCRUB_STAT_SRAM_PASS : Fld := { addr := 0x400B0058, lo := 8, width := 8, acc := .ro, rst := 0 }
def MBX_SCRUB_STAT_FLASH_PASS : Fld := { addr := 0x400B0058, lo := 16, width := 8, acc := .ro, rst := 0 }

/-! MBX_PWR_STAT (R432, 20_power_and_isolation.md) -/
def MBX_PWR_STAT_VIN : Fld := { addr := 0x400B0060, lo := 0, width := 10, acc := .ro, rst := 0 }
def MBX_PWR_STAT_TJ : Fld := { addr := 0x400B0060, lo := 16, width := 8, acc := .ro, rst := 0 }
def MBX_PWR_STAT_FS_PRESENT : Fld := { addr := 0x400B0060, lo := 24, width := 1, acc := .ro, rst := 0 }
def MBX_PWR_STAT_HOLD_OK : Fld := { addr := 0x400B0060, lo := 25, width := 1, acc := .ro, rst := 0 }

/-! MBX_PWR_ERR (R432, 20_power_and_isolation.md) -/
def MBX_PWR_ERR_BROWNOUT : Fld := { addr := 0x400B0064, lo := 0, width := 1, acc := .w1c, rst := 0 }
def MBX_PWR_ERR_VIN_HIGH : Fld := { addr := 0x400B0064, lo := 1, width := 1, acc := .w1c, rst := 0 }
def MBX_PWR_ERR_SUPPLY : Fld := { addr := 0x400B0064, lo := 2, width := 1, acc := .w1c, rst := 0 }
def MBX_PWR_ERR_RAIL : Fld := { addr := 0x400B0064, lo := 3, width := 3, acc := .ro, rst := 0 }
def MBX_PWR_ERR_JUNCT_HOT : Fld := { addr := 0x400B0064, lo := 6, width := 1, acc := .w1c, rst := 0 }
def MBX_PWR_ERR_THERMAL : Fld := { addr := 0x400B0064, lo := 7, width := 1, acc := .w1c, rst := 0 }

/-! MBX_START (R444, 21_start_and_bulb.md) -/
def MBX_START_RESET_SRC : Fld := { addr := 0x400B0068, lo := 0, width := 3, acc := .ro, rst := 0 }
def MBX_START_BULB : Fld := { addr := 0x400B0068, lo := 3, width := 1, acc := .ro, rst := 0 }
def MBX_START_SLOT_RUN : Fld := { addr := 0x400B0068, lo := 4, width := 1, acc := .ro, rst := 0 }
def MBX_START_SLOT_SEL : Fld := { addr := 0x400B0068, lo := 5, width := 1, acc := .ro, rst := 0 }
def MBX_START_FAIL_CNT : Fld := { addr := 0x400B0068, lo := 6, width := 2, acc := .ro, rst := 0 }
def MBX_START_REASON : Fld := { addr := 0x400B0068, lo := 8, width := 8, acc := .ro, rst := 0 }

/-! CRT_CTRL (R350, 15_cyclic_runtime.md) -/
def CRT_CTRL_RUN : Fld := { addr := 0x400C0000, lo := 0, width := 1, acc := .rw, rst := 0 }
def CRT_CTRL_DEBUG_EN : Fld := { addr := 0x400C0000, lo := 1, width := 1, acc := .rw, rst := 0 }
def CRT_CTRL_STOP_SAFE : Fld := { addr := 0x400C0000, lo := 2, width := 1, acc := .rw, rst := 0 }
def CRT_CTRL_OVR_RELEASE : Fld := { addr := 0x400C0000, lo := 3, width := 1, acc := .rw, rst := 0 }
def CRT_CTRL_RESET : Fld := { addr := 0x400C0000, lo := 4, width := 1, acc := .wo, rst := 0 }

/-! CRT_STATUS (R350, 15_cyclic_runtime.md) -/
def CRT_STATUS_STATE : Fld := { addr := 0x400C0004, lo := 0, width := 2, acc := .ro, rst := 0 }
def CRT_STATUS_FORCED : Fld := { addr := 0x400C0004, lo := 2, width := 1, acc := .ro, rst := 0 }
def CRT_STATUS_HOLD_ANY : Fld := { addr := 0x400C0004, lo := 3, width := 1, acc := .ro, rst := 0 }
def CRT_STATUS_IMAGE_OK : Fld := { addr := 0x400C0004, lo := 4, width := 1, acc := .ro, rst := 0 }
def CRT_STATUS_N_FORCE : Fld := { addr := 0x400C0004, lo := 8, width := 9, acc := .ro, rst := 0 }
def CRT_STATUS_N_TASK : Fld := { addr := 0x400C0004, lo := 17, width := 6, acc := .ro, rst := 0 }

/-! CRT_ERR (R350, 15_cyclic_runtime.md) -/
def CRT_ERR_CFG_REJ : Fld := { addr := 0x400C0008, lo := 0, width := 1, acc := .w1c, rst := 0 }
def CRT_ERR_CMD_REJ : Fld := { addr := 0x400C0008, lo := 1, width := 1, acc := .w1c, rst := 0 }
def CRT_ERR_OVERRUN : Fld := { addr := 0x400C0008, lo := 2, width := 1, acc := .w1c, rst := 0 }
def CRT_ERR_EVT_LOST : Fld := { addr := 0x400C0008, lo := 3, width := 1, acc := .w1c, rst := 0 }
def CRT_ERR_STN_LOST : Fld := { addr := 0x400C0008, lo := 4, width := 1, acc := .w1c, rst := 0 }
def CRT_ERR_OUT_DISCARD : Fld := { addr := 0x400C0008, lo := 5, width := 1, acc := .w1c, rst := 0 }
def CRT_ERR_SIG_REJ : Fld := { addr := 0x400C0008, lo := 6, width := 1, acc := .w1c, rst := 0 }
def CRT_ERR_FORCE_SAFE : Fld := { addr := 0x400C0008, lo := 7, width := 1, acc := .w1c, rst := 0 }

/-! CRT_ORIGIN (R350, 15_cyclic_runtime.md) -/
def CRT_ORIGIN_NS32 : Fld := { addr := 0x400C0010, lo := 0, width := 32, acc := .rw, rst := 0 }
def CRT_ORIGIN_EPOCH : Fld := { addr := 0x400C0010, lo := 32, width := 32, acc := .rw, rst := 0 }

/-! CRT_CNT (R350, 15_cyclic_runtime.md) -/
def CRT_CNT_OVR_CNT : Fld := { addr := 0x400C0018, lo := 0, width := 16, acc := .rc, rst := 0 }
def CRT_CNT_EVT_LOST_CNT : Fld := { addr := 0x400C0018, lo := 16, width := 16, acc := .rc, rst := 0 }
def CRT_CNT_OUT_DISC_CNT : Fld := { addr := 0x400C0018, lo := 32, width := 16, acc := .rc, rst := 0 }
def CRT_CNT_SIG_REJ_CNT : Fld := { addr := 0x400C0018, lo := 48, width := 16, acc := .rc, rst := 0 }

/-! CRT_OVR (R350, 15_cyclic_runtime.md) -/
def CRT_OVR_TASK : Fld := { addr := 0x400C0020, lo := 0, width := 5, acc := .ro, rst := 0 }
def CRT_OVR_T : Fld := { addr := 0x400C0020, lo := 32, width := 32, acc := .ro, rst := 0 }

/-! CRT_STN_ACK (R350, 15_cyclic_runtime.md) -/
def CRT_STN_ACK_ACK : Fld := { addr := 0x400C0028, lo := 0, width := 64, acc := .wo, rst := 0 }

/-! CRT_TASK_STAT (R350, 15_cyclic_runtime.md) -/
def CRT_TASK_STAT_STATE (n : Nat) : Fld := { addr := 0x400C0100 + 8 * n, lo := 0, width := 2, acc := .ro, rst := 0 }
def CRT_TASK_STAT_KIND (n : Nat) : Fld := { addr := 0x400C0100 + 8 * n, lo := 2, width := 1, acc := .ro, rst := 0 }
def CRT_TASK_STAT_LATCHED (n : Nat) : Fld := { addr := 0x400C0100 + 8 * n, lo := 3, width := 1, acc := .ro, rst := 0 }
def CRT_TASK_STAT_PRIO (n : Nat) : Fld := { addr := 0x400C0100 + 8 * n, lo := 4, width := 4, acc := .ro, rst := 0 }
def CRT_TASK_STAT_CORE (n : Nat) : Fld := { addr := 0x400C0100 + 8 * n, lo := 8, width := 3, acc := .ro, rst := 0 }
def CRT_TASK_STAT_RESP (n : Nat) : Fld := { addr := 0x400C0100 + 8 * n, lo := 32, width := 16, acc := .ro, rst := 0 }
def CRT_TASK_STAT_INST (n : Nat) : Fld := { addr := 0x400C0100 + 8 * n, lo := 48, width := 16, acc := .ro, rst := 0 }

/-! CRT_STN_STAT (R350, 15_cyclic_runtime.md) -/
def CRT_STN_STAT_STATE (n : Nat) : Fld := { addr := 0x400C0200 + 4 * n, lo := 0, width := 2, acc := .ro, rst := 0 }
def CRT_STN_STAT_MISS (n : Nat) : Fld := { addr := 0x400C0200 + 4 * n, lo := 2, width := 4, acc := .ro, rst := 0 }
def CRT_STN_STAT_WDT (n : Nat) : Fld := { addr := 0x400C0200 + 4 * n, lo := 6, width := 1, acc := .ro, rst := 0 }
def CRT_STN_STAT_NODE (n : Nat) : Fld := { addr := 0x400C0200 + 4 * n, lo := 14, width := 18, acc := .ro, rst := 0 }

/-! FIO_CTRL (R366, 16_field_io.md) -/
def FIO_CTRL_ENABLE : Fld := { addr := 0x400D0000, lo := 0, width := 1, acc := .rw, rst := 0 }

/-! FIO_STATUS (R366, 16_field_io.md) -/
def FIO_STATUS_STATE : Fld := { addr := 0x400D0004, lo := 0, width := 2, acc := .ro, rst := 0 }
def FIO_STATUS_LINK : Fld := { addr := 0x400D0004, lo := 2, width := 1, acc := .ro, rst := 0 }
def FIO_STATUS_FS_OK : Fld := { addr := 0x400D0004, lo := 3, width := 1, acc := .ro, rst := 0 }
def FIO_STATUS_OUT_PERMIT : Fld := { addr := 0x400D0004, lo := 4, width := 1, acc := .ro, rst := 0 }
def FIO_STATUS_PENDING : Fld := { addr := 0x400D0004, lo := 5, width := 1, acc := .ro, rst := 0 }

/-! FIO_ERR (R366, 16_field_io.md) -/
def FIO_ERR_UP_CRC : Fld := { addr := 0x400D0008, lo := 0, width := 1, acc := .w1c, rst := 0 }
def FIO_ERR_DOWN_REJ : Fld := { addr := 0x400D0008, lo := 1, width := 1, acc := .w1c, rst := 0 }
def FIO_ERR_SYNC_IN_ACTIVE : Fld := { addr := 0x400D0008, lo := 2, width := 1, acc := .w1c, rst := 0 }
def FIO_ERR_LINK_LOST : Fld := { addr := 0x400D0008, lo := 3, width := 1, acc := .w1c, rst := 0 }
def FIO_ERR_CFG_REJ : Fld := { addr := 0x400D0008, lo := 4, width := 1, acc := .w1c, rst := 0 }
def FIO_ERR_OWN_REJ : Fld := { addr := 0x400D0008, lo := 5, width := 1, acc := .w1c, rst := 0 }
def FIO_ERR_MISMATCH : Fld := { addr := 0x400D0008, lo := 6, width := 1, acc := .w1c, rst := 0 }
def FIO_ERR_WR_DROPPED : Fld := { addr := 0x400D0008, lo := 7, width := 1, acc := .w1c, rst := 0 }
def FIO_ERR_FIELD_POR : Fld := { addr := 0x400D0008, lo := 8, width := 1, acc := .w1c, rst := 0 }
def FIO_ERR_FS_LOW : Fld := { addr := 0x400D0008, lo := 9, width := 1, acc := .w1c, rst := 0 }

/-! FIO_LINK_ERRCNT (R366, 16_field_io.md) -/
def FIO_LINK_ERRCNT_UP_CRC_CNT : Fld := { addr := 0x400D000C, lo := 0, width := 16, acc := .rc, rst := 0 }
def FIO_LINK_ERRCNT_DOWN_REJ_CNT : Fld := { addr := 0x400D000C, lo := 16, width := 16, acc := .rc, rst := 0 }

/-! FIO_CFG (R366, 16_field_io.md) -/
def FIO_CFG_SILENCE : Fld := { addr := 0x400D0010, lo := 0, width := 9, acc := .rw, rst := 100, mn := 50, mx := 500 }

/-! FIO_OUT (R366, 16_field_io.md) -/
def FIO_OUT_OUT : Fld := { addr := 0x400D0014, lo := 0, width := 16, acc := .rw, rst := 0 }

/-! FIO_IN (R366, 16_field_io.md) -/
def FIO_IN_IN : Fld := { addr := 0x400D0018, lo := 0, width := 16, acc := .ro, rst := 0 }
def FIO_IN_RB : Fld := { addr := 0x400D0018, lo := 16, width := 16, acc := .ro, rst := 0 }
def FIO_IN_ACT : Fld := { addr := 0x400D0018, lo := 32, width := 16, acc := .ro, rst := 0 }

/-! FIO_FAULT (R366, 16_field_io.md) -/
def FIO_FAULT_OVL : Fld := { addr := 0x400D0020, lo := 0, width := 16, acc := .ro, rst := 0 }
def FIO_FAULT_OPEN : Fld := { addr := 0x400D0020, lo := 16, width := 16, acc := .ro, rst := 0 }
def FIO_FAULT_OT : Fld := { addr := 0x400D0020, lo := 32, width := 16, acc := .ro, rst := 0 }
def FIO_FAULT_DISC : Fld := { addr := 0x400D0020, lo := 48, width := 16, acc := .ro, rst := 0 }

/-! FIO_IN_CFG (R366, 16_field_io.md) -/
def FIO_IN_CFG_DEB (n : Nat) : Fld := { addr := 0x400D0040 + 4 * n, lo := 0, width := 16, acc := .rw, rst := 3000, mn := 1, mx := 65535 }
def FIO_IN_CFG_INV (n : Nat) : Fld := { addr := 0x400D0040 + 4 * n, lo := 16, width := 1, acc := .rw, rst := 0 }

/-! FIO_OUT_CFG (R366, 16_field_io.md) -/
def FIO_OUT_CFG_OVL_T (n : Nat) : Fld := { addr := 0x400D0080 + 4 * n, lo := 0, width := 8, acc := .rw, rst := 10, mn := 1, mx := 255 }
def FIO_OUT_CFG_RESTART (n : Nat) : Fld := { addr := 0x400D0080 + 4 * n, lo := 8, width := 1, acc := .rw, rst := 0 }
def FIO_OUT_CFG_OPEN_EN (n : Nat) : Fld := { addr := 0x400D0080 + 4 * n, lo := 9, width := 1, acc := .rw, rst := 1 }
def FIO_OUT_CFG_DISC_REL (n : Nat) : Fld := { addr := 0x400D0080 + 4 * n, lo := 10, width := 1, acc := .rw, rst := 0 }
def FIO_OUT_CFG_RB_T (n : Nat) : Fld := { addr := 0x400D0080 + 4 * n, lo := 16, width := 10, acc := .rw, rst := 100, mn := 10, mx := 1000 }

/-! FIO_EDGE (R366, 16_field_io.md) -/
def FIO_EDGE_T (n : Nat) : Fld := { addr := 0x400D0100 + 8 * n, lo := 0, width := 32, acc := .ro, rst := 0 }
def FIO_EDGE_LEVEL (n : Nat) : Fld := { addr := 0x400D0100 + 8 * n, lo := 32, width := 1, acc := .ro, rst := 0 }
def FIO_EDGE_CNT (n : Nat) : Fld := { addr := 0x400D0100 + 8 * n, lo := 48, width := 16, acc := .ro, rst := 0 }

/-! CAN_CTRL (R380, 17_can_fd.md) -/
def CAN_CTRL_EN (n : Nat) : Fld := { addr := 0x400E0000 + 256 * n, lo := 0, width := 1, acc := .rw, rst := 0 }
def CAN_CTRL_LISTEN (n : Nat) : Fld := { addr := 0x400E0000 + 256 * n, lo := 1, width := 1, acc := .rw, rst := 0 }
def CAN_CTRL_RECOVER (n : Nat) : Fld := { addr := 0x400E0000 + 256 * n, lo := 2, width := 1, acc := .wo, rst := 0 }
def CAN_CTRL_TX_CLR (n : Nat) : Fld := { addr := 0x400E0000 + 256 * n, lo := 3, width := 1, acc := .wo, rst := 0 }

/-! CAN_STATUS (R380, 17_can_fd.md) -/
def CAN_STATUS_STATE (n : Nat) : Fld := { addr := 0x400E0004 + 256 * n, lo := 0, width := 3, acc := .ro, rst := 0 }
def CAN_STATUS_MONITOR (n : Nat) : Fld := { addr := 0x400E0004 + 256 * n, lo := 3, width := 1, acc := .ro, rst := 0 }
def CAN_STATUS_LEC (n : Nat) : Fld := { addr := 0x400E0004 + 256 * n, lo := 4, width := 3, acc := .ro, rst := 0 }
def CAN_STATUS_TEC (n : Nat) : Fld := { addr := 0x400E0004 + 256 * n, lo := 8, width := 8, acc := .ro, rst := 0 }
def CAN_STATUS_REC (n : Nat) : Fld := { addr := 0x400E0004 + 256 * n, lo := 16, width := 8, acc := .ro, rst := 0 }
def CAN_STATUS_RECOV (n : Nat) : Fld := { addr := 0x400E0004 + 256 * n, lo := 24, width := 8, acc := .ro, rst := 0 }

/-! CAN_ERR (R380, 17_can_fd.md) -/
def CAN_ERR_CFG_REJ (n : Nat) : Fld := { addr := 0x400E0008 + 256 * n, lo := 0, width := 1, acc := .w1c, rst := 0 }
def CAN_ERR_CMD_REJ (n : Nat) : Fld := { addr := 0x400E0008 + 256 * n, lo := 1, width := 1, acc := .w1c, rst := 0 }
def CAN_ERR_BUSOFF (n : Nat) : Fld := { addr := 0x400E0008 + 256 * n, lo := 2, width := 1, acc := .w1c, rst := 0 }
def CAN_ERR_PASSIVE (n : Nat) : Fld := { addr := 0x400E0008 + 256 * n, lo := 3, width := 1, acc := .w1c, rst := 0 }
def CAN_ERR_MISSED (n : Nat) : Fld := { addr := 0x400E0008 + 256 * n, lo := 4, width := 1, acc := .w1c, rst := 0 }
def CAN_ERR_RX_OVW (n : Nat) : Fld := { addr := 0x400E0008 + 256 * n, lo := 5, width := 1, acc := .w1c, rst := 0 }
def CAN_ERR_NO_MATCH (n : Nat) : Fld := { addr := 0x400E0008 + 256 * n, lo := 6, width := 1, acc := .w1c, rst := 0 }

/-! CAN_NBT (R380, 17_can_fd.md) -/
def CAN_NBT_BRP (n : Nat) : Fld := { addr := 0x400E000C + 256 * n, lo := 0, width := 5, acc := .rw, rst := 0 }
def CAN_NBT_TSEG1 (n : Nat) : Fld := { addr := 0x400E000C + 256 * n, lo := 5, width := 8, acc := .rw, rst := 126 }
def CAN_NBT_TSEG2 (n : Nat) : Fld := { addr := 0x400E000C + 256 * n, lo := 13, width := 7, acc := .rw, rst := 31 }
def CAN_NBT_SJW (n : Nat) : Fld := { addr := 0x400E000C + 256 * n, lo := 20, width := 7, acc := .rw, rst := 31 }

/-! CAN_DBT (R380, 17_can_fd.md) -/
def CAN_DBT_BRP (n : Nat) : Fld := { addr := 0x400E0010 + 256 * n, lo := 0, width := 5, acc := .rw, rst := 0 }
def CAN_DBT_TSEG1 (n : Nat) : Fld := { addr := 0x400E0010 + 256 * n, lo := 5, width := 5, acc := .rw, rst := 28 }
def CAN_DBT_TSEG2 (n : Nat) : Fld := { addr := 0x400E0010 + 256 * n, lo := 10, width := 4, acc := .rw, rst := 9 }
def CAN_DBT_SJW (n : Nat) : Fld := { addr := 0x400E0010 + 256 * n, lo := 14, width := 4, acc := .rw, rst := 9 }

/-! CAN_TDC (R380, 17_can_fd.md) -/
def CAN_TDC_TDCO (n : Nat) : Fld := { addr := 0x400E0014 + 256 * n, lo := 0, width := 7, acc := .rw, rst := 30 }
def CAN_TDC_TDC_EN (n : Nat) : Fld := { addr := 0x400E0014 + 256 * n, lo := 7, width := 1, acc := .rw, rst := 1 }

/-! CAN_SCHED (R380, 17_can_fd.md) -/
def CAN_SCHED_BASE_PER (n : Nat) : Fld := { addr := 0x400E0018 + 256 * n, lo := 0, width := 20, acc := .rw, rst := 10000, mn := 250, mx := 1000000 }
def CAN_SCHED_N_ROW (n : Nat) : Fld := { addr := 0x400E0018 + 256 * n, lo := 20, width := 4, acc := .rw, rst := 0 }

/-! CAN_ORIGIN (R380, 17_can_fd.md) -/
def CAN_ORIGIN_NS32 (n : Nat) : Fld := { addr := 0x400E0020 + 256 * n, lo := 0, width := 32, acc := .rw, rst := 0 }
def CAN_ORIGIN_EPOCH (n : Nat) : Fld := { addr := 0x400E0020 + 256 * n, lo := 32, width := 32, acc := .rw, rst := 0 }

/-! CAN_TXREQ (R380, 17_can_fd.md) -/
def CAN_TXREQ_MSG (n : Nat) : Fld := { addr := 0x400E0028 + 256 * n, lo := 0, width := 7, acc := .wo, rst := 0 }

/-! CAN_CNT (R380, 17_can_fd.md) -/
def CAN_CNT_MISS_CNT (n : Nat) : Fld := { addr := 0x400E0030 + 256 * n, lo := 0, width := 16, acc := .rc, rst := 0 }
def CAN_CNT_BUSOFF_CNT (n : Nat) : Fld := { addr := 0x400E0030 + 256 * n, lo := 16, width := 16, acc := .rc, rst := 0 }
def CAN_CNT_NOMATCH_CNT (n : Nat) : Fld := { addr := 0x400E0030 + 256 * n, lo := 32, width := 16, acc := .rc, rst := 0 }
def CAN_CNT_OVW_CNT (n : Nat) : Fld := { addr := 0x400E0030 + 256 * n, lo := 48, width := 16, acc := .rc, rst := 0 }

/-! CAN_SLOT (R372, 17_can_fd.md) -/
def CAN_SLOT_OFFSET (n : Nat) : Fld := { addr := 0x400E1000 + 16 * n, lo := 0, width := 20, acc := .ro, rst := 0 }
def CAN_SLOT_WINDOW (n : Nat) : Fld := { addr := 0x400E1000 + 16 * n, lo := 20, width := 12, acc := .ro, rst := 0 }
def CAN_SLOT_MSG (n : Nat) : Fld := { addr := 0x400E1000 + 16 * n, lo := 32, width := 7, acc := .ro, rst := 0 }
def CAN_SLOT_EN (n : Nat) : Fld := { addr := 0x400E1000 + 16 * n, lo := 39, width := 1, acc := .ro, rst := 0 }
def CAN_SLOT_ROW_MASK (n : Nat) : Fld := { addr := 0x400E1000 + 16 * n, lo := 40, width := 16, acc := .ro, rst := 0 }

/-! CAN_FILT (R376, 17_can_fd.md) -/
def CAN_FILT_TYPE (n : Nat) : Fld := { addr := 0x400E2000 + 16 * n, lo := 0, width := 2, acc := .ro, rst := 0 }
def CAN_FILT_IDE (n : Nat) : Fld := { addr := 0x400E2000 + 16 * n, lo := 2, width := 1, acc := .ro, rst := 0 }
def CAN_FILT_REJECT (n : Nat) : Fld := { addr := 0x400E2000 + 16 * n, lo := 3, width := 1, acc := .ro, rst := 0 }
def CAN_FILT_MSG (n : Nat) : Fld := { addr := 0x400E2000 + 16 * n, lo := 4, width := 7, acc := .ro, rst := 0 }
def CAN_FILT_ID1 (n : Nat) : Fld := { addr := 0x400E2000 + 16 * n, lo := 32, width := 29, acc := .ro, rst := 0 }
def CAN_FILT_ID2 (n : Nat) : Fld := { addr := 0x400E2000 + 16 * n, lo := 64, width := 29, acc := .ro, rst := 0 }

/-! CAN_REC (R370, 17_can_fd.md) -/
def CAN_REC_ID (n : Nat) : Fld := { addr := 0x400E4000 + 96 * n, lo := 0, width := 29, acc := .ro, rst := 0 }
def CAN_REC_IDE (n : Nat) : Fld := { addr := 0x400E4000 + 96 * n, lo := 29, width := 1, acc := .ro, rst := 0 }
def CAN_REC_FDF (n : Nat) : Fld := { addr := 0x400E4000 + 96 * n, lo := 30, width := 1, acc := .ro, rst := 0 }
def CAN_REC_BRS (n : Nat) : Fld := { addr := 0x400E4000 + 96 * n, lo := 31, width := 1, acc := .ro, rst := 0 }
def CAN_REC_DLC (n : Nat) : Fld := { addr := 0x400E4000 + 96 * n, lo := 32, width := 4, acc := .rw, rst := 0 }
def CAN_REC_ESI (n : Nat) : Fld := { addr := 0x400E4000 + 96 * n, lo := 36, width := 1, acc := .ro, rst := 0 }
def CAN_REC_DIR (n : Nat) : Fld := { addr := 0x400E4000 + 96 * n, lo := 37, width := 1, acc := .ro, rst := 0 }
def CAN_REC_STATE (n : Nat) : Fld := { addr := 0x400E4000 + 96 * n, lo := 38, width := 2, acc := .ro, rst := 0 }
def CAN_REC_NEW (n : Nat) : Fld := { addr := 0x400E4000 + 96 * n, lo := 40, width := 1, acc := .ro, rst := 0 }
def CAN_REC_OVW (n : Nat) : Fld := { addr := 0x400E4000 + 96 * n, lo := 41, width := 1, acc := .ro, rst := 0 }
def CAN_REC_CODE (n : Nat) : Fld := { addr := 0x400E4000 + 96 * n, lo := 48, width := 8, acc := .ro, rst := 0 }
def CAN_REC_T (n : Nat) : Fld := { addr := 0x400E4000 + 96 * n, lo := 64, width := 32, acc := .ro, rst := 0 }
def CAN_REC_RX_TMO (n : Nat) : Fld := { addr := 0x400E4000 + 96 * n, lo := 96, width := 16, acc := .ro, rst := 0 }
def CAN_REC_DATA (n : Nat) (j : Nat) : Fld := { addr := 0x400E4000 + 96 * n, lo := 256+8*j, width := 8, acc := .rw, rst := 0 }

/-! SAF_CTRL (R401, 18_safety_functions.md) -/
def SAF_CTRL_RESET : Fld := { addr := 0x400F0000, lo := 0, width := 2, acc := .wo, rst := 0 }

/-! SAF_STATUS (R401, 18_safety_functions.md) -/
def SAF_STATUS_LINK1 : Fld := { addr := 0x400F0004, lo := 0, width := 1, acc := .ro, rst := 0 }
def SAF_STATUS_LINK2 : Fld := { addr := 0x400F0004, lo := 1, width := 1, acc := .ro, rst := 0 }
def SAF_STATUS_PERMIT : Fld := { addr := 0x400F0004, lo := 2, width := 1, acc := .ro, rst := 0 }
def SAF_STATUS_LANE_DIFF : Fld := { addr := 0x400F0004, lo := 3, width := 1, acc := .ro, rst := 0 }
def SAF_STATUS_SIL : Fld := { addr := 0x400F0004, lo := 4, width := 2, acc := .ro, rst := 0 }
def SAF_STATUS_VOTE_OK : Fld := { addr := 0x400F0004, lo := 6, width := 1, acc := .ro, rst := 0 }
def SAF_STATUS_PAIR_EN : Fld := { addr := 0x400F0004, lo := 7, width := 1, acc := .ro, rst := 0 }

/-! SAF_ERR (R401, 18_safety_functions.md) -/
def SAF_ERR_CFG_REJ : Fld := { addr := 0x400F0008, lo := 0, width := 1, acc := .w1c, rst := 0 }
def SAF_ERR_CMD_REJ : Fld := { addr := 0x400F0008, lo := 1, width := 1, acc := .w1c, rst := 0 }
def SAF_ERR_SX_REJ : Fld := { addr := 0x400F0008, lo := 2, width := 1, acc := .w1c, rst := 0 }
def SAF_ERR_SX_SILENT : Fld := { addr := 0x400F0008, lo := 3, width := 1, acc := .w1c, rst := 0 }
def SAF_ERR_TEL_REJ : Fld := { addr := 0x400F0008, lo := 4, width := 1, acc := .w1c, rst := 0 }
def SAF_ERR_IN_FAULT : Fld := { addr := 0x400F0008, lo := 5, width := 1, acc := .w1c, rst := 0 }
def SAF_ERR_FN_FAULT : Fld := { addr := 0x400F0008, lo := 6, width := 1, acc := .w1c, rst := 0 }
def SAF_ERR_OUT_FAULT : Fld := { addr := 0x400F0008, lo := 7, width := 1, acc := .w1c, rst := 0 }
def SAF_ERR_LANE_DIFF : Fld := { addr := 0x400F0008, lo := 8, width := 1, acc := .w1c, rst := 0 }
def SAF_ERR_PULSE_FAIL : Fld := { addr := 0x400F0008, lo := 9, width := 1, acc := .w1c, rst := 0 }

/-! SAF_ALARM (R401, 18_safety_functions.md) -/
def SAF_ALARM_TP_OVERDUE : Fld := { addr := 0x400F000C, lo := 0, width := 2, acc := .w1c, rst := 0 }
def SAF_ALARM_PARTNER_VOTE : Fld := { addr := 0x400F000C, lo := 2, width := 1, acc := .w1c, rst := 0 }
def SAF_ALARM_TEL_TIMEOUT : Fld := { addr := 0x400F000C, lo := 3, width := 1, acc := .w1c, rst := 0 }

/-! SAF_REQ (R401, 18_safety_functions.md) -/
def SAF_REQ_REQ : Fld := { addr := 0x400F0010, lo := 0, width := 2, acc := .rw, rst := 0 }

/-! SAF_STATE (R401, 18_safety_functions.md) -/
def SAF_STATE_IN : Fld := { addr := 0x400F0014, lo := 0, width := 8, acc := .ro, rst := 255 }
def SAF_STATE_OUT : Fld := { addr := 0x400F0014, lo := 8, width := 4, acc := .ro, rst := 0 }
def SAF_STATE_FN : Fld := { addr := 0x400F0014, lo := 12, width := 16, acc := .ro, rst := 65535 }

/-! SAF_PCRC (R401, 18_safety_functions.md) -/
def SAF_PCRC_PCRC : Fld := { addr := 0x400F0018, lo := 0, width := 32, acc := .ro, rst := 0 }

/-! SAF_MODE (R401, 18_safety_functions.md) -/
def SAF_MODE_PAIR_EN : Fld := { addr := 0x400F001C, lo := 0, width := 1, acc := .ro, rst := 0 }
def SAF_MODE_VOTE_TMO : Fld := { addr := 0x400F001C, lo := 8, width := 8, acc := .ro, rst := 5 }
def SAF_MODE_SX_SIL : Fld := { addr := 0x400F001C, lo := 16, width := 8, acc := .ro, rst := 20 }

/-! SAF_CNT (R401, 18_safety_functions.md) -/
def SAF_CNT_TRIP_CNT : Fld := { addr := 0x400F0020, lo := 0, width := 16, acc := .rc, rst := 0 }
def SAF_CNT_PULSE_MISS_CNT : Fld := { addr := 0x400F0020, lo := 16, width := 16, acc := .rc, rst := 0 }
def SAF_CNT_TEL_REJ_CNT : Fld := { addr := 0x400F0020, lo := 32, width := 16, acc := .rc, rst := 0 }
def SAF_CNT_SX_REJ_CNT : Fld := { addr := 0x400F0020, lo := 48, width := 16, acc := .rc, rst := 0 }

/-! SAF_IN_CFG (R401, 18_safety_functions.md) -/
def SAF_IN_CFG_EN (n : Nat) : Fld := { addr := 0x400F0040 + 4 * n, lo := 0, width := 1, acc := .ro, rst := 0 }
def SAF_IN_CFG_MODE (n : Nat) : Fld := { addr := 0x400F0040 + 4 * n, lo := 1, width := 1, acc := .ro, rst := 0 }
def SAF_IN_CFG_FILT (n : Nat) : Fld := { addr := 0x400F0040 + 4 * n, lo := 4, width := 4, acc := .ro, rst := 3 }
def SAF_IN_CFG_DISC_T (n : Nat) : Fld := { addr := 0x400F0040 + 4 * n, lo := 8, width := 9, acc := .ro, rst := 100 }
def SAF_IN_CFG_OUT (n : Nat) : Fld := { addr := 0x400F0040 + 4 * n, lo := 18, width := 2, acc := .ro, rst := 0 }

/-! SAF_OUT_CFG (R401, 18_safety_functions.md) -/
def SAF_OUT_CFG_EN (n : Nat) : Fld := { addr := 0x400F0050 + 4 * n, lo := 0, width := 1, acc := .ro, rst := 0 }
def SAF_OUT_CFG_TP_EN (n : Nat) : Fld := { addr := 0x400F0050 + 4 * n, lo := 1, width := 1, acc := .ro, rst := 1 }
def SAF_OUT_CFG_PULSE_W (n : Nat) : Fld := { addr := 0x400F0050 + 4 * n, lo := 2, width := 6, acc := .ro, rst := 30 }
def SAF_OUT_CFG_TP_INT (n : Nat) : Fld := { addr := 0x400F0050 + 4 * n, lo := 8, width := 8, acc := .ro, rst := 60 }
def SAF_OUT_CFG_DIAG_INT (n : Nat) : Fld := { addr := 0x400F0050 + 4 * n, lo := 16, width := 11, acc := .ro, rst := 60 }

/-! SAF_TEL_CFG (R401, 18_safety_functions.md) -/
def SAF_TEL_CFG_KIND (n : Nat) : Fld := { addr := 0x400F0100 + 16 * n, lo := 0, width := 2, acc := .ro, rst := 0 }
def SAF_TEL_CFG_CTRL (n : Nat) : Fld := { addr := 0x400F0100 + 16 * n, lo := 2, width := 2, acc := .ro, rst := 0 }
def SAF_TEL_CFG_MSG (n : Nat) : Fld := { addr := 0x400F0100 + 16 * n, lo := 4, width := 7, acc := .ro, rst := 0 }
def SAF_TEL_CFG_SRC_ID (n : Nat) : Fld := { addr := 0x400F0100 + 16 * n, lo := 16, width := 16, acc := .ro, rst := 0 }
def SAF_TEL_CFG_TMO (n : Nat) : Fld := { addr := 0x400F0100 + 16 * n, lo := 32, width := 8, acc := .ro, rst := 10 }
def SAF_TEL_CFG_SEED (n : Nat) : Fld := { addr := 0x400F0100 + 16 * n, lo := 64, width := 32, acc := .ro, rst := 0 }

/-! SAF_FN_CFG (R401, 18_safety_functions.md) -/
def SAF_FN_CFG_TYPE (n : Nat) : Fld := { addr := 0x400F0200 + 16 * n, lo := 0, width := 3, acc := .ro, rst := 0 }
def SAF_FN_CFG_TEL_A (n : Nat) : Fld := { addr := 0x400F0200 + 16 * n, lo := 4, width := 4, acc := .ro, rst := 0 }
def SAF_FN_CFG_TEL_B (n : Nat) : Fld := { addr := 0x400F0200 + 16 * n, lo := 8, width := 4, acc := .ro, rst := 1 }
def SAF_FN_CFG_OUT (n : Nat) : Fld := { addr := 0x400F0200 + 16 * n, lo := 12, width := 2, acc := .ro, rst := 0 }
def SAF_FN_CFG_FILT (n : Nat) : Fld := { addr := 0x400F0200 + 16 * n, lo := 16, width := 4, acc := .ro, rst := 0 }
def SAF_FN_CFG_DISC_T (n : Nat) : Fld := { addr := 0x400F0200 + 16 * n, lo := 24, width := 8, acc := .ro, rst := 10 }
def SAF_FN_CFG_TOL (n : Nat) : Fld := { addr := 0x400F0200 + 16 * n, lo := 32, width := 16, acc := .ro, rst := 0 }

/-! SAF_FN_LIM (R401, 18_safety_functions.md) -/
def SAF_FN_LIM_LIM (n : Nat) : Fld := { addr := 0x400F0208 + 16 * n, lo := 0, width := 64, acc := .ro, rst := 0 }

/-! PMC_CTRL (R457, 22_counters_and_fault_log.md) -/
def PMC_CTRL_RUN : Fld := { addr := 0x40100000, lo := 0, width := 1, acc := .rw, rst := 0 }
def PMC_CTRL_FREEZE : Fld := { addr := 0x40100000, lo := 1, width := 1, acc := .wo, rst := 0 }
def PMC_CTRL_DUMP_EN : Fld := { addr := 0x40100000, lo := 2, width := 1, acc := .rw, rst := 0 }

/-! PMC_ERR (R457, 22_counters_and_fault_log.md) -/
def PMC_ERR_CFG_REJ : Fld := { addr := 0x40100004, lo := 0, width := 1, acc := .w1c, rst := 0 }
def PMC_ERR_CMD_REJ : Fld := { addr := 0x40100004, lo := 1, width := 1, acc := .w1c, rst := 0 }
def PMC_ERR_DUMP_DROP : Fld := { addr := 0x40100004, lo := 2, width := 1, acc := .w1c, rst := 0 }

/-! PMC_OVF (R457, 22_counters_and_fault_log.md) -/
def PMC_OVF_OVF : Fld := { addr := 0x40100008, lo := 0, width := 32, acc := .w1c, rst := 0 }

/-! PMC_CHAIN (R457, 22_counters_and_fault_log.md) -/
def PMC_CHAIN_CHAIN : Fld := { addr := 0x4010000C, lo := 0, width := 16, acc := .rw, rst := 0 }

/-! PMC_DUMP_BASE (R457, 22_counters_and_fault_log.md) -/
def PMC_DUMP_BASE_ADDR : Fld := { addr := 0x40100010, lo := 0, width := 64, acc := .rw, rst := 0 }

/-! PMC_DUMP_CFG (R457, 22_counters_and_fault_log.md) -/
def PMC_DUMP_CFG_PER : Fld := { addr := 0x40100018, lo := 0, width := 16, acc := .rw, rst := 1000, mn := 1, mx := 65535 }
def PMC_DUMP_CFG_ENTRIES : Fld := { addr := 0x40100018, lo := 16, width := 13, acc := .rw, rst := 256, mn := 2, mx := 4096 }

/-! PMC_DUMP_PTR (R457, 22_counters_and_fault_log.md) -/
def PMC_DUMP_PTR_WR : Fld := { addr := 0x4010001C, lo := 0, width := 12, acc := .ro, rst := 0 }
def PMC_DUMP_PTR_RD : Fld := { addr := 0x4010001C, lo := 12, width := 12, acc := .rw, rst := 0 }
def PMC_DUMP_PTR_DROP_CNT : Fld := { addr := 0x4010001C, lo := 24, width := 8, acc := .rc, rst := 0 }

/-! PMC_LOG_STAT (R457, 22_counters_and_fault_log.md) -/
def PMC_LOG_STAT_NEXT : Fld := { addr := 0x40100020, lo := 0, width := 32, acc := .ro, rst := 0 }
def PMC_LOG_STAT_STAGED : Fld := { addr := 0x40100020, lo := 32, width := 13, acc := .ro, rst := 0 }
def PMC_LOG_STAT_LOST_CNT : Fld := { addr := 0x40100020, lo := 48, width := 16, acc := .rc, rst := 0 }

/-! PMC_SEL (R457, 22_counters_and_fault_log.md) -/
def PMC_SEL_EVT (n : Nat) : Fld := { addr := 0x40100100 + 4 * n, lo := 0, width := 8, acc := .rw, rst := 0 }
def PMC_SEL_SRC (n : Nat) : Fld := { addr := 0x40100100 + 4 * n, lo := 8, width := 4, acc := .rw, rst := 0 }
def PMC_SEL_LEVEL (n : Nat) : Fld := { addr := 0x40100100 + 4 * n, lo := 12, width := 1, acc := .rw, rst := 0 }
def PMC_SEL_SAMPLE (n : Nat) : Fld := { addr := 0x40100100 + 4 * n, lo := 13, width := 1, acc := .rw, rst := 0 }

/-! PMC_CNT (R457, 22_counters_and_fault_log.md) -/
def PMC_CNT_VALUE (n : Nat) : Fld := { addr := 0x40100200 + 4 * n, lo := 0, width := 32, acc := .rw, rst := 0 }

/-! PMC_SNAP (R457, 22_counters_and_fault_log.md) -/
def PMC_SNAP_VALUE (n : Nat) : Fld := { addr := 0x40100300 + 4 * n, lo := 0, width := 32, acc := .ro, rst := 0 }

/-- The registers of the CFE block in address order. -/
def rowsCFE : List RegRow :=
  [{ name := "CFE_CTRL", base := 0x40000000, stride := 4, count := 1, bits := 32,
     fields := fun _ => [CFE_CTRL_ENABLE, CFE_CTRL_SNOW_ENTER, CFE_CTRL_HIB_ENTER] },
   { name := "CFE_STATUS", base := 0x40000004, stride := 4, count := 1, bits := 32,
     fields := fun _ => [CFE_STATUS_HV_STATE, CFE_STATUS_LINK, CFE_STATUS_HV_PENDING, CFE_STATUS_BAL_STARVED, CFE_STATUS_DIE_HOT, CFE_STATUS_WAKE, CFE_STATUS_PRESENT] },
   { name := "CFE_ERR", base := 0x40000008, stride := 4, count := 1, bits := 32,
     fields := fun _ => [CFE_ERR_UP_CRC, CFE_ERR_DOWN_REJ, CFE_ERR_ADJ_REJ, CFE_ERR_SYNC_IN_ACTIVE, CFE_ERR_LINK_LOST, CFE_ERR_CFG_REJ, CFE_ERR_HV_MISMATCH, CFE_ERR_HV_POR, CFE_ERR_WR_DROPPED, CFE_ERR_CMD_REJ] },
   { name := "CFE_LINK_ERRCNT", base := 0x4000000C, stride := 4, count := 1, bits := 32,
     fields := fun _ => [CFE_LINK_ERRCNT_UP_CRC_CNT, CFE_LINK_ERRCNT_DOWN_REJ_CNT] },
   { name := "CFE_BAL_REQ", base := 0x40000010, stride := 8, count := 1, bits := 64,
     fields := fun _ => [CFE_BAL_REQ_REQ] },
   { name := "CFE_BAL_ACT", base := 0x40000018, stride := 8, count := 1, bits := 64,
     fields := fun _ => [CFE_BAL_ACT_ACT] },
   { name := "CFE_BAL_CFG", base := 0x40000020, stride := 4, count := 1, bits := 32,
     fields := fun _ => [CFE_BAL_CFG_PHASE_LEN, CFE_BAL_CFG_LEASE] },
   { name := "CFE_MEAS_CFG", base := 0x40000024, stride := 4, count := 1, bits := 32,
     fields := fun _ => [CFE_MEAS_CFG_SETTLE, CFE_MEAS_CFG_MEAS_DIV, CFE_MEAS_CFG_PAUSE_EN] },
   { name := "CFE_CELL_LIM", base := 0x40000028, stride := 4, count := 1, bits := 32,
     fields := fun _ => [CFE_CELL_LIM_OV_THR, CFE_CELL_LIM_UV_THR] },
   { name := "CFE_NTC_LIM", base := 0x4000002C, stride := 4, count := 1, bits := 32,
     fields := fun _ => [CFE_NTC_LIM_OT_CODE, CFE_NTC_LIM_NTC_EN] },
   { name := "CFE_SNOW_CFG", base := 0x40000030, stride := 4, count := 1, bits := 32,
     fields := fun _ => [CFE_SNOW_CFG_PERIOD, CFE_SNOW_CFG_AUTO, CFE_SNOW_CFG_WAKE_EVERY, CFE_SNOW_CFG_SHUNT_THR] },
   { name := "CFE_WAKE_SRC", base := 0x40000034, stride := 4, count := 1, bits := 32,
     fields := fun _ => [CFE_WAKE_SRC_CELL_OV, CFE_WAKE_SRC_CELL_UV, CFE_WAKE_SRC_NTC_OT, CFE_WAKE_SRC_PERIODIC, CFE_WAKE_SRC_SHUNT, CFE_WAKE_SRC_FIRST_CH] },
   { name := "CFE_CMP_OV", base := 0x40000038, stride := 8, count := 1, bits := 64,
     fields := fun _ => [CFE_CMP_OV_OV] },
   { name := "CFE_CMP_UV", base := 0x40000040, stride := 8, count := 1, bits := 64,
     fields := fun _ => [CFE_CMP_UV_UV] },
   { name := "CFE_CMP_OT", base := 0x40000048, stride := 4, count := 1, bits := 32,
     fields := fun _ => [CFE_CMP_OT_OT, CFE_CMP_OT_FAULT] }]

/-- The registers of the SCH block in address order. -/
def rowsSCH : List RegRow :=
  [{ name := "SCH_CTRL", base := 0x40010000, stride := 4, count := 1, bits := 32,
     fields := fun _ => [SCH_CTRL_RUN] },
   { name := "SCH_STATUS", base := 0x40010004, stride := 4, count := 1, bits := 32,
     fields := fun _ => [SCH_STATUS_LOCK, SCH_STATUS_RESP_PEND, SCH_STATUS_RESP_ACT] },
   { name := "SCH_ERR", base := 0x40010008, stride := 4, count := 1, bits := 32,
     fields := fun _ => [SCH_ERR_UNLOCK, SCH_ERR_SWEEP_SKIP, SCH_ERR_SWEEP_HELD, SCH_ERR_CFG_REJ, SCH_ERR_CLIP] },
   { name := "SCH_GRID_PERIOD", base := 0x4001000C, stride := 4, count := 1, bits := 32,
     fields := fun _ => [SCH_GRID_PERIOD_PERIOD] },
   { name := "SCH_GRID_ORIGIN", base := 0x40010010, stride := 8, count := 1, bits := 64,
     fields := fun _ => [SCH_GRID_ORIGIN_NS32, SCH_GRID_ORIGIN_EPOCH] },
   { name := "SCH_RESP_SEL", base := 0x40010018, stride := 4, count := 1, bits := 32,
     fields := fun _ => [SCH_RESP_SEL_NEXT] },
   { name := "SCH_RESP_EFF", base := 0x4001001C, stride := 4, count := 1, bits := 32,
     fields := fun _ => [SCH_RESP_EFF_SWEEP] },
   { name := "SCH_SWEEP_ID", base := 0x40010020, stride := 4, count := 1, bits := 32,
     fields := fun _ => [SCH_SWEEP_ID_ID] },
   { name := "SCH_TRK", base := 0x40010024, stride := 4, count := 1, bits := 32,
     fields := fun _ => [SCH_TRK_RATE, SCH_TRK_RESID] },
   { name := "SCH_QUAL_CNT", base := 0x40010028, stride := 4, count := 1, bits := 32,
     fields := fun _ => [SCH_QUAL_CNT_COARSE_CNT, SCH_QUAL_CNT_BAD_CNT] },
   { name := "SCH_FAST", base := 0x40010100, stride := 8, count := 49, bits := 64,
     fields := fun n => [SCH_FAST_VALUE n, SCH_FAST_T n] }]

/-- The registers of the CSE block in address order. -/
def rowsCSE : List RegRow :=
  [{ name := "CSE_CTRL", base := 0x40020000, stride := 4, count := 1, bits := 32,
     fields := fun _ => [CSE_CTRL_RUN, CSE_CTRL_LEARN_EN, CSE_CTRL_HIB_EN, CSE_CTRL_FE_MODE, CSE_CTRL_CHG_POS, CSE_CTRL_WAKE_NOW, CSE_CTRL_DIV] },
   { name := "CSE_STATUS", base := 0x40020004, stride := 4, count := 1, bits := 32,
     fields := fun _ => [CSE_STATUS_STATE, CSE_STATUS_REST_REQ, CSE_STATUS_STARVED, CSE_STATUS_LRN_CHG, CSE_STATUS_SEG_DOUBT, CSE_STATUS_EOC_ANY, CSE_STATUS_EOD_ANY, CSE_STATUS_WORST_CELL] },
   { name := "CSE_ERR", base := 0x40020008, stride := 4, count := 1, bits := 32,
     fields := fun _ => [CSE_ERR_CFG_REJ, CSE_ERR_SOC_JUMP, CSE_ERR_CAP_REJ, CSE_ERR_TEMP_SUB, CSE_ERR_COMP_CAP, CSE_ERR_REC_NONE, CSE_ERR_AUTH_FAIL, CSE_ERR_GAP] },
   { name := "CSE_SHUNT_CFG", base := 0x4002000C, stride := 4, count := 1, bits := 32,
     fields := fun _ => [CSE_SHUNT_CFG_RSH] },
   { name := "CSE_REST_CFG", base := 0x40020010, stride := 4, count := 1, bits := 32,
     fields := fun _ => [CSE_REST_CFG_REST_I, CSE_REST_CFG_REST_FULL] },
   { name := "CSE_RLX_CFG", base := 0x40020014, stride := 4, count := 1, bits := 32,
     fields := fun _ => [CSE_RLX_CFG_RLX_MIN, CSE_RLX_CFG_RLX_REQ_T] },
   { name := "CSE_UNC_CFG", base := 0x40020018, stride := 4, count := 1, bits := 32,
     fields := fun _ => [CSE_UNC_CFG_U_REQ, CSE_UNC_CFG_U_LIM] },
   { name := "CSE_ERR_CFG", base := 0x4002001C, stride := 4, count := 1, bits := 32,
     fields := fun _ => [CSE_ERR_CFG_CNT_ERR, CSE_ERR_CFG_I_GAP] },
   { name := "CSE_SOP_CFG", base := 0x40020020, stride := 4, count := 1, bits := 32,
     fields := fun _ => [CSE_SOP_CFG_HOR, CSE_SOP_CFG_DERATE] },
   { name := "CSE_END_CFG", base := 0x40020024, stride := 4, count := 1, bits := 32,
     fields := fun _ => [CSE_END_CFG_COMP_MAX, CSE_END_CFG_END_PERS, CSE_END_CFG_END_HYST] },
   { name := "CSE_HIB_CFG", base := 0x40020028, stride := 4, count := 1, bits := 32,
     fields := fun _ => [CSE_HIB_CFG_HIB_I, CSE_HIB_CFG_HIB_T] },
   { name := "CSE_LRN_CFG", base := 0x4002002C, stride := 4, count := 1, bits := 32,
     fields := fun _ => [CSE_LRN_CFG_ANCHOR_U, CSE_LRN_CFG_DSOC_MIN, CSE_LRN_CFG_MIN_COMMIT] },
   { name := "CSE_BAL_RES", base := 0x40020030, stride := 4, count := 1, bits := 32,
     fields := fun _ => [CSE_BAL_RES_RBAL] },
   { name := "CSE_NTC_CFG", base := 0x40020034, stride := 4, count := 1, bits := 32,
     fields := fun _ => [CSE_NTC_CFG_R25, CSE_NTC_CFG_BETA] },
   { name := "CSE_TMAP", base := 0x40020038, stride := 4, count := 6, bits := 32,
     fields := fun n => (List.range 8).map (CSE_TMAP_TS n) },
   { name := "CSE_MOD_SOP", base := 0x40020050, stride := 8, count := 1, bits := 64,
     fields := fun _ => [CSE_MOD_SOP_ICHG, CSE_MOD_SOP_IDIS, CSE_MOD_SOP_PCHG, CSE_MOD_SOP_PDIS] },
   { name := "CSE_UMAX", base := 0x40020058, stride := 4, count := 1, bits := 32,
     fields := fun _ => [CSE_UMAX_U_MAX, CSE_UMAX_CELL] },
   { name := "CSE_RLX_CNT", base := 0x4002005C, stride := 4, count := 1, bits := 32,
     fields := fun _ => [CSE_RLX_CNT_USED, CSE_RLX_CNT_SHORT] },
   { name := "CSE_CELL", base := 0x40020400, stride := 16, count := 48, bits := 128,
     fields := fun n => [CSE_CELL_SOC n, CSE_CELL_U n, CSE_CELL_CAP n, CSE_CELL_R0 n, CSE_CELL_TEMP n, CSE_CELL_ICHG n, CSE_CELL_IDIS n, CSE_CELL_FLAGS n] }]

/-- The registers of the GNB block in address order. -/
def rowsGNB : List RegRow :=
  [{ name := "GNB_CTRL", base := 0x40030000, stride := 4, count := 1, bits := 32,
     fields := fun _ => [GNB_CTRL_RUN, GNB_CTRL_TSOL_EN] },
   { name := "GNB_STATUS", base := 0x40030004, stride := 4, count := 1, bits := 32,
     fields := fun _ => [GNB_STATUS_CLK_OK, GNB_STATUS_TSOL_VALID, GNB_STATUS_INTEG_OK, GNB_STATUS_N_VALID, GNB_STATUS_CLK_JUMP, GNB_STATUS_CN0_UNIFORM, GNB_STATUS_PARTNER_DIFF, GNB_STATUS_PARTNER_OK] },
   { name := "GNB_ERR", base := 0x40030008, stride := 4, count := 1, bits := 32,
     fields := fun _ => [GNB_ERR_CFG_REJ, GNB_ERR_IN_OVF, GNB_ERR_CLK_LOSS, GNB_ERR_NAV_OVF, GNB_ERR_INTEG_FAIL, GNB_ERR_CLK_JUMP, GNB_ERR_PARTNER_DIFF, GNB_ERR_SLIP, GNB_ERR_CN0_UNIFORM] },
   { name := "GNB_IF_CFG", base := 0x4003000C, stride := 4, count := 1, bits := 32,
     fields := fun _ => [GNB_IF_CFG_IF_HZ, GNB_IF_CFG_INV, GNB_IF_CFG_IQ_SWAP, GNB_IF_CFG_REAL] },
   { name := "GNB_MEAS_CFG", base := 0x40030010, stride := 4, count := 1, bits := 32,
     fields := fun _ => [GNB_MEAS_CFG_MDIV, GNB_MEAS_CFG_DLL_BW, GNB_MEAS_CFG_PLL_BW] },
   { name := "GNB_ACQ_CFG", base := 0x40030014, stride := 4, count := 1, bits := 32,
     fields := fun _ => [GNB_ACQ_CFG_DOPP_WIN, GNB_ACQ_CFG_CN0_LOSS] },
   { name := "GNB_INTEG_CFG", base := 0x40030018, stride := 4, count := 1, bits := 32,
     fields := fun _ => [GNB_INTEG_CFG_CLK_THR, GNB_INTEG_CFG_CLK_CONF, GNB_INTEG_CFG_CN0_SPREAD, GNB_INTEG_CFG_CN0_MAX] },
   { name := "GNB_PARTNER_CFG", base := 0x4003001C, stride := 4, count := 1, bits := 32,
     fields := fun _ => [GNB_PARTNER_CFG_PART_THR, GNB_PARTNER_CFG_PART_EN] },
   { name := "GNB_DELAY", base := 0x40030020, stride := 4, count := 1, bits := 32,
     fields := fun _ => [GNB_DELAY_DLY] },
   { name := "GNB_NAV_PTR", base := 0x40030024, stride := 4, count := 1, bits := 32,
     fields := fun _ => [GNB_NAV_PTR_WR, GNB_NAV_PTR_RD, GNB_NAV_PTR_DROP_CNT] },
   { name := "GNB_TSOL", base := 0x40030030, stride := 16, count := 1, bits := 128,
     fields := fun _ => [GNB_TSOL_NS32, GNB_TSOL_EPOCH, GNB_TSOL_TOW_NS, GNB_TSOL_WEEK, GNB_TSOL_VALID] },
   { name := "GNB_PPS", base := 0x40030040, stride := 8, count := 1, bits := 64,
     fields := fun _ => [GNB_PPS_NS32, GNB_PPS_TOW_S, GNB_PPS_VALID] },
   { name := "GNB_CH_CFG", base := 0x40030100, stride := 4, count := 24, bits := 32,
     fields := fun n => [GNB_CH_CFG_PRN n, GNB_CH_CFG_EN n, GNB_CH_CFG_SPACING n, GNB_CH_CFG_DISC n, GNB_CH_CFG_DOPP_HINT n] },
   { name := "GNB_CH_STAT", base := 0x40030180, stride := 4, count := 24, bits := 32,
     fields := fun n => [GNB_CH_STAT_STATE n, GNB_CH_STAT_SLIP_CNT n, GNB_CH_STAT_CN0 n, GNB_CH_STAT_ACQ_CNT n] },
   { name := "GNB_PC_OFF", base := 0x40030200, stride := 16, count := 4, bits := 128,
     fields := fun n => (List.range 8).map (GNB_PC_OFF_OFF n) },
   { name := "GNB_PC_CORR", base := 0x40030400, stride := 128, count := 4, bits := 1024,
     fields := fun n => (List.range 22).map (GNB_PC_CORR_SUMS n) ++ [GNB_PC_CORR_T n, GNB_PC_CORR_SEQ n, GNB_PC_CORR_LATE n, GNB_PC_CORR_ERR_IN n] },
   { name := "GNB_MEAS", base := 0x40030800, stride := 800, count := 1, bits := 6400,
     fields := fun _ => (List.range 200).map GNB_MEAS_W },
   { name := "GNB_NAV", base := 0x40031000, stride := 16, count := 256, bits := 128,
     fields := fun n => [GNB_NAV_WORD n, GNB_NAV_PARITY_OK n, GNB_NAV_T n, GNB_NAV_CH n, GNB_NAV_PRN n, GNB_NAV_WORD_IDX n] }]

/-- The registers of the FUS block in address order. -/
def rowsFUS : List RegRow :=
  [{ name := "FUS_CTRL", base := 0x40040000, stride := 4, count := 1, bits := 32,
     fields := fun _ => [FUS_CTRL_RUN] },
   { name := "FUS_STATUS", base := 0x40040004, stride := 4, count := 1, bits := 32,
     fields := fun _ => [FUS_STATUS_VALID, FUS_STATUS_COAST_ANY, FUS_STATUS_DOMINO, FUS_STATUS_TRK_USED] },
   { name := "FUS_ERR", base := 0x40040008, stride := 4, count := 1, bits := 32,
     fields := fun _ => [FUS_ERR_CFG_REJ, FUS_ERR_IN_FULL, FUS_ERR_KIND_REJ, FUS_ERR_FUTURE, FUS_ERR_LATE_DROP, FUS_ERR_OVERRUN, FUS_ERR_TRK_FULL, FUS_ERR_VOTE_REJ] },
   { name := "FUS_ALARM", base := 0x4004000C, stride := 4, count := 1, bits := 32,
     fields := fun _ => [FUS_ALARM_MODE_DROP, FUS_ALARM_WIND_SUSPECT, FUS_ALARM_LOST, FUS_ALARM_TGT_LOST, FUS_ALARM_REF_EXCL, FUS_ALARM_POS_RESET] },
   { name := "FUS_CYCLE_CFG", base := 0x40040010, stride := 4, count := 1, bits := 32,
     fields := fun _ => [FUS_CYCLE_CFG_FDIV, FUS_CYCLE_CFG_PUB_OFF] },
   { name := "FUS_VOTE_CFG", base := 0x40040014, stride := 4, count := 1, bits := 32,
     fields := fun _ => [FUS_VOTE_CFG_VOTE_K, FUS_VOTE_CFG_VOTE_PERS, FUS_VOTE_CFG_REJOIN] },
   { name := "FUS_VOTE_MIN", base := 0x40040018, stride := 4, count := 1, bits := 32,
     fields := fun _ => [FUS_VOTE_MIN_POS, FUS_VOTE_MIN_HDG, FUS_VOTE_MIN_MRU, FUS_VOTE_MIN_WIND] },
   { name := "FUS_COAST_CFG", base := 0x4004001C, stride := 4, count := 1, bits := 32,
     fields := fun _ => [FUS_COAST_CFG_POS, FUS_COAST_CFG_HDG, FUS_COAST_CFG_MRU, FUS_COAST_CFG_WIND] },
   { name := "FUS_TRK_CFG", base := 0x40040020, stride := 4, count := 1, bits := 32,
     fields := fun _ => [FUS_TRK_CFG_CONF_M, FUS_TRK_CFG_CONF_N, FUS_TRK_CFG_ACC, FUS_TRK_CFG_COAST, FUS_TRK_CFG_DROP] },
   { name := "FUS_TGT_SEL", base := 0x40040024, stride := 4, count := 1, bits := 32,
     fields := fun _ => [FUS_TGT_SEL_TRK, FUS_TGT_SEL_BY_ID, FUS_TGT_SEL_TGT_ID, FUS_TGT_SEL_EN] },
   { name := "FUS_GNSS_CFG", base := 0x40040028, stride := 4, count := 1, bits := 32,
     fields := fun _ => [FUS_GNSS_CFG_ELEV_MASK, FUS_GNSS_CFG_USE_PMM, FUS_GNSS_CFG_DOPP_EN] },
   { name := "FUS_ORIGIN", base := 0x40040030, stride := 8, count := 1, bits := 64,
     fields := fun _ => [FUS_ORIGIN_LAT, FUS_ORIGIN_LON] },
   { name := "FUS_CNT", base := 0x40040038, stride := 8, count := 1, bits := 64,
     fields := fun _ => [FUS_CNT_LATE_APPL, FUS_CNT_LATE_DROP, FUS_CNT_REJ, FUS_CNT_IN_FULL] },
   { name := "FUS_IN_PUSH", base := 0x40040040, stride := 64, count := 1, bits := 512,
     fields := fun _ => [FUS_IN_PUSH_SAMPLE] },
   { name := "FUS_REF_CFG", base := 0x40040100, stride := 16, count := 34, bits := 128,
     fields := fun n => [FUS_REF_CFG_EN n, FUS_REF_CFG_KIND n, FUS_REF_CFG_SIGMA n, FUS_REF_CFG_TIMEOUT n, FUS_REF_CFG_LEV_X n, FUS_REF_CFG_LEV_Y n, FUS_REF_CFG_LEV_Z n, FUS_REF_CFG_MOUNT n] },
   { name := "FUS_REF_STAT", base := 0x40040400, stride := 4, count := 34, bits := 32,
     fields := fun n => [FUS_REF_STAT_STATE n, FUS_REF_STAT_SUSPECT n, FUS_REF_STAT_DEV_CNT n, FUS_REF_STAT_AGE n] },
   { name := "FUS_OUT", base := 0x40040800, stride := 256, count := 1, bits := 2048,
     fields := fun _ => (List.range 64).map FUS_OUT_W },
   { name := "FUS_SAT", base := 0x40041000, stride := 64, count := 24, bits := 512,
     fields := fun n => [FUS_SAT_PRN n, FUS_SAT_M n, FUS_SAT_X n, FUS_SAT_Y n, FUS_SAT_Z n, FUS_SAT_CORR n, FUS_SAT_VX n, FUS_SAT_VY n, FUS_SAT_VZ n] },
   { name := "FUS_TRK", base := 0x40042000, stride := 64, count := 128, bits := 512,
     fields := fun n => [FUS_TRK_STATE n, FUS_TRK_TGT_ID n, FUS_TRK_HITS n, FUS_TRK_T_UPD n, FUS_TRK_DN n, FUS_TRK_DE n, FUS_TRK_VN n, FUS_TRK_VE n, FUS_TRK_PSI n, FUS_TRK_SIGMA n] }]

/-- The registers of the SLV block in address order. -/
def rowsSLV : List RegRow :=
  [{ name := "SLV_CTRL", base := 0x40050000, stride := 4, count := 1, bits := 32,
     fields := fun _ => [SLV_CTRL_RUN, SLV_CTRL_GUARD] },
   { name := "SLV_STATUS", base := 0x40050004, stride := 4, count := 1, bits := 32,
     fields := fun _ => [SLV_STATUS_BUSY, SLV_STATUS_DOMINO, SLV_STATUS_QDEPTH, SLV_STATUS_RUN_SLOT] },
   { name := "SLV_ERR", base := 0x40050008, stride := 4, count := 1, bits := 32,
     fields := fun _ => [SLV_ERR_CFG_REJ, SLV_ERR_RING_FULL, SLV_ERR_PIP_CORR, SLV_ERR_PIP_UNCORR, SLV_ERR_DEADLINE, SLV_ERR_REG] },
   { name := "SLV_RING_PTR", base := 0x4005000C, stride := 4, count := 1, bits := 32,
     fields := fun _ => [SLV_RING_PTR_HEAD, SLV_RING_PTR_TAIL] },
   { name := "SLV_RING_BASE", base := 0x40050010, stride := 8, count := 1, bits := 64,
     fields := fun _ => [SLV_RING_BASE_ADDR] },
   { name := "SLV_WS", base := 0x40050018, stride := 4, count := 1, bits := 32,
     fields := fun _ => [SLV_WS_USED] },
   { name := "SLV_CNT", base := 0x40050020, stride := 8, count := 1, bits := 64,
     fields := fun _ => [SLV_CNT_ITERATE_CNT, SLV_CNT_PRIOR_CNT, SLV_CNT_COLD_CNT, SLV_CNT_REG_CNT] },
   { name := "SLV_SLOT_CFG", base := 0x40050100, stride := 8, count := 16, bits := 64,
     fields := fun n => [SLV_SLOT_CFG_PIV_EXP n, SLV_SLOT_CFG_SHIFT_EXP n, SLV_SLOT_CFG_MAX_ITER n, SLV_SLOT_CFG_GAP_EXP n, SLV_SLOT_CFG_FEAS_EXP n, SLV_SLOT_CFG_PUSH_EXP n] },
   { name := "SLV_SLOT_STAT", base := 0x40050180, stride := 8, count := 16, bits := 64,
     fields := fun n => [SLV_SLOT_STAT_STATE n, SLV_SLOT_STAT_HAS_SOL n, SLV_SLOT_STAT_CLASS n, SLV_SLOT_STAT_FEED n, SLV_SLOT_STAT_N n, SLV_SLOT_STAT_M n, SLV_SLOT_STAT_FOOT n] },
   { name := "SLV_SLOT_SIG", base := 0x40050200, stride := 16, count := 16, bits := 128,
     fields := fun n => [SLV_SLOT_SIG_SIG n, SLV_SLOT_SIG_SOL_SIG n] }]

/-- The registers of the HLM block in address order. -/
def rowsHLM : List RegRow :=
  [{ name := "HLM_CTRL", base := 0x40060000, stride := 4, count := 1, bits := 32,
     fields := fun _ => [HLM_CTRL_RUN, HLM_CTRL_WFF, HLM_CTRL_MAX_CLASS] },
   { name := "HLM_STATUS", base := 0x40060004, stride := 4, count := 1, bits := 32,
     fields := fun _ => [HLM_STATUS_MODE, HLM_STATUS_CLASS, HLM_STATUS_LOWERED, HLM_STATUS_HELD, HLM_STATUS_TRANSIT, HLM_STATUS_REDUND, HLM_STATUS_REST_N] },
   { name := "HLM_ERR", base := 0x40060008, stride := 4, count := 1, bits := 32,
     fields := fun _ => [HLM_ERR_CFG_REJ, HLM_ERR_CMD_REJ, HLM_ERR_ADMIT_REJ, HLM_ERR_FALLBACK, HLM_ERR_STR_STALE] },
   { name := "HLM_ALARM", base := 0x4006000C, stride := 4, count := 1, bits := 32,
     fields := fun _ => [HLM_ALARM_POS_LOST, HLM_ALARM_HDG_LOST, HLM_ALARM_TGT_LOST, HLM_ALARM_ALLOC_FAIL, HLM_ALARM_WATCH, HLM_ALARM_FORCE_SHORT, HLM_ALARM_BUS_SHORT, HLM_ALARM_CLASS_LOW] },
   { name := "HLM_TIME_CFG", base := 0x40060010, stride := 8, count := 1, bits := 64,
     fields := fun _ => [HLM_TIME_CFG_QP_REL, HLM_TIME_CFG_QP_DL, HLM_TIME_CFG_CMD_OFF, HLM_TIME_CFG_HDIV] },
   { name := "HLM_QP_CFG", base := 0x40060018, stride := 4, count := 1, bits := 32,
     fields := fun _ => [HLM_QP_CFG_SLOT, HLM_QP_CFG_MAX_ITER, HLM_QP_CFG_TRANSIT_PERS] },
   { name := "HLM_WATCH_CFG", base := 0x4006001C, stride := 4, count := 1, bits := 32,
     fields := fun _ => [HLM_WATCH_CFG_WATCH_R, HLM_WATCH_CFG_T_W, HLM_WATCH_CFG_WATCH_ON] },
   { name := "HLM_GAIN", base := 0x40060020, stride := 4, count := 3, bits := 32,
     fields := fun n => [HLM_GAIN_TN n, HLM_GAIN_ZETA n] },
   { name := "HLM_MOVE_CFG", base := 0x4006002C, stride := 4, count := 1, bits := 32,
     fields := fun _ => [HLM_MOVE_CFG_MOVE_V, HLM_MOVE_CFG_MOVE_R, HLM_MOVE_CFG_MOVE_A] },
   { name := "HLM_REST_CFG", base := 0x40060030, stride := 4, count := 1, bits := 32,
     fields := fun _ => [HLM_REST_CFG_EN, HLM_REST_CFG_MAX_REST, HLM_REST_CFG_MARGIN, HLM_REST_CFG_I_REST] },
   { name := "HLM_MODE_REQ", base := 0x40060034, stride := 4, count := 1, bits := 32,
     fields := fun _ => [HLM_MODE_REQ_MODE, HLM_MODE_REQ_SET, HLM_MODE_REQ_RESTORE] },
   { name := "HLM_CNT", base := 0x40060038, stride := 4, count := 1, bits := 32,
     fields := fun _ => [HLM_CNT_ITERATE_CNT, HLM_CNT_FALLBACK_CNT] },
   { name := "HLM_ADMIT", base := 0x4006003C, stride := 4, count := 1, bits := 32,
     fields := fun _ => [HLM_ADMIT_BOUND] },
   { name := "HLM_SP", base := 0x40060040, stride := 16, count := 1, bits := 128,
     fields := fun _ => [HLM_SP_NORTH, HLM_SP_EAST, HLM_SP_HDG, HLM_SP_REL] },
   { name := "HLM_JOY", base := 0x40060050, stride := 8, count := 1, bits := 64,
     fields := fun _ => [HLM_JOY_X, HLM_JOY_Y, HLM_JOY_N] },
   { name := "HLM_PLANT_IN", base := 0x40060058, stride := 8, count := 1, bits := 64,
     fields := fun _ => [HLM_PLANT_IN_THR_AVAIL, HLM_PLANT_IN_GEN_ONLINE, HLM_PLANT_IN_TIE_CLOSED] },
   { name := "HLM_LOAD", base := 0x40060060, stride := 8, count := 1, bits := 64,
     fields := fun _ => (List.range 4).map (HLM_LOAD_LOAD) },
   { name := "HLM_AZ_FB", base := 0x40060080, stride := 4, count := 32, bits := 32,
     fields := fun n => [HLM_AZ_FB_AZ n, HLM_AZ_FB_THRUST n] },
   { name := "HLM_OUT", base := 0x40060800, stride := 32, count := 1, bits := 256,
     fields := fun _ => [HLM_OUT_NS32, HLM_OUT_EPOCH, HLM_OUT_CYCLE, HLM_OUT_OUTCOME, HLM_OUT_MODE, HLM_OUT_CLASS, HLM_OUT_ITER, HLM_OUT_FLAGS, HLM_OUT_DEM_X, HLM_OUT_DEM_Y, HLM_OUT_DEM_N] },
   { name := "HLM_OUT_THR", base := 0x40060820, stride := 8, count := 32, bits := 64,
     fields := fun n => [HLM_OUT_THR_THRUST n, HLM_OUT_THR_AZ n, HLM_OUT_THR_RUD n, HLM_OUT_THR_STATE n] }] ++
  [{ name := "HLM_OUT_STR", base := 0x40060920, stride := 4, count := 256, bits := 32,
     fields := fun n => [HLM_OUT_STR_P n] },
   { name := "HLM_OUT_GEN", base := 0x40060D20, stride := 4, count := 16, bits := 32,
     fields := fun n => [HLM_OUT_GEN_P n] }]

/-- The registers of the LPE block in address order. -/
def rowsLPE : List RegRow :=
  [{ name := "LPE_CTRL", base := 0x40070000, stride := 4, count := 1, bits := 32,
     fields := fun _ => [LPE_CTRL_RUN, LPE_CTRL_OUT_OFF] },
   { name := "LPE_STATUS", base := 0x40070004, stride := 4, count := 1, bits := 32,
     fields := fun _ => [LPE_STATUS_N_CLOSED, LPE_STATUS_N_FAULT, LPE_STATUS_LOAD] },
   { name := "LPE_ERR", base := 0x40070008, stride := 4, count := 1, bits := 32,
     fields := fun _ => [LPE_ERR_CFG_REJ, LPE_ERR_CMD_REJ, LPE_ERR_ADMIT_REJ, LPE_ERR_OVERRUN, LPE_ERR_SUP_FAULT] },
   { name := "LPE_CNT", base := 0x4007000C, stride := 4, count := 1, bits := 32,
     fields := fun _ => [LPE_CNT_OVR_CNT, LPE_CNT_SUP_CNT] },
   { name := "LPE_ORIGIN", base := 0x40070010, stride := 8, count := 1, bits := 64,
     fields := fun _ => [LPE_ORIGIN_NS32, LPE_ORIGIN_EPOCH] },
   { name := "LPE_FAULT", base := 0x40070018, stride := 8, count := 1, bits := 64,
     fields := fun _ => [LPE_FAULT_LOOP] },
   { name := "LPE_SAT", base := 0x40070020, stride := 8, count := 1, bits := 64,
     fields := fun _ => [LPE_SAT_LOOP] },
   { name := "LPE_LOOP_CFG", base := 0x40071000, stride := 256, count := 64, bits := 64,
     fields := fun n => [LPE_LOOP_CFG_EN n, LPE_LOOP_CFG_TYPE n, LPE_LOOP_CFG_SIZE n, LPE_LOOP_CFG_SHIFT n, LPE_LOOP_CFG_DIV n, LPE_LOOP_CFG_PH n] },
   { name := "LPE_LOOP_IO", base := 0x40071008, stride := 256, count := 64, bits := 64,
     fields := fun n => [LPE_LOOP_IO_R_IDX n, LPE_LOOP_IO_Y_IDX n, LPE_LOOP_IO_FF_IDX n, LPE_LOOP_IO_OUT_IDX n] },
   { name := "LPE_LOOP_LIM", base := 0x40071010, stride := 256, count := 64, bits := 32,
     fields := fun n => [LPE_LOOP_LIM_UMIN n, LPE_LOOP_LIM_UMAX n] },
   { name := "LPE_LOOP_SUP", base := 0x40071014, stride := 256, count := 64, bits := 32,
     fields := fun n => [LPE_LOOP_SUP_THR n, LPE_LOOP_SUP_PERS n, LPE_LOOP_SUP_DEAD n, LPE_LOOP_SUP_ACT n, LPE_LOOP_SUP_EN n] },
   { name := "LPE_LOOP_MODEL", base := 0x40071018, stride := 256, count := 64, bits := 64,
     fields := fun n => [LPE_LOOP_MODEL_AM n, LPE_LOOP_MODEL_BM n, LPE_LOOP_MODEL_LM n, LPE_LOOP_MODEL_SAFE n] },
   { name := "LPE_LOOP_CMD", base := 0x40071020, stride := 256, count := 64, bits := 32,
     fields := fun n => [LPE_LOOP_CMD_OPEN n, LPE_LOOP_CMD_CLOSE n, LPE_LOOP_CMD_COMMIT n, LPE_LOOP_CMD_CLEAR n] },
   { name := "LPE_LOOP_MAN", base := 0x40071024, stride := 256, count := 64, bits := 32,
     fields := fun n => [LPE_LOOP_MAN_MAN n] },
   { name := "LPE_LOOP_STAT", base := 0x40071028, stride := 256, count := 64, bits := 64,
     fields := fun n => [LPE_LOOP_STAT_STATE n, LPE_LOOP_STAT_COMMIT_PEND n, LPE_LOOP_STAT_SAT n, LPE_LOOP_STAT_SUP_FLAG n, LPE_LOOP_STAT_BAD_IN n, LPE_LOOP_STAT_SUP_CNT n, LPE_LOOP_STAT_U n, LPE_LOOP_STAT_RES n] },
   { name := "LPE_LOOP_COEF_PEND", base := 0x40071040, stride := 256, count := 64, bits := 512,
     fields := fun n => (List.range 32).map (LPE_LOOP_COEF_PEND_C n) },
   { name := "LPE_LOOP_COEF_ACT", base := 0x40071080, stride := 256, count := 64, bits := 512,
     fields := fun n => (List.range 32).map (LPE_LOOP_COEF_ACT_C n) },
   { name := "LPE_PAGE", base := 0x40078000, stride := 4, count := 1024, bits := 32,
     fields := fun n => [LPE_PAGE_VALUE n, LPE_PAGE_QUAL n] }]

/-- The registers of the PTU block in address order. -/
def rowsPTU : List RegRow :=
  [{ name := "PTU_CTRL", base := 0x40080000, stride := 4, count := 1, bits := 32,
     fields := fun _ => [PTU_CTRL_SRC, PTU_CTRL_SERVO_EN, PTU_CTRL_PPS_EN, PTU_CTRL_REBASE, PTU_CTRL_TAKE_SRC] },
   { name := "PTU_STATUS", base := 0x40080004, stride := 4, count := 1, bits := 32,
     fields := fun _ => [PTU_STATUS_STATE, PTU_STATUS_BASE_SET, PTU_STATUS_REFCLK_OK, PTU_STATUS_PARENT_OK, PTU_STATUS_DEPTH] },
   { name := "PTU_ERR", base := 0x40080008, stride := 4, count := 1, bits := 32,
     fields := fun _ => [PTU_ERR_CFG_REJ, PTU_ERR_OFF_REJ, PTU_ERR_DLY_REJ, PTU_ERR_HOLDOVER_ENT, PTU_ERR_STEP, PTU_ERR_REFCLK_LOSS] },
   { name := "PTU_SERVO", base := 0x4008000C, stride := 4, count := 1, bits := 32,
     fields := fun _ => [PTU_SERVO_KP, PTU_SERVO_KI, PTU_SERVO_FREQ_LIM, PTU_SERVO_SLEW_LIM] },
   { name := "PTU_TIME", base := 0x40080010, stride := 8, count := 1, bits := 64,
     fields := fun _ => [PTU_TIME_NS32, PTU_TIME_EPOCH] },
   { name := "PTU_INCR", base := 0x40080018, stride := 4, count := 1, bits := 32,
     fields := fun _ => [PTU_INCR_INCR] },
   { name := "PTU_SYNC_CFG", base := 0x4008001C, stride := 4, count := 1, bits := 32,
     fields := fun _ => [PTU_SYNC_CFG_SYNC_INT, PTU_SYNC_CFG_DLY_TOL, PTU_SYNC_CFG_HOLD_T] },
   { name := "PTU_OFFSET_IN", base := 0x40080020, stride := 8, count := 1, bits := 64,
     fields := fun _ => [PTU_OFFSET_IN_OFFSET, PTU_OFFSET_IN_T] },
   { name := "PTU_LAST_OFF", base := 0x40080028, stride := 8, count := 1, bits := 64,
     fields := fun _ => [PTU_LAST_OFF_OFFSET, PTU_LAST_OFF_T] },
   { name := "PTU_GPS_BASE", base := 0x40080030, stride := 8, count := 1, bits := 64,
     fields := fun _ => [PTU_GPS_BASE_BASE] },
   { name := "PTU_STEP", base := 0x40080038, stride := 8, count := 1, bits := 64,
     fields := fun _ => [PTU_STEP_DELTA, PTU_STEP_T] },
   { name := "PTU_PPS_CFG", base := 0x40080040, stride := 4, count := 1, bits := 32,
     fields := fun _ => [PTU_PPS_CFG_WIDTH, PTU_PPS_CFG_PPS_IN_EN, PTU_PPS_CFG_PPS_IN_FALL] },
   { name := "PTU_HOLD", base := 0x40080044, stride := 4, count := 1, bits := 32,
     fields := fun _ => [PTU_HOLD_DUR] },
   { name := "PTU_TSQ_STAT", base := 0x40080048, stride := 4, count := 1, bits := 32,
     fields := fun _ => [PTU_TSQ_STAT_OVF] },
   { name := "PTU_TSQ_POP", base := 0x4008004C, stride := 4, count := 1, bits := 32,
     fields := fun _ => [PTU_TSQ_POP_POP] },
   { name := "PTU_PPS_IN", base := 0x40080050, stride := 8, count := 1, bits := 64,
     fields := fun _ => [PTU_PPS_IN_T, PTU_PPS_IN_CNT] },
   { name := "PTU_PORT", base := 0x40080080, stride := 8, count := 6, bits := 64,
     fields := fun n => [PTU_PORT_ASYM n, PTU_PORT_DELAY n] },
   { name := "PTU_TSQ", base := 0x40080100, stride := 8, count := 6, bits := 64,
     fields := fun n => [PTU_TSQ_T n, PTU_TSQ_ID n, PTU_TSQ_VALID n, PTU_TSQ_LEVEL n] }]

/-- The registers of the ZFB block in address order. -/
def rowsZFB : List RegRow :=
  [{ name := "ZFB_CTRL", base := 0x40090000, stride := 4, count := 1, bits := 32,
     fields := fun _ => [ZFB_CTRL_RUN, ZFB_CTRL_ROLL_START, ZFB_CTRL_RECALL_EN] },
   { name := "ZFB_STATUS", base := 0x40090004, stride := 4, count := 1, bits := 32,
     fields := fun _ => [ZFB_STATUS_ASSIGNED, ZFB_STATUS_GROUP, ZFB_STATUS_ROLL_RUN, ZFB_STATUS_REVERSED, ZFB_STATUS_DRIVE, ZFB_STATUS_GEN] },
   { name := "ZFB_ERR", base := 0x40090008, stride := 4, count := 1, bits := 32,
     fields := fun _ => [ZFB_ERR_CFG_REJ, ZFB_ERR_HDR_DROP, ZFB_ERR_LEN_DROP, ZFB_ERR_TTL_DROP, ZFB_ERR_NO_ROUTE, ZFB_ERR_ABORT, ZFB_ERR_Q_DROP, ZFB_ERR_GUARD, ZFB_ERR_PROTECT, ZFB_ERR_AUTH_FAIL, ZFB_ERR_DRIVE_BLK, ZFB_ERR_LATE_RX, ZFB_ERR_BAD_ENTRY, ZFB_ERR_RING_FULL] },
   { name := "ZFB_ID", base := 0x4009000C, stride := 4, count := 1, bits := 32,
     fields := fun _ => [ZFB_ID_NODE_ID, ZFB_ID_DOMAIN] },
   { name := "ZFB_DOM_CFG", base := 0x40090010, stride := 8, count := 1, bits := 64,
     fields := fun _ => [ZFB_DOM_CFG_DOMAIN, ZFB_DOM_CFG_ID_BASE, ZFB_DOM_CFG_ID_COUNT] },
   { name := "ZFB_ROUTE_CFG", base := 0x40090018, stride := 4, count := 1, bits := 32,
     fields := fun _ => [ZFB_ROUTE_CFG_UP, ZFB_ROUTE_CFG_ALT, ZFB_ROUTE_CFG_STBY_P2, ZFB_ROUTE_CFG_GRP_P0, ZFB_ROUTE_CFG_GRP_P1] },
   { name := "ZFB_SWEEP_CFG", base := 0x4009001C, stride := 4, count := 1, bits := 32,
     fields := fun _ => [ZFB_SWEEP_CFG_DUE, ZFB_SWEEP_CFG_RECALL_INT, ZFB_SWEEP_CFG_RECALL_MAX] },
   { name := "ZFB_GUARD_CFG", base := 0x40090020, stride := 4, count := 1, bits := 32,
     fields := fun _ => [ZFB_GUARD_CFG_HOLD] },
   { name := "ZFB_ROLL_RES", base := 0x40090024, stride := 4, count := 1, bits := 32,
     fields := fun _ => [ZFB_ROLL_RES_OUTCOME, ZFB_ROLL_RES_NODES, ZFB_ROLL_RES_DEPTH] },
   { name := "ZFB_CNT", base := 0x40090028, stride := 8, count := 1, bits := 64,
     fields := fun _ => [ZFB_CNT_DROP_CNT, ZFB_CNT_Q_DROP_CNT, ZFB_CNT_AUTH_FAIL_CNT, ZFB_CNT_RECALL_CNT] },
   { name := "ZFB_TX_RING", base := 0x40090030, stride := 8, count := 1, bits := 64,
     fields := fun _ => [ZFB_TX_RING_ADDR] },
   { name := "ZFB_TX_PTR", base := 0x40090038, stride := 4, count := 1, bits := 32,
     fields := fun _ => [ZFB_TX_PTR_HEAD, ZFB_TX_PTR_TAIL] },
   { name := "ZFB_RX_RING", base := 0x40090040, stride := 8, count := 1, bits := 64,
     fields := fun _ => [ZFB_RX_RING_ADDR] },
   { name := "ZFB_RX_PTR", base := 0x40090048, stride := 4, count := 1, bits := 32,
     fields := fun _ => [ZFB_RX_PTR_HEAD, ZFB_RX_PTR_TAIL] },
   { name := "ZFB_PORT", base := 0x40090100, stride := 8, count := 4, bits := 64,
     fields := fun n => [ZFB_PORT_STATE n, ZFB_PORT_ROLE n, ZFB_PORT_WRAP n, ZFB_PORT_RATE n, ZFB_PORT_HDR_ERR_CNT n, ZFB_PORT_DOWN_CNT n] },
   { name := "ZFB_RT", base := 0x40091000, stride := 8, count := 256, bits := 64,
     fields := fun n => [ZFB_RT_LO n, ZFB_RT_HI n, ZFB_RT_VALID n, ZFB_RT_STBY n] }]

/-- The registers of the PRD block in address order. -/
def rowsPRD : List RegRow :=
  [{ name := "PRD_CTRL", base := 0x400A0000, stride := 4, count := 1, bits := 32,
     fields := fun _ => [PRD_CTRL_EN, PRD_CTRL_RELEASE, PRD_CTRL_SYNC_REQ] },
   { name := "PRD_STATUS", base := 0x400A0004, stride := 4, count := 1, bits := 32,
     fields := fun _ => [PRD_STATUS_GATE, PRD_STATUS_TOKEN_CNT, PRD_STATUS_N_EXP2, PRD_STATUS_POS, PRD_STATUS_HALF, PRD_STATUS_ML_STATE, PRD_STATUS_DL_UP, PRD_STATUS_PART_HOLD, PRD_STATUS_PART_ALIVE, PRD_STATUS_PART_HB_OK, PRD_STATUS_TAKE_READY, PRD_STATUS_ALIVE] },
   { name := "PRD_ERR", base := 0x400A0008, stride := 4, count := 1, bits := 32,
     fields := fun _ => [PRD_ERR_CFG_REJ, PRD_ERR_CMD_REJ, PRD_ERR_TOKEN_LINE, PRD_ERR_COLLISION, PRD_ERR_VETO, PRD_ERR_ML_DOWN, PRD_ERR_DL_DOWN, PRD_ERR_HB_LOST, PRD_ERR_MIR_OVF, PRD_ERR_DELTA_DISC, PRD_ERR_CFG_DIFF, PRD_ERR_POS_SAME] },
   { name := "PRD_DIAG_EN", base := 0x400A000C, stride := 4, count := 1, bits := 32,
     fields := fun _ => [PRD_DIAG_EN_CHECK] },
   { name := "PRD_CAUSE", base := 0x400A0010, stride := 8, count := 1, bits := 64,
     fields := fun _ => [PRD_CAUSE_CAUSE, PRD_CAUSE_CHECK, PRD_CAUSE_T] },
   { name := "PRD_WDT", base := 0x400A0018, stride := 4, count := 1, bits := 32,
     fields := fun _ => [PRD_WDT_EN, PRD_WDT_WIN, PRD_WDT_SRC] },
   { name := "PRD_KICK", base := 0x400A001C, stride := 4, count := 1, bits := 32,
     fields := fun _ => [PRD_KICK_KICK] },
   { name := "PRD_HB", base := 0x400A0020, stride := 4, count := 1, bits := 32,
     fields := fun _ => [PRD_HB_TICK, PRD_HB_HB_TO] },
   { name := "PRD_COMMIT", base := 0x400A0024, stride := 4, count := 1, bits := 32,
     fields := fun _ => [PRD_COMMIT_CI] },
   { name := "PRD_MIR_STAT", base := 0x400A0028, stride := 8, count := 1, bits := 64,
     fields := fun _ => [PRD_MIR_STAT_CI_TX, PRD_MIR_STAT_CI_RX] },
   { name := "PRD_CNT", base := 0x400A0030, stride := 8, count := 1, bits := 64,
     fields := fun _ => [PRD_CNT_DISC_CNT, PRD_CNT_STALL_CNT, PRD_CNT_COLL_CNT, PRD_CNT_HB_LOSS_CNT] },
   { name := "PRD_TAKE", base := 0x400A0038, stride := 8, count := 1, bits := 64,
     fields := fun _ => [PRD_TAKE_T_ASSERT, PRD_TAKE_T_DRIVE] },
   { name := "PRD_MR", base := 0x400A0100, stride := 8, count := 16, bits := 64,
     fields := fun n => [PRD_MR_BASE n, PRD_MR_SIZE n, PRD_MR_KIND n] }]

/-- The registers of the MBX block in address order. -/
def rowsMBX : List RegRow :=
  [{ name := "MBX_DOORBELL MBX_MB_STAT", base := 0x400B0000, stride := 4, count := 1, bits := 32,
     fields := fun _ => [MBX_DOORBELL_RING] ++ (List.range 8).map (MBX_MB_STAT_STATE) },
   { name := "MBX_ACK MBX_IRQ", base := 0x400B0004, stride := 4, count := 1, bits := 32,
     fields := fun _ => [MBX_ACK_ACK, MBX_IRQ_DONE] },
   { name := "MBX_IRQ_EN MBX_PAGE", base := 0x400B0008, stride := 4, count := 1, bits := 32,
     fields := fun _ => [MBX_IRQ_EN_EN, MBX_PAGE_MB] },
   { name := "MBX_HB_ERR MBX_ID", base := 0x400B000C, stride := 4, count := 1, bits := 32,
     fields := fun _ => [MBX_HB_ERR_RING_BUSY, MBX_HB_ERR_WR_BUSY, MBX_HB_ERR_RING_PATH, MBX_HB_ERR_CFG_REJ, MBX_ID_ID] },
   { name := "MBX_PATH", base := 0x400B0010, stride := 4, count := 1, bits := 32,
     fields := fun _ => (List.range 8).map (MBX_PATH_PATH) },
   { name := "MBX_STATUS", base := 0x400B0014, stride := 4, count := 1, bits := 32,
     fields := fun _ => [MBX_STATUS_DEV_KEY, MBX_STATUS_HOST_KEY, MBX_STATUS_LONG_RUN, MBX_STATUS_LONG_MB] },
   { name := "MBX_CNT", base := 0x400B0018, stride := 8, count := 1, bits := 64,
     fields := fun _ => [MBX_CNT_REFUSED_CNT, MBX_CNT_CHECK_CNT, MBX_CNT_LEN_CNT, MBX_CNT_RESP_LOST] },
   { name := "MBX_ETH_CFG", base := 0x400B0020, stride := 4, count := 1, bits := 32,
     fields := fun _ => [MBX_ETH_CFG_PORT, MBX_ETH_CFG_EN] },
   { name := "MBX_PIP_CTRL", base := 0x400B0040, stride := 4, count := 1, bits := 32,
     fields := fun _ => [MBX_PIP_CTRL_DRAM_PER, MBX_PIP_CTRL_SRAM_PER, MBX_PIP_CTRL_FLASH_PER] },
   { name := "MBX_PIP_ERR", base := 0x400B0044, stride := 4, count := 1, bits := 32,
     fields := fun _ => [MBX_PIP_ERR_DRAM_CORR, MBX_PIP_ERR_DRAM_UNCORR, MBX_PIP_ERR_SRAM_CORR, MBX_PIP_ERR_SRAM_UNCORR, MBX_PIP_ERR_FLASH_CORR, MBX_PIP_ERR_FLASH_UNCORR, MBX_PIP_ERR_BUS_ERR] },
   { name := "MBX_PIP_CNT", base := 0x400B0048, stride := 8, count := 1, bits := 64,
     fields := fun _ => [MBX_PIP_CNT_CORR_CNT, MBX_PIP_CNT_FLASH_CORR_CNT, MBX_PIP_CNT_UNCORR_CNT, MBX_PIP_CNT_OLD_CNT] },
   { name := "MBX_PIP_ADDR", base := 0x400B0050, stride := 8, count := 1, bits := 64,
     fields := fun _ => [MBX_PIP_ADDR_ADDR, MBX_PIP_ADDR_SYM, MBX_PIP_ADDR_UNCORR] },
   { name := "MBX_SCRUB_STAT", base := 0x400B0058, stride := 4, count := 1, bits := 32,
     fields := fun _ => [MBX_SCRUB_STAT_DRAM_PASS, MBX_SCRUB_STAT_SRAM_PASS, MBX_SCRUB_STAT_FLASH_PASS] },
   { name := "MBX_PWR_STAT", base := 0x400B0060, stride := 4, count := 1, bits := 32,
     fields := fun _ => [MBX_PWR_STAT_VIN, MBX_PWR_STAT_TJ, MBX_PWR_STAT_FS_PRESENT, MBX_PWR_STAT_HOLD_OK] },
   { name := "MBX_PWR_ERR", base := 0x400B0064, stride := 4, count := 1, bits := 32,
     fields := fun _ => [MBX_PWR_ERR_BROWNOUT, MBX_PWR_ERR_VIN_HIGH, MBX_PWR_ERR_SUPPLY, MBX_PWR_ERR_RAIL, MBX_PWR_ERR_JUNCT_HOT, MBX_PWR_ERR_THERMAL] },
   { name := "MBX_START", base := 0x400B0068, stride := 4, count := 1, bits := 32,
     fields := fun _ => [MBX_START_RESET_SRC, MBX_START_BULB, MBX_START_SLOT_RUN, MBX_START_SLOT_SEL, MBX_START_FAIL_CNT, MBX_START_REASON] }]

/-- The registers of the CRT block in address order. -/
def rowsCRT : List RegRow :=
  [{ name := "CRT_CTRL", base := 0x400C0000, stride := 4, count := 1, bits := 32,
     fields := fun _ => [CRT_CTRL_RUN, CRT_CTRL_DEBUG_EN, CRT_CTRL_STOP_SAFE, CRT_CTRL_OVR_RELEASE, CRT_CTRL_RESET] },
   { name := "CRT_STATUS", base := 0x400C0004, stride := 4, count := 1, bits := 32,
     fields := fun _ => [CRT_STATUS_STATE, CRT_STATUS_FORCED, CRT_STATUS_HOLD_ANY, CRT_STATUS_IMAGE_OK, CRT_STATUS_N_FORCE, CRT_STATUS_N_TASK] },
   { name := "CRT_ERR", base := 0x400C0008, stride := 4, count := 1, bits := 32,
     fields := fun _ => [CRT_ERR_CFG_REJ, CRT_ERR_CMD_REJ, CRT_ERR_OVERRUN, CRT_ERR_EVT_LOST, CRT_ERR_STN_LOST, CRT_ERR_OUT_DISCARD, CRT_ERR_SIG_REJ, CRT_ERR_FORCE_SAFE] },
   { name := "CRT_ORIGIN", base := 0x400C0010, stride := 8, count := 1, bits := 64,
     fields := fun _ => [CRT_ORIGIN_NS32, CRT_ORIGIN_EPOCH] },
   { name := "CRT_CNT", base := 0x400C0018, stride := 8, count := 1, bits := 64,
     fields := fun _ => [CRT_CNT_OVR_CNT, CRT_CNT_EVT_LOST_CNT, CRT_CNT_OUT_DISC_CNT, CRT_CNT_SIG_REJ_CNT] },
   { name := "CRT_OVR", base := 0x400C0020, stride := 8, count := 1, bits := 64,
     fields := fun _ => [CRT_OVR_TASK, CRT_OVR_T] },
   { name := "CRT_STN_ACK", base := 0x400C0028, stride := 8, count := 1, bits := 64,
     fields := fun _ => [CRT_STN_ACK_ACK] },
   { name := "CRT_TASK_STAT", base := 0x400C0100, stride := 8, count := 32, bits := 64,
     fields := fun n => [CRT_TASK_STAT_STATE n, CRT_TASK_STAT_KIND n, CRT_TASK_STAT_LATCHED n, CRT_TASK_STAT_PRIO n, CRT_TASK_STAT_CORE n, CRT_TASK_STAT_RESP n, CRT_TASK_STAT_INST n] },
   { name := "CRT_STN_STAT", base := 0x400C0200, stride := 4, count := 64, bits := 32,
     fields := fun n => [CRT_STN_STAT_STATE n, CRT_STN_STAT_MISS n, CRT_STN_STAT_WDT n, CRT_STN_STAT_NODE n] }]

/-- The registers of the FIO block in address order. -/
def rowsFIO : List RegRow :=
  [{ name := "FIO_CTRL", base := 0x400D0000, stride := 4, count := 1, bits := 32,
     fields := fun _ => [FIO_CTRL_ENABLE] },
   { name := "FIO_STATUS", base := 0x400D0004, stride := 4, count := 1, bits := 32,
     fields := fun _ => [FIO_STATUS_STATE, FIO_STATUS_LINK, FIO_STATUS_FS_OK, FIO_STATUS_OUT_PERMIT, FIO_STATUS_PENDING] },
   { name := "FIO_ERR", base := 0x400D0008, stride := 4, count := 1, bits := 32,
     fields := fun _ => [FIO_ERR_UP_CRC, FIO_ERR_DOWN_REJ, FIO_ERR_SYNC_IN_ACTIVE, FIO_ERR_LINK_LOST, FIO_ERR_CFG_REJ, FIO_ERR_OWN_REJ, FIO_ERR_MISMATCH, FIO_ERR_WR_DROPPED, FIO_ERR_FIELD_POR, FIO_ERR_FS_LOW] },
   { name := "FIO_LINK_ERRCNT", base := 0x400D000C, stride := 4, count := 1, bits := 32,
     fields := fun _ => [FIO_LINK_ERRCNT_UP_CRC_CNT, FIO_LINK_ERRCNT_DOWN_REJ_CNT] },
   { name := "FIO_CFG", base := 0x400D0010, stride := 4, count := 1, bits := 32,
     fields := fun _ => [FIO_CFG_SILENCE] },
   { name := "FIO_OUT", base := 0x400D0014, stride := 4, count := 1, bits := 32,
     fields := fun _ => [FIO_OUT_OUT] },
   { name := "FIO_IN", base := 0x400D0018, stride := 8, count := 1, bits := 64,
     fields := fun _ => [FIO_IN_IN, FIO_IN_RB, FIO_IN_ACT] },
   { name := "FIO_FAULT", base := 0x400D0020, stride := 8, count := 1, bits := 64,
     fields := fun _ => [FIO_FAULT_OVL, FIO_FAULT_OPEN, FIO_FAULT_OT, FIO_FAULT_DISC] },
   { name := "FIO_IN_CFG", base := 0x400D0040, stride := 4, count := 16, bits := 32,
     fields := fun n => [FIO_IN_CFG_DEB n, FIO_IN_CFG_INV n] },
   { name := "FIO_OUT_CFG", base := 0x400D0080, stride := 4, count := 16, bits := 32,
     fields := fun n => [FIO_OUT_CFG_OVL_T n, FIO_OUT_CFG_RESTART n, FIO_OUT_CFG_OPEN_EN n, FIO_OUT_CFG_DISC_REL n, FIO_OUT_CFG_RB_T n] },
   { name := "FIO_EDGE", base := 0x400D0100, stride := 8, count := 16, bits := 64,
     fields := fun n => [FIO_EDGE_T n, FIO_EDGE_LEVEL n, FIO_EDGE_CNT n] }]

/-- The registers of the CAN block in address order. -/
def rowsCAN : List RegRow :=
  [{ name := "CAN_CTRL", base := 0x400E0000, stride := 256, count := 4, bits := 32,
     fields := fun n => [CAN_CTRL_EN n, CAN_CTRL_LISTEN n, CAN_CTRL_RECOVER n, CAN_CTRL_TX_CLR n] },
   { name := "CAN_STATUS", base := 0x400E0004, stride := 256, count := 4, bits := 32,
     fields := fun n => [CAN_STATUS_STATE n, CAN_STATUS_MONITOR n, CAN_STATUS_LEC n, CAN_STATUS_TEC n, CAN_STATUS_REC n, CAN_STATUS_RECOV n] },
   { name := "CAN_ERR", base := 0x400E0008, stride := 256, count := 4, bits := 32,
     fields := fun n => [CAN_ERR_CFG_REJ n, CAN_ERR_CMD_REJ n, CAN_ERR_BUSOFF n, CAN_ERR_PASSIVE n, CAN_ERR_MISSED n, CAN_ERR_RX_OVW n, CAN_ERR_NO_MATCH n] },
   { name := "CAN_NBT", base := 0x400E000C, stride := 256, count := 4, bits := 32,
     fields := fun n => [CAN_NBT_BRP n, CAN_NBT_TSEG1 n, CAN_NBT_TSEG2 n, CAN_NBT_SJW n] },
   { name := "CAN_DBT", base := 0x400E0010, stride := 256, count := 4, bits := 32,
     fields := fun n => [CAN_DBT_BRP n, CAN_DBT_TSEG1 n, CAN_DBT_TSEG2 n, CAN_DBT_SJW n] },
   { name := "CAN_TDC", base := 0x400E0014, stride := 256, count := 4, bits := 32,
     fields := fun n => [CAN_TDC_TDCO n, CAN_TDC_TDC_EN n] },
   { name := "CAN_SCHED", base := 0x400E0018, stride := 256, count := 4, bits := 32,
     fields := fun n => [CAN_SCHED_BASE_PER n, CAN_SCHED_N_ROW n] },
   { name := "CAN_ORIGIN", base := 0x400E0020, stride := 256, count := 4, bits := 64,
     fields := fun n => [CAN_ORIGIN_NS32 n, CAN_ORIGIN_EPOCH n] },
   { name := "CAN_TXREQ", base := 0x400E0028, stride := 256, count := 4, bits := 32,
     fields := fun n => [CAN_TXREQ_MSG n] },
   { name := "CAN_CNT", base := 0x400E0030, stride := 256, count := 4, bits := 64,
     fields := fun n => [CAN_CNT_MISS_CNT n, CAN_CNT_BUSOFF_CNT n, CAN_CNT_NOMATCH_CNT n, CAN_CNT_OVW_CNT n] },
   { name := "CAN_SLOT", base := 0x400E1000, stride := 16, count := 256, bits := 128,
     fields := fun n => [CAN_SLOT_OFFSET n, CAN_SLOT_WINDOW n, CAN_SLOT_MSG n, CAN_SLOT_EN n, CAN_SLOT_ROW_MASK n] },
   { name := "CAN_FILT", base := 0x400E2000, stride := 16, count := 512, bits := 128,
     fields := fun n => [CAN_FILT_TYPE n, CAN_FILT_IDE n, CAN_FILT_REJECT n, CAN_FILT_MSG n, CAN_FILT_ID1 n, CAN_FILT_ID2 n] },
   { name := "CAN_REC", base := 0x400E4000, stride := 96, count := 512, bits := 768,
     fields := fun n => [CAN_REC_ID n, CAN_REC_IDE n, CAN_REC_FDF n, CAN_REC_BRS n, CAN_REC_DLC n, CAN_REC_ESI n, CAN_REC_DIR n, CAN_REC_STATE n, CAN_REC_NEW n, CAN_REC_OVW n, CAN_REC_CODE n, CAN_REC_T n, CAN_REC_RX_TMO n] ++ (List.range 64).map (CAN_REC_DATA n) }]

/-- The registers of the SAF block in address order. -/
def rowsSAF : List RegRow :=
  [{ name := "SAF_CTRL", base := 0x400F0000, stride := 4, count := 1, bits := 32,
     fields := fun _ => [SAF_CTRL_RESET] },
   { name := "SAF_STATUS", base := 0x400F0004, stride := 4, count := 1, bits := 32,
     fields := fun _ => [SAF_STATUS_LINK1, SAF_STATUS_LINK2, SAF_STATUS_PERMIT, SAF_STATUS_LANE_DIFF, SAF_STATUS_SIL, SAF_STATUS_VOTE_OK, SAF_STATUS_PAIR_EN] },
   { name := "SAF_ERR", base := 0x400F0008, stride := 4, count := 1, bits := 32,
     fields := fun _ => [SAF_ERR_CFG_REJ, SAF_ERR_CMD_REJ, SAF_ERR_SX_REJ, SAF_ERR_SX_SILENT, SAF_ERR_TEL_REJ, SAF_ERR_IN_FAULT, SAF_ERR_FN_FAULT, SAF_ERR_OUT_FAULT, SAF_ERR_LANE_DIFF, SAF_ERR_PULSE_FAIL] },
   { name := "SAF_ALARM", base := 0x400F000C, stride := 4, count := 1, bits := 32,
     fields := fun _ => [SAF_ALARM_TP_OVERDUE, SAF_ALARM_PARTNER_VOTE, SAF_ALARM_TEL_TIMEOUT] },
   { name := "SAF_REQ", base := 0x400F0010, stride := 4, count := 1, bits := 32,
     fields := fun _ => [SAF_REQ_REQ] },
   { name := "SAF_STATE", base := 0x400F0014, stride := 4, count := 1, bits := 32,
     fields := fun _ => [SAF_STATE_IN, SAF_STATE_OUT, SAF_STATE_FN] },
   { name := "SAF_PCRC", base := 0x400F0018, stride := 4, count := 1, bits := 32,
     fields := fun _ => [SAF_PCRC_PCRC] },
   { name := "SAF_MODE", base := 0x400F001C, stride := 4, count := 1, bits := 32,
     fields := fun _ => [SAF_MODE_PAIR_EN, SAF_MODE_VOTE_TMO, SAF_MODE_SX_SIL] },
   { name := "SAF_CNT", base := 0x400F0020, stride := 8, count := 1, bits := 64,
     fields := fun _ => [SAF_CNT_TRIP_CNT, SAF_CNT_PULSE_MISS_CNT, SAF_CNT_TEL_REJ_CNT, SAF_CNT_SX_REJ_CNT] },
   { name := "SAF_IN_CFG", base := 0x400F0040, stride := 4, count := 4, bits := 32,
     fields := fun n => [SAF_IN_CFG_EN n, SAF_IN_CFG_MODE n, SAF_IN_CFG_FILT n, SAF_IN_CFG_DISC_T n, SAF_IN_CFG_OUT n] },
   { name := "SAF_OUT_CFG", base := 0x400F0050, stride := 4, count := 2, bits := 32,
     fields := fun n => [SAF_OUT_CFG_EN n, SAF_OUT_CFG_TP_EN n, SAF_OUT_CFG_PULSE_W n, SAF_OUT_CFG_TP_INT n, SAF_OUT_CFG_DIAG_INT n] },
   { name := "SAF_TEL_CFG", base := 0x400F0100, stride := 16, count := 12, bits := 128,
     fields := fun n => [SAF_TEL_CFG_KIND n, SAF_TEL_CFG_CTRL n, SAF_TEL_CFG_MSG n, SAF_TEL_CFG_SRC_ID n, SAF_TEL_CFG_TMO n, SAF_TEL_CFG_SEED n] },
   { name := "SAF_FN_CFG", base := 0x400F0200, stride := 16, count := 8, bits := 64,
     fields := fun n => [SAF_FN_CFG_TYPE n, SAF_FN_CFG_TEL_A n, SAF_FN_CFG_TEL_B n, SAF_FN_CFG_OUT n, SAF_FN_CFG_FILT n, SAF_FN_CFG_DISC_T n, SAF_FN_CFG_TOL n] },
   { name := "SAF_FN_LIM", base := 0x400F0208, stride := 16, count := 8, bits := 64,
     fields := fun n => [SAF_FN_LIM_LIM n] }]

/-- The registers of the PMC block in address order. -/
def rowsPMC : List RegRow :=
  [{ name := "PMC_CTRL", base := 0x40100000, stride := 4, count := 1, bits := 32,
     fields := fun _ => [PMC_CTRL_RUN, PMC_CTRL_FREEZE, PMC_CTRL_DUMP_EN] },
   { name := "PMC_ERR", base := 0x40100004, stride := 4, count := 1, bits := 32,
     fields := fun _ => [PMC_ERR_CFG_REJ, PMC_ERR_CMD_REJ, PMC_ERR_DUMP_DROP] },
   { name := "PMC_OVF", base := 0x40100008, stride := 4, count := 1, bits := 32,
     fields := fun _ => [PMC_OVF_OVF] },
   { name := "PMC_CHAIN", base := 0x4010000C, stride := 4, count := 1, bits := 32,
     fields := fun _ => [PMC_CHAIN_CHAIN] },
   { name := "PMC_DUMP_BASE", base := 0x40100010, stride := 8, count := 1, bits := 64,
     fields := fun _ => [PMC_DUMP_BASE_ADDR] },
   { name := "PMC_DUMP_CFG", base := 0x40100018, stride := 4, count := 1, bits := 32,
     fields := fun _ => [PMC_DUMP_CFG_PER, PMC_DUMP_CFG_ENTRIES] },
   { name := "PMC_DUMP_PTR", base := 0x4010001C, stride := 4, count := 1, bits := 32,
     fields := fun _ => [PMC_DUMP_PTR_WR, PMC_DUMP_PTR_RD, PMC_DUMP_PTR_DROP_CNT] },
   { name := "PMC_LOG_STAT", base := 0x40100020, stride := 8, count := 1, bits := 64,
     fields := fun _ => [PMC_LOG_STAT_NEXT, PMC_LOG_STAT_STAGED, PMC_LOG_STAT_LOST_CNT] },
   { name := "PMC_SEL", base := 0x40100100, stride := 4, count := 32, bits := 32,
     fields := fun n => [PMC_SEL_EVT n, PMC_SEL_SRC n, PMC_SEL_LEVEL n, PMC_SEL_SAMPLE n] },
   { name := "PMC_CNT", base := 0x40100200, stride := 4, count := 32, bits := 32,
     fields := fun n => [PMC_CNT_VALUE n] },
   { name := "PMC_SNAP", base := 0x40100300, stride := 4, count := 32, bits := 32,
     fields := fun n => [PMC_SNAP_VALUE n] }]

end Sys2Proof.Machine
end

