-- ==== Sys2Proof/Machine/Image.lean ====
section
/-!
DEFINITION. Machine/Image.lean: the flash contents that the module is shipped with (R489): the factory set of SET_X.
The order of its sections, SET_VER and BUILT are the model's (notes/assumptions/8.md).
-/
namespace Sys2Proof.Machine

/-- A directory entry of R323. -/
def dirEntry (type off len : Nat) : Bytes := bytesOf 2 type ++ bytesOf 2 0 ++ bytesOf 4 off ++ bytesOf 4 len ++ bytesOf 4 0

/-- The reset value of ZFB_DOM_CFG. -/
def domCfgReset : Nat :=
  ZFB_DOM_CFG_DOMAIN.rst <<< ZFB_DOM_CFG_DOMAIN.lo + ZFB_DOM_CFG_ID_BASE.rst <<< ZFB_DOM_CFG_ID_BASE.lo
    + ZFB_DOM_CFG_ID_COUNT.rst <<< ZFB_DOM_CFG_ID_COUNT.lo

/-- The factory set with a given CRC field: ROLE MONITOR, DOMAIN with domain 0, no register record (R489). -/
def factoryBody (crc : Nat) : Bytes :=
  bytesOf 4 0x53435844 ++ bytesOf 1 1 ++ bytesOf 1 3 ++ bytesOf 2 0 ++ bytesOf 4 224 ++ bytesOf 4 crc
    ++ List.replicate 48 0
    ++ dirEntry 1 128 32 ++ dirEntry 2 160 16 ++ dirEntry 3 192 0 ++ List.replicate 16 0
    ++ List.replicate 32 0
    ++ bytesOf 8 domCfgReset ++ bytesOf 4 ZFB_DOM_CFG_ID_COUNT.rst ++ List.replicate 20 0
    ++ List.replicate 32 0

/-- The factory set (R489). -/
def factorySet : Bytes := factoryBody (crc32 (factoryBody 0))

end Sys2Proof.Machine
end

