-- ==== Sys2Proof/Machine/Pip.lean ====
section
/-!
DEFINITION. Machine/Pip.lean: the Pip code of R408 and its decoding by R409, over GF(2^8) with the field polynomial
0x11D and alpha = 2. Symbol i of a word is the coefficient of x^(35 − i): d0 to d31, then c0 to c3.
-/
namespace Sys2Proof.Machine

/-- Multiplication by alpha (R408). -/
def gfMul2 (a : Nat) : Nat := if 128 ≤ a then (2 * a - 256) ^^^ 0x1D else 2 * a

/-- Product in GF(2^8), over the low k bits of b. -/
def gfMulAux : Nat → Nat → Nat → Nat
  | 0, _, _ => 0
  | k + 1, a, b => (if b % 2 = 1 then a else 0) ^^^ gfMulAux k (gfMul2 a) (b / 2)

/-- Product in GF(2^8). -/
def gfMul (a b : Nat) : Nat := gfMulAux 8 a b

/-- alpha^k. -/
def gfPow2 : Nat → Nat
  | 0 => 1
  | k + 1 => gfMul2 (gfPow2 k)

/-- The value at alpha^k of the word whose symbols, highest coefficient first, are given (R409). -/
def pipSyndrome (k : Nat) (syms : List Nat) : Nat :=
  syms.foldl (fun acc x => gfMul acc (gfPow2 k) ^^^ x) 0

/-- The coefficients of g(x) below x^4, highest first: g(x) = x^4 + 0x0F x^3 + 0x36 x^2 + 0x78 x + 0x40, the product of
(x + alpha^0) … (x + alpha^3) (R408). -/
def pipGen : List Nat := [0x0F, 0x36, 0x78, 0x40]

/-- One step of the division by g(x). -/
def pipStep (r : List Nat) (x : Nat) : List Nat :=
  let q := (r.getD 0 0) ^^^ x
  [(r.getD 1 0) ^^^ gfMul q 0x0F, (r.getD 2 0) ^^^ gfMul q 0x36, (r.getD 3 0) ^^^ gfMul q 0x78, gfMul q 0x40]

/-- The four check bytes of 32 data bytes (R408). -/
def pipCheck (data : Bytes) : Bytes :=
  (data.foldl (fun r b => pipStep r b.toNat) [0, 0, 0, 0]).map (BitVec.ofNat 8)

/-- What a decoder finds (R409, R414): a clean word; a corrected one with the corrected data and the position p of
the bad symbol; an uncorrectable one; or an ERASED flash word. -/
inductive PipResult where
  | clean (data : Bytes)
  | corrected (w : WireWord) (p : Nat)
  | uncorr
  deriving DecidableEq, Repr

/-- The least p ≤ 35 with a · alpha^p = b, if there is one. -/
def gfLog (a b : Nat) : Option Nat := (List.range 36).find? fun p => gfMul a (gfPow2 p) = b

/-- R409. The tests S2 = S1 · S1 / S0 and S3 = S2 · S1 / S0 are written with products. -/
def pipDecode (w : WireWord) : PipResult :=
  let syms := (w.data ++ w.chk).map (·.toNat)
  let s0 := pipSyndrome 0 syms
  let s1 := pipSyndrome 1 syms
  let s2 := pipSyndrome 2 syms
  let s3 := pipSyndrome 3 syms
  if s0 = 0 ∧ s1 = 0 ∧ s2 = 0 ∧ s3 = 0 then .clean w.data
  else if s0 ≠ 0 ∧ s1 ≠ 0 ∧ gfMul s2 s0 = gfMul s1 s1 ∧ gfMul s3 s0 = gfMul s2 s1 then
    match gfLog s0 s1 with
    | some p =>
      let i := 35 - p
      let fixed := ((w.data ++ w.chk).modify i (· ^^^ BitVec.ofNat 8 s0))
      .corrected { data := fixed.take 32, chk := fixed.drop 32 } p
    | none => .uncorr
  else .uncorr

/-- A word as its writer forms it (R408). -/
def pipEncode (data : Bytes) : WireWord :=
  let d := slice data 0 32
  { data := d, chk := pipCheck d }

/-- The data of a word that passed its check, a corrected one included; none where it is uncorrectable. -/
def pipData (w : WireWord) : Option Bytes :=
  match pipDecode w with
  | .clean d => some d
  | .corrected w' _ => some w'.data
  | .uncorr => none

end Sys2Proof.Machine
end

