-- ==== Sys2Proof/Machine/State.lean ====
section
/-!
DEFINITION. Machine/State.lean: everything the block remembers. A visible register field has its home in `regs`; what
the spec gives the machine beside the registers stands in one record per block. Plain data.
-/
namespace Sys2Proof.Machine

/-- The spec names no fault that stops the block: every error is a flag, a counter, a response or a reset, all of
them next states. No constructor, so `fault` is never an outcome. Safe. -/
inductive Fault where
  deriving DecidableEq, Repr

/-- Why a command is turned away without a next state. -/
inductive Refusal where
  /-- Raised by an arm of `exec` whose meaning is not written. Safe: no statement rests on it. -/
  | notModelled (mnemonic : String)
  deriving DecidableEq, Repr

/-! ### Registers wider than 32 bits (R62, R107) -/

/-- One requester's latched words and held writes of one wide register, by word index. -/
structure WideSlot where
  who     : Requester
  base    : Nat
  latched : List (Nat × Nat)
  held    : List (Nat × Nat)
  deriving DecidableEq, Repr

/-! ### Power, reset and start (chapters 20, 21) -/

/-- Where the start sequence stands (R435). -/
inductive StartPhase where
  | idle        -- not begun since reset release
  | waitRefclk  -- step 5
  | waitLanes   -- step 7
  | contend     -- step 8
  | running     -- a role was taken
  | bulb        -- Bulb mode (R442)
  deriving DecidableEq, Repr

/-- One copy of a double-buffered record of the Selectors area that passes its Pip check: sequence number and value
(R322, R438); an absent or torn copy is none. -/
structure SelCopy where
  seq   : Nat
  value : Nat
  deriving DecidableEq, Repr

/-- One copy of the start record (R438). -/
structure StartRec where
  seq     : Nat
  failCnt : Nat
  reason  : Nat
  slot    : Nat
  deriving DecidableEq, Repr

structure PwrState where
  /-- The source (RESET_SRC of R433) that holds the module in reset; none when it runs. -/
  held     : Option Nat
  /-- Source of the last reset, loaded into MBX_START at the next start. -/
  src      : Nat
  /-- The reset of source 3 is the TEMP check's (R430), not the SUPPLY check's. -/
  thermal  : Bool
  /-- Tick of a TOKEN release whose restart of R274 is still to come. -/
  restart  : Option Nat
  /-- RESET_N is low. -/
  pinLow   : Bool
  /-- The hot condition of R430, set at 115 °C and cleared below 110 °C. -/
  hot      : Bool
  deriving DecidableEq, Repr

structure StartState where
  phase    : StartPhase
  role     : Role
  /-- Role setting of the active set: 0 MONITOR, 1 COORDINATOR, 2 DOMINO, and its half index (R324). -/
  setting  : Nat
  half     : Nat
  /-- The retained start-failure register (R437); none when nothing waits. -/
  failReg  : Option Nat
  recX     : Option StartRec
  recY     : Option StartRec
  /-- Firmware-slot selector copies (R435 step 2). -/
  fwX      : Option SelCopy
  fwY      : Option SelCopy
  /-- Firmware slot 0 still holds the image the module was shipped with (R489). -/
  ship0    : Bool
  /-- The entry of a brown-out to be written at the next start (R424). -/
  deferred : Option LogEntry
  /-- The 16 samples of PAIR_POS taken in step 7, true for high (R462). -/
  straps   : List Bool
  /-- Ticks at which reset was released (R436) and at which the step that waits began (R435). -/
  relTick  : Nat
  stepTick : Nat
  deriving DecidableEq, Repr

/-! ### Fault log and counters (chapter 22) -/

/-- An entry in the staging ring, the tick of its first occurrence and whether its merge window has closed (R453). -/
structure Staged where
  e      : LogEntry
  tick   : Nat
  closed : Bool
  deriving DecidableEq, Repr

structure LogState where
  /-- Oldest first. -/
  staged    : List Staged
  /-- The ticks at which the last hour's entries were programmed (R454). -/
  hour      : List Nat
  deriving DecidableEq, Repr

structure PmcState where
  seq      : Nat
  lastSnap : Option Nat
  /-- Sampling interrupts raised (R448): processor 0–7 helm cores, 8 management. -/
  irq      : List Nat
  /-- The tick, plus 1, of the last increment or write; the counters and PMC_OVF as that tick found them; in it, the
  counters that counted a level (R445) and those that were written (R447), by bits. -/
  tick     : Nat
  cnt0     : List Nat
  ovf0     : Nat
  lvl      : Nat
  wrote    : Nat
  deriving DecidableEq, Repr

/-! ### Plant time (chapter 10) -/

/-- A pending step of R229: Δ in ns and the boundary T_B in ns of epoch:NS32. -/
structure PtuStep where
  delta : Int
  tb    : Nat
  deriving DecidableEq, Repr

structure PtuState where
  /-- The 24 fraction bits of the accumulator (R218). -/
  frac     : Nat
  /-- 16 further fraction bits of the increment, and the running remainder of their dither (R218). -/
  incrFine : Nat
  dith     : Nat
  /-- i, f, f_h and i_s of R222, R227, R229 in ppb. -/
  i        : Rat
  f        : Rat
  fh       : Rat
  is       : Rat
  /-- Instant of the last accepted offset in ns of fabric time (R223), and the tick from which the want of offsets from the
  source is counted (R227). -/
  lastOff  : Option Int
  offTick  : Nat
  /-- Delays of the last 64 exchanges on each port, newest first: port and quarter ns (R224). -/
  delays   : List (Nat × Int)
  /-- The exchange in progress: its port, and t1 in quarter ns of NS32 (R224). -/
  t1       : Option (Nat × Nat)
  step     : Option PtuStep
  /-- The unit was in holdover when STEP_PEND was entered (R227). -/
  wasHold  : Bool
  /-- Offsets within 20 ns in a row in SLEW (R227). -/
  slewOk   : Nat
  /-- The epoch is to be taken from the first valid answer after FREE (R225). -/
  needEpoch : Bool
  /-- The six transmit timestamp queues, head first: stamp and identifier (R232). -/
  tsq      : List (List (Nat × Nat))
  /-- Tick at which PPS_OUT last rose; none while it is not driven (R230). -/
  ppsOut   : Option Nat
  /-- The internal oscillator runs and sync responses are marked invalid (R220). -/
  intOsc   : Bool
  /-- Receive stamp of the last IEEE 1588 event message on the host Ethernet port (R233). -/
  ethStamp : Option Nat
  deriving DecidableEq, Repr

/-! ### Pair and Domino (chapter 12) -/

structure PrdState where
  /-- The TOKEN source is switched on (R272). -/
  srcOn     : Bool
  /-- Tick of the last change of the driver count, and of the last assertion (R274, R275). -/
  cntTick   : Nat
  asrtTick  : Nat
  /-- Tick since which a holder has read another count than N_EXP, and since which the partner's blocks show HOLD = 1
  (R274, R277). -/
  wrongTick : Nat
  holdTick  : Nat
  /-- Watchdog sources that have kicked since the last restart of the count, the tick of that restart, and the tick of
  each source's last kick (R280, R282). -/
  kicked    : Nat
  wdtTick   : Nat
  lastKick  : List Nat
  /-- Last status blocks received on the two lanes (R285). -/
  partML    : Option StatusBlock
  partDL    : Option StatusBlock
  /-- The mirror lane is trained (R271); the Domino lane is in PRD_STATUS.DL_UP. -/
  mlUp      : Bool
  /-- Last status blocks sent. -/
  sentML    : Option StatusBlock
  sentDL    : Option StatusBlock
  /-- Tick of this half's confirmation, and whether the other half has shown HOLD = 1 since (R296). -/
  confTick  : Nat
  dlHeld    : Bool
  /-- The heartbeat count, and the tick of the last change of the partner's (R283). -/
  hb        : Nat
  hbTick    : Nat
  /-- Field and safety output refresh runs (R274, R278). -/
  outDrive  : Bool
  deriving DecidableEq, Repr

/-- One captured word of a mirrored region (R287): its region, its offset in the region in 32-byte words, its data. -/
structure CapWord where
  region : Nat
  offset : Nat
  data   : Bytes
  deriving DecidableEq, Repr

structure MirState where
  /-- The transmit queue, oldest first: one frame of R286 for each captured word, COMMIT frames and the others between
  them. Words beyond 64 KiB are those of writers held by handshake (R287). -/
  queue     : List MirFrame
  /-- The open delta: its sequence and the words it holds (R290). -/
  dseq      : Nat
  count     : Nat
  /-- The open delta outgrew its limit and goes without a COMMIT (R290). -/
  ovf       : Bool
  /-- The bulk pass in progress: region and offset of the next word to send; none when no pass runs (R292). -/
  bulk      : Option (Nat × Nat)
  /-- Standby: journal of the open delta, oldest first; words for the inactive command-page bank, whose other words
  equal the active bank's (R291). -/
  journal   : List CapWord
  page      : List CapWord
  /-- Standby: words received for the open delta, and whether one of them failed its Pip check. -/
  recvd     : Nat
  bad       : Bool
  lastDseq  : Option Nat
  /-- Standby: words of LOAD frames held aside until the next COMMIT, with their slots (R289). -/
  loadHeld  : List CapWord
  /-- Standby: next word of the bulk pass that is expected, and whether the pass was received whole (R292). -/
  pass      : Option (Nat × Nat)
  passDone  : Bool
  /-- A SYNC_REQ waits for IDENT to be equal (R292). -/
  wantSync  : Bool
  /-- Last IDENT received on each lane: active CRC and CRC of the checked shadow (R333). -/
  ident     : Option (Nat × Nat)
  identDL   : Option (Nat × Nat)
  /-- Last frame sent on the mirror lane. -/
  sent      : Option MirFrame
  /-- Messages that wait for the Domino lane's transmitter, oldest first, and the last one sent. -/
  dlOut     : List DominoMsg
  dlSent    : Option DominoMsg
  /-- Slots whose LOAD words have all arrived and wait for the COMMIT (R289). -/
  loadDone  : List Nat
  /-- Solver slots whose LOAD waits for LOAD_CONFIRM (R289). -/
  loadWait  : List Nat
  /-- Learned records committed within the open delta, by index (R102, R288), and the image that the last COMMIT carried. -/
  recs      : List (Nat × Bytes)
  image     : Option MirImage
  /-- The Flip order written to a journal region since the last COMMIT, or its cancel (R333). -/
  flip      : Option (Option FlipOrder)
  deriving DecidableEq, Repr

/-! ### Mailboxes (chapter 13) and configuration sets (chapter 14) -/

/-- Where a command comes from (R309). -/
inductive Source where
  | host | internal | fabric (node dom : Nat) | eth (addr : Nat) (port : Nat)
  deriving DecidableEq, Repr

structure Mailbox where
  /-- 0 IDLE, 1 BUSY, 2 DONE. -/
  st   : Nat
  cmd  : Bytes
  /-- Bytes the transport delivered (R307). -/
  len  : Nat
  resp : Bytes
  src  : Source
  seq  : Nat
  /-- CTR of the datagram that brought the command (R315). -/
  ctr  : Nat
  /-- Last command executed: source, SEQ and full response (R309). -/
  last : Option (Source × Nat × Bytes)
  deriving DecidableEq, Repr

/-- The response sent last, whatever its path (R303, R312, R314); on the Ethernet path the whole datagram. -/
structure SentResp where
  dst  : Source
  mb   : Nat
  resp : Bytes
  deriving DecidableEq, Repr

/-- Where a scrubber stands (R413): words of the memory read in this pass, and the tick from which its next pass may begin. -/
structure ScrubPos where
  next : Nat
  due  : Nat
  deriving DecidableEq, Repr

structure MbxState where
  boxes    : List Mailbox
  /-- Mailboxes with accepted commands, in order of acceptance (R310). -/
  order    : List Nat
  /-- The long command in the background: its mailbox, the status and the data of its response (R310). -/
  long     : Option (Nat × Nat × Bytes)
  /-- CTR of the last request accepted on the Ethernet path (R315). -/
  ethCtr   : Nat
  devKey   : Option Bytes
  hostKey  : Option Bytes
  sent     : Option SentResp
  /-- The scrubbers of SRAM, DRAM and flash (R413). -/
  scrubs   : List ScrubPos
  deriving DecidableEq, Repr

/-- The shadow's state (R329). -/
inductive ShadowState where
  | writing (next : Nat)
  | checked
  | pending (o : FlipOrder)
  deriving DecidableEq, Repr

structure CfgState where
  selX   : Option SelCopy
  selY   : Option SelCopy
  /-- The active slot: 0 SET_X, 1 SET_Y (R322). -/
  active : Nat
  /-- SET_X still holds the factory set (R489). -/
  shipX  : Bool
  /-- The sections of the active set as applied at start or by a Flip, by TYPE (R324). -/
  secs   : List (Nat × Bytes)
  shadow : ShadowState
  /-- The active set carries CRT_CTRL.RUN = 1: the runtime runs once the start has succeeded (R326, R435). -/
  runCrt : Bool
  /-- Next byte offset of an FW_WRITE to slot 0, slot 1 and the key table (R440). -/
  fwNext : List Nat
  ktBuf  : Bytes
  deriving DecidableEq, Repr

/-! ### Cell front end (chapter 2) -/

/-- The front end, powered from its stack (R49). -/
structure CfeFe where
  /-- 0 POR, 1 LINK_DOWN, 2 ACTIVE, 3 SNOWDROP, 4 HIBERNATE. -/
  st      : Nat
  /-- CMD_CNT of the last accepted frame. -/
  cnt     : Nat
  /-- Conducting switches, and those that an over-current keeps open until their request is rewritten (R52 to R54). -/
  sw      : Nat
  ovr    : Nat
  /-- Reports for the next uplink frame: discards, a synchronising frame discarded, adjacent bits, a reset. -/
  rejects : Nat
  syncRej : Bool
  adjRej  : Bool
  por     : Bool
  /-- WAKE, its latched sources and the first breaching channel, and whether they are to be passed on (R59). -/
  wake    : Bool
  wakeSrc : Nat
  firstCh : Option Nat
  pass    : Bool
  ov      : Nat
  uv      : Nat
  ot      : Nat
  dieHot  : Bool
  /-- Snowdrop checks since the last WAKE_EVERY (R59). -/
  checks  : Nat
  seq     : Nat
  auxIdx  : Nat
  rd      : Option Nat
  /-- Working copies of CFE_CELL_LIM, CFE_NTC_LIM and CFE_SNOW_CFG (R48). -/
  lim     : Nat
  ntc     : Nat
  snow    : Nat
  deriving DecidableEq, Repr

/-- A held operation under way: write or read, word index, data, and the counter of the frame that carried it, none
while it waits to be sent (R48, R364). -/
structure HeldOp where
  write : Bool
  idx   : Nat
  data  : Nat
  cnt   : Option Nat
  deriving DecidableEq, Repr

structure CfeState where
  fe        : CfeFe
  /-- CMD_CNT of the last frame sent, and of the frames sent before, newest first, with the instants in ns at which they
  ended (R45). -/
  cnt       : Nat
  ends      : List (Nat × Int)
  syncing   : Bool
  mism      : Nat
  op        : Option HeldOp
  queue     : List (Nat × Nat)
  /-- Rewrites after synchronisation still unconfirmed: zero masks until then (R48). -/
  rewriting : Nat
  /-- The next front-end copy to be compared: 0x0A, 0x0B or 0x0C. -/
  scan      : Nat
  /-- The phase in progress is odd (R51). -/
  odd       : Bool
  /-- The measurement pause that is open: its sweep and D of that sweep's response in ns; and whether it only fills the gap
  to the next pause (R55, R56). -/
  pause     : Option (Nat × Nat)
  gap       : Bool
  /-- Sweeps produced since ENABLE was last set to 1, and the paused sweeps not yet published (R55). -/
  prod      : Nat
  paused    : List Nat
  /-- A state opcode to be sent: 0x10 or 0x11 (R63). -/
  stateOp   : Option Nat
  down      : Option CfeDown
  up        : Option CfeUp
  deriving DecidableEq, Repr

/-! ### Sample chain (chapter 3) -/

/-- A cascade of integrators and combs, one of each a stage (R64, R75). -/
structure Cic where
  integ : List Nat
  comb  : List Nat
  deriving DecidableEq, Repr

/-- One sample of all 49 channels, as the filter's whole numbers, with its instant in ns of epoch:NS32. -/
structure SchSample where
  t : Rat
  x : List Nat
  deriving DecidableEq, Repr

/-- What a valid uplink frame left: the instant of its last modulator clock, its closed switches, its thermistor input and
code. -/
structure SchMark where
  t    : Rat
  act  : Nat
  idx  : Nat
  code : Nat
  deriving DecidableEq, Repr

/-- A sweep whose instant has come: k, its instant in ns, the response in force for it. -/
structure SchDue where
  k    : Nat
  inst : Nat
  resp : Nat
  deriving DecidableEq, Repr

structure SchState where
  /-- Sweeps that wait for their publish instants (R70); k and instant of the newest sweep produced (R71); k of the last one
  published. -/
  flight   : List SchDue
  newest   : Option (Nat × Nat)
  last     : Option Nat
  /-- A pending response index and the instant from which sweeps take it (R68). -/
  pend     : Option (Nat × Nat)
  /-- The rate tracker (R72): instant of the last clock of the last valid frame, clock period in ns, FRAME_SEQ of that frame,
  frames in a row with a residual below 100 ns, and above 200 ns. -/
  phase    : Option Rat
  period   : Rat
  seq      : Nat
  good     : Nat
  bad      : Nat
  /-- The next valid frame restarts the bitstreams (R75). -/
  fresh    : Bool
  /-- By channel, the fourth-order decimator and the third-order fast filter; clocks since the last restart. -/
  cics     : List Cic
  fasts    : List Cic
  clk      : Nat
  /-- The last 2,048 fine samples (R66), and the fast values and frames of at least the last 160 ms, newest first. -/
  fine     : List SchSample
  quick    : List SchSample
  marks    : List SchMark
  /-- Spans over which modulator bits were received without a break, newest first; outages of R47, from the first missing
  frame until the link's return. -/
  runs     : List (Rat × Rat)
  outages  : List (Rat × Option Rat)
  /-- The 65 records of the last sweep, as numbers of 64 bits (R76). -/
  records  : List Nat
  /-- Those of the sweep before it (R94). -/
  prevRecs : List Nat
  deriving DecidableEq, Repr

/-! ### Cell state engine (chapter 4) -/

/-- A capacity anchor (R93): SOC and U in %, the charge and the throughput counted by then in Ah, the instant in ns. -/
structure CseAnchor where
  soc : Rat
  u   : Rat
  q   : Rat
  qt  : Rat
  t   : Nat
  deriving DecidableEq, Repr

/-- One cell: SOC and U in %, capacity in Ah, its relative uncertainty, R0_25 in ohm, tau in s, v1 in V, the charge and
the throughput counted in Ah. -/
structure CseCell where
  soc     : Rat
  u       : Rat
  cap     : Rat
  uc      : Rat
  r0      : Rat
  tau     : Rat
  v1      : Rat
  q       : Rat
  qt      : Rat
  anchors : List CseAnchor
  eoc     : Bool
  eod     : Bool
  /-- Seconds for which the compensated voltage has been beyond EOC_V and EOD_V without a break (R91). -/
  eocT    : Option Rat
  eodT    : Option Rat
  starved : Bool
  /-- Flags of the last update: SOC_JUMP, TEMP_SUB, COMP_CAP, BAD (R82). -/
  jump    : Bool
  tempSub : Bool
  compCap : Bool
  bad     : Bool
  /-- Capacity, R0_25 and tau at the last confirmed commit (R95). -/
  refCap  : Rat
  refR0   : Rat
  refTau  : Rat
  deriving DecidableEq, Repr

/-- One update inside a low-current window: seconds since its start and v' of each cell, none for a BAD one (R88). -/
structure RlxSample where
  t  : Rat
  vs : List (Option Rat)
  deriving DecidableEq, Repr

structure CseState where
  cells   : List CseCell
  /-- Instant of the last update in ns of fabric time. -/
  lastT   : Option Nat
  /-- Seconds of unbroken rest, none after an update above REST_I, and full rests evaluated in it (R87). -/
  restT   : Option Rat
  fulls   : Nat
  /-- The relaxation window in progress, newest sample first (R88). -/
  win     : Option (List RlxSample)
  /-- Since the last update (R83): charge of the shunt in V·ns, ns for which each switch was closed, ns of gaps; the instant
  up to which the shunt has been observed or its gap counted, and ns of the gap in progress already counted. -/
  charge  : Rat
  balNs   : List Rat
  gapNs   : Rat
  seen    : Option Rat
  gapRun  : Rat
  /-- Sweeps published since the last update (R82). -/
  since   : Nat
  /-- An update above REST_I has come since RUN (R88); seconds of unbroken current within HIB_I (R96). -/
  high    : Bool
  hibT    : Option Rat
  /-- Instant of hibernation (R96); the first update after a wake is still to come (R97). -/
  hibAt   : Option Nat
  woken   : Bool
  /-- The cell-state payload of the last update, by its sweep (R82). -/
  payload : Option (Nat × Bytes)
  /-- The answer to the last replacement challenge (R104). -/
  answer  : Option Bytes
  deriving DecidableEq, Repr

/-! ### GNSS baseband (chapter 5) -/

/-- One channel beside its registers (R111 to R118). -/
structure GnbChan where
  /-- The Doppler hint in 2 Hz. -/
  hint     : Int
  /-- Carrier loop: Doppler in Hz, phase in cycles, what else it keeps, the prompt sums it took last. -/
  dopp     : Rat
  phase    : Rat
  mem      : Rat
  last     : Option (Int × Int)
  /-- Code loop: phase in chips, its rate beside the carrier's aid in chips/s, what else it keeps. -/
  code     : Rat
  rate     : Rat
  dmem     : Rat
  /-- Accumulated carrier phase in cycles. -/
  adr      : Rat
  /-- Sums of early, prompt, late and the eight extra correlators over the present code period and the present integration;
  code periods ended in it, from BIT_SYNC on since the last bit edge. -/
  sums     : List (Int × Int)
  long     : List (Int × Int)
  nms      : Nat
  /-- Transmit time known; ms of the GPS week at which the present code period was sent. -/
  txOk     : Bool
  weekMs   : Nat
  /-- HALF_CYC; a slip since the previous epoch; ticks at which PULL_IN or the last slip came, and the last slip. -/
  half     : Bool
  slip     : Bool
  lockTick : Nat
  slipTick : Option Nat
  /-- C/N0 of the last second (tick, 0.01 dB-Hz), newest first. -/
  cn0      : List (Nat × Nat)
  /-- Bits demodulated in BIT_SYNC, the newest lowest, at most 640, and their number; D29* and D30* of the previous word, the
  stream's polarity and the index of the next word; subframes in a row whose TLM failed parity. -/
  bits     : Nat
  nbits    : Nat
  d29      : Bool
  d30      : Bool
  inv      : Bool
  wordIdx  : Nat
  tlmBad   : Nat
  /-- A firmware error is awaited (R113). -/
  waiting  : Bool
  deriving DecidableEq, Repr

/-- A record of the epoch latched last (R119, R121): transmit time in ns of the GPS week, ADR in 2^−24 cycle, Doppler in
2^−16 Hz, and the other fields of the record as they stood at M. -/
structure GnbRec where
  ch    : Nat
  prn   : Nat
  slips : Nat
  ttx   : Rat
  adr   : Int
  dopp  : Int
  cn0   : Nat
  lock  : Nat
  state : Nat
  half  : Bool
  slip  : Bool
  adrOk : Bool
  high  : Bool
  susp  : Bool
  excl  : Bool
  mism  : Bool
  deriving DecidableEq, Repr

/-- An epoch: M in ns of epoch:NS32, its sweep ID, its records, INTEG, the spread check's finding, the offset of GPS time from
fabric time in ns that firmware solved, whether that offset was allowed and delivered, whether the epoch has been published. -/
structure GnbEpoch where
  m      : Nat
  sweep  : Nat
  recs   : List GnbRec
  integ  : Nat
  uni    : Bool
  off    : Option Rat
  given  : Bool
  pub    : Bool
  deriving DecidableEq, Repr

/-- Partner data (R126): sweep ID, time offset in ns, pseudoranges by PRN in UQ32.32 m. -/
structure GnbPartner where
  sweep : Nat
  off   : Rat
  prs   : List (Nat × Nat)
  deriving DecidableEq, Repr

structure GnbState where
  chans   : List GnbChan
  epoch   : Option GnbEpoch
  /-- Offsets of the last epochs, newest first: instant in ns and offset in ns, at most 11 (R125). -/
  hist    : List (Rat × Rat)
  /-- A jump awaiting confirmation: its drift in ns per ns and the epochs that have confirmed it. -/
  jump    : Option (Rat × Nat)
  partner : Option GnbPartner
  /-- Epochs without matching partner data (R126). -/
  missed  : Nat
  /-- The rate tracker of GNSS_CLK (R109): instant of the last stamped sample, sample period in ns. -/
  clkAt   : Option Rat
  clkPer  : Rat
  /-- The channel that the search engine serves (R115). -/
  srch    : Option Nat
  /-- The sweep of the next epoch (R119); none while RUN = 0. -/
  nextK   : Option Nat
  deriving DecidableEq, Repr

/-! ### Solver (chapter 7) -/

/-- A request taken from the ring (R162), with its place in the order of submission and whether it is released. -/
structure SlvReq where
  num      : Nat
  op       : Nat
  slot     : Nat
  wsSlot   : Nat
  wsEn     : Bool
  prio     : Nat
  tag      : Nat
  release  : Nat
  released : Bool
  deadline : Nat
  inAddr   : Nat
  inCount  : Nat
  outAddr  : Nat
  resAddr  : Nat
  damp     : Nat
  deriving DecidableEq, Repr

/-- A solve under way: in setup with its staging copy (R161), or in an iteration (0 in classes 0 to 4); what its result has
gathered; what its numbers depend on; in class 5 the present iterate, μ₀, the primal residuals of the last iterates, newest first
(R165), the last iteration's duration in ns, and whether the next iteration still waits to start (R166). Numbers are binary64
patterns. -/
structure SlvRun where
  req     : SlvReq
  staging : Option (List (Nat × Nat))
  iter    : Nat
  cold    : Bool
  mism    : Bool
  reg     : Bool
  preempt : Bool
  guard   : Bool
  shifts  : Nat
  pivot   : Nat
  delta   : Nat
  key     : List Nat
  pt      : List Nat
  mu0     : Nat
  resPs   : List Nat
  dur     : Nat
  wait    : Bool
  deriving DecidableEq, Repr

structure SlvState where
  slots  : List SlvSlot
  /-- Outstanding requests that have not started, in order of submission. -/
  queue  : List SlvReq
  run    : Option SlvRun
  /-- Preempted solves (R162). -/
  paused : List SlvRun
  /-- LOADs that wait for the partner's confirmation (R172). -/
  loads  : List SlvReq
  num    : Nat
  deriving DecidableEq, Repr

/-! ### Zynum fabric (chapter 11) -/

/-- One fabric port: its egress queue, oldest first, and the frame in transmission (R243). -/
structure ZPort where
  q  : List ZFrame
  tx : Option ZFrame
  deriving DecidableEq, Repr

/-- Where a run stands: probing, waiting for acknowledgements, or waiting for the activation instant. -/
inductive RollPhase where
  | probing | tables | flooding
  deriving DecidableEq, Repr

/-- The node being authenticated: its PRESENT, the ID offered to it and the challenge sent to it (R250). -/
structure RollAuth where
  pres  : Present
  offer : Nat
  cC    : Bytes
  deriving DecidableEq, Repr

/-- A Roll call run on the coordinator. -/
structure RollRun where
  gen    : Nat
  phase  : RollPhase
  nodes  : List RollNode
  links  : List RollLink
  /-- Ports of the present level still to be probed: place in `nodes`, and port. -/
  todo   : List (Nat × Nat)
  level  : Nat
  /-- PROBEs without an answer and failures of R250 on the present port. -/
  tries  : Nat
  fails  : Nat
  auth   : Option RollAuth
  /-- Messages not yet acknowledged: node ID and type. -/
  wait   : List (Nat × Nat)
  deriving DecidableEq, Repr

/-- A node's pending state of a run (R252): whether the coordinator's proof has passed; entries by their index of R269. -/
structure RollPend where
  gen    : Nat
  coord  : BitVec 64
  cN     : Bytes
  proven : Bool
  id     : Option Nat
  dom    : Nat
  up     : Nat
  table  : List (Nat × Nat)
  route  : Nat
  rate   : List (Nat × Nat)
  act    : Option Nat
  deriving DecidableEq, Repr

structure ZfbState where
  ports   : List ZPort
  /-- SEQ of the next frame of each class. -/
  seq     : List Nat
  /-- (SRC, SEQ) of the last 32 broadcasts seen (R255). -/
  bcast   : List (Nat × Nat)
  /-- The last 16 sweep frames this node originated, newest first, by SWEEP_ID (R259). -/
  sweeps  : List (Nat × ZFrame)
  /-- Sweep frames received, SRC and SWEEP_ID, newest first (R259). -/
  got     : List (Nat × Nat)
  /-- Last CMD_SEQ applied from each SRC (R263). -/
  cmdSeq  : List (Nat × Nat)
  /-- Items accepted and held until EFFECT, and items handed over at EFFECT and not yet taken, with their SRC (R263). -/
  held    : List (Nat × CmdItem)
  handed  : List (Nat × CmdItem)
  /-- CMD_SEQ of the next item this node sends (R262). -/
  txCmd   : Nat
  /-- Items that came after EFFECT, and items discarded (R263). -/
  lateCmd : Nat
  discCmd : Nat
  /-- Pending state of a run of the node's own domain, and the challenge of another domain's coordinator across a boundary link. -/
  pend    : Option RollPend
  foreign : Option RollPend
  run     : Option RollRun
  /-- An ABORTED run is to be followed by a fresh one: the tick at which a port last changed (R253). -/
  again   : Option Nat
  /-- GEN of the last run started (R252). -/
  gen     : Nat
  /-- The map of the last OK run (R253). -/
  map     : List RollNode
  links   : List RollLink
  /-- Sweeps under recall: the recalls issued for each and the instant of the last (R261). -/
  recalls  : List (Nat × (Nat × Nat))
  /-- A link that came up between Roll calls, node and port, and the authentication through it (R254). -/
  rejoin  : Option (Nat × Nat)
  rejAuth : Option RollAuth
  rejTries : Nat
  /-- Segment SLOTs marked REPLACED, those in SEG_DOUBT, the challenge drawn for each (R100, R104), and those whose challenge
  has passed (R105). -/
  replaced : List Nat
  doubt    : List Nat
  chal     : List (Nat × Bytes)
  passed   : List Nat
  /-- SLOTs whose UNRESTORED module has been sent its restore (R99); the answer to a challenge judged last: SLOT and status. -/
  restored : List Nat
  verdict  : Option (Nat × Nat)
  /-- Arrival side of the reversal notice that made this node its terminal node (R256). -/
  term    : Option Nat
  /-- The frame last delivered to this node and its arrival port, until its class's command takes it. -/
  deliv   : Option (Nat × ZFrame)
  /-- SPAN, helm domain and boundary list of the active set (R325): local UID, port, foreign domain, foreign UID. -/
  span    : Nat
  helmEn  : Bool
  helmDom : Nat
  bnd     : List (Nat × Nat × Nat × Nat)
  deriving DecidableEq, Repr

/-! ### Cyclic runtime (chapter 15) -/

/-- A station as its master holds it (R348, R349): its input values; CYCLE of its last frame; values to be sent; the instant
at which it became LOST; REJOIN is to be sent. -/
structure CrtStn where
  vals   : List Nat
  seen   : Option Nat
  outs   : List Nat
  lostAt : Option Nat
  rejoin : Bool
  deriving DecidableEq, Repr

/-- A SIGNAL_WRITE accepted and not yet taken (R338). -/
structure CrtWrite where
  id     : Nat
  effect : Nat
  seq    : Nat
  value  : Nat
  deriving DecidableEq, Repr

/-- An output frame that a station holds for its apply instant: REJOIN, NS32 of the instant, values (R348). -/
structure CrtHeld where
  at32   : Nat
  rejoin : Bool
  vals   : List Nat
  deriving DecidableEq, Repr

structure CrtState where
  tasks  : List CrtTask
  stns   : List CrtStn
  /-- Signals that differ from their initial value and GOOD, by ID: value and quality. -/
  vals   : List (Nat × (Nat × Nat))
  /-- The force list, by ID (R344). -/
  forces : List (Nat × Nat)
  writes : List CrtWrite
  /-- Event tasks whose source has occurred, oldest first (R340). -/
  evts   : List Nat
  /-- Last power set-point of each string record (R263). -/
  power  : List (Nat × Nat)
  /-- Overruns since start (R347). -/
  ovrs   : Nat
  /-- As a station: the frame held, apply instants without one, WDT_FIRED (R348). -/
  held   : Option CrtHeld
  miss   : Nat
  wdt    : Bool
  deriving DecidableEq, Repr

/-! ### Field inputs and outputs (chapter 16) -/

/-- The field side, powered from FS_24V (R351 to R362). -/
structure FieldSide where
  /-- 0 POR, 1 LINK_DOWN, 2 ACTIVE. -/
  st      : Nat
  seq     : Nat
  /-- Output image of the last accepted command frame, and the applied states (R355). -/
  out     : Nat
  act     : Nat
  /-- Debounced inputs, and the read-back at the last accepted frame. -/
  inp     : Nat
  rb      : Nat
  ovl     : Nat
  openW   : Nat
  ot      : Nat
  disc    : Nat
  /-- Latched channels that have been commanded off since (R355). -/
  offSeen : Nat
  fsOk    : Bool
  por     : Bool
  discN   : Nat
  syncIn  : Bool
  /-- Changes of the debounced inputs since the last answered frame: count and tick of the last (R353, R360). -/
  nchg    : List Nat
  chgTick : List Nat
  /-- Ticks of the last accepted frame (R362) and of the last change of each output's applied state (R356). -/
  accTick : Nat
  actTick : List Nat
  /-- Field-held registers that differ from their reset value, by word index (R364). -/
  held    : List (Nat × Nat)
  rd      : Nat
  /-- The answer to the last accepted frame, waiting to be sent (R360). -/
  answer  : Option FioUp
  deriving DecidableEq, Repr

structure FioState where
  field   : FieldSide
  /-- NS32 instant at which the last frame was sent; tick of the last uplink frame with a correct CRC (R363). -/
  sentAt  : Nat
  upTick  : Nat
  /-- SEQ of the last frame sent, and whether synchronising frames are being sent (R361). -/
  seq     : Nat
  syncing : Bool
  mism    : Nat
  /-- The last frame sent has been answered with a correct CRC (R361). -/
  answered : Bool
  op      : Option HeldOp
  /-- Writes waiting to be carried, oldest first. -/
  queue   : List (Nat × Nat)
  /-- Rewrites after synchronisation still unconfirmed: all-zero output masks until then (R48, R363). -/
  rewriting : Nat
  /-- Place of the next field-side copy to be compared (R48). -/
  scan    : Nat
  /-- Output channels bound in the active set, and the runtime's values for them (R352). -/
  bound   : Nat
  rtOut   : Nat
  down    : Option FioDown
  up      : Option FioUp
  deriving DecidableEq, Repr

/-! ### CAN FD (chapter 17) -/

/-- A record in arbitration with the contents it held when it entered (R371). -/
structure CanArb where
  msg  : Nat
  dlc  : Nat
  data : Bytes
  deriving DecidableEq, Repr

structure CanCtl where
  /-- Slot occurrences in progress (R373). -/
  occ    : List CanOcc
  /-- Slots with the instant of their last occurrence taken. -/
  slotAt : List (Nat × Nat)
  /-- Records with the instant, epoch:NS32, of the last frame received into them (R371). -/
  rxAt   : List (Nat × Nat)
  arb    : List CanArb
  /-- Records to be sent ahead in schedule order after a takeover (R375). -/
  ahead  : List Nat
  /-- Bit-timing words written while a frame was in progress: register offset and value (R368). -/
  timing : List (Nat × Nat)
  deriving DecidableEq, Repr

structure CanState where
  ctl    : List CanCtl
  /-- By controller, the slot table of a CAN section applied by a Flip and its instant F, until the first basic cycle that
  starts at or after F (R379). -/
  newTab : List (Option (Bytes × Nat))
  deriving DecidableEq, Repr

/-! ### Safety functions (chapter 18) -/

/-- A telegram source at a lane (R388); source 12 is the partner's vote (R398). -/
structure SafSrc where
  valid : Bool
  /-- Last accepted SEQ; none before the first accepted telegram. -/
  seq   : Option Nat
  v0    : Int
  v1    : Int
  /-- Tick of the last accepted telegram, or of the lane's start. -/
  t     : Nat
  deriving DecidableEq, Repr

/-- An input pair at a lane (R386): state, marked as fully opened, and in FAULT how far it has come back: 1 both
channels not OK, 2 then both OK; the tick at which its discrepancy timer started. -/
structure SafIn where
  st   : Nat
  full : Bool
  back : Nat
  t    : Nat
  deriving DecidableEq, Repr

/-- A function at a lane (R389, R390): state, consecutive failed tests, and the tick since which its sources have
differed by more than TOL without a break. -/
structure SafFn where
  st    : Nat
  bad   : Nat
  apart : Option Nat
  deriving DecidableEq, Repr

/-- An output pair at a lane (R392): state, the cause of its FAULT (1 a test pulse, 2 a pin), and whether an on waits for
the end of a light pulse (R395). -/
structure SafOut where
  st    : Nat
  cause : Nat
  wait  : Bool
  deriving DecidableEq, Repr

/-- One safety lane, powered from FS_24V (R381, R358). -/
structure SafLane where
  /-- Last accepted SEQ; none while any SEQ is taken. -/
  seq     : Option Nat
  /-- REQ of the last accepted frame, REQ in force, its rises, RESET and TAKE not yet evaluated. -/
  lastReq : Nat
  req     : Nat
  rise    : Nat
  resets  : Nat
  take    : Bool
  /-- Filtered input levels (terminals SI0A, SI0B, SI1A …) and the samples for which each raw level has differed. -/
  filt    : Nat
  run     : List Nat
  /-- Samples for which a pin of each output pair has differed from its commanded state. -/
  mism    : List Nat
  src     : List SafSrc
  ins     : List SafIn
  fns     : List SafFn
  outs    : List SafOut
  /-- Decision word of the last cycle, until the lanes have compared it (R382). -/
  word    : Option Nat
  /-- Flags of SAF_ERR and SAF_ALARM and the counts of SAF_CNT that the logic side has not received yet. -/
  errs    : Nat
  alarms  : Nat
  cnts    : List Nat
  /-- An accepted frame waits for its answer (R383). -/
  answer  : Bool
  /-- Tick of the last refresh (R384), and the first ticks at which the next sample and the next cycle may come (R381). -/
  refT    : Nat
  sampT   : Nat
  cycT    : Nat
  deriving DecidableEq, Repr

/-- A test pulse in progress (R393): on switch M, a light pulse, moot by R395, and the tick at which it began. -/
structure SafPulse where
  m     : Bool
  light : Bool
  moot  : Bool
  t     : Nat
  deriving DecidableEq, Repr

structure SafState where
  lanes  : List SafLane
  /-- Consecutive comparisons in which the decision words differed, and LANE_DIFF (R382). -/
  diff   : Nat
  lnDiff : Bool
  /-- Parameters in force at the lanes: a SAFETY section; none before the first (R400). -/
  par    : Option Bytes
  /-- PCRC differs: every output stays OFF until restart (R400). -/
  parBad : Bool
  /-- Test pulses: in progress, the switch whose turn is next (true M), overdue switches P and M of each pair. -/
  pulse  : List (Option SafPulse)
  turn   : List Bool
  due    : List Nat
  /-- Of the switches SO0P, SO0M, SO1P and SO1M: the first tick at which the next pulse may start (R393, R395), and the
  tick of the last completed pulse (R394). -/
  nextT  : List Nat
  doneT  : List Nat
  /-- Logic side: SEQ of the last frame, RESET bits and TAKE for the next frame, telegrams that have arrived in receive
  records with the record's index, telegrams to forward, the last frame, SEQ of the last vote, and for each lane the tick
  of its last valid uplink frame. -/
  seq    : Nat
  resets : Nat
  take   : Bool
  fresh  : List (Nat × Bytes)
  tels   : List Bytes
  sent   : Option SafDown
  vseq   : Nat
  upT    : List Nat
  deriving DecidableEq, Repr

/-! ### The whole state -/

/-- What a read delivered to its requester: the register or memory address and the value; bytes for a memory read. -/
structure ReadOut where
  who   : Requester
  addr  : Nat
  value : Nat
  deriving DecidableEq, Repr

/-- Everything the block remembers, and the queue of commands that wait, first in, first out. -/
structure State where
  /-- Register fields that differ from their reset value, by `Fld.key`, keys rising. -/
  regs    : List (Nat × Nat)
  /-- Latches and held writes of wide registers (R62, R107). -/
  wide    : List WideSlot
  /-- Data bytes of SRAM, DRAM and flash by address, and check bytes by 4 · (address / 32) + j: what differs from the
  default of `memDefault`, keys rising (R402, R408). -/
  mem     : List Host.Cell
  chk     : List Host.Cell
  /-- Ticks of the 4 ns timing clock (R445, R453). -/
  ticks   : Nat
  /-- The model's own counter of free values drawn. -/
  free    : Nat
  /-- The values that the last read of each requester delivered, newest first; the model's own record. -/
  reads   : List ReadOut
  pwr     : PwrState
  start   : StartState
  log     : LogState
  pmc     : PmcState
  ptu     : PtuState
  prd     : PrdState
  mir     : MirState
  mbx     : MbxState
  cfg     : CfgState
  cfe     : CfeState
  sch     : SchState
  cse     : CseState
  gnb     : GnbState
  fus     : FusState
  slv     : SlvState
  hlm     : HlmState
  lpe     : LpeState
  zfb     : ZfbState
  crt     : CrtState
  fio     : FioState
  can     : CanState
  saf     : SafState
  pending : List Instr
  deriving DecidableEq, Repr

def PwrState.init : PwrState :=
  { held := none, src := 0, thermal := false, restart := none, pinLow := false, hot := false }

/-- An unprovisioned module as shipped (R489) whose start sequence has not begun. -/
def StartState.init : StartState :=
  { phase := .idle, role := .monitor, setting := 0, half := 0, failReg := none,
    recX := some { seq := 0, failCnt := 0, reason := 0, slot := 0 }, recY := none,
    fwX := none, fwY := none, ship0 := true, deferred := none, straps := [], relTick := 0, stepTick := 0 }

def LogState.init : LogState := { staged := [], hour := [] }

def PmcState.init : PmcState :=
  { seq := 0, lastSnap := none, irq := [], tick := 0, cnt0 := List.replicate 32 0, ovf0 := 0, lvl := 0, wrote := 0 }

def PtuState.init : PtuState :=
  { frac := 0, incrFine := 0, dith := 0, i := 0, f := 0, fh := 0, is := 0, lastOff := none, offTick := 0, delays := [], t1 := none,
    step := none, wasHold := false, slewOk := 0, needEpoch := true, tsq := [[], [], [], [], [], []],
    ppsOut := none, intOsc := false, ethStamp := none }

def PrdState.init : PrdState :=
  { srcOn := false, cntTick := 0, asrtTick := 0, wrongTick := 0, holdTick := 0, kicked := 0, wdtTick := 0, hbTick := 0, lastKick := List.replicate 9 0, partML := none, partDL := none, mlUp := false,
    sentML := none, sentDL := none, confTick := 0, dlHeld := false, hb := 0, outDrive := false }

def MirState.init : MirState :=
  { queue := [], dseq := 0, count := 0, ovf := false, bulk := none, journal := [], page := [], recvd := 0,
    bad := false, lastDseq := none, loadHeld := [], pass := none, passDone := false, wantSync := false,
    ident := none, identDL := none, sent := none, dlOut := [], dlSent := none, loadDone := [],
    loadWait := [], recs := [], image := none, flip := none }

def Mailbox.init : Mailbox :=
  { st := 0, cmd := [], len := 0, resp := [], src := .host, seq := 0, ctr := 0, last := none }

def MbxState.init : MbxState :=
  { boxes := List.replicate 8 Mailbox.init, order := [], long := none, ethCtr := 0, devKey := none,
    hostKey := none, sent := none, scrubs := List.replicate 3 { next := 0, due := 0 } }

def CfgState.init : CfgState :=
  { selX := none, selY := none, active := 0, shipX := true, secs := [], shadow := .writing 0, runCrt := false, fwNext := [0, 0, 0], ktBuf := [] }

def CfeFe.init : CfeFe :=
  { st := 0, cnt := 0, sw := 0, ovr := 0, rejects := 0, syncRej := false, adjRej := false, por := false,
    wake := false, wakeSrc := 0, firstCh := none, pass := false, ov := 0, uv := 0, ot := 0, dieHot := false,
    checks := 0, seq := 0, auxIdx := 0, rd := none, lim := 0x00C800E1, ntc := 0xFFFF3ACC, snow := 0x0800103C }

def CfeState.init : CfeState :=
  { fe := CfeFe.init, cnt := 0, ends := [], syncing := false, mism := 0, op := none, queue := [], rewriting := 0, scan := 0x0A,
    odd := false, pause := none, gap := false, prod := 0, paused := [], stateOp := none, down := none, up := none }

def Cic.init (order : Nat) : Cic := { integ := List.replicate order 0, comb := List.replicate order 0 }

def SchState.init : SchState :=
  { flight := [], newest := none, last := none, pend := none, phase := none, period := 625 / 2, seq := 0, good := 0, bad := 0,
    fresh := true, cics := List.replicate 49 (Cic.init 4), fasts := List.replicate 49 (Cic.init 3), clk := 0, fine := [],
    quick := [], marks := [], runs := [], outages := [], records := [], prevRecs := [] }

def CseCell.init : CseCell :=
  { soc := 50, u := 50, cap := 0, uc := 0, r0 := 0, tau := 0, v1 := 0, q := 0, qt := 0, anchors := [], eoc := false,
    eod := false, eocT := none, eodT := none, starved := false, jump := false, tempSub := false, compCap := false, bad := true,
    refCap := 0, refR0 := 0, refTau := 0 }

def CseState.init : CseState :=
  { cells := List.replicate 48 CseCell.init, lastT := none, restT := none, fulls := 0, win := none, charge := 0,
    balNs := List.replicate 48 0, gapNs := 0, seen := none, gapRun := 0, since := 0, high := false, hibT := none, hibAt := none,
    woken := false, payload := none, answer := none }

def GnbChan.init : GnbChan :=
  { hint := 0, dopp := 0, phase := 0, mem := 0, last := none, code := 0, rate := 0, dmem := 0, adr := 0,
    sums := List.replicate 11 (0, 0), long := List.replicate 11 (0, 0), nms := 0, txOk := false, weekMs := 0, half := false,
    slip := false, lockTick := 0, slipTick := none, cn0 := [], bits := 0, nbits := 0, d29 := false, d30 := false, inv := false,
    wordIdx := 0, tlmBad := 0, waiting := false }

def GnbState.init : GnbState :=
  { chans := List.replicate 24 GnbChan.init, epoch := none, hist := [], jump := none, partner := none, missed := 0,
    clkAt := none, clkPer := 1000000 / 16368, srch := none, nextK := none }

def FusSlot.init : FusSlot :=
  { latest := none, val := (0, 0), ref := (0, 0), trk := none, dev := 0, within := 0, excl := false, susp := false }
def FusGroup.init : FusGroup :=
  { contra := false, noMaj := 0, coast := none, valid := false, lost := false, first := false }
def FusTrack.init : FusTrack := { t := 0, x := [], p := [], win := 0, upd := 0 }
def FusState.init : FusState :=
  { k0 := none, next := 0, en := 0, ring := [], slots := List.replicate 34 FusSlot.init,
    groups := List.replicate 5 FusGroup.init, pairs := [], hist := [], post := [],
    tracks := List.replicate 128 FusTrack.init, mru := (0, 0, 0), wind := (0, 0), out := none }

def SlvSlot.init : SlvSlot :=
  { cls := 0, feed := false, n := 0, m := 0, nvec := 0, perm := [], pat := [], terms := [], vals := [], sol := none }

def SlvState.init : SlvState :=
  { slots := List.replicate 16 SlvSlot.init, queue := [], run := none, paused := [], loads := [], num := 0 }

def Motion.zero : Motion := { n := 0, e := 0, h := 0, u := 0, v := 0, r := 0 }
def Triple.zero : Triple := { x := 0, y := 0, n := 0 }
def HlmThr.init : HlmThr := { a := 0, b := 0, az := 0, rud := 0, pers := 0 }
def HlmStr.init : HlmStr := { dis := 0, chg := 0, ids := [], stale := 0, p := 0, wait := 0, grant := none }

def HlmIn.init : HlmIn := { avail := 0, gens := 0, ties := 0, az := [], thrust := [], bands := [] }
def HlmPub.init : HlmPub := { thrs := List.replicate 32 HlmThr.init, strs := [], gens := [] }
def HlmState.init : HlmState :=
  { pay := [], runAt := 0, ck := none, cycle := 0, modeReq := none, rejCnt := 0, joyXY := false, joyN := false, spNew := false,
    tgt := Triple.zero, offN := 0, offE := 0, rel := false, ref := Motion.zero, aRef := Triple.zero, entry := false, pred := Motion.zero,
    windM := Triple.zero, dem := Triple.zero, inp := HlmIn.init, thrs := List.replicate 32 HlmThr.init, strs := List.replicate 256 HlmStr.init,
    gens := List.replicate 16 0, pub := HlmPub.init, pubCk := none, transit := none, hist := [], qp := none, sent := [], tag := none, cNext := 0, outcome := 0,
    iter := 0, force0 := true, bus0 := true, slackN := 0, falls := 0, coast := 0, held := false }

def LpeDyn.init : LpeDyn := { i := 0, off := 0, d := 0, y := 0, hist := List.replicate 4 (0, 0, 0, 0), ym := 0 }
def LpeLoop.init : LpeLoop :=
  { dyn := LpeDyn.init, back := LpeDyn.init, cnt0 := 0, hold0 := false, out := none, sampled := false, us := [], staging := [],
    swapAt := 0, cmd := none, clear := none, enAt := 0, manNew := false, hold := false }
def LpeState.init : LpeState := { loops := List.replicate 64 LpeLoop.init, tick := none }

def ZPort.init : ZPort := { q := [], tx := none }

def ZfbState.init : ZfbState :=
  { ports := List.replicate 4 ZPort.init, seq := List.replicate 16 0, bcast := [], sweeps := [], got := [],
    cmdSeq := [], held := [], handed := [], txCmd := 0, lateCmd := 0, discCmd := 0, pend := none, foreign := none, run := none, again := none,
    gen := 0, map := [], links := [], recalls := [], rejoin := none, rejAuth := none, rejTries := 0, replaced := [], doubt := [], chal := [], passed := [], restored := [], verdict := none, term := none,
    deliv := none, span := 32768, helmEn := false, helmDom := 0, bnd := [] }

def CrtTask.init : CrtTask :=
  { d := none, lvl := none, rel := none, prog := false, copied := false, inAt := 0, ready := false, j := 0, step := false, start := 0, img := [],
    qual := [], out := [] }
def CrtStn.init : CrtStn := { vals := [], seen := none, outs := [], lostAt := none, rejoin := false }
def CrtState.init : CrtState :=
  { tasks := List.replicate 32 CrtTask.init, stns := List.replicate 64 CrtStn.init, vals := [], forces := [], writes := [], evts := [],
    power := [], ovrs := 0, held := none, miss := 0, wdt := false }

def FieldSide.init : FieldSide :=
  { st := 0, seq := 0, out := 0, act := 0, inp := 0, rb := 0, ovl := 0, openW := 0, ot := 0, disc := 0, offSeen := 0,
    fsOk := false, por := false, discN := 0, syncIn := false, accTick := 0, actTick := List.replicate 16 0,
    nchg := List.replicate 16 0,
    chgTick := List.replicate 16 0, held := [], rd := 0, answer := none }

def FioState.init : FioState :=
  { field := FieldSide.init, sentAt := 0, upTick := 0, seq := 0, syncing := false, mism := 0, answered := true, op := none, queue := [],
    rewriting := 0, scan := 0, bound := 0, rtOut := 0, down := none, up := none }

def CanCtl.init : CanCtl := { occ := [], slotAt := [], rxAt := [], arb := [], ahead := [], timing := [] }

def CanState.init : CanState := { ctl := List.replicate 4 CanCtl.init, newTab := [none, none, none, none] }

def SafSrc.init : SafSrc := { valid := true, seq := none, v0 := 0, v1 := 0, t := 0 }
def SafIn.init : SafIn := { st := 0, full := false, back := 0, t := 0 }
def SafFn.init : SafFn := { st := 0, bad := 0, apart := none }
def SafOut.init : SafOut := { st := 0, cause := 0, wait := false }

/-- A lane after a field-side reset at tick t: every output pair OFF, input pairs and functions in OK (R392, R400). -/
def SafLane.startAt (t : Nat) : SafLane :=
  { seq := none, lastReq := 3, req := 0, rise := 0, resets := 0, take := false, filt := 0, run := List.replicate 8 0,
    mism := [0, 0], src := List.replicate 13 { SafSrc.init with t := t }, ins := List.replicate 4 SafIn.init,
    fns := List.replicate 8 SafFn.init, outs := List.replicate 2 SafOut.init, word := none,
    errs := 0, alarms := 0, cnts := [0, 0, 0, 0], answer := false, refT := t, sampT := t, cycT := t }

def SafLane.init : SafLane := SafLane.startAt 0

def SafState.init : SafState :=
  { lanes := List.replicate 2 SafLane.init, diff := 0, lnDiff := false, par := none, parBad := false,
    pulse := [none, none], turn := [false, false], due := [0, 0], nextT := [0, 0, 0, 0], doneT := [0, 0, 0, 0], seq := 0,
    resets := 0, take := false, fresh := [], tels := [], sent := none, vseq := 0, upT := [0, 0] }

/-- Right after a power-on reset: every register at its reset value, memory with nothing listed, no command waiting. -/
def State.reset : State :=
  { regs := [], wide := [], mem := [], chk := [], ticks := 0, free := 0, reads := [], pwr := PwrState.init,
    start := StartState.init, log := LogState.init, pmc := PmcState.init, ptu := PtuState.init, prd := PrdState.init,
    mir := MirState.init, mbx := MbxState.init, cfg := CfgState.init,
    cfe := CfeState.init, sch := SchState.init, cse := CseState.init, gnb := GnbState.init, fus := FusState.init, slv := SlvState.init, hlm := HlmState.init, lpe := LpeState.init, zfb := ZfbState.init, crt := CrtState.init, fio := FioState.init, can := CanState.init, saf := SafState.init,
    pending := [] }

/-- The answer of a command's meaning. -/
abbrev Out := Host.Outcome State Fault Refusal

end Sys2Proof.Machine
end

