-- ==== Sys2Proof/Machine/Ops.lean ====
section
/-!
DEFINITION. Machine/Ops.lean: the named operations that every family shares: register fields, counters and flags,
fabric time, the fault log, memory under the Pip code.
-/
namespace Sys2Proof.Machine

/-! ### Register fields -/

/-- The value of a register field: what the register file lists under its key, or its reset value. -/
def State.rd (s : State) (f : Fld) : Nat := (aGet f.key s.regs).getD f.rst

/-- A register field given a value, cut to its width. -/
def State.wr (s : State) (f : Fld) (v : Nat) : State :=
  { s with regs := aSet f.rst f.key (v % 2 ^ f.width) s.regs }

/-- A one-bit field as a Boolean. -/
def State.on (s : State) (f : Fld) : Bool := s.rd f != 0

/-- A one-bit field set from a Boolean. -/
def State.wrB (s : State) (f : Fld) (b : Bool) : State := s.wr f (b2n b)

/-- A signed field. -/
def State.rdS (s : State) (f : Fld) : Int := toSigned f.width (s.rd f)

/-- A signed field given the two's complement of i. -/
def State.wrS (s : State) (f : Fld) (i : Int) : State := s.wr f (ofSigned f.width i)

/-- A saturating counter advanced by n. -/
def State.satAdd (s : State) (f : Fld) (n : Nat) : State := s.wr f (min (s.rd f + n) (2 ^ f.width - 1))

/-- A saturating counter advanced by 1. -/
def State.satInc (s : State) (f : Fld) : State := s.satAdd f 1

/-- A wrapping counter advanced by 1. -/
def State.wrapInc (s : State) (f : Fld) : State := s.wr f (s.rd f + 1)

/-- Several fields written in order. -/
def State.wrAll (s : State) (l : List (Fld × Nat)) : State := l.foldl (fun s e => s.wr e.1 e.2) s

/-- Bit k of a field set or cleared. -/
def State.wrBit (s : State) (f : Fld) (k : Nat) (b : Bool) : State :=
  s.wr f (if b then s.rd f ||| 2 ^ k else s.rd f - (if (s.rd f).testBit k then 2 ^ k else 0))

/-- Each register field of a row returned to its reset value. -/
def State.clearRow (s : State) (r : RegRow) : State :=
  (List.range r.count).foldl (fun s n => (r.fields n).foldl (fun s f => s.wr f f.rst) s) s

/-! ### The register map (R402, R403) -/

/-- The rows of the block that an address of the register windows lies in. -/
def blockRows (a : Nat) : List RegRow :=
  match (a - 0x40000000) / 0x10000 with
  | 0 => rowsCFE | 1 => rowsSCH | 2 => rowsCSE | 3 => rowsGNB | 4 => rowsFUS | 5 => rowsSLV | 6 => rowsHLM
  | 7 => rowsLPE | 8 => rowsPTU | 9 => rowsZFB | 10 => rowsPRD | 11 => rowsMBX | 12 => rowsCRT | 13 => rowsFIO
  | 14 => rowsCAN | 15 => rowsSAF | 16 => rowsPMC | _ => []

/-- The register windows (R402). -/
def inRegs (a : Nat) : Bool := 0x40000000 ≤ a && a < 0x40110000

/-- A register in the map: its row, which of the row's registers, and the word of it that an address names. -/
structure RegLoc where
  row  : RegRow
  n    : Nat
  word : Nat

/-- Whether a word address lies in a row's registers. -/
def rowHolds (r : RegRow) (a : Nat) : Bool :=
  r.base ≤ a && (a - r.base) / r.stride < r.count && (a - r.base) % r.stride < r.bits / 8

/-- The register that an aligned word address names (R403); none where no register occupies it. -/
def findReg (a : Nat) : Option RegLoc :=
  if inRegs a then
    match (blockRows a).find? (fun r => rowHolds r a) with
    | some r => some { row := r, n := (a - r.base) / r.stride, word := (a - r.base) % r.stride / 4 }
    | none => none
  else none

/-- The bit of its register at which a field begins. -/
def RegLoc.pos (l : RegLoc) (f : Fld) : Nat := 8 * (f.addr - (l.row.base + l.n * l.row.stride)) + f.lo

/-- The fields of a located register. -/
def RegLoc.flds (l : RegLoc) : List Fld := l.row.fields l.n

/-- The lowest byte address of a located register. -/
def RegLoc.base (l : RegLoc) : Nat := l.row.base + l.n * l.row.stride

/-- Words of a located register. -/
def RegLoc.words (l : RegLoc) : Nat := (l.row.bits + 31) / 32

/-- A whole register as software reads it: WO fields and reserved bits read 0 (R3, R4). -/
def State.regVal (s : State) (l : RegLoc) : Nat :=
  l.flds.foldl (fun v f => v + (if f.acc = .wo then 0 else s.rd f <<< l.pos f)) 0

/-- Word k of a register value. -/
def wordOf (v k : Nat) : Nat := bits v (32 * k) 32

/-- The word at an address as it stands, without any effect of reading; 0 where no register lies (R403). -/
def State.word (s : State) (a : Nat) : Nat :=
  match findReg a with
  | some l => wordOf (s.regVal l) l.word
  | none => 0

/-- The reset value of the word at an address. -/
def rstWord (a : Nat) : Nat :=
  match findReg a with
  | some l => wordOf (l.flds.foldl (fun v f => v + (if f.acc = .wo then 0 else f.rst <<< l.pos f)) 0) l.word
  | none => 0

/-- The RC fields of a register cleared: those whose lowest bit lies in a word for which `p` holds (R5, R62). -/
def State.clearRC (s : State) (l : RegLoc) (p : Nat → Bool) : State :=
  l.flds.foldl (fun s f => if f.acc = .rc && p (l.pos f / 32) then s.wr f 0 else s) s

/-- The value that a written register value holds for a field. -/
def RegLoc.get (l : RegLoc) (v : Nat) (f : Fld) : Nat := bits v (l.pos f) f.width

/-- A field's value in range for a write (R63 and the like). -/
def fldInRange (f : Fld) (v : Nat) : Bool :=
  let i : Int := if f.sgn then toSigned f.width v else v
  f.mn ≤ i && i ≤ f.mx

/-- Every RW field of the value in its range. -/
def RegLoc.inRange (l : RegLoc) (v : Nat) : Bool :=
  l.flds.all fun f => if f.acc = .rw then fldInRange f (l.get v f) else true

/-- R3 on one field: RW stores, W1C clears each bit written 1, RO and RC ignore; a WO field is left to its block. -/
def State.wrField (s : State) (f : Fld) (v : Nat) : State :=
  match f.acc with
  | .rw => s.wr f v
  | .w1c => s.wr f (s.rd f &&& ((2 ^ f.width - 1) ^^^ (v % 2 ^ f.width)))
  | _ => s

/-- R3 on every field of a register. -/
def State.wrReg (s : State) (l : RegLoc) (v : Nat) : State :=
  l.flds.foldl (fun s f => s.wrField f (l.get v f)) s

/-- A write that would leave every RW field as it is. -/
def State.sameRW (s : State) (l : RegLoc) (v : Nat) : Bool :=
  l.flds.all fun f => if f.acc = .rw then l.get v f = s.rd f else true

/-- How a register write ended (R318): applied, refused for a value out of range, or refused because of state. -/
inductive WRes where
  | ok | range | state
  deriving DecidableEq, Repr

/-- The parts of one write in order, each with the flag that its refusal sets: where one is refused none takes effect, and
its flag alone is set (R11). -/
def State.jointly (s : State) (parts : List (Fld × (State → State × Bool))) : State × WRes :=
  go s parts
where
  go (t : State) : List (Fld × (State → State × Bool)) → State × WRes
    | [] => (t, .ok)
    | p :: l =>
      match p.2 t with
      | (t, true) => go t l
      | (_, false) => (s.wr p.1 1, .state)

/-! ### Fabric time -/

/-- NS32 (R218). -/
def State.ns32 (s : State) : Nat := s.rd PTU_TIME_NS32

/-- epoch:NS32 in ns. -/
def State.now (s : State) : Nat := 2 ^ 32 * s.rd PTU_TIME_EPOCH + s.rd PTU_TIME_NS32

/-- The counter loaded with an instant of epoch:NS32. -/
def State.setNow (s : State) (t : Int) : State :=
  (s.wr PTU_TIME_NS32 (t % 2 ^ 32).toNat).wr PTU_TIME_EPOCH ((t / 2 ^ 32) % 2 ^ 32).toNat

/-- A span in ticks of the 4 ns timing clock. -/
def ticksOf (ns : Nat) : Nat := ns / 4

/-! ### Whether the module runs -/

/-- The module is not held in reset (R434). -/
def State.live (s : State) : Bool := s.pwr.held = none

/-- An effect that takes place only while the module is not held in reset. -/
def whenLive (s : State) (f : State → State) : State := if s.live then f s else s

/-- The functions that Bulb mode drops run: the module is not held in reset and has taken its role (R15, R442). -/
def State.works (s : State) : Bool := s.live && s.start.phase = .running

/-- An effect of a function that runs only once a role has been taken. -/
def whenWorks (s : State) (f : State → State) : State := if s.works then f s else s

/-- A command whose every outcome is a next state. -/
def done (s : State) : Out := .next s

/-- The next free value's number. -/
def State.draw (s : State) : State := { s with free := s.free + 1 }

/-! ### The fault log (R451 to R454) -/

/-- The order of events of one tick: SOURCE, then INST, then CODE (R452). -/
def logBefore (a b : LogEntry) : Bool :=
  a.source < b.source || (a.source = b.source && (a.inst < b.inst || (a.inst = b.inst && a.code < b.code)))

/-- An entry put into the group of its tick (R452); indices from there on are given again. -/
def stageInto (e : Staged) (l : List Staged) : List Staged :=
  let same := l.reverse.takeWhile fun x => x.tick = e.tick && !x.closed
  let keep := l.take (l.length - same.length)
  let grp := same.reverse
  let lo := grp.takeWhile fun x => !logBefore e.e x.e
  let hi := grp.drop lo.length
  let e' := match hi with
    | [] => e
    | h :: _ => { e with e := { e.e with index := h.e.index } }
  keep ++ lo ++ e' :: hi.map fun x => { x with e := { x.e with index := (x.e.index + 1) % 2 ^ 32 } }

/-- Two events are the same for R453. -/
def sameEvent (a b : LogEntry) : Bool :=
  a.source = b.source && a.code = b.code && a.inst = b.inst && a.detail = b.detail

/-- The newest entry takes a repeat (R453). -/
def bumpLast (l : List Staged) : List Staged :=
  l.modify (l.length - 1) fun x =>
    { x with e := { x.e with merged := true, rep := min (x.e.rep + 1) 0xFFFF } }

/-- One second of ticks (R453). -/
def mergeTicks : Nat := 250000000

/-- The last entry merges with an event that is the same, unwritten and within its second (R453). -/
def canMerge (s : State) (e : LogEntry) : Bool :=
  match s.log.staged.getLast? with
  | some x => sameEvent x.e e && !x.closed && s.ticks - x.tick < mergeTicks
  | none => false

/-- An entry staged with the next INDEX; a full ring of 4,096 drops its oldest entry (R454). -/
def State.stage (s : State) (e : LogEntry) : State :=
  let idx := s.rd PMC_LOG_STAT_NEXT
  let l := stageInto { e := { e with index := idx }, tick := s.ticks, closed := false } s.log.staged
  let full := 4096 < l.length
  let l := if full then l.drop 1 else l
  let s := { s with log := { s.log with staged := l } }
  let s := (s.wr PMC_LOG_STAT_NEXT (idx + 1)).wr PMC_LOG_STAT_STAGED l.length
  if full then s.satInc PMC_LOG_STAT_LOST_CNT else s

/-- An event sent to the fault log (R451, R453). -/
def State.logEvent (s : State) (source code inst status detail : Nat) : State :=
  let e : LogEntry :=
    { index := 0, ns32 := s.ns32, epoch := s.rd PTU_TIME_EPOCH, source := source, code := code, status := status,
      timeValid := s.rd PTU_STATUS_STATE != 0, merged := false, deferred := false, inst := inst, rep := 0,
      detail := detail % 2 ^ 96 }
  if canMerge s e then { s with log := { s.log with staged := bumpLast s.log.staged } }
  else s.stage e

/-- Block index of the register window an address lies in (R403). -/
def blockOf (a : Nat) : Nat := (a - 0x40000000) / 0x10000

/-- A sticky flag set. -/
def State.set1 (s : State) (f : Fld) : State := s.wr f 1

/-- A flag of an ERR register set and entered in the fault log as kind 0 (R452). -/
def State.errLog (s : State) (f : Fld) (inst : Nat) : State :=
  let s := s.wr f 1
  s.logEvent (blockOf f.addr) f.lo inst 0xFF (s.word f.addr)

/-- A flag of an ALARM register, of index k, set and entered as kind 1 (R452). -/
def State.alarmLog (s : State) (f : Fld) (k inst : Nat) : State :=
  let s := s.wrBit f k true
  s.logEvent (blockOf f.addr) (64 + f.lo + k) inst 0xFF (s.word f.addr)

/-- A change of state entered as kind 2: field index, old and new state, event data (R452). -/
def State.stateLog (s : State) (source idx inst old new data : Nat) : State :=
  s.logEvent source (128 + idx) inst 0xFF (old % 256 + 256 * (new % 256) + 65536 * data)

/-- A field of a status register given a new state, its change logged (R452). -/
def State.wrState (s : State) (f : Fld) (idx inst new : Nat) : State :=
  let old := s.rd f
  let s := s.wr f new
  if old = new then s else s.stateLog (blockOf f.addr) idx inst old new 0

/-- A command or start event entered as kind 3 (R452). -/
def State.cmdLog (s : State) (source group status op src : Nat) : State :=
  s.logEvent source (192 + group) 0 status (op + 65536 * src)

/-! ### Counters of events (R445 to R448) -/

/-- Counters 2j and 2j + 1 are chained (R446). -/
def State.chained (s : State) (n : Nat) : Bool := (s.rd PMC_CHAIN_CHAIN).testBit (n / 2)

/-- Counter n sets its overflow bit and, with SAMPLE, raises an interrupt at the processor that the event of
counter `ev` names, or at the management processor (R448). -/
def State.pmcOverflow (s : State) (n ev : Nat) : State :=
  let s := s.wrBit PMC_OVF_OVF n true
  if s.on (PMC_SEL_SAMPLE n) then
    let p := if s.rd (PMC_SEL_EVT ev) = 1 || s.rd (PMC_SEL_EVT ev) = 2 then s.rd (PMC_SEL_SRC ev) else 8
    { s with pmc := { s.pmc with irq := p :: s.pmc.irq } }
  else s

/-- What the present tick found, taken before its first increment or write (R447, R449). -/
def State.pmcTurn (s : State) : State :=
  if s.pmc.tick = s.ticks + 1 then s
  else { s with pmc := { s.pmc with
    tick := s.ticks + 1, cnt0 := (List.range 32).map fun n => s.rd (PMC_CNT_VALUE n), ovf0 := s.rd PMC_OVF_OVF, lvl := 0, wrote := 0 } }

/-- Counter n advanced by k of the event of counter `ev`; a write in the same tick wins (R447). -/
def State.pmcStep (s : State) (n ev k : Nat) : State :=
  if s.pmc.wrote.testBit n then s
  else
    let v := s.rd (PMC_CNT_VALUE n) + k
    let s := s.wr (PMC_CNT_VALUE n) v
    if v < 2 ^ 32 || (s.chained n && n % 2 = 0) then s else s.pmcOverflow n ev

/-- Counter n advanced by k, carries included (R445 to R447). -/
def State.pmcAdd (s : State) (n k : Nat) : State :=
  let s := s.pmcTurn
  let v := s.rd (PMC_CNT_VALUE n) + k
  let carry := if s.chained n && n % 2 = 0 && !s.pmc.wrote.testBit n then v / 2 ^ 32 else 0
  let s := s.pmcStep n n k
  if carry = 0 then s else s.pmcStep (n + 1) n carry

/-- k occurrences in one tick at counter n: it adds them, or with LEVEL 1 for the tick (R445). -/
def State.pmcCount (s : State) (n k : Nat) : State :=
  let s := s.pmcTurn
  if !s.on (PMC_SEL_LEVEL n) then s.pmcAdd n k
  else if k = 0 || s.pmc.lvl.testBit n then s
  else State.pmcAdd { s with pmc := { s.pmc with lvl := s.pmc.lvl ||| 2 ^ n } } n 1

/-- k occurrences of an event of a source in one tick (R445): every running counter that selects it counts; none in Bulb
mode. -/
def State.count (s : State) (evt src k : Nat) : State :=
  if s.on PMC_CTRL_RUN && s.start.phase ≠ .bulb then
    (List.range 32).foldl (fun s n =>
      if s.rd (PMC_SEL_EVT n) = evt && s.rd (PMC_SEL_SRC n) = src && !(s.chained n && n % 2 = 1) then s.pmcCount n k
      else s) s
  else s

/-- A counter written (R447): an increment of the same tick is lost. -/
def State.pmcWrite (s : State) (n v : Nat) : State :=
  let s := s.pmcTurn.wr (PMC_CNT_VALUE n) v
  { s with pmc := { s.pmc with cnt0 := putAt s.pmc.cnt0 n (v % 2 ^ 32), wrote := s.pmc.wrote ||| 2 ^ n } }

/-! ### Memory (R402, R408 to R412) -/

def inSram (a : Nat) : Bool := a < 0x01000000
def inDram (a : Nat) : Bool := 0x10000000 ≤ a && a < 0x20000000
def inFlash (a : Nat) : Bool := 0x20000000 ≤ a && a < 0x22000000

/-- A run of k bytes that reaches into the endpoint table, the solver workspace or the journal (R404). -/
def reserved (a k : Nat) : Bool := a < 0x1A400000 && 0x10000000 < a + max k 1

/-- What an unlisted byte reads as: SRAM and DRAM are written to zero at every start (R402, R435), erased flash reads
all ones (R414). -/
def memDefault (a : Nat) : Byte := if inFlash a then 0xFF else 0

/-- What an unlisted check byte reads as; its key is 4 · (address / 32) + j. -/
def chkDefault (k : Nat) : Byte := if inFlash (k / 4 * 32) then 0xFF else 0

def State.rdByte (s : State) (a : Nat) : Byte := (aGet a s.mem).getD (memDefault a)
def State.rdChk (s : State) (k : Nat) : Byte := (aGet k s.chk).getD (chkDefault k)

def State.wrByte (s : State) (a : Nat) (b : Byte) : State := { s with mem := aSet (memDefault a) a b s.mem }
def State.wrChk (s : State) (k : Nat) (b : Byte) : State := { s with chk := aSet (chkDefault k) k b s.chk }

/-- The canonical form of memory: keys rising, no entry equal to what an unlisted key reads as. -/
def Memory.wf (s : State) : Bool :=
  aSorted s.mem && s.mem.all (fun e => e.2 ≠ memDefault e.1) &&
  aSorted s.chk && s.chk.all (fun e => e.2 ≠ chkDefault e.1)

/-- The word w as the module was shipped, while its area of flash has not been erased since (R489): firmware slot 0 at
0x2040_0000, whose bytes are the part's own, and the factory set in SET_X at 0x2100_0000. -/
def State.shipped (s : State) (w : Nat) : Option Bytes :=
  if s.start.ship0 && 0x20400000 ≤ 32 * w && 32 * w < 0x20400000 + Config.shipLen then
    some ((List.range 32).map fun i => Config.shipByte (32 * w + i - 0x20400000))
  else if s.cfg.shipX && 0x21000000 ≤ 32 * w && 32 * w < 0x21000000 + factorySet.length then
    some (slice factorySet (32 * w - 0x21000000) 32)
  else none

/-- Pip word w (address / 32) as stored. -/
def State.rdRaw (s : State) (w : Nat) : WireWord :=
  match s.shipped w with
  | some d => pipEncode d
  | none =>
  { data := (List.range 32).map fun i => s.rdByte (32 * w + i),
    chk := (List.range 4).map fun j => s.rdChk (4 * w + j) }

/-- Pip word w stored symbol for symbol. -/
def State.wrRaw (s : State) (w : Nat) (v : WireWord) : State :=
  let s := (List.range 32).foldl (fun s i => s.wrByte (32 * w + i) (v.data.getD i 0)) s
  (List.range 4).foldl (fun s j => s.wrChk (4 * w + j) (v.chk.getD j 0)) s

/-- A whole-word write with its check bytes (R410). -/
def State.wrWord (s : State) (w : Nat) (data : Bytes) : State := s.wrRaw w (pipEncode data)

/-- An erased flash word: all ones in data and check (R414). -/
def erasedWord : WireWord := { data := List.replicate 32 0xFF, chk := List.replicate 4 0xFF }

/-- MBX_PIP_ADDR loaded for word w (R411, R412). -/
def State.pipAddr (s : State) (w sym : Nat) (uncorr : Bool) : State :=
  ((s.wr MBX_PIP_ADDR_ADDR (32 * w)).wr MBX_PIP_ADDR_SYM sym).wrB MBX_PIP_ADDR_UNCORR uncorr

/-- The CORR and UNCORR flags of the memory that word w lies in. -/
def corrFlag (w : Nat) : Fld :=
  if inSram (32 * w) then MBX_PIP_ERR_SRAM_CORR
  else if inDram (32 * w) then MBX_PIP_ERR_DRAM_CORR else MBX_PIP_ERR_FLASH_CORR

def uncorrFlag (w : Nat) : Fld :=
  if inSram (32 * w) then MBX_PIP_ERR_SRAM_UNCORR
  else if inDram (32 * w) then MBX_PIP_ERR_DRAM_UNCORR else MBX_PIP_ERR_FLASH_UNCORR

/-- A flag of MBX_PIP_ERR set and logged with the address of word w and a symbol position above the register
(R411, R412, R452). -/
def State.pipLog (s : State) (f : Fld) (w sym : Nat) : State :=
  let s := s.wr f 1
  s.logEvent 11 f.lo 0 0xFF (s.word f.addr + 2 ^ 32 * (32 * w) + 2 ^ 64 * sym)

/-- R411: the corrected word written back where the memory can be written, counted and logged. -/
def State.pipCorrected (s : State) (w p : Nat) (v : WireWord) : State :=
  let s := if inFlash (32 * w) then s.satInc MBX_PIP_CNT_FLASH_CORR_CNT else s.wrRaw w v
  let s := (s.satInc MBX_PIP_CNT_CORR_CNT).pipAddr w p false
  (s.pipLog (corrFlag w) w p).count 5 0 1

/-- R412: what every uncorrectable word does whoever reads it. -/
def State.pipUncorr (s : State) (w : Nat) : State :=
  let s := (s.satInc MBX_PIP_CNT_UNCORR_CNT).pipAddr w 0x3F true
  s.pipLog (uncorrFlag w) w 0x3F

/-- One read of word w by R409, R411, R412, R414: the data where the word is good. An ERASED flash word fails its
check and is not counted as an error. -/
def State.readWord (s : State) (w : Nat) : State × Option Bytes :=
  let raw := s.rdRaw w
  if inFlash (32 * w) && raw = erasedWord then (s, none)
  else match pipDecode raw with
    | .clean d => (s, some d)
    | .corrected v p => (s.pipCorrected w p v, some v.data)
    | .uncorr => (s.pipUncorr w, none)

/-- n whole words from word w, as one run of bytes; none as soon as one fails. -/
def State.readWords : Nat → State → Nat → State × Option Bytes
  | 0, s, _ => (s, some [])
  | n + 1, s, w =>
    match s.readWord w with
    | (s, none) => (s, none)
    | (s, some d) =>
      match State.readWords n s (w + 1) with
      | (s, some r) => (s, some (d ++ r))
      | (s, none) => (s, none)

/-- Whole words of data written from word w on (R410). -/
def State.wrWords : Nat → State → Nat → Bytes → State
  | 0, s, _, _ => s
  | n + 1, s, w, d => State.wrWords n (s.wrWord w (d.take 32)) (w + 1) (d.drop 32)

/-- A run of bytes looked at as it stands, with no effect of reading. -/
def State.peek (s : State) (a k : Nat) : Bytes := (List.range k).map fun i => s.rdByte (a + i)

/-- Every cell of an address range unlisted: a range of SRAM or DRAM written to zero, a range of flash erased. -/
def State.blank (s : State) (lo hi : Nat) : State :=
  { s with
    mem := s.mem.filter (fun e => !(lo ≤ e.1 && e.1 < hi)),
    chk := s.chk.filter (fun e => !(lo ≤ e.1 / 4 * 32 && e.1 / 4 * 32 < hi)) }

/-- One word programmed: only an ERASED word takes a program (R414). -/
def State.program (s : State) (w : Nat) (data : Bytes) : State :=
  if s.rdRaw w = erasedWord then s.wrWord w data else s

/-- Words of data programmed from word w on. -/
def State.programs : Nat → State → Nat → Bytes → State
  | 0, s, _, _ => s
  | n + 1, s, w, d => State.programs n (s.program w (d.take 32)) (w + 1) (d.drop 32)

/-- R402, R415: a bus error to the requester, BUS_ERR and its entry. -/
def State.busErr (s : State) (a : Nat) : State :=
  let s := s.wr MBX_PIP_ERR_BUS_ERR 1
  s.logEvent 11 6 0 0xFF (s.word MBX_PIP_ERR_BUS_ERR.addr + 2 ^ 32 * (a % 2 ^ 64))

/-- The value that a read delivers to its requester. -/
def State.deliver (s : State) (who : Requester) (a v : Nat) : State :=
  { s with reads := { who := who, addr := a, value := v } :: s.reads.filter (fun r => r.who ≠ who) }

/-- A read that delivers nothing: its requester receives a bus error. -/
def State.deliverNone (s : State) (who : Requester) : State :=
  { s with reads := s.reads.filter (fun r => r.who ≠ who) }

end Sys2Proof.Machine
end

