-- ==== Sys2Proof/Machine/Tasks.lean ====
section
/-!
DEFINITION. Machine/Tasks.lean: the task image and signal table of the active set, what a signal reads, and the events that
release event tasks (R335, R337, R338, R340, R348, R354, R371).
-/
namespace Sys2Proof.Machine

def recIx (n m : Nat) : Nat := 128 * n + m

/-- The data bytes of a CAN FD record. -/
def State.recData (s : State) (n m : Nat) : Bytes :=
  (List.range 64).map fun j => BitVec.ofNat 8 (s.rd (CAN_REC_DATA (recIx n m) j))

def State.modCrt (s : State) (f : CrtState → CrtState) : State := { s with crt := f s.crt }
def State.ctask (s : State) (t : Nat) : CrtTask := s.crt.tasks.getD t CrtTask.init
def State.modTask (s : State) (t : Nat) (f : CrtTask → CrtTask) : State :=
  s.modCrt fun c => { c with tasks := modAt c.tasks t f }
def State.cstn (s : State) (k : Nat) : CrtStn := s.crt.stns.getD k CrtStn.init
def State.modStn (s : State) (k : Nat) (f : CrtStn → CrtStn) : State :=
  s.modCrt fun c => { c with stns := modAt c.stns k f }

/-- The runtime's tasks run (R17): in MONITOR, and on the unit that holds TOKEN. -/
def State.crtOn (s : State) : Bool := s.start.phase = .running && (s.start.role = .monitor || s.rd PRD_STATUS_GATE = 2)

/-! ### Image and signal table (R335, R337) -/

/-- Task descriptor number i of a TASKS section. -/
def taskDesc (b : Bytes) (i : Nat) : TaskDesc :=
  let d := slice b (64 + 64 * i) 64
  let nIn := field d 36 2; let nOut := field d 38 2; let l := field d 40 4
  { index := field d 0 1, kind := field d 1 1, prio := field d 2 1, core := field d 3 1, half := field d 4 1,
    holdOk := bit (field d 5 1) 0, evt := field d 6 1, div := field d 8 4, ph := field d 12 4, inOff := field d 16 4,
    outOff := field d 20 4, wcet := field d 24 4, minSep := field d 28 4, evtArg := field d 32 4,
    ins := (List.range nIn).map fun k => field b (l + 4 * k) 4,
    outs := (List.range nOut).map fun k => field b (l + 4 * (nIn + k)) 4 }

def taskDescs (b : Bytes) : List TaskDesc := (List.range (field b 5 1)).map (taskDesc b)

/-- A signal entry. -/
structure Sig where
  id    : Nat
  typ   : Nat
  cls   : Nat
  kind  : Nat
  flags : Nat
  bind  : Nat
  bind2 : Nat
  init  : Nat
  safe  : Nat

def sigAt (b : Bytes) (i : Nat) : Sig :=
  let d := slice b (32 + 32 * i) 32
  { id := field d 0 4, typ := field d 4 1, cls := field d 5 1, kind := field d 6 1, flags := field d 7 1, bind := field d 8 4,
    bind2 := field d 12 4, init := field d 16 8, safe := field d 24 8 }

def sigsOf (b : Bytes) : List Sig := (List.range (field b 0 4)).map (sigAt b)

/-- A station entry. -/
structure StnDesc where
  node  : Nat
  task  : Nat
  miss  : Nat
  nIn   : Nat
  nOut  : Nat
  apply : Nat

def stnsOf (b : Bytes) : List StnDesc :=
  (List.range (field b 4 2)).map fun k =>
    let d := slice b (32 + 32 * field b 0 4 + 16 * k) 16
    { node := field d 0 4, task := field d 4 1, miss := field d 5 1, nIn := field d 6 1, nOut := field d 7 1, apply := field d 8 2 }

def State.tasksSec (s : State) : Bytes := (aGet 6 s.cfg.secs).getD []
def State.sigSec (s : State) : Bytes := (aGet 7 s.cfg.secs).getD []
def State.sigs (s : State) : List Sig := sigsOf s.sigSec
def State.sig (s : State) (id : Nat) : Option Sig := s.sigs.find? (·.id = id)
def State.desc (s : State) (t : Nat) : Option TaskDesc := (taskDescs s.tasksSec).find? (·.index = t)
def State.stnDescs (s : State) : List StnDesc := stnsOf s.sigSec
/-- MASTER and ST_WDT of a module that acts as a station. -/
def State.stnMaster (s : State) : Nat := field s.sigSec 8 4
def State.stnWdt (s : State) : Nat := field s.sigSec 12 1

/-- A value held in 64 bits by its TYPE (R337). -/
def normVal (typ v : Nat) : Nat :=
  let sx := fun (w : Nat) => ofSigned 64 (toSigned w v)
  match typ with
  | 0 => v % 2
  | 1 => sx 16
  | 2 => sx 32
  | 4 => v % 2 ^ 32
  | 5 => v % 2 ^ 32
  | 7 => sx 16
  | _ => v % 2 ^ 64

/-- Value and quality of a signal. -/
def State.sigVal (s : State) (g : Sig) : Nat × Nat := (aGet g.id s.crt.vals).getD (normVal g.typ g.init, 0)
def State.putSig (s : State) (g : Sig) (v q : Nat) : State :=
  s.modCrt fun c => { c with vals := aSet (normVal g.typ g.init, 0) g.id (v, q) c.vals }

def State.forceOf (s : State) (id : Nat) : Option Nat := aGet id s.crt.forces

/-! ### Bindings (R338, R352, R371) -/

/-- Quality of field inputs (R354). -/
def State.fioQual (s : State) : Nat :=
  if s.on FIO_STATUS_LINK && s.on FIO_STATUS_FS_OK && s.rd FIO_STATUS_STATE = 2 then 0 else 2

/-- Value and quality of a CAN receive signal (R371). -/
def State.canSig (s : State) (g : Sig) (off len : Nat) : Nat × Nat :=
  let n := g.bind % 4; let i := recIx n (bits g.bind 8 16)
  let st := s.rd (CAN_STATUS_STATE n)
  let tmo := 1000000 * s.rd (CAN_REC_RX_TMO i)
  let late : Bool := match aGet (bits g.bind 8 16) (s.can.ctl.getD n CanCtl.init).rxAt with
    | some t => decide (t + tmo < s.now)
    | none => true
  let q := if st = 0 || st = 1 || st = 4 then 2 else if tmo ≠ 0 && late then 1 else 0
  let v := bits (natOf (s.recData n (bits g.bind 8 16))) off len
  let sgn := g.typ = 1 || g.typ = 2 || g.typ = 3 || g.typ = 7
  (normVal g.typ (if sgn && 0 < len then ofSigned 64 (toSigned len v) else v), q)

/-- Bit offset and length of a CAN signal; an exported one has its value index in BIND2, and stands at bit 0. -/
def Sig.canField (g : Sig) : Nat × Nat :=
  if g.flags % 4 ≠ 0 then (0, match g.typ with | 0 => 1 | 1 => 16 | 7 => 16 | 3 => 64 | 6 => 64 | _ => 32)
  else (bits g.bind2 0 16, bits g.bind2 16 16)

/-- A station's input as it reads (R349). -/
def State.stnInput (s : State) (k i : Nat) (fresh : Bool) : Nat × Nat :=
  ((s.cstn k).vals.getD i 0, match s.rd (CRT_STN_STAT_STATE k) with | 1 => if fresh then 0 else 1 | 3 => 1 | _ => 2)

/-- The waiting SIGNAL_WRITE that wins for a signal: the later EFFECT, then the later CMD_SEQ (R338). -/
def bestWrite (l : List CrtWrite) : Option CrtWrite :=
  l.foldl (fun b w => match b with
    | none => some w
    | some x => if x.effect < w.effect || (x.effect = w.effect && later32 x.seq w.seq) then some w else some x) none

/-- Value and quality of an input signal at a copy, forces apart; a field input keeps its last value while it reads BAD (R354). -/
def State.readSig (s : State) (g : Sig) (j : Nat) : Nat × Nat :=
  if g.cls ≠ 1 then s.sigVal g
  else match g.kind with
  | 1 =>
    if s.fioQual = 2 then ((s.sigVal g).1, 2)
    else (normVal g.typ (b2n (if g.bind < 16 then bit (s.rd FIO_IN_IN) g.bind else bit (s.rd FIO_IN_RB) (g.bind - 32))), 0)
  | 2 => (normVal 7 (s.rd (LPE_PAGE_VALUE g.bind)), s.rd (LPE_PAGE_QUAL g.bind))
  | 3 => s.canSig g g.canField.1 g.canField.2
  | 4 => s.stnInput g.bind g.bind2 ((s.cstn g.bind).seen = some (j % 2 ^ 32))
  | 5 =>
    match bestWrite (s.crt.writes.filter (·.id = g.id)) with
    | some w => (normVal g.typ w.value, 0)
    | none => s.sigVal g
  | 7 =>
    match g.bind with
    | 1 => (b2n (s.rd (CRT_STN_STAT_STATE g.bind2) = 3), 0)
    | 3 => (b2n (s.rd (CRT_STN_STAT_STATE g.bind2) = 1), 0)
    | 4 => (s.crt.ovrs % 2 ^ 32, 0)
    | _ => s.sigVal g
  | _ => s.sigVal g

/-! ### Events of event tasks (R340) -/

/-- The task's half (R295). -/
def State.myHalf (s : State) (d : TaskDesc) : Bool := s.start.setting ≠ 2 || d.half = s.start.half

/-- The controller runs, the task may be released, and its start has come (R342, R343). -/
def State.mayRelease (s : State) (t : Nat) (d : TaskDesc) : Bool :=
  s.crtOn && s.rd CRT_STATUS_STATE = 1 && s.myHalf d && (s.ctask t).start ≤ s.now &&
  (s.rd (CRT_TASK_STAT_STATE t) = 1 || (s.rd (CRT_TASK_STAT_STATE t) = 3 && (s.ctask t).step))

/-- The sources of these event tasks have occurred; a task that is stopped or held takes no note of it (R343). -/
def State.evtMark (s : State) (src : TaskDesc → Bool) : State :=
  (taskDescs s.tasksSec).foldl (fun s d =>
    if d.kind = 1 && src d && s.mayRelease d.index d then s.modCrt fun c => { c with evts := c.evts ++ [d.index] } else s) s

/-- The source signals of EVT_SRC 1 and 2 looked at again: an edge since the last look is an event. -/
def State.evtScan (s : State) : State :=
  (taskDescs s.tasksSec).foldl (fun s d =>
    match s.sig d.evtArg with
    | some g =>
      if d.kind = 1 && (d.evt = 1 || d.evt = 2) then
        let new : Bool := (s.readSig g 0).1 % 2 = 1
        let edge : Bool := (s.ctask d.index).lvl = some (!new) && new = (d.evt = 1)
        let s := s.modTask d.index fun x => { x with lvl := some new }
        if edge then s.evtMark fun x => x.index = d.index else s
      else s
    | none => s) s

end Sys2Proof.Machine
end

