-- ==== Sys2Proof/Machine/Can.lean ====
section
/-!
DEFINITION. Machine/Can.lean: the CAN FD controllers (chapter 17). Record m of controller n is `CAN_REC (128 n + m)`,
slot k is `CAN_SLOT (64 n + k)`, filter element e is `CAN_FILT (128 n + e)`.
-/
namespace Sys2Proof.Machine

/-! ### Controllers and records -/

def slotIx (n k : Nat) : Nat := 64 * n + k

def State.canCtl (s : State) (n : Nat) : CanCtl := s.can.ctl.getD n CanCtl.init

def State.modCan (s : State) (n : Nat) (f : CanCtl → CanCtl) : State :=
  { s with can := { s.can with ctl := modAt s.can.ctl n f } }

/-- OUT_PERMIT of R357: the role MONITOR was taken at the end of the start, or the gate is in HOLD. -/
def State.permit (s : State) : Bool :=
  (s.start.phase = .running && s.start.role = .monitor) || (s.rd PRD_STATUS_GATE = 2 && s.start.phase = .running)

/-- FIO_STATUS.OUT_PERMIT and each controller's bus monitoring mode brought up to date (R357, R369). -/
def State.updPermit (s : State) : State :=
  let p := s.permit
  let s := s.wrB FIO_STATUS_OUT_PERMIT p
  (List.range 4).foldl (fun s n => s.wrB (CAN_STATUS_MONITOR n) (!p || s.on (CAN_CTRL_LISTEN n))) s

/-- A release of TOKEN at the controllers: transmitters recessive, the frame in progress cut, bus monitoring mode
(R278, R369). -/
def State.canRelease (s : State) : State :=
  (List.range 4).foldl (fun s n =>
    (s.modCan n fun c => { c with ahead := [] }).wrB (CAN_STATUS_MONITOR n) true) s

/-- The controller may transmit (R369): it is on the bus and not in bus monitoring mode. -/
def State.canMayTx (s : State) (n : Nat) : Bool :=
  !s.on (CAN_STATUS_MONITOR n) && (s.rd (CAN_STATUS_STATE n) = 2 || s.rd (CAN_STATUS_STATE n) = 3)

/-- Slots of controller n whose enabled entry names record m. -/
def State.slotOf (s : State) (n m : Nat) : Option Nat :=
  (List.range 64).find? fun k => s.on (CAN_SLOT_EN (slotIx n k)) && s.rd (CAN_SLOT_MSG (slotIx n k)) = m

/-- A record becomes PENDING and enters arbitration with its present contents (R371, R373, R374). -/
def State.canPend (s : State) (n m : Nat) : State :=
  let s := s.wr (CAN_REC_STATE (recIx n m)) 1
  s.modCan n fun c =>
    { c with arb := { msg := m, dlc := s.rd (CAN_REC_DLC (recIx n m)), data := s.recData n m } ::
      c.arb.filter (fun a => a.msg ≠ m) }

/-- A record leaves arbitration for the state st. -/
def State.canLeave (s : State) (n m st : Nat) : State :=
  (s.wr (CAN_REC_STATE (recIx n m)) st).modCan n fun c =>
    { c with arb := c.arb.filter (fun a => a.msg ≠ m), ahead := c.ahead.filter (· ≠ m) }

/-- A slot occurrence that did not start: MISSED, counted and logged (R373, R377). -/
def State.canMissed (s : State) (n k : Nat) : State :=
  let s := (s.satInc (CAN_CNT_MISS_CNT n)).errLog (CAN_ERR_MISSED n) n
  s.modCan n fun c => { c with occ := c.occ.filter (fun o => o.slot ≠ k) }

/-- ERROR_ACTIVE or ERROR_PASSIVE by the two counters (R377). -/
def State.canLevel (s : State) (n : Nat) : State :=
  let st := s.rd (CAN_STATUS_STATE n)
  if st = 2 || st = 3 then
    if 127 < s.rd (CAN_STATUS_TEC n) || 127 < s.rd (CAN_STATUS_REC n) then
      if st = 2 then (s.wr (CAN_STATUS_STATE n) 3).set1 (CAN_ERR_PASSIVE n) else s
    else s.wr (CAN_STATUS_STATE n) 2
  else s

/-- Entry into BUS_OFF (R377): pending records HELD with NOT_SENT_BUSOFF, the occurrence in progress MISSED. -/
def State.canBusOff (s : State) (n : Nat) : State :=
  let s := (s.wr (CAN_STATUS_STATE n) 4).satInc (CAN_CNT_BUSOFF_CNT n)
  let s := s.errLog (CAN_ERR_BUSOFF n) n
  let s := (List.range 128).foldl (fun s m =>
    if s.rd (CAN_REC_STATE (recIx n m)) = 1 && s.rd (CAN_REC_DIR (recIx n m)) = 1 then
      (s.wr (CAN_REC_STATE (recIx n m)) 2).wr (CAN_REC_CODE (recIx n m)) 0x30
    else s) s
  let occ := (s.canCtl n).occ
  let s := occ.foldl (fun s o => s.canMissed n o.slot) s
  s.modCan n fun c => { c with arb := [], ahead := [], occ := [] }

/-! ### Bit timing (R368) -/

/-- The fields of a bit-timing register: offset 0x0C NBT, 0x10 DBT, 0x14 TDC. -/
def timingFields (n : Nat) : Nat → List Fld
  | 0x0C => [CAN_NBT_BRP n, CAN_NBT_TSEG1 n, CAN_NBT_TSEG2 n, CAN_NBT_SJW n]
  | 0x10 => [CAN_DBT_BRP n, CAN_DBT_TSEG1 n, CAN_DBT_TSEG2 n, CAN_DBT_SJW n]
  | 0x14 => [CAN_TDC_TDCO n, CAN_TDC_TDC_EN n]
  | _ => []

/-- A bit-timing value within its register's ranges: TSEG1 and TSEG2 of NBT from 2 time quanta, SJW not above TSEG2. -/
def timingOk (off v : Nat) : Bool :=
  match off with
  | 0x0C => 1 ≤ bits v 5 8 && 1 ≤ bits v 13 7 && bits v 20 7 ≤ bits v 13 7
  | 0x10 => bits v 14 4 ≤ bits v 10 4
  | _ => true

/-- The timing words written take effect, and a running controller re-integrates (R368); it never leaves BUS_OFF or
RECOVERING on its own (R377). -/
def State.applyTiming (s : State) (n : Nat) : State :=
  let t := (s.canCtl n).timing
  if t.isEmpty then s else
  let s := t.foldl (fun s e => (timingFields n e.1).foldl (fun s f => s.wr f (bits e.2 f.lo f.width)) s) s
  let s := s.modCan n fun c => { c with timing := [] }
  let st := s.rd (CAN_STATUS_STATE n)
  if st = 2 || st = 3 || st = 1 then s.wr (CAN_STATUS_STATE n) 1 else s

/-- A write of NBT, DBT or TDC: at once, or once the frame in progress has ended while EN = 1 (R368, R380). -/
def State.canTimingWrite (s : State) (n off v : Nat) (inFrame : Bool) : State × WRes :=
  if timingOk off v then
    let s := s.modCan n fun c => { c with timing := c.timing.filter (fun e => e.1 ≠ off) ++ [(off, v)] }
    (if s.on (CAN_CTRL_EN n) && inFrame then s
     else if s.on (CAN_CTRL_EN n) then s.applyTiming n
     else
       let s := (timingFields n off).foldl (fun s f => s.wr f (bits v f.lo f.width)) s
       s.modCan n fun c => { c with timing := [] }, .ok)
  else (s.set1 (CAN_ERR_CFG_REJ n), .range)

/-! ### Commands of the family -/

/-- CAN_BIT_TIMING_WRITE (R368). -/
def execCanBitTimingWrite (n : Fin 4) (off v : Nat) (inFrame : Bool) (s : State) : Out :=
  done (whenLive s fun s => (s.canTimingWrite n off v inFrame).1)

/-- CAN_INTEGRATION_DONE (R368). -/
def execCanIntegrationDone (n : Fin 4) (s : State) : Out :=
  done (if s.rd (CAN_STATUS_STATE n) = 1 then (s.wr (CAN_STATUS_STATE n) 2).canLevel n else s)

/-! ### The CAN section (R370, R372, R376, R379): an image of the block's window from offset 0x1000 (notes/assumptions/27.md) -/

/-- Where the section holds controller n's slot table, its filter list and its record m. -/
def secSlots (n : Nat) : Nat := 1024 * n
def secFilts (n : Nat) : Nat := 4096 + 2048 * n
def secRec (n m : Nat) : Nat := 0x3000 + 12288 * n + 96 * m

/-- Controller n takes a slot table of 1,024 bytes. -/
def State.canLoadSlots (s : State) (n : Nat) (tab : Bytes) : State :=
  (List.range 64).foldl (fun s k =>
    let v := field tab (16 * k) 16
    let i := slotIx n k
    s.wrAll [(CAN_SLOT_OFFSET i, bits v 0 20), (CAN_SLOT_WINDOW i, bits v 20 12), (CAN_SLOT_MSG i, bits v 32 7),
      (CAN_SLOT_EN i, bits v 39 1), (CAN_SLOT_ROW_MASK i, bits v 40 16)]) s

/-- Controller n takes its filter list and the fields of its records that the section gives; data, DLC, STATE and CODE
stay (R379, R380). -/
def State.canLoadLists (s : State) (n : Nat) (sec : Bytes) : State :=
  let s := (List.range 128).foldl (fun s e =>
    let v := field sec (secFilts n + 16 * e) 16
    let i := recIx n e
    s.wrAll [(CAN_FILT_TYPE i, bits v 0 2), (CAN_FILT_IDE i, bits v 2 1), (CAN_FILT_REJECT i, bits v 3 1),
      (CAN_FILT_MSG i, bits v 4 7), (CAN_FILT_ID1 i, bits v 32 29), (CAN_FILT_ID2 i, bits v 64 29)]) s
  (List.range 128).foldl (fun s m =>
    let v := field sec (secRec n m) 32
    let i := recIx n m
    s.wrAll [(CAN_REC_ID i, bits v 0 29), (CAN_REC_IDE i, bits v 29 1), (CAN_REC_FDF i, bits v 30 1),
      (CAN_REC_BRS i, bits v 31 1), (CAN_REC_DIR i, bits v 37 1), (CAN_REC_RX_TMO i, bits v 96 16)]) s

/-- The CAN section of the active set taken at start; without one every table is empty. -/
def State.canApply (s : State) (sec : Bytes) : State :=
  (List.range 4).foldl (fun s n => (s.canLoadLists n sec).canLoadSlots n (slice sec (secSlots n) 1024)) s

/-- The CAN section that takes effect at F: filters and records at once, slot tables when a basic cycle starts (R379). -/
def State.canFlip (s : State) (sec : Bytes) (f : Nat) : State :=
  (List.range 4).foldl (fun s n =>
    let s := s.canLoadLists n sec
    { s with can := { s.can with newTab := s.can.newTab.set n (some (slice sec (secSlots n) 1024, f)) } }) s

/-- The start of controller n's basic cycle in progress, in ns of epoch:NS32 (R372). -/
def State.canCycle (s : State) (n : Nat) : Int :=
  let per : Int := 1000 * s.rd (CAN_SCHED_BASE_PER n)
  let org : Int := s.rd (CAN_ORIGIN_EPOCH n) * 2 ^ 32 + s.rd (CAN_ORIGIN_NS32 n)
  org + ((s.now : Int) - org) / per * per

/-- A slot table that waits takes effect once a basic cycle has started at or after its F (R379). -/
def State.canTurn (s : State) (n : Nat) : State :=
  match s.can.newTab.getD n none with
  | some (tab, f) =>
    if (f : Int) ≤ s.canCycle n then
      let s := s.canLoadSlots n tab
      { s with can := { s.can with newTab := s.can.newTab.set n none } }
    else s
  | none => s

/-- The last occurrence of slot k of controller n at or before instant `at`, in a row that carries it (R372). -/
def State.slotLast (s : State) (n k : Nat) (at' : Int) : Option Nat :=
  let per : Int := 1000 * s.rd (CAN_SCHED_BASE_PER n)
  let org : Int := s.rd (CAN_ORIGIN_EPOCH n) * 2 ^ 32 + s.rd (CAN_ORIGIN_NS32 n)
  let rows : Int := s.rd (CAN_SCHED_N_ROW n) + 1
  let i := slotIx n k
  let off : Int := 1000 * (s.rd (CAN_SLOT_OFFSET i) : Nat)
  let c := (at' - org - off) / per
  if 0 ≤ c && s.on (CAN_SLOT_EN i) && (s.rd (CAN_SLOT_ROW_MASK i)).testBit (c % rows).toNat then some (org + c * per + off).toNat else none

/-- The occurrence of slot k that takes place at instant t. -/
def State.slotOcc (s : State) (n k t ends : Nat) : CanOcc :=
  { slot := k, t := t, msg := s.rd (CAN_SLOT_MSG (slotIx n k)), ends := ends }

/-- CAN_SLOT_OCCURRENCE (R373, R377): at its instant, once, the slot's record enters arbitration; in BUS_OFF the occurrence is
MISSED and its record takes NOT_SENT_BUSOFF; a controller that is OFF or in bus monitoring mode acts on no occurrence (R369). -/
def execCanSlotOccurrence (n : Fin 4) (k : Fin 64) (s : State) : Out :=
  done (whenWorks s fun s =>
    let s := s.canTurn n
    let m := s.rd (CAN_SLOT_MSG (slotIx n k))
    match s.slotLast n k s.now with
    | none => s
    | some t =>
      if aGet k.val (s.canCtl n).slotAt = some t then s
      else
        let s := s.modCan n fun c => { c with slotAt := aIns k.val t (aDel k.val c.slotAt) }
        if s.rd (CAN_STATUS_STATE n) = 4 then (s.wr (CAN_REC_CODE (recIx n m)) 0x30).canMissed n k
        else if s.rd (CAN_STATUS_STATE n) ≠ 0 && !s.on (CAN_STATUS_MONITOR n) then
          (s.canPend n m).modCan n fun c =>
            { c with occ := c.occ.filter (·.slot ≠ k.val) ++ [s.slotOcc n k t (t + 1000 * s.rd (CAN_SLOT_WINDOW (slotIx n k)))] }
        else s)

/-- CAN_WINDOW_END (R373): an occurrence not started by t + WINDOW is MISSED and its record IDLE; one whose start of
frame fell before is allowed to complete. -/
def execCanWindowEnd (n : Fin 4) (k : Fin 64) (started : Bool) (s : State) : Out :=
  done (match (s.canCtl n).occ.find? (·.slot = k.val) with
    | some o => if o.ends ≤ s.now && !started then (s.canLeave n o.msg 0).canMissed n k else s
    | none => s)

/-- CAN_ARBITRATION_LOST (R373): the record stays PENDING and contends again with its present contents (R371). -/
def execCanArbitrationLost (n : Fin 4) (m : Fin 128) (s : State) : Out :=
  done (if s.rd (CAN_REC_STATE (recIx n m)) = 1 then s.canPend n m else s)

/-- A frame in progress on the bus has ended: timing writes that waited for it apply (R368). -/
def State.canFrameEnd (s : State) (n : Nat) : State := s.applyTiming n

/-- CAN_FRAME_COMPLETE (R373, R377): the frame of record m, started at `sof`, completes; frames that a takeover sends
ahead go in schedule order (R375). -/
def execCanFrameComplete (n : Fin 4) (m : Fin 128) (sof : BitVec 32) (s : State) : Out :=
  let ahead := (s.canCtl n).ahead
  done (if s.rd (CAN_REC_STATE (recIx n m)) = 1 && s.canMayTx n && (!ahead.contains m.val || ahead.head? = some m.val) then
    let s := (s.canLeave n m 0).wr (CAN_REC_CODE (recIx n m)) 0
    let s := s.wr (CAN_REC_T (recIx n m)) sof.toNat
    let s := s.modCan n fun c =>
      { c with occ := c.occ.filter (·.msg ≠ m.val) }
    let s := (s.wr (CAN_STATUS_TEC n) (s.rd (CAN_STATUS_TEC n) - 1)).canLevel n
    (s.canFrameEnd n).count 0x0A n 1
  else s)

/-- CAN_BUS_ERROR (R377): an error of this kind, while transmitting or receiving; `dominant` when a dominant bit
followed the error flag. The counters move by the rules of ISO 11898-1:2015; in bus monitoring mode they are held
(R369). -/
def execCanBusError (n : Fin 4) (kind : CanErr) (transmitting dominant : Bool) (s : State) : Out :=
  let st := s.rd (CAN_STATUS_STATE n)
  done (if st = 2 || st = 3 then
    let s := s.wr (CAN_STATUS_LEC n) kind.lec
    if s.on (CAN_STATUS_MONITOR n) then s.canFrameEnd n
    else if transmitting then
      if st = 3 && kind = .ack && !dominant then s.canFrameEnd n
      else
        let tec := s.rd (CAN_STATUS_TEC n) + 8
        let s := s.wr (CAN_STATUS_TEC n) (min tec 255)
        if 255 < tec then (s.canBusOff n).canFrameEnd n
        else
          let s := s.canLevel n
          let s := (s.canCtl n).arb.foldl (fun s a => s.canPend n a.msg) s
          s.canFrameEnd n
    else
      let recNew := s.rd (CAN_STATUS_REC n) + (if dominant then 8 else 1)
      ((s.wr (CAN_STATUS_REC n) (min recNew 255)).canLevel n).canFrameEnd n
  else s)

/-- Whether a filter element matches (R376). -/
def State.filtMatch (s : State) (n e : Nat) (f : CanFrame) : Bool :=
  let i := recIx n e
  let a := s.rd (CAN_FILT_ID1 i)
  let b := s.rd (CAN_FILT_ID2 i)
  (s.on (CAN_FILT_IDE i) = f.ide) &&
  match s.rd (CAN_FILT_TYPE i) with
  | 1 => a ≤ f.id && f.id ≤ b
  | 2 => f.id = a || f.id = b
  | 3 => (f.id &&& b) = (a &&& b)
  | _ => false

/-- The instant epoch:NS32 that NS32 value t names, of those nearest to now. -/
def State.extNear (s : State) (t : Nat) : Nat := ((s.now : Int) - diff32 t s.ns32).toNat

/-- A record just stored that a telegram source names and that holds 16 data bytes carries a new telegram (R387). -/
def State.canTel (s : State) (n m : Nat) : State :=
  if s.on (CAN_REC_FDF (recIx n m)) && s.rd (CAN_REC_DLC (recIx n m)) = 10 &&
      (List.range 12).any (fun j => s.rd (SAF_TEL_CFG_KIND j) = 1 && s.rd (SAF_TEL_CFG_CTRL j) = n &&
        s.rd (SAF_TEL_CFG_MSG j) = m) then
    { s with saf := { s.saf with fresh := s.saf.fresh ++ [(recIx n m, slice (s.recData n m) 0 16)] } }
  else s

/-- A matching frame stored in its receive record (R376); it is an event (R340, R371). -/
def State.canStore (s : State) (n m : Nat) (f : CanFrame) : State :=
  let i := recIx n m
  let s := if s.on (CAN_REC_NEW i) then
      ((s.set1 (CAN_REC_OVW i)).set1 (CAN_ERR_RX_OVW n)).satInc (CAN_CNT_OVW_CNT n)
    else s
  let s := s.wrAll [(CAN_REC_ID i, f.id), (CAN_REC_IDE i, b2n f.ide), (CAN_REC_FDF i, b2n f.fdf),
    (CAN_REC_BRS i, b2n f.brs), (CAN_REC_DLC i, f.dlc), (CAN_REC_ESI i, b2n f.esi), (CAN_REC_NEW i, 1),
    (CAN_REC_T i, f.sof)]
  let s := (List.range 64).foldl (fun s j => if j < f.data.length then s.wr (CAN_REC_DATA i j) (f.data.getD j 0).toNat else s) s
  let s := s.modCan n fun c => { c with rxAt := aIns m (s.extNear f.sof) (aDel m c.rxAt) }
  ((s.canTel n m).evtMark fun d => d.evt = 4 && bits d.evtArg 0 8 = n && bits d.evtArg 8 16 = m).evtScan

/-- CAN_FRAME_RECEIVE (R376, R367): a valid frame is filtered in list order and stored, or discarded; a remote frame
is discarded. The receive counter falls by ISO 11898-1:2015 unless it is held (R369): above 127 it takes a value from
119 to 127 that is left open. -/
def execCanFrameReceive (n : Fin 4) (f : CanFrame) (s : State) : Out :=
  let st := s.rd (CAN_STATUS_STATE n)
  done (if (st = 2 || st = 3) && !f.rtr then
    let s := if s.on (CAN_STATUS_MONITOR n) then s
      else
        let r := s.rd (CAN_STATUS_REC n)
        if 127 < r then ((s.draw).wr (CAN_STATUS_REC n) (119 + Config.freeNat s.free % 9)).canLevel n
        else (s.wr (CAN_STATUS_REC n) (r - 1)).canLevel n
    let s := match (List.range 128).find? (fun e => s.filtMatch n e f) with
      | some e =>
        if s.on (CAN_FILT_REJECT (recIx n e)) then s
        else s.canStore n (s.rd (CAN_FILT_MSG (recIx n e))) f
      | none => (s.set1 (CAN_ERR_NO_MATCH n)).satInc (CAN_CNT_NOMATCH_CNT n)
    (s.canFrameEnd n).count 0x0A n 1
  else s)

/-- The event request of R374. -/
def State.canRequest (s : State) (n m : Nat) : State × WRes :=
  let s := s.canTurn n
  if s.rd (CAN_REC_DIR (recIx n m)) = 1 && s.rd (CAN_REC_STATE (recIx n m)) = 0 && (s.slotOf n m).isNone
      && s.on FIO_STATUS_OUT_PERMIT then
    (s.canPend n m, .ok)
  else (s.set1 (CAN_ERR_CMD_REJ n), .state)

/-- CAN_TXREQ (R374). -/
def execCanTxreq (n : Fin 4) (m : Fin 128) (s : State) : Out := done (whenLive s fun s => (s.canRequest n m).1)

/-- The start of bus-off recovery (R378). -/
def State.canRecover (s : State) (n : Nat) : State × WRes :=
  if s.rd (CAN_STATUS_STATE n) = 4 then ((s.wr (CAN_STATUS_STATE n) 5).wr (CAN_STATUS_RECOV n) 0, .ok)
  else (s.set1 (CAN_ERR_CMD_REJ n), .state)

/-- CAN_RECOVER (R378). -/
def execCanRecover (n : Fin 4) (s : State) : Out := done (whenLive s fun s => (s.canRecover n).1)

/-- CAN_RECOVERY_DONE (R378): 128 recessive sequences counted. -/
def execCanRecoveryDone (n : Fin 4) (s : State) : Out :=
  done (if s.rd (CAN_STATUS_STATE n) = 5 then
    let s := s.wrAll [(CAN_STATUS_STATE n, 2), (CAN_STATUS_TEC n, 0), (CAN_STATUS_REC n, 0), (CAN_STATUS_RECOV n, 128)]
    (List.range 128).foldl (fun s m =>
      if s.rd (CAN_REC_STATE (recIx n m)) = 2 then
        match s.slotOf n m with
        | some _ => s.wr (CAN_REC_STATE (recIx n m)) 0
        | none => s.canPend n m
      else s) s
  else s)

/-- TX_CLR (R378): every HELD and PENDING event record IDLE. -/
def State.canClear (s : State) (n : Nat) : State :=
  (List.range 128).foldl (fun s m =>
    if s.rd (CAN_REC_STATE (recIx n m)) ≠ 0 && s.rd (CAN_REC_DIR (recIx n m)) = 1 && (s.slotOf n m).isNone then
      s.canLeave n m 0
    else s) s

/-- CAN_TX_CLR (R378). -/
def execCanTxClr (n : Fin 4) (s : State) : Out := done (whenLive s fun s => s.canClear n)

/-! ### Enabling, REFCLK and takeover -/

/-- EN written (R368, R380): 1 starts integration, 0 stops the controller; without REFCLK it stays OFF (R367), and so it does
until a role is taken (R15, R435, R442). -/
def State.canEnable (s : State) (n : Nat) (en : Bool) : State :=
  let was := s.on (CAN_CTRL_EN n)
  let s := s.wrB (CAN_CTRL_EN n) en
  if en = was then s
  else if en && s.on PTU_STATUS_REFCLK_OK && s.works then s.wr (CAN_STATUS_STATE n) 1
  else (s.wr (CAN_STATUS_STATE n) 0).modCan n fun c => { c with arb := [], ahead := [], occ := [] }

/-- A write to a register of the block (R368, R374, R378, R380). -/
def State.writeCan (s : State) (l : RegLoc) (v : Nat) : State × WRes :=
  let n := l.n
  let nm := l.row.name
  if nm = "CAN_CTRL" then
    if bit v 2 && s.rd (CAN_STATUS_STATE n) ≠ 4 then (s.set1 (CAN_ERR_CMD_REJ n), .state)
    else
      let s := ((s.canEnable n (bit v 0)).wrB (CAN_CTRL_LISTEN n) (bit v 1)).updPermit
      let s := if bit v 3 then s.canClear n else s
      if bit v 2 && s.rd (CAN_STATUS_STATE n) = 4 then s.canRecover n else (s, .ok)
  else if nm = "CAN_NBT" then s.draw.canTimingWrite n 0x0C v (Config.freeBool s.free)
  else if nm = "CAN_DBT" then s.draw.canTimingWrite n 0x10 v (Config.freeBool s.free)
  else if nm = "CAN_TDC" then s.draw.canTimingWrite n 0x14 v (Config.freeBool s.free)
  else if nm = "CAN_TXREQ" then s.canRequest n (v % 128)
  else if !l.inRange v then (s.set1 (CAN_ERR_CFG_REJ (if l.row.count = 4 then n else 0)), .range)
  else (s.wrReg l v, .ok)

/-- REFCLK lost: every controller OFF (R367). -/
def State.canClkLoss (s : State) : State :=
  (List.range 4).foldl (fun s n =>
    (s.wr (CAN_STATUS_STATE n) 0).modCan n fun c => { c with arb := [], ahead := [], occ := [] }) s

/-- Every enabled controller integrates: REFCLK is back, or a role has been taken (R367, R435). -/
def State.canClkBack (s : State) : State :=
  if s.on PTU_STATUS_REFCLK_OK && s.works then
    (List.range 4).foldl (fun s n => if s.on (CAN_CTRL_EN n) then s.wr (CAN_STATUS_STATE n) 1 else s) s
  else s

/-- t_drive of the last takeover (R274). -/
def State.driveAt (s : State) : Nat := ((s.now : Int) + diff32 s.ns32 (s.rd PRD_TAKE_T_DRIVE)).toNat

/-- Occurrences due from 20 µs before t_drive on or with an open window, oldest first (R375): slot and instant. -/
def State.takeoverSlots (s : State) (n : Nat) : List (Nat × Nat) :=
  let d := s.driveAt
  let l := (List.range 64).filterMap fun k => (s.slotLast n k d).map fun t => (k, t)
  let l := l.filter fun e => d ≤ e.2 + 20000 || d < e.2 + 1000 * s.rd (CAN_SLOT_WINDOW (slotIx n e.1))
  l.mergeSort fun a b => a.2 ≤ b.2

/-- CAN_TAKEOVER_SEND at t_drive (R375): those occurrences become PENDING, sent in schedule order. One whose window has closed by
t_drive keeps its window open from there (notes/assumptions/27.md). -/
def State.canTakeover (s : State) : State :=
  (List.range 4).foldl (fun s n =>
    if s.canMayTx n then
      let ks := s.takeoverSlots n
      let win := fun (e : Nat × Nat) => 1000 * s.rd (CAN_SLOT_WINDOW (slotIx n e.1))
      let ends := fun (e : Nat × Nat) => if s.driveAt < e.2 + win e then e.2 + win e else s.driveAt + win e
      let os := ks.map fun e => s.slotOcc n e.1 e.2 (ends e)
      let s := os.foldl (fun s o => s.canPend n o.msg) s
      s.modCan n fun c => { c with
        ahead := os.map (·.msg), occ := os
        slotAt := os.foldl (fun l o => aIns o.slot o.t (aDel o.slot l)) c.slotAt }
    else s) s

end Sys2Proof.Machine
end

