-- ==== Sys2Proof/Machine/Real.lean ====
section
/-!
DEFINITION. Machine/Real.lean: the transcendental functions that formulas of the spec name without a precision, on exact
fractions, evaluated in whole numbers of 2^−128 and good to at least 2^−100 near 1 (notes/assumptions/35.md).
-/
namespace Sys2Proof.Machine

/-! ### Fixed-point arithmetic in units of 2^−128 -/

/-- The unit. -/
def fxOne : Int := 2 ^ 128

/-- A fraction in fixed point, and back. -/
def toFx (q : Rat) : Int := (q * (fxOne : Rat)).floor
def ofFx (i : Int) : Rat := (i : Rat) / (fxOne : Rat)

def fxMul (a b : Int) : Int := a * b / fxOne

/-- The root of n by binary digits from bit k − 1 down, r having the digits above. -/
def isqrtGo (n : Nat) : Nat → Nat → Nat
  | 0, r => r
  | k + 1, r => isqrtGo n k (if (r + 2 ^ k) * (r + 2 ^ k) ≤ n then r + 2 ^ k else r)

/-- The whole part of the square root. -/
def isqrt (n : Nat) : Nat := isqrtGo n (Nat.log2 n / 2 + 1) 0

/-- Square root in fixed point; 0 for a negative number. -/
def fxSqrt (a : Int) : Int := isqrt (a.toNat * 2 ^ 128)

/-- The series 1 + x (1 + x/2 (1 + x/3 (…))) to k terms, from term j. -/
def expSeries (x : Int) : Nat → Int → Int
  | 0, _ => fxOne
  | k + 1, j => fxOne + fxMul x (expSeries x k (j + 1)) / j

/-- ln 2 and π. -/
def fxLn2 : Int := 235865763225513294137944142764154484399
def fxPi : Int := 1069028584064966747859680373161870783300

/-- e^x in fixed point, scaled by the power of two beside it. -/
def fxExp (x : Int) : Int × Int :=
  let k := (2 * x + fxLn2) / (2 * fxLn2)
  (expSeries (x - k * fxLn2) 40 1, k)

/-- The series t + t³/3 + t⁵/5 + … of n terms (sgn = 1), or its alternating form (sgn = −1), t² being tt and p the power
next in turn, from term j. -/
def atSeries (sgn tt : Int) : Nat → Int → Int → Int
  | 0, _, _ => 0
  | n + 1, p, j => p / j + atSeries sgn tt n (sgn * fxMul p tt) (j + 2)

/-- Cosine-like series Σ ± x^(2i)/(2i+d)! · d!, from factor j. -/
def trigSeries (xx : Int) : Nat → Int → Int
  | 0, _ => fxOne
  | n + 1, j => fxOne - fxMul xx (trigSeries xx n (j + 2)) / (j * (j + 1))

/-- An angle brought into −π … π. -/
def fxWrap (x : Int) : Int := x - 2 * fxPi * ((x + fxPi) / (2 * fxPi))

/-- Arctangent of 0 … 1 by two halvings of the angle. -/
def fxAtan01 (t : Int) : Int :=
  let half (t : Int) : Int := t * fxOne / (fxOne + fxSqrt (fxOne + fxMul t t))
  let u := half (half t)
  4 * atSeries (-1) (fxMul u u) 32 u 1

/-- Arctangent of y/x for x, y ≥ 0, not both 0. -/
def fxAtanQ (y x : Int) : Int :=
  if y ≤ x then fxAtan01 (y * fxOne / x) else fxPi / 2 - fxAtan01 (x * fxOne / y)

/-! ### The functions -/

/-- π. -/
def realPi : Rat := ofFx fxPi

/-- e^x. -/
def realExp (x : Rat) : Rat :=
  let (m, k) := fxExp (toFx x)
  if 0 ≤ k then ofFx (m * 2 ^ k.toNat) else ofFx m / 2 ^ (-k).toNat

/-- ln x for x > 0: x is m · 2^k with m in 1/2 … 2; 0 otherwise. -/
def realLn (x : Rat) : Rat :=
  if x ≤ 0 then 0
  else
    let k : Int := (Nat.log2 x.num.toNat : Int) - Nat.log2 x.den
    let m := if 0 ≤ k then x / 2 ^ k.toNat else x * 2 ^ (-k).toNat
    let t := toFx ((m - 1) / (m + 1))
    ofFx (2 * atSeries 1 (fxMul t t) 48 t 1 + k * fxLn2)

/-- The square root of x, 0 for x < 0. -/
def realSqrt (x : Rat) : Rat := ofFx (fxSqrt (toFx x))

/-- Sine and cosine. -/
def realSin (x : Rat) : Rat :=
  let a := fxWrap (toFx x)
  ofFx (fxMul a (trigSeries (fxMul a a) 24 2))
def realCos (x : Rat) : Rat :=
  let a := fxWrap (toFx x)
  ofFx (trigSeries (fxMul a a) 24 1)

/-- The angle of the point (x, y), in −π … π; 0 for the origin. -/
def realAtan2 (y x : Rat) : Rat :=
  let a := toFx (absQ y)
  let b := toFx (absQ x)
  if a = 0 && b = 0 then 0
  else
    let t := fxAtanQ a b
    let t := if x < 0 then fxPi - t else t
    ofFx (if y < 0 then -t else t)

end Sys2Proof.Machine
end

