-- ==== Sys2Proof/Machine/Sch.lean ====
section
/-!
DEFINITION. Machine/Sch.lean: the sampling grid, the decimators and the rate tracker, response switching and sweep records
(chapter 3). Numbers that the spec does not list stand in Config (notes/assumptions/13.md).
-/
namespace Sys2Proof.Machine

/-! ### The grid -/

/-- D_n in ns (R67, R491). -/
def respD : Nat → Nat
  | 0 => 375000 | 1 => 750000 | 2 => 1500000 | 3 => 3000000 | 4 => 6000000 | 5 => 12000000 | 6 => 24000000
  | 7 => 48000000 | 8 => 10000000 | 9 => 20000000 | 10 => 40000000 | 11 => 80000000 | 12 => 8333334
  | 13 => 16666667 | 14 => 33333334 | _ => 66666667

/-- The sweep period in ns, and the origin. -/
def State.sweepP (s : State) : Nat := 1000 * s.rd SCH_GRID_PERIOD_PERIOD
def State.gridOrg (s : State) : Nat := 2 ^ 32 * s.rd SCH_GRID_ORIGIN_EPOCH + s.rd SCH_GRID_ORIGIN_NS32

/-- The instant of sweep k (R69). -/
def State.sweepAt (s : State) (k : Nat) : Nat := s.gridOrg + k * s.sweepP

/-- The first k ≥ 0 whose sweep lies after, or at or after, an instant. -/
def State.firstAfter (s : State) (t : Nat) : Nat := if t < s.gridOrg then 0 else (t - s.gridOrg) / s.sweepP + 1
def State.firstFrom (s : State) (t : Nat) : Nat :=
  if t ≤ s.gridOrg then 0 else (t - s.gridOrg + s.sweepP - 1) / s.sweepP

/-- The last k whose sweep lies at or before an instant. -/
def State.lastAt (s : State) (t : Nat) : Option Nat :=
  if t < s.gridOrg then none else some ((t - s.gridOrg) / s.sweepP)

/-- The k of the sweep whose ID is given, near the present (R69). -/
def State.sweepOfId (s : State) (id : Nat) : Nat :=
  let k := (s.lastAt s.now).getD 0
  (k + diff32 k id).toNat

/-- The sample chain runs: in a MONITOR, and in the other roles where the front end is present (R17, R496). -/
def State.chainOn (s : State) : Bool := s.works && (s.start.role = .monitor || s.on CFE_STATUS_PRESENT)

/-! ### Responses -/

def State.modSch (s : State) (f : SchState → SchState) : State := { s with sch := f s.sch }

/-- A response index becomes pending at instant t (R68): sweeps from t + D + 1.1 ms on take it. -/
def State.respWrite (s : State) (idx t : Nat) : State :=
  ((s.wr SCH_RESP_SEL_NEXT idx).wr SCH_STATUS_RESP_PEND 1).modSch fun c =>
    { c with pend := some (idx, t + respD idx + 1100000) }

/-- The response in force for the sweep at an instant (R68). -/
def State.respAt (s : State) (t : Nat) : Nat :=
  match s.sch.pend with
  | some (idx, t0) => if t0 ≤ t then idx else s.rd SCH_STATUS_RESP_ACT
  | none => s.rd SCH_STATUS_RESP_ACT

/-- Sweep k reached by fabric time: a pending response that it takes comes into force, with the ID of the first sweep that
takes it on the present grid (R68); RUN plays no part in it (notes/assumptions/13.md). -/
def State.respSwitch (s : State) (k : Nat) : State :=
  match s.sch.pend with
  | some (idx, t0) =>
    if t0 ≤ s.sweepAt k then
      (s.wrAll [(SCH_STATUS_RESP_ACT, idx), (SCH_STATUS_RESP_PEND, 0), (SCH_RESP_EFF_SWEEP, s.firstFrom t0)]).modSch fun c =>
        { c with pend := none }
    else s
  | none => s

/-- SCH_RESP_SEL_WRITE (R68). -/
def execSchRespSelWrite (idx : Fin 16) (s : State) : Out := done (whenLive s fun s => s.respWrite idx s.now)

/-! ### Sweeps as fabric time reaches them -/

/-- A sweep is produced: RUN = 1, the chain runs, and its instant lies beyond that of the newest sweep produced, so that no
ID is issued twice after a backward step (R71, R78). -/
def State.produces (s : State) (k : Nat) : Bool :=
  s.chainOn && s.on SCH_CTRL_RUN && (match s.sch.newest with | some (_, t) => t < s.sweepAt k | none => true)

/-- Fabric time reaches sweep k: a response may come into force, and the sweep is produced with the response in force. -/
def State.sweepTurn (s : State) (k : Nat) : State :=
  let s := s.respSwitch k
  if s.produces k then
    let s := s.modSch fun c =>
      { c with flight := c.flight ++ [{ k := k, inst := s.sweepAt k, resp := s.rd SCH_STATUS_RESP_ACT }],
               newest := some (k, s.sweepAt k) }
    { s with cfe := { s.cfe with prod := s.cfe.prod + 1 } }
  else s

/-- Fabric time runs from t0 to the present without a step. -/
def State.gridRun (s : State) (t0 : Nat) : State :=
  let a := s.firstAfter t0
  if s.works && (s.on SCH_CTRL_RUN || s.sch.pend.isSome) then
    (List.range (s.firstAfter s.now - a)).foldl (fun s i => s.sweepTurn (a + i)) s
  else s

/-- The instants that the chain holds moved by d ns (R71). -/
def SchState.shift (c : SchState) (d : Int) : SchState :=
  let mv := fun (x : SchSample) => { x with t := x.t + d }
  { c with
    phase := c.phase.map (· + (d : Rat))
    fine := c.fine.map mv
    quick := c.quick.map mv
    marks := c.marks.map fun m => { m with t := m.t + d }
    runs := c.runs.map fun r => (r.1 + d, r.2 + d)
    outages := c.outages.map fun o => (o.1 + d, o.2.map (· + (d : Rat))) }

/-- R71, a step of fabric time from t0 to the present: the chain's history moves along; a forward step skips the sweeps
between, though not one exactly at the present; a backward step to or before the newest sweep holds sweeps. SWEEP_SKIP is
set only while RUN = 1 (notes/assumptions/13.md). -/
def State.schStep (s : State) (t0 : Nat) : State :=
  let t1 := s.now
  let s := s.modSch fun c => c.shift ((t1 : Int) - t0)
  if t0 < t1 then
    let a := s.firstAfter t0
    let b := s.firstFrom t1
    let s := if a < b then s.respSwitch (b - 1) else s
    let s := if a < b && s.on SCH_CTRL_RUN then s.set1 SCH_ERR_SWEEP_SKIP else s
    if s.works && b < s.firstAfter t1 then s.sweepTurn b else s
  else match s.sch.newest with
    | some (_, t) => if t1 ≤ t && s.on SCH_CTRL_RUN then s.set1 SCH_ERR_SWEEP_HELD else s
    | none => s

/-- The gap between two pauses is over: balancing runs again (R56). -/
def State.gapRelease (s : State) : State :=
  if s.cfe.gap then { s.wr CFE_STATUS_BAL_STARVED 0 with cfe := { s.cfe with pause := none, gap := false } } else s

/-- RUN written (R78): sweeps already produced are still published; without RUN no further pause comes, so that balancing
held open for one runs again (R55, R56). -/
def State.schRun (s : State) (run : Bool) : State :=
  let s := s.wrB SCH_CTRL_RUN run
  if run then s else s.gapRelease

/-- SCH_RUN (R78). -/
def execSchRun (run : Bool) (s : State) : Out := done (whenLive s fun s => s.schRun run)

/-! ### The decimators (R64, R75) -/

/-- Whole numbers in the decimators wrap at 64 bits, far beyond their widest output 400^4. -/
def cicMod : Nat := 2 ^ 64

/-- One input through the integrators: each adds what the one before it has become. -/
def integrate : List Nat → Nat → List Nat
  | [], _ => []
  | a :: l, x =>
    let y := (a + x) % cicMod
    y :: integrate l y

/-- One decimated value through the combs: each passes the difference to what it last had. The combs as they become, and the
output. -/
def combs : List Nat → Nat → List Nat × Nat
  | [], x => ([], x)
  | a :: l, x =>
    let (l', y) := combs l ((x + cicMod - a) % cicMod)
    (x :: l', y)

/-- n modulator bits, the lowest of w first, into a decimator. -/
def Cic.push (c : Cic) (n w : Nat) : Cic :=
  { c with integ := (List.range n).foldl (fun l i => integrate l (b2n (w.testBit i))) c.integ }

/-- A decimated output. -/
def Cic.out (c : Cic) : Cic × Nat :=
  let (l, y) := combs c.comb (c.integ.getLastD 0)
  ({ c with comb := l }, y)

/-- Sixteen modulator clocks of every channel, the j-th group of a frame, whose last clock lies at t: one fast value, and a
fine sample every 400 clocks, whose instant is the middle of the 1,600 clocks that its response spans (R64). -/
def SchState.group (c : SchState) (mod : List Nat) (j : Nat) (t : Rat) : SchState :=
  let ws := (List.range 49).map fun n => bits (mod.getD n 0) (16 * j) 16
  let clk := c.clk + 16
  let qs : List (Cic × Nat) := (c.fasts.zip ws).map fun (a, w) => (Cic.push a 16 w).out
  let quick := if 48 ≤ clk then ({ t := t, x := qs.map Prod.snd } : SchSample) :: c.quick else c.quick
  let cs : List Cic := (c.cics.zip ws).map fun (a, w) => Cic.push a 16 w
  let c := { c with clk := clk, fasts := qs.map Prod.fst, quick := quick.take 32768 }
  if clk % 400 = 0 then
    let fs : List (Cic × Nat) := cs.map Cic.out
    let x : SchSample := { t := t - 800 * c.period, x := fs.map Prod.snd }
    { c with cics := fs.map Prod.fst, fine := (if 1600 ≤ clk then x :: c.fine else c.fine).take 2048 }
  else { c with cics := cs }

/-- Codes per volt of a channel's records: Q2.30 for the shunt, Q8.24 for a cell (R76). -/
def chanCodes (ch : Nat) : Rat := if ch = 48 then 1073741824 else 16777216

/-- A channel's whole number in volts: full scale is 400^4 on the fine path and 16^3 on the fast path. -/
def chanVolts (ch full x : Nat) : Rat :=
  let q : Rat := (x : Rat) / full
  if ch = 48 then Config.shuntZero + Config.shuntSpan * q else Config.cellZero + Config.cellSpan * q

/-! ### The rate tracker (R71, R72) -/

/-- The full instant of an NS32 stamp near the present. -/
def State.stampAt (s : State) (t : Nat) : Int := s.now + diff32 s.ns32 t

/-- What a rate tracker makes of a stamp t, `unit` periods being due between neighbouring stamps and `nom` the nominal
period: instant, period and residual, none for the first stamp of an acquisition. Between neighbours the loop closes; after a
gap it re-phases on the stamp; beyond 1 s it begins anew. -/
def rateTrack (unit nom : Rat) (phase : Option Rat) (period t : Rat) : Rat × Rat × Option Rat :=
  match phase with
  | none => (t, nom, none)
  | some p =>
    let n := max 1 (roundQ ((t - p) / (unit * period)))
    let e := t - p - unit * n * period
    if 1000000000 < t - p then (t, nom, none)
    else if n = 1 then (p + unit * period + Config.trkPhase * e, period + Config.trkPeriod * e, some e)
    else (t, period, some e)

/-- The tracker of uplink frames, 64 modulator clocks each. -/
def SchState.tracked (c : SchState) (t : Rat) : Rat × Rat × Option Rat := rateTrack 64 (625 / 2) c.phase c.period t

/-- LOCK and UNLOCK after a frame with residual e (R72), and SCH_TRK. A restart of the acquisition leaves lock too. -/
def State.lockTurn (s : State) (e : Option Rat) : State :=
  match e with
  | none =>
    let was := s.on SCH_STATUS_LOCK
    let s := s.modSch fun c => { c with good := 0, bad := 0 }
    if was then (s.wrB SCH_STATUS_LOCK false).set1 SCH_ERR_UNLOCK else s
  | some e =>
    let e := absQ e
    let g := if e < 100 then s.sch.good + 1 else 0
    let b := if 200 < e then s.sch.bad + 1 else 0
    let s := s.wr SCH_TRK_RESID (min (roundQ e).toNat 0xFFFF)
    let s := s.modSch fun c => { c with good := g, bad := b }
    if s.on SCH_STATUS_LOCK then
      if 4 ≤ b then (s.wrB SCH_STATUS_LOCK false).set1 SCH_ERR_UNLOCK else s
    else if 256 ≤ g then s.wrB SCH_STATUS_LOCK true else s

/-! ### A frame into the chain -/

/-- The bitstreams begin anew: filters empty, and no valid fast value since (R75). -/
def State.fastRestart (s : State) : State :=
  let s := (List.range 49).foldl (fun s n => (s.wr (SCH_FAST_VALUE n) 0x80000000).wr (SCH_FAST_T n) 0) s
  s.modSch fun c =>
    { c with clk := 0, cics := List.replicate 49 (Cic.init 4), fasts := List.replicate 49 (Cic.init 3), fresh := false }

/-- The newest fast value of each channel in SCH_FASTn, with its instant (R75). -/
def State.fastShow (s : State) : State :=
  match s.sch.quick with
  | q :: _ =>
    (List.range 49).foldl (fun s n =>
      let v := roundQ (chanVolts n (16 ^ 3) (q.x.getD n 0) * chanCodes n)
      (s.wr (SCH_FAST_VALUE n) (ofSigned 32 (satSigned 32 v))).wr (SCH_FAST_T n) (q.t.floor % 2 ^ 32).toNat) s
  | [] => s

/-- Modulator clocks of a frame whose start is no restart follow on the run before it; else a new run begins. -/
def joinRun (fresh : Bool) (a b : Rat) : List (Rat × Rat) → List (Rat × Rat)
  | (x, y) :: l => if fresh then (a, b) :: (x, y) :: l else (x, b) :: l
  | [] => [(a, b)]

/-- An open outage ends at an instant (R47). -/
def endOutage (t : Rat) (o : Rat × Option Rat) : Rat × Option Rat := (o.1, some (o.2.getD t))

/-- The charge that the shunt counted and what the engine keeps of the frame (R83): fine samples of the shunt weighted by
tau_fine, in V·ns; nanoseconds for which each switch was closed; a gap where the frame does not follow the one before. -/
def State.cseFrame (s : State) (old : Nat) (a b : Rat) (act : Nat) : State :=
  let gap := match s.cse.seen with | some t => a - t | none => 0
  let gapT := if 10000 < gap then gap else 0
  let tau := 400 * s.sch.period
  let new := s.sch.fine.take (s.sch.fine.length - old)
  let v := new.foldl (fun q (x : SchSample) => q + chanVolts 48 (400 ^ 4) (x.x.getD 48 0) * tau) (0 : Rat)
  let s := { s with cse := { s.cse with
    charge := s.cse.charge + v, seen := some b, gapNs := s.cse.gapNs + gapT, gapRun := 0,
    balNs := (List.range 48).map fun k => s.cse.balNs.getD k 0 + (if act.testBit k then b - a else 0) } }
  if 1000000 < s.cse.gapRun + gapT then s.set1 CSE_ERR_GAP else s

/-- An instant in ns moved by a step of d ns. -/
def moved (d : Int) (t : Nat) : Nat := ((t : Int) + d).toNat

/-- The instants that the engine holds moved by a step of fabric time, so that its spans stay true (notes/assumptions/17.md). -/
def CseState.shift (c : CseState) (d : Int) : CseState :=
  { c with
    lastT := c.lastT.map (moved d), seen := c.seen.map (· + (d : Rat)), hibAt := c.hibAt.map (moved d),
    cells := c.cells.map fun k => { k with anchors := k.anchors.map fun a => { a with t := moved d a.t } } }

/-- A valid uplink frame stamped t in the chain (R64, R72, R75): the tracker places it, and its bits pass the filters.
`next` says that its FRAME_SEQ follows that of the last valid frame. -/
def State.schFrame (s : State) (t : Rat) (seq act idx code : Nat) (mod : List Nat) : State :=
  let (p, per, e) := s.sch.tracked t
  let gap := match s.sch.phase with | some p0 => 30000 < t - p0 | none => true
  let fresh := s.sch.fresh || gap || seq ≠ (s.sch.seq + 1) % 256
  let s := if fresh then s.fastRestart else s
  let s := s.lockTurn e
  let a := p - 64 * per
  let s := s.modSch fun c =>
    { c with phase := some p, period := per, seq := seq, runs := (joinRun fresh a p c.runs).take 4096,
             outages := c.outages.map (endOutage a),
             marks := ({ t := p, act := act, idx := idx, code := code } :: c.marks).take 16384 }
  let s := s.wrS SCH_TRK_RATE (satSigned 16 (roundQ ((625 / 2 / per - 1) * 1000000)))
  let old := s.sch.fine.length
  let s := s.modSch fun c =>
    (List.range 4).foldl (fun c j => c.group mod j (p - (48 - 16 * (j : Rat)) * per)) c
  (if 48 ≤ s.sch.clk then s.fastShow else s).cseFrame old a p act

/-! ### Records -/

/-- One record of R76. -/
def sweepRec (value flags resp kind k : Nat) : Nat :=
  value % 2 ^ 32 + flags <<< 32 + resp <<< 40 + kind <<< 44 + (k % 2 ^ 16) <<< 48

/-- Switch k − 1, k or k + 1 is in a mask (R57). -/
def nearMask (m k : Nat) : Bool := m.testBit k || m.testBit (k + 1) || (k ≠ 0 && m.testBit (k - 1))

/-- The prototype of response n at an offset u in fine samples, interpolated between its stored phases (R65). -/
def firAt (n : Nat) (u : Rat) : Rat :=
  let x := absQ u * 1024
  let m := x.floor
  let w := x - m
  (1 - w) * Config.firCoef n m.toNat + w * Config.firCoef n (m.toNat + 1)

/-- R65: the sum over the fine samples whose own responses lie in the window S − D to S + D (R66). -/
def SchState.fineValue (c : SchState) (e : SchDue) (ch : Nat) : Rat :=
  let tau := 400 * c.period / 1000000000
  let d : Rat := respD e.resp
  let half := 800 * c.period
  c.fine.foldl (fun (q : Rat) x =>
    if absQ (x.t - e.inst) + half ≤ d then
      q + chanVolts ch (400 ^ 4) (x.x.getD ch 0) * firAt e.resp ((e.inst - x.t) / (400 * c.period)) * tau
    else q) 0

/-- The fast value nearest S (R77). -/
def SchState.nearest (c : SchState) (t : Rat) : Option SchSample :=
  c.quick.foldl (fun b x =>
    match b with
    | some y => if absQ (x.t - t) < absQ (y.t - t) then some x else b
    | none => some x) none

/-- What the frames received say of a sweep: in an outage of R47; modulator bits within 20 µs of S; the whole window in one
run; the switches reported closed by any frame with bits of the window. -/
structure SweepFacts where
  out    : Bool
  near   : Bool
  whole  : Bool
  closed : Nat

def SchState.facts (c : SchState) (e : SchDue) : SweepFacts :=
  let t : Rat := e.inst
  let lo := t - respD e.resp
  let hi := t + respD e.resp
  { out := c.outages.any fun o => o.1 ≤ t && (match o.2 with | some b => t < b | none => true)
    near := c.runs.any fun r => r.1 ≤ t + 20000 && t - 20000 ≤ r.2
    whole := c.runs.any fun r => r.1 ≤ lo && hi ≤ r.2
    closed := c.marks.foldl (fun m x => if x.t - 64 * c.period < hi && lo < x.t then m ||| x.act else m) 0 }

/-- The range of R36 in units of 2^−24 V for a cell and 2^−30 V for the shunt. -/
def chanLo (ch : Nat) : Int := if ch = 48 then -343597384 else -3355443
def chanHi (ch : Nat) : Int := if ch = 48 then 343597384 else 83886080

/-- The record of a cell (0–47) or of the shunt (48): BAD, COARSE or fine by R77, UNLOCKED, CLIPPED and BAL_ON added. Where
a COARSE record finds no valid fast value it is BAD (notes/assumptions/13.md). -/
def State.chanRec (s : State) (q : SweepFacts) (e : SchDue) (paused : Bool) (ch : Nat) : Nat :=
  let near := s.sch.nearest e.inst
  let coarse := !q.whole
  let bad := q.out || !q.near || (coarse && near.isNone)
  let volts : Rat :=
    match near with
    | some x => if coarse then chanVolts ch (16 ^ 3) (x.x.getD ch 0) else s.sch.fineValue e ch
    | none => s.sch.fineValue e ch
  let v := roundQ (volts * chanCodes ch)
  let clip := !bad && (v < chanLo ch || chanHi ch < v)
  let flags := b2n bad + 2 * b2n (!bad && coarse) + 4 * b2n (ch < 48 && !paused && nearMask q.closed ch) +
    16 * b2n (!s.on SCH_STATUS_LOCK) + 32 * b2n clip
  sweepRec (if bad then 0 else ofSigned 32 (clampI (chanLo ch) (chanHi ch) v)) flags e.resp (if ch = 48 then 2 else 0) e.k

/-- The newest scan of thermistor n at or before S (R77). -/
def SchState.scan (c : SchState) (n : Nat) (t : Rat) : Option SchMark := c.marks.find? fun m => m.idx = n && m.t ≤ t

/-- The record of thermistor n (R77). It carries UNLOCKED as the others do (notes/assumptions/13.md). -/
def State.thermRec (s : State) (q : SweepFacts) (e : SchDue) (n : Nat) : Nat :=
  let m := s.sch.scan n e.inst
  let old := match m with | some x => 345000 < (e.inst : Rat) - x.t | none => true
  let bad := q.out || old || (s.rd CFE_CMP_OT_FAULT).testBit n
  sweepRec (if bad then 0 else match m with | some x => x.code % 65536 | none => 0)
    (b2n bad + 16 * b2n (!s.on SCH_STATUS_LOCK)) e.resp 1 e.k

/-- The 65 records of a sweep in order: cells, thermistors, shunt (R76). -/
def State.sweepRecs (s : State) (e : SchDue) (paused : Bool) : List Nat :=
  let q := s.sch.facts e
  (List.range 48).map (s.chanRec q e paused) ++ (List.range 16).map (s.thermRec q e) ++ [s.chanRec q e paused 48]

/-- The sweep payload of R76: 17 Pip blocks. -/
def sweepPayload (id : Nat) (recs : List Nat) : Bytes :=
  slice (bytesOf 8 (id % 2 ^ 32 + 65 <<< 32) ++ recs.flatMap (bytesOf 8)) 0 544

/-- The publish instant S + D_n + 50 µs (R70). -/
def SchDue.due (e : SchDue) : Nat := e.inst + respD e.resp + 50000

/-- The sweep whose publish instant comes first. -/
def firstDue : List SchDue → Option SchDue
  | [] => none
  | e :: l =>
    match firstDue l with
    | some x => if x.due < e.due then some x else some e
    | none => some e

/-- The sweep to be published now: the first due, once its publish instant has come. -/
def State.sweepDue (s : State) : Option SchDue :=
  match firstDue s.sch.flight with
  | some e => if e.due ≤ s.now then some e else none
  | none => none

/-- SWEEP_PUBLISH (R70, R76, R77). -/
def execSweepPublish (s : State) : Out :=
  done (match s.works, s.sweepDue with
    | true, some e =>
      let recs := s.sweepRecs e (s.cfe.paused.contains e.k)
      let s := { s with
        cfe := { s.cfe with paused := s.cfe.paused.filter (· ≠ e.k) }
        sch := { s.sch with flight := s.sch.flight.erase e, last := some e.k, records := recs, prevRecs := s.sch.records } }
      let s := { s with cse := { s.cse with since := s.cse.since + 1 } }
      let s := s.wr SCH_SWEEP_ID_ID e.k
      let s := if recs.any (fun r => r.testBit 33) then s.satInc SCH_QUAL_CNT_COARSE_CNT else s
      let s := if recs.any (fun r => r.testBit 32) then s.satInc SCH_QUAL_CNT_BAD_CNT else s
      if recs.any (fun r => r.testBit 37) then s.set1 SCH_ERR_CLIP else s
    | _, _ => s)

/-- A record of the last published sweep: its BAD, COARSE flags and its value. -/
def State.recOf (s : State) (i : Nat) : Nat := s.sch.records.getD i (2 ^ 32)
def recBad (r : Nat) : Bool := r.testBit 32
def recCoarse (r : Nat) : Bool := r.testBit 33
def recVal (r : Nat) : Nat := r % 2 ^ 32

/-- (DIV + 1) × P is at least 10 ms, as R82 and R119 ask of updates and epochs; P in µs. -/
def cadenceOk (div p : Nat) : Bool := 10000 ≤ (div + 1) * p

/-- A fusion period of (div + 1) × p µs outside 10 to 1,000 ms, or a publish offset that it has no room for (R128, R129). -/
def fusBadTime (div p off : Nat) : Bool :=
  let tf := (div + 1) * p
  tf < 10000 || 1000000 < tf || off < 1000 || tf < off + 1000

/-- The helm's period and offsets hold (R174, R175): release, deadline, command and fusion publish offset and the fusion period in µs. -/
def helmTimeOk (rel dl cmd hdiv off tf : Nat) : Bool :=
  let th := (hdiv + 1) * tf
  10000 ≤ th && th ≤ 1000000 && off + 100 ≤ rel && dl + 200 ≤ cmd && cmd + 500 ≤ th

/-- A grid period or fusion offset that a running helm's offsets do not allow (R174, R175; notes/assumptions/22.md). -/
def State.helmRefuses (s : State) (div p off : Nat) : Bool :=
  s.on HLM_CTRL_RUN && !helmTimeOk (s.rd HLM_TIME_CFG_QP_REL) (s.rd HLM_TIME_CFG_QP_DL) (s.rd HLM_TIME_CFG_CMD_OFF) (s.rd HLM_TIME_CFG_HDIV)
    off ((div + 1) * p)

/-- A write to a register of the block (R78). While RUN = 1 the grid is refused whatever its value (R307); a period
too short for the updates or the epochs of an engine that runs is refused too (R82, R119, R128; notes/assumptions/13.md). -/
def State.writeSch (s : State) (l : RegLoc) (v : Nat) : State × WRes :=
  if (l.row.name = "SCH_GRID_PERIOD" || l.row.name = "SCH_GRID_ORIGIN") && s.on SCH_CTRL_RUN then
    (s.set1 SCH_ERR_CFG_REJ, .state)
  else if !l.inRange v then (s.set1 SCH_ERR_CFG_REJ, .range)
  else if l.row.name = "SCH_GRID_PERIOD" && s.on CSE_CTRL_RUN && !cadenceOk (s.rd CSE_CTRL_DIV) v then
    ((s.set1 SCH_ERR_CFG_REJ).set1 CSE_ERR_CFG_REJ, .range)
  else if l.row.name = "SCH_GRID_PERIOD" && s.on GNB_CTRL_RUN && !cadenceOk (s.rd GNB_MEAS_CFG_MDIV) v then
    ((s.set1 SCH_ERR_CFG_REJ).set1 GNB_ERR_CFG_REJ, .range)
  else if l.row.name = "SCH_GRID_PERIOD" && s.on FUS_CTRL_RUN && fusBadTime (s.rd FUS_CYCLE_CFG_FDIV) v (s.rd FUS_CYCLE_CFG_PUB_OFF) then
    ((s.set1 SCH_ERR_CFG_REJ).set1 FUS_ERR_CFG_REJ, .range)
  else if l.row.name = "SCH_GRID_PERIOD" && s.helmRefuses (s.rd FUS_CYCLE_CFG_FDIV) v (s.rd FUS_CYCLE_CFG_PUB_OFF) then
    ((s.set1 SCH_ERR_CFG_REJ).set1 HLM_ERR_CFG_REJ, .range)
  else if l.row.name = "SCH_CTRL" then (s.schRun (bit v 0), .ok)
  else if l.row.name = "SCH_RESP_SEL" then (s.respWrite (v % 16) s.now, .ok)
  else (s.wrReg l v, .ok)

end Sys2Proof.Machine
end

