-- ==== Sys2Proof/Machine/Cfe.lean ====
section
/-!
DEFINITION. Machine/Cfe.lean: the cell front end, its isolated link and balancing (chapter 2). The front end's own
side is `s.cfe.fe`. Instants such as a lease's end are events of their own; nothing here measures them.
-/
namespace Sys2Proof.Machine

def State.modCfe (s : State) (f : CfeState → CfeState) : State := { s with cfe := f s.cfe }
def State.modFe (s : State) (f : CfeFe → CfeFe) : State := { s with cfe := { s.cfe with fe := f s.cfe.fe } }

/-! ### Frames -/

/-- The 136 bits of a downlink frame below its CRC (R41). -/
def cfeDownNum (f : CfeDown) : Nat :=
  f.sync + f.cnt <<< 8 + f.bal <<< 24 + f.op <<< 72 + f.addr <<< 80 + f.data <<< 88 + f.rsv <<< 120

/-- The CRC that R41 and R43 give a downlink frame. -/
def cfeDownCrc (f : CfeDown) : Nat := crc8 (cfeDownNum f) 8 120

/-- The frame with its CRC. -/
def cfeDownSeal (f : CfeDown) : CfeDown := { f with crc := cfeDownCrc f }

/-- The modulator bits of an uplink frame as one number, channel 0 lowest (R42). -/
def modNum : List Nat → Nat
  | [] => 0
  | w :: l => w % 2 ^ 64 + modNum l <<< 64

/-- The 3,224 bits of an uplink frame below its CRC (R42). -/
def cfeUpNum (f : CfeUp) : Nat :=
  f.sync + f.seq <<< 8 + f.echo <<< 16 + f.word <<< 32 + f.auxIdx <<< 64 + f.aux <<< 68 + f.rsv <<< 84 + modNum f.mod <<< 88

/-- The CRC that R42 and R43 give an uplink frame. -/
def cfeUpCrc (f : CfeUp) : Nat := crc8 (cfeUpNum f) 8 3216

/-- The frame with its CRC. -/
def cfeUpSeal (f : CfeUp) : CfeUp := { f with crc := cfeUpCrc f }

/-- A frame as the front end forms it: its SYNC, and its CRC right (R42, R43). -/
def goodUp (f : CfeUp) : Bool := f.sync = 0xC3 && f.crc = cfeUpCrc f

/-- The numbers that STATUS is made of. -/
def statNums (f : CfeStat) : List Nat :=
  [f.state, f.ov, f.uv, f.ot, f.act, b2n f.dieHot, b2n f.wake, f.rejects, b2n f.syncRej, b2n f.adjRej, b2n f.por, f.wakeSrc] ++
    (f.firstCh.map (· + 1)).toList ++ [256] ++ f.rd.toList

/-- The word of an HV-held register by its index: 0x0A, 0x0B, 0x0C (R41). -/
def State.hvShadow (s : State) (idx : Nat) : Nat := s.word (0x40000000 + 4 * idx)

/-- A write is unconfirmed (R48). -/
def CfeState.hvPending (c : CfeState) : Bool :=
  !c.queue.isEmpty || (match c.op with | some o => o.write | none => false)

/-- CFE_STATUS.HV_PENDING brought up to date. -/
def State.updHv (s : State) : State := s.wrB CFE_STATUS_HV_PENDING s.cfe.hvPending

/-! ### Masks (R51, R55, R56) -/

/-- The phase of an instant: true for an odd phase. Phases are counted from the grid origin, negative ones too. -/
def State.oddPhase (s : State) : Bool :=
  let len : Int := 10000000 * s.rd CFE_BAL_CFG_PHASE_LEN
  (((s.now : Int) - s.gridOrg) / len) % 2 ≠ 0

/-- The phase of the present (R51), as fabric time has been set. -/
def State.phaseNow (s : State) : State := s.modCfe fun c => { c with odd := s.oddPhase }

/-- The requested switches of a phase (R51). -/
def phaseMask (req : Nat) (odd : Bool) : Nat :=
  (List.range 48).foldl (fun m k =>
    let nb := req.testBit (k + 1) || (k ≠ 0 && req.testBit (k - 1))
    if req.testBit k && (!nb || (k % 2 = 1) = odd) then m + 2 ^ k else m) 0

/-- The mask of the next command frame: zero in a pause, before a role is taken and in Bulb mode, and while rewrites are
unconfirmed (R48, R442). -/
def State.balMask (s : State) : Nat :=
  if s.cfe.pause.isSome || s.cfe.rewriting ≠ 0 || !s.works then 0
  else phaseMask (s.rd CFE_BAL_REQ_REQ) s.cfe.odd

/-- Two adjacent bits are set (R52). -/
def adjacent (m : Nat) : Bool := m &&& (m >>> 1) ≠ 0

/-- The switches that the front end lets close under a mask (R53, R54). -/
def CfeFe.allowed (f : CfeFe) (m : Nat) : Nat :=
  if f.dieHot || f.ot &&& (f.ntc >>> 16) ≠ 0 then 0
  else (List.range 48).foldl (fun r k =>
    if m.testBit k && !f.uv.testBit k && !f.ovr.testBit k then r + 2 ^ k else r) 0

/-! ### The logic side -/

/-- Synchronising frames begin, with one counter value for all of them (R45; notes/assumptions/14.md); frames that resume
after them restart the bitstreams (R75). -/
def State.cfeSync (s : State) : State :=
  (s.modCfe fun c => { c with syncing := true, mism := 0, cnt := (c.cnt + 1) % 65536, op := none }).modSch fun c =>
    { c with fresh := true }

/-- A downlink frame leaves at the present instant: 136 bits at 50 Mbit/s end 2.72 µs later (R41, R45). -/
def State.cfeSend (s : State) (f : CfeDown) : State :=
  s.modCfe fun c =>
    { c with down := some (cfeDownSeal f), cnt := f.cnt, ends := ((f.cnt, (s.now : Int) + 2720) :: c.ends).take 8 }

/-- The operation that the next command frame carries: one not yet sent, the next write, or the next comparison
(R48). -/
def CfeState.nextOp (c : CfeState) : HeldOp × List (Nat × Nat) :=
  match c.op, c.queue with
  | some o, q => (o, q)
  | none, (i, d) :: q => ({ write := true, idx := i, data := d, cnt := none }, q)
  | none, [] => ({ write := false, idx := c.scan, data := 0, cnt := none }, [])

/-- CFE_DOWNLINK_SEND (R41, R45, R48). -/
def execCfeDownlinkSend (s : State) : Out :=
  done (whenLive s fun s =>
    if !s.on CFE_CTRL_ENABLE then s.modCfe fun c => { c with down := none }
    else if s.cfe.syncing then
      s.cfeSend { sync := 0x5A, cnt := s.cfe.cnt, bal := 0, op := 0, addr := 0, data := 0, rsv := 0, crc := 0 }
    else
      let n := (s.cfe.cnt + 1) % 65536
      let f : CfeDown :=
        { sync := 0xA5, cnt := n, bal := s.balMask, op := 0, addr := 0, data := 0, rsv := 0, crc := 0 }
      match s.cfe.stateOp with
      | some o => (s.cfeSend { f with op := o }).modCfe fun c => { c with stateOp := none }
      | none =>
        let (o, q) := s.cfe.nextOp
        if o.cnt = none then
          (s.cfeSend { f with op := if o.write then 1 else 2, addr := o.idx, data := o.data }).modCfe fun c =>
            { c with op := some { o with cnt := some n }, queue := q }
        else s.cfeSend f)

/-- HV_RESEND (R48): the operation goes again in the next frame. -/
def execHvResend (s : State) : Out :=
  done (whenLive s fun s => s.modCfe fun c => { c with op := c.op.map fun o => { o with cnt := none } })

/-- A write to an HV-held register (R40, R48, R63). -/
def State.hvWrite (s : State) (l : RegLoc) (v : Nat) : State × WRes :=
  if !l.inRange v || (l.row.name = "CFE_CELL_LIM" && 200 + bits v 0 9 ≤ 50 + bits v 16 9) then
    (s.set1 CFE_ERR_CFG_REJ, .range)
  else
    let s := s.wrReg l v
    let idx := (l.base - 0x40000000) / 4
    if s.on CFE_STATUS_LINK then
      ((s.modCfe fun c => { c with queue := c.queue ++ [(idx, s.hvShadow idx)] }).updHv, .ok)
    else (s.set1 CFE_ERR_WR_DROPPED, .ok)

/-- HV_WRITE (R48): register `r` 0 CFE_CELL_LIM, 1 CFE_NTC_LIM, 2 CFE_SNOW_CFG. -/
def execHvWrite (r : Fin 3) (v : BitVec 32) (s : State) : Out :=
  done (whenLive s fun s =>
    match findReg (0x40000028 + 4 * r.val) with
    | some l => (s.hvWrite l v.toNat).1
    | none => s)

/-- CFE_CTRL.ENABLE written (R45, R63). -/
def State.cfeEnable (s : State) (b : Bool) : State :=
  let was := s.on CFE_CTRL_ENABLE
  let s := s.wrB CFE_CTRL_ENABLE b
  if b && !was then
    s.cfeSync.modCfe fun c =>
      { c with odd := s.oddPhase, pause := none, gap := false, prod := 0, stateOp := none, rewriting := 3 }
  else if !b then s.modCfe fun c => { c with syncing := false, stateOp := none, op := none }
  else s

/-- CFE_ENABLE (R63). -/
def execCfeEnable (on : Bool) (s : State) : Out := done (whenLive s fun s => s.cfeEnable on)

/-- A state command: its opcode is sent, in ACTIVE only (R63), which is judged by the state last reported, that of a lost
link too (notes/assumptions/14.md). -/
def State.cfeStateCmd (s : State) (op : Nat) : State × WRes :=
  if s.rd CFE_STATUS_HV_STATE = 2 then (s.modCfe fun c => { c with stateOp := some op }, .ok)
  else (s.set1 CFE_ERR_CMD_REJ, .state)

/-- SNOW_ENTER (R63). -/
def execSnowEnter (s : State) : Out := done (whenLive s fun s => (s.cfeStateCmd 0x10).1)

/-- HIB_ENTER (R63). -/
def execHibEnter (s : State) : Out := done (whenLive s fun s => (s.cfeStateCmd 0x11).1)

/-- Requests written: the lease starts afresh, and channels off by over-current are released (R50, R53). -/
def State.balReq (s : State) (req : Nat) : State :=
  (s.wr CFE_BAL_REQ_REQ req).modFe fun f => { f with ovr := 0 }

/-- BAL_REQ_WRITE (R50). -/
def execBalReqWrite (req : BitVec 48) (s : State) : Out := done (whenLive s fun s => s.balReq req.toNat)

/-- BAL_LEASE_EXPIRY (R50). -/
def execBalLeaseExpiry (s : State) : Out := done (whenLive s fun s => s.wr CFE_BAL_REQ_REQ 0)

/-- BAL_PHASE_CHANGE (R51). -/
def execBalPhaseChange (s : State) : Out := done (whenLive s fun s => s.modCfe fun c => { c with odd := !c.odd })

/-- Sweep k, still to come, is one that balancing pauses for: of the sweeps produced since ENABLE was set, the first and then
every (MEAS_DIV + 1)-th (R55). -/
def State.pausesFor (s : State) (k : Nat) : Bool :=
  let n := s.firstAfter s.now
  n ≤ k && (s.cfe.prod + (k - n)) % (s.rd CFE_MEAS_CFG_MEAS_DIV + 1) = 0

/-- MEAS_PAUSE_OPEN (R55): the T_open of the sweep whose ID is `sweep`. Where no pause is taken at the T_open of a sweep due
for one, balancing that was held open for it runs again (R56). -/
def execMeasPauseOpen (sweep : BitVec 32) (s : State) : Out :=
  done (whenWorks s fun s =>
    let k := s.sweepOfId sweep.toNat
    if s.pausesFor k then
      if s.on CFE_MEAS_CFG_PAUSE_EN && s.on SCH_CTRL_RUN && s.chainOn then
        s.modCfe fun c => { c with pause := some (k, respD (s.respAt (s.sweepAt k))), gap := false, paused := c.paused ++ [k] }
      else s.gapRelease
    else s)

/-- T_open of the next paused sweep after sweep k, whose D is d, lies no more than 40 µs after T_close of k (R56). -/
def State.balStarved (s : State) (k d : Nat) : Bool :=
  let k' := k + s.rd CFE_MEAS_CFG_MEAS_DIV + 1
  let close : Int := s.sweepAt k + d + 50000
  let open' : Int := (s.sweepAt k' : Int) - respD (s.respAt (s.sweepAt k')) - 1000 * s.rd CFE_MEAS_CFG_SETTLE
  s.on CFE_MEAS_CFG_PAUSE_EN && s.on SCH_CTRL_RUN && open' ≤ close + 40000

/-- MEAS_PAUSE_CLOSE (R55, R56): T_close of the pause that is open. -/
def execMeasPauseClose (s : State) : Out :=
  done (whenWorks s fun s =>
    match s.cfe.pause with
    | some (k, d) =>
      let b := s.balStarved k d
      (s.wrB CFE_STATUS_BAL_STARVED b).modCfe fun c => { c with pause := if b then c.pause else none, gap := b }
    | none => s)

/-- A bitmap of flags taken over from the uplink, every change logged as kind 2 (R490). -/
def State.takeFlags (s : State) (f : Fld) (idx new : Nat) : State :=
  let old := s.rd f
  (List.range f.width).foldl (fun s k =>
    if old.testBit k = new.testBit k then s
    else s.stateLog 0 idx k (b2n (old.testBit k)) (b2n (new.testBit k)) 0) (s.wr f new)

/-- An outstanding operation confirmed by an echo (R48). What a read gives is compared only while no write waits. -/
def State.hvConfirm (s : State) (f : CfeUp) : State :=
  match s.cfe.op with
  | some o =>
    match o.cnt with
    | some c =>
      if (f.echo + 65536 - c) % 65536 < 32768 then
        let s := s.modCfe fun c => { c with op := none }
        if o.write then (s.modCfe fun c => { c with rewriting := c.rewriting - 1 }).updHv
        else if s.cfe.hvPending then s
        else
          let s := s.modCfe fun c => { c with scan := if c.scan = 0x0C then 0x0A else c.scan + 1 }
          match f.stat.rd with
          | some v =>
            if v = s.hvShadow o.idx then s
            else
              ((s.set1 CFE_ERR_HV_MISMATCH).modCfe fun c =>
                { c with queue := c.queue ++ [(o.idx, s.hvShadow o.idx)] }).updHv
          | none => s
      else s
    | none => s
  | none => s

/-- CMD_CNT of the last two frames whose ends precede an instant (R45). -/
def CfeState.sentBefore (c : CfeState) (t : Int) : List Nat := ((c.ends.filter fun e => e.2 < t).map (·.1)).take 2

/-- The echo of an uplink frame that began at t (R45): the end of synchronising, or a mismatch. -/
def State.cfeEcho (s : State) (echo : Nat) (t : Int) : State :=
  if s.cfe.syncing then
    if echo = s.cfe.cnt then
      (s.modCfe fun c =>
        { c with syncing := false, mism := 0, op := none, rewriting := 3,
                 queue := [0x0A, 0x0B, 0x0C].map fun i => (i, s.hvShadow i) }).updHv
    else s
  else if (s.cfe.sentBefore t).contains echo then s.modCfe fun c => { c with mism := 0 }
  else if s.cfe.mism = 0 then s.modCfe fun c => { c with mism := 1 }
  else if s.on CFE_CTRL_ENABLE then s.cfeSync else s

/-- The reports in STATUS (R44, R45, R52, R49, R59). Where no channel breached, FIRST_CH stays as it is
(notes/assumptions/14.md). -/
def State.cfeReports (s : State) (f : CfeStat) : State :=
  let s := if f.rejects ≠ 0 then (s.set1 CFE_ERR_DOWN_REJ).satAdd CFE_LINK_ERRCNT_DOWN_REJ_CNT f.rejects else s
  let s := if f.syncRej then s.set1 CFE_ERR_SYNC_IN_ACTIVE else s
  let s := if f.adjRej then s.set1 CFE_ERR_ADJ_REJ else s
  let s := if f.por then s.errLog CFE_ERR_HV_POR 0 else s
  let s := [CFE_WAKE_SRC_CELL_OV, CFE_WAKE_SRC_CELL_UV, CFE_WAKE_SRC_NTC_OT, CFE_WAKE_SRC_PERIODIC,
    CFE_WAKE_SRC_SHUNT].foldl (fun s w => if f.wakeSrc.testBit w.lo then s.set1 w else s) s
  match f.firstCh with
  | some c => s.wr CFE_WAKE_SRC_FIRST_CH c
  | none => s

/-- The thermistor FAULT flag that a ratio code gives (R37). -/
def auxFault (code : Nat) : Bool := 65000 < code || code < 500

/-- CFE_UPLINK_RECEIVE (R42 to R48, R63, R72, R75, R83): a frame with the instant of its start, the arrival stamp less the
fixed uplink latency. A frame that is not good is discarded whole and counted. -/
def execCfeUplinkReceive (f : CfeUp) (t : BitVec 32) (s : State) : Out :=
  done (whenLive s fun s =>
    if !goodUp f then (s.set1 CFE_ERR_UP_CRC).satInc CFE_LINK_ERRCNT_UP_CRC_CNT
    else
      let st := f.stat
      let t := s.stampAt t.toNat
      let s := s.wrAll [(CFE_STATUS_LINK, 1), (CFE_STATUS_PRESENT, 1), (CFE_STATUS_HV_STATE, st.state),
        (CFE_STATUS_DIE_HOT, b2n st.dieHot), (CFE_STATUS_WAKE, b2n st.wake), (CFE_BAL_ACT_ACT, st.act)]
      let s := s.cfeReports st
      let s := (s.takeFlags CFE_CMP_OV_OV 0 st.ov).takeFlags CFE_CMP_UV_UV 1 st.uv
      let flt := s.rd CFE_CMP_OT_FAULT
      let flt' := flt - (if flt.testBit f.auxIdx then 2 ^ f.auxIdx else 0) + b2n (auxFault f.aux) * 2 ^ f.auxIdx
      let s := (s.takeFlags CFE_CMP_OT_OT 2 st.ot).takeFlags CFE_CMP_OT_FAULT 3 flt'
      let s := ((s.hvConfirm f).cfeEcho f.echo t).modCfe fun c => { c with up := some f }
      let s := if s.works then s.schFrame t f.seq st.act f.auxIdx f.aux f.mod else s
      if st.state = 3 || st.state = 4 then s.cfeEnable false else s)

/-- CFE_LINK_LOST (R47): 100 µs of fabric time without a valid uplink frame. The outage counts from the end of the last valid
frame. LINK_LOST is set where LINK was 1 (notes/assumptions/14.md). -/
def execCfeLinkLost (s : State) : Out :=
  done (whenLive s fun s =>
    if s.on CFE_STATUS_LINK then
      let s := (s.wr CFE_STATUS_LINK 0).errLog CFE_ERR_LINK_LOST 0
      let s := s.modSch fun c =>
        { c with fresh := true, outages := ((c.phase.map fun p => (p, none)).toList ++ c.outages).take 64 }
      if s.on CFE_CTRL_ENABLE then s.cfeSync else s
    else s)

/-- A write to a register of the block (R63). A state command that the state does not allow refuses the whole write (R11); of
SNOW_ENTER and HIB_ENTER written together the second is sent (notes/assumptions/14.md). -/
def State.writeCfe (s : State) (l : RegLoc) (v : Nat) : State × WRes :=
  if l.row.name = "CFE_CTRL" then
    if bit v 2 || bit v 1 then
      match s.cfeStateCmd (if bit v 2 then 0x11 else 0x10) with
      | (s', .ok) =>
        let op := s'.cfe.stateOp
        ((s'.cfeEnable (bit v 0)).modCfe fun c => { c with stateOp := if bit v 0 then op else none }, .ok)
      | r => r
    else (s.cfeEnable (bit v 0), .ok)
  else if l.row.name = "CFE_BAL_REQ" then (s.balReq (v % 2 ^ 48), .ok)
  else if l.row.name = "CFE_CELL_LIM" || l.row.name = "CFE_NTC_LIM" || l.row.name = "CFE_SNOW_CFG" then s.hvWrite l v
  else if !l.inRange v then (s.set1 CFE_ERR_CFG_REJ, .range)
  else
    let s := s.wrReg l v
    let s := if l.row.name = "CFE_BAL_CFG" then s.phaseNow else s
    (if s.on CFE_MEAS_CFG_PAUSE_EN then s else s.gapRelease, .ok)

/-- A step of fabric time by d ns: the ends of sent frames move along, and the phase is that of the present (R51). -/
def State.cfeStep (s : State) (d : Int) : State :=
  (s.modCfe fun c => { c with ends := c.ends.map fun e => (e.1, e.2 + d) }).phaseNow

/-! ### The front end -/

/-- A downlink frame discarded: counted where an uplink frame will report it (R44). -/
def State.feDiscard (s : State) : State :=
  if s.cfe.fe.st = 1 || s.cfe.fe.st = 2 then s.modFe fun f => { f with rejects := f.rejects + 1 } else s

/-- Whether a command frame is accepted (R44). -/
def CfeFe.accepts (fe : CfeFe) (f : CfeDown) : Bool :=
  fe.st = 2 && f.sync = 0xA5 && f.crc = cfeDownCrc f && (f.op ∈ [0x00, 0x01, 0x02, 0x10, 0x11]) &&
  f.cnt = (fe.cnt + 1) % 65536

/-- The front end in another state, every switch open (R49). -/
def CfeFe.enter (fe : CfeFe) (st : Nat) : CfeFe := { fe with st := st, sw := 0 }

/-- The opcode of an accepted frame (R41, R48, R49). In SNOWDROP and HIBERNATE the OV, UV and OT flags stay as they stood, and
the count of checks for WAKE_EVERY begins anew (notes/assumptions/12.md). -/
def CfeFe.doOp (fe : CfeFe) (f : CfeDown) : CfeFe :=
  if f.op = 0x01 then
    if f.addr = 0x0A then { fe with lim := f.data }
    else if f.addr = 0x0B then { fe with ntc := f.data }
    else if f.addr = 0x0C then { fe with snow := f.data } else fe
  else if f.op = 0x02 then
    { fe with rd :=
        if f.addr = 0x0A then some fe.lim else if f.addr = 0x0B then some fe.ntc
        else if f.addr = 0x0C then some fe.snow else none }
  else if f.op = 0x10 then { fe.enter 3 with checks := 0 }
  else if f.op = 0x11 then fe.enter 4
  else fe

/-- The uplink frame that the front end forms now, with the code of the next thermistor input and the modulator bits of 64
clocks (R42). -/
def CfeFe.frame (fe : CfeFe) (aux : Nat) (mod : List Nat) : CfeUp :=
  let st : CfeStat :=
    { state := fe.st, ov := fe.ov, uv := fe.uv, ot := fe.ot, act := fe.sw, dieHot := fe.dieHot, wake := fe.wake,
      rejects := fe.rejects, syncRej := fe.syncRej, adjRej := fe.adjRej, por := fe.por,
      wakeSrc := if fe.pass then fe.wakeSrc else 0, firstCh := if fe.pass then fe.firstCh else none, rd := fe.rd }
  cfeUpSeal
    { sync := 0xC3, seq := fe.seq, echo := fe.cnt, word := Config.cfeStatus (statNums st) % 2 ^ 32, stat := st, auxIdx := fe.auxIdx,
      aux := aux, rsv := 0, mod := mod, crc := 0 }

/-- The front end once a frame has reported: the next counter, and reports that start afresh. -/
def CfeFe.reported (fe : CfeFe) : CfeFe :=
  { fe with
    seq := (fe.seq + 1) % 256, auxIdx := (fe.auxIdx + 1) % 16, rejects := 0, syncRej := false, adjRej := false,
    por := false, wakeSrc := if fe.pass then 0 else fe.wakeSrc, firstCh := if fe.pass then none else fe.firstCh,
    pass := false, rd := none }

/-- An uplink frame sent. -/
def State.feSend (s : State) (aux : Nat) (mod : List Nat) : State :=
  { s with cfe := { s.cfe with up := some (s.cfe.fe.frame aux mod), fe := s.cfe.fe.reported } }

/-- On entry to SNOWDROP or HIBERNATE the frame in progress is the last one, and reports the state (R49); its measurements are
free (notes/assumptions/12.md). -/
def State.feLast (s : State) : State :=
  if s.cfe.fe.st = 3 || s.cfe.fe.st = 4 then
    let n := s.free
    let t := { s with free := n + 50 }
    t.feSend (Config.freeNat n % 65536) ((List.range 49).map fun i => Config.freeNat (n + 1 + i) % 2 ^ 64)
  else s

/-- CFE_COMMAND_FRAME (R44, R52): a downlink frame at the front end. -/
def execCfeCommandFrame (f : CfeDown) (s : State) : Out :=
  done (if s.cfe.fe.accepts f then
    (s.modFe fun fe =>
      let adj := adjacent f.bal
      let fe := { fe with cnt := f.cnt, sw := if adj then 0 else fe.allowed f.bal, adjRej := fe.adjRej || adj }
      fe.doOp f).feLast
  else s.feDiscard)

/-- CFE_SYNC_FRAME (R45, R49). -/
def execCfeSyncFrame (f : CfeDown) (s : State) : Out :=
  done (if s.cfe.fe.st = 0 then s
  else if f.sync ≠ 0x5A || f.crc ≠ cfeDownCrc f then s.feDiscard
  else if s.cfe.fe.st = 2 then s.modFe fun fe => { fe with syncRej := true }
  else s.modFe fun fe => { fe.enter 2 with cnt := f.cnt, wake := false, pass := true })

/-- CFE_UPLINK_SEND (R42): the frame of the next 64 modulator clocks, in LINK_DOWN and ACTIVE (R49). -/
def execCfeUplinkSend (aux : BitVec 16) (mod : List (BitVec 64)) (s : State) : Out :=
  done (if s.cfe.fe.st = 1 || s.cfe.fe.st = 2 then s.feSend aux.toNat (mod.map (·.toNat)) else s)

/-- CFE_SILENCE (R46). -/
def execCfeSilence (s : State) : Out :=
  done (if s.cfe.fe.st = 2 then s.modFe fun fe => fe.enter 1 else s)

/-- STACK_RISE (R49): the front end resets as its stack rises through 19 V. -/
def execStackRise (s : State) : Out :=
  done (if s.cfe.fe.st = 0 then s.modFe fun _ => { CfeFe.init with st := 1, por := true } else s)

/-- STACK_FALL (R49). -/
def execStackFall (s : State) : Out := done (s.modFe fun _ => CfeFe.init)

/-- SNOWDROP_AUTO (R49). -/
def execSnowdropAuto (s : State) : Out :=
  done (if s.cfe.fe.st = 1 && bit s.cfe.fe.snow 12 then
    (s.modFe fun fe => { fe.enter 3 with checks := 0 }).feLast
  else s)

/-- Millivolts of the OV and UV thresholds (R63). -/
def CfeFe.ovMv (fe : CfeFe) : Int := 2000 + 10 * bits fe.lim 0 9
def CfeFe.uvMv (fe : CfeFe) : Int := 500 + 10 * bits fe.lim 16 9

/-- Thermistor n is enabled and its code is at or below OT_CODE. -/
def CfeFe.ntcHot (fe : CfeFe) (n code : Nat) : Bool := bit fe.ntc (16 + n) && code ≤ bits fe.ntc 0 16

/-- WAKE asserted with its sources and a first breaching channel (R59). -/
def CfeFe.assertWake (fe : CfeFe) (src : Nat) (ch : Option Nat) : CfeFe :=
  { fe with wake := true, wakeSrc := fe.wakeSrc ||| src, firstCh := if fe.firstCh = none then ch else fe.firstCh }

/-- SNOWDROP_CHECK (R58, R59): cell voltages in mV and thermistor codes as the check measures them. -/
def execSnowdropCheck (cells : List Int) (codes : List Nat) (s : State) : Out :=
  done (if s.cfe.fe.st = 3 then
    s.modFe fun fe =>
      let n := fe.checks + 1
      let ov := (List.range 48).filter fun k => fe.ovMv < cells.getD k 0
      let uv := (List.range 48).filter fun k => cells.getD k 0 < fe.uvMv
      let ot := (List.range 16).filter fun k => fe.ntcHot k (codes.getD k 65535)
      let every := bits fe.snow 16 8
      let per := every ≠ 0 && n % every = 0
      let src := b2n (!ov.isEmpty) + 2 * b2n (!uv.isEmpty) + 4 * b2n (!ot.isEmpty) + 8 * b2n per
      let first := ((List.range 48).find? fun k => ov.contains k || uv.contains k).or (ot.head?.map (48 + ·))
      let fe := { fe with checks := n }
      if src = 0 then fe else fe.assertWake src first
  else s)

/-- SHUNT_WAKE (R59). -/
def execShuntWake (s : State) : Out :=
  done (if (s.cfe.fe.st = 3 || s.cfe.fe.st = 4) && bits s.cfe.fe.snow 24 8 ≠ 0 then
    s.modFe fun fe => fe.assertWake 16 none
  else s)

/-- Bit k of a mask set or cleared. -/
def setBit (m k : Nat) (b : Bool) : Nat := (m - (if m.testBit k then 2 ^ k else 0)) + (if b then 2 ^ k else 0)

/-- The comparators run (R39). -/
def CfeFe.comparing (fe : CfeFe) : Bool := fe.st = 1 || fe.st = 2

/-- CELL_COMPARATOR_CHANGE (R39, R54): the UV or the OV flag of a cell. -/
def execCellComparatorChange (ch : Fin 48) (uv on : Bool) (s : State) : Out :=
  done (if s.cfe.fe.comparing then
    s.modFe fun fe =>
      if uv then { fe with uv := setBit fe.uv ch on, sw := if on then setBit fe.sw ch false else fe.sw }
      else { fe with ov := setBit fe.ov ch on }
  else s)

/-- OT_FLAG_CHANGE (R39, R54): an enabled thermistor's OT flag. -/
def execOtFlagChange (n : Fin 16) (on : Bool) (s : State) : Out :=
  done (if s.cfe.fe.comparing && (bit s.cfe.fe.ntc (16 + n) || !on) then
    s.modFe fun fe => { fe with ot := setBit fe.ot n on, sw := if on then 0 else fe.sw }
  else s)

/-- SWITCH_OVERCURRENT (R53). -/
def execSwitchOvercurrent (ch : Fin 48) (s : State) : Out :=
  done (if bit s.cfe.fe.sw ch then
    s.modFe fun fe => { fe with sw := setBit fe.sw ch false, ovr := setBit fe.ovr ch true }
  else s)

/-- DIE_HOT_CHANGE (R54): followed in every state but POR (notes/assumptions/12.md). -/
def execDieHotChange (hot : Bool) (s : State) : Out :=
  done (if s.cfe.fe.st ≠ 0 then s.modFe fun fe => { fe with dieHot := hot, sw := if hot then 0 else fe.sw } else s)

end Sys2Proof.Machine
end

