-- ==== Sys2Proof/Machine/Log.lean ====
section
/-!
DEFINITION. Machine/Log.lean: the fault log's entries, its flash area and its staging ring (R451 to R456). The entry of
INDEX i lies at word i mod 61,440 of the area (notes/assumptions/9.md).
-/
namespace Sys2Proof.Machine

/-- An entry as one number of 256 bits (R451). -/
def logNum (e : LogEntry) (volatile : Bool) : Nat :=
  e.index % 2 ^ 32 + (e.ns32 % 2 ^ 32) <<< 32 + (e.epoch % 2 ^ 32) <<< 64 + (e.source % 256) <<< 96 +
  (e.code % 256) <<< 104 + (e.status % 256) <<< 112 + b2n e.timeValid <<< 120 + b2n volatile <<< 121 +
  b2n e.merged <<< 122 + b2n e.deferred <<< 123 + (e.inst % 2 ^ 16) <<< 128 + (e.rep % 2 ^ 16) <<< 144 +
  (e.detail % 2 ^ 96) <<< 160

/-- An entry read from its 32 bytes. -/
def logOfBytes (b : Bytes) : LogEntry :=
  let n := natOf (slice b 0 32)
  { index := bits n 0 32, ns32 := bits n 32 32, epoch := bits n 64 32, source := bits n 96 8, code := bits n 104 8,
    status := bits n 112 8, timeValid := bit n 120, merged := bit n 122, deferred := bit n 123, inst := bits n 128 16,
    rep := bits n 144 16, detail := bits n 160 96 }

/-- Entries of the area: 30 erase blocks of 2,048 (R454). -/
def logSize : Nat := 61440
def logBlock : Nat := 2048

/-- Address of the area (R415) and of an entry of a given INDEX. -/
def logBase : Nat := 0x20220000
def logWord (idx : Nat) : Nat := (logBase + 32 * (idx % logSize)) / 32

/-- An erase of whole lines or blocks of flash (R414): all ones from then on. -/
def State.erase (s : State) (lo hi : Nat) : State :=
  let s := s.blank lo hi
  let s := if lo ≤ 0x20400000 && 0x20400000 < hi then { s with start := { s.start with ship0 := false } } else s
  if lo ≤ 0x21000000 && 0x21000000 < hi then { s with cfg := { s.cfg with shipX := false } } else s

/-- An entry of the present instant, not yet numbered. -/
def State.entryNow (s : State) (source code inst detail : Nat) : LogEntry :=
  { index := s.rd PMC_LOG_STAT_NEXT, ns32 := s.ns32, epoch := s.rd PTU_TIME_EPOCH, source := source, code := code,
    status := 0xFF, timeValid := s.rd PTU_STATUS_STATE != 0, merged := false, deferred := false, inst := inst,
    rep := 0, detail := detail % 2 ^ 96 }

/-- One entry programmed into flash; reaching the last 256 entries of a block erases the oldest block (R454). -/
def State.logFlash (s : State) (e : LogEntry) : State :=
  let pos := e.index % logSize
  let s :=
    if pos % logBlock = logBlock - 256 then
      let nb := (pos / logBlock + 1) % 30
      s.erase (logBase + 32 * logBlock * nb) (logBase + 32 * logBlock * (nb + 1))
    else s
  s.program (logWord e.index) (bytesOf 32 (logNum e false))

/-- Word numbers of flash that hold anything, in the fault-log area. -/
def State.logWords (s : State) : List Nat :=
  (s.mem.filterMap fun c =>
    if logBase ≤ c.1 && c.1 < logBase + 32 * logSize then some (c.1 / 32) else none).eraseDups

/-- Entries of flash whose words pass their Pip check (R455). -/
def State.flashEntries (s : State) : List LogEntry :=
  s.logWords.filterMap fun w =>
    let raw := s.rdRaw w
    if raw = erasedWord then none else (pipData raw).map logOfBytes

/-- The scan at start (R455): the entry after the highest INDEX, compared as in R9, is the next. -/
def State.logScan (s : State) : State :=
  let top := s.flashEntries.foldl (fun (m : Option Nat) e =>
    match m with
    | none => some e.index
    | some i => if later32 i e.index then some e.index else some i) none
  s.wr PMC_LOG_STAT_NEXT (match top with | none => 0 | some i => i + 1)

/-- Entries in INDEX order from the first asked for, as FAULT_LOG_READ returns them (R456): flash and staged. -/
def State.logRead (s : State) (first n : Nat) : List Bytes :=
  let all := (s.flashEntries.map fun e => (e.index, bytesOf 32 (logNum e false)))
    ++ (s.log.staged.map fun x => (x.e.index, bytesOf 32 (logNum x.e true)))
  let q := all.filter fun e => e.1 = first % 2 ^ 32 || later32 first e.1
  ((q.mergeSort fun a b => !later32 b.1 a.1).map (·.2)).take n

/-- FAULT_LOG_MERGE_EXPIRY (R453): entries whose second has passed take no more repeats. -/
def execFaultLogMergeExpiry (s : State) : Out :=
  done { s with log := { s.log with
    staged := s.log.staged.map fun x => if x.tick + mergeTicks ≤ s.ticks then { x with closed := true } else x } }

/-- An hour in ticks (R454). -/
def hourTicks : Nat := 900000000000

/-- The ticks of the entries programmed within the last hour. -/
def State.logHour (s : State) : List Nat := s.log.hour.filter fun t => s.ticks < t + hourTicks

/-- FAULT_LOG_FLASH_WRITE (R453, R454): the oldest staged entry, once its second has passed, is programmed, within 20,000
entries in any hour. -/
def execFaultLogFlashWrite (s : State) : Out :=
  done (match s.log.staged with
    | x :: rest =>
      if x.closed && s.logHour.length < 20000 then
        let s := s.logFlash x.e
        let s := { s with log := { s.log with staged := rest, hour := s.logHour ++ [s.ticks] } }
        s.wr PMC_LOG_STAT_STAGED rest.length
      else s
    | [] => s)

end Sys2Proof.Machine
end

