-- ==== Sys2Proof/Machine/Corr.lean ====
section
/-!
DEFINITION. Machine/Corr.lean: the samples of the GNSS front end, the C/A code of IS-GPS-200, and one channel's
correlators, integrations, discriminators and loops (R108 to R113). What the spec leaves out of the loops is Config's
(notes/assumptions/19.md).
-/
namespace Sys2Proof.Machine

/-! ### Samples (R108) -/

/-- Nominal GNSS_CLK in Hz, the C/A chip rate, and the carrier. -/
def gnssClk : Rat := 16368000
def chipRate : Rat := 1023000
def carrierHz : Rat := 1575420000

/-- A pair of lines, sign in bit 1 and magnitude in bit 0. -/
def lineVal (w : Nat) : Int := (if bit w 0 then 3 else 1) * (if bit w 1 then -1 else 1)

/-- One sample of the lines I1, I0, Q1, Q0 (bits 3 to 0): its I and Q, the pairs exchanged by IQ_SWAP; Q is ignored with REAL. -/
def gnssSample (real swap : Bool) (w : BitVec 4) : Int × Int :=
  let i := lineVal (w.toNat / 4)
  let q := lineVal (w.toNat % 4)
  let x := if swap then (q, i) else (i, q)
  if real then (x.1, 0) else x

/-! ### The C/A code -/

/-- The two stages of G2 that PRN 1 to 32 takes (IS-GPS-200). -/
def caTaps : List (Nat × Nat) :=
  [(2, 6), (3, 7), (4, 8), (5, 9), (1, 9), (2, 10), (1, 8), (2, 9), (3, 10), (2, 3), (3, 4), (5, 6), (6, 7), (7, 8), (8, 9), (9, 10),
   (1, 4), (2, 5), (3, 6), (4, 7), (5, 8), (6, 9), (1, 3), (4, 6), (5, 7), (6, 8), (7, 9), (8, 10), (1, 6), (2, 7), (3, 8), (4, 9)]

/-- The exclusive or of the given stages of a register, stage 1 in bit 0. -/
def stages (r : Nat) (l : List Nat) : Bool := l.foldl (fun a i => a ^^ bit r (i - 1)) false

/-- n chips from registers G1 and G2, for the stages t of G2. -/
def caGo (t : List Nat) : Nat → Nat → Nat → List Bool
  | 0, _, _ => []
  | n + 1, g1, g2 =>
    (bit g1 9 ^^ stages g2 t) ::
      caGo t n (g1 * 2 % 1024 + b2n (stages g1 [3, 10])) (g2 * 2 % 1024 + b2n (stages g2 [2, 3, 6, 8, 9, 10]))

/-- The 1,023 chips of a PRN. -/
def caCode (prn : Nat) : List Bool :=
  let t := caTaps.getD (prn - 1) (2, 6)
  caGo [t.1, t.2] 1023 1023 1023

/-- The code at a phase in chips, as +1 or −1. -/
def chipAt (code : List Bool) (x : Rat) : Int := if code.getD (x.floor % 1023).toNat false then -1 else 1

/-! ### One channel over a block of samples (R111, R112) -/

/-- How a channel is set up for a block: its state, its code, the offsets of its 11 correlators from prompt in chips, the
centre frequency in Hz, the sense of the spectrum, DISC and the loop bandwidths. -/
structure CorrSet where
  st    : Nat
  code  : List Bool
  offs  : List Rat
  ifHz  : Rat
  sense : Int
  disc  : Nat
  dll   : Rat
  pll   : Rat

/-- Chips and carrier cycles that the oscillators advance in one sample; the code is aided by the carrier. -/
def GnbChan.chips (c : GnbChan) : Rat := (chipRate * (1 + c.dopp / carrierHz) + c.rate) / gnssClk
def GnbChan.cycles (k : CorrSet) (c : GnbChan) : Rat := (k.ifHz + k.sense * c.dopp) / gnssClk

/-- The fraction of a phase. -/
def fracQ (x : Rat) : Rat := x - x.floor

/-- Sums of the same correlators added. -/
def sumAdd (a b : List (Int × Int)) : List (Int × Int) := a.zipWith (fun x y => (x.1 + y.1, x.2 + y.2)) b
def noSums : List (Int × Int) := List.replicate 11 (0, 0)

/-- One sample taken: the carrier removed, each correlator's replica applied, the oscillators advanced. -/
def GnbChan.sample (k : CorrSet) (x : Int × Int) (c : GnbChan) : GnbChan :=
  let co := Config.carCos c.phase
  let si := Config.carSin c.phase
  let r := (x.1 * co + x.2 * si, x.2 * co - x.1 * si)
  { c with
    sums := c.sums.zipWith (fun a o => let p := chipAt k.code (c.code - o); (a.1 + p * r.1, a.2 + p * r.2)) k.offs,
    phase := fracQ (c.phase + c.cycles k), code := c.code + c.chips, adr := c.adr + c.dopp / gnssClk }

/-- Power and magnitude of a correlator's sums. -/
def corrPower (a : Int × Int) : Rat := (a.1 * a.1 + a.2 * a.2 : Int)
def corrMag (a : Int × Int) : Rat := realSqrt (corrPower a)

/-- The code discriminator of DISC 0 and 1 on the sums of an integration (R112). -/
def corrDisc (disc : Nat) (l : List (Int × Int)) : Rat :=
  let at' (j : Nat) := l.getD j (0, 0)
  if disc = 0 then
    let e := corrPower (at' 0)
    let q := corrPower (at' 2)
    if e + q = 0 then 0 else (e - q) / (e + q)
  else (corrMag (at' 0) - corrMag (at' 2)) - (corrMag (at' 3) - corrMag (at' 4)) / 2

/-- The code loop moved by an error, over a span in ms. -/
def GnbChan.codeLoop (k : CorrSet) (ms err : Rat) (c : GnbChan) : GnbChan :=
  let a := [k.dll, ms, (k.disc : Nat), err, c.rate, c.dmem]
  { c with rate := Config.dllRate a, dmem := Config.dllMem a }

/-- The carrier loop moved by the prompt sums of an integration; in PULL_IN the FLL compares them with those before. -/
def GnbChan.carrier (k : CorrSet) (ms : Rat) (p : Int × Int) (c : GnbChan) : GnbChan :=
  let b := if k.st = 2 then c.last.getD p else (0, 0)
  let a : List Rat := [k.pll, ms, (if k.st = 2 then 1 else 0), c.dopp, c.mem, (p.1 : Int), (k.sense * p.2 : Int), (b.1 : Int),
    (k.sense * b.2 : Int)]
  { c with dopp := Config.pllDopp a, mem := Config.pllMem a, last := some p }

/-- The end of a code period: after 1 ms, from BIT_SYNC on after 20 ms aligned to bit edges, the loops take the sums (R111). With
DISC = 2 the code loop waits for firmware. -/
def GnbChan.period (k : CorrSet) (c : GnbChan) : GnbChan :=
  let long := if 4 ≤ k.st then sumAdd c.long c.sums else c.sums
  let n := (c.nms + 1) % 20
  let c := { c with code := c.code - 1023, sums := noSums, nms := n, weekMs := (c.weekMs + 1) % 604800000 }
  if 4 ≤ k.st && n ≠ 0 then { c with long := long }
  else
    let ms : Rat := if 4 ≤ k.st then 20 else 1
    let c := c.carrier k ms (long.getD 1 (0, 0))
    { (if k.disc = 2 then c else c.codeLoop k ms (corrDisc k.disc long)) with long := noSums }

/-- A block of samples in turn: the channel after it, and the sums of each code period that ended, with the samples that
follow its end. -/
def GnbChan.block (k : CorrSet) : List (Int × Int) → GnbChan → GnbChan × List (Nat × List (Int × Int))
  | [], c => (c, [])
  | x :: l, c =>
    let c := c.sample k x
    if 1023 ≤ c.code then
      let r := GnbChan.block k l (c.period k)
      (r.1, (l.length, c.sums) :: r.2)
    else GnbChan.block k l c

end Sys2Proof.Machine
end

