-- ==== Sys2Proof/Machine/Lin.lean ====
section
/-!
DEFINITION. Machine/Lin.lean: vectors and matrices of exact fractions as lists, row by row, and the solution of linear
equations, for the least-squares fits and filters of the spec.
-/
namespace Sys2Proof.Machine

abbrev Vec := List Rat
abbrev Mat := List Vec

def vAdd (a b : Vec) : Vec := a.zipWith (· + ·) b
def vSub (a b : Vec) : Vec := a.zipWith (· - ·) b
def vScale (k : Rat) (a : Vec) : Vec := a.map (k * ·)
def vDot (a b : Vec) : Rat := (a.zipWith (· * ·) b).foldl (· + ·) 0

def mAdd (a b : Mat) : Mat := a.zipWith vAdd b
def mVec (a : Mat) (v : Vec) : Vec := a.map (vDot · v)

/-- Column j of a matrix, and its transpose where it has n columns. -/
def mCol (a : Mat) (j : Nat) : Vec := a.map (·.getD j 0)
def mT (n : Nat) (a : Mat) : Mat := (List.range n).map (mCol a)

/-- The product of a with b, b having n columns. -/
def mMul (n : Nat) (a b : Mat) : Mat := let c := mT n b; a.map fun r => c.map (vDot r)

/-- The matrix with d on its diagonal. -/
def mDiag (d : Vec) : Mat := (List.range d.length).map fun i => (List.range d.length).map fun j => if i = j then d.getD i 0 else 0

/-- The outer product of two vectors. -/
def vOuter (a b : Vec) : Mat := a.map fun x => vScale x b

/-- Solves n equations, each a row with its right-hand side as last element, by elimination; none where they are
singular. -/
def linSolve : Nat → Mat → Option Vec
  | 0, _ => some []
  | n + 1, rows =>
    match rows.find? (fun r => decide (r.headD 0 ≠ 0)) with
    | none => none
    | some p =>
      let rest := (rows.erase p).map fun r => (vSub r (vScale (r.headD 0 / p.headD 0) p)).drop 1
      match linSolve n rest with
      | none => none
      | some x => some ((p.getLastD 0 - vDot (p.drop 1).dropLast x) / p.headD 0 :: x)

/-- A fraction rounded to a multiple of 2^−32. -/
def round32 (q : Rat) : Rat := (roundQ (q * 4294967296) : Rat) / 4294967296

end Sys2Proof.Machine
end

