-- ==== Sys2Proof/Machine/Mirror.lean ====
section
/-!
DEFINITION. Machine/Mirror.lean: mirrored regions, the capture of writes to them and the transmit queue (R287, R290).
-/
namespace Sys2Proof.Machine

/-- Regions declared (R287), by number. -/
def regionIxs : List Nat := List.range 16

/-- Region n holds word w. -/
def State.inRegion (s : State) (n w : Nat) : Bool :=
  s.rd (PRD_MR_KIND n) ≠ 0 && s.rd (PRD_MR_BASE n) ≤ w && w < s.rd (PRD_MR_BASE n) + s.rd (PRD_MR_SIZE n)

/-- The mirrored region that holds word w. -/
def State.regionOf (s : State) (w : Nat) : Option Nat := regionIxs.find? fun n => s.inRegion n w

/-- Words of the queue before a writer is held (64 KiB), and below which bulk words pass (16 KiB). -/
def mirQueueWords : Nat := 2048
def mirBulkWords : Nat := 512

/-- Payload words in the queue. -/
def queueWords (q : List MirFrame) : Nat := q.foldl (fun n f => n + f.words.length) 0

/-- The partner reports SYNCED, so the delta limit is that of SYNCED (R285, R290). -/
def State.partSynced (s : State) : Bool :=
  match s.prd.partML with
  | some b => b.third
  | none => false

def State.deltaLimit (s : State) : Nat := if s.partSynced then 32768 else 131072

/-- A frame put at the end of the transmit queue. -/
def State.mirPush (s : State) (f : MirFrame) : State := { s with mir := { s.mir with queue := s.mir.queue ++ [f] } }

/-- A frame of the open delta. -/
def State.mirFrame (s : State) (kind region offset ci count : Nat) (words : List WireWord) : MirFrame :=
  { hdr := { ver := 1, kind := kind, blocks := words.length, region := region, offset := offset, ci := ci,
             dseq := s.mir.dseq, count := count }, words := words }

/-- A word enters the open delta; beyond its limit the delta goes without a COMMIT (R290). -/
def State.deltaWord (s : State) (kind region offset : Nat) (w : WireWord) : State :=
  let s := s.mirPush (s.mirFrame kind region offset 0 0 [w])
  let c := s.mir.count + 1
  let s := { s with mir := { s.mir with count := c } }
  if s.deltaLimit < c && !s.mir.ovf then
    ({ s with mir := { s.mir with ovf := true } }).set1 PRD_ERR_MIR_OVF
  else s

/-- R287: a write of word w of the address space, if it lies in a mirrored region of the active unit whose mirror lane
is trained, is captured as the whole word; a writer that finds the queue full is held and counted. -/
def State.capture (s : State) (w : Nat) : State :=
  if s.rd PRD_STATUS_GATE = 2 && s.prd.mlUp then
    match s.regionOf w with
    | some n =>
      let s := if mirQueueWords ≤ queueWords s.mir.queue then s.satInc PRD_CNT_STALL_CNT else s
      let kind := if s.rd (PRD_MR_KIND n) = 2 then 2 else 0
      let s := s.deltaWord kind n (w - s.rd (PRD_MR_BASE n)) (s.rdRaw w)
      s.count 9 0 1
    | none => s
  else s

/-- Whether word w lies in SRAM or DRAM. -/
def inRamWord (w : Nat) : Bool := inSram (32 * w) || inDram (32 * w)

/-- A whole-word write by any agent (R410), captured (R287). -/
def State.putWord (s : State) (w : Nat) (data : Bytes) : State :=
  if inDram (32 * w) then ((s.wrWord w data).capture w).count 4 0 1 else (s.wrWord w data).capture w

/-- Whole words of a run of bytes written from word w on. -/
def State.putWords : Nat → State → Nat → Bytes → State
  | 0, s, _, _ => s
  | n + 1, s, w, d => State.putWords n (s.putWord w (d.take 32)) (w + 1) (d.drop 32)

/-- A whole-word read by any agent, counted (R445). -/
def State.getWord (s : State) (w : Nat) : State × Option Bytes :=
  let s := if inDram (32 * w) then s.count 3 0 1 else s
  s.readWord w

/-- n whole words from word w; none as soon as one fails. -/
def State.getWords : Nat → State → Nat → State × Option Bytes
  | 0, s, _ => (s, some [])
  | n + 1, s, w =>
    match s.getWord w with
    | (s, none) => (s, none)
    | (s, some d) =>
      match State.getWords n s (w + 1) with
      | (s, some r) => (s, some (d ++ r))
      | (s, none) => (s, none)

end Sys2Proof.Machine
end

