-- ==== Sys2Proof/Machine/Token.lean ====
section
/-!
DEFINITION. Machine/Token.lean: who holds TOKEN, status blocks, letting go of TOKEN (R272 to R279, R285), and being held
in reset (R433, R434, R492).
-/
namespace Sys2Proof.Machine

/-! ### The unit in its pair -/

/-- The gate is in HOLD (R273). -/
def State.holds (s : State) : Bool := s.rd PRD_STATUS_GATE = 2

/-- The module is one half of a Domino pair (R13). -/
def State.domino (s : State) : Bool := s.start.setting = 2

/-- Half 2 of a Domino pair. -/
def State.half2 (s : State) : Bool := s.domino && s.start.half = 2

/-- N_EXP (R270). -/
def State.nExp (s : State) : Nat := if s.domino then 2 else 1

/-- The coordinator ID of the module's domain (R244). -/
def State.cid (s : State) : Nat := s.rd ZFB_DOM_CFG_ID_BASE

/-- The mirror-lane veto of R275 is clear: the partner's last block shows HOLD = 0, or the lane is not up. -/
def State.vetoClear (s : State) : Bool :=
  !s.prd.mlUp || (match s.prd.partML with | some b => !b.hold | none => true)

/-- Half 2's ready bit (R275); half 1 sends its own by the same rule. -/
def State.readyBit (s : State) : Bool :=
  s.on PRD_STATUS_ALIVE && s.vetoClear && (s.start.phase = .contend || s.rd PRD_STATUS_ML_STATE = 3)

/-- The other half reports itself ready (R275). -/
def State.otherReady (s : State) : Bool :=
  s.on PRD_STATUS_DL_UP && (match s.prd.partDL with | some b => b.third | none => false)

/-- TAKE_READY (R275). -/
def State.takeReady (s : State) : Bool :=
  s.rd PRD_STATUS_ML_STATE = 3 && s.on PRD_STATUS_ALIVE && (!s.domino || s.otherReady)

/-- PRD_STATUS.TAKE_READY brought up to date. -/
def State.updTake (s : State) : State := s.wrB PRD_STATUS_TAKE_READY s.takeReady

/-- The status block of a lane as it stands (R285). -/
def State.block (s : State) (lane : Lane) (take : Bool) : StatusBlock :=
  { take := take, hold := s.holds, alive := s.on PRD_STATUS_ALIVE,
    third := match lane with | .ml => s.rd PRD_STATUS_ML_STATE = 3 | .dl => s.readyBit,
    pos := s.on PRD_STATUS_POS, half := s.on PRD_STATUS_HALF, role := s.start.role, hb := s.prd.hb }

/-- A status block sent on one lane. -/
def State.sendBlock (s : State) (lane : Lane) (take : Bool) : State :=
  match lane with
  | .ml => { s with prd := { s.prd with sentML := some (s.block .ml take) } }
  | .dl => { s with prd := { s.prd with sentDL := some (s.block .dl take) } }

/-- Status blocks on both lanes, as within 50 ns of a change of HOLD. -/
def State.sendBlocks (s : State) : State := (s.sendBlock .ml false).sendBlock .dl false

/-! ### Letting go of TOKEN -/

/-- Frames with SRC = CID in transmission end with the error end (R246, R278); a Roll call run is abandoned (R253). -/
def State.endCidFrames (s : State) : State :=
  { s with zfb := { s.zfb with run := none, ports := s.zfb.ports.map fun p =>
    { p with tx := p.tx.map fun f => if f.own && f.hdr.src = s.cid then { f with err := true } else f } } }

/-- The release of R278, with its cause and the failing check: a holder only. -/
def State.release (s : State) (cause check : Nat) : State :=
  if s.holds then
    let s := { s with prd := { s.prd with srcOn := false, outDrive := false } }
    let s := (s.wrState PRD_STATUS_GATE 0 0 3).canRelease.endCidFrames
    let s := (s.wrB ZFB_STATUS_DRIVE false).updPermit
    let s := s.wrAll [(PRD_CAUSE_CAUSE, cause), (PRD_CAUSE_CHECK, check), (PRD_CAUSE_T, s.ns32)]
    let s := s.sendBlocks
    { s with pwr := { s.pwr with restart := some s.ticks } }
  else s

/-- A failed check of R279: it releases TOKEN when its bit in PRD_DIAG_EN is 1. -/
def State.checkFail (s : State) (c : Nat) : State :=
  if (s.rd PRD_DIAG_EN_CHECK).testBit c then s.release 1 c else s

/-! ### Held in reset -/

/-- Register fields that outlive a reset: the cause of a release, the power flags (R278, R422, R432). -/
def keptFields : List Fld :=
  [PRD_CAUSE_CAUSE, PRD_CAUSE_CHECK, PRD_CAUSE_T, MBX_PWR_STAT_VIN, MBX_PWR_STAT_TJ, MBX_PWR_STAT_FS_PRESENT,
   MBX_PWR_STAT_HOLD_OK, MBX_PWR_ERR_SUPPLY, MBX_PWR_ERR_RAIL, MBX_PWR_ERR_JUNCT_HOT,
   MBX_STATUS_DEV_KEY, MBX_STATUS_HOST_KEY]

/-- Register fields of the plant time unit that it keeps through a reset in which the rails stay good (R492). -/
def keptPtu : List Fld :=
  [PTU_TIME_NS32, PTU_TIME_EPOCH, PTU_INCR_INCR, PTU_GPS_BASE_BASE, PTU_STATUS_BASE_SET, PTU_STEP_DELTA, PTU_STEP_T,
   PTU_HOLD_DUR, PTU_STATUS_REFCLK_OK]

/-- A register file that holds the named fields of s and every other field at its reset value. -/
def State.keepRegs (s : State) (fs : List Fld) : List (Nat × Nat) :=
  fs.foldl (fun l f => aSet f.rst f.key (s.rd f) l) []

/-- The safety functions when the module resets: the lanes run on; LANE_DIFF and a difference of PCRC end with the
restart, and the output pairs they held go OFF (R382, R400). -/
def SafState.logicReset (c : SafState) (t : Nat) : SafState :=
  { SafState.init with
    lanes := if c.lnDiff then c.lanes.map (fun l => { l with outs := SafLane.init.outs }) else c.lanes
    par := c.par, pulse := c.pulse, turn := c.turn, due := c.due, nextT := c.nextT, doneT := c.doneT, upT := [t, t] }

/-- The module held in reset by a source of R433: everything at its reset value but what outlives a reset: flash, keys
and the start and selector records, the field side, the front end and the safety lanes, which have supplies of their
own, and, while the rails stay good, the plant time unit. -/
def State.enterReset (s : State) (src : Nat) (ptuRuns thermal : Bool) : State :=
  let r := State.reset
  { r with
    regs := s.keepRegs (if ptuRuns then keptFields ++ keptPtu else keptFields)
    mem := s.mem.filter fun e => inFlash e.1
    chk := s.chk.filter fun e => inFlash (e.1 / 4 * 32)
    ticks := s.ticks
    free := s.free
    pwr := { held := some src, src := src, thermal := thermal || (!s.live && s.pwr.thermal), restart := none,
             pinLow := s.pwr.pinLow, hot := s.pwr.hot }
    prd := { r.prd with cntTick := s.ticks }
    start := { r.start with
      failReg := s.start.failReg, recX := s.start.recX, recY := s.start.recY, fwX := s.start.fwX, fwY := s.start.fwY,
      ship0 := s.start.ship0, deferred := s.start.deferred }
    ptu := if ptuRuns then { r.ptu with
        frac := s.ptu.frac, incrFine := s.ptu.incrFine, dith := s.ptu.dith, intOsc := s.ptu.intOsc } else r.ptu
    mbx := { r.mbx with devKey := s.mbx.devKey, hostKey := s.mbx.hostKey, ethCtr := s.mbx.ethCtr, sent := s.mbx.sent }
    cfg := { r.cfg with selX := s.cfg.selX, selY := s.cfg.selY, shipX := s.cfg.shipX }
    cfe := { r.cfe with fe := s.cfe.fe }
    fio := { r.fio with field := s.fio.field }
    saf := s.saf.logicReset s.ticks
    pending := s.pending }

/-- A reset whose source is released as soon as it has taken effect. -/
def State.released (s : State) : State :=
  { s with pwr := { s.pwr with held := none }, start := { s.start with relTick := s.ticks } }

end Sys2Proof.Machine
end

