-- ==== Sys2Proof/Machine/Fabric.lean ====
section
/-!
DEFINITION. Machine/Fabric.lean: sending frames on the fabric: egress queues, routes, protection (R243 to R248, R255,
R256).
-/
namespace Sys2Proof.Machine

/-- The broadcast ID (R240). -/
def bcastId : Nat := 0x3FFFF

/-- Priority of a class (R243). -/
def clsPrio : Nat → Nat
  | 2 => 0 | 3 => 3 | 5 => 2 | 6 => 2 | 8 => 2 | _ => 1

/-- Payload words that a class allows (R243). -/
def clsBlocksOk (cls b : Nat) : Bool :=
  match cls with
  | 0 => 1 ≤ b && b ≤ 63
  | 1 => 1 ≤ b && b ≤ 3
  | 2 => b ≤ 1
  | 3 => b = 17 || b = 42
  | 4 => 1 ≤ b && b ≤ 64
  | 5 => 2 ≤ b && b ≤ 64 && b % 2 = 0
  | 6 => 1 ≤ b && b ≤ 32
  | 7 => 1 ≤ b && b ≤ 5
  | 8 => 1 ≤ b && b ≤ 64
  | _ => false

/-- Bytes of a frame (R239). -/
def frameBytes (f : ZFrame) : Nat := 36 * (1 + f.words.length)

def State.modZfb (s : State) (f : ZfbState → ZfbState) : State := { s with zfb := f s.zfb }

def State.zport (s : State) (p : Nat) : ZPort := s.zfb.ports.getD p ZPort.init

def State.modZport (s : State) (p : Nat) (f : ZPort → ZPort) : State :=
  { s with zfb := { s.zfb with ports := modAt s.zfb.ports p f } }

/-- A discarded frame at a port, counted as an event (R445). -/
def State.zDisc (s : State) (p : Nat) : State := s.count 8 p 1

/-- A frame put into the queue of a port, or dropped where its buffer is full (R243). -/
def State.enqueue (s : State) (p : Nat) (f : ZFrame) : State :=
  let low := clsPrio f.hdr.cls = 3
  let used := (s.zport p).q.foldl (fun n g => if (clsPrio g.hdr.cls = 3) = low then n + frameBytes g else n) 0
  if used + frameBytes f ≤ (if low then 524288 else 65536) then s.modZport p fun z => { z with q := z.q ++ [f] }
  else ((s.satInc ZFB_CNT_Q_DROP_CNT).set1 ZFB_ERR_Q_DROP).zDisc p

/-- A port that passes frames of a class (R249). -/
def State.passes (s : State) (p cls : Nat) : Bool :=
  s.rd (ZFB_PORT_STATE p) = 2 || (s.rd (ZFB_PORT_STATE p) = 1 && cls ≤ 1)

/-- No usable egress (R247, R255). -/
def State.noRoute (s : State) (p : Nat) : State := (s.set1 ZFB_ERR_NO_ROUTE).zDisc p

/-- A frame turned back onto a protection path out of port `alt`, away from port p (R255). -/
def State.wrapOut (s : State) (p alt : Nat) (f : ZFrame) : State :=
  if s.passes alt f.hdr.cls then
    ((s.wrB (ZFB_PORT_WRAP p) true).set1 ZFB_ERR_PROTECT).enqueue alt { f with hdr := { f.hdr with wrap := true } }
  else s.noRoute p

/-- A frame bound for port p (R255): queued where the port passes it; otherwise a ring port's frame goes out the other
ring port, P3's out its alternate, each with WRAP = 1; any other is discarded. -/
def State.egress (s : State) (p : Nat) (f : ZFrame) : State :=
  if s.passes p f.hdr.cls then s.enqueue p f
  else if f.hdr.wrap then s.noRoute p
  else if p ≤ 1 then s.wrapOut p (1 - p) f
  else if p = 3 && s.rd ZFB_ROUTE_CFG_ALT ≠ 7 then s.wrapOut 3 (s.rd ZFB_ROUTE_CFG_ALT) f
  else s.noRoute p

/-- The index of routing entry e of port p. -/
def rtIx (p e : Nat) : Nat := 64 * p + e

/-- A port has a valid entry that matches a node ID, STBY entries included or not (R247, R255). -/
def State.matchesRt (s : State) (p dst : Nat) (stby : Bool) : Bool :=
  (List.range 64).any fun e =>
    s.on (ZFB_RT_VALID (rtIx p e)) && (stby || !s.on (ZFB_RT_STBY (rtIx p e))) &&
    s.rd (ZFB_RT_LO (rtIx p e)) ≤ dst && dst ≤ s.rd (ZFB_RT_HI (rtIx p e))

/-- The port opposite to UP in its ring, or a head's alternate (R256). -/
def State.oppositeUp (s : State) : Nat :=
  let up := s.rd ZFB_ROUTE_CFG_UP
  if up ≤ 1 then 1 - up else s.rd ZFB_ROUTE_CFG_ALT

/-- The spare link of a terminal node (R256): a ring port without a role, or P2 as a standby attachment. -/
def State.sparePort (s : State) : Option Nat :=
  match [0, 1].find? fun p => s.rd (ZFB_PORT_STATE p) = 2 && s.rd (ZFB_PORT_ROLE p) = 0 with
  | some p => some p
  | none => if s.on ZFB_ROUTE_CFG_STBY_P2 then some 2 else none

/-- The port of a frame with WRAP = 0 that is not delivered here: a matching entry, or UP; none where there is no UP
port (R247 rules 3 and 4). -/
def State.routePort (s : State) (dst : Nat) : Option Nat :=
  match (List.range 4).find? fun p => s.matchesRt p dst false with
  | some p => some p
  | none => if s.rd ZFB_ROUTE_CFG_UP = 7 then none else some (s.rd ZFB_ROUTE_CFG_UP)

/-- A unicast frame sent on its route (R247, R256). -/
def State.forwardId (s : State) (f : ZFrame) : State :=
  match s.routePort f.hdr.dst with
  | none => (s.satInc ZFB_CNT_DROP_CNT).noRoute 0
  | some p =>
    if s.on ZFB_STATUS_REVERSED && p = s.rd ZFB_ROUTE_CFG_UP then
      let o := s.oppositeUp
      if o ≤ 3 then s.wrapOut p o f else s.noRoute p
    else s.egress p f

/-- Ports that carry broadcasts (R248): UP, child ports and, with SCOPE = 1, boundary ports. -/
def State.treePort (s : State) (p : Nat) (scope : Bool) : Bool :=
  let r := s.rd (ZFB_PORT_ROLE p)
  r = 1 || r = 2 || (r = 3 && scope)

/-- A broadcast forwarded on every tree port but the one it arrived on (R248). -/
def State.forwardAll (s : State) (arr : Option Nat) (f : ZFrame) : State :=
  (List.range 4).foldl (fun s p =>
    if s.treePort p f.hdr.scope && arr ≠ some p then s.egress p f else s) s

/-- Ring ports that face another group member (R245). -/
def State.groupPorts (s : State) : List Nat :=
  (if s.on ZFB_ROUTE_CFG_GRP_P0 then [0] else []) ++ (if s.on ZFB_ROUTE_CFG_GRP_P1 then [1] else [])

/-! ### The header (R240, R241) -/

/-- The header word as a number. -/
def hdrNum (h : ZHdr) : Nat :=
  h.ver + h.cls <<< 4 + h.dst <<< 8 + h.dstDom <<< 26 + h.src <<< 34 + h.srcDom <<< 52 + h.blocks <<< 60 + h.ttl <<< 67 +
  b2n h.wrap <<< 75 + b2n h.late <<< 76 + b2n h.scope <<< 77 + b2n h.coord <<< 78 + (h.rsv % 2) <<< 79 + h.seq <<< 80 +
  h.tag <<< 96 + h.aux <<< 128 + (h.rsv / 2) <<< 160

/-- The fields of a header word. -/
def hdrOf (n : Nat) : ZHdr :=
  { ver := bits n 0 4, cls := bits n 4 4, dst := bits n 8 18, dstDom := bits n 26 8, src := bits n 34 18,
    srcDom := bits n 52 8, blocks := bits n 60 7, ttl := bits n 67 8, wrap := bit n 75, late := bit n 76,
    scope := bit n 77, coord := bit n 78, seq := bits n 80 16, tag := bits n 96 32, aux := bits n 128 32,
    rsv := bits n 79 1 + 2 * bits n 160 96 }

/-- A frame discarded at its header (R241). -/
def State.hdrDrop (s : State) (p : Nat) (f : Fld) : State := ((s.satInc ZFB_CNT_DROP_CNT).set1 f).zDisc p

/-! ### Delivery (R243, R245, R247, R268) -/

/-- The 32-byte word at an address, as it stands. -/
def State.wordAt (s : State) (a : Nat) : Nat := natOf ((pipData (s.rdRaw (a / 32))).getD [])

/-- A frame put into the receive ring, with its stamp and arrival port; its payload goes to the address that the entry
holds (notes/assumptions/15.md). -/
def State.rxRing (s : State) (p : Nat) (f : ZFrame) : State :=
  let tail := s.rd ZFB_RX_PTR_TAIL
  if (tail + 1) % 64 = s.rd ZFB_RX_PTR_HEAD then (s.satInc ZFB_CNT_Q_DROP_CNT).zDisc p
  else
    let e := s.rd ZFB_RX_RING_ADDR + 64 * tail
    let pa := s.wordAt (e + 32) % 2 ^ 64
    let s := s.putWord (e / 32) (bytesOf 32 (hdrNum f.hdr))
    let s := s.putWord (e / 32 + 1) (bytesOf 32 (pa + s.ns32 <<< 64 + p <<< 96))
    let s := s.putWords f.words.length (pa / 32) (f.words.flatMap fun w => (pipData w).getD [])
    s.wr ZFB_RX_PTR_TAIL (tail + 1)

/-- A report of a reversal, entered in the fault log of the coordinator (R265). -/
def State.logReversed (s : State) (f : ZFrame) : State :=
  let w := natOf ((f.words.head?.bind pipData).getD [])
  s.logEvent 9 (Config.eventCode 4).toNat (bits w 18 2) 0xFF (w % 2 ^ 96)

/-- A frame delivered to this node (R243, R247, R268): of its own domain and of its class's size. A MAILBOX frame to the CID is for
the holder of TOKEN (R245). -/
def State.deliver1 (s : State) (p : Nat) (f : ZFrame) : State :=
  if f.hdr.dst ≠ 0 && f.hdr.dstDom ≠ s.rd ZFB_ID_DOMAIN && !(f.hdr.dst = bcastId && f.hdr.scope) then
    (s.satInc ZFB_CNT_DROP_CNT).zDisc p
  else if !clsBlocksOk f.hdr.cls f.hdr.blocks && !(f.hdr.cls = 6 && 32 < f.hdr.blocks) then s.hdrDrop p ZFB_ERR_LEN_DROP
  else if f.hdr.cls = 6 && f.hdr.dst = s.cid && !s.holds then s
  else
    let s := s.modZfb fun z => { z with deliv := some (p, f) }
    let s := if f.hdr.cls = 7 && f.hdr.aux = 4 && f.hdr.dst = s.cid then s.logReversed f else s
    let s := if f.hdr.cls = 8 then s.evtMark fun d => d.evt = 3 && d.evtArg = f.hdr.tag else s
    if f.hdr.cls = 6 || f.hdr.cls = 7 || f.hdr.cls = 8 then s.rxRing p f else s

/-- A frame that ended as R242 asks is delivered; nothing is delivered from another. -/
def State.deliverOk (s : State) (p : Nat) (f : ZFrame) : State := if f.err then s else s.deliver1 p f

/-- A frame that this node's half hands to the other half (R244, R295). -/
def State.toHalf (s : State) (p : Nat) (f : ZFrame) : State := { s with mir := { s.mir with dlOut := s.mir.dlOut ++ [.frame p f] } }

/-- The half that takes a frame serves it, hands it to the other half, or both: mailboxes to the CID and fusion are half 1's, the
runtime's frames to the unit ID concern both halves' tasks (R244, R295). -/
def State.deliverHalf (s : State) (p : Nat) (f : ZFrame) : State :=
  if !s.domino || f.err then s.deliverOk p f
  else if s.half2 && ((f.hdr.cls = 6 && f.hdr.dst = s.cid && p ≠ 0) || (f.hdr.cls = 5 && f.hdr.dst = s.rd ZFB_ID_NODE_ID)) then s.toHalf p f
  else if s.half2 && f.hdr.cls = 6 && f.hdr.dst = s.cid then s
  else if (f.hdr.cls = 4 || f.hdr.cls = 8) && f.hdr.dst = s.rd ZFB_ID_NODE_ID then (s.deliverOk p f).toHalf p f
  else s.deliverOk p f

/-- The frame is addressed to this node: its unit ID, or its group's CID (R247, R255). -/
def State.addressed (s : State) (f : ZFrame) : Bool :=
  (s.on ZFB_STATUS_ASSIGNED && f.hdr.dst = s.rd ZFB_ID_NODE_ID) || (s.on ZFB_STATUS_GROUP && f.hdr.dst = s.cid)

/-- A frame for the CID passed on to the next member in its direction (R245); half 2 gives half 1 its mailbox frames over the Domino lane. -/
def State.groupOn (s : State) (p : Nat) (f : ZFrame) : State :=
  if s.on ZFB_STATUS_GROUP && f.hdr.dst = s.cid then
    let lane := fun (q : Nat) => s.domino && s.half2 && f.hdr.cls = 6 && q = 0
    (s.groupPorts.filter fun q => !lane q && (1 < p || q = 1 - p)).foldl (fun s q => s.egress q f) s
  else s

/-! ### Frames that this node originates -/

/-- A broadcast's (SRC, SEQ) pair has been seen here (R255). -/
def State.seenCast (s : State) (f : ZFrame) : State :=
  s.modZfb fun z => { z with bcast := ((f.hdr.src, f.hdr.seq) :: z.bcast.filter (· ≠ (f.hdr.src, f.hdr.seq))).take 32 }

/-- A frame that this node originates, its source fields, SEQ and TTL filled by the hardware (R240, R268); a coordinator's domain is
that of its configuration, which its first Roll call goes out under. -/
def State.fillSrc (s : State) (asCid : Bool) (f : ZFrame) : ZFrame :=
  { f with own := true, hdr := { f.hdr with
      ttl := if f.hdr.cls = 2 && f.hdr.dst = 0 then 1 else 255
      srcDom := if asCid then s.rd ZFB_DOM_CFG_DOMAIN else s.rd ZFB_ID_DOMAIN
      seq := s.zfb.seq.getD f.hdr.cls 0, coord := asCid
      src := if asCid then s.cid else s.rd ZFB_ID_NODE_ID
      blocks := if f.err then f.hdr.blocks else f.words.length } }

/-- An originated frame on its way (R245, R247, R248): broadcast, delivered here and to the group where it is addressed so, or by its
route. -/
def State.sendFrame (s : State) (asCid : Bool) (f : ZFrame) : State :=
  let f := s.fillSrc asCid f
  let s := s.modZfb fun z => { z with seq := modAt z.seq f.hdr.cls fun n => (n + 1) % 2 ^ 16 }
  if f.hdr.dst = bcastId then (s.seenCast f).forwardAll none f
  else if s.addressed f then (s.deliverHalf 4 f).groupOn 4 f
  else s.forwardId f

/-- A frame sent out of one named port: link-local and path-routed frames (R252, R264). -/
def State.sendPort (s : State) (p : Nat) (asCid : Bool) (f : ZFrame) : State :=
  let f := s.fillSrc asCid f
  let s := { s with zfb := { s.zfb with seq := modAt s.zfb.seq f.hdr.cls fun n => (n + 1) % 2 ^ 16 } }
  s.egress p f

/-- A payload word as its sender forms it. -/
def payWord (n : Nat) : WireWord := pipEncode (bytesOf 32 n)

/-- Payload words of a run of bytes, the last one filled with zeros. -/
def payWords (b : Bytes) : List WireWord :=
  (List.range ((b.length + 31) / 32)).map fun i => pipEncode (slice b (32 * i) 32)

/-- An EVENT frame to the coordinator (R265). -/
def State.sendEvent (s : State) (type port : Nat) : State :=
  if s.on ZFB_STATUS_ASSIGNED then
    let h : ZHdr := { cls := 7, dst := s.cid, dstDom := s.rd ZFB_ID_DOMAIN, blocks := 1, aux := type }
    s.sendFrame false { hdr := h, words := [payWord (s.rd ZFB_ID_NODE_ID + port <<< 18 + s.ns32 <<< 32)] }
  else s

end Sys2Proof.Machine
end

