-- ==== Sys2Proof/Machine/Ptu.lean ====
section
/-!
DEFINITION. Machine/Ptu.lean: plant time (chapter 10): the counter, the servo and its states, the exchange with the
parent, steps, the second marker and the timestamp queues.
-/
namespace Sys2Proof.Machine

/-! ### The counter -/

/-- GNB_PPS follows the GPS seconds between solutions (R123): a second after its instant it names the next. -/
def State.gnbPps (s : State) : State :=
  if s.on GNB_PPS_VALID && 1000000000 ≤ (s.ns32 + 2 ^ 32 - s.rd GNB_PPS_NS32) % 2 ^ 32 then
    s.wrAll [(GNB_PPS_NS32, s.rd GNB_PPS_NS32 + 1000000000), (GNB_PPS_TOW_S, (s.rd GNB_PPS_TOW_S + 1) % 604800)]
  else s

/-- One tick of the timing clock (R218, R219, R445): the accumulator takes the increment with its dither, a wrap
advances the epoch, sweeps whose instants are reached begin (R69), and the tick event is counted, and a busy solver. -/
def State.tick (s : State) : State :=
  let d := s.ptu.dith + s.ptu.incrFine
  let a := 2 ^ 24 * s.rd PTU_TIME_NS32 + s.ptu.frac + s.rd PTU_INCR_INCR + d / 2 ^ 16
  let t0 := s.now
  let s := { s with ticks := s.ticks + 1, ptu := { s.ptu with frac := a % 2 ^ 24, dith := d % 2 ^ 16 } }
  let s := s.wr PTU_TIME_NS32 (a / 2 ^ 24)
  let s := if 2 ^ 56 ≤ a then s.wrapInc PTU_TIME_EPOCH else s
  let s := (s.gridRun t0).gnbPps
  let s := if s.live && s.slv.run.isSome then s.count 6 0 1 else s
  if s.live then s.count 0x0E 0 1 else s

/-- NS32_WRAP (R219): the counter wraps and the epoch advances in the same tick. -/
def execNs32Wrap (s : State) : Out := done (((s.wr PTU_TIME_NS32 0).wrapInc PTU_TIME_EPOCH).gridRun s.now)

/-! ### Steps -/

/-- The fields of a step: PTU_ERR.STEP with its entry, and PTU_STEP (R229, R493). -/
def State.stepRecord (s : State) (delta : Int) (t : Nat) : State :=
  let s := (s.wrS PTU_STEP_DELTA (satSigned 32 delta)).wr PTU_STEP_T t
  s.errLog PTU_ERR_STEP 0

/-- A step of fabric time by d ns taken out of the baseband's clock history (R125), its sample clock and its second marker moved. -/
def State.gnbStep (s : State) (d : Int) : State :=
  let s := { s with gnb := { s.gnb with
    hist := s.gnb.hist.map fun (h : Rat × Rat) => (h.1 + d, h.2 - d), clkAt := s.gnb.clkAt.map (· + (d : Rat)) } }
  if s.on GNB_PPS_VALID then s.wr GNB_PPS_NS32 ((((s.rd GNB_PPS_NS32 : Nat) : Int) + d) % 2 ^ 32).toNat else s

/-- A step of d ns in fusion (R132): samples stamped before it have d added to their instants, and what is held at instants before it
moves with them, so that prediction goes over the elapsed time less d. -/
def State.fusTimeStep (s : State) (d : Int) : State :=
  let mv := fun (x : FusSample) => { x with t := x.t + d, arr := x.arr + d }
  { s with
    fus := { s.fus with
      ring := s.fus.ring.map mv, slots := s.fus.slots.map fun l => { l with latest := l.latest.map mv },
      groups := s.fus.groups.map fun g => { g with coast := g.coast.map (· + d) },
      post := s.fus.post.map fun e => { e with t := e.t + d },
      tracks := s.fus.tracks.map fun k => { k with t := k.t + d, upd := k.upd + d } },
    hlm := { s.hlm with hist := s.hlm.hist.map fun e => (((e.1 : Int) + d).toNat, e.2) } }

/-- What a step of fabric time from t0 to the present does in the subsystems (R51, R71, R125, R132). -/
def State.timeStep (s : State) (t0 : Nat) : State :=
  let d : Int := (s.now : Int) - t0
  let s := (s.schStep t0).cfeStep d
  (({ s with cse := s.cse.shift d }).gnbStep d).fusTimeStep d

/-- The counter loaded with t, its fraction bits kept; an exchange whose stamps straddle the load is discarded (R224). -/
def State.loadTime (s : State) (t : Int) : State :=
  let t0 := s.now
  let s := s.setNow t
  let s := { s with ptu := { s.ptu with
    t1 := none, lastOff := s.ptu.lastOff.map fun o => o + t - t0 } }
  s.timeStep t0

/-- Second boundaries are the instants whose sum with BASE is a whole second (R230): the first at or after t. -/
def State.secondFrom (s : State) (t : Nat) : Nat :=
  let b := if s.on PTU_STATUS_BASE_SET then s.rd PTU_GPS_BASE_BASE else 0
  let r := (t + b) % 10 ^ 9
  if r = 0 then t else t + (10 ^ 9 - r)

/-! ### The servo -/

/-- PTU_INCR for a rate of f ppb: 4.0 ns · (1 + f · 10^−9), to 2^−40 ns (R218, R222). -/
def State.setRate (s : State) (f : Rat) : State :=
  let n := (roundQ ((4 : Rat) * (1 + f / 10 ^ 9) * 2 ^ 40)).toNat
  let s := s.wr PTU_INCR_INCR (n / 2 ^ 16)
  { s with ptu := { s.ptu with f := f, incrFine := n % 2 ^ 16 } }

/-- kp and ki (UQ0.8), FREQ_LIM and SLEW_LIM in ppb. -/
def State.kp (s : State) : Rat := (s.rd PTU_SERVO_KP : Rat) / 256
def State.ki (s : State) : Rat := (s.rd PTU_SERVO_KI : Rat) / 256
def State.freqLim (s : State) : Rat := 1000 * (s.rd PTU_SERVO_FREQ_LIM : Rat)
def State.slewLim (s : State) : Rat := (s.rd PTU_SERVO_SLEW_LIM : Rat)

/-- e / T_int in ns/s, for e in ns and T_int in ns. -/
def ratePpb (e : Rat) (tInt : Int) : Rat := if tInt = 0 then 0 else e * 10 ^ 9 / (tInt : Rat)

/-- R222 in LOCKED. -/
def State.servo (s : State) (r : Rat) : State :=
  let lim := s.freqLim
  let i := clampQ (-lim) lim (s.ptu.i + s.ki * r)
  let f := clampQ (-lim) lim (i + s.kp * r)
  ({ s with ptu := { s.ptu with i := i } }).setRate f

/-- R229 in SLEW. -/
def State.slew (s : State) (r : Rat) : State :=
  let lim := s.freqLim
  let is := clampQ (-lim) lim (s.ptu.is + s.ki * r)
  let f := s.ptu.fh + clampQ (-s.slewLim) s.slewLim (s.kp * r + is)
  ({ s with ptu := { s.ptu with is := is } }).setRate f

/-- A change of PTU_STATUS.STATE; kind 2 of the fault log is not used for it (R227 names its entries). -/
def State.ptuTo (s : State) (st : Nat) : State := s.wr PTU_STATUS_STATE st

/-- The notice of a step, broadcast by a node with SRC = GNSS (R229, R264). -/
def State.stepNotice (s : State) (p : PtuStep) : State :=
  if s.rd PTU_CTRL_SRC = 1 then
    let h : ZHdr := { cls := 2, dst := bcastId, blocks := 1, scope := true, aux := 3 }
    s.sendFrame false { hdr := h, words := [payWord (ofSigned 32 p.delta + p.tb <<< 32)] }
  else s

/-- STEP_PEND with a step and its boundary (R229). -/
def State.toStepPend (s : State) (p : PtuStep) : State :=
  let hold := s.rd PTU_STATUS_STATE = 2
  ({ s with ptu := { s.ptu with step := some p, wasHold := hold } }).ptuTo 4

/-- The step that an offset of e ns asks for: the boundary is the first second boundary at least 10 ms away (R229). -/
def State.schedStep (s : State) (e : Rat) : State :=
  let p : PtuStep := { delta := roundQ e, tb := s.secondFrom (s.now + 10000000) }
  (s.toStepPend p).stepNotice p

/-- PTU_LAST_OFF (Q28.4, saturating). -/
def State.recordOff (s : State) (e : Rat) (t : Nat) : State :=
  (s.wrS PTU_LAST_OFF_OFFSET (satSigned 32 (roundQ (e * 16)))).wr PTU_LAST_OFF_T t

/-- Leaving FREE (R227, R493): with SRC = GNSS and no BASE, BASE is set from `base`, GPS time minus fabric time;
otherwise the counter is loaded with `load`. -/
def State.leaveFree (s : State) (base load : Int) : State :=
  let s := { s with ptu := { s.ptu with i := 0, slewOk := 0, needEpoch := s.rd PTU_CTRL_SRC = 2 || s.rd PTU_CTRL_SRC = 3 } }
  let s :=
    if s.rd PTU_CTRL_SRC = 1 && !s.on PTU_STATUS_BASE_SET then
      (s.wr PTU_GPS_BASE_BASE (base % 2 ^ 64).toNat).wr PTU_STATUS_BASE_SET 1
    else
      let d := load - s.now
      (s.stepRecord d s.ns32).loadTime load
  s.ptuTo 1

/-- The instant nearest to the present whose NS32 is t. -/
def State.nearNow (s : State) (t : Nat) : Int := (s.now : Int) + diff32 s.ns32 t

/-- An offset from the source has come (R227). -/
def State.offSeen (s : State) : State := { s with ptu := { s.ptu with offTick := s.ticks } }

/-- An offset of e ns in SLEW (R227, R229), r its rate. -/
def State.slewOffset (s : State) (e r : Rat) : State :=
  let s := s.slew r
  let k := if absQ e ≤ 20 then s.ptu.slewOk + 1 else 0
  if 3 ≤ k then ({ s with ptu := { s.ptu with i := s.ptu.f, slewOk := 0 } }).ptuTo 1
  else { s with ptu := { s.ptu with slewOk := k } }

/-- An offset of e ns at NS32 instant t from the selected source (R222, R223, R227, R228); `base` and `load` serve the
rows that leave FREE. With SERVO_EN = 0 it is recorded only. -/
def State.offset (s : State) (e : Rat) (t : Nat) (base load : Int) : State :=
  let st := s.rd PTU_STATUS_STATE
  let i := s.nearNow t
  let take := fun (s : State) => { s.recordOff e t with ptu := { s.ptu with lastOff := some i } }
  if st = 0 then
    if s.on PTU_CTRL_SERVO_EN then (take s.offSeen).leaveFree base load else s.recordOff e t
  else if 10 ^ 9 < absQ e then s.errLog PTU_ERR_OFF_REJ 0
  else if (match s.ptu.lastOff with | some o => decide (i ≤ o) | none => false) then s
  else if !s.on PTU_CTRL_SERVO_EN then take s.offSeen
  else if st = 4 then s.offSeen
  else
    let r := ratePpb e (match s.ptu.lastOff with | some o => i - o | none => 0)
    let s := take s.offSeen
    if st = 3 then s.slewOffset e r
    else if 1000 < absQ e then s.schedStep e
    else if st = 2 then (({ s with ptu := { s.ptu with is := 0, slewOk := 0 } }).slew r).ptuTo 3
    else s.servo r

/-- HOLDOVER_ENTRY (R227): no offset for HOLD_T in LOCKED or SLEW. -/
def execHoldoverEntry (s : State) : Out :=
  let st := s.rd PTU_STATUS_STATE
  done (if (st = 1 || st = 3) && s.ptu.offTick + 2500000 * s.rd PTU_SYNC_CFG_HOLD_T ≤ s.ticks then
    let fh := if st = 1 then s.ptu.i else s.ptu.fh
    let s := { s with ptu := { s.ptu with fh := fh } }
    let s := if s.on PTU_CTRL_SERVO_EN then s.setRate fh else s
    ((s.ptuTo 2).wr PTU_HOLD_DUR 0).errLog PTU_ERR_HOLDOVER_ENT 0
  else s)

/-- STEP_NOTICE (R229): a node that receives the notice of the time root of its path enters STEP_PEND with the same step. -/
def execStepNotice (delta : BitVec 32) (tb : BitVec 64) (s : State) : Out :=
  done (whenLive s fun s =>
    if s.rd PTU_STATUS_STATE = 0 || s.rd PTU_STATUS_STATE = 4 || (s.rd PTU_CTRL_SRC ≠ 2 && s.rd PTU_CTRL_SRC ≠ 3) then s
    else s.toStepPend { delta := delta.toInt, tb := tb.toNat })

/-- PPS_OUT rises where PPS_EN = 1 (R230). -/
def State.ppsMark (s : State) : State :=
  { s with ptu := { s.ptu with ppsOut := if s.on PTU_CTRL_PPS_EN then some s.ticks else none } }

/-- PPS_OUT is high: for WIDTH from its rise (R230). -/
def State.ppsHigh (s : State) : Bool :=
  match s.ptu.ppsOut with
  | some t => s.on PTU_CTRL_PPS_EN && s.ticks < t + 250 * s.rd PTU_PPS_CFG_WIDTH
  | none => false

/-- The counter has reached T_B of the pending step, whose load is still to come (R229). -/
def State.stepDue (s : State) : Bool :=
  match s.ptu.step with
  | some p => s.rd PTU_STATUS_STATE = 4 && p.tb ≤ s.now
  | none => false

/-- The step p, at or after its boundary: the counter, which would be T_B + x, is loaded with T_B + Δ + x; the marker of T_B is
emitted at the load for a forward step (R229, R230). -/
def State.applyStep (s : State) (p : PtuStep) : State :=
  let s := (s.stepRecord p.delta (p.tb % 2 ^ 32)).loadTime (s.now + p.delta)
  let s := if 0 < p.delta then s.ppsMark else s
  let i := if s.ptu.wasHold then s.ptu.fh else s.ptu.i
  ({ s with ptu := { s.ptu with step := none, i := i, slewOk := 0 } }).ptuTo 1

/-- STEP_APPLY (R229, R230): the counter has reached T_B. -/
def execStepApply (s : State) : Out :=
  done (match s.ptu.step with
    | some p => if s.stepDue then s.applyStep p else s
    | none => s)

/-! ### REFCLK -/

/-- REFCLK_LOSS (R220): the internal oscillator takes over, the unit enters FREE; a holder whose check 3 is enabled
releases TOKEN; the CAN FD controllers go OFF (R279, R367). -/
def execRefclkLoss (s : State) : Out :=
  if s.ptu.intOsc then done s
  else
    let s := (s.wrB PTU_STATUS_REFCLK_OK false).ptuTo 0
    let s := { s with ptu := { s.ptu with intOsc := true, step := none, needEpoch := true } }
    done (if s.live then ((s.errLog PTU_ERR_REFCLK_LOSS 0).canClkLoss).checkFail 3 else s)

/-- REFCLK valid for 10 ms (R220). -/
def State.refclkBack (s : State) : State :=
  let s := s.wrB PTU_STATUS_REFCLK_OK true
  ({ s with ptu := { s.ptu with intOsc := false } }).canClkBack

/-! ### Fabric time distribution -/

/-- The port of the exchange: UP, the neighbour on the protection path when REVERSED, or the spare link of a terminal
node (R225, R256). -/
def State.parentPort (s : State) : Nat :=
  if s.zfb.term.isSome then s.sparePort.getD (s.rd ZFB_ROUTE_CFG_UP)
  else if s.on ZFB_STATUS_REVERSED then s.oppositeUp else s.rd ZFB_ROUTE_CFG_UP

/-- A frame of the time class to a neighbour (R264), on a fabric port that passes it. -/
def State.timeSend (s : State) (p aux : Nat) (words : List WireWord) : State :=
  if s.passes p 2 then
    s.sendPort p false { hdr := { cls := 2, dst := 0, blocks := words.length, ttl := 1, aux := aux }, words := words }
  else s

/-- The lane of the exchange: the Domino lane for half 2, else the mirror lane (R221). -/
def State.timeLane (s : State) : Lane := if s.half2 then .dl else .ml

/-- A TIME frame on a pair lane (R286, R295). -/
def State.timeLaneSend (s : State) (lane : Lane) (words : List WireWord) : State :=
  match lane with
  | .ml => s.mirPush (s.mirFrame 3 0 0 0 0 words)
  | .dl => { s with mir := { s.mir with dlOut := s.mir.dlOut ++ [.time words] } }

/-- SYNC_EXCHANGE_START (R224): a DELAY_REQ to the parent, stamped t1 (in quarter ns of NS32). -/
def execSyncExchangeStart (t1 : BitVec 34) (s : State) : Out :=
  done (whenLive s fun s =>
    let src := s.rd PTU_CTRL_SRC
    let asks := fun (p : Nat) => { s with ptu := { s.ptu with t1 := some (p, t1.toNat) } }
    if src = 2 then (asks s.parentPort).timeSend s.parentPort 1 []
    else if src = 3 then (asks (if s.half2 then 5 else 4)).timeLaneSend s.timeLane []
    else s)

/-- The payload of DELAY_RESP (R264), from t2 and t3 in quarter ns. -/
def respWord (t2 t3 epoch state : Nat) (valid : Bool) : Nat :=
  (t2 / 4) % 2 ^ 32 + ((t3 / 4) % 2 ^ 32) <<< 32 + epoch <<< 64 + state <<< 96 + b2n valid <<< 104 +
  (t2 % 4) <<< 105 + (t3 % 4) <<< 107

/-- DELAY_REQ (R224, R264): the parent stamps its arrival and answers on the port it came in by, 4 standing for the
mirror lane and 5 for the Domino lane; the answer is invalid while REFCLK is lost (R220). -/
def execDelayReq (port : Fin 6) (t2 t3 : BitVec 34) (s : State) : Out :=
  done (whenLive s fun s =>
    let w := payWord (respWord t2.toNat t3.toNat (s.rd PTU_TIME_EPOCH) (s.rd PTU_STATUS_STATE) (!s.ptu.intOsc))
    if port.val = 4 then s.timeLaneSend .ml [w] else if port.val = 5 then s.timeLaneSend .dl [w] else s.timeSend port 2 [w])

/-- The exchange counts as missing (R225). -/
def State.exchangeMiss (s : State) : State :=
  ({ s with ptu := { s.ptu with t1 := none } }).wrB PTU_STATUS_PARENT_OK false

/-- EXCHANGE_MISSING (R225). -/
def execExchangeMissing (s : State) : Out := done (whenLive s fun s => s.exchangeMiss)

/-- The signed difference b − a of two instants in quarter ns of NS32. -/
def diffQ (a b : Nat) : Int := toSigned 34 ((b + 2 ^ 34 - a % 2 ^ 34) % 2 ^ 34)

/-- An exchange of delay d2 and offset e (R224), d2 in quarter ns and doubled: the offset is passed on unless the delay exceeds the
running minimum of the last 64 exchanges on its port by more than DLY_TOL. `loc` is the reference's time. -/
def State.exchanged (s : State) (port : Fin 6) (d2 : Int) (e : Rat) (t : Nat) (loc : Int) : State :=
  let mine := (s.ptu.delays.filter fun x => x.1 = port.val).map (·.2)
  let ds := (d2 :: mine).take 64
  let s := { s with ptu := { s.ptu with
    t1 := none, delays := ds.map (fun d => (port.val, d)) ++ s.ptu.delays.filter fun (x : Nat × Int) => x.1 ≠ port.val } }
  let s := s.wrB PTU_STATUS_PARENT_OK true
  let s := if port.val = 5 then s else s.wr (PTU_PORT_DELAY port) (roundQ ((ds.foldl min d2 : Int) * 10 / 8)).toNat
  if 8 * (s.rd PTU_SYNC_CFG_DLY_TOL : Int) < d2 - mine.foldl min d2 then s.set1 PTU_ERR_DLY_REJ
  else
    let s := if s.ptu.needEpoch && s.rd PTU_STATUS_STATE ≠ 0 then
        ({ s.wr PTU_TIME_EPOCH (loc / 2 ^ 32).toNat with ptu := { s.ptu with needEpoch := false } }).phaseNow
      else s
    s.offset e t 0 loc

/-- DELAY_RESP (R224, R225): the parent's answer, stamped t4 by the node, on the port of the request. `depth` is the parent's number
of hops; ports as for DELAY_REQ, of which the Domino lane has no PTU_PORT. -/
def execDelayResp (port : Fin 6) (t2 t3 t4 : BitVec 34) (epoch : BitVec 32) (pstate : Fin 5) (valid : Bool)
    (depth : Nat) (s : State) : Out :=
  done (whenLive s fun s =>
    match s.ptu.t1 with
    | none => s
    | some (p, t1) =>
      if port.val ≠ p then s
      else if !valid || pstate = 0 then s.exchangeMiss
      else
        let out := diffQ t1 t2.toNat; let back := diffQ t3.toNat t4.toNat
        let asym : Rat := if port.val = 5 then 0 else (s.rdS (PTU_PORT_ASYM port) : Rat) / 10
        let e : Rat := (out - back : Int) / 8 - asym
        let ref : Int := (epoch.toNat * 2 ^ 32 + t3.toNat / 4 : Nat)
        let loc := ref + diff32 (t3.toNat / 4) ((s.ns32 + roundQ e) % 2 ^ 32).toNat
        (s.wr PTU_STATUS_DEPTH (min (depth + 1) 255)).exchanged port (out + back) e (t4.toNat / 4) loc)

/-! ### Other sources -/

/-- The offset written to PTU_OFFSET_IN (R235): OFFSET is signed Q28.4 ns, T its instant. -/
def State.hostOffset (s : State) (off t : Nat) : State × WRes :=
  if s.rd PTU_CTRL_SRC = 4 then
    let e : Rat := (toSigned 32 off : Rat) / 16
    (s.offset e t 0 (s.now + roundQ e), .ok)
  else (s.set1 PTU_ERR_CFG_REJ, .state)

/-- PTU_OFFSET_IN (R235). -/
def execPtuOffsetIn (off t : BitVec 32) (s : State) : Out :=
  done (whenLive s fun s => (s.hostOffset off.toNat t.toNat).1)

/-- PPS_IN_EDGE (R231): an edge of the polarity given is stamped; with SRC = PPS_IN it gives an offset to the nearest
second boundary, at most 500 ms away. -/
def execPpsInEdge (falling : Bool) (t : BitVec 32) (s : State) : Out :=
  done (whenLive s fun s =>
    if s.on PTU_PPS_CFG_PPS_IN_EN && s.on PTU_PPS_CFG_PPS_IN_FALL = falling then
      let s := (s.wr PTU_PPS_IN_T t.toNat).wrapInc PTU_PPS_IN_CNT
      if s.rd PTU_CTRL_SRC = 5 then
        let at' := s.nearNow t.toNat
        let nxt := s.secondFrom at'.toNat
        let e : Int := if (nxt : Int) - at' ≤ 500000000 then nxt - at' else nxt - at' - 1000000000
        s.offset e t.toNat 0 (s.now + e)
      else s
    else s)

/-- SECOND_BOUNDARY (R230, R227): PPS_OUT rises for WIDTH, and a second of HOLDOVER is counted. At T_B of a pending step the
marker is the step's. -/
def execSecondBoundary (s : State) : Out :=
  let s := if s.stepDue then s else s.ppsMark
  done (if s.rd PTU_STATUS_STATE = 2 then s.satInc PTU_HOLD_DUR else s)

/-- REBASE (R230): allowed in FREE and HOLDOVER; clears BASE so that the next GNSS offset sets it. -/
def State.rebase (s : State) : State × WRes :=
  if s.rd PTU_STATUS_STATE = 0 || s.rd PTU_STATUS_STATE = 2 then
    ((s.wr PTU_STATUS_BASE_SET 0).wr PTU_GPS_BASE_BASE 0, .ok)
  else (s.set1 PTU_ERR_CFG_REJ, .state)

/-- REBASE. -/
def execRebase (s : State) : Out := done (whenLive s fun s => s.rebase.1)

/-! ### Timestamp queues -/

/-- PTU_TSQp as its queue stands (R232). -/
def State.tsqShow (s : State) (p : Nat) : State :=
  let q := s.ptu.tsq.getD p []
  let hd := q.headD (0, 0)
  s.wrAll [(PTU_TSQ_T p, hd.1), (PTU_TSQ_ID p, hd.2), (PTU_TSQ_VALID p, b2n !q.isEmpty), (PTU_TSQ_LEVEL p, q.length)]

/-- A stamp entered at the tail of a port's queue, or dropped with OVF (R232). -/
def State.tsqPush (s : State) (p t id : Nat) : State :=
  let q := s.ptu.tsq.getD p []
  if q.length < 16 then
    ({ s with ptu := { s.ptu with tsq := s.ptu.tsq.set p (q ++ [(t % 2 ^ 32, id % 4096)]) } }).tsqShow p
  else s.wrBit PTU_TSQ_STAT_OVF p true

/-- The head entries of the named ports removed (R232). -/
def State.tsqPop (s : State) (mask : Nat) : State :=
  (List.range 6).foldl (fun s p =>
    if mask.testBit p then
      ({ s with ptu := { s.ptu with tsq := modAt s.ptu.tsq p (List.drop 1) } }).tsqShow p
    else s) s

/-- TSQ_POP (R232). -/
def execTsqPop (mask : BitVec 6) (s : State) : Out := done (whenLive s fun s => s.tsqPop mask.toNat)

/-- What a source newly selected starts (R227): offsets are counted from it; the root lies no hop from itself (R225). -/
def State.srcTaken (s : State) (old : Nat) : State :=
  if s.rd PTU_CTRL_SRC = old then s
  else
    let s := { s with ptu := { s.ptu with t1 := none, offTick := s.ticks } }
    if s.rd PTU_CTRL_SRC = 1 then s.wr PTU_STATUS_DEPTH 0 else s

/-- The state refuses a write whatever its value (R219, R230, R235). -/
def State.ptuHeld (s : State) (l : RegLoc) (v : Nat) : Bool :=
  if l.row.name = "PTU_CTRL" then bit v 5 && s.rebase.2 ≠ .ok
  else if l.row.name = "PTU_TIME" then s.rd PTU_STATUS_STATE ≠ 0
  else l.row.name = "PTU_INCR" && s.on PTU_CTRL_SERVO_EN

/-- A write to a register of the block (R235): refusals of state before those of range (R307). -/
def State.writePtu (s : State) (l : RegLoc) (v : Nat) : State × WRes :=
  if l.row.name = "PTU_OFFSET_IN" then s.hostOffset (bits v 0 32) (bits v 32 32)
  else if s.ptuHeld l v then (s.set1 PTU_ERR_CFG_REJ, .state)
  else if !l.inRange v then (s.set1 PTU_ERR_CFG_REJ, .range)
  else if l.row.name = "PTU_CTRL" then
    let old := s.rd PTU_CTRL_SRC
    let s := ((if bit v 5 then s.rebase.1 else s).wrReg l v).srcTaken old
    (if s.on PTU_CTRL_PPS_EN then s else { s with ptu := { s.ptu with ppsOut := none } }, .ok)
  else if l.row.name = "PTU_TIME" then ((s.wrReg l v).phaseNow, .ok)
  else if l.row.name = "PTU_INCR" then ({ s.wrReg l v with ptu := { s.ptu with incrFine := 0 } }, .ok)
  else if l.row.name = "PTU_TSQ_POP" then (s.tsqPop (v % 64), .ok)
  else (s.wrReg l v, .ok)

end Sys2Proof.Machine
end

