-- ==== Sys2Proof/Machine/Gnb.lean ====
section
/-!
DEFINITION. Machine/Gnb.lean: the GNSS baseband (chapter 5). The samples come with CORRELATOR_MS; what the spec gives no way to
compute from them (a search's dwells, the lock events, C/N0) comes with its command, and what firmware knows of the
satellites with TIME_SOLUTION.
-/
namespace Sys2Proof.Machine

def State.modGnb (s : State) (f : GnbState → GnbState) : State := { s with gnb := f s.gnb }
def State.gchan (s : State) (n : Nat) : GnbChan := s.gnb.chans.getD n GnbChan.init
def State.modGchan (s : State) (n : Nat) (f : GnbChan → GnbChan) : State :=
  s.modGnb fun g => { g with chans := modAt g.chans n f }

/-- A unit whose role runs or mirrors the engines: none on a MONITOR (R17). -/
def State.engineRole (s : State) : Bool := s.start.phase = .running && s.start.role ≠ .monitor

/-- The baseband runs: RUN = 1, on a coordinator's or a standby's unit but not on half 2 (R17). -/
def State.gnbOn (s : State) : Bool := s.on GNB_CTRL_RUN && s.engineRole && !s.half2

/-- The baseband is there to see GNSS_CLK, whether or not it runs (R109). -/
def whenGnbUnit (s : State) (f : State → State) : State := whenLive s fun s => if s.engineRole && !s.half2 then f s else s

/-! ### Channel states (R115) -/

def State.gst (s : State) (n : Nat) : Nat := s.rd (GNB_CH_STAT_STATE n)

/-- The first channel in SEARCH, in channel order from channel `a` on. -/
def State.gWaiting (s : State) (a : Nat) : Option Nat :=
  ((List.range 24).map fun i => (a + i) % 24).find? fun m => s.gst m = 1

/-- The search engine stays with its channel while that searches; else it takes the next request in channel order
(R115; notes/assumptions/19.md). -/
def State.gServe (s : State) : State :=
  match s.gnb.srch with
  | some n => if s.gst n = 1 then s else s.modGnb fun g => { g with srch := s.gWaiting (n + 1) }
  | none => s.modGnb fun g => { g with srch := s.gWaiting 0 }

/-- A channel in another state, entered in the fault log; the search engine follows. -/
def State.gTo (s : State) (n st : Nat) : State :=
  let old := s.gst n
  let s := s.wr (GNB_CH_STAT_STATE n) st
  (if old = st then s else s.stateLog 3 0 n old st 0).gServe

/-- A channel that is enabled with a PRN of 1 to 32 starts searching. -/
def State.gEnter (s : State) (n : Nat) : State :=
  let p := s.rd (GNB_CH_CFG_PRN n)
  if s.gnbOn && s.on (GNB_CH_CFG_EN n) && 1 ≤ p && p ≤ 32 && s.gst n = 0 then
    (s.gTo n 1).modGchan n fun _ => { GnbChan.init with hint := s.rdS (GNB_CH_CFG_DOPP_HINT n) }
  else s

/-- A channel leaves for IDLE. -/
def State.gIdle (s : State) (n : Nat) : State := (s.gTo n 0).modGchan n fun _ => GnbChan.init

/-- A channel searches anew, with a hint. -/
def State.gAgain (s : State) (n : Nat) (hint : Int) : State :=
  (s.gTo n 1).modGchan n fun _ => { GnbChan.init with hint := hint }

/-- Every enabled channel back to SEARCH, its hint kept. -/
def State.gSearchAll (s : State) : State :=
  (List.range 24).foldl (fun s n => if s.gst n = 0 then s else s.gAgain n (s.gchan n).hint) s

/-- RUN written (R127): the first epoch is that of the first sweep after RUN is set (R119). -/
def State.gnbRun (s : State) (run : Bool) : State :=
  let was := s.on GNB_CTRL_RUN
  let s := s.wrB GNB_CTRL_RUN run
  if run then
    let s := if was then s else s.modGnb fun g => { g with nextK := some (s.firstAfter s.now) }
    (List.range 24).foldl State.gEnter s
  else (List.range 24).foldl State.gIdle (s.modGnb fun g => { g with nextK := none })

/-- Epochs would be shorter than 10 ms (R119). -/
def State.gCadenceBad (s : State) : Bool := !cadenceOk (s.rd GNB_MEAS_CFG_MDIV) (s.rd SCH_GRID_PERIOD_PERIOD)

/-- GNB_RUN (R127). -/
def execGnbRun (run : Bool) (s : State) : Out :=
  done (whenLive s fun s => if run && s.gCadenceBad then s.set1 GNB_ERR_CFG_REJ else s.gnbRun run)

/-- An effect while the baseband runs. -/
def whenGnb (s : State) (f : State → State) : State := whenLive s fun s => if s.gnbOn then f s else s

/-- GNSS_CLK_LOSS (R109). -/
def execGnssClkLoss (s : State) : Out :=
  done (whenGnbUnit s fun s =>
    (((s.set1 GNB_ERR_CLK_LOSS).wrAll [(GNB_STATUS_CLK_OK, 0), (GNB_STATUS_TSOL_VALID, 0)]).modGnb fun g =>
      { g with clkAt := none, clkPer := 1000000 / 16368 }).gSearchAll)

/-- GNSS_CLK_RETURN (R109). -/
def execGnssClkReturn (s : State) : Out := done (whenGnbUnit s fun s => s.wr GNB_STATUS_CLK_OK 1)

/-- INPUT_OVERFLOW (R110). -/
def execInputOverflow (s : State) : Out := done (whenGnb s fun s => (s.set1 GNB_ERR_IN_OVF).gSearchAll)

/-- GNB_CHn_CFG written with its EN bit (R115). -/
def State.gEnable (s : State) (n : Nat) (en : Bool) : State :=
  let s := s.wrB (GNB_CH_CFG_EN n) en
  if en then s.gEnter n else s.gIdle n

/-- GNB_CHANNEL_ENABLE (R115). -/
def execGnbChannelEnable (n : Fin 24) (en : Bool) (s : State) : Out := done (whenLive s fun s => s.gEnable n en)

/-- SEARCH_COMPLETE (R114, R115): how many of three verification dwells confirmed the peak, its Doppler bin of 500 Hz from the
hint and its code cell of half a chip. A bin outside the window is no peak of this search. -/
def execSearchComplete (n : Fin 24) (dwells : Fin 4) (bin : Int) (cell : Fin 2046) (s : State) : Out :=
  done (whenGnb s fun s =>
    let w : Int := s.rd GNB_ACQ_CFG_DOPP_WIN
    if s.gnb.srch ≠ some n.val then s
    else if 2 ≤ dwells.val && -w ≤ bin && bin ≤ w then
      (s.gTo n 2).modGchan n fun c =>
        { GnbChan.init with
          hint := c.hint, dopp := ((2 * c.hint + 500 * bin : Int) : Rat), code := ((cell.val : Nat) : Rat) / 2, lockTick := s.ticks }
    else
      let s := s.satInc (GNB_CH_STAT_ACQ_CNT n)
      s.modGnb fun g => { g with srch := s.gWaiting (n.val + 1) })

/-- PULL_IN_LOCK (R115). -/
def execPullInLock (n : Fin 24) (s : State) : Out :=
  done (whenGnb s fun s =>
    if s.gst n = 2 then (s.gTo n 3).modGchan n fun c => { c with adr := 0, half := true } else s)

/-- PULL_IN_TIMEOUT (R115). -/
def execPullInTimeout (n : Fin 24) (s : State) : Out :=
  done (whenGnb s fun s => if s.gst n = 2 then s.gAgain n (s.gchan n).hint else s)

/-- BIT_SYNC (R115): integration is 20 ms from the bit edge on. -/
def execBitSync (n : Fin 24) (s : State) : Out :=
  done (whenGnb s fun s =>
    if s.gst n = 3 then
      (s.gTo n 4).modGchan n fun c =>
        { c with nms := 0, long := noSums, bits := 0, nbits := 0, d29 := false, d30 := false, inv := false, wordIdx := 0 }
    else s)

/-- CYCLE_SLIP (R115). -/
def execCycleSlip (n : Fin 24) (s : State) : Out :=
  done (whenGnb s fun s =>
    if 3 ≤ s.gst n then
      ((s.errLog GNB_ERR_SLIP n).wrapInc (GNB_CH_STAT_SLIP_CNT n)).modGchan n fun c =>
        { c with slip := true, lockTick := s.ticks, slipTick := some s.ticks }
    else s)

/-- SIGNAL_LOSS (R115): the last Doppler, in 2 Hz, becomes the hint. -/
def execSignalLoss (n : Fin 24) (s : State) : Out :=
  done (whenGnb s fun s =>
    if 2 ≤ s.gst n then s.gAgain n (satSigned 14 (roundQ ((s.gchan n).dopp / 2))) else s)

/-- NAV_PARITY_LOSS (R115): TLM has failed in two subframes in a row. -/
def execNavParityLoss (n : Fin 24) (s : State) : Out :=
  done (whenGnb s fun s =>
    if s.gst n = 5 && 2 ≤ (s.gchan n).tlmBad then
      (s.gTo n 4).modGchan n fun c => { c with txOk := false, bits := 0, nbits := 0, tlmBad := 0 }
    else s)

/-! ### Navigation words (R117, R118) -/

/-- Source data bits that enter parity bits D25 to D30, and whether D29* (else D30*) enters (IS-GPS-200). -/
def navEqs : List (Bool × List Nat) :=
  [(true, [1, 2, 3, 5, 6, 10, 11, 12, 13, 14, 17, 18, 20, 23]), (false, [2, 3, 4, 6, 7, 11, 12, 13, 14, 15, 18, 19, 21, 24]),
   (true, [1, 3, 4, 5, 7, 8, 12, 13, 14, 15, 16, 19, 20, 22]), (false, [2, 4, 5, 6, 8, 9, 13, 14, 15, 16, 17, 20, 21, 23]),
   (false, [1, 3, 5, 6, 7, 9, 10, 14, 15, 16, 17, 18, 21, 22, 24]), (true, [3, 5, 6, 8, 9, 10, 11, 13, 15, 19, 22, 23, 24])]

/-- Bit D_i of a word with D1 in bit 29. -/
def navBit (w i : Nat) : Bool := bit w (30 - i)

/-- A word with its data bits inverted where D30* is 1. -/
def navData (d30 : Bool) (w : Nat) : Nat := if d30 then w ^^^ 0x3FFFFFC0 else w

/-- The (32, 26) check of a word whose data bits have been corrected. -/
def navParity (d29 d30 : Bool) (w : Nat) : Bool :=
  (List.range 6).all fun j =>
    let q := navEqs.getD j (true, [])
    (q.2.foldl (fun a i => a ^^ navBit w i) (if q.1 then d29 else d30)) = navBit w (25 + j)

/-- A 30-bit word of a bit stream, `back` bits before its newest, and whether it passes parity; its data. -/
def navAt (h back : Nat) : Nat := bits h back 30
def navAtOk (h back : Nat) : Bool :=
  navParity (bit h (back + 31)) (bit h (back + 30)) (navData (bit h (back + 30)) (navAt h back))
def navAtData (h back : Nat) : Nat := navData (bit h (back + 30)) (navAt h back)

/-- The subframe ID of a HOW (bits 20 to 22), and the time of week in ms that it gives for the subframe after it. -/
def howId (d : Nat) : Nat := bits d 8 3
def howMs (d : Nat) : Nat := bits d 13 17 * 6000

/-- Frame sync on a bit stream of k bits, upright, whose newest TLM ended `back` bits ago (R117). -/
def frameFound (h k back : Nat) : Bool :=
  back + 332 ≤ k && bits (navAt h (back + 300)) 22 8 = 0x8B && bits (navAt h back) 22 8 = 0x8B &&
  navAtOk h (back + 300) && navAtOk h (back + 270) && navAtOk h back &&
  1 ≤ howId (navAtData h (back + 270)) && howId (navAtData h (back + 270)) ≤ 5

/-- FRAME_SYNC (R115, R117): the preamble has recurred in a TLM word that ended `back` bits ago, in either polarity. The
polarity settles the half cycle, and the HOW of the subframe before gives the transmit time. -/
def execFrameSync (n : Fin 24) (back : Fin 300) (s : State) : Out :=
  done (whenGnb s fun s =>
    let c := s.gchan n
    let b := back.val
    let inv := !frameFound c.bits c.nbits b
    let h := if inv then c.bits ^^^ (2 ^ 640 - 1) else c.bits
    if s.gst n = 4 && frameFound h c.nbits b then
      (s.gTo n 5).modGchan n fun c =>
        { c with
          half := false, txOk := true, inv := inv, wordIdx := (1 + b / 30) % 10, tlmBad := 0,
          d29 := bit h (b % 30 + 1), d30 := bit h (b % 30), adr := if inv then c.adr + 1 / 2 else c.adr,
          weekMs := (howMs (navAtData h (b + 270)) + 600 + 20 * b + c.nms) % 604800000 }
    else s)

/-- NAV_WORD (R117, R118): a complete word as demodulated, D1 in bit 29, and the instant of its last bit edge. -/
def execNavWord (n : Fin 24) (w : BitVec 30) (t : BitVec 32) (s : State) : Out :=
  done (whenGnb s fun s =>
    let st := s.gst n
    if st ≠ 4 && st ≠ 5 then s
    else
      let c := s.gchan n
      let raw := if c.inv then w.toNat ^^^ 0x3FFFFFFF else w.toNat
      let d := navData c.d30 raw
      let ok := navParity c.d29 c.d30 d
      let s := s.modGchan n fun c =>
        { c with
          d29 := bit raw 1, d30 := bit raw 0, wordIdx := (c.wordIdx + 1) % 10,
          bits := if st = 4 then (c.bits * 2 ^ 30 + w.toNat) % 2 ^ 640 else c.bits,
          nbits := if st = 4 then min (c.nbits + 30) 640 else c.nbits,
          tlmBad := if st = 5 && c.wordIdx = 0 then (if ok then 0 else c.tlmBad + 1) else c.tlmBad }
      let wp := s.rd GNB_NAV_PTR_WR
      if (wp + 1) % 256 = s.rd GNB_NAV_PTR_RD then (s.set1 GNB_ERR_NAV_OVF).satInc GNB_NAV_PTR_DROP_CNT
      else
        s.wrAll [(GNB_NAV_WORD wp, d), (GNB_NAV_PARITY_OK wp, b2n ok), (GNB_NAV_T wp, t.toNat), (GNB_NAV_CH wp, n),
          (GNB_NAV_PRN wp, s.rd (GNB_CH_CFG_PRN n)), (GNB_NAV_WORD_IDX wp, if st = 5 then c.wordIdx + 1 else 0),
          (GNB_NAV_PTR_WR, wp + 1)])

/-! ### Correlators (R108 to R113) -/

/-- How a channel is set up for its correlators. -/
def State.corrSet (s : State) (n : Nat) : CorrSet :=
  let d : Rat := (s.rd (GNB_CH_CFG_SPACING n) : Nat) / 200
  let extra : List Rat :=
    if 20 ≤ n then (List.range 8).map fun j => (s.rdS (GNB_PC_OFF_OFF (n - 20) j) : Rat) / 100 else []
  { st := s.gst n, code := caCode (s.rd (GNB_CH_CFG_PRN n)), offs := [-d, 0, d] ++ extra ++ List.replicate (8 - extra.length) 0,
    ifHz := (s.rd GNB_IF_CFG_IF_HZ : Nat), sense := if s.on GNB_IF_CFG_INV then -1 else 1, disc := s.rd (GNB_CH_CFG_DISC n),
    dll := (s.rd GNB_MEAS_CFG_DLL_BW : Nat) / 100, pll := (s.rd GNB_MEAS_CFG_PLL_BW : Nat) }

/-- A millisecond's sums of privileged channel m, ended at an instant (R113). -/
def State.gDump (s : State) (m : Nat) (l : List (Int × Int)) (t : Int) : State :=
  let s := (List.range 22).foldl (fun s j =>
    let a := l.getD (j / 2) (0, 0)
    s.wrS (GNB_PC_CORR_SUMS m j) (satSigned 32 (if j % 2 = 0 then a.1 else a.2))) s
  let s := (s.wr (GNB_PC_CORR_T m) (t % 2 ^ 32).toNat).wrapInc (GNB_PC_CORR_SEQ m)
  s.modGchan (20 + m) fun c => { c with waiting := s.rd (GNB_CH_CFG_DISC (20 + m)) = 2 }

/-- The block of samples in channel n. -/
def State.gBlock (s : State) (xs : List (Int × Int)) (n : Nat) : State :=
  if s.gst n < 2 then s
  else
    let r := GnbChan.block (s.corrSet n) xs (s.gchan n)
    let s := s.modGchan n fun _ => r.1
    if n < 20 then s
    else
      r.2.foldl (fun s d =>
        s.gDump (n - 20) d.2 (roundQ (s.gnb.clkAt.getD 0 - ((d.1 : Nat) : Rat) * s.gnb.clkPer))) s

/-- CORRELATOR_MS (R108, R109, R111, R113): the samples since the last stamp, 16,368 of them, as the lines I1, I0, Q1, Q0 in
bits 3 to 0, and the NS32 stamp of the last. The rate tracker places them and every channel takes them. -/
def execCorrelatorMs (samples : List (BitVec 4)) (t : BitVec 32) (s : State) : Out :=
  done (whenGnb s fun s =>
    if !s.on GNB_STATUS_CLK_OK || samples.isEmpty then s
    else
      let r := rateTrack ((samples.length : Nat) : Rat) (1000000 / 16368) s.gnb.clkAt s.gnb.clkPer (s.stampAt t.toNat : Int)
      let s := s.modGnb fun g => { g with clkAt := some r.1, clkPer := r.2.1 }
      let xs := samples.map (gnssSample (s.on GNB_IF_CFG_REAL) (s.on GNB_IF_CFG_IQ_SWAP))
      (List.range 24).foldl (fun s n => s.gBlock xs n) s)

/-- The code loop of privileged channel m takes firmware's error, in 2^−31 chip (R112, R113). -/
def State.gErrTake (s : State) (m : Nat) (e : Int) : State :=
  let k := s.corrSet (20 + m)
  s.modGchan (20 + m) fun c => ({ c with waiting := false }).codeLoop k 1 ((e : Rat) / 2147483648)

/-- The firmware error written to GNB_PCm_CORR word 24 (R113). -/
def State.gErrIn (s : State) (m v : Nat) : State :=
  if (s.gchan (20 + m)).waiting then s.gErrTake m (toSigned 32 v) else s

/-- FIRMWARE_ERROR_DEADLINE (R113). -/
def execFirmwareErrorDeadline (m : Fin 4) (s : State) : Out :=
  done (whenGnb s fun s =>
    if (s.gchan (20 + m)).waiting then (s.satInc (GNB_PC_CORR_LATE m)).gErrTake m 0 else s)

/-! ### Measurements (R119 to R121) -/

/-- A second and 100 ms in ticks. -/
def gnbSecond : Nat := 250000000
def gnb100ms : Nat := 25000000

/-- A C/N0 above CN0_MAX, or 10 dB or more above one of the last second (R125). -/
def State.cn0High (s : State) (old : List (Nat × Nat)) (v : Nat) : Bool :=
  100 * s.rd GNB_INTEG_CFG_CN0_MAX < v || old.any fun e => s.ticks - e.1 ≤ gnbSecond && e.2 + 1000 ≤ v

/-- C/N0 spread below CN0_SPREAD (R125): the deviation of values in 0.01 dB against 0.1 dB. -/
def State.cn0Uniform (s : State) (v : List Nat) : Bool :=
  let n := v.length
  let sum := v.foldl (· + ·) 0
  let sq := v.foldl (fun a x => a + x * x) 0
  6 ≤ n && n * sq - sum * sum < n * n * (10 * s.rd GNB_INTEG_CFG_CN0_SPREAD) ^ 2

/-- What channel n holds at instant M, its oscillators carried to M, and the channel after the latch (R119 to R121). -/
def State.gObs (s : State) (m n cn0 : Nat) : GnbRec × GnbChan :=
  let c := s.gchan n
  let dt := (((m : Nat) : Rat) - s.gnb.clkAt.getD m) / s.gnb.clkPer
  let code := c.code + dt * c.chips
  let adr := c.adr + dt * c.dopp / gnssClk
  let hi := s.cn0High c.cn0 cn0
  let old := match c.slipTick with | some t => gnb100ms ≤ s.ticks - t | none => true
  ({ ch := n, prn := s.rd (GNB_CH_CFG_PRN n), slips := s.rd (GNB_CH_STAT_SLIP_CNT n),
     ttx := ((c.weekMs : Nat) : Rat) * 1000000 + code * 1000000 / 1023, adr := satSigned 64 (roundQ (adr * 16777216)),
     dopp := satSigned 32 (roundQ (c.dopp * 65536)), cn0 := min cn0 0xFFFF, lock := min ((s.ticks - c.lockTick) / 2500000) 0xFFFF,
     state := s.gst n, half := c.half, slip := c.slip, adrOk := old, high := hi, susp := hi, excl := false, mism := false },
   { c with slip := false, cn0 := (s.ticks, cn0) :: c.cn0.filter fun e => s.ticks - e.1 ≤ gnbSecond })

/-- The C/N0 of channel n: as measured now, or the last one. -/
def State.gCn0 (s : State) (l : List (Fin 24 × Nat)) (n : Nat) : Nat :=
  match l.find? (fun e => e.1.val = n) with
  | some e => e.2
  | none => ((s.gchan n).cn0.head?.map (·.2)).getD 0

/-- The latest sweep not after the present among every (MDIV + 1)-th from the one that is due (R119). -/
def State.gDueSweep (s : State) : Option Nat :=
  match s.gnb.nextK, s.lastAt s.now with
  | some a, some b => if a ≤ b then some (b - (b - a) % (s.rd GNB_MEAS_CFG_MDIV + 1)) else none
  | _, _ => none

/-- The epoch before is over: partner data that did not come are counted, and a check that did not run shows nothing (R126). -/
def State.gEpochEnd (s : State) : State :=
  match s.gnb.epoch with
  | none => s
  | some e =>
    let met : Bool := match s.gnb.partner with | some p => p.sweep == e.sweep | none => false
    let miss := if met then 0 else s.gnb.missed + 1
    let s := s.modGnb fun g => { g with missed := miss }
    let s := if 3 ≤ miss then s.wr GNB_STATUS_PARTNER_OK 0 else s
    if met && s.on GNB_PARTNER_CFG_PART_EN then s else s.wr GNB_STATUS_PARTNER_DIFF 0

/-- MEASUREMENT_LATCH (R119, R121, R125): the states of every channel in TRACK to NAV at the sweep instant M that is due, with
the C/N0 measured of each; the checks of C/N0 run. -/
def execMeasurementLatch (cn0 : List (Fin 24 × Nat)) (s : State) : Out :=
  done (whenGnb s fun s =>
    match s.gDueSweep with
    | none => s
    | some k =>
      let s := s.gEpochEnd
      let m := s.sweepAt k
      let l := ((List.range 24).filter fun n => 3 ≤ s.gst n).map fun n => (n, s.gCn0 cn0 n)
      let rs := l.map fun e => (s.gObs m e.1 e.2).1
      let uni := s.cn0Uniform (rs.map (·.cn0))
      let rs := if uni then rs.map fun r => { r with susp := true } else rs
      let ok : Bool := !rs.isEmpty && rs.all (!·.high) && !uni
      let s' := l.foldl (fun a e =>
        (a.modGchan e.1 fun _ => (s.gObs m e.1 e.2).2).wr (GNB_CH_STAT_CN0 e.1) (min (e.2 / 100) 255)) s
      let s' := s'.wrB GNB_STATUS_CN0_UNIFORM uni
      let s' := if uni then s'.errLog GNB_ERR_CN0_UNIFORM 0 else s'
      s'.modGnb fun g => { g with
        nextK := some (k + s.rd GNB_MEAS_CFG_MDIV + 1),
        epoch := some { m := m, sweep := k % 2 ^ 32, recs := rs, integ := b2n ok + 32 * b2n uni, uni := uni, off := none,
                        given := false, pub := false } })

/-- GPS ns in a week. -/
def gpsWeek : Nat := 604800000000000

/-- t_rx of an instant M in ns of the GPS week, by the last valid time solution (R120). -/
def State.gTrx (s : State) (m : Nat) : Rat :=
  let e : Int := 2 ^ 32 * s.rd GNB_TSOL_EPOCH + s.rd GNB_TSOL_NS32
  s.rd GNB_TSOL_TOW_NS + (((m : Int) - e : Int) : Rat) - (s.rd GNB_DELAY_DLY : Nat) / 10

/-- PR of a record in UQ32.32 m (R120). -/
def State.gPr (s : State) (m : Nat) (r : GnbRec) : Nat :=
  let d := s.gTrx m - r.ttx
  let d := if d < 0 then d + gpsWeek else d
  min (roundQ (299792458 * d / 1000000000 * 4294967296)).toNat (2 ^ 64 - 1)

/-- PR_VALID (R120, R121). -/
def State.gPrValid (s : State) (r : GnbRec) : Bool := r.state = 5 && s.on GNB_TSOL_VALID

/-- The 32 bytes of a record (R121). -/
def State.gRecord (s : State) (m : Nat) (r : GnbRec) : Bytes :=
  let pv := s.gPrValid r
  let fl := b2n pv + 2 * b2n r.adrOk + 4 * b2n r.half + 8 * b2n r.slip + 16 * b2n (20 ≤ r.ch) + 32 * b2n r.susp +
    64 * b2n r.excl + 128 * b2n r.mism + 256 * b2n r.high
  bytesOf 32 ((if pv then s.gPr m r else 0) + ofSigned 64 r.adr <<< 64 + ofSigned 32 r.dopp <<< 128 + r.cn0 <<< 160 +
    r.lock <<< 176 + r.ch <<< 192 + r.prn <<< 200 + r.state <<< 208 + r.slips <<< 216 +
    fl <<< 224)

/-- The bytes of an epoch (R121). -/
def State.gEpoch (s : State) (e : GnbEpoch) : Bytes :=
  bytesOf 32 (e.m % 2 ^ 64 + e.sweep <<< 64 + e.recs.length <<< 96 + e.integ <<< 104) ++ e.recs.flatMap (s.gRecord e.m)

/-- A published epoch in GNB_MEAS, unused words zero, and in GNB_STATUS (R121, R124). -/
def State.gShow (s : State) (e : GnbEpoch) : State :=
  let b := s.gEpoch e
  let s := (List.range 200).foldl (fun s i => s.wr (GNB_MEAS_W i) (field b (4 * i) 4)) s
  s.wrAll [(GNB_STATUS_INTEG_OK, e.integ % 2), (GNB_STATUS_N_VALID, (e.recs.filter s.gPrValid).length),
    (GNB_STATUS_TSOL_VALID, b2n e.given)]

/-- The epoch changed; one that has been published shows it. -/
def State.gSetEpoch (s : State) (e : GnbEpoch) : State :=
  let s := s.modGnb fun g => { g with epoch := some e }
  if e.pub then s.gShow e else s

/-- What partner data say (R126): the sweep, the time offset as a fraction, each PR_VALID pseudorange with its PRN. -/
def State.partnerSays (s : State) (e : GnbEpoch) : List Int :=
  let b := e.off.getD 0
  [(e.sweep : Int), b.num, (b.den : Int)] ++
    (e.recs.filter s.gPrValid).flatMap fun r => [(r.prn : Int), (s.gPr e.m r : Int)]

/-- Partner data of an epoch sent on the mirror lane as a GNSS frame; the layout of its payload is not stated
(notes/assumptions/19.md). -/
def State.gSendPartner (s : State) (e : GnbEpoch) : State :=
  let l := s.partnerSays e
  let w := 1 + ((e.recs.filter s.gPrValid).length + 2) / 3
  s.mirPush (s.mirFrame 4 0 0 0 0 (payWords ((List.range (32 * w)).map (Config.partnerByte l))))

/-- MEASUREMENT_PUBLISH (R121, R124, R126): M + 2.0 ms of the epoch latched last. -/
def execMeasurementPublish (s : State) : Out :=
  done (whenGnb s fun s =>
    match s.gnb.epoch with
    | none => s
    | some e =>
      let e := { e with pub := true }
      let s := s.gSetEpoch e
      if s.prd.mlUp && e.off.isSome then s.gSendPartner e else s)

/-! ### Time solution and integrity (R123 to R126) -/

/-- 100 times the inverse chi-square value at 1 − 10^−5 for 1 to 20 degrees of freedom (R125). -/
def chiLimits : List Nat :=
  [1951, 2303, 2590, 2847, 3086, 3311, 3526, 3733, 3934, 4130, 4321, 4508, 4691, 4872, 5049, 5224, 5397, 5568, 5737, 5904]

/-- The residual test over normalised residuals. -/
def chiOk (res : List Rat) : Bool :=
  decide ((res.foldl (fun a r => a + r * r) (0 : Rat)) * 100 ≤ ((chiLimits.getD (res.length - 5) 0 : Nat) : Rat))

/-- The place of the largest magnitude. -/
def worstRes (res : List Rat) : Nat :=
  let m := (res.map absQ).foldl max 0
  ((List.range res.length).find? fun i => absQ (res.getD i 0) = m).getD 0

/-- σ of a satellite in m by its C/N0 in 0.01 dB-Hz (R123). -/
def gSigma (cn0 : Nat) : Rat := max (1 / 2) (realExp (realLn 10 * (45 - ((cn0 : Nat) : Rat) / 100) / 20) / 2)

/-- A span in ns of two times of the GPS week, the shorter way round. -/
def weekDiff (a b : Rat) : Rat :=
  let w : Rat := (gpsWeek : Nat)
  let d := a - b
  d - w * (d / w + 1 / 2).floor

/-- Residual of a satellite in m at position and clock p, and the row of its linear equation (R123): `pr` is its
pseudorange on a clock that p's fourth element corrects, in m. -/
def gRow (p : Vec) (t : GnbSat) (pr : Rat) : Rat × Vec :=
  let d := vSub (p.take 3) [t.x, t.y, t.z]
  let r := realSqrt (vDot d d)
  let e := pr + t.cor + p.getD 3 0 - r
  (e, (if r = 0 then [0, 0, 0] else vScale (1 / r) d) ++ [-1])

/-- One step of weighted least squares on (satellite, pseudorange, σ): none where the geometry gives no solution. -/
def gIter (l : List (GnbSat × Rat × Rat)) (p : Vec) : Option Vec :=
  let rows := l.map fun e =>
    let g := gRow p e.1 e.2.1
    (vScale (1 / e.2.2) g.2, g.1 / e.2.2)
  let a := rows.map Prod.fst
  let at' := mT 4 a
  let rhs := mVec at' (rows.map Prod.snd)
  match linSolve 4 ((mMul 4 at' a).zipWith (fun r b => r ++ [b]) rhs) with
  | some d => some ((vAdd p d).map round32)
  | none => none

def gIters (l : List (GnbSat × Rat × Rat)) : Nat → Vec → Option Vec
  | 0, p => some p
  | n + 1, p =>
    match gIter l p with
    | some q => gIters l n q
    | none => none

/-- Position and clock by weighted least squares, in ten steps from the earth's centre (notes/assumptions/19.md): the time of the
GPS week in ns at M, and the normalised residuals. -/
def State.gFit (s : State) (l : List (GnbRec × GnbSat)) : Option (Rat × List Rat) :=
  match l with
  | [] => none
  | f :: _ =>
    let obs := l.map fun e => (e.2, 299792458 * (70000000 - weekDiff e.1.ttx f.1.ttx) / 1000000000, gSigma e.1.cn0)
    match gIters obs 10 [0, 0, 0, 0] with
    | none => none
    | some p =>
      let t := f.1.ttx + 70000000 + p.getD 3 0 * 1000000000 / 299792458 + (s.rd GNB_DELAY_DLY : Nat) / 10
      let w : Rat := (gpsWeek : Nat)
      some (t - w * (t / w).floor, obs.map fun e => (gRow p e.1 e.2.1).1 / e.2.2)

/-- What the residual checks leave (R125): the time of week, the channel excluded, FAIL, UNCHECKED. -/
structure GnbSolved where
  tow   : Rat
  excl  : Option Nat
  fail  : Bool
  unchk : Bool

/-- The solution of four or more usable records and its residual test, with one exclusion (R125). -/
def State.gSolve (s : State) (l : List (GnbRec × GnbSat)) : Option GnbSolved :=
  let n := l.length
  if n < 4 then none
  else match s.gFit l with
    | none => none
    | some (t, res) =>
      if n = 4 then some { tow := t, excl := none, fail := false, unchk := true }
      else if chiOk res then some { tow := t, excl := none, fail := false, unchk := false }
      else if n = 5 then some { tow := t, excl := none, fail := true, unchk := false }
      else
        let x := worstRes res
        let ch := l[x]?.map fun e => e.1.ch
        match s.gFit (l.eraseIdx x) with
        | some (t2, res2) => some { tow := t2, excl := ch, fail := !chiOk res2, unchk := false }
        | none => some { tow := t, excl := ch, fail := true, unchk := false }

/-- The mean drift of the offset over the last 10 epochs (R125). -/
def gDrift (h : List (Rat × Rat)) : Rat :=
  match h.head?, h.getLast? with
  | some a, some b => if a.1 = b.1 then 0 else (a.2 - b.2) / (a.1 - b.1)
  | _, _ => 0

/-- The clock-jump check on an offset b at instant m (R125): a jump found now; one that still waits; the state after. -/
def State.gJump (s : State) (m b : Rat) (resOk : Bool) : State × Bool × Bool :=
  let thr : Rat := 10 * (s.rd GNB_INTEG_CFG_CLK_THR : Nat)
  let h := s.gnb.hist
  let push := fun (g : GnbState) (l : List (Rat × Rat)) => { g with hist := ((m, b) :: l).take 11 }
  match s.gnb.jump, h with
  | some (dr, k), a :: _ =>
    if absQ (b - a.2 - dr * (m - a.1)) ≤ thr && resOk then
      if s.rd GNB_INTEG_CFG_CLK_CONF ≤ k + 1 then (s.modGnb fun g => { push g h with jump := none }, false, false)
      else (s.modGnb fun g => { push g h with jump := some (dr, k + 1) }, false, true)
    else (s.modGnb fun g => { push g [] with jump := some (dr, 0) }, false, true)
  | none, a :: _ =>
    if s.on GNB_STATUS_TSOL_VALID && thr < absQ (b - a.2 - gDrift h * (m - a.1)) then
      (s.modGnb fun g => { push g [] with jump := some (gDrift h, 0) }, true, true)
    else (s.modGnb fun g => push g h, false, false)
  | _, [] => (s.modGnb fun g => push g [], false, false)

/-- Bit k of n set to b. -/
def withBit (n k : Nat) (b : Bool) : Nat := n - (if bit n k then 2 ^ k else 0) + (if b then 2 ^ k else 0)

/-- The pseudorange of a record and the partner's of the same PRN differ, less the clocks' difference d in ns, by more than
10 m (R125). -/
def State.gFar (s : State) (e : GnbEpoch) (p : GnbPartner) (d : Rat) (r : GnbRec) : Bool :=
  s.gPrValid r && match aGet r.prn p.prs with
    | some q => decide ((10 : Rat) <
        absQ ((((s.gPr e.m r : Nat) : Rat) - (q : Nat)) / 4294967296 - 299792458 * d / 1000000000))
    | none => false

/-- The partner check of the present epoch (R125, R126), once both sides have their offsets. -/
def State.gPartner (s : State) : State :=
  match s.gnb.epoch, s.gnb.partner with
  | some e, some p =>
    match e.off with
    | some b =>
      if s.on GNB_PARTNER_CFG_PART_EN && p.sweep = e.sweep then
        let far := s.gFar e p (b - p.off)
        let bad : Bool := decide (((s.rd GNB_PARTNER_CFG_PART_THR : Nat) : Rat) < absQ (b - p.off)) || e.recs.any far
        let s := s.wrB GNB_STATUS_PARTNER_DIFF bad
        let s := if bad then s.errLog GNB_ERR_PARTNER_DIFF 0 else s
        s.gSetEpoch { e with
          recs := e.recs.map fun r => { r with mism := far r },
          integ := withBit e.integ 6 bad - (if bad then e.integ % 2 else 0) }
      else s
    | none => s
  | _, _ => s

/-- A GNSS offset reaches plant time (R123, R230): the first one after REBASE sets BASE. -/
def State.gDeliver (s : State) (m : Nat) (gps : Rat) : State :=
  if s.rd PTU_CTRL_SRC = 1 then
    let base := roundQ (gps - m)
    let s := if !s.on PTU_STATUS_BASE_SET && s.rd PTU_STATUS_STATE ≠ 0 then
        (s.wr PTU_GPS_BASE_BASE (base % 2 ^ 64).toNat).wr PTU_STATUS_BASE_SET 1 else s
    let e : Rat := if s.on PTU_STATUS_BASE_SET then gps - m - (toSigned 64 (s.rd PTU_GPS_BASE_BASE) : Int) else 0
    s.offset e (m % 2 ^ 32) base (s.now + roundQ e)
  else s

/-- GNB_TSOL and GNB_PPS from a solution (R123). -/
def State.gTsol (s : State) (m : Nat) (gps : Rat) : State :=
  let g := (roundQ gps).toNat
  let tow := g % gpsWeek
  s.wrAll [(GNB_TSOL_NS32, m), (GNB_TSOL_EPOCH, m / 2 ^ 32), (GNB_TSOL_TOW_NS, tow), (GNB_TSOL_WEEK, g / gpsWeek), (GNB_TSOL_VALID, 1),
    (GNB_PPS_NS32, (m + 2 ^ 32 - tow % 10 ^ 9) % 2 ^ 32), (GNB_PPS_TOW_S, tow / 10 ^ 9), (GNB_PPS_VALID, 1)]

/-- The usable records with what firmware knows of their satellites: those in NAV, whose transmit time is known, and not
CN0_HIGH. Once a time solution exists they are the PR_VALID ones (R120; notes/assumptions/19.md). -/
def gUsable (recs : List GnbRec) (sats : List GnbSat) : List (GnbRec × GnbSat) :=
  recs.filterMap fun r =>
    if r.state = 5 && !r.high then (sats.find? fun t => t.ch.val = r.ch).map fun t => (r, t) else none

/-- TIME_SOLUTION (R123 to R125): firmware's solution of the epoch latched last, from what it knows of the satellites, and the
GPS week of M. -/
def execTimeSolution (week : BitVec 10) (sats : List GnbSat) (s : State) : Out :=
  done (whenGnb s fun s =>
    match s.gnb.epoch with
    | none => s
    | some e =>
      match s.gSolve (gUsable e.recs sats) with
      | none => s
      | some r =>
        let gps := r.tow + ((week.toNat * gpsWeek : Nat) : Rat)
        let b := gps - ((e.m : Nat) : Rat)
        let jr := s.gJump ((e.m : Nat) : Rat) b (!r.fail)
        let wait := jr.2.2
        let recs := e.recs.map fun x =>
          let out := r.excl = some x.ch
          { x with excl := out, susp := x.susp || out || r.fail || wait }
        let s := jr.1
        let allow := !r.fail && !wait && !e.uni && s.on GNB_STATUS_CLK_OK
        let deliver := allow && s.on GNB_CTRL_TSOL_EN
        let ok := !r.fail && !wait && !e.uni && recs.all (!·.high)
        let integ := b2n ok + 2 * b2n r.fail + 4 * b2n r.unchk + 8 * b2n r.excl.isSome + 16 * b2n wait + 32 * b2n e.uni +
          128 * b2n deliver
        let s := if r.fail then s.errLog GNB_ERR_INTEG_FAIL 0 else s
        let s := if jr.2.1 then s.errLog GNB_ERR_CLK_JUMP 0 else s
        let s := if allow then s.gTsol e.m gps else s
        let s := s.gSetEpoch { e with recs := recs, integ := integ, off := some b, given := deliver }
        let s := s.wrAll [(GNB_STATUS_TSOL_VALID, b2n deliver), (GNB_STATUS_CLK_JUMP, b2n wait)]
        let s := s.gPartner
        if deliver then s.gDeliver e.m gps else s)

/-- GNSS_PARTNER_FRAME (R126): data of another epoch than the local one are ignored. -/
def execGnssPartnerFrame (sweep : BitVec 32) (off : Rat) (prs : List (Nat × Nat)) (s : State) : Out :=
  done (whenGnb s fun s =>
    match s.gnb.epoch with
    | some e =>
      if e.sweep = sweep.toNat then
        let s := s.modGnb fun g => { g with partner := some { sweep := sweep.toNat, off := off, prs := prs }, missed := 0 }
        (s.wr GNB_STATUS_PARTNER_OK 1).gPartner
      else s
    | none => s)

/-- A write of GNB_CHn_CFG that would change PRN, SPACING or DISC of an enabled channel (R116). -/
def State.gChanHeld (s : State) (n v : Nat) : Bool :=
  s.on (GNB_CH_CFG_EN n) && (bits v 0 6 ≠ s.rd (GNB_CH_CFG_PRN n) || bits v 8 7 ≠ s.rd (GNB_CH_CFG_SPACING n) ||
    bits v 16 2 ≠ s.rd (GNB_CH_CFG_DISC n))

/-- A DISC that channel n may not take (R112). -/
def State.gDiscBad (s : State) (n disc : Nat) : Bool :=
  disc = 3 || (disc ≠ 0 && n < 20) ||
    (disc = 1 && s.rdS (GNB_PC_OFF_OFF (n - 20) 0) ≠ -(s.rdS (GNB_PC_OFF_OFF (n - 20) 1)))

/-- A write to a register of the block (R112, R116, R119, R127): refusals of state before those of range (R307). Offsets that
would leave a DISC of 1 without symmetric extras are refused as that DISC is (notes/assumptions/19.md). -/
def State.writeGnb (s : State) (l : RegLoc) (v : Nat) : State × WRes :=
  let rej := (s.set1 GNB_ERR_CFG_REJ, WRes.range)
  let st := (s.set1 GNB_ERR_CFG_REJ, WRes.state)
  if (l.row.name = "GNB_IF_CFG" || l.row.name = "GNB_MEAS_CFG") && s.on GNB_CTRL_RUN then st
  else if l.row.name = "GNB_CH_CFG" && s.gChanHeld l.n v then st
  else if !l.inRange v then rej
  else if l.row.name = "GNB_CTRL" then
    if bit v 0 && s.gCadenceBad then rej else ((s.wrReg l (v - v % 2 + s.rd GNB_CTRL_RUN)).gnbRun (bit v 0), .ok)
  else if l.row.name = "GNB_MEAS_CFG" && !cadenceOk (v % 256) (s.rd SCH_GRID_PERIOD_PERIOD) then rej
  else if l.row.name = "GNB_CH_CFG" then
    if s.gDiscBad l.n (bits v 16 2) then rej
    else
      let s := s.wrReg l v
      let h := s.rdS (GNB_CH_CFG_DOPP_HINT l.n)
      (if bit v 6 then (s.gEnter l.n).modGchan l.n fun c => { c with hint := h } else s.gIdle l.n, .ok)
  else if l.row.name = "GNB_PC_OFF" && s.rd (GNB_CH_CFG_DISC (20 + l.n)) = 1 &&
      toSigned 16 (bits v 0 16) ≠ -(toSigned 16 (bits v 16 16)) then rej
  else if l.row.name = "GNB_PC_CORR" then (s.gErrIn l.n (bits v 768 32), .ok)
  else if l.row.name = "GNB_PARTNER_CFG" && !bit v 16 then ((s.wrReg l v).wr GNB_STATUS_PARTNER_DIFF 0, .ok)
  else (s.wrReg l v, .ok)

end Sys2Proof.Machine
end

