-- ==== Sys2Proof/Machine/F64.lean ====
section
/-!
DEFINITION. Machine/F64.lean: IEEE 754 binary64 on bit patterns, rounding to nearest with ties to even, subnormals kept (R153), and
the value of binary32 patterns.
-/
namespace Sys2Proof.Machine

/-- A binary64 pattern is finite. -/
def f64Finite (b : Nat) : Bool := bits b 52 11 ≠ 0x7FF

/-- The value of a finite binary64 pattern. -/
def f64Val (b : Nat) : Rat :=
  let e := bits b 52 11
  let m : Rat := if e = 0 then (bits b 0 52 : Nat) else ((bits b 0 52 + 2 ^ 52 : Nat) : Rat)
  let e := if e = 0 then 1 else e
  let v := if 1075 ≤ e then m * 2 ^ (e - 1075) else m / 2 ^ (1075 - e)
  if bit b 63 then -v else v

/-- The value of a binary32 pattern. -/
def f32Val (b : Nat) : Rat :=
  let e := bits b 23 8
  let m : Rat := if e = 0 then (bits b 0 23 : Nat) else ((bits b 0 23 + 2 ^ 23 : Nat) : Rat)
  let e := if e = 0 then 1 else e
  let v := if 150 ≤ e then m * 2 ^ (e - 150) else m / 2 ^ (150 - e)
  if bit b 31 then -v else v

/-- A fraction rounded to the nearest whole number, ties to even (R153). -/
def roundEven (q : Rat) : Nat :=
  let f := q.floor.toNat
  let r := q - (f : Rat)
  if r < 1 / 2 then f else if 1 / 2 < r then f + 1 else if f % 2 = 0 then f else f + 1

/-- The binary64 pattern nearest to a fraction (R153). -/
def f64Of (q : Rat) : Nat :=
  if q = 0 then 0
  else
    let a := absQ q
    let e : Int := (Nat.log2 a.num.natAbs : Int) - Nat.log2 a.den
    let e := if a < (if 0 ≤ e then (2 : Rat) ^ e.toNat else 1 / 2 ^ (-e).toNat) then e - 1 else e
    let e := max e (-1022)
    let m := roundEven (if e ≤ 52 then a * 2 ^ (52 - e).toNat else a / 2 ^ (e - 52).toNat)
    min ((e + 1022).toNat * 2 ^ 52 + m) 0x7FF0000000000000 + (if q < 0 then 2 ^ 63 else 0)

/-- A number as binary64 holds it. -/
def rnd64 (q : Rat) : Rat := f64Val (f64Of q)

/-! ### Arithmetic -/

/-- Patterns of 1.0, of −∞ and +∞, and of the NaN that operations give. -/
def f64One : Nat := 0x3FF0000000000000
def f64NegInf : Nat := 0xFFF0000000000000
def f64PosInf : Nat := 0x7FF0000000000000
def f64NaN : Nat := 0x7FF8000000000000

def f64IsNaN (a : Nat) : Bool := bits a 52 11 = 0x7FF && bits a 0 52 ≠ 0
def f64IsInf (a : Nat) : Bool := bits a 52 11 = 0x7FF && bits a 0 52 = 0
def f64Neg (a : Nat) : Nat := a ^^^ 2 ^ 63
def f64IsZero (a : Nat) : Bool := a % 2 ^ 63 = 0

/-- The pattern of an exact result; an exact zero takes the sign given. -/
def f64Put (neg : Bool) (q : Rat) : Nat := if q = 0 then (if neg then 2 ^ 63 else 0) else f64Of q

def f64Add (a b : Nat) : Nat :=
  if f64IsNaN a || f64IsNaN b then f64NaN
  else if f64IsInf a then (if f64IsInf b && bit a 63 ≠ bit b 63 then f64NaN else a)
  else if f64IsInf b then b
  else f64Put (bit a 63 && bit b 63) (f64Val a + f64Val b)

def f64Sub (a b : Nat) : Nat := f64Add a (f64Neg b)

def f64Mul (a b : Nat) : Nat :=
  let neg := bit a 63 != bit b 63
  if f64IsNaN a || f64IsNaN b then f64NaN
  else if f64IsInf a || f64IsInf b then
    if f64IsZero a || f64IsZero b then f64NaN else if neg then f64NegInf else f64PosInf
  else f64Put neg (f64Val a * f64Val b)

def f64Div (a b : Nat) : Nat :=
  let neg := bit a 63 != bit b 63
  if f64IsNaN a || f64IsNaN b then f64NaN
  else if f64IsInf a then (if f64IsInf b then f64NaN else if neg then f64NegInf else f64PosInf)
  else if f64IsInf b then f64Put neg 0
  else if f64IsZero b then (if f64IsZero a then f64NaN else if neg then f64NegInf else f64PosInf)
  else f64Put neg (f64Val a / f64Val b)

/-- a · b + c rounded once. -/
def f64Fma (a b c : Nat) : Nat :=
  if f64IsNaN a || f64IsNaN b || f64IsNaN c || f64IsInf a || f64IsInf b || f64IsInf c then f64Add (f64Mul a b) c
  else f64Put ((bit a 63 != bit b 63) && bit c 63) (f64Val a * f64Val b + f64Val c)

/-- The square root: that of a finite number is the binary64 number next below or at it, or the one above where that is
nearer, found on the whole number root of its scaled value. -/
def f64Sqrt (a : Nat) : Nat :=
  if f64IsNaN a || f64IsZero a then (if f64IsNaN a then f64NaN else a)
  else if bit a 63 then f64NaN
  else if f64IsInf a then a
  else
    let v := f64Val a * 2 ^ 1200
    let r := isqrt64 (v.floor.toNat * 2 ^ 200)
    f64Of (((2 * r + (if r * r = v.floor.toNat * 2 ^ 200 then 0 else 1) : Nat) : Rat) / 2 ^ 701)
where
  /-- The whole part of a square root. -/
  isqrt64 (n : Nat) : Nat := go n (Nat.log2 n / 2 + 1) 0
  go (n : Nat) : Nat → Nat → Nat
    | 0, r => r
    | k + 1, r => go n k (if (r + 2 ^ k) * (r + 2 ^ k) ≤ n then r + 2 ^ k else r)

def f64Lt (a b : Nat) : Bool :=
  if f64IsNaN a || f64IsNaN b then false
  else if f64IsInf a || f64IsInf b then
    (if bit a 63 && f64IsInf a then !(f64IsInf b && bit b 63) else f64IsInf b && !bit b 63 && !(f64IsInf a && !bit a 63))
  else decide (f64Val a < f64Val b)
def f64Le (a b : Nat) : Bool := !f64IsNaN a && !f64IsNaN b && !f64Lt b a
def f64Abs (a : Nat) : Nat := a % 2 ^ 63
def f64Max (a b : Nat) : Nat := if f64IsNaN a || f64IsNaN b then f64NaN else if f64Lt a b then b else a
def f64Min (a b : Nat) : Nat := if f64IsNaN a || f64IsNaN b then f64NaN else if f64Lt b a then b else a

end Sys2Proof.Machine
end

