-- ==== Sys2Proof/Machine/Plant.lean ====
section
/-!
DEFINITION. Machine/Plant.lean: the plant description of the active set (R178 to R180), the shape of the joint problem
(R185, R187) and its admission bound (R197). Units: kN, kN·m, kW, m, rad, s.
-/
namespace Sys2Proof.Machine

/-! ### Records (R178 to R180) -/

/-- A thruster. Type 1 tunnel, 2 azimuth, 3 propeller with rudder; position in m; kN, kN/s, 0.01°/s; zones in 0.01°. -/
structure Thr where
  typ  : Nat
  sec  : Nat
  x    : Rat
  y    : Rat
  fwd  : Rat
  rev  : Rat
  rate : Rat
  slew : Nat
  kpow : Rat
  fref : Rat
  rud  : Rat
  zones : List (Nat × Nat)

structure PStr where
  sec    : Nat
  nMod   : Nat
  pres   : Bool
  remote : Bool
  first  : Nat
  rate   : Rat
  conv   : Rat

structure PGen where
  sec  : Nat
  pMin : Rat
  pMax : Rat
  rate : Rat
  c1   : Rat

/-- A plant description. `mass`, `damp` hold the 11, 22, 26 and 66 terms; `w` the ten weights; `area` the wind areas; `ties`
the fitted ties: number, sections, P_MAX. -/
structure Plant where
  nSec : Nat
  loss : Bool
  thrs : List Thr
  strs : List PStr
  gens : List PGen
  ties : List (Nat × Nat × Nat × Rat)
  mass : List Rat
  damp : List Rat
  w    : List Rat
  area : List Rat
  /-- Frequency and damping of the wave model in surge, sway and yaw. -/
  wave : List Rat

def sI (n k : Nat) : Rat := (toSigned k n : Int)
def u16 (b : Bytes) (o : Nat) : Nat := field b o 2

def thrOf (b : Bytes) : Thr :=
  { typ := field b 0 1, sec := field b 1 1, x := sI (u16 b 4) 16 / 100, y := sI (u16 b 6) 16 / 100, fwd := (u16 b 8 : Nat) / 10,
    rev := (u16 b 10 : Nat) / 10, rate := (u16 b 12 : Nat) / 10, slew := u16 b 14, kpow := f32Val (field b 16 4),
    fref := (u16 b 20 : Nat) / 10, rud := (u16 b 22 : Nat) / 32768,
    zones := [(u16 b 24, u16 b 26), (u16 b 28, u16 b 30)].filter fun z => z.1 ≠ z.2 }

def strOf (b : Bytes) : PStr :=
  { sec := field b 0 1, nMod := field b 1 1, pres := bit (field b 2 1) 0, remote := bit (field b 2 1) 1, first := field b 4 4,
    rate := (u16 b 8 : Nat), conv := (u16 b 10 : Nat) }

def genOf (b : Bytes) : PGen :=
  { sec := field b 0 1, pMin := (u16 b 4 : Nat), pMax := (u16 b 6 : Nat), rate := (u16 b 8 : Nat), c1 := f32Val (field b 12 4) }

/-- Where the records of a plant description lie. -/
def plantThrAt (i : Nat) : Nat := 256 + 32 * i
def plantStrAt (b : Bytes) (k : Nat) : Nat := 256 + 32 * field b 1 1 + 16 * k
def plantGenAt (b : Bytes) (g : Nat) : Nat := plantStrAt b (field b 4 2) + 16 * g

/-- A plant description read from its section. -/
def plantOf (b : Bytes) : Plant :=
  { nSec := field b 3 1, loss := field b 6 1 = 1,
    thrs := (List.range (field b 1 1)).map fun i => thrOf (slice b (plantThrAt i) 32),
    strs := (List.range (field b 4 2)).map fun k => strOf (slice b (plantStrAt b k) 16),
    gens := (List.range (field b 2 1)).map fun g => genOf (slice b (plantGenAt b g) 16),
    ties := ((List.range 3).filter fun t => u16 b (10 + 4 * t) ≠ 0).map fun t =>
      (t, field b (8 + 4 * t) 1, field b (9 + 4 * t) 1, ((u16 b (10 + 4 * t) : Nat) : Rat)),
    mass := (List.range 4).map fun i => f64Val (field b (32 + 8 * i) 8),
    damp := (List.range 4).map fun i => f64Val (field b (64 + 8 * i) 8),
    w := (List.range 10).map fun i => f64Val (field b (144 + 8 * i) 8),
    area := (List.range 3).map fun i => f64Val (field b (224 + 8 * i) 8),
    wave := (List.range 6).map fun i => f64Val (field b (96 + 8 * i) 8) }

/-- The active set's plant description (R324): TYPE 5. -/
def State.plant (s : State) : Plant := plantOf ((aGet 5 s.cfg.secs).getD [])

/-! ### The shape of the problem (R185, R187) -/

def Plant.ofType (p : Plant) (t : Nat) : List Nat :=
  (List.range p.thrs.length).filter fun i => (p.thrs.getD i (thrOf [])).typ = t
def Plant.thr (p : Plant) (i : Nat) : Thr := p.thrs.getD i (thrOf [])
def Plant.str (p : Plant) (k : Nat) : PStr := p.strs.getD k (strOf [])
def Plant.gen (p : Plant) (g : Nat) : PGen := p.gens.getD g (genOf [])
def Plant.lossN (p : Plant) : Nat := if p.loss then 1 else 0

/-- First variable of thruster i. -/
def Plant.thrVar (p : Plant) (i : Nat) : Nat :=
  let b := 4 + p.nSec
  let tun := (p.ofType 1).length; let az := (p.ofType 2).length
  match (p.thr i).typ with
  | 1 => b + (p.ofType 1).idxOf i
  | 2 => b + tun + 2 * (p.ofType 2).idxOf i
  | _ => b + tun + 2 * az + 2 * (p.ofType 3).idxOf i

def Plant.strBase (p : Plant) : Nat :=
  4 + p.nSec + (p.ofType 1).length + 2 * (p.ofType 2).length + 2 * (p.ofType 3).length
def Plant.strVar (p : Plant) (k : Nat) : Nat := p.strBase + k * (1 + p.lossN)
def Plant.genVar (p : Plant) (g : Nat) : Nat := p.strBase + p.strs.length * (1 + p.lossN) + g
def Plant.tieVar (p : Plant) (t : Nat) : Nat := p.genVar p.gens.length + t

/-- n and m of R185. -/
def Plant.n (p : Plant) : Nat := p.tieVar p.ties.length
def Plant.m (p : Plant) : Nat :=
  4 + p.nSec + 3 * (p.ofType 2).length + 2 * (p.ofType 3).length + p.lossN * p.strs.length

/-- The generalised force of thruster i by its variables (R187): (variable, surge, sway, yaw). -/
def Plant.force (p : Plant) (i : Nat) : List (Nat × Rat × Rat × Rat) :=
  let t := p.thr i; let v := p.thrVar i
  if t.typ = 1 then [(v, 0, 1, t.x)] else [(v, 1, 0, -t.y), (v + 1, 0, 1, t.x)]

/-- Every thruster's. -/
def Plant.forces (p : Plant) : List (Nat × Rat × Rat × Rat) := (List.range p.thrs.length).flatMap p.force

/-- String variables with their sign in the bus balance. -/
def Plant.strTerms (p : Plant) (k : Nat) : List (Nat × Rat) :=
  if p.loss then [(p.strVar k, 1), (p.strVar k + 1, -1)] else [(p.strVar k, 1)]

/-- Nonzero coefficients of each row at their most: coefficients that the geometry makes 0 are left out (R170, R197). -/
def Plant.rowSizes (p : Plant) : List Nat :=
  let nz := fun (f : Nat × Rat × Rat × Rat → Rat) => (p.forces.filter fun c => f c ≠ 0).length
  let bus := (List.range p.nSec).map fun j =>
    1 + ((List.range p.thrs.length).filter fun i => (p.thr i).sec = j).foldl (fun a i => a + (if (p.thr i).typ = 2 then 2 else 1)) 0 +
    (p.strs.filter (·.sec = j)).length * (1 + p.lossN) + (p.gens.filter (·.sec = j)).length +
    (p.ties.filter fun t => t.2.1 = j || t.2.2.1 = j).length
  [nz (·.2.1) + 1, nz (·.2.2.1) + 1, nz (·.2.2.2) + 1, p.forces.length + 1] ++ bus ++
  List.replicate (3 * (p.ofType 2).length + 2 * (p.ofType 3).length) 2 ++ List.replicate (p.lossN * p.strs.length) 2

def Plant.nnz (p : Plant) : Nat := p.rowSizes.foldl (· + ·) 0

/-! ### Checks (R178, R180) and admission (R197) -/

/-- Checks of a plant description: 0 good, 1 LENGTH_EXCEEDS, 5 invalid. -/
def plantCheck (b : Bytes) (domino : Bool) (helmDom : Nat) : Nat :=
  let p := plantOf b
  if 32 < p.thrs.length || 256 < p.strs.length || 16 < p.gens.length || 4 < p.nSec || (if domino then 1024 else 512) < p.n ||
      1024 < p.m then 1
  else
    let f := fun (o : Nat) => field b o 8
    let fin := ((List.range 8).map (32 + 8 * ·) ++ (List.range 19).map (96 + 8 * ·)).all fun o => 240 < o || f64Finite (f o)
    let secs := p.thrs.map (·.sec) ++ p.strs.map (·.sec) ++ p.gens.map (·.sec) ++ p.ties.flatMap fun t => [t.2.1, t.2.2.1]
    let wt := fun (i : Nat) => p.w.getD i 0
    let ms := fun (i : Nat) => p.mass.getD i 0
    if field b 0 1 ≠ 1 || p.nSec = 0 || 1 < field b 6 1 || !fin || secs.any (p.nSec ≤ ·) || p.ties.any (fun t => t.2.1 = t.2.2.1) ||
        ms 0 ≤ 0 || ms 1 ≤ 0 || ms 3 ≤ 0 || p.w.any (· < 0) || wt 2 = 0 || wt 3 = 0 || wt 4 = 0 ||
        p.thrs.any (fun t => t.typ = 0 || 3 < t.typ || (t.typ = 2 && t.rev ≠ 0)) ||
        p.strs.any (fun t => if t.remote then t.nMod = helmDom || t.first ≠ 0 else t.nMod = 0 || 64 < t.nMod) then 5
    else 0

/-- The dense rate of R169 at the slow corner, in operations per ns. -/
def denseRate (n : Nat) (domino : Bool) : Rat :=
  (if 128 ≤ n then 40 else 40 * (n : Rat) / 128) * (if domino then 2 else 1)

/-- t_F and t_S of R170 in ns. -/
def Plant.tF (p : Plant) (domino : Bool) : Rat :=
  (((p.rowSizes.foldl (fun a r => a + r * (r + 1)) 0 : Nat) : Rat) + (p.n : Rat) ^ 3 / 3) / denseRate p.n domino
def Plant.tS (p : Plant) (domino : Bool) : Rat :=
  (if domino then 8000 else 6000) + (8 * (p.nnz : Rat) + 8 * (p.n : Rat) ^ 2 + 40 * ((p.n + p.m : Nat) : Rat)) / denseRate p.n domino

/-- The admission bound of R197 in ns. -/
def Plant.bound (p : Plant) (maxIter : Nat) (domino : Bool) : Rat :=
  6000 + 8 * ((2 * (p.n + p.m) + p.nnz : Nat) : Rat) + (maxIter : Rat) * (p.tF domino + p.tS domino)

/-- Microseconds, rounded up. -/
def usUp (ns : Rat) : Nat := (ns / 1000).ceil.toNat

end Sys2Proof.Machine
end

