-- ==== Sys2Proof/Machine/Vessel.lean ====
section
/-!
DEFINITION. Machine/Vessel.lean: the vessel model of R182, which the helm's prediction and fusion share (R137), and the force
commanded at an instant (R184). Units: kN, kN·m, t, m, rad, s.
-/
namespace Sys2Proof.Machine

def Triple.add (a b : Triple) : Triple := { x := a.x + b.x, y := a.y + b.y, n := a.n + b.n }
def Triple.sub (a b : Triple) : Triple := { x := a.x - b.x, y := a.y - b.y, n := a.n - b.n }
def Triple.scale (k : Rat) (a : Triple) : Triple := { x := k * a.x, y := k * a.y, n := k * a.n }

/-- Body to north and east, and back. -/
def rot (h : Rat) (t : Triple) : Triple :=
  { x := realCos h * t.x - realSin h * t.y, y := realSin h * t.x + realCos h * t.y, n := t.n }
def rotT (h : Rat) (t : Triple) : Triple :=
  { x := realCos h * t.x + realSin h * t.y, y := realCos h * t.y - realSin h * t.x, n := t.n }

/-- An angle wrapped to [−π, π). -/
def wrapPi (a : Rat) : Rat := a - 2 * realPi * (((a + realPi) / (2 * realPi)).floor : Rat)

/-- A symmetric matrix of 11, 22, 26 and 66 terms times a triple, and its inverse times one. -/
def matMul (m : List Rat) (t : Triple) : Triple :=
  { x := m.getD 0 0 * t.x, y := m.getD 1 0 * t.y + m.getD 2 0 * t.n, n := m.getD 2 0 * t.y + m.getD 3 0 * t.n }
def matInv (m : List Rat) (t : Triple) : Triple :=
  let d := m.getD 1 0 * m.getD 3 0 - m.getD 2 0 * m.getD 2 0
  { x := t.x / m.getD 0 0, y := (m.getD 3 0 * t.y - m.getD 2 0 * t.n) / d, n := (m.getD 1 0 * t.n - m.getD 2 0 * t.y) / d }

def Motion.vel (m : Motion) : Triple := { x := m.u, y := m.v, n := m.r }
def Motion.pos (m : Motion) : Triple := { x := m.n, y := m.e, n := m.h }
def Motion.of (p v : Triple) : Motion := { n := p.x, e := p.y, h := p.n, u := v.x, v := v.y, r := v.n }

/-- M ν̇ + D ν = τ + b, η̇ = R(ψ) ν. -/
def Plant.deriv (p : Plant) (f : Triple) (m : Motion) : Motion :=
  Motion.of (rot m.h m.vel) (matInv p.mass (f.sub (matMul p.damp m.vel)))

def Motion.step (m d : Motion) (k : Rat) : Motion := Motion.of (m.pos.add (d.pos.scale k)) (m.vel.add (d.vel.scale k))

/-- One fourth-order Runge-Kutta step of k seconds. -/
def Plant.rk4 (p : Plant) (f : Triple) (k : Rat) (m : Motion) : Motion :=
  let a := p.deriv f m
  let b := p.deriv f (m.step a (k / 2))
  let c := p.deriv f (m.step b (k / 2))
  let d := p.deriv f (m.step c k)
  (((m.step a (k / 6)).step b (k / 3)).step c (k / 3)).step d (k / 6)

def iter {α : Type} (f : α → α) : Nat → α → α
  | 0, a => a
  | n + 1, a => iter f n (f a)

/-- The state carried over a span of ns under a constant force, in steps of at most 1 ms. -/
def Plant.carry (p : Plant) (f : Triple) (ns : Nat) (m : Motion) : Motion :=
  if ns = 0 then m
  else
    let n := (ns + 999999) / 1000000 + Config.helmSteps
    iter (p.rk4 f ((ns : Rat) / 1000000000 / (n : Rat))) n m

/-- The force in force at an instant (R182, R184). -/
def State.forceAt (s : State) (t : Int) : Triple :=
  match s.hlm.hist.find? fun e => (e.1 : Int) ≤ t with | some e => e.2 | none => Triple.zero

/-- The ends of the pieces of constant commanded force from t0 to t1. -/
def State.forceCuts (s : State) (t0 t1 : Int) : List Int :=
  (s.hlm.hist.reverse.map (fun e => (e.1 : Int))).filter (fun t => t0 < t && t < t1) ++ [t1]

end Sys2Proof.Machine
end

