-- ==== Sys2Proof/Machine/Kalman.lean ====
section
/-!
DEFINITION. Machine/Kalman.lean: the arithmetic of the vessel filter and of the track filters (R137 to R139, R146, R149), and the
local frame of R134. What R137 leaves open of the filter is in notes/assumptions/20.md. The 17 states: 0 north, 1 east, 2 heading;
3 surge, 4 sway, 5 yaw rate; 6 to 8 bias in kN and kN·m; 9 to 14 wave displacement and its rate in surge, sway and yaw; 15, 16 clock
offset in m and drift in m/s.
-/
namespace Sys2Proof.Machine

def vGet (x : Vec) (i : Nat) : Rat := x.getD i 0
def vTriple (x : Vec) (i : Nat) : Triple := { x := vGet x i, y := vGet x (i + 1), n := vGet x (i + 2) }
def tVec (t : Triple) : Vec := [t.x, t.y, t.n]

/-- Φ P Φᵀ for a symmetric P and a linear map given as a function. -/
def mCong (n : Nat) (lin : Vec → Vec) (p : Mat) : Mat := (mT n (p.map lin)).map lin

/-! ### Prediction -/

/-- The wave oscillators' derivative, the same on a state and on a difference of states. -/
def Plant.waveDot (p : Plant) (x : Vec) : Vec :=
  [0, 1, 2].flatMap fun a =>
    let w := vGet p.wave (2 * a)
    let z := vGet p.wave (2 * a + 1)
    let q := vGet x (10 + 2 * a)
    [q, -(w * w * vGet x (9 + 2 * a)) - 2 * z * w * q]

/-- The derivative of the 17 states under a commanded force. -/
def Plant.fusDot (p : Plant) (f : Triple) (x : Vec) : Vec :=
  let v := vTriple x 3
  tVec (rot (vGet x 2) v) ++ tVec (matInv p.mass ((f.add (vTriple x 6)).sub (matMul p.damp v))) ++ [0, 0, 0] ++
    p.waveDot x ++ [vGet x 16, 0]

/-- Its linear part at x, of a difference d. -/
def Plant.fusLin (p : Plant) (x d : Vec) : Vec :=
  let v := vTriple x 3
  let dv := vTriple d 3
  let turn : Triple := { x := -(v.y * vGet d 2), y := v.x * vGet d 2, n := 0 }
  tVec (rot (vGet x 2) (dv.add turn)) ++ tVec (matInv p.mass ((vTriple d 6).sub (matMul p.damp dv))) ++ [0, 0, 0] ++
    p.waveDot d ++ [vGet d 16, 0]

/-- States and covariance, each number as binary64 holds it. -/
def kfRound (e : Vec × Mat) : Vec × Mat := (e.1.map rnd64, e.2.map fun r => r.map rnd64)

/-- One step of h seconds: the states by fourth-order Runge-Kutta, the covariance through the linear part to second order. -/
def Plant.fusStep (p : Plant) (f : Triple) (h : Rat) (e : Vec × Mat) : Vec × Mat :=
  let x := e.1
  let a := p.fusDot f x
  let b := p.fusDot f (vAdd x (vScale (h / 2) a))
  let c := p.fusDot f (vAdd x (vScale (h / 2) b))
  let d := p.fusDot f (vAdd x (vScale h c))
  let lin := fun v =>
    let g := p.fusLin x v
    vAdd (vAdd v (vScale h g)) (vScale (h * h / 2) (p.fusLin x g))
  kfRound (vAdd x (vScale (h / 6) (vAdd (vAdd a (vScale 2 b)) (vAdd (vScale 2 c) d))),
    mAdd (mCong 17 lin e.2) (mDiag ((List.range 17).map fun i => h * Config.fusNoise i)))

/-- Carried over a span of ns under a constant force. -/
def Plant.fusCarry (p : Plant) (f : Triple) (ns : Nat) (e : Vec × Mat) : Vec × Mat :=
  if ns = 0 then e
  else
    let n := (ns + 999999) / 1000000 + Config.fusSteps
    iter (p.fusStep f ((ns : Rat) / 1000000000 / (n : Rat))) n e

/-- Carried from t0 to t1 under the thrust commanded in each interval (R137, R184). -/
def State.fusPredict (s : State) (t0 t1 : Int) (e : Vec × Mat) : Vec × Mat :=
  ((s.forceCuts t0 t1).foldl (fun (a : Int × Vec × Mat) t =>
    (t, s.plant.fusCarry (s.forceAt a.1) (t - a.1).toNat a.2)) (t0, e)).2

/-! ### Update -/

/-- A scalar innovation e applied, its row h and variance r; the covariance in Joseph form (R137). -/
def kfScalar (e : Vec × Mat) (inn : Rat) (h : Vec) (r : Rat) : Vec × Mat :=
  let ph := mVec e.2 h
  let k := vScale (1 / (vDot h ph + r)) ph
  kfRound (vAdd e.1 (vScale inn k),
    mAdd (mCong h.length (fun d => vSub d (vScale (vDot h d) k)) e.2) ((vOuter k k).map (vScale r)))

/-- State i set, with a variance and no correlation (R143). -/
def kfSet (e : Vec × Mat) (i : Nat) (v var : Rat) : Vec × Mat :=
  (e.1.set i v, (e.2.map fun r => r.set i 0).set i ((List.replicate e.1.length 0).set i var))

/-- A measurement of the vessel filter: its value less what the filter held at its instant; what it measures of a state; its row
at a state; its variance; whether it is an angle. -/
structure KfMeas where
  d   : Rat
  h   : Vec → Rat
  row : Vec → Vec
  var : Rat
  ang : Bool

/-- Applied at the present state e, of which w0 was the prediction: the value is carried forward by the filter's change. -/
def KfMeas.apply (m : KfMeas) (w0 : Vec) (e : Vec × Mat) : Vec × Mat :=
  let i := m.d + m.h w0 - m.h e.1
  kfScalar e (if m.ang then wrapPi i else i) (m.row e.1) m.var

/-- A row with the elements listed. -/
def kfRow (l : List (Nat × Rat)) : Vec := (List.range 17).map fun i => (aGet i l).getD 0

/-! ### What measurements see -/

/-- Wave displacement to north, east and in yaw; north, east and heading with it. -/
def waveNE (x : Vec) : Triple := rot (vGet x 2) { x := vGet x 9, y := vGet x 11, n := vGet x 13 }
def fusPos (x : Vec) : Triple := (vTriple x 0).add (waveNE x)

/-- A lever arm ahead, to starboard and down, tilted by roll and pitch and turned by a heading (R138). -/
def leverNE (h : Rat) (att : Rat × Rat) (l : Triple) : Triple :=
  let sr := realSin att.1; let cr := realCos att.1; let sp := realSin att.2; let cp := realCos att.2
  rot h { x := l.x * cp + (l.y * sr + l.n * cr) * sp, y := l.y * cr - l.n * sr, n := 0 }

/-- The row of a position weighted by c to north and east, at an offset from the reference point that turns with the vessel. -/
def rowNE (x : Vec) (c : Rat × Rat) (off : Triple) : List (Nat × Rat) :=
  let b := rotT (vGet x 2) { x := c.1, y := c.2, n := 0 }
  [(0, c.1), (1, c.2), (2, c.2 * off.x - c.1 * off.y), (9, b.x), (11, b.y)]

/-! ### The local frame (R134) -/

/-- WGS-84: semi-major axis, flattening, eccentricity squared. -/
def wgsA : Rat := 6378137
def wgsF : Rat := 1000000000 / 298257223563
def wgsE2 : Rat := wgsF * (2 - wgsF)

def degRad (d : Rat) : Rat := d * realPi / 180

/-- Radius of the meridian at a latitude. -/
def wgsM (lat : Rat) : Rat :=
  let q := 1 - wgsE2 * realSin lat * realSin lat
  wgsA * (1 - wgsE2) / (q * realSqrt q)

/-- The Earth-fixed point of a latitude, longitude and height. -/
def ecef (lat lon h : Rat) : Vec :=
  let n := wgsA / realSqrt (1 - wgsE2 * realSin lat * realSin lat)
  [(n + h) * realCos lat * realCos lon, (n + h) * realCos lat * realSin lon, (n * (1 - wgsE2) + h) * realSin lat]

/-- A tangent plane: its origin and its north, east and up. -/
structure LocalFrame where
  o : Vec
  n : Vec
  e : Vec
  u : Vec

def localAt (lat lon : Rat) : LocalFrame :=
  let sl := realSin lat; let cl := realCos lat; let so := realSin lon; let co := realCos lon
  { o := ecef lat lon 0, n := [-(sl * co), -(sl * so), cl], e := [-so, co, 0], u := [cl * co, cl * so, sl] }

/-! ### Satellites (R139) -/

/-- Where an antenna lies at a state: its lever arm, and its height over the tangent plane. -/
structure FusAnt where
  fr  : LocalFrame
  att : Rat × Rat
  lev : Triple
  up  : Rat

def FusAnt.off (a : FusAnt) (x : Vec) : Triple := (waveNE x).add (leverNE (vGet x 2) a.att a.lev)
def FusAnt.pos (a : FusAnt) (x : Vec) : Vec :=
  let o := a.off x
  vAdd (vAdd a.fr.o (vScale (vGet x 0 + o.x) a.fr.n)) (vAdd (vScale (vGet x 1 + o.y) a.fr.e) (vScale a.up a.fr.u))

/-- The antenna's velocity to north and east. -/
def FusAnt.vel (a : FusAnt) (x : Vec) : Triple :=
  let o := a.off x
  let r := vGet x 5 + vGet x 14
  (rot (vGet x 2) { x := vGet x 3 + vGet x 10, y := vGet x 4 + vGet x 12, n := 0 }).add { x := -(r * o.y), y := r * o.x, n := 0 }

/-- Range to a point and the direction from it. -/
def rangeTo (a b : Vec) : Rat × Vec :=
  let d := vSub a b
  let r := realSqrt (vDot d d)
  (r, if r = 0 then [0, 0, 0] else vScale (1 / r) d)

/-- What the antenna sees of a satellite's range, and of its range rate, with the receiver clock's part; their rows. -/
def FusAnt.range (a : FusAnt) (sat x : Vec) : Rat := (rangeTo (a.pos x) (sat.take 3)).1 + vGet x 15
def FusAnt.rangeRow (a : FusAnt) (sat x : Vec) : Vec :=
  let u := (rangeTo (a.pos x) (sat.take 3)).2
  kfRow (rowNE x (vDot u a.fr.n, vDot u a.fr.e) (a.off x) ++ [(15, 1)])
def FusAnt.rate (a : FusAnt) (sat x : Vec) : Rat :=
  let u := (rangeTo (a.pos x) (sat.take 3)).2
  let v := a.vel x
  vDot u (vSub (vAdd (vScale v.x a.fr.n) (vScale v.y a.fr.e)) (sat.drop 4)) + vGet x 16
def FusAnt.rateRow (a : FusAnt) (sat x : Vec) : Vec :=
  let u := (rangeTo (a.pos x) (sat.take 3)).2
  let cn := vDot u a.fr.n; let ce := vDot u a.fr.e
  let b := rotT (vGet x 2) { x := cn, y := ce, n := 0 }
  let o := a.off x; let v := a.vel x
  let w := ce * o.x - cn * o.y
  kfRow [(2, ce * v.x - cn * v.y), (3, b.x), (4, b.y), (5, w), (10, b.x), (12, b.y), (14, w), (16, 1)]

/-! ### Tracks (R149) -/

/-- A track carried to t, a constant velocity and turn rate driven by acceleration noise of acc in m/s². -/
def trkTo (acc : Rat) (t : Int) (k : FusTrack) : FusTrack :=
  let h : Rat := ((t - k.t : Int) : Rat) / 1000000000
  let lin := fun (d : Vec) => [vGet d 0 + h * vGet d 2, vGet d 1 + h * vGet d 3, vGet d 2, vGet d 3, vGet d 4 + h * vGet d 5, vGet d 5]
  let q := h * h / 2
  let g := [([q, 0, h, 0, 0, 0] : Vec), [0, q, 0, h, 0, 0]].map (vScale acc) ++ [vScale Config.trkTurn [0, 0, 0, 0, q, h]]
  let e := kfRound (lin k.x, (g.map fun v => vOuter v v).foldl mAdd (mCong 6 lin k.p))
  { k with t := t, x := e.1, p := e.2 }

/-- A track begun at t from a relative position of deviation sg, with the target's heading where it is known. -/
def trkBegin (t : Int) (v : Rat × Rat) (hdg : Option Rat) (sg : Rat) (k : FusTrack) : FusTrack :=
  { k with
    t := t, x := [v.1, v.2, 0, 0, hdg.getD 0, 0],
    p := mDiag ([sg * sg, sg * sg] ++ [2, 3, 4, 5].map Config.trkVar0) }

/-- The normalised innovation squared of a relative position. -/
def trkNis (v : Rat × Rat) (sg : Rat) (k : FusTrack) : Rat :=
  let p := fun i j => vGet (k.p.getD i []) j
  let a := v.1 - vGet k.x 0; let b := v.2 - vGet k.x 1
  let s0 := p 0 0 + sg * sg; let s1 := p 1 1 + sg * sg; let c := p 0 1
  (s1 * a * a - 2 * c * a * b + s0 * b * b) / (s0 * s1 - c * c)

/-- A relative position applied, and the target's heading. -/
def trkUpdate (v : Rat × Rat) (hdg : Option Rat) (sg : Rat) (k : FusTrack) : FusTrack :=
  let one := fun i => (List.replicate 6 (0 : Rat)).set i 1
  let e := (k.x, k.p)
  let e := kfScalar e (v.1 - vGet e.1 0) (one 0) (sg * sg)
  let e := kfScalar e (v.2 - vGet e.1 1) (one 1) (sg * sg)
  let e := match hdg with
    | some h => kfScalar e (wrapPi (h - vGet e.1 4)) (one 4) (Config.trkHdgSigma * Config.trkHdgSigma)
    | none => e
  { k with x := e.1, p := e.2 }

end Sys2Proof.Machine
end

