-- ==== Sys2Proof/Machine/Zfb.lean ====
section
/-!
DEFINITION. Machine/Zfb.lean: ports, frames, rings, sweep frames and command items on the fabric (chapter 11). A frame
delivered to this node stands in `zfb.deliv` until the command of its class takes it.
-/
namespace Sys2Proof.Machine

/-! ### Recall (R261) -/

/-- The senders of sweep id that are still missing: nodes of the map with a front end whose frame has not come. -/
def State.missing (s : State) (id : Nat) : List Nat :=
  ((s.zfb.map.filter fun n => n.front && !s.zfb.got.contains (n.id, id)).map RollNode.id).eraseDups

/-- The missing IDs covered by at most 16 intervals, in rising order; what exceeds 15 goes into the last. -/
def recallIvs (ids : List Nat) : List (Nat × Nat) :=
  let l := ids.mergeSort
  if l.length ≤ 16 then l.map fun i => (i, i)
  else (l.take 15).map (fun i => (i, i)) ++ [((l.drop 15).headD 0, l.getLastD 0)]

/-- The words of a RECALL of one sweep (R261). -/
def recallWords (id : Nat) (ivs : List (Nat × Nat)) : List WireWord :=
  payWord (id + ivs.length <<< 36) :: payWords (ivs.flatMap fun iv => bytesOf 8 (iv.1 + iv.2 <<< 32))

/-- One RECALL of a sweep broadcast by the holder, while frames are missing and RECALL_MAX is not reached. -/
def State.recallOne (s : State) (id : Nat) : State :=
  let n := ((aGet id s.zfb.recalls).getD (0, 0)).1
  let ids := s.missing id
  if s.holds && s.on ZFB_CTRL_RECALL_EN && !ids.isEmpty && n < s.rd ZFB_SWEEP_CFG_RECALL_MAX then
    let h : ZHdr := { cls := 7, dst := bcastId, dstDom := s.rd ZFB_ID_DOMAIN, blocks := 0, aux := 5 }
    let s := s.sendFrame true { hdr := h, words := recallWords id (recallIvs ids) }
    (s.satInc ZFB_CNT_RECALL_CNT).modZfb fun z => { z with recalls := aSet (0, 0) id (n + 1, s.now) z.recalls }
  else s

/-- On a protection event one recall goes at once for every sweep that has frames outstanding. -/
def State.recallAll (s : State) : State :=
  s.zfb.recalls.foldl (fun s e => s.recallOne e.1) s

/-- RECALL_ISSUE (R261): at S + DUE of the sweep with this ID, once. -/
def execRecallIssue (sweep : BitVec 32) (s : State) : Out :=
  done (whenLive s fun s =>
    let due := s.sweepAt (s.sweepOfId sweep.toNat) + 1000 * s.rd ZFB_SWEEP_CFG_DUE
    if due ≤ s.now && (aGet sweep.toNat s.zfb.recalls).isNone then s.recallOne sweep.toNat else s)

/-- RECALL_REPEAT (R261): RECALL_INT after the last recall of the sweep. -/
def execRecallRepeat (sweep : BitVec 32) (s : State) : Out :=
  done (whenLive s fun s =>
    match aGet sweep.toNat s.zfb.recalls with
    | some (_, t) => if t + 100000 * s.rd ZFB_SWEEP_CFG_RECALL_INT ≤ s.now then s.recallOne sweep.toNat else s
    | none => s)

/-! ### Protection (R255, R256) -/

/-- This node is a terminal node (R256). -/
def State.terminal (s : State) : Bool := s.sparePort.isSome

/-- The frame of a reversal notice, passed from node to node. -/
def noticeFrame : ZFrame :=
  let h : ZHdr := { cls := 7, dst := 0, blocks := 1, aux := 4 }
  { hdr := h, words := [payWord 0] }

/-- A notice sent away from a failed UP port. -/
def State.sendNotice (s : State) (port : Nat) : State :=
  if port ≤ 3 then
    let w := payWord (s.rd ZFB_ID_NODE_ID + port <<< 18 + s.ns32 <<< 32)
    s.sendPort port false { noticeFrame with words := [w] }
  else s

/-- This node becomes REVERSED and reports it (R256, R265). -/
def State.reverse (s : State) : State := (s.wrB ZFB_STATUS_REVERSED true).sendEvent 4 (s.rd ZFB_ROUTE_CFG_UP)

/-- What a failed port sets going (R255, R256): a meeting link or a standby attachment causes nothing; a ring port wraps, and P3 with an
alternate; the UP port's failure reverses the section. -/
def State.protect (s : State) (p : Nat) : State :=
  let wraps := p ≤ 1 || (p = 3 && s.rd ZFB_ROUTE_CFG_ALT ≠ 7)
  let turns := s.rd ZFB_ROUTE_CFG_UP = p && (s.terminal || s.oppositeUp ≤ 3)
  if s.rd (ZFB_PORT_ROLE p) = 0 || !(wraps || turns) then s
  else
    let s := s.errLog ZFB_ERR_PROTECT p
    let s := if wraps then s.wrB (ZFB_PORT_WRAP p) true else s
    if !turns then s
    else if s.terminal then s.modZfb fun z => { z with term := some p }
    else (s.reverse).sendNotice s.oppositeUp

/-- A run aborted: every pending ID dropped, a fresh run to follow (R253). -/
def State.rollAbort (s : State) : State :=
  match s.zfb.run with
  | some _ =>
    let s := s.wrAll [(ZFB_ROLL_RES_OUTCOME, 6), (ZFB_STATUS_ROLL_RUN, 0)]
    s.modZfb fun z => { z with run := none, pend := none, again := some s.ticks }
  | none => s.modZfb fun z => { z with again := z.again.map fun _ => s.ticks }

/-- A port changed: what follows for a run and, at the holder, for open sweeps. -/
def State.portEvent (s : State) : State := (s.rollAbort).recallAll

/-! ### Ports (R249, R258) -/

/-- PORT_BLOCK_LOCK (R249). -/
def execPortBlockLock (p : Fin 4) (s : State) : Out :=
  done (whenLive s fun s =>
    if s.on ZFB_CTRL_RUN && s.rd (ZFB_PORT_STATE p) = 0 then
      ((s.wr (ZFB_PORT_STATE p) 1).rollAbort).sendEvent 2 p
    else s)

/-- A port leaves service for a state: the frame in transmission is lost, its queue goes by R255. -/
def State.portOut (s : State) (p st : Nat) : State :=
  let q := (s.zport p).q
  let s := ((s.wr (ZFB_PORT_STATE p) st).modZport p fun _ => { q := [], tx := none }).protect p
  (q.foldl (fun s f => s.egress p f) s).portEvent

/-- PORT_LINK_LOSS (R249, R255, R256). -/
def execPortLinkLoss (p : Fin 4) (s : State) : Out :=
  done (whenLive s fun s =>
    let st := s.rd (ZFB_PORT_STATE p)
    if st = 1 || st = 2 then ((s.satInc (ZFB_PORT_DOWN_CNT p)).portOut p 0).sendEvent 1 p else s)

/-- GUARD_TRIP (R258, R249): what a 1 ms window at a port has shown: no terminate within 2,340 bytes of a start, the KiB that arrived, the
header words that failed their check. -/
def execGuardTrip (p : Fin 4) (long : Bool) (kib bad : Nat) (s : State) : Out :=
  done (whenLive s fun s =>
    let st := s.rd (ZFB_PORT_STATE p)
    if (st = 1 || st = 2) && (long || s.rd (ZFB_PORT_RATE p) < kib || 16 < bad) then ((s.errLog ZFB_ERR_GUARD p).portOut p 3).sendEvent 3 p else s)

/-- GUARD_HOLD_EXPIRY (R249). -/
def execGuardHoldExpiry (p : Fin 4) (s : State) : Out :=
  done (whenLive s fun s =>
    if s.rd (ZFB_PORT_STATE p) = 3 then (s.wr (ZFB_PORT_STATE p) 0).satInc (ZFB_PORT_DOWN_CNT p) else s)

/-- REVERSAL_NOTICE (R256): the notice delivered last. -/
def execReversalNotice (s : State) : Out :=
  done (whenLive s fun s =>
    match s.zfb.deliv with
    | some (p, f) =>
      if f.hdr.cls = 7 && f.hdr.aux = 4 && f.hdr.dst = 0 then
        let s := s.modZfb fun z => { z with deliv := none }
        if s.terminal then (s.set1 ZFB_ERR_PROTECT).modZfb fun z => { z with term := some p }
        else
          let s := s.reverse.set1 ZFB_ERR_PROTECT
          let o := if p ≤ 1 then 1 - p else s.oppositeUp
          if o ≤ 3 then s.sendPort o false { f with own := false } else s
      else s
    | none => s)

/-! ### Payload words (R242) -/

/-- A payload word as it is forwarded (R242): corrected where one symbol was bad; none where it is uncorrectable. -/
def passWord (w : WireWord) : Option WireWord :=
  match pipDecode w with
  | .clean _ => some w
  | .corrected w' _ => some w'
  | .uncorr => none

/-- The payload words passed on, up to the first uncorrectable one, and whether all passed. -/
def passWords : List WireWord → List WireWord × Bool
  | [] => ([], true)
  | w :: l =>
    match passWord w with
    | some w' => let r := passWords l; (w' :: r.1, r.2)
    | none => ([], false)

/-! ### Rings (R268) -/

/-- TX_RING_SUBMIT (R268): a write of ZFB_TX_PTR.TAIL. -/
def State.txTail (s : State) (t : Nat) : State × WRes :=
  if t % 64 = s.rd ZFB_TX_PTR_HEAD then (s.set1 ZFB_ERR_RING_FULL, .state)
  else (s.wr ZFB_TX_PTR_TAIL t, .ok)

def execTxRingSubmit (tail : Fin 64) (s : State) : Out := done (whenLive s fun s => (s.txTail tail).1)

/-- RX_RING_HEAD (R268). -/
def execRxRingHead (head : Fin 64) (s : State) : Out := done (whenLive s fun s => s.wr ZFB_RX_PTR_HEAD head)

/-- n payload words of a descriptor from word w; an uncorrectable one ends them with the error end (R412). -/
def State.descWords : Nat → State → Nat → State × List WireWord × Bool
  | 0, s, _ => (s, [], false)
  | n + 1, s, w =>
    match s.getWord w with
    | (s, none) => (s, [], true)
    | (s, some d) =>
      match State.descWords n s (w + 1) with
      | (s, l, e) => (s, pipEncode d :: l, e)

/-- The next submitted descriptor taken: its frame on its way (R268). A payload address in the endpoint table, the solver
workspace or the journal refuses it (R404). -/
def State.takeDesc (s : State) : State :=
  let head := s.rd ZFB_TX_PTR_HEAD
  if head = s.rd ZFB_TX_PTR_TAIL then s
  else
    let e := s.rd ZFB_TX_RING_ADDR + 64 * head
    match State.getWords 2 (s.wr ZFB_TX_PTR_HEAD (head + 1)) (e / 32) with
    | (s, none) => s
    | (s, some b) =>
      let h := hdrOf (field b 0 32)
      let d := field b 32 32
      if reserved (d % 2 ^ 64) (32 * h.blocks) then s
      else match State.descWords h.blocks s (d % 2 ^ 64 / 32) with
        | (s, words, err) =>
          s.sendFrame (h.src = s.cid && h.coord)
            { hdr := h, words := words, err := err, ts := if bit d 76 then some (bits d 64 12) else none }

/-- Every submitted descriptor taken; the ring holds at most 63. -/
def State.takeDescs : Nat → State → State
  | 0, s => s
  | n + 1, s => State.takeDescs n s.takeDesc

/-! ### Path routing (R252) -/

/-- The path of payload word 0: exit ports, hop count and hop index. -/
def pathOf (w : Nat) : List Nat × Nat :=
  let n := bits w 128 8
  ((List.range n).map fun i => bits w (2 * i) 2, bits w 136 8)

/-- Payload word 0 of a path. -/
def pathWord (path : List Nat) (ix : Nat) : WireWord :=
  payWord (packBits2 path + path.length <<< 128 + ix <<< 136)
where packBits2 (l : List Nat) : Nat := l.foldr (fun v n => n * 4 + v % 4) 0

/-- A path-routed frame out of a port: no protection path applies to it. -/
def State.pathOut (s : State) (q : Nat) (f : ZFrame) : State :=
  if s.passes q f.hdr.cls then s.enqueue q f else s.noRoute q

/-- A ROLL or AUTH frame at a node (R252): passed on along its path, each node leaving its arrival port in the place of
the exit it used (notes/assumptions/16.md), or delivered at the path's end. -/
def State.pathFrame (s : State) (p : Nat) (f : ZFrame) : State :=
  let w := natOf ((f.words.head?.bind pipData).getD [])
  let (path, ix) := pathOf w
  if path.length ≤ ix then s.deliverOk p f
  else
    let q := path.getD ix 0
    s.pathOut q { f with words := pathWord (path.set ix p) (ix + 1) :: f.words.drop 1 }

/-! ### FRAME_RECEIVE -/

/-- A frame with WRAP = 1 (R255). -/
def State.wrapped (s : State) (p : Nat) (f : ZFrame) : State :=
  let g := { f with hdr := { f.hdr with wrap := false } }
  let opp (s : State) := if p ≤ 1 then s.egress (1 - p) f else s.noRoute p
  if f.hdr.dst = bcastId then
    if s.zfb.bcast.contains (f.hdr.src, f.hdr.seq) then opp s
    else
      let s := (s.seenCast f).deliverOk p f
      let s := [2, 3].foldl (fun s q => if s.treePort q f.hdr.scope then s.egress q g else s) s
      opp s
  else if s.addressed f then (s.deliverHalf p f).groupOn p f
  else match [2, 3].find? fun q => s.matchesRt q f.hdr.dst true with
    | some q => s.egress q g
    | none =>
      if s.on ZFB_ROUTE_CFG_STBY_P2 && s.routePort f.hdr.dst = some (s.rd ZFB_ROUTE_CFG_UP) then s.egress 2 g
      else match s.zfb.term, s.sparePort with
        | some side, some q => if side = p then s.egress q g else opp s
        | _, _ => opp s

/-- A frame with WRAP = 0 (R247, R248). -/
def State.routed (s : State) (p : Nat) (f : ZFrame) : State :=
  if f.hdr.dst = bcastId then ((s.seenCast f).deliverOk p f).forwardAll (some p) f
  else if s.addressed f then (s.deliverHalf p f).groupOn p f
  else s.forwardId f

/-- A good header: what follows by class and address. -/
def State.accept (s : State) (p : Nat) (f : ZFrame) : State :=
  if f.hdr.cls ≤ 1 then s.pathFrame p f
  else if f.hdr.dst = 0 then s.deliverOk p f
  else if f.hdr.wrap then s.wrapped p f
  else s.routed p f

/-- FRAME_RECEIVE (R241, R242, R245, R247 to R249, R255): a frame on a port, its header word, its payload words, and
whether its terminate follows the last of them. -/
def execFrameReceive (p : Fin 4) (hdr : WireWord) (words : List WireWord) (ends : Bool) (s : State) : Out :=
  done (whenLive s fun s =>
    let st := s.rd (ZFB_PORT_STATE p)
    if !s.on ZFB_CTRL_RUN || st = 0 || st = 3 then s
    else match pipData hdr with
    | none => (s.satInc (ZFB_PORT_HDR_ERR_CNT p)).hdrDrop p ZFB_ERR_HDR_DROP
    | some d =>
      let h := hdrOf (natOf d)
      if h.ver ≠ 1 || 8 < h.cls || h.rsv ≠ 0 then s.hdrDrop p ZFB_ERR_HDR_DROP
      else if st = 1 && 1 < h.cls then s
      else if 64 < h.blocks then s.hdrDrop p ZFB_ERR_LEN_DROP
      else if h.ttl ≤ 1 && !(h.cls = 2 && h.dst = 0 && h.ttl = 1) then s.hdrDrop p ZFB_ERR_TTL_DROP
      else
        let (ws, good) := passWords (words.take h.blocks)
        let good := good && ends && words.length = h.blocks
        let s := if good then s else s.set1 ZFB_ERR_ABORT
        s.accept p { hdr := { h with ttl := h.ttl - 1 }, words := ws, err := !good })

/-! ### FRAME_TRANSMIT_START -/

/-- The first queued frame of the highest priority. -/
def bestOf (q : List ZFrame) : Option ZFrame :=
  (List.range 4).findSome? fun pr => q.find? fun f => clsPrio f.hdr.cls = pr

/-- The queue without the first frame of the highest priority. -/
def restOf (q : List ZFrame) (f : ZFrame) : List ZFrame := q.erase f

/-- The port takes its next frame: one with SRC = CID from a module without TOKEN is discarded (R246), one that the
port no longer passes goes by R255. -/
def State.txNext : Nat → State → Nat → State
  | 0, s, _ => s
  | n + 1, s, p =>
    let q := (s.zport p).q
    match bestOf q with
    | none => s.modZport p fun z => { z with tx := none }
    | some f =>
      let s := s.modZport p fun z => { z with q := restOf q f, tx := none }
      if f.own && f.hdr.src = s.cid && f.hdr.coord && !s.holds then
        State.txNext n ((s.set1 ZFB_ERR_DRIVE_BLK).zDisc p) p
      else if !s.passes p f.hdr.cls then State.txNext n (s.egress p f) p
      else
        let s := (s.modZport p fun z => { z with tx := some f }).count 7 p 1
        match f.ts with
        | some id => if f.own then s.tsqPush p s.ns32 id else s
        | none => s

/-- FRAME_TRANSMIT_START (R243, R246, R255, R232, R268): port p is idle; submitted descriptors are taken first. -/
def execFrameTransmitStart (p : Fin 4) (s : State) : Out :=
  done (whenLive s fun s =>
    if s.on ZFB_CTRL_RUN then
      let s := State.takeDescs 63 s
      State.txNext ((s.zport p).q.length + 1) s p
    else s)

/-! ### Events at the coordinator (R265) -/

/-- An EVENT frame of a type delivered to the holder of the domain, entered in the fault log (R265). -/
def State.takeEvent (s : State) (type : Nat) (k : State → Nat → Nat → State) : State :=
  match s.zfb.deliv with
  | some (_, f) =>
    if f.hdr.cls = 7 && f.hdr.aux = type && s.on ZFB_STATUS_GROUP then
      let w := natOf ((f.words.head?.bind pipData).getD [])
      let s := s.modZfb fun z => { z with deliv := none }
      let s := s.logEvent 9 (Config.eventCode type).toNat (bits w 18 2) 0xFF (w % 2 ^ 96)
      if s.holds then k s (bits w 0 18) (bits w 18 2) else s
    else s
  | none => s

/-- EVENT_GUARD_TRIP (R265). -/
def execEventGuardTrip (s : State) : Out :=
  done (whenLive s fun s => s.takeEvent 3 fun s _ _ => s.portEvent)

/-- EVENT_NEW_NODE (R265). -/
def execEventNewNode (s : State) : Out :=
  done (whenLive s fun s => s.takeEvent 6 fun s _ _ => s)

/-! ### Sweep frames (R259, R260, R405 to R407) -/

/-- Byte address of endpoint e. -/
def endpointAt (e : Nat) : Nat := 0x10000000 + 64 * e

/-- The entry of a record in this module's table (R405): a Domino half holds half of the endpoints; none where the
endpoint lies in the other half or beyond the table. -/
def State.endpointOf (s : State) (slot i : Nat) : Option Nat :=
  let e := 65 * slot + i
  if s.half2 then (if 1048576 ≤ e && e < 2097152 then some (e - 1048576) else none)
  else if e < 1048576 then some e else none

/-- ENDPOINT_WRITE (R406, R407): record `r` number i of the module at node `src` for the sweep with ID `id`; `cse` is the
cell's entry of R82 when the frame carries one. -/
def State.endpointWrite (s : State) (e src i id r : Nat) (cse : Option Nat) : State :=
  let w := endpointAt e / 32
  let o0 := s.wordAt (32 * w)
  let o1 := s.wordAt (32 * w + 32)
  if bits o0 26 4 ≠ 0 && later32 id (bits o0 32 32) then s.satInc MBX_PIP_CNT_OLD_CNT
  else
    let kind := if i < 48 then 1 else if i < 64 then 2 else 3
    let t := s.sweepAt (s.sweepOfId id)
    let n0 := src + i <<< 18 + kind <<< 26 + id <<< 32 + (r % 2 ^ 32) <<< 64 + bits r 32 16 <<< 96 +
      (t % 2 ^ 64) <<< 128 + s.ns32 <<< 192 + ((bits o0 224 32 + 1) % 2 ^ 32) <<< 224
    let n1 := match kind, cse with
      | 1, some c => c % 2 ^ 128 + id <<< 128
      | 1, none => o1
      | _, _ => 0
    (s.putWord w (bytesOf 32 n0)).putWord (w + 1) (bytesOf 32 n1)

/-- Every record of a sweep frame written into the endpoint table; the header of its cell-state payload kept (R176). -/
def State.endpointFrame (s : State) (src id : Nat) (b : Bytes) (late : Bool) : State :=
  let slot := Config.slotOfNode src
  let full := 544 < b.length
  let newer := match aGet slot s.hlm.pay with
    | some h => later32 h.1 id
    | none => true
  let s := if full && newer then
      { s with hlm := { s.hlm with pay := aSet (2 ^ 32, 0) slot (id, field b 544 32) s.hlm.pay } } else s
  (List.range 65).foldl (fun s i =>
    match s.endpointOf slot i with
    | some e =>
      let r := field b (8 + 8 * i) 8
      let r := if late && !r.testBit 35 then r + 2 ^ 35 else r
      let cse := if full && i < 48 then some (field b (544 + 32 + 16 * i) 16) else none
      s.endpointWrite e src i id r cse
    | none => s) s

/-- RECALL_RECEIVE (R261): the RECALL delivered last; its sweeps still held are sent again in order, marked LATE. -/
def execRecallReceive (s : State) : Out :=
  done (whenLive s fun s =>
    match s.zfb.deliv with
    | some (_, f) =>
      if f.hdr.cls = 7 && f.hdr.aux = 5 then
        let s := s.modZfb fun z => { z with deliv := none }
        let b := f.words.flatMap fun w => (pipData w).getD []
        let w0 := field b 0 8
        let n := bits w0 36 5
        let me := s.rd ZFB_ID_NODE_ID
        if 1 ≤ n && n ≤ 16 && (List.range n).any fun i =>
            bits (field b (32 + 8 * i) 8) 0 18 ≤ me && me ≤ bits (field b (32 + 8 * i) 8) 32 18 then
          let s := s.satInc ZFB_CNT_RECALL_CNT
          (List.range (bits w0 32 4 + 1)).foldl (fun s i =>
            match aGet ((bits w0 0 32 + i) % 2 ^ 32) s.zfb.sweeps with
            | some g => s.sendFrame false { g with hdr := { g.hdr with late := true } }
            | none => s) s
        else s
      else s
    | none => s)

/-! ### Commands (R262, R263) -/

/-- One item from its Pip word (R262). -/
def itemOf (n : Nat) : CmdItem :=
  { op := bits n 0 8, target := bits n 32 32, effect := bits n 64 64, value := bits n 128 64, seq := bits n 192 32,
    rsv := bits n 8 24 + bits n 224 32 }

/-- The item's CMD_SEQ is later than the last one applied from its SRC. -/
def State.seqNew (s : State) (src : Nat) (i : CmdItem) : Bool :=
  match aGet src s.zfb.cmdSeq with
  | some q => later32 q i.seq
  | none => true

/-- An item applied: handed over, unless its CMD_SEQ is not later (R263). -/
def State.applyItem (s : State) (src : Nat) (i : CmdItem) : State :=
  if s.seqNew src i then
    s.modZfb fun z => { z with cmdSeq := aSet (2 ^ 32) src i.seq z.cmdSeq, handed := z.handed ++ [(src, i)] }
  else s

/-- One item at its target (R263). -/
def State.takeItem (s : State) (src : Nat) (i : CmdItem) : State :=
  if i.rsv ≠ 0 || i.op = 0 || 3 < i.op || s.now + 1000000000 < i.effect then
    s.modZfb fun z => { z with discCmd := z.discCmd + 1 }
  else if !s.seqNew src i then s
  else if i.effect < s.now then (s.modZfb fun z => { z with lateCmd := z.lateCmd + 1 }).applyItem src i
  else s.modZfb fun z => { z with held := z.held ++ [(src, i)] }

/-- COMMAND_FRAME_RECEIVE (R262, R263): the COMMAND frame delivered last, item by item. -/
def execCommandFrameReceive (s : State) : Out :=
  done (whenLive s fun s =>
    match s.zfb.deliv with
    | some (_, f) =>
      if f.hdr.cls = 4 then
        let s := s.modZfb fun z => { z with deliv := none }
        f.words.foldl (fun s w => s.takeItem f.hdr.src (itemOf (natOf ((pipData w).getD [])))) s
      else s
    | none => s)

/-- The held item with the earliest EFFECT, the first of equals. -/
def nextHeld (l : List (Nat × CmdItem)) : Option (Nat × CmdItem) :=
  l.foldl (fun b e => match b with
    | none => some e
    | some x => if e.2.effect < x.2.effect then some e else some x) none

/-- COMMAND_ITEM_EFFECT (R263): the next held item is applied once its EFFECT has come. -/
def execCommandItemEffect (s : State) : Out :=
  done (whenLive s fun s =>
    match nextHeld s.zfb.held with
    | some e => if e.2.effect ≤ s.now then (s.modZfb fun z => { z with held := z.held.erase e }).applyItem e.1 e.2 else s
    | none => s)

/-- The oldest handed item of an opcode, taken (R263). -/
def State.takeHanded (s : State) (op : Nat) : State × Option (Nat × CmdItem) :=
  match s.zfb.handed.find? fun e => e.2.op = op with
  | some e => (s.modZfb fun z => { z with handed := z.handed.erase e }, some e)
  | none => (s, none)

end Sys2Proof.Machine
end

