-- ==== Sys2Proof/Machine/Fus.lean ====
section
/-!
DEFINITION. Machine/Fus.lean: position reference fusion (chapter 6): samples, votes, contradictions, coasts, lateness, the
filter's cycle and the tracks. What chapter 6 leaves open of it is in notes/assumptions/20.md.
-/
namespace Sys2Proof.Machine

def State.modFus (s : State) (f : FusState → FusState) : State := { s with fus := f s.fus }
def State.fslot (s : State) (i : Nat) : FusSlot := s.fus.slots.getD i FusSlot.init
def State.fgroup (s : State) (g : Nat) : FusGroup := s.fus.groups.getD g FusGroup.init
def State.ftrack (s : State) (n : Nat) : FusTrack := s.fus.tracks.getD n FusTrack.init
def State.modFslot (s : State) (i : Nat) (f : FusSlot → FusSlot) : State :=
  s.modFus fun x => { x with slots := modAt x.slots i f }
def State.modFgroup (s : State) (g : Nat) (f : FusGroup → FusGroup) : State :=
  s.modFus fun x => { x with groups := modAt x.groups g f }
def State.modFtrack (s : State) (n : Nat) (f : FusTrack → FusTrack) : State :=
  s.modFus fun x => { x with tracks := modAt x.tracks n f }

/-! ### Instants (R128 to R130) -/

/-- T_f in ns. -/
def State.fusT (s : State) : Nat := (s.rd FUS_CYCLE_CFG_FDIV + 1) * s.sweepP

/-- F_c. -/
def State.fusF (s : State) (c : Int) : Int := s.sweepAt (s.fus.k0.getD 0) + c * s.fusT

/-- PUB_OFF in ns. -/
def State.fusOff (s : State) : Int := 1000 * (s.rd FUS_CYCLE_CFG_PUB_OFF : Nat)

/-- The last cycle c of which the instant F_c + off has come: none before the first. -/
def State.fusDue (s : State) (off : Int) : Option Nat :=
  let d := (s.now : Int) - off - s.fusF 0
  if d < 0 then none else some (d / s.fusT).toNat

/-- The interval that an instant belongs to (R130). -/
def State.fusIv (s : State) (t : Int) : Int := -((s.fusF 0 - t) / s.fusT)

/-- Fusion executes its cycle: RUN = 1 on the unit that holds TOKEN, half 1 in a Domino pair (R17, R150). -/
def State.fusOn (s : State) : Bool := s.on FUS_CTRL_RUN && s.engineRole && s.holds && !s.half2 && s.fus.k0.isSome

/-- Track indices that exist: 64, or 128 in Domino mode. -/
def State.trackIxs (s : State) : List Nat := List.range (if s.domino then 128 else 64)

/-- FUS_STATUS.TRK_USED and DOMINO as they stand (R152). -/
def State.fusLive (s : State) : State :=
  s.wrAll [(FUS_STATUS_DOMINO, b2n s.domino),
    (FUS_STATUS_TRK_USED, ((List.range 128).filter fun n => s.rd (FUS_TRK_STATE n) ≠ 0).length)]

/-- A track's registers cleared. -/
def State.trackZero (s : State) (n : Nat) : State :=
  s.wrAll [(FUS_TRK_STATE n, 0), (FUS_TRK_TGT_ID n, 0), (FUS_TRK_HITS n, 0), (FUS_TRK_T_UPD n, 0), (FUS_TRK_DN n, 0),
    (FUS_TRK_DE n, 0), (FUS_TRK_VN n, 0), (FUS_TRK_VE n, 0), (FUS_TRK_PSI n, 0), (FUS_TRK_SIGMA n, 0)]

/-- RUN written (R128, R152). -/
def State.fusRun (s : State) (run : Bool) : State :=
  let was := s.on FUS_CTRL_RUN
  let s := s.wrB FUS_CTRL_RUN run
  if run && !was then (s.modFus fun f => { f with k0 := some (s.firstAfter s.now), next := 0 }).fusLive
  else if run then s
  else ((List.range 128).foldl State.trackZero (s.modFus fun _ => FusState.init)).fusLive

/-- The cycle set is out of range with the present sweeps (R128, R129). -/
def State.fusTimeBad (s : State) : Bool :=
  fusBadTime (s.rd FUS_CYCLE_CFG_FDIV) (s.rd SCH_GRID_PERIOD_PERIOD) (s.rd FUS_CYCLE_CFG_PUB_OFF)

/-- FUS_RUN (R128). -/
def execFusRun (run : Bool) (s : State) : Out :=
  done (whenLive s fun s => if run && s.fusTimeBad then s.set1 FUS_ERR_CFG_REJ else s.fusRun run)

/-- FUS_REF_ENABLE (R152): EN takes effect at the next input cutoff. -/
def execFusRefEnable (i : Fin 34) (en : Bool) (s : State) : Out := done (whenLive s fun s => s.wrB (FUS_REF_CFG_EN i) en)

/-! ### Samples (R133 to R136, R139) -/

/-- A kind that a slot accepts (R133). -/
def kindOk (slot kind : Nat) : Bool :=
  if slot < 16 then kind = 0 || kind = 1 || kind = 5 || kind = 6 || (kind = 7 && slot = 0)
  else if slot < 24 then kind = 2 else if slot < 30 then kind = 3 else kind = 4

/-- How many of V0 to V3 a kind uses (R134). -/
def kindVals (kind flags : Nat) : Nat :=
  match kind with
  | 0 => 2 | 1 => 3 | 2 => 1 | 3 => 4 | 4 => 2 | 7 => 3
  | _ => if bit flags 3 then 3 else 2

/-- The entry of FUS_SAT for a satellite at an epoch's instant: position, correction and velocity, all finite. -/
def State.fusSat (s : State) (prn m : Nat) : Option (List Rat) :=
  match (List.range 24).find? fun n => s.rd (FUS_SAT_PRN n) = prn && s.rd (FUS_SAT_M n) = m with
  | some n =>
    let l := [FUS_SAT_X n, FUS_SAT_Y n, FUS_SAT_Z n, FUS_SAT_CORR n, FUS_SAT_VX n, FUS_SAT_VY n, FUS_SAT_VZ n].map s.rd
    if l.all f64Finite then some (l.map f64Val) else none
  | none => none

/-- A raw sample with the records of its epoch that may serve it, and QUAL_BAD where the epoch is barred (R139). They are
taken as they stand at the commit (notes/assumptions/20.md). -/
def State.fusCapture (s : State) (x : FusSample) : FusSample :=
  match s.gnb.epoch with
  | some e =>
    if x.kind = 7 && (e.m : Int) % 2 ^ 32 = x.t % 2 ^ 32 then
      { x with
        flags := if bit e.integ 1 || bit e.integ 4 || bit e.integ 5 then x.flags ||| 2 else x.flags
        raw := (e.recs.filter fun r => s.gPrValid r && !r.susp && !r.excl).filterMap fun r =>
          (s.fusSat r.prn (x.t % 2 ^ 32).toNat).map fun t => { pr := s.gPr e.m r, dopp := r.dopp, cn0 := r.cn0, mism := r.mism, sat := t } }
    else x
  | none => x

/-- The sample that 64 bytes hold, at instants near the present. -/
def State.fusSample (s : State) (b : Bytes) : FusSample :=
  s.fusCapture
    { t := s.now + diff32 s.ns32 (field b 0 4), arr := s.now, slot := field b 4 1, kind := field b 5 1, flags := field b 6 1 % 16,
      tgt := field b 7 1, v := [field b 8 8, field b 16 8, field b 24 8, field b 32 8], sig := field b 40 8, raw := [],
      stored := false, how := 0 }

/-- A refused sample counted (R136). -/
def State.fusRej (s : State) : State := s.satInc FUS_CNT_REJ

/-- A sample committed (R135, R136): the state, and whether it was dropped for want of room or role (STATE_REFUSED). -/
def State.fusCommit (s : State) (b : Bytes) (late : Bool) : State × Bool :=
  let x := s.fusSample b
  let x := if late then { x with flags := x.flags ||| 1 } else x
  if !s.engineRole then (s, true)
  else if 34 ≤ x.slot || !s.on (FUS_REF_CFG_EN x.slot) then (s.fusRej, false)
  else if x.kind ≠ s.rd (FUS_REF_CFG_KIND x.slot) || !kindOk x.slot x.kind ||
      !((x.v.take (kindVals x.kind x.flags)).all f64Finite && (!bit x.flags 2 || f64Finite x.sig)) then
    ((s.set1 FUS_ERR_KIND_REJ).fusRej, false)
  else if x.arr + 1000000 < x.t then ((s.set1 FUS_ERR_FUTURE).fusRej, false)
  else if 1024 ≤ s.fus.ring.length then ((s.set1 FUS_ERR_IN_FULL).satInc FUS_CNT_IN_FULL, true)
  else ((s.modFus fun f => { f with ring := f.ring ++ [x] }).count 0x0D 0 1, false)

/-- FUS_SAMPLE_COMMIT (R135, R265): the FUSION frame delivered last, two words to a sample. -/
def execFusSampleCommit (s : State) : Out :=
  done (whenLive s fun s =>
    match s.zfb.deliv with
    | some (_, f) =>
      if f.hdr.cls = 5 then
        let s := s.modZfb fun z => { z with deliv := none }
        let b := f.words.flatMap fun w => (pipData w).getD (List.replicate 32 0)
        (List.range (f.words.length / 2)).foldl (fun s i => (s.fusCommit (slice b (64 * i) 64) f.hdr.late).1) s
      else s
    | none => s)

/-- A value of a sample as a number. -/
def FusSample.val (x : FusSample) (i : Nat) : Rat := f64Val (x.v.getD i 0)

/-- The target's heading where a relative sample gives it. -/
def FusSample.hdg (x : FusSample) : Option Rat := if bit x.flags 3 then some (x.val 2) else none

def FusSample.bad (x : FusSample) : Bool := bit x.flags 1

/-- Samples in order of instant, then of slot. -/
def fusOrder (l : List FusSample) : List FusSample := l.mergeSort fun a b => a.t < b.t || (a.t = b.t && a.slot ≤ b.slot)

/-- A sample that a cycle has considered. -/
def State.fusMark (s : State) (x : FusSample) (how : Nat) : State :=
  s.modFus fun f => { f with ring := f.ring.map fun y => if y = x then { y with stored := true, how := how } else y }

/-- The group of a kind. -/
def groupOf (kind : Nat) : Nat :=
  match kind with
  | 2 => 1 | 3 => 2 | 4 => 3 | 5 => 4 | 6 => 4 | _ => 0

/-- Sigma of a sample in the unit of its vote value (R134, R152): degrees of latitude are taken along the meridian. -/
def State.fusSigma (s : State) (x : FusSample) : Rat :=
  if bit x.flags 2 then
    if x.kind = 1 || x.kind = 7 then degRad (f64Val x.sig) * wgsM (degRad (x.val 0)) else f64Val x.sig
  else
    let r : Rat := (s.rd (FUS_REF_CFG_SIGMA x.slot) : Nat)
    match groupOf x.kind with
    | 1 => degRad (r / 1000) | 2 => degRad (r / 1000) | 3 => r / 100 | _ => r / 1000

/-! ### Compensation (R138) -/

def State.fusLever (s : State) (i : Nat) : Triple :=
  { x := (s.rdS (FUS_REF_CFG_LEV_X i) : Rat) / 100, y := (s.rdS (FUS_REF_CFG_LEV_Y i) : Rat) / 100,
    n := (s.rdS (FUS_REF_CFG_LEV_Z i) : Rat) / 100 }

def State.fusLocal (s : State) : LocalFrame :=
  localAt (degRad ((s.rdS FUS_ORIGIN_LAT : Rat) / 10000000)) (degRad ((s.rdS FUS_ORIGIN_LON : Rat) / 10000000))

/-- The Earth-fixed point that a sample of KIND 1 or 7 gives. -/
def FusSample.point (x : FusSample) : Vec := ecef (degRad (x.val 0)) (degRad (x.val 1)) (x.val 2)

/-- A sample's value at the vessel reference point, w being the filter's states at its instant and att the voted roll and pitch:
a position north and east, a heading, roll and pitch, the true wind's velocity, or a target's relative position. -/
def State.fusComp (s : State) (w : Vec) (att : Rat × Rat) (x : FusSample) : Rat × Rat :=
  let l := s.fusLever x.slot
  let h := vGet w 2
  let lev := leverNE h att l
  let mount := degRad ((s.rdS (FUS_REF_CFG_MOUNT x.slot) : Rat) / 1000)
  let a := x.val 0
  let b := x.val 1
  match x.kind with
  | 0 => (a - lev.x, b - lev.y)
  | 2 => (a - mount, 0)
  | 3 => (a, b - mount)
  | 4 =>
    let r := vGet w 5
    let t := rot h { x := vGet w 3 - r * l.y - a * realCos b, y := vGet w 4 + r * l.x - a * realSin b, n := 0 }
    (t.x, t.y)
  | 5 =>
    let t := rot h { x := a * realCos b, y := a * realSin b, n := 0 }
    (t.x + lev.x, t.y + lev.y)
  | 6 => (a + lev.x, b + lev.y)
  | _ =>
    let fr := s.fusLocal
    let p := vSub x.point fr.o
    (vDot p fr.n - lev.x, vDot p fr.e - lev.y)

/-- What the filter holds of a vessel group's values. -/
def fusHeld (g : Nat) (w : Vec) : Rat × Rat :=
  let p := fusPos w
  match g with
  | 0 => (p.x, p.y) | 1 => (p.n, 0) | _ => (0, 0)

/-! ### Posteriors (R137, R146) -/

/-- The newest posterior before interval j: the filter's start where there is none. -/
def State.fusBase (s : State) (j : Int) : FusPost :=
  match s.fus.post.find? fun e => e.j < j with
  | some e => e
  | none =>
    { j := j - 1, t := s.fusF (j - 1), x := (List.range 17).map Config.fusX0, p := mDiag ((List.range 17).map Config.fusP0) }

/-- The filter carried from a posterior to an instant; the clock states are in use only with slot 0 enabled (R137). -/
def State.fusFrom (s : State) (b : FusPost) (t : Int) : Vec × Mat :=
  let e := s.fusPredict b.t t (b.x, b.p)
  if bit s.fus.en 0 then e
  else kfSet (kfSet e 15 (Config.fusX0 15) (Config.fusP0 15)) 16 (Config.fusX0 16) (Config.fusP0 16)

/-- The filter predicted to F_j, and its states at a sample's instant. -/
def State.fusPrior (s : State) (j : Int) : Vec × Mat := s.fusFrom (s.fusBase j) (s.fusF j)
def State.fusXt (s : State) (x : FusSample) : Vec := (s.fusFrom (s.fusBase (s.fusIv x.t)) x.t).1

/-- A posterior kept, nine in all. -/
def State.fusPush (s : State) (j t : Int) (e : Vec × Mat) : State :=
  s.modFus fun f => { f with post := ({ j := j, t := t, x := e.1, p := e.2 } :: f.post).take 9 }

/-- Intervals whose cycles never ran are predicted. -/
def State.fusFill (s : State) (j : Int) : State :=
  match s.fus.post with
  | [] => s
  | p :: _ =>
    let m := min (j - 1 - p.j).toNat 9
    (List.range m).foldl (fun s i =>
      let q := j - ((m - i : Nat) : Int)
      s.fusPush q (s.fusF q) (s.fusPrior q)) s

/-- Roll and pitch voted in an interval: the present ones where none are recorded. -/
def State.fusAtt (s : State) (j : Int) : Rat × Rat :=
  match s.fus.hist.find? fun h => h.j = j with
  | some h => h.att
  | none => (s.fus.mru.1, s.fus.mru.2.1)

/-- A sample compensated. -/
def State.fusValue (s : State) (x : FusSample) : Rat × Rat := s.fusComp (s.fusXt x) (s.fusAtt (s.fusIv x.t)) x

/-! ### Measurements (R138, R139) -/

/-- Wavelength of the carrier in m. -/
def gnssWave : Rat := 299792458 / 1575420000

/-- The records of a raw sample that the elevation and partner rules leave (R139). -/
def State.fusRecs (s : State) (x : FusSample) : List FusRaw :=
  let up := (localAt (degRad (x.val 0)) (degRad (x.val 1))).u
  x.raw.filter fun r =>
    (!r.mism || s.on FUS_GNSS_CFG_USE_PMM) &&
      decide (realSin (degRad (s.rd FUS_GNSS_CFG_ELEV_MASK : Nat)) ≤ -(vDot (rangeTo x.point (r.sat.take 3)).2 up))

/-- A raw sample's antenna. -/
def State.fusAnt (s : State) (x : FusSample) : FusAnt :=
  let fr := s.fusLocal
  { fr := fr, att := s.fusAtt (s.fusIv x.t), lev := s.fusLever x.slot, up := vDot (vSub x.point fr.o) fr.u }

/-- The measurements that a sample gives the vessel filter. -/
def State.fusMeas (s : State) (x : FusSample) : List KfMeas :=
  let w := s.fusXt x
  let v := s.fusValue x
  let sg := s.fusSigma x
  match x.kind with
  | 2 => [{ d := v.1 - (fusPos w).n, h := fun y => (fusPos y).n, row := fun _ => kfRow [(2, 1), (13, 1)], var := sg * sg, ang := true }]
  | 3 =>
    let q := Config.fusYawSigma sg
    [{ d := x.val 3 - (vGet w 5 + vGet w 14), h := fun y => vGet y 5 + vGet y 14, row := fun _ => kfRow [(5, 1), (14, 1)],
       var := q * q, ang := false }]
  | 7 =>
    let a := s.fusAnt x
    (s.fusRecs x).flatMap fun r =>
      let q := gSigma r.cn0
      let rg : KfMeas :=
        { d := (r.pr : Rat) / 4294967296 + vGet r.sat 3 - a.range r.sat w, h := a.range r.sat, row := a.rangeRow r.sat, var := q * q,
          ang := false }
      let rr : KfMeas :=
        { d := -(gnssWave * (r.dopp : Rat) / 65536) - a.rate r.sat w, h := a.rate r.sat, row := a.rateRow r.sat, var := 1 / 400,
          ang := false }
      if s.on FUS_GNSS_CFG_DOPP_EN then [rg, rr] else [rg]
  | 0 | 1 =>
    [{ d := v.1 - (fusPos w).x, h := fun y => (fusPos y).x, row := fun y => kfRow (rowNE y (1, 0) (waveNE y)), var := sg * sg,
       ang := false },
     { d := v.2 - (fusPos w).y, h := fun y => (fusPos y).y, row := fun y => kfRow (rowNE y (0, 1) (waveNE y)), var := sg * sg,
       ang := false }]
  | _ => []

/-- The states that a sample's group observes set to its voted value (R143): for MRU, whose vote holds no state, to the sample's
yaw rate. -/
def State.fusReset (s : State) (x : FusSample) (med : Rat × Rat) (e : Vec × Mat) : Vec × Mat :=
  let sg := s.fusSigma x
  match groupOf x.kind with
  | 0 => kfSet (kfSet e 0 med.1 (sg * sg)) 1 med.2 (sg * sg)
  | 1 => kfSet e 2 (wrapPi med.1) (sg * sg)
  | 2 => kfSet e 5 (x.val 3) (Config.fusYawSigma sg * Config.fusYawSigma sg)
  | _ => e

/-- A sample applied to the filter e, of which w0 was the prediction: as an update, or by setting the states. -/
def State.fusUse (s : State) (x : FusSample) (how : Nat) (med : Rat × Rat) (w0 : Vec) (e : Vec × Mat) : Vec × Mat :=
  if how = 2 then s.fusReset x med e else (s.fusMeas x).foldl (fun e m => m.apply w0 e) e

/-! ### Voting (R140 to R144) -/

/-- VOTE_MIN of a group, and its coast limit in ns. -/
def State.voteMin (s : State) (g : Nat) : Rat :=
  match g with
  | 1 => degRad ((s.rd FUS_VOTE_MIN_HDG : Nat) / 10)
  | 2 => degRad ((s.rd FUS_VOTE_MIN_MRU : Nat) / 10)
  | 3 => (s.rd FUS_VOTE_MIN_WIND : Nat) / 10
  | _ => (s.rd FUS_VOTE_MIN_POS : Nat) / 10
def State.coastLim (s : State) (g : Nat) : Int :=
  1000000000 * (match g with
    | 1 => s.rd FUS_COAST_CFG_HDG | 2 => s.rd FUS_COAST_CFG_MRU | 3 => s.rd FUS_COAST_CFG_WIND | _ => s.rd FUS_COAST_CFG_POS : Nat)

/-- VOTE_K. -/
def State.voteK (s : State) : Rat := (s.rd FUS_VOTE_CFG_VOTE_K : Nat) / 16

/-- The median of a list. -/
def medianQ (l : List Rat) : Rat :=
  let m := l.mergeSort fun a b => a ≤ b
  let n := m.length
  if n % 2 = 1 then m.getD (n / 2) 0 else (m.getD (n / 2 - 1) 0 + m.getD (n / 2) 0) / 2

/-- The square of the deviation between two vote values of a group: for MRU the larger of the two differences. -/
def dev2 (g : Nat) (a b : Rat × Rat) : Rat :=
  let x := if g = 1 then wrapPi (a.1 - b.1) else a.1 - b.1
  let y := a.2 - b.2
  if g = 2 then max (x * x) (y * y) else if g = 1 then x * x else x * x + y * y

/-- The designated track (R150): none where none is designated. -/
def State.designated (s : State) : Option Nat :=
  if !s.on FUS_TGT_SEL_EN then none
  else if s.on FUS_TGT_SEL_BY_ID then
    (List.range 128).find? fun n => s.rd (FUS_TRK_STATE n) ≠ 0 && s.rd (FUS_TRK_TGT_ID n) = s.rd FUS_TGT_SEL_TGT_ID
  else some (s.rd FUS_TGT_SEL_TRK)

/-- The references of a group available at state instant si, with their latest samples (R140). -/
def State.available (s : State) (g : Nat) (si : Int) : List FusSample :=
  (List.range 34).filterMap fun i =>
    let sl := s.fslot i
    match sl.latest with
    | some x =>
      if bit s.fus.en i && groupOf (s.rd (FUS_REF_CFG_KIND i)) = g && !x.bad &&
          si - x.t ≤ 100000000 * (s.rd (FUS_REF_CFG_TIMEOUT i) : Nat) &&
          (g ≠ 4 || (sl.trk.isSome && sl.trk = s.designated)) then some x else none
    | none => none

/-- What the filters hold of slot i's values at the state instant, w0 being the prediction to it. -/
def State.heldNow (s : State) (g i : Nat) (w0 : Vec) : Rat × Rat :=
  if g = 4 then
    let k := s.ftrack ((s.fslot i).trk.getD 0)
    (vGet k.x 0, vGet k.x 1)
  else fusHeld g w0

/-- Vote values by slot (R140): compensated, and carried forward by the filter's change; headings on the turn of the
lowest-numbered available one. -/
def State.fusVotes (s : State) (g : Nat) (w0 : Vec) (av : List FusSample) : List (Nat × Rat × Rat) :=
  let l := av.map fun x =>
    let sl := s.fslot x.slot
    let h := s.heldNow g x.slot w0
    (x.slot, sl.val.1 + h.1 - sl.ref.1, sl.val.2 + h.2 - sl.ref.2)
  match g, l with
  | 1, (_, b, _) :: _ => l.map fun e => (e.1, b + wrapPi (e.2.1 - b), 0)
  | _, _ => l

/-- A slot's vote value. -/
def voteOf (votes : List (Nat × Rat × Rat)) (i : Nat) : Rat × Rat := (aGet i votes).getD (0, 0)

/-- The square of a sample's threshold (R141). -/
def State.voteThr (s : State) (g : Nat) (x : FusSample) : Rat :=
  let t := max (s.voteMin g) (s.voteK * s.fusSigma x)
  t * t

/-- The vote of a group (R141): its median, and the slots beyond their thresholds. -/
def State.vote (s : State) (g : Nat) (votes : List (Nat × Rat × Rat)) (av : List FusSample) : (Rat × Rat) × List Nat :=
  let med := (medianQ (av.map fun x => (voteOf votes x.slot).1), medianQ (av.map fun x => (voteOf votes x.slot).2))
  (med, (av.filter fun x => decide (s.voteThr g x < dev2 g (voteOf votes x.slot) med)).map (·.slot))

/-- The pair counts of a group's available references (R142). -/
def State.fusPairs (s : State) (g : Nat) (votes : List (Nat × Rat × Rat)) (av : List FusSample) : State :=
  av.foldl (fun s x => av.foldl (fun s y =>
    if x.slot < y.slot then
      let k := 64 * x.slot + y.slot
      let m := s.voteMin g
      let lim := max (m * m) (s.voteK * s.voteK * (s.fusSigma x * s.fusSigma x + s.fusSigma y * s.fusSigma y))
      let c := (aGet k s.fus.pairs).getD (0, 0)
      let c' : Nat × Nat := if lim < dev2 g (voteOf votes x.slot) (voteOf votes y.slot) then (min (c.1 + 1) 65535, 0)
        else (0, min (c.2 + 1) 65535)
      s.modFus fun f => { f with pairs := aSet (0, 0) k c' f.pairs }
    else s) s) s

/-- The place of a group in MODE_DROP (R152). -/
def dropBit (g : Nat) : Option Nat := match g with | 0 => some 0 | 1 => some 1 | 2 => some 2 | 4 => some 3 | _ => none

/-- A group enters contradiction (R142). -/
def State.fusContra (s : State) (g : Nat) (si : Int) : State :=
  let s := s.modFgroup g fun x => { x with contra := true }
  let s := s.stateLog 4 1 g 0 1 (si % 2 ^ 32).toNat
  match dropBit g with
  | some k => s.alarmLog FUS_ALARM_MODE_DROP k g
  | none => s.alarmLog FUS_ALARM_WIND_SUSPECT 0 g

/-- Coast and LOST of a group (R143, R144): in contradiction every available reference is SUSPECT. -/
def State.fusCoast (s : State) (g n : Nat) (si : Int) (av : List FusSample) : State :=
  let gr := s.fgroup g
  let s := if gr.contra then av.foldl (fun s x => s.modFslot x.slot fun l => { l with susp := true }) s else s
  if gr.contra || n = 0 then
    let t0 := gr.coast.getD si
    let s := s.modFgroup g fun x => { x with coast := some t0 }
    if s.coastLim g ≤ si - t0 && !gr.lost then
      let s := s.modFgroup g fun x => { x with valid := false, lost := true }
      (s.stateLog 4 0 g 0 1 (si % 2 ^ 32).toNat).alarmLog FUS_ALARM_LOST g g
    else s
  else if gr.coast.isSome then
    let s := if gr.lost then s.stateLog 4 0 g 1 0 (si % 2 ^ 32).toNat else s
    let s := s.modFgroup g fun x => { x with coast := none, valid := x.valid || x.lost, lost := false, first := true }
    av.foldl (fun s x => s.modFslot x.slot fun l => { l with susp := l.excl }) s
  else s

/-- One reference of a group with a majority (R141): beyond or within. -/
def State.fusRef (s : State) (i : Nat) (beyond : Bool) : State :=
  if beyond then
    let s := s.modFslot i fun l => { l with dev := min (l.dev + 1) 255, within := 0 }
    if s.rd FUS_VOTE_CFG_VOTE_PERS ≤ (s.fslot i).dev && !(s.fslot i).excl then
      (s.modFslot i fun l => { l with excl := true, susp := true }).alarmLog FUS_ALARM_REF_EXCL 0 i
    else s
  else
    s.modFslot i fun l =>
      let w := l.within + 1
      if l.excl && s.rd FUS_VOTE_CFG_REJOIN ≤ w then { l with dev := 0, within := 0, excl := false, susp := false }
      else { l with dev := 0, within := w }

/-- What the vote of a group leaves for the rest of its cycle: the references, its median, the slots beyond. -/
structure FusBallot where
  g      : Nat
  av     : List FusSample
  med    : Rat × Rat
  beyond : List Nat

/-- A RELATIVE group without a designated track: no vote, no coast. -/
def State.fusNoTarget (s : State) : State :=
  s.modFgroup 4 fun x => { x with contra := false, noMaj := 0, coast := none, lost := false }

/-- One group's vote of a cycle (R140 to R144). -/
def State.fusGroup (s : State) (g : Nat) (w0 : Vec) (si : Int) : State × FusBallot :=
  let av := s.available g si
  let n := av.length
  let votes := s.fusVotes g w0 av
  let v := s.vote g votes av
  let maj := 3 ≤ n && n / 2 + 1 ≤ n - v.2.length
  let bal : FusBallot := { g := g, av := av, med := v.1, beyond := if maj then v.2 else [] }
  if g = 4 && s.designated.isNone then (s.fusNoTarget, bal)
  else
    let s := s.fusPairs g votes av
    let s := if maj then av.foldl (fun s x => s.fusRef x.slot (v.2.contains x.slot)) s
      else av.foldl (fun s x => s.modFslot x.slot fun l => { l with dev := 0 }) s
    let gr := s.fgroup g
    let nm := if 3 ≤ n && !maj then gr.noMaj + 1 else 0
    let s := s.modFgroup g fun x => { x with noMaj := nm }
    let pc : Nat × Nat := match av with
      | [x, y] => (aGet (64 * x.slot + y.slot) s.fus.pairs).getD (0, 0)
      | _ => (0, 0)
    let pers := s.rd FUS_VOTE_CFG_VOTE_PERS
    let s :=
      if gr.contra then
        if (n = 2 && s.rd FUS_VOTE_CFG_REJOIN ≤ pc.2) || maj || n = 1 then
          (s.modFgroup g fun x => { x with contra := false }).stateLog 4 1 g 1 0 (si % 2 ^ 32).toNat
        else s
      else if (n = 2 && pers ≤ pc.1) || (3 ≤ n && pers ≤ nm) then s.fusContra g si
      else s
    (s.fusCoast g n si av, bal)

/-- Roll, pitch and heave, or the true wind, taken from their vote (R138, R141): not in contradiction. -/
def State.fusCarried (s : State) (b : FusBallot) : State :=
  if b.av.isEmpty || (s.fgroup b.g).contra then s
  else if b.g = 2 then
    let h := (b.av.filter fun x => !(s.fslot x.slot).excl).map fun x => x.val 2
    s.modFus fun f => { f with mru := (b.med.1, b.med.2, if h.isEmpty then f.mru.2.2 else medianQ h) }
  else if b.g = 3 then s.modFus fun f => { f with wind := b.med }
  else s

/-- The latest sample of each slot brought up to date, with its value and what the filter held at its instant. -/
def State.fusLatest (s : State) (l : List FusSample) : State :=
  l.foldl (fun s x =>
    let v := s.fusValue x
    let h := fusHeld (groupOf x.kind) (s.fusXt x)
    s.modFslot x.slot fun sl =>
      match sl.latest with
      | some y => if y.t ≤ x.t then { sl with latest := some x, val := v, ref := h } else sl
      | none => { sl with latest := some x, val := v, ref := h }) s

/-! ### Tracks (R148 to R150) -/

/-- ACC in m/s². -/
def State.trkAcc (s : State) : Rat := (s.rd FUS_TRK_CFG_ACC : Nat) / 100

/-- Every track predicted to si but those frozen in LOST. -/
def State.trackPredict (s : State) (si : Int) : State :=
  (List.range 128).foldl (fun s n =>
    let st := s.rd (FUS_TRK_STATE n)
    if st = 0 || st = 4 then s else s.modFtrack n (trkTo s.trkAcc si)) s

/-- Deviation of a track's relative position: the larger of north and east. -/
def FusTrack.sigma (k : FusTrack) : Rat := realSqrt (max (vGet (k.p.getD 0 []) 0) (vGet (k.p.getD 1 []) 1))

/-- A track's values in its registers. -/
def State.trackShow (s : State) (n : Nat) : State :=
  let k := s.ftrack n
  if s.rd (FUS_TRK_STATE n) = 0 then s
  else s.wrAll [(FUS_TRK_DN n, f64Of (vGet k.x 0)), (FUS_TRK_DE n, f64Of (vGet k.x 1)), (FUS_TRK_VN n, f64Of (vGet k.x 2)),
    (FUS_TRK_VE n, f64Of (vGet k.x 3)), (FUS_TRK_PSI n, f64Of (wrapPi (vGet k.x 4))), (FUS_TRK_SIGMA n, f64Of k.sigma)]

/-- A track freed. -/
def State.trackFree (s : State) (n : Nat) : State := (s.trackZero n).modFtrack n fun _ => FusTrack.init

/-- A relative sample with its relative position at its instant. -/
structure FusRel where
  x : FusSample
  v : Rat × Rat

/-- What a track held at an instant before the one it stands at, and its relative position there carried to where the track stands. -/
def State.trackHeld (s : State) (n : Nat) (t : Int) : Rat × Rat :=
  let k := trkTo s.trkAcc t (s.ftrack n)
  (vGet k.x 0, vGet k.x 1)
def State.relNow (s : State) (n : Nat) (r : FusRel) : Rat × Rat :=
  let k := s.ftrack n
  if s.rd (FUS_TRK_STATE n) = 4 then r.v
  else
    let h := s.trackHeld n r.x.t
    (r.v.1 + vGet k.x 0 - h.1, r.v.2 + vGet k.x 1 - h.2)

def State.relNis (s : State) (n : Nat) (r : FusRel) : Rat := trkNis (s.relNow n r) (s.fusSigma r.x) (s.ftrack n)

/-- The track that holds an identity. -/
def State.trackWith (s : State) (id : Nat) : Option Nat :=
  s.trackIxs.find? fun n => s.rd (FUS_TRK_STATE n) ≠ 0 && s.rd (FUS_TRK_TGT_ID n) = id

/-- The track that a relative sample goes to, with its normalised innovation squared (R148). -/
def State.trackOf (s : State) (r : FusRel) : Option (Nat × Rat) :=
  if r.x.tgt ≠ 0 then (s.trackWith r.x.tgt).map fun n => (n, s.relNis n r)
  else
    let l := (s.trackIxs.filter fun n => s.rd (FUS_TRK_STATE n) ≠ 0 && s.rd (FUS_TRK_TGT_ID n) = 0).map fun n => (n, s.relNis n r)
    (l.filter fun e => decide (e.2 * 100 ≤ 1382)).foldl
      (fun b e => match b with
        | none => some e
        | some c => if e.2 < c.2 then some e else some c) none

/-- A TENTATIVE track from a sample at the lowest free index (R148), standing at si. -/
def State.trackNew (s : State) (si : Int) (r : FusRel) : State × Option Nat :=
  match s.trackIxs.find? fun n => s.rd (FUS_TRK_STATE n) = 0 with
  | some n =>
    let s := s.wrAll [(FUS_TRK_STATE n, 1), (FUS_TRK_TGT_ID n, r.x.tgt), (FUS_TRK_HITS n, 1), (FUS_TRK_T_UPD n, (r.x.t % 2 ^ 32).toNat)]
    (s.modFtrack n fun k =>
      trkTo s.trkAcc si (trkBegin r.x.t r.v r.x.hdg (s.fusSigma r.x) { k with win := 0, upd := r.x.t }), some n)
  | none => ((s.set1 FUS_ERR_TRK_FULL).fusRej, none)

/-- What association leaves: samples with their tracks, in order; tracks begun or hit. -/
structure FusAssoc where
  st   : State
  got  : List (FusRel × Nat)
  born : List (Nat × Nat)

/-- A slot's latest sample is a relative one on track n, or on none. -/
def State.slotTrack (s : State) (r : FusRel) (n : Option Nat) (late : Bool) : State :=
  if late then s
  else
    let h := match n with | some m => s.trackHeld m r.x.t | none => (0, 0)
    s.modFslot r.x.slot fun l =>
      match l.latest with
      | some y => if y.t ≤ r.x.t then { l with latest := some r.x, val := r.v, ref := h, trk := n } else l
      | none => { l with latest := some r.x, val := r.v, ref := h, trk := n }

/-- One relative sample associated (R148), given what each sample of the cycle would go to. A sample with an identity whose
track another sample of its slot has taken goes nowhere: no other track may hold that identity (notes/assumptions/20.md). -/
def State.assocOne (si j : Int) (cand : List (FusRel × Option (Nat × Rat))) (a : FusAssoc) (e : FusRel × Option (Nat × Rat)) : FusAssoc :=
  let s := a.st
  let r := e.1
  let late : Bool := decide (s.fusIv r.x.t < j)
  let beaten := match e.2 with
    | some (n, d) => cand.any fun c => c.1.x.slot = r.x.slot && c.1.x ≠ r.x && (match c.2 with
        | some (n', d') => n' = n && (decide (d' < d) || (decide (d' = d) && decide (c.1.x.t < r.x.t))) | none => false)
    | none => false
  let give := fun (n : Nat) => { a with st := s.slotTrack r (some n) late, got := a.got ++ [(r, n)] }
  let begin' := fun (_ : Unit) =>
    let q := s.trackNew si r
    { a with
      st := q.1.slotTrack r q.2 late,
      born := match q.2 with | some n => (n, r.x.slot) :: a.born | none => a.born }
  match e.2 with
  | some (n, _) => if !beaten then give n else if r.x.tgt ≠ 0 then a else begin' ()
  | none =>
    match if r.x.tgt ≠ 0 then s.trackWith r.x.tgt else none with
    | some n => if a.born.contains (n, r.x.slot) then a else give n
    | none => begin' ()

/-- The relative samples of a cycle associated in order. -/
def State.fusAssoc (s : State) (si j : Int) (l : List FusRel) : FusAssoc :=
  let cand := l.map fun r => (r, s.trackOf r)
  cand.foldl (State.assocOne si j cand) { st := s, got := [], born := [] }

/-- A track that a cycle associated (R149): its state, its hits and its last instant. -/
def State.trackHit (s : State) (n : Nat) (t : Int) : State :=
  let st := s.rd (FUS_TRK_STATE n)
  let s := s.wrAll [(FUS_TRK_STATE n, if st = 1 then 1 else 2),
    (FUS_TRK_HITS n, if st = 1 then min (s.rd (FUS_TRK_HITS n) + 1) 255 else s.rd (FUS_TRK_HITS n))]
  let s := if t < (s.ftrack n).upd then s else s.wr (FUS_TRK_T_UPD n) (t % 2 ^ 32).toNat
  s.modFtrack n fun k => { k with upd := max k.upd t }

/-- A sample applied to its track: a LOST one begins anew. -/
def State.trackApply (s : State) (si : Int) (r : FusRel) (n : Nat) : State :=
  if s.rd (FUS_TRK_STATE n) = 4 then
    s.modFtrack n fun k => trkTo s.trkAcc si (trkBegin r.x.t r.v r.x.hdg (s.fusSigma r.x) k)
  else s.modFtrack n (trkUpdate (s.relNow n r) r.x.hdg (s.fusSigma r.x))

/-- One track at the end of a cycle (R149). -/
def State.trackStep (s : State) (n : Nat) (si : Int) (hit : Bool) : State :=
  let st := s.rd (FUS_TRK_STATE n)
  let k := s.ftrack n
  let age := si - k.upd
  let des := s.designated = some n
  let coast := 1000000000 * (s.rd FUS_TRK_CFG_COAST : Int)
  let drop := 1000000000 * (s.rd FUS_TRK_CFG_DROP : Int)
  (match st with
  | 1 =>
    let w := k.win + 1
    let s := s.modFtrack n fun k => { k with win := w }
    if s.rd FUS_TRK_CFG_CONF_M ≤ s.rd (FUS_TRK_HITS n) then s.wr (FUS_TRK_STATE n) 2
    else if s.rd FUS_TRK_CFG_CONF_N ≤ w then s.trackFree n else s
  | 2 => if !hit && coast ≤ age then s.wr (FUS_TRK_STATE n) 3 else s
  | 3 =>
    if hit then s
    else if drop ≤ age then
      if des then (s.wr (FUS_TRK_STATE n) 4).alarmLog FUS_ALARM_TGT_LOST 0 n else s.trackFree n
    else s
  | 4 => if des then s else s.trackFree n
  | _ => s).trackShow n

/-! ### The update (R131, R141 to R147) -/

/-- What an update gathers for its output: slots applied; a reset; a raw sample; late samples applied and dropped; the filter as
predicted to F_(k−2) and as it stands. -/
structure FusAcc where
  used    : List Nat
  reset   : Bool
  raw     : Bool
  applied : Nat
  dropped : Nat
  w0      : Vec
  e       : Vec × Mat

/-- The references of a group in a cycle's ballots. -/
def ballotOf (l : List FusBallot) (g : Nat) : FusBallot :=
  (l.find? fun b => b.g = g).getD { g := g, av := [], med := (0, 0), beyond := [] }

/-- An on-time sample may be applied (R141, R142, R144). -/
def State.fusMay (s : State) (x : FusSample) (b : FusBallot) : Bool :=
  bit s.fus.en x.slot && !x.bad && !(s.fgroup b.g).contra && !b.beyond.contains x.slot &&
    (!(s.fslot x.slot).excl || b.av.length = 1)

/-- The square of an innovation exceeds R143's limit. -/
def State.tooFar (s : State) (e2 sp2 sg : Rat) : Bool := decide (s.voteK * s.voteK * (sp2 + sg * sg) < e2)

/-- The innovation of a sample against the present filter is beyond R143's limit. -/
def State.fusFar (s : State) (x : FusSample) (a : FusAcc) : Bool :=
  let v := s.fusValue x
  let w := s.fusXt x
  let sg := s.fusSigma x
  let var := fun (i : Nat) => vGet (a.e.2.getD i []) i
  let g := groupOf x.kind
  let h := fusHeld g w
  let h0 := fusHeld g a.w0
  let here := (v.1 + h0.1 - h.1, v.2 + h0.2 - h.2)
  match g with
  | 0 => s.tooFar (dev2 0 here (fusHeld 0 a.e.1)) (max (var 0) (var 1)) sg
  | 1 => s.tooFar (dev2 1 here (fusHeld 1 a.e.1)) (var 2) sg
  | 2 =>
    let d := x.val 3 - (vGet w 5 + vGet w 14) + (vGet a.w0 5 + vGet a.w0 14) - (vGet a.e.1 5 + vGet a.e.1 14)
    s.tooFar (d * d) (var 5) (Config.fusYawSigma sg)
  | _ => false

/-- An on-time sample applied (R143, R139). -/
def State.fusApply (s : State) (x : FusSample) (b : FusBallot) (a : FusAcc) : State × FusAcc :=
  let far := (s.fgroup b.g).first && s.fusFar x a
  let how := if far then 2 else 1
  let e := s.fusUse x how b.med a.w0 a.e
  let s := s.modFgroup b.g fun r => { r with valid := true, first := false }
  let s := if far then s.alarmLog FUS_ALARM_POS_RESET 0 b.g else s
  (s.fusMark x how, { a with used := x.slot :: a.used, reset := a.reset || far, raw := a.raw || x.kind = 7, e := e })

/-- The on-time samples of the vessel groups in order. -/
def State.fusVessel (s : State) (l : List FusSample) (bs : List FusBallot) (a : FusAcc) : State × FusAcc :=
  l.foldl (fun (q : State × FusAcc) x =>
    let b := ballotOf bs (groupOf x.kind)
    if b.g = 4 then q
    else if q.1.fusMay x b then q.1.fusApply x b q.2 else (q.1.fusMark x 0, q.2)) (s, a)

/-- A late sample meets R147 against the vote of its interval, at vote value `v`. -/
def State.lateOk (s : State) (x : FusSample) (v : Rat × Rat) : Bool :=
  let g := groupOf x.kind
  !x.bad && (match s.fus.hist.find? fun h => h.j = s.fusIv x.t with
    | some h =>
      !h.con.getD g false && !bit h.excl x.slot &&
        (h.ns.getD g 0 < 2 || decide (dev2 g v (h.med.getD g (0, 0)) ≤ s.voteThr g x))
    | none => true)

/-- The stored posteriors from interval j on formed afresh (R146). -/
def State.fusRedo (s : State) (j : Int) : State :=
  ((s.fus.post.filter fun e => j ≤ e.j).reverse).foldl (fun s e =>
    let b := s.fusBase e.j
    let p := s.fusFrom b e.t
    let l := fusOrder (s.fus.ring.filter fun x => x.stored && x.how ≠ 0 && b.j < s.fusIv x.t && s.fusIv x.t ≤ e.j)
    let med := fun (x : FusSample) => match s.fus.hist.find? fun h => h.j = s.fusIv x.t with
      | some h => h.med.getD (groupOf x.kind) (0, 0) | none => (0, 0)
    let q := l.foldl (fun q x => s.fusUse x x.how (med x) p.1 q) p
    s.modFus fun f => { f with post := f.post.map fun y => if y.j = e.j then { y with x := q.1, p := q.2 } else y }) s

/-- A late sample that R147 refuses. -/
def State.fusLateNo (s : State) (x : FusSample) : State :=
  let s := s.fusMark x 0
  if x.bad || !bit s.fus.en x.slot then s else (s.set1 FUS_ERR_VOTE_REJ).fusRej

/-- A late sample of a vessel group corrected or refused (R145 to R147). -/
def State.fusLate (q : State × FusAcc) (x : FusSample) : State × FusAcc :=
  let s := q.1
  let g := groupOf x.kind
  let j := s.fusIv x.t
  let v := s.fusValue x
  let h := fusHeld g (s.fusXt x)
  let h0 := fusHeld g (s.fusPrior j).1
  if g = 4 then q
  else if bit s.fus.en x.slot && s.lateOk x (v.1 + h0.1 - h.1, v.2 + h0.2 - h.2) then
    (((s.fusMark x 1).satInc FUS_CNT_LATE_APPL).fusRedo j, { q.2 with applied := q.2.applied + 1, raw := q.2.raw || x.kind = 7 })
  else (s.fusLateNo x, q.2)

/-- A relative sample applied to its track, on time or late; only those of the designated track are voted on (R150). -/
def State.fusTarget (si j : Int) (b : FusBallot) (q : State × FusAcc) (e : FusRel × Nat) : State × FusAcc :=
  let s := q.1
  let x := e.1.x
  let n := e.2
  let des : Bool := s.designated = some n
  let gr := s.fgroup 4
  if s.fusIv x.t < j then
    let h := trkTo s.trkAcc (s.fusF (s.fusIv x.t)) (s.ftrack n)
    let k := s.trackHeld n x.t
    if !des || s.lateOk x (e.1.v.1 + vGet h.x 0 - k.1, e.1.v.2 + vGet h.x 1 - k.2) then
      (((s.trackApply si e.1 n).fusMark x 1).satInc FUS_CNT_LATE_APPL, { q.2 with applied := q.2.applied + 1 })
    else (s.fusLateNo x, q.2)
  else if des && !s.fusMay x b then (s.fusMark x 0, q.2)
  else
    let v := s.relNow n e.1
    let k := s.ftrack n
    let sg := s.fusSigma x
    let far := des && gr.first && s.rd (FUS_TRK_STATE n) ≠ 4 &&
      s.tooFar (dev2 4 v (vGet k.x 0, vGet k.x 1)) (k.sigma * k.sigma) sg
    let s := if far then
        let r := kfSet (kfSet (k.x, k.p) 0 b.med.1 (sg * sg)) 1 b.med.2 (sg * sg)
        (s.modFtrack n fun k => { k with x := r.1, p := r.2 }).alarmLog FUS_ALARM_POS_RESET 0 4
      else s.trackApply si e.1 n
    let s := if des then s.modFgroup 4 fun r => { r with valid := true, first := false } else s
    (s.fusMark x (if far then 2 else 1), { q.2 with used := x.slot :: q.2.used, reset := q.2.reset || far })

/-- Changes of SUSPECT and EXCLUDED entered in the fault log with the code SUSPECT (R11, R144, R316). -/
def State.fusLogRefs (s : State) (old : List FusSlot) (si : Int) : State :=
  (List.range 34).foldl (fun s i =>
    let a := old.getD i FusSlot.init
    let b := s.fslot i
    let s := if a.susp = b.susp then s else s.logEvent 4 132 i 0x11 (b2n a.susp + 256 * b2n b.susp + 65536 * (si % 2 ^ 32).toNat)
    if a.excl = b.excl then s else s.logEvent 4 133 i 0x11 (b2n a.excl + 256 * b2n b.excl + 65536 * (si % 2 ^ 32).toNat)) s

/-- The status of slot i (R152). -/
def State.fusStat (s : State) (i : Nat) (si : Int) (av beyond : List Nat) : State :=
  let sl := s.fslot i
  let g := groupOf (s.rd (FUS_REF_CFG_KIND i))
  let st := if !bit s.fus.en i then 0 else if !av.contains i then 1 else if (s.fgroup g).contra then 5
    else if sl.excl then 4 else if beyond.contains i then 3 else 2
  let age := match sl.latest with | some x => min ((si - x.t) / 10000000).toNat 0xFFFF | none => 0xFFFF
  s.wrAll [(FUS_REF_STAT_STATE i, st), (FUS_REF_STAT_SUSPECT i, b2n sl.susp), (FUS_REF_STAT_DEV_CNT i, sl.dev), (FUS_REF_STAT_AGE i, age)]

/-! ### The output record (R151) -/

/-- VALID of R151 without its flags of the cycle: 4:0 validity, 9:5 coast. -/
def State.fusValid (s : State) : Nat :=
  let tv := match s.designated with
    | some n => (s.rd (FUS_TRK_STATE n) = 2 || s.rd (FUS_TRK_STATE n) = 3) && !(s.fgroup 4).lost
    | none => false
  (List.range 4).foldl (fun v g => v + b2n (s.fgroup g).valid <<< g + b2n (s.fgroup g).coast.isSome <<< (5 + g)) 0 +
    b2n tv <<< 4 + b2n (s.fgroup 4).coast.isSome <<< 9

/-- Mask of a list of bit numbers. -/
def maskOf (l : List Nat) : Nat := l.eraseDups.foldl (fun m i => m + 2 ^ i) 0

/-- Counts USED and AVAIL of the vessel groups (R151). -/
def State.fusCounts (s : State) (av used : List Nat) : Nat :=
  let inG := fun (l : List Nat) (g : Nat) => (l.eraseDups.filter fun i => groupOf (s.rd (FUS_REF_CFG_KIND i)) = g).length % 256
  (List.range 4).foldl (fun v g => v + inG used g <<< (16 * g) + inG av g <<< (16 * g + 8)) 0

/-- The 23 numbers of words 1 to 6. -/
def State.fusNumbers (s : State) (e : Vec × Mat) : List Rat :=
  let x := e.1
  let sd := fun (i : Nat) => realSqrt (vGet (e.2.getD i []) i)
  let w := s.fus.wind
  let t := match s.designated with | some n => s.ftrack n | none => FusTrack.init
  [vGet x 0, vGet x 1, wrapPi (vGet x 2), vGet x 3, vGet x 4, vGet x 5, 1000 * vGet x 6, 1000 * vGet x 7, 1000 * vGet x 8,
    sd 0, sd 1, sd 2, wrapPi s.fus.mru.1, wrapPi s.fus.mru.2.1, s.fus.mru.2.2, realSqrt (w.1 * w.1 + w.2 * w.2),
    wrapPi (realAtan2 (-w.2) (-w.1)), vGet t.x 0, vGet t.x 1, wrapPi (vGet t.x 4), vGet t.x 2, vGet t.x 3, t.sigma]

/-- The output record of cycle k. -/
def State.fusRecord (s : State) (k : Nat) (si : Int) (av : List Nat) (a : FusAcc) (ovr : Bool) : Bytes :=
  let sweep := (s.fus.k0.getD 0 : Int) + ((k : Int) - 2) * (s.rd FUS_CYCLE_CFG_FDIV + 1 : Nat)
  let flags := s.fusValid + b2n (a.applied ≠ 0) <<< 10 + b2n a.reset <<< 11 + b2n a.raw <<< 12 + b2n ovr <<< 13
  let d := s.designated
  let w0 := (si % 2 ^ 64).toNat + (sweep % 2 ^ 32).toNat <<< 64 + (k % 2 ^ 32) <<< 96 + (flags % 2 ^ 16) <<< 128 +
    s.fusCounts av a.used <<< 144
  let nums := (s.fusNumbers a.e).flatMap fun q => bytesOf 8 (f64Of q)
  let susp := maskOf ((List.range 34).filter fun i => (s.fslot i).susp)
  let w7 := susp + maskOf a.used <<< 64 + (d.getD 0xFF) <<< 128 + (match d with | some n => s.rd (FUS_TRK_STATE n) | none => 0) <<< 136 +
    (a.applied % 2 ^ 16) <<< 144 + (a.dropped % 2 ^ 16) <<< 160
  bytesOf 32 w0 ++ nums ++ bytesOf 8 0 ++ bytesOf 32 w7

/-! ### The cycle -/

/-- The ring at the cutoff (R145): the samples dropped as too late, those of the interval, those to correct. -/
structure FusDue where
  gone : List FusSample
  onT  : List FusSample
  late : List FusSample

def State.fusDueOf (s : State) (j : Int) : FusDue :=
  let wait := s.fus.ring.filter fun x => !x.stored
  { gone := wait.filter fun x => s.fusIv x.t + 8 < j, onT := fusOrder (wait.filter fun x => s.fusIv x.t = j),
    late := (fusOrder (wait.filter fun x => s.fusIv x.t < j && j ≤ s.fusIv x.t + 8)).take 4 }

/-- The ring without what is no longer needed. -/
def State.fusTidy (s : State) (j : Int) (gone : List FusSample) : State :=
  let s := if gone.isEmpty then s else (s.set1 FUS_ERR_LATE_DROP).satAdd FUS_CNT_LATE_DROP gone.length
  s.modFus fun f => { f with ring := f.ring.filter fun x =>
    (x.stored && j - 8 ≤ s.fusIv x.t) || (!x.stored && !gone.contains x) }

/-- The votes of a cycle: MRU first, whose roll and pitch the others' lever arms need. -/
def State.fusBallots (s : State) (d : FusDue) (w0 : Vec) (j si : Int) : State × List FusBallot × FusAssoc :=
  let s := s.fusLatest (d.onT.filter fun x => groupOf x.kind = 2)
  let m := s.fusGroup 2 w0 si
  let s := m.1.fusCarried m.2
  let s := s.fusLatest (d.onT.filter fun x => groupOf x.kind ≠ 2 && groupOf x.kind ≠ 4)
  let rel := ((d.late ++ d.onT).filter fun x => groupOf x.kind = 4 && !x.bad && bit s.fus.en x.slot).map fun x =>
    ({ x := x, v := s.fusValue x } : FusRel)
  let as := (s.trackPredict si).fusAssoc si j rel
  let r := [0, 1, 3, 4].foldl (fun (a : State × List FusBallot) g =>
    let q := a.1.fusGroup g w0 si
    (q.1.fusCarried q.2, a.2 ++ [q.2])) (as.st, [m.2])
  (r.1, r.2, as)

/-- The relative samples applied, and every track at the end of the cycle. -/
def State.fusTracks (s : State) (as : FusAssoc) (b : FusBallot) (j si : Int) (a : FusAcc) : State × FusAcc :=
  let q := as.got.foldl (State.fusTarget si j b) (s, a)
  let hits := (as.got.map Prod.snd).eraseDups
  let last := fun n => ((as.got.filter fun e => e.2 = n).map fun e => e.1.x.t).foldl max (q.1.ftrack n).upd
  let s := hits.foldl (fun s n => s.trackHit n (last n)) q.1
  let all := hits ++ as.born.map Prod.fst
  (s.trackIxs.foldl (fun s n => s.trackStep n si (all.contains n)) s, q.2)

/-- The update of cycle k at its cutoff (R131, R137 to R150). -/
def State.fusCycle (s : State) (k : Nat) : State :=
  let j : Int := (k : Int) - 2
  let si := s.fusF j
  let old := s.fus.slots
  let s := s.modFus fun f => { f with en := maskOf ((List.range 34).filter fun i => s.on (FUS_REF_CFG_EN i)) }
  let s := s.fusFill j
  let d := s.fusDueOf j
  let s := s.fusTidy j d.gone
  let acc : FusAcc := { used := [], reset := false, raw := false, applied := 0, dropped := d.gone.length, w0 := [], e := ([], []) }
  let q := d.late.foldl State.fusLate (s, acc)
  let e := q.1.fusPrior j
  let acc := { q.2 with w0 := e.1, e := e }
  let v := q.1.fusBallots d e.1 j si
  let bs := v.2.1
  let q := v.1.fusVessel d.onT bs acc
  let q := q.1.fusTracks v.2.2 (ballotOf bs 4) j si q.2
  let s := (d.onT.filter fun x => groupOf x.kind = 4).foldl (fun s x => s.fusMark x 0) q.1
  let s := s.fusLogRefs old si
  let h : FusVote :=
    { j := j, ns := (List.range 5).map fun g => (ballotOf bs g).av.length, med := (List.range 5).map fun g => (ballotOf bs g).med,
      con := s.fus.groups.map (·.contra), excl := maskOf ((List.range 34).filter fun i => (s.fslot i).excl),
      att := (s.fus.mru.1, s.fus.mru.2.1) }
  let s := (s.modFus fun f => { f with hist := (h :: f.hist).take 10 }).fusPush j si q.2.e
  let av := bs.flatMap fun b => b.av.map (·.slot)
  let s := (List.range 34).foldl (fun s i => s.fusStat i si av (bs.flatMap (·.beyond))) s
  let r := s.fusRecord k si av q.2 false
  (s.modFus fun f => { f with out := some (k, r) }).fusLive

/-- FUS_UPDATE (R130, R131): the latest cycle whose cutoff has come, once. -/
def execFusUpdate (s : State) : Out :=
  done (whenLive s fun s =>
    if !s.fusOn || s.fus.out.isSome then s
    else
      match s.fusDue (s.fusOff - 1000000) with
      | some k => if k < s.fus.next then s else s.fusCycle k
      | none => s)

/-- The output put where it is read: FUS_OUT and FUS_STATUS (R151, R152). -/
def State.fusShow (s : State) (k : Nat) (b : Bytes) : State :=
  let s := (List.range 64).foldl (fun s i => s.wr (FUS_OUT_W i) (field b (4 * i) 4)) s
  let v := field b 16 2
  ((s.wrAll [(FUS_STATUS_VALID, bits v 0 5), (FUS_STATUS_COAST_ANY, b2n (bits v 5 5 ≠ 0))]).modFus fun f =>
    { f with out := none, next := k + 1 }).fusLive

/-- Cycle k published from the previous posterior predicted to F_(k−2), its update not being complete (R132). -/
def State.fusOverrun (s : State) (k : Nat) : State :=
  let j : Int := (k : Int) - 2
  let si := s.fusF j
  let s := s.fusFill j
  let e := s.fusPrior j
  let s := (s.trackPredict si).fusPush j si e
  let s := s.trackIxs.foldl State.trackShow s
  let acc : FusAcc := { used := [], reset := false, raw := false, applied := 0, dropped := 0, w0 := e.1, e := e }
  let av := (List.range 5).flatMap fun g => (s.available g si).map (·.slot)
  (s.set1 FUS_ERR_OVERRUN).fusShow k (s.fusRecord k si av acc true)

/-- FUS_PUBLISH (R129, R132, R151): F_k + PUB_OFF. -/
def execFusPublish (s : State) : Out :=
  done (whenLive s fun s =>
    if !s.fusOn then s
    else
      match s.fusDue s.fusOff with
      | some c =>
        match s.fus.out with
        | some (k, b) => if k ≤ c then s.fusShow k b else s
        | none => if c < s.fus.next then s else s.fusOverrun c
      | none => s)

/-- A write of FUS_REFi_CFG that R152 refuses while the slot runs: it changes more than EN. -/
def State.fusRefHeld (s : State) (l : RegLoc) (v : Nat) : Bool :=
  s.on FUS_CTRL_RUN && s.on (FUS_REF_CFG_EN l.n) && l.flds.any (fun f => f.lo ≠ 0 && l.get v f ≠ s.rd f)

/-- A write to a register of the block (R128, R129, R133, R152): refusals of state before those of range (R307). -/
def State.writeFus (s : State) (l : RegLoc) (v : Nat) : State × WRes :=
  let rej := (s.set1 FUS_ERR_CFG_REJ, WRes.range)
  let st := (s.set1 FUS_ERR_CFG_REJ, WRes.state)
  let run := s.on FUS_CTRL_RUN
  if l.row.name = "FUS_IN_PUSH" then
    match s.fusCommit (bytesOf 64 v) false with
    | (s, full) => (s, if full then .state else .ok)
  else if (l.row.name = "FUS_CYCLE_CFG" || l.row.name = "FUS_ORIGIN" || l.row.name = "FUS_GNSS_CFG") && run then st
  else if l.row.name = "FUS_REF_CFG" && s.fusRefHeld l v then st
  else if !l.inRange v then rej
  else if l.row.name = "FUS_CTRL" then if bit v 0 && s.fusTimeBad then rej else (s.fusRun (bit v 0), .ok)
  else if l.row.name = "FUS_CYCLE_CFG" then
    if fusBadTime (v % 256) (s.rd SCH_GRID_PERIOD_PERIOD) (bits v 12 20) then rej
    else if s.helmRefuses (v % 256) (s.rd SCH_GRID_PERIOD_PERIOD) (bits v 12 20) then
      ((s.set1 FUS_ERR_CFG_REJ).set1 HLM_ERR_CFG_REJ, .range)
    else (s.wrReg l v, .ok)
  else if l.row.name = "FUS_TRK_CFG" && (bits v 4 4 < bits v 0 4 || bits v 24 8 ≤ bits v 16 8 || bits v 4 4 = 0) then rej
  else if l.row.name = "FUS_TGT_SEL" &&
      ((bit v 7 && bits v 8 8 = 0) || (!s.domino && 64 ≤ bits v 0 7)) then rej
  else if l.row.name = "FUS_REF_CFG" && !kindOk l.n (bits v 4 3) then rej
  else (s.wrReg l v, .ok)

end Sys2Proof.Machine
end

