-- ==== Sys2Proof/Machine/Mem.lean ====
section
/-!
DEFINITION. Machine/Mem.lean: stores, reads, scrubbing and bus errors (R402, R409 to R416).
-/
namespace Sys2Proof.Machine

/-- An address that the map holds (R402). -/
def mapped (a : Nat) : Bool := inSram a || inDram a || inFlash a || inRegs a

/-- The Keys and Key table areas of flash (R415, R416). -/
def inKeys (a : Nat) : Bool := 0x20010000 ≤ a && a < 0x20220000

/-- What an uncorrectable word costs beside its counts: check 2 of R279 when it is firmware code or lies in a mirrored
region (R412). -/
def State.codePip (s : State) (w : Nat) (code : Bool) : State :=
  if code || (s.regionOf w).isSome then s.checkFail 2 else s

/-- The bytes of word w after a store of `data` at byte address a. -/
def mergeBytes (old : Bytes) (w a : Nat) (data : Bytes) : Bytes :=
  (List.range 32).map fun i =>
    let x := 32 * w + i
    if a ≤ x && x < a + data.length then data.getD (x - a) 0 else old.getD i 0

/-- The part of a store that falls in word w (R410): the state, and whether it was made. A whole-word store needs no
read; a narrower one is refused on an uncorrectable word. -/
def State.storeWord (s : State) (w a : Nat) (data : Bytes) : State × Bool :=
  if a ≤ 32 * w && 32 * w + 32 ≤ a + data.length then (s.putWord w (mergeBytes [] w a data), true)
  else match s.getWord w with
    | (s, some old) => (s.putWord w (mergeBytes old w a data), true)
    | (s, none) => (s.codePip w false, false)

/-- Words w, w + 1, … of a store in ascending order, up to the first that is refused or lies outside SRAM and DRAM (R402,
R410, R415). -/
def State.storeWords : Nat → State → Nat → Nat → Bytes → State
  | 0, s, _, _, _ => s
  | n + 1, s, w, a, data =>
    if !inSram (32 * w) && !inDram (32 * w) then s.busErr (max a (32 * w))
    else match s.storeWord w a data with
    | (s, true) => State.storeWords n s (w + 1) a data
    | (s, false) => s

/-- MEMORY_STORE (R410, R402, R415): a store of `data` at `addr`. -/
def execMemoryStore (addr : BitVec 64) (data : Bytes) (s : State) : Out :=
  let a := addr.toNat
  let last := a + data.length - 1
  done (whenLive s fun s =>
    if data.isEmpty then s else State.storeWords (last / 32 - a / 32 + 1) s (a / 32) a data)

/-- One word of a processor's read: an ERASED word of flash reads as all ones (R414). -/
def State.procWord (s : State) (w : Nat) : State × Option Bytes :=
  if inFlash (32 * w) && s.rdRaw w = erasedWord then (s, some (List.replicate 32 0xFF)) else s.readWord w

/-- Words of a processor's read, from word w on; none once a word is uncorrectable, with check 2 where R412 asks for it. -/
def State.procWords : Nat → State → Nat → Bool → State × Option Bytes
  | 0, s, _, _ => (s, some [])
  | n + 1, s, w, code =>
    match s.procWord w with
    | (s, none) => (s.codePip w code, none)
    | (s, some d) =>
      match State.procWords n s (w + 1) code with
      | (s, some b) => (s, some (d ++ b))
      | (s, none) => (s, none)

/-- The bytes of a processor's read (R409, R412). -/
def State.loadBytes (s : State) (a len : Nat) (code : Bool) : State × Option Bytes :=
  match State.procWords ((a + len - 1) / 32 - a / 32 + 1) s (a / 32) code with
  | (s, some d) => (s, some (slice d (a % 32) len))
  | (s, none) => (s, none)

/-- MEMORY_READ (R409, R411, R412, R416): a processor's read of `len` bytes; `code` says that it is firmware code. A
read of the key areas returns 0; an uncorrectable word gives a bus error and no data. An ERASED word of flash is
delivered as all ones (R414). -/
def execMemoryRead (who : Requester) (addr : BitVec 64) (len : Fin 64) (code : Bool) (s : State) : Out :=
  let a := addr.toNat
  let last := a + len.val - 1
  done (whenLive s fun s =>
    if len.val = 0 then s
    else if inFlash a && inFlash last && (inKeys a || inKeys last) then s.deliver who a 0
    else if (inSram a && inSram last) || (inDram a && inDram last) || (inFlash a && inFlash last) then
      match s.loadBytes a len code with
      | (s, some d) => s.deliver who a (natOf d)
      | (s, none) => s.deliverNone who
    else (s.busErr a).deliverNone who)

/-- BUS_ERROR_ACCESS (R402): an access outside the map, or one to a register block that is not a processor's 32-bit
access. -/
def execBusErrorAccess (who : Agent) (addr : BitVec 64) (s : State) : Out :=
  done (whenLive s fun s =>
    if !mapped addr.toNat || inRegs addr.toNat then
      let s := s.busErr addr.toNat
      match who with
      | .proc r => s.deliverNone r
      | _ => s
    else s)

/-- One scrubbed word (R411 to R413): corrected or reported. -/
def State.scrub (s : State) (w : Nat) (code : Bool) : State :=
  match s.readWord w with
  | (s, some _) => s
  | (s, none) => if inFlash (32 * w) then s else s.codePip w code

/-- Scrubber i: 0 SRAM, 1 DRAM, 2 flash. -/
def State.scrubPos (s : State) (i : Nat) : ScrubPos := s.mbx.scrubs.getD i { next := 0, due := 0 }

/-- First word of a scrubbed memory and its words. -/
def scrubBase (i : Nat) : Nat := if i = 0 then 0 else if i = 1 then 0x800000 else 0x1000000
def scrubWords (i : Nat) : Nat := if i = 0 then 0x80000 else if i = 1 then 0x800000 else 0x100000

/-- The word that scrubber i reads next; the words are read in ascending order (notes/assumptions/11.md). -/
def State.scrubNext (s : State) (i : Nat) : Nat := scrubBase i + (s.scrubPos i).next

/-- The scrub period of MBX_PIP_CTRL in ticks: minutes for SRAM and DRAM, days for flash. -/
def State.scrubPer (s : State) (i : Nat) : Nat :=
  if i = 0 then 15000000000 * s.rd MBX_PIP_CTRL_SRAM_PER
  else if i = 1 then 15000000000 * s.rd MBX_PIP_CTRL_DRAM_PER
  else 21600000000000 * s.rd MBX_PIP_CTRL_FLASH_PER

def scrubPass (i : Nat) : Fld :=
  if i = 0 then MBX_SCRUB_STAT_SRAM_PASS else if i = 1 then MBX_SCRUB_STAT_DRAM_PASS else MBX_SCRUB_STAT_FLASH_PASS

/-- Scrubber i past one word; a pass begins once per period and the last word completes it. -/
def State.scrubOn (s : State) (i : Nat) : State :=
  let p := s.scrubPos i
  let due := if p.next = 0 then s.ticks + s.scrubPer i else p.due
  let next := if p.next + 1 = scrubWords i then 0 else p.next + 1
  let s := { s with mbx := { s.mbx with scrubs := putAt s.mbx.scrubs i { next := next, due := due } } }
  if next = 0 then s.wrapInc (scrubPass i) else s

/-- The next scrub read of memory i: the first word of a pass waits for the period. -/
def State.scrubStep (s : State) (i : Nat) (code : Bool) : State :=
  if (s.scrubPos i).next = 0 && s.ticks < (s.scrubPos i).due then s
  else (s.scrub (s.scrubNext i) code).scrubOn i

/-- SCRUB_READ (R413): the next word of SRAM or DRAM. -/
def execScrubRead (dram : Bool) (code : Bool) (s : State) : Out := done (whenLive s fun s => s.scrubStep (b2n dram) code)

/-- FLASH_SCRUB (R413): the next word of flash; scrubbing never writes flash. -/
def execFlashScrub (s : State) : Out := done (whenLive s fun s => s.scrubStep 2 false)

end Sys2Proof.Machine
end

