-- ==== Sys2Proof/Machine/Slv.lean ====
section
/-!
DEFINITION. Machine/Slv.lean: the solver (chapter 7): slots, structure loads, the ring, choice and preemption of requests,
setup, iterations, deadlines and results. Where a number depends on the order of the solver's operations it is an opaque function of
what it depends on (R153; notes/assumptions/21.md); durations come with the commands that end a phase.
-/
namespace Sys2Proof.Machine

def State.modSlv (s : State) (f : SlvState → SlvState) : State := { s with slv := f s.slv }
def State.sslot (s : State) (n : Nat) : SlvSlot := s.slv.slots.getD n SlvSlot.init
def State.modSslot (s : State) (n : Nat) (f : SlvSlot → SlvSlot) : State :=
  s.modSlv fun v => { v with slots := modAt v.slots n f }

/-- The solver takes requests: RUN = 1 on the unit that holds TOKEN, half 1 in a Domino pair (R17, R171). -/
def State.slvOn (s : State) : Bool := s.on SLV_CTRL_RUN && s.engineRole && s.holds && !s.half2

/-- State of a slot (R156): 0 EMPTY, 1 LOADING, 2 READY, 3 BUSY. -/
def State.sst (s : State) (n : Nat) : Nat := s.rd (SLV_SLOT_STAT_STATE n)

/-- Requests outstanding beside those still in the ring. -/
def State.slvFlight (s : State) : Nat :=
  s.slv.queue.length + s.slv.paused.length + s.slv.loads.length + (if s.slv.run.isSome then 1 else 0)

/-- Descriptors between HEAD and TAIL. -/
def State.ringLen (s : State) : Nat := (s.rd SLV_RING_PTR_TAIL + 32 - s.rd SLV_RING_PTR_HEAD) % 32

/-- SLV_STATUS and SLV_WS brought up to date. -/
def State.slvShow (s : State) : State :=
  let used := (List.range 16).foldl (fun n k => n + s.rd (SLV_SLOT_STAT_FOOT k)) 0
  s.wrAll [(SLV_STATUS_BUSY, b2n s.slv.run.isSome), (SLV_STATUS_DOMINO, b2n (s.domino && s.on PRD_STATUS_DL_UP)),
    (SLV_STATUS_QDEPTH, s.slvFlight + s.ringLen), (SLV_STATUS_RUN_SLOT, match s.slv.run with | some r => r.req.slot | none => 0),
    (SLV_WS_USED, used)]

/-! ### Results (R166 to R168) -/

/-- Values a class puts out (R168). -/
def SlvSlot.outLen (x : SlvSlot) : Nat := if x.cls = 5 then 2 * x.n + x.m else x.n

/-- Bytes stored by the solver, never where R404 forbids it. -/
def State.slvStore (s : State) (a : Nat) (b : Bytes) : State :=
  if b.isEmpty || reserved a b.length then s
  else
    let last := a + b.length - 1
    if (inSram a && inSram last) || (inDram a && inDram last) then State.storeWords (last / 32 - a / 32 + 1) s (a / 32) a b
    else s.busErr a

/-- What a result record holds beside its request (R167). -/
structure SlvRes where
  outcome : Nat
  flags   : Nat := 0
  iter    : Nat := 0
  shifts  : Nat := 0
  pivot   : Nat := 0xFFFFFFFF
  delta   : Nat := 0
  gap     : Nat := 0
  resP    : Nat := 0
  resD    : Nat := 0
  flops   : Nat := 0

/-- The two words of a result record. -/
def State.slvRecord (s : State) (q : SlvReq) (r : SlvRes) : Bytes :=
  bytesOf 32 (r.outcome + r.flags <<< 8 + (r.iter % 256) <<< 16 + (min r.shifts 15) <<< 24 + q.slot <<< 28 + q.tag <<< 32 +
    s.ns32 <<< 64 + r.pivot <<< 96 + (r.delta % 2 ^ 64) <<< 128) ++
  bytesOf 32 (r.gap % 2 ^ 64 + (r.resP % 2 ^ 64) <<< 64 + (r.resD % 2 ^ 64) <<< 128 + (r.flops % 2 ^ 64) <<< 192)

/-- Flags, counters and the fault log of a posted result (R173). -/
def State.slvCount (s : State) (q : SlvReq) (r : SlvRes) : State :=
  let o := r.outcome
  let s := if o = 0x21 then s.satInc SLV_CNT_ITERATE_CNT else s
  let s := if o = 0x22 then s.satInc SLV_CNT_PRIOR_CNT else s
  let s := if o = 0x20 then s.satInc SLV_CNT_COLD_CNT else s
  let s := if bit r.flags 1 then (s.satInc SLV_CNT_REG_CNT).set1 SLV_ERR_REG else s
  let s := if o = 0x21 || o = 0x22 then s.set1 SLV_ERR_DEADLINE else s
  if o = 0x22 || o = 0x24 || o = 2 || o = 0x20 then s.logEvent 5 197 q.slot o (q.tag + s.ns32 <<< 16) else s

/-- A result posted. -/
def State.slvPost (s : State) (q : SlvReq) (r : SlvRes) : State :=
  (s.slvStore q.resAddr (s.slvRecord q r)).slvCount q r

/-- The slot leaves BUSY when nothing is queued on it any more (R156). -/
def State.slvLeave (s : State) (n : Nat) : State :=
  let more := s.slv.queue.any (·.slot = n) || s.slv.paused.any (·.req.slot = n) ||
    (match s.slv.run with | some r => r.req.slot = n | none => false)
  if s.sst n = 3 && !more then s.wr (SLV_SLOT_STAT_STATE n) 2 else s

/-- The slot's stored solution at OUT_ADDR, or zeros where its signature differs (R167): whether PRIOR_NONE is set. -/
def State.slvPrior (s : State) (q : SlvReq) : State × Bool :=
  let x := s.sslot q.slot
  let same := s.rd (SLV_SLOT_SIG_SOL_SIG q.slot) = s.rd (SLV_SLOT_SIG_SIG q.slot)
  let v := if same then x.sol.getD [] else []
  (s.slvStore q.outAddr ((List.range x.outLen).flatMap fun i => bytesOf 8 (v.getD i 0)), !same)

/-- The flags of a running solve. -/
def SlvRun.flags (r : SlvRun) (priorNone : Bool) : Nat :=
  b2n r.cold + 2 * b2n r.reg + 4 * b2n priorNone + 8 * b2n r.preempt + 16 * b2n r.guard

/-- FLOPS of a solve: where it was cut short, how far it had come is free. -/
def State.slvFlops (s : State) (r : SlvRun) (cut : Bool) : Nat :=
  Config.solveFlops ([r.iter, r.shifts, if cut then Config.freeNat s.free else 0] ++ r.key)

/-- The solve's end with an outcome that returns the prior solution: CHECK_FAILED, DEADLINE_PRIOR, FACTOR_FAILED. -/
def State.slvEndPrior (s : State) (r : SlvRun) (o : Nat) : State :=
  let p := s.slvPrior r.req
  p.1.slvPost r.req { outcome := o, flags := r.flags p.2, shifts := r.shifts, pivot := r.pivot, delta := r.delta,
                      flops := s.slvFlops r true }

/-- A slot's value by target, row and column. -/
def valKey (t row col : Nat) : Nat := (t * 2 ^ 20 + row) * 2 ^ 16 + col
def SlvSlot.val (x : SlvSlot) (t row col : Nat) : Nat := (aGet (valKey t row col) x.vals).getD 0

/-- The values put out (R168): of class 5 from the present iterate, in y and z the upper side's dual less the lower's. -/
def SlvSlot.out (x : SlvSlot) (r : SlvRun) : List Nat :=
  if x.cls = 5 then
    r.pt.take x.n ++ (List.range (x.m + x.n)).map fun k => f64Sub (r.pt.getD (x.n + 4 * k + 3) 0) (r.pt.getD (x.n + 4 * k + 1) 0)
  else (List.range x.outLen).map fun k => Config.solveBits (r.delta :: r.key) k % 2 ^ 64

/-- GAP, RES_P and RES_D of a result that returns an iterate (R167). -/
def SlvSlot.gaps (x : SlvSlot) (r : SlvRun) : Nat × Nat × Nat :=
  if x.cls = 5 then (Config.qpGap r.key r.pt % 2 ^ 64, Config.qpResP r.key r.pt % 2 ^ 64, Config.qpResD r.key r.pt % 2 ^ 64)
  else (if x.cls = 3 then Config.solveNorm (r.delta :: r.key) % 2 ^ 64 else 0, 0, 0)

/-- The code of a result that returns an iterate, by R167's order, from the outcome of the tests. -/
def SlvRun.code (r : SlvRun) (o : Nat) : Nat :=
  if o = 0x21 || o = 0x25 || o = 0x26 then o else if r.mism then 0x20 else if r.reg then 0x23 else 0

/-- The solve's end with an iterate (R167): every outcome but INFEASIBLE stores it with the slot's signature. -/
def State.slvEndIter (s : State) (r : SlvRun) (o iter : Nat) (cut : Bool) : State :=
  let q := r.req
  let x := s.sslot q.slot
  let out := x.out r
  let g := x.gaps r
  let code := r.code o
  let fl := s.slvFlops r cut
  let s := s.slvStore q.outAddr (out.flatMap (bytesOf 8))
  let s := if code = 0x25 then s
    else ((s.modSslot q.slot fun x => { x with sol := some out }).wr (SLV_SLOT_SIG_SOL_SIG q.slot)
      (s.rd (SLV_SLOT_SIG_SIG q.slot))).wr (SLV_SLOT_STAT_HAS_SOL q.slot) 1
  s.slvPost q { outcome := code, flags := r.flags false, iter := iter, shifts := r.shifts, pivot := r.pivot, delta := r.delta,
                gap := g.1, resP := g.2.1, resD := g.2.2, flops := fl }

/-- The running solve has ended. -/
def State.slvFree (s : State) (n : Nat) : State :=
  (((s.modSlv fun v => { v with run := none }).slvLeave n).draw).slvShow

/-! ### The ring (R162) -/

/-- The request that a descriptor spells. -/
def slvReqOf (num : Nat) (b : Bytes) : SlvReq :=
  let w0 := field b 0 32
  { num := num, op := bits w0 0 8, slot := bits w0 8 4, wsSlot := bits w0 12 4, wsEn := bit w0 16, prio := bits w0 18 2,
    tag := bits w0 20 12, release := bits w0 32 32, released := !bit w0 17,
    deadline := bits w0 64 32 + bits w0 96 32 <<< 32, inAddr := bits w0 128 64, inCount := bits w0 192 32,
    outAddr := field b 32 8, resAddr := field b 40 8, damp := field b 48 8 }

/-- The status with which a request is rejected as it is taken (R12, R156, R159, R162); 0 where it is accepted. -/
def State.slvReject (s : State) (q : SlvReq) (b : Bytes) : Nat :=
  let st := s.sst q.slot
  let rsv := field b 28 4 ≠ 0 || field b 56 8 ≠ 0
  if q.op = 0 && !(s.sslot q.slot).feed && 262144 < q.inCount then 1
  else if (q.op = 0 && st < 2) || (q.op ≠ 0 && q.op ≤ 2 && (st = 1 || st = 3)) then 3
  else if 2 < q.op || rsv || (q.op ≠ 2 && 0x14000000 ≤ q.inAddr && reserved q.inAddr 1) || (q.op = 0 && reserved q.outAddr 1) ||
      reserved q.resAddr 1 || (q.op = 0 && (s.sslot q.slot).feed && q.inCount ≠ (s.sslot q.slot).nvec) ||
      (q.op = 0 && ((s.sslot q.slot).cls = 3 || (s.sslot q.slot).cls = 4) && (!f64Finite q.damp || f64Val q.damp < 0)) then 5
  else 0

/-- One descriptor taken from the ring. -/
def State.slvTake (s : State) : State :=
  let a := s.rd SLV_RING_BASE_ADDR + 64 * s.rd SLV_RING_PTR_HEAD
  let s := s.wrapInc SLV_RING_PTR_HEAD
  match State.getWords 2 s (a / 32) with
  | (s, none) => s
  | (s, some b) =>
    let q := slvReqOf s.slv.num b
    let q := { q with released := q.released || 0 ≤ diff32 q.release s.ns32 }
    let s := s.modSlv fun v => { v with num := v.num + 1 }
    let o := s.slvReject q b
    if o ≠ 0 then s.slvPost q { outcome := o }
    else
      let s := s.modSlv fun v => { v with queue := v.queue ++ [q] }
      if q.op = 0 then s.wr (SLV_SLOT_STAT_STATE q.slot) 3
      else if q.op = 1 then s.wr (SLV_SLOT_STAT_STATE q.slot) 1 else s

/-- A preempted solve waits for request q. -/
def State.slvPaused (s : State) (q : SlvReq) : Bool := s.slv.paused.any (·.req = q)

/-- Request a goes before request b (R162): of equal PRIO a preempted solve resumes first. -/
def State.slvBefore (s : State) (a b : SlvReq) : Bool :=
  b.prio < a.prio || (a.prio = b.prio && ((s.slvPaused a && !s.slvPaused b) || (s.slvPaused a = s.slvPaused b &&
    (a.deadline < b.deadline || (a.deadline = b.deadline && a.num < b.num)))))

/-- Requests that may run: released, and first on their slot. -/
def State.slvReady (s : State) : List SlvReq :=
  let wait := s.slv.paused.map (·.req) ++ s.slv.queue
  let all := (match s.slv.run with | some r => [r.req] | none => []) ++ wait
  wait.filter fun q => q.released && all.all fun p => p.slot ≠ q.slot || q.num ≤ p.num

/-- The request chosen next. -/
def State.slvNext (s : State) : Option SlvReq :=
  s.slvReady.foldl (fun b q => match b with | none => some q | some p => if s.slvBefore q p then some q else some p) none

/-- The running solve set aside for a request of higher PRIO (R162). -/
def State.slvPreempt (s : State) : State :=
  match s.slv.run, s.slvNext with
  | some r, some q =>
    if r.req.prio < q.prio then
      (s.modSlv fun v => { v with run := none, paused := { r with preempt := true } :: v.paused }).slvShow
    else s
  | _, _ => s

/-- Every submitted descriptor taken. -/
def State.slvTakeAll (s : State) : State :=
  if s.slvOn then (((List.range s.ringLen).foldl (fun s _ => s.slvTake) s).slvShow).slvPreempt else s.slvShow

/-- TAIL written (R162). -/
def State.slvSubmit (s : State) (tail : Nat) : State × WRes :=
  let new := (tail + 32 - s.rd SLV_RING_PTR_HEAD) % 32
  if 31 < new + s.slvFlight then (s.set1 SLV_ERR_RING_FULL, .state)
  else ((s.wr SLV_RING_PTR_TAIL tail).slvTakeAll, .ok)

/-- SLV_RING_SUBMIT (R162). -/
def execSlvRingSubmit (tail : Fin 32) (s : State) : Out := done (whenLive s fun s => (s.slvSubmit tail).1)

/-- SLV_REQUEST_RELEASE (R162): the release instant of request `num`, once it has come (R9). -/
def execSlvRequestRelease (num : Nat) (s : State) : Out :=
  done (whenLive s fun s =>
    if s.slvOn then
      (s.modSlv fun v => { v with
        queue := v.queue.map fun q => if q.num = num && 0 ≤ diff32 q.release s.ns32 then { q with released := true } else q }).slvPreempt
    else s)

/-! ### Loads (R157, R158) -/

/-- Whether a header's sizes lie within R154. -/
def slvSizesOk (domino : Bool) (cls n m nnz terms nvec : Nat) : Bool :=
  let d := if domino then 1024 else 512
  terms ≤ 65536 && nvec ≤ 4095 && n ≤ 65536 &&
  (match cls with
   | 0 => n ≤ d | 1 => n ≤ d | 2 => true
   | 3 => n ≤ d && m ≤ 8192
   | 4 => m ≤ 1048576 && nnz ≤ 8388608
   | 5 => n ≤ d && m ≤ 1024
   | _ => true)

/-- Whole words that k bytes take. -/
def wordsFor (k : Nat) : Nat := (k + 31) / 32

/-- Lengths of the u32 arrays of a class, in order. -/
def slvArrays (cls n m nnz : Nat) : List Nat :=
  match cls with | 2 => [n, n + 1, nnz] | 4 => [n, m + 1, nnz] | _ => []

/-- u32 number i of a run of bytes. -/
def u32At (b : Bytes) (i : Nat) : Nat := field b (4 * i) 4

/-- The arrays of a block cut out of its bytes after the header, and the bytes of its terms. -/
def cutArrays : List Nat → Bytes → List (List Nat) × Bytes
  | [], b => ([], b)
  | k :: ks, b =>
    let r := cutArrays ks (b.drop (32 * wordsFor (4 * k)))
    ((List.range k).map (u32At b) :: r.1, r.2)

/-- Entries of a compressed pattern: (major, minor) pairs. -/
def patEntries (ptr idx : List Nat) : List (Nat × Nat) :=
  (List.range (ptr.length - 1)).flatMap fun c =>
    ((idx.drop (ptr.getD c 0)).take (ptr.getD (c + 1) 0 - ptr.getD c 0)).map fun r => (c, r)

/-- Strictly rising. -/
def rising : List Nat → Bool
  | a :: b :: l => a < b && rising (b :: l)
  | _ => true

/-- Never falling. -/
def risingEq : List Nat → Bool
  | a :: b :: l => a ≤ b && risingEq (b :: l)
  | _ => true

/-- Pattern arrays obey R157 step 4. -/
def slvPatOk (cls n m nnz : Nat) (perm ptr idx : List Nat) : Bool :=
  let major := if cls = 2 then n else m
  perm.all (· < n) && rising (perm.mergeSort) && ptr.getD 0 1 = 0 && ptr.getD major 0 = nnz && risingEq ptr &&
  (List.range major).all fun c =>
    let l := (idx.drop (ptr.getD c 0)).take (ptr.getD (c + 1) 0 - ptr.getD c 0)
    rising l && l.all (· < n) && (cls = 4 || l.head? = some c)

/-- The pattern of the matrix to be factored, in the order of PERM: for each column the rows below the diagonal. -/
def slvColumns (cls n : Nat) (perm : List Nat) (ents : List (Nat × Nat)) (rows : List (List Nat)) : List (List Nat) :=
  let inv := fun i => (perm.findIdx? (· = i)).getD 0
  let prs := if cls = 2 then ents.map fun e => (inv e.1, inv e.2)
    else rows.flatMap fun r => r.flatMap fun a => r.map fun b => (inv a, inv b)
  (List.range n).map fun c => (prs.filterMap fun e =>
    if min e.1 e.2 = c && max e.1 e.2 ≠ c then some (max e.1 e.2) else none).eraseDups

/-- nnz(L) by symbolic analysis: each column's rows joined with those its children pass up. -/
def symbolic (cols : List (List Nat)) : Nat :=
  (cols.zipIdx.foldl (fun (a : Nat × List (Nat × Nat)) c =>
    let st := (c.1 ++ (a.2.filterMap fun e => if e.1 = c.2 && e.2 ≠ c.2 then some e.2 else none)).eraseDups
    let par := st.foldl min (2 ^ 32)
    (a.1 + 1 + st.length, a.2 ++ st.map fun r => (par, r))) (0, [])).1

/-- A target that a class uses, with its index bounds (R159); pattern classes are checked against their pattern. -/
def slvIndexOk (x : SlvSlot) (t row col : Nat) : Bool :=
  match t with
  | 0 => (x.cls = 0 || x.cls = 1 || x.cls = 5 || (x.cls = 2 && x.pat.contains (col, row))) && row < x.n && col ≤ row
  | 1 => ((x.cls = 3 || x.cls = 5) && row < x.m && col < x.n) || (x.cls = 4 && x.pat.contains (row, col))
  | 2 => col = 0 && row < (if x.cls = 3 || x.cls = 4 then x.m else x.n)
  | 3 => x.cls = 5 && col = 0 && row < x.m
  | 4 => x.cls = 5 && col = 0 && row < x.m
  | 5 => x.cls = 5 && col = 0 && row < x.n
  | 6 => x.cls = 5 && col = 0 && row < x.n
  | _ => false

/-- A term of 16 bytes. -/
def slvTermOf (b : Bytes) : SlvTerm :=
  let n := field b 0 8
  { target := bits n 0 4, row := bits n 4 20, col := bits n 24 16, a := bits n 40 12, b := bits n 52 12, coef := field b 8 8 }

/-- The terms of a structure obey R160. -/
def slvTermsOk (x : SlvSlot) : Bool :=
  x.terms.all (fun t => slvIndexOk x t.target t.row t.col && t.a ≤ x.nvec && t.b ≤ x.nvec) &&
  (let bs := (x.terms.filter fun t => 3 ≤ t.target).map fun t => (t.target, t.row)
   bs.eraseDups.length = bs.length)

/-- CRC-64 of R158. -/
def crc64 (b : Bytes) : Nat := (b.foldl (crcMsbByte 64 0x42F0E1EBA9EA3693) (2 ^ 64 - 1)) ^^^ (2 ^ 64 - 1)

/-- The structure signature (R158). -/
def slvSig (hdr : Bytes) (arrays : List (List Nat)) (x : SlvSlot) : Nat :=
  let t := x.terms.flatMap fun t => bytesOf 5 (t.target + t.row <<< 4 + t.col <<< 24)
  let c := crc64 (hdr.take 22 ++ (arrays.flatMap fun l => l.flatMap (bytesOf 4)) ++ t)
  if c = 0 then 1 else c

/-- What a load finds: a failure code, or the slot, its signature, its granules and the block's bytes. -/
inductive LoadRes where
  | fail (code : Nat)
  | good (x : SlvSlot) (sig foot : Nat) (block : Bytes)

/-- Workspace granules free for a slot. -/
def State.slvFreeWs (s : State) (n : Nat) : Nat :=
  1536 - (List.range 16).foldl (fun a k => if k = n then a else a + s.rd (SLV_SLOT_STAT_FOOT k)) 0

/-- The checks of R157 on the arrays of a block that has been read whole. -/
def State.slvCheckBody (s : State) (slot : Nat) (hb body : Bytes) : LoadRes :=
  let h := natOf hb
  let cls := bits h 8 3; let feed := bit h 11; let n := bits h 16 17; let m := bits h 64 21; let nnz := bits h 96 32
  let terms := if feed then bits h 128 32 else 0; let nvec := bits h 160 16
  let cut := cutArrays (slvArrays cls n m nnz) body
  let perm := cut.1.getD 0 []; let ptr := cut.1.getD 1 []; let idx := cut.1.getD 2 []
  let ents := patEntries ptr idx
  let rows := (List.range m).map fun r => (ents.filter (·.1 = r)).map (·.2)
  let nnzL := if cls = 2 || cls = 4 then symbolic (slvColumns cls n perm ents rows) else 0
  let foot := Config.slvFoot [cls, n, m, nnz, terms, nvec, nnzL]
  let x : SlvSlot :=
    { cls := cls, feed := feed, n := n, m := m, nvec := nvec, perm := perm, pat := ents,
      terms := (List.range terms).map fun i => slvTermOf (slice cut.2 (16 * i) 16), vals := [], sol := (s.sslot slot).sol }
  let sparse := cls = 2 || cls = 4
  if sparse && (4194304 < nnzL || s.slvFreeWs slot < foot) then .fail 1
  else if bits h 0 8 ≠ 1 || 5 < cls || n = 0 || bits h 12 4 ≠ 0 || bits h 33 31 ≠ 0 || bits h 85 11 ≠ 0 || bits h 176 80 ≠ 0 ||
      (cls ≤ 2 && m ≠ 0) || (!sparse && nnz ≠ 0) || (!feed && (bits h 128 32 ≠ 0 || nvec ≠ 0)) ||
      (sparse && !slvPatOk cls n m nnz perm ptr idx) || !slvTermsOk x then .fail 5
  else .good x (slvSig hb cut.1 x) foot (hb ++ body)

/-- Words of a block that follow its header word (R157, R158). -/
def slvBodyWords (hb : Bytes) : Nat :=
  let h := natOf hb
  (slvArrays (bits h 8 3) (bits h 16 17) (bits h 64 21) (bits h 96 32)).foldl (fun a k => a + wordsFor (4 * k)) 0 +
    wordsFor (16 * (if bit h 11 then bits h 128 32 else 0))

/-- The checks of R157 in order, on the block at the request's IN_ADDR. -/
def State.slvCheck (s : State) (q : SlvReq) : State × LoadRes :=
  let w := q.inAddr / 32
  match State.getWords 1 s w with
  | (s, none) => (s, .fail 2)
  | (s, some hb) =>
    let h := natOf hb
    let cls := bits h 8 3; let feed := bit h 11; let n := bits h 16 17; let m := bits h 64 21; let nnz := bits h 96 32
    let terms := if feed then bits h 128 32 else 0
    if !slvSizesOk s.domino cls n m nnz terms (bits h 160 16) ||
        s.slvFreeWs q.slot < Config.slvFoot [cls, n, m, nnz, terms, bits h 160 16, 0] then (s, .fail 1)
    else match State.getWords (slvBodyWords hb) s (w + 1) with
      | (s, none) => (s, .fail 2)
      | (s, some body) => (s, s.slvCheckBody q.slot hb body)

/-- The slot's registers of a structure. -/
def State.slvSlotRegs (s : State) (n st : Nat) (x : SlvSlot) (sig foot : Nat) : State :=
  s.wrAll [(SLV_SLOT_STAT_STATE n, st), (SLV_SLOT_STAT_CLASS n, x.cls), (SLV_SLOT_STAT_FEED n, b2n x.feed), (SLV_SLOT_STAT_N n, x.n),
    (SLV_SLOT_STAT_M n, x.m), (SLV_SLOT_STAT_FOOT n, foot), (SLV_SLOT_SIG_SIG n, sig)]

/-- The structure words of a slot sent to the partner as LOAD frames, the slot in REGION (R289). -/
def State.slvSendLoad (s : State) (slot : Nat) (b : Bytes) : State :=
  let ws := payWords b
  let s := (List.range ((ws.length + 15) / 16)).foldl (fun s i =>
    s.mirPush (s.mirFrame 6 slot (16 * i) 0 0 ((ws.drop (16 * i)).take 16))) s
  { s with mir := { s.mir with loadWait := slot :: s.mir.loadWait.filter (· ≠ slot) } }

/-- A LOAD posts OK and its slot is READY. -/
def State.slvLoaded (s : State) (q : SlvReq) : State :=
  ((s.wr (SLV_SLOT_STAT_STATE q.slot) 2).slvPost q { outcome := 0 }).slvShow

/-- The chosen request, when it is of an operation, taken out of the queue. -/
def State.slvPick (s : State) (op : Nat) : Option (State × SlvReq) :=
  if s.slvOn && s.slv.run.isNone then
    match s.slvNext with
    | some q => if q.op = op && s.slv.queue.contains q then
        some (s.modSlv fun v => { v with queue := v.queue.erase q }, q) else none
    | none => none
  else none

/-- A structure lost, its stored solution kept (R156, R157, R167). -/
def State.slvEmpty (s : State) (n : Nat) : State :=
  (s.slvSlotRegs n 0 SlvSlot.init 0 0).modSslot n fun x => { SlvSlot.init with sol := x.sol }

/-- SLV_LOAD (R156 to R158, R172): the chosen request, a LOAD. -/
def execSlvLoad (s : State) : Out :=
  done (whenLive s fun s =>
    match s.slvPick 1 with
    | none => s
    | some (s, q) =>
      match s.slvCheck q with
      | (s, .fail o) =>
        ((s.slvEmpty q.slot).slvPost q { outcome := o }).slvShow
      | (s, .good x sig foot b) =>
        let s := (s.modSslot q.slot fun _ => x).slvSlotRegs q.slot 1 x sig foot
        if s.prd.mlUp then ((s.slvSendLoad q.slot b).modSlv fun v => { v with loads := v.loads ++ [q] }).slvShow
        else s.slvLoaded q)

/-- The partner has confirmed a slot's structure, or its lane is gone (R172). -/
def State.slvConfirm (s : State) (slot : Nat) : State :=
  match s.slv.loads.find? (·.slot = slot) with
  | some q => (s.modSlv fun v => { v with loads := v.loads.erase q }).slvLoaded q
  | none => s

/-- SLV_CLEAR (R156): a slot with a LOAD waiting stays LOADING. -/
def execSlvClear (s : State) : Out :=
  done (whenLive s fun s =>
    match s.slvPick 2 with
    | none => s
    | some (s, q) =>
      let st := if s.slv.queue.any fun p => p.slot = q.slot && p.op = 1 then 1 else 0
      let s := (s.slvSlotRegs q.slot st SlvSlot.init 0 0).modSslot q.slot fun _ => SlvSlot.init
      ((s.wrAll [(SLV_SLOT_STAT_HAS_SOL q.slot, 0), (SLV_SLOT_SIG_SOL_SIG q.slot, 0)]).slvPost q { outcome := 0 }).slvShow)

/-! ### Solves (R159 to R166) -/

/-- A change list applied to a slot's values (R159); none where a record has a fault. -/
def slvChanges (x : SlvSlot) (b : Bytes) (n : Nat) : Option (List (Nat × Nat)) :=
  let recs := (List.range n).map fun i => (field b (16 * i) 8, field b (16 * i + 8) 8)
  let ok := recs.all fun r =>
    let t := bits r.1 0 4
    slvIndexOk x t (bits r.1 4 20) (bits r.1 24 16) && bits r.1 40 24 = 0 &&
      (f64Finite r.2 || (3 ≤ t && bits r.2 0 52 = 0))
  if ok then some (recs.foldl (fun v r => aSet 0 (valKey (bits r.1 0 4) (bits r.1 4 20) (bits r.1 24 16)) r.2 v) x.vals) else none

/-- COEF × v[SRC_A] × v[SRC_B] added for each term in table order (R160): the last product and the sum in one fused multiply-add
(R153; notes/assumptions/21.md). -/
def termSum (l : List (Nat × Nat × Nat)) : Nat := l.foldl (fun a t => f64Fma (f64Mul t.1 t.2.1) t.2.2 a) 0

/-- Front-stage assembly (R160) from the input vector; none where a value of it is not finite. -/
def slvAssemble (x : SlvSlot) (b : Bytes) : Option (List (Nat × Nat)) :=
  let v := f64One :: (List.range x.nvec).map fun i => field b (8 * i) 8
  if !v.all f64Finite then none
  else
    let base : List (Nat × Nat) := if x.cls = 5 then
        (List.range x.m).map (fun r => (valKey 3 r 0, f64NegInf)) ++ (List.range x.m).map (fun r => (valKey 4 r 0, f64PosInf)) ++
        (List.range x.n).map (fun r => (valKey 5 r 0, f64NegInf)) ++ (List.range x.n).map (fun r => (valKey 6 r 0, f64PosInf))
      else []
    let keys := (x.terms.map fun t => valKey t.target t.row t.col).eraseDups
    some (keys.foldl (fun l k =>
      let ts := x.terms.filter fun t => valKey t.target t.row t.col = k
      aSet 0 k (termSum (ts.map fun t => (t.coef, v.getD t.a 0, v.getD t.b 0))) l) base)

/-- The deadline has come (R166, R9). -/
def State.slvDue (s : State) (q : SlvReq) : Bool := q.deadline ≤ s.now

/-- A solve at its start. -/
def SlvRun.start (q : SlvReq) (v : List (Nat × Nat)) : SlvRun :=
  { req := q, staging := some v, iter := 0, cold := false, mism := false, reg := false, preempt := false, guard := false,
    shifts := 0, pivot := 0xFFFFFFFF, delta := 0, key := [], pt := [], mu0 := 0, resPs := [], dur := 0, wait := false }

/-! #### Factorisation (R164) -/

/-- The pattern of 2^−k. -/
def pow2neg (k : Nat) : Nat := f64Of (1 / 2 ^ k)

/-- The shift of attempt k, from the first: none, δ₁, 16 δ₁, 256 δ₁, 4,096 δ₁. -/
def slvShift (d1 : Nat) : Nat → Nat
  | 0 => 0
  | k + 1 => f64Mul d1 (f64Of (16 ^ k))

/-- A factorisation: attempts with a shift, the first tiny pivot's column, δ₁, whether it failed. -/
structure SlvFac where
  shifts : Nat
  pivot  : Nat
  d1     : Nat
  fail   : Bool

/-- What of a factorisation depends on its matrix: class, size, tol and the scale it is compared with, δ₁, and what its numbers
depend on. -/
structure SlvMat where
  cls   : Nat
  n     : Nat
  tol   : Nat
  scale : Nat
  d1    : Nat
  key   : List Nat

/-- The pivot of column j under the shift of attempt k, and whether it is tiny. -/
def SlvMat.piv (m : SlvMat) (k j : Nat) : Nat := Config.facPivot (slvShift m.d1 k :: m.key) j % 2 ^ 64
def SlvMat.tiny (m : SlvMat) (p : Nat) : Bool :=
  f64Le (if m.cls = 1 || m.cls = 3 then f64Abs p else p) (f64Mul m.tol m.scale)

/-- The first column that stops attempt k: by a tiny pivot, or by one that is not finite. -/
def SlvMat.stop (m : SlvMat) (k : Nat) : Option Nat :=
  (List.range m.n).find? fun j => !f64Finite (m.piv k j) || m.tiny (m.piv k j)

/-- Attempts from k on, of which `left` may follow it. -/
def SlvMat.tries (m : SlvMat) : Nat → Nat → Nat × Bool
  | 0, k => (k, (m.stop k).isSome)
  | left + 1, k =>
    match m.stop k with
    | none => (k, false)
    | some j => if f64Finite (m.piv k j) then m.tries left (k + 1) else (k, true)

/-- A factorisation with up to four shifts. -/
def SlvMat.factor (m : SlvMat) : SlvFac :=
  let t := m.tries 4 0
  { shifts := t.1, d1 := m.d1, fail := t.2,
    pivot := match m.stop 0 with | some j => if f64Finite (m.piv 0 j) then j else 0xFFFFFFFF | none => 0xFFFFFFFF }

/-- max|k_ii| of classes 0 to 2 from the values; of the formed matrices of classes 4 and 5, and the largest column norm of class 3,
as the solver's sums give it. -/
def SlvSlot.scale (x : SlvSlot) (r : SlvRun) : Nat :=
  if x.cls ≤ 2 then (List.range x.n).foldl (fun a i => f64Max a (f64Abs (x.val 0 i i))) 0
  else Config.facScale (r.key ++ r.pt) % 2 ^ 64

/-- The factorisation that a run stands in, its column in the original order. -/
def State.slvFac (s : State) (r : SlvRun) : SlvFac :=
  let n := r.req.slot
  let x := s.sslot n
  let k := x.scale r
  let m : SlvMat :=
    { cls := x.cls, n := x.n, tol := pow2neg (s.rd (SLV_SLOT_CFG_PIV_EXP n)), scale := k,
      d1 := f64Mul (pow2neg (s.rd (SLV_SLOT_CFG_SHIFT_EXP n))) (if x.cls = 3 then f64Mul k k else k), key := r.key ++ r.pt }
  let f := m.factor
  { f with pivot := if x.perm.isEmpty then f.pivot else x.perm.getD f.pivot f.pivot }

/-- A run with k shift attempts of a factorisation. -/
def SlvRun.factor (r : SlvRun) (f : SlvFac) (k : Nat) : SlvRun :=
  let k := min k f.shifts
  if k = 0 then r
  else { r with reg := true, shifts := r.shifts + k, pivot := if r.pivot = 0xFFFFFFFF then f.pivot else r.pivot, delta := slvShift f.d1 k }

/-! #### The starting point of class 5 (R163) -/

/-- Slack and dual of the lower side, then of the upper, of a row or bound; a side at infinity is not there. -/
def qpCold (lo hi : Nat) : List Nat :=
  let l := if f64Finite lo then f64One else 0
  let h := if f64Finite hi then f64One else 0
  [l, l, h, h]

/-- The same from a stored dual y at value v, raised to a floor. -/
def qpWarm (fl lo hi v y : Nat) : List Nat :=
  let side := fun (b : Nat) (sl du : Nat) => if f64Finite b then [f64Max fl sl, f64Max fl du] else [0, 0]
  side lo (f64Sub v lo) (f64Neg y) ++ side hi (f64Sub hi v) y

/-- A row that is an equality has one dual of either sign. -/
def SlvSlot.eqRow (x : SlvSlot) (k : Nat) : Bool := x.val 3 k 0 = x.val 4 k 0 && f64Finite (x.val 3 k 0)

/-- x projected into its bounds. -/
def SlvSlot.project (x : SlvSlot) (v : List Nat) : List Nat :=
  (List.range x.n).map fun i => f64Max (x.val 5 i 0) (f64Min (x.val 6 i 0) (v.getD i 0))

/-- A row of A times x. -/
def SlvSlot.rowAt (x : SlvSlot) (k : Nat) (v : List Nat) : Nat :=
  Config.qpRow ((List.range x.n).map fun i => (x.val 1 k i, v.getD i 0)) % 2 ^ 64

/-- The iterate that a cold solve starts from. -/
def SlvSlot.coldPt (x : SlvSlot) : List Nat :=
  x.project [] ++
  ((List.range x.m).flatMap fun k => if x.eqRow k then [0, 0, 0, f64One] else qpCold (x.val 3 k 0) (x.val 4 k 0)) ++
  ((List.range x.n).flatMap fun i => qpCold (x.val 5 i 0) (x.val 6 i 0))

/-- The iterate that a warm solve starts from, `sol` being x, y and z. -/
def SlvSlot.warmPt (x : SlvSlot) (fl : Nat) (sol : List Nat) : List Nat :=
  let v := x.project (sol.take x.n)
  v ++
  ((List.range x.m).flatMap fun k =>
    let y := sol.getD (x.n + k) 0
    if x.eqRow k then [0, 0, 0, y] else qpWarm fl (x.val 3 k 0) (x.val 4 k 0) (x.rowAt k v) y) ++
  ((List.range x.n).flatMap fun i =>
    qpWarm fl (x.val 5 i 0) (x.val 6 i 0) (v.getD i 0) (sol.getD (x.n + x.m + i) 0))

/-- The elements of an iterate that are there. -/
def SlvSlot.ptMask (x : SlvSlot) : List Bool :=
  List.replicate x.n true ++
  ((List.range x.m).flatMap fun k =>
    if x.eqRow k then [false, false, false, true]
    else [f64Finite (x.val 3 k 0), f64Finite (x.val 3 k 0), f64Finite (x.val 4 k 0), f64Finite (x.val 4 k 0)]) ++
  ((List.range x.n).flatMap fun i =>
    [f64Finite (x.val 5 i 0), f64Finite (x.val 5 i 0), f64Finite (x.val 6 i 0), f64Finite (x.val 6 i 0)])

/-- The iterate after one iteration, its factorisation's shift being the run's. -/
def SlvSlot.nextPt (x : SlvSlot) (r : SlvRun) (delta : Nat) : List Nat :=
  x.ptMask.zipIdx.map fun e => if e.1 then Config.qpStep (delta :: r.key) r.pt e.2 % 2 ^ 64 else 0

/-- What a solve's numbers depend on: class, sizes, DAMP in classes 3 and 4, pattern, values, and the exponents of its slot. -/
def State.slvKey (s : State) (q : SlvReq) : List Nat :=
  let x := s.sslot q.slot
  [x.cls, x.n, x.m, if x.cls = 3 || x.cls = 4 then q.damp else 0, s.rd (SLV_SLOT_CFG_PIV_EXP q.slot)] ++ x.perm ++
    (x.pat.flatMap fun e => [e.1, e.2]) ++ (x.vals.flatMap fun e => [e.1, e.2])

/-- A run that starts on its slot's values (R163). -/
def State.slvBegin (s : State) (r : SlvRun) : SlvRun :=
  let q := r.req
  let x := s.sslot q.slot
  let key := s.slvKey q
  if x.cls ≠ 5 then { r with staging := none, key := key }
  else
    let ss := s.rd (SLV_SLOT_SIG_SOL_SIG q.wsSlot)
    let eq : Bool := q.wsEn && ss ≠ 0 && ss = s.rd (SLV_SLOT_SIG_SIG q.slot)
    let fl := pow2neg (s.rd (SLV_SLOT_CFG_PUSH_EXP q.slot))
    let pt := if eq then x.warmPt fl ((s.sslot q.wsSlot).sol.getD []) else x.coldPt
    { r with
      staging := none, iter := 1, cold := q.wsEn && !eq, mism := q.wsEn && ss ≠ 0 && !eq, key := key, pt := pt,
      mu0 := Config.qpMu key pt % 2 ^ 64, resPs := [Config.qpResP key pt % 2 ^ 64] }

/-! #### Phases and deadlines (R165, R166) -/

/-- The guard test before an iteration (R166): now + GUARD × t(i − 1) is later than the deadline. -/
def State.slvGuard (s : State) (r : SlvRun) : Bool := 16 * r.req.deadline < 16 * s.now + s.rd SLV_CTRL_GUARD * r.dur

/-- An iteration about to start: it starts, or the solve ends on its guard. -/
def State.slvGo (s : State) (r : SlvRun) : State :=
  if s.slvGuard r then (s.slvEndIter { r with guard := true } 0x21 (r.iter - 1) false).slvFree r.req.slot
  else (s.modSlv fun v => { v with run := some { r with wait := false } }).slvShow

/-- SLV_SOLVE (R156, R159 to R163): the chosen request, a SOLVE, starts: its input is read and checked into the staging copy. On a
slot that has been emptied it is refused. A preempted solve that is chosen resumes. -/
def execSlvSolve (s : State) : Out :=
  done (whenLive s fun s =>
    if s.slvOn && s.slv.run.isNone then
      match s.slvNext with
      | some q =>
        match s.slv.paused.find? (·.req = q) with
        | some r =>
          let s := s.modSlv fun v => { v with run := some r, paused := v.paused.erase r }
          if r.wait then s.slvGo r else s.slvShow
        | none =>
          if q.op ≠ 0 then s
          else
            let s := s.modSlv fun v => { v with queue := v.queue.erase q }
            let x := s.sslot q.slot
            if s.sst q.slot < 2 then (s.slvPost q { outcome := 3 }).slvShow
            else if s.slvDue q then ((s.slvEndPrior (SlvRun.start q []) 0x22).draw.slvLeave q.slot).slvShow
            else
              let len := if x.feed then 8 * q.inCount else 16 * q.inCount
              match (if len = 0 then (s, some []) else s.loadBytes q.inAddr len false) with
              | (s, none) => (((s.slvEndPrior (SlvRun.start q []) 2).slvEmpty q.slot).draw).slvShow
              | (s, some b) =>
                match if x.feed then slvAssemble x b else slvChanges x b q.inCount with
                | none => ((s.slvPost q { outcome := 5 }).slvLeave q.slot).slvShow
                | some v => (s.modSlv fun w => { w with run := some (SlvRun.start q v) }).slvShow
      | none => s
    else s)

/-- The solve's end by its deadline (R166): in phase S of iteration i ≥ 2, or before it starts, the iterate before it; else the prior
solution. -/
def State.slvDead (s : State) (r : SlvRun) (phaseS : Bool) : State :=
  if (phaseS || r.wait) && 2 ≤ r.iter && r.staging.isNone then s.slvEndIter r 0x21 (r.iter - 1) true
  else s.slvEndPrior r 0x22

/-- What reading a slot's data found (R172): 0 nothing, 1 a corrected symbol, 2 an uncorrectable word, which ends the solve and
empties the slot; else what follows. -/
def State.slvData (s : State) (r : SlvRun) (pip : Fin 3) (f : State → State) : State :=
  if pip = 2 then (((s.errLog SLV_ERR_PIP_UNCORR r.req.slot).slvEndPrior r 2).slvEmpty r.req.slot).slvFree r.req.slot
  else f (if pip = 1 then s.errLog SLV_ERR_PIP_CORR r.req.slot else s)

/-- SLV_SETUP_COMPLETE (R161, R163): the staging copy replaces the slot's values; warm or cold start. -/
def execSlvSetupComplete (pip : Fin 3) (s : State) : Out :=
  done (whenLive s fun s =>
    match s.slv.run with
    | some r =>
      match r.staging with
      | some v =>
        if s.slvDue r.req then (s.slvDead r false).slvFree r.req.slot
        else s.slvData r pip fun s =>
          let s := s.modSslot r.req.slot fun x => { x with vals := v }
          (s.modSlv fun w => { w with run := some (s.slvBegin r) }).slvPreempt
      | none => s
    | none => s)

/-- The outcome of the tests on an iterate (R165), if it ends the solve. -/
def State.slvTest (s : State) (r : SlvRun) : Option Nat :=
  let q := r.req
  let eps := fun (f : Fld) => pow2neg (s.rd f)
  let g := (s.sslot q.slot).gaps r
  let fx := eps (SLV_SLOT_CFG_FEAS_EXP q.slot)
  let mu := Config.qpMu r.key r.pt % 2 ^ 64
  let stall := r.resPs.length = 6 && f64Lt (r.resPs.getD 5 0) (f64Mul (f64Of 2) g.2.1)
  if f64Le g.1 (eps (SLV_SLOT_CFG_GAP_EXP q.slot)) && f64Le g.2.1 fx && f64Le g.2.2 fx then some 0
  else if f64Lt mu (f64Mul (eps (SLV_SLOT_CFG_GAP_EXP q.slot)) r.mu0) && stall then some 0x25
  else if s.rd (SLV_SLOT_CFG_MAX_ITER q.slot) ≤ r.iter then some 0x26
  else none

/-- SLV_ITERATION_COMPLETE (R164 to R167): an interior-point iteration of `dur` ns has ended. -/
def execSlvIterationComplete (dur : Nat) (pip : Fin 3) (s : State) : Out :=
  done (whenLive s fun s =>
    match s.slv.run with
    | some r =>
      if r.staging.isSome || r.iter = 0 then s
      else s.slvData r pip fun s =>
        let q := r.req
        let f := s.slvFac r
        let r1 := r.factor f f.shifts
        if f.fail then (s.slvEndPrior r1 0x24).slvFree q.slot
        else if s.slvDue q then (s.slvDead r1 true).slvFree q.slot
        else
          let pt := (s.sslot q.slot).nextPt r (slvShift f.d1 f.shifts)
          let r1 := { r1 with pt := pt, resPs := (Config.qpResP r.key pt % 2 ^ 64 :: r.resPs).take 6, dur := dur }
          match s.slvTest r1 with
          | some o => (s.slvEndIter r1 o r1.iter false).slvFree q.slot
          | none =>
            let r1 := { r1 with iter := r1.iter + 1, wait := true }
            let s := (s.modSlv fun v => { v with run := some r1 }).slvPreempt
            if s.slv.run.isSome then s.slvGo r1 else s
    | none => s)

/-- SLV_SOLVE_COMPLETE (R164, R167, R168): a solve of classes 0 to 4 has ended. -/
def execSlvSolveComplete (pip : Fin 3) (s : State) : Out :=
  done (whenLive s fun s =>
    match s.slv.run with
    | some r =>
      if r.staging.isSome || r.iter ≠ 0 then s
      else s.slvData r pip fun s =>
        let q := r.req
        let f := s.slvFac r
        let r := r.factor f f.shifts
        if f.fail then (s.slvEndPrior r 0x24).slvFree q.slot
        else if s.slvDue q then (s.slvDead r true).slvFree q.slot
        else (s.slvEndIter r 0 0 false).slvFree q.slot
    | none => s)

/-- A run cut short by its deadline, with the shifts of the factorisation that it stood in: in phase S all of them, else as many as
had begun. -/
def State.slvCut (s : State) (r : SlvRun) (phaseS : Bool) (begun : Nat) : SlvRun :=
  if r.staging.isSome || r.wait then r
  else
    let f := s.slvFac r
    r.factor f (if phaseS then f.shifts else begun)

/-- SLV_DEADLINE (R166): the deadline of request `num` has come; `phaseS` says that its solve stands in phase S, or in the
triangular solves, and `begun` how many shifted attempts it has begun where it does not. -/
def execSlvDeadline (num : Nat) (phaseS : Bool) (begun : Fin 5) (s : State) : Out :=
  done (whenLive s fun s =>
    let mine := fun (r : SlvRun) => r.req.num = num && s.slvDue r.req
    match s.slv.run.filter mine, s.slv.paused.find? mine, s.slv.queue.find? (fun q => q.num = num && q.op = 0 && s.slvDue q) with
    | some r, _, _ => (s.slvDead (s.slvCut r phaseS begun) phaseS).slvFree r.req.slot
    | none, some r, _ =>
      (((s.slvDead (s.slvCut r phaseS begun) phaseS).modSlv fun v => { v with paused := v.paused.erase r }).draw.slvLeave
        r.req.slot).slvShow
    | none, none, some q =>
      let s := s.modSlv fun v => { v with queue := v.queue.erase q }
      ((s.slvEndPrior (SlvRun.start q []) 0x22).draw.slvLeave q.slot).slvShow
    | none, none, none => s)

/-- R172: after a takeover the ring is empty and the slots READY. -/
def State.slvTakeover (s : State) : State :=
  let s := s.modSlv fun v => { v with queue := [], run := none, paused := [], loads := [] }
  let s := (List.range 16).foldl (fun s n => if s.sst n = 3 || s.sst n = 1 then s.wr (SLV_SLOT_STAT_STATE n) 2 else s) s
  (s.wr SLV_RING_PTR_HEAD (s.rd SLV_RING_PTR_TAIL)).slvShow

/-- A write to a register of the block (R162, R173): refusals of state before those of range (R307). -/
def State.writeSlv (s : State) (l : RegLoc) (v : Nat) : State × WRes :=
  let st := (s.set1 SLV_ERR_CFG_REJ, WRes.state)
  let open' := s.slvFlight + s.ringLen ≠ 0
  if l.row.name = "SLV_CTRL" && !bit v 0 && open' then st
  else if l.row.name = "SLV_RING_BASE" && open' then st
  else if l.row.name = "SLV_SLOT_CFG" && (s.sst l.n = 1 || s.sst l.n = 3) then st
  else if !l.inRange v || (l.row.name = "SLV_RING_BASE" && v % 64 ≠ 0) then (s.set1 SLV_ERR_CFG_REJ, .range)
  else if l.row.name = "SLV_RING_PTR" then s.slvSubmit (bits v 8 5)
  else if l.row.name = "SLV_CTRL" then ((s.wrReg l v).slvTakeAll, .ok)
  else (s.wrReg l v, .ok)

end Sys2Proof.Machine
end

