-- ==== Sys2Proof/Machine/Hlm.lean ====
section
/-!
DEFINITION. Machine/Hlm.lean: the helm allocation (chapter 8): prediction, reference model and demand, the joint problem,
its result, commands, modes and class, in exact fractions. The conventions that the chapter leaves open are in
notes/assumptions/22.md.
-/
namespace Sys2Proof.Machine

def State.modHlm (s : State) (f : HlmState → HlmState) : State := { s with hlm := f s.hlm }
def State.hthr (s : State) (i : Nat) : HlmThr := s.hlm.thrs.getD i HlmThr.init
def State.hstr (s : State) (k : Nat) : HlmStr := s.hlm.strs.getD k HlmStr.init

/-- The helm domain's coordinator unit that holds TOKEN, half 1 in a Domino pair, with RUN = 1 (R17, R21). -/
def State.hlmOn (s : State) : Bool :=
  s.on HLM_CTRL_RUN && s.engineRole && s.holds && !s.half2 && (!s.zfb.helmEn || s.zfb.helmDom = s.rd ZFB_ID_DOMAIN)

/-- T_h in ns, and in s. -/
def State.hlmT (s : State) : Nat := (s.rd HLM_TIME_CFG_HDIV + 1) * s.fusT
def State.hlmTs (s : State) : Rat := (s.hlmT : Rat) / 1000000000

/-! ### Fusion output (R151) -/

/-- Element e of word w of FUS_OUT as a number; its VALID flags; AVAIL of a group. -/
def State.fusNum (s : State) (w e : Nat) : Rat :=
  f64Val (s.rd (FUS_OUT_W (8 * w + 2 * e)) + s.rd (FUS_OUT_W (8 * w + 2 * e + 1)) <<< 32)
def State.fusFlag (s : State) (k : Nat) : Bool := bit (s.rd (FUS_OUT_W 4)) k
def State.fusAvail (s : State) (g : Nat) : Nat :=
  match g with
  | 0 => bits (s.rd (FUS_OUT_W 4)) 24 8
  | 1 => bits (s.rd (FUS_OUT_W 5)) 8 8
  | 2 => bits (s.rd (FUS_OUT_W 5)) 24 8
  | 3 => bits (s.rd (FUS_OUT_W 6)) 8 8
  | _ => match s.fus.hist with | h :: _ => h.ns.getD 4 0 | [] => 0

/-- The vessel state of the output, and its bias in kN and kN·m. -/
def State.fusMotion (s : State) : Motion :=
  { n := s.fusNum 1 0, e := s.fusNum 1 1, h := s.fusNum 1 2, u := s.fusNum 1 3, v := s.fusNum 2 0, r := s.fusNum 2 1 }
def State.fusBias (s : State) : Triple :=
  { x := s.fusNum 2 2 / 1000, y := s.fusNum 2 3 / 1000, n := s.fusNum 3 0 / 1000 }

/-- The state predicted from `t0` to `t1` (R182): the pieces between publications in turn. -/
def State.predict (s : State) (t0 t1 : Int) : Motion :=
  ((s.forceCuts t0 t1).foldl (fun (a : Int × Motion) t =>
    (t, s.plant.carry ((s.forceAt a.1).add s.fusBias) (t - a.1).toNat a.2)) (t0, s.fusMotion)).2

/-! ### Reference model and demand (R181, R183) -/

/-- A vector held to a length. -/
def limitLen (l : Rat) (t : Triple) : Triple :=
  let d := realSqrt (t.x * t.x + t.y * t.y)
  if d ≤ l then t else { t with x := t.x * l / d, y := t.y * l / d }

/-- The largest speed from which a stop within d m is still possible at acceleration a, steps of t s apart. -/
def brakeSpeed (a t d : Rat) : Rat := realSqrt (a * t * (a * t) + 2 * a * d) - a * t

/-- The reference moved toward the target for one helm period (R181): its velocity changes by at most MOVE_A and is led to a speed of
at most MOVE_V along the line to the target; its turn rate lies between the present one, rest and the turn still to be made, within
MOVE_R. On entry it stays as it was set. -/
def State.refStep (s : State) : State :=
  if s.hlm.entry then s.modHlm fun m => { m with entry := false }
  else
    let t := s.hlmTs
    let r := s.hlm.ref; let g := s.hlm.tgt
    let to' : Triple := { x := g.x - r.n, y := g.y - r.e, n := 0 }
    let d := realSqrt (to'.x * to'.x + to'.y * to'.y)
    let vmax : Rat := (s.rd HLM_MOVE_CFG_MOVE_V : Nat) / 100
    let acc : Rat := (s.rd HLM_MOVE_CFG_MOVE_A : Nat) / 1000
    let rmax : Rat := degRad ((s.rd HLM_MOVE_CFG_MOVE_R : Nat) / 100)
    let key := [r.n, r.e, r.h, r.u, r.v, r.r, g.x, g.y, g.n, vmax, acc, rmax, t]
    let sp := clampQ 0 (min vmax (brakeSpeed acc t d)) (Config.refSpeed key)
    let v0 := rot r.h { x := r.u, y := r.v, n := 0 }
    let want := if d ≤ 0 then Triple.zero else to'.scale (sp / d)
    let v1 := v0.add (limitLen (acc * t) (want.sub v0))
    let lim := clampQ (-rmax) rmax (wrapPi (g.n - r.h) / t)
    let w := clampQ (min 0 (min r.r lim)) (max 0 (max r.r lim)) (Config.refTurn key)
    let h := wrapPi (r.h + w * t)
    let vel := { rotT h v1 with n := w }
    let dv := rotT h (v1.sub v0)
    s.modHlm fun m => { m with
      ref := Motion.of { x := r.n + v1.x * t, y := r.e + v1.y * t, n := h } vel
      aRef := { x := dv.x / t, y := dv.y / t, n := (w - r.r) / t } }

/-- Reference and target set to the predicted state (R181). -/
def State.refEnter (s : State) (keepHdg : Bool) : State :=
  s.modHlm fun m => { m with ref := m.pred, aRef := Triple.zero, entry := true, rel := false,
                             tgt := { x := m.pred.n, y := m.pred.e, n := if keepHdg then m.tgt.n else m.pred.h } }

/-- The wind force in kN and kN·m. -/
def State.windForce (s : State) : Triple :=
  let v := s.fusNum 4 3
  let g := s.fusNum 5 0 - s.fusNum 1 2
  let k : Rat := -(1225 : Rat) / 2000 * v * v / 1000
  let a := s.plant.area
  { x := k * a.getD 0 0 * realCos g, y := k * a.getD 1 0 * realSin g, n := k * a.getD 2 0 * realSin (2 * g) }

/-- τ_w and its mean for this cycle: with WIND_VALID = 0 the term is 0 and the mean holds. -/
def State.windTerm (s : State) : State × Triple :=
  if s.fusFlag 3 then
    let w := s.windForce
    let k := 1 - realExp (-s.hlmTs / 60)
    let m := s.hlm.windM.add ((w.sub s.hlm.windM).scale k)
    (s.modHlm fun h => { h with windM := m }, w.sub m)
  else (s, Triple.zero)

/-- kp and kd of axis a. -/
def State.gains (s : State) (a : Nat) : Rat × Rat :=
  let i := match a with | 0 => 0 | 1 => 1 | _ => 3
  let w := 2 * realPi / ((s.rd (HLM_GAIN_TN a) : Nat) : Rat)
  let m := s.plant.mass.getD i 0
  (m * w * w, max 0 (2 * (((s.rd (HLM_GAIN_ZETA a) : Nat) : Rat) / 100) * w * m - s.plant.damp.getD i 0))

/-- The demand of the control law (R183). -/
def State.lawDemand (s : State) (wind : Triple) : Triple :=
  let p := s.hlm.pred
  let d := s.hlm.ref.pos.sub p.pos
  let e := rotT p.h { d with n := wrapPi d.n }
  let v := s.hlm.ref.vel.sub p.vel
  let k := fun a => s.gains a
  let pd : Triple := { x := (k 0).1 * e.x + (k 0).2 * v.x, y := (k 1).1 * e.y + (k 1).2 * v.y, n := (k 2).1 * e.n + (k 2).2 * v.n }
  (((matMul s.plant.mass s.hlm.aRef).add pd).sub s.fusBias).sub (wind.scale (((s.rd HLM_CTRL_WFF : Nat) : Rat) / 128))

/-- The joystick's demand, with what is forced to 0 (R183, R200). -/
def State.joyDemand (s : State) : Triple :=
  { x := if s.hlm.joyXY then 0 else sI (s.rd HLM_JOY_X) 16 / 10, y := if s.hlm.joyXY then 0 else sI (s.rd HLM_JOY_Y) 16 / 10,
    n := if s.hlm.joyN then 0 else sI (s.rd HLM_JOY_N) 32 }

/-- Feedback of thruster i as its cycle took it (R176): azimuth in 0.01° and in rad, thrust in kN. -/
def State.azFb (s : State) (i : Nat) : Nat := s.hlm.inp.az.getD i 0
def azRad (a : Rat) : Rat := a * realPi / 18000
def State.thrFb (s : State) (i : Nat) : Rat := sI (s.hlm.inp.thrust.getD i 0) 16 / 10

/-- Force components at the reported thrust (OFF, R200). -/
def State.fbForce (s : State) (i : Nat) : Rat × Rat :=
  if (s.plant.thr i).typ = 2 then
    (s.thrFb i * realCos (azRad (s.azFb i : Nat)), s.thrFb i * realSin (azRad (s.azFb i : Nat)))
  else (s.thrFb i, 0)

/-- The generalised force of a set of thruster components. -/
def Plant.total (p : Plant) (f : Nat → Rat × Rat) : Triple :=
  (List.range p.thrs.length).foldl (fun t i =>
    ((p.force i).zip [(f i).1, (f i).2]).foldl (fun (t : Triple) c =>
      t.add { x := c.1.2.1 * c.2, y := c.1.2.2.1 * c.2, n := c.1.2.2.2 * c.2 }) t) Triple.zero

/-! ### Modes and class (R200, R201) -/

def State.hmode (s : State) : Nat := s.rd HLM_STATUS_MODE

/-- An alarm flag that rises is entered in the fault log. -/
def State.hAlarm (s : State) (f : Fld) : State := if s.on f then s else s.alarmLog f 0 0

/-- The mode entered, its change logged. -/
def State.setMode (s : State) (m : Nat) : State := s.wrState HLM_STATUS_MODE 0 0 m

/-- Whether a transition is listed, and its condition met (R200). -/
def State.modeOk (s : State) (m : Nat) : Bool :=
  let hdg := s.fusFlag 1; let pos := s.fusFlag 0; let tgt := s.fusFlag 4
  match m with
  | 0 => true
  | 1 => true
  | 2 => s.hmode = 2 || hdg
  | 3 => s.hmode = 3 || (2 ≤ s.hmode && pos && hdg) || (s.hmode = 1 && pos && hdg)
  | 4 => s.hmode = 4 || (s.hmode = 3 && tgt)
  | _ => false

/-- A mode request (R200): held for the next control instant, or refused. -/
def State.modeRequest (s : State) (m : Nat) : State × Bool :=
  if s.modeOk m then (s.modHlm fun h => { h with modeReq := if m = s.hmode then h.modeReq else some m }, true)
  else ((s.set1 HLM_ERR_CMD_REJ).modHlm fun h => { h with rejCnt := h.rejCnt + 1 }, false)

/-- redund_cap of R201 is 3: the partner is STANDBY and SYNCED, its heartbeat present (R283, R292). -/
def State.redundant (s : State) : Bool :=
  s.prd.mlUp && s.on PRD_STATUS_PART_HB_OK && (match s.prd.partML with | some b => b.role = .standby && b.third | none => false)

/-- CLASS and REDUND brought up to date; a change of class is logged. -/
def State.updClass (s : State) : State :=
  let cap := if s.redundant then 3 else 1
  let c := min (s.rd HLM_CTRL_MAX_CLASS) cap - s.rd HLM_STATUS_LOWERED
  (s.wrB HLM_STATUS_REDUND s.redundant).wrState HLM_STATUS_CLASS 1 0 c

/-- LOWERED rises by n (R201); a lowered class ends every grant of rest (R199). -/
def State.lower (s : State) (n : Nat) : State :=
  if n = 0 then s
  else (((s.satAdd HLM_STATUS_LOWERED n).hAlarm HLM_ALARM_CLASS_LOW).modHlm fun h =>
    { h with strs := h.strs.map fun x => { x with grant := none } }).updClass

/-- A RESTORE request (R201). -/
def State.hlmRestore (s : State) : State × Bool :=
  if s.fus.groups.any (·.contra) || s.on HLM_ALARM_ALLOC_FAIL then
    ((s.set1 HLM_ERR_CMD_REJ).modHlm fun h => { h with rejCnt := h.rejCnt + 1 }, false)
  else ((s.wr HLM_STATUS_LOWERED 0).updClass, true)

/-- The offset from the designated track (R200). -/
def State.enterFollow (s : State) : State :=
  s.modHlm fun m => { m with rel := true, offN := m.pred.n - s.fusNum 5 1, offE := m.pred.e - s.fusNum 5 2 }

/-- Entry to a mode by request, with its action. -/
def State.enterMode (s : State) (m : Nat) : State :=
  let old := s.hmode
  let s := s.setMode m
  match m with
  | 2 => s.refEnter (3 ≤ old)
  | 3 => s.refEnter false
  | 4 => s.enterFollow
  | _ => s

/-- The validity tests of a control instant, in their order (R200). -/
def State.validity (s : State) : State :=
  let s := if !s.fusFlag 1 && 2 ≤ s.hmode then
      ((s.setMode 1).modHlm fun h => { h with joyN := true }).hAlarm HLM_ALARM_HDG_LOST else s
  let s := if !s.fusFlag 0 && 3 ≤ s.hmode then
      (((s.setMode 2).refEnter false).modHlm fun h => { h with joyXY := true }).hAlarm HLM_ALARM_POS_LOST else s
  if !s.fusFlag 4 && s.hmode = 4 then ((s.setMode 3).refEnter false).hAlarm HLM_ALARM_TGT_LOST else s

/-- The waiting mode request at its control instant. -/
def State.takeMode (s : State) : State :=
  match s.hlm.modeReq with
  | none => s
  | some m =>
    let s := s.modHlm fun h => { h with modeReq := none }
    if m = s.hmode then s
    else if s.modeOk m then s.enterMode m
    else (s.set1 HLM_ERR_CMD_REJ).modHlm fun h => { h with rejCnt := h.rejCnt + 1 }

/-- A written set-point taken in the modes that use it (R202), and the target that follows a track. -/
def State.takeTarget (s : State) : State :=
  let s := if s.hlm.spNew && 3 ≤ s.hmode then
      let n := sI (s.rd HLM_SP_NORTH) 32 / 1000; let e := sI (s.rd HLM_SP_EAST) 32 / 1000
      let h := wrapPi (((s.rd HLM_SP_HDG : Nat) : Rat) / 1000 * realPi / 180)
      let rel := s.on HLM_SP_REL
      s.modHlm fun m => { m with spNew := false, rel := rel, offN := n, offE := e,
                                 tgt := if rel then { m.tgt with n := h } else { x := n, y := e, n := h } }
    else s
  if 3 ≤ s.hmode && s.hlm.rel then
    s.modHlm fun m => { m with tgt := { m.tgt with x := s.fusNum 5 1 + m.offN, y := s.fusNum 5 2 + m.offE } }
  else s

/-- New contradictions lower the class (R201): a COAST bit that rises while two or more references are available. -/
def State.contradictions (s : State) : State :=
  let now := bits (s.rd (FUS_OUT_W 4)) 5 5
  let n := ([0, 1, 2, 4].filter fun g => bit now g && !bit s.hlm.coast g && 2 ≤ s.fusAvail g).length
  (s.modHlm fun h => { h with coast := now }).lower n

/-! ### String limits and rest (R192, R193, R199) -/

/-- The segment SLOTs of a string. -/
def PStr.slots (x : PStr) : List Nat := (List.range x.nMod).map (x.first + ·)

/-- Limits in kW from the headers of a string's payloads: discharge and charge. -/
def strLimits (x : PStr) (hs : List Nat) : Rat × Rat :=
  let side := fun (iLo pLo : Nat) =>
    let is := hs.map fun h => bits h iLo 16
    let im := is.foldl min 65535
    if is.any (· = 0) then (0 : Rat)
    else min x.conv (hs.foldl (fun (a : Rat) h =>
      a + ((bits h pLo 16 : Nat) : Rat) / 100 * (im : Rat) / ((bits h iLo 16 : Nat) : Rat)) 0)
  (side 80 112, side 64 96)

/-- A string's limits for this cycle; `rep` is what a REMOTE string's domain has reported. -/
def State.strCycle (s : State) (k : Nat) (rep : Option (Rat × Rat)) : State :=
  let x := s.plant.str k
  let h := s.hstr k
  let put := fun (s : State) (h : HlmStr) => s.modHlm fun m => { m with strs := modAt m.strs k fun _ => h }
  if x.remote then
    match rep with
    | some r => put s { h with dis := min x.conv r.1, chg := min x.conv r.2, ids := [0], stale := 0 }
    | none => put (if h.ids.isEmpty then s else s.set1 HLM_ERR_STR_STALE) { h with stale := min (h.stale + 1) 3 }
  else
    let ps := x.slots.map fun n => aGet n s.hlm.pay
    let ids := ps.map fun q => (q.getD (0, 0)).1
    let fresh := ps.all (·.isSome) && (h.ids.isEmpty || (h.ids.zip ids).all fun e => later32 e.1 e.2)
    if fresh then
      let l := strLimits x (ps.map fun q => (q.getD (0, 0)).2)
      put s { h with dis := l.1, chg := l.2, ids := ids, stale := 0 }
    else put (if h.ids.isEmpty then s else s.set1 HLM_ERR_STR_STALE) { h with stale := min (h.stale + 1) 3 }

/-- Capability of a string (R192, R193): nothing after 2 cycles without complete limits, or for a string not present. -/
def State.strCap (s : State) (k : Nat) : Rat × Rat :=
  let h := s.hstr k
  if !(s.plant.str k).pres || h.ids.isEmpty || 2 < h.stale then (0, 0) else (h.dis, h.chg)

/-- The cell records of a string's modules in the endpoint table that hold a usable value: words 0 and 1. -/
def State.strCells (s : State) (k : Nat) : List (Nat × Nat) :=
  (s.plant.str k).slots.flatMap fun sl => (List.range 48).filterMap fun i =>
    match s.endpointOf sl i with
    | some e =>
      let w0 := s.wordAt (endpointAt e); let w1 := s.wordAt (endpointAt e + 32)
      if bits w0 26 4 = 1 then some (w0, w1) else none
    | none => none

/-- Summed cell voltage of a string in V (R199), and the mean SOC of its cells in % (R191). -/
def State.strVolt (s : State) (k : Nat) : Rat :=
  (s.strCells k).foldl (fun (a : Rat) c => a + if bit c.1 96 then 0 else sI (bits c.1 64 32) 32 / 2 ^ 24) 0
def State.strSoc (s : State) (k : Nat) : Rat :=
  let l := (s.strCells k).filter fun c => !bit c.2 119
  if l.isEmpty then 0 else (l.foldl (fun (a : Rat) c => a + ((bits c.2 0 16 : Nat) : Rat) / 100) 0) / (l.length : Rat)

/-- The band within which a string rests, in kW, as the cycle took it. -/
def State.restBand (s : State) (k : Nat) : Rat := s.hlm.inp.bands.getD k 0

/-- The rest a string requests: the largest REST_T of its modules in s. -/
def State.restAsk (s : State) (k : Nat) : Nat :=
  let x := s.plant.str k
  if x.remote || !x.pres then 0
  else x.slots.foldl (fun a n => max a (match aGet n s.hlm.pay with | some q => bits q.2 128 16 | none => 0)) 0

/-- What the cycle takes of the registers (R176). -/
def State.takeInputs (s : State) : State :=
  s.modHlm fun h => { h with inp :=
    { avail := s.rd HLM_PLANT_IN_THR_AVAIL, gens := s.rd HLM_PLANT_IN_GEN_ONLINE, ties := s.rd HLM_PLANT_IN_TIE_CLOSED,
      az := (List.range 32).map fun i => s.rd (HLM_AZ_FB_AZ i), thrust := (List.range 32).map fun i => s.rd (HLM_AZ_FB_THRUST i),
      bands := (List.range s.plant.strs.length).map fun k => s.strVolt k * (((s.rd HLM_REST_CFG_I_REST : Nat) : Rat) / 10) / 1000 } }

/-- Total string power of the previous solution in kW. -/
def State.pBat (s : State) : Rat := s.hlm.strs.foldl (fun (a : Rat) x => a + x.p) 0

def State.restN (s : State) : Nat := (s.hlm.strs.filter fun x => x.grant.isSome).length

/-- Grants that run: time counts within the band; a grant whose rest is complete is released. -/
def State.restRun (s : State) : State :=
  (List.range s.plant.strs.length).foldl (fun s k =>
    match (s.hstr k).grant with
    | some (d, t) =>
      let t := if absQ (s.hstr k).p ≤ s.restBand k then t + s.hlmT else t
      s.modHlm fun m => { m with strs := modAt m.strs k fun x => { x with grant := if d ≤ t then none else some (d, t), wait := 0 } }
    | none => s) s

/-- The longest-waiting request that may be granted, and its grant (R199). -/
def State.grantOne (s : State) : State :=
  let ks := (List.range s.plant.strs.length).filter fun k => 0 < s.restAsk k && (s.hstr k).grant.isNone
  match ks.foldl (fun (b : Option Nat) k => match b with
      | none => some k
      | some j => if (s.hstr j).wait < (s.hstr k).wait then some k else some j) none with
  | none => s
  | some k =>
    let p := s.pBat
    let others := (List.range s.plant.strs.length).foldl (fun (a : Rat) j =>
      if j = k || (s.hstr j).grant.isSome then a else a + (if 0 ≤ p then (s.strCap j).1 else (s.strCap j).2)) 0
    if s.hlm.force0 && s.hlm.bus0 && s.restN < s.rd HLM_REST_CFG_MAX_REST &&
        absQ p * (1 + ((s.rd HLM_REST_CFG_MARGIN : Nat) : Rat) / 100) < others then
      s.modHlm fun m => { m with strs := modAt m.strs k fun x => { x with grant := some (s.restAsk k * 1000000000, 0), wait := 0 } }
    else s

/-- Rest windows of one cycle. -/
def State.restCycle (s : State) : State :=
  let s := s.restRun
  let s := s.modHlm fun m => { m with strs := m.strs.zipIdx.map fun e =>
    { e.1 with wait := if 0 < s.restAsk e.2 && e.1.grant.isNone then e.1.wait + 1 else 0 } }
  let s := if s.on HLM_REST_CFG_EN then (List.range s.plant.strs.length).foldl (fun s _ => s.grantOne) s else s
  s.wr HLM_STATUS_REST_N s.restN

/-! ### The joint problem (R186 to R191) -/

/-- R186. -/
def rateBound (q rate t lo hi : Rat) : Rat × Rat := (clampQ lo hi (q - rate * t), clampQ lo hi (q + rate * t))

/-- Half-widths of the wedge in 0.01°, clockwise and back, each with the zone that sets it (R188). -/
def wedge (t : Thr) (th : Nat) (step : Rat) : (Rat × Option (Nat × Nat)) × (Rat × Option (Nat × Nat)) :=
  let near := fun (dist : Nat × Nat → Nat) =>
    t.zones.foldl (fun (b : Rat × Option (Nat × Nat)) z => if ((dist z : Nat) : Rat) ≤ b.1 then (((dist z : Nat) : Rat), some z) else b) (step, none)
  (near fun z => (z.1 + 36000 - th % 36000) % 36000, near fun z => (th + 36000 - z.2 % 36000) % 36000)

/-- Thruster i may be used (R186). -/
def State.thrAvail (s : State) (i : Nat) : Bool := bit s.hlm.inp.avail i

def State.inTransit (s : State) (i : Nat) : Bool := match s.hlm.transit with | some t => t.thr = i | none => false

/-- ρ_prev of thruster i: along its azimuth, or the previous thrust. -/
def State.rhoPrev (s : State) (i : Nat) : Rat :=
  let h := s.hthr i
  if (s.plant.thr i).typ = 2 then
    let a := azRad (s.azFb i : Nat)
    realCos a * h.a + realSin a * h.b
  else h.a

/-- The radial bounds of an azimuth thruster (R186, R188). -/
def State.radial (s : State) (i : Nat) : Rat × Rat :=
  let t := s.plant.thr i
  if !s.thrAvail i then (0, 0)
  else
    let b := rateBound (s.rhoPrev i) t.rate s.hlmTs 0 t.fwd
    if s.inTransit i then
      let u := clampQ 0 t.fwd (s.rhoPrev i - t.rate * s.hlmTs)
      (min b.1 u, u)
    else b

/-- A thruster in transit that has come to 0 (R188). -/
def State.transitHeld (s : State) (i : Nat) : Bool := s.inTransit i && s.rhoPrev i ≤ 0

/-- Bounds of the variables of thruster i. -/
def State.thrBounds (s : State) (i : Nat) : List (Rat × Rat) :=
  let t := s.plant.thr i
  let z : List (Rat × Rat) := if t.typ = 1 then [(0, 0)] else [(0, 0), (0, 0)]
  if s.hmode = 0 then
    let f := s.fbForce i
    if t.typ = 1 then [(f.1, f.1)] else [(f.1, f.1), (f.2, f.2)]
  else if !s.thrAvail i || s.transitHeld i then z
  else
    match t.typ with
    | 1 => [rateBound (s.hthr i).a t.rate s.hlmTs (-t.rev) t.fwd]
    | 2 => [(-t.fwd, t.fwd), (-t.fwd, t.fwd)]
    | _ => [rateBound (s.hthr i).a t.rate s.hlmTs (-t.rev) t.fwd, (-(t.fwd * t.rud), t.fwd * t.rud)]

/-- The bounds of a string's power, rate and rest included (R186, R192, R199). -/
def State.strBounds (s : State) (k : Nat) : Rat × Rat :=
  let c := s.strCap k
  let x := s.plant.str k
  let p := (s.hstr k).p
  let t := s.hlmTs
  if (s.hstr k).grant.isSome then
    let b := min (s.restBand k) (min c.1 c.2)
    if b < p then (let v := max b (p - x.rate * t); let v := clampQ (-c.2) c.1 v; (v, v))
    else if p < -b then (let v := min (-b) (p + x.rate * t); let v := clampQ (-c.2) c.1 v; (v, v))
    else rateBound p x.rate t (-b) b
  else rateBound p x.rate t (-c.2) c.1

/-- The bounds of a generator set's power. -/
def State.genBounds (s : State) (g : Nat) : Rat × Rat :=
  let x := s.plant.gen g
  if bit s.hlm.inp.gens g then rateBound (s.hlm.gens.getD g 0) x.rate s.hlmTs x.pMin x.pMax else (0, 0)

/-- Bounds of every variable in the order of R185. -/
def State.qpBounds (s : State) : List (Option Rat × Option Rat) :=
  let p := s.plant
  let fin := fun (b : Rat × Rat) => (some b.1, some b.2)
  let thr := fun (t : Nat) => (p.ofType t).flatMap fun i => (s.thrBounds i).map fin
  [(none, none), (none, none), (none, none), (some 0, none)] ++ List.replicate p.nSec (none, none) ++ thr 1 ++ thr 2 ++ thr 3 ++
  ((List.range p.strs.length).flatMap fun k =>
    if p.loss then [fin (0, (s.strCap k).1), fin (0, (s.strCap k).2)] else [fin (s.strBounds k)]) ++
  ((List.range p.gens.length).map fun g => fin (s.genBounds g)) ++
  (p.ties.map fun t => if bit s.hlm.inp.ties t.1 then fin (-t.2.2.2, t.2.2.2) else fin (0, 0))

/-- The offset d from the set-point, and n̂ (R190). -/
def State.watchOff (s : State) : Rat × Triple :=
  let o := s.hlm.pred.pos.sub s.hlm.tgt
  let d := realSqrt (o.x * o.x + o.y * o.y)
  (d, if d ≤ 0 then Triple.zero else { x := o.x / d, y := o.y / d, n := 0 })

def State.watchR (s : State) : Rat := ((s.rd HLM_WATCH_CFG_WATCH_R : Nat) : Rat) / 10

/-- The watch row is active (R190). -/
def State.watchOn (s : State) : Bool :=
  3 ≤ s.hmode && ((s.rd HLM_WATCH_CFG_WATCH_ON : Nat) : Rat) / 100 * s.watchR ≤ s.watchOff.1

/-- n̂ᵀ of the rotated acceleration of a force. -/
def State.watchAcc (s : State) (f : Triple) : Rat :=
  let a := rot s.hlm.pred.h (matInv s.plant.mass f)
  s.watchOff.2.x * a.x + s.watchOff.2.y * a.y

def State.watchRow (s : State) : HlmRow :=
  let w := s.watchOff
  let tw : Rat := (s.rd HLM_WATCH_CFG_T_W : Nat)
  let v := rot s.hlm.pred.h s.hlm.pred.vel
  let rhs := (s.watchR - w.1 - (w.2.x * v.x + w.2.y * v.y) * tw) / (tw * tw / 2) -
    s.watchAcc (s.fusBias.sub (matMul s.plant.damp s.hlm.pred.vel))
  { coef := (s.plant.forces.map fun c => (c.1, s.watchAcc { x := c.2.1, y := c.2.2.1, n := c.2.2.2 })) ++ [(3, -1)],
    lo := none, hi := if s.watchOn then some rhs else none }

/-- Linearised power of thruster i (R189): coefficients, and its constant. -/
def State.thrPower (s : State) (i : Nat) : List (Nat × Rat) × Rat :=
  let t := s.plant.thr i
  let v := s.plant.thrVar i
  let q := s.rhoPrev i
  let r0 := max (absQ q) t.fref
  let k := 3 / 2 * t.kpow * realSqrt r0
  let a := azRad (s.azFb i : Nat)
  (if t.typ = 2 then [(v, k * realCos a), (v + 1, k * realSin a)] else [(v, if q < 0 then -k else k)],
   t.kpow * r0 * realSqrt r0 / 2)

/-- The balance row of section j. -/
def State.busRow (s : State) (j : Nat) : HlmRow :=
  let p := s.plant
  let ths := (List.range p.thrs.length).filter fun i => (p.thr i).sec = j
  let pw := ths.map s.thrPower
  let rhs := ((s.rd (HLM_LOAD_LOAD j) : Nat) : Rat) - pw.foldl (fun (a : Rat) e => a + e.2) 0
  { coef := (((List.range p.strs.length).filter fun k => (p.str k).sec = j).flatMap p.strTerms) ++
      (((List.range p.gens.length).filter fun g => (p.gen g).sec = j).map fun g => (p.genVar g, 1)) ++
      (p.ties.zipIdx.filterMap fun e => if e.1.2.2.1 = j then some (p.tieVar e.2, (1 : Rat)) else if e.1.2.1 = j then some (p.tieVar e.2, -1) else none) ++
      (pw.flatMap fun e => e.1.map fun c => (c.1, -c.2)) ++ [(4 + j, 1)],
    lo := some rhs, hi := some rhs }

/-- The wedge rows of azimuth thruster i; in OFF they bind nothing. -/
def State.wedgeRows (s : State) (i : Nat) : List HlmRow :=
  let t := s.plant.thr i
  let v := s.plant.thrVar i
  let w := wedge t (s.azFb i) ((t.slew : Nat) * s.hlmTs)
  let up := azRad ((s.azFb i : Nat) + w.1.1); let dn := azRad ((s.azFb i : Nat) - w.2.1)
  let lo := if s.hmode = 0 then none else some (0 : Rat)
  [{ coef := [(v, -(realSin dn)), (v + 1, realCos dn)], lo := lo, hi := none },
   { coef := [(v, realSin up), (v + 1, -(realCos up))], lo := lo, hi := none }]

def State.radialRow (s : State) (i : Nat) : HlmRow :=
  let v := s.plant.thrVar i
  let a := azRad (s.azFb i : Nat)
  let b := s.radial i
  { coef := [(v, realCos a), (v + 1, realSin a)],
    lo := if s.hmode = 0 then none else some b.1, hi := if s.hmode = 0 then none else some b.2 }

def State.rudderRows (s : State) (i : Nat) : List HlmRow :=
  let v := s.plant.thrVar i
  let k := (s.plant.thr i).rud
  let hi := if s.hmode = 0 then none else some (0 : Rat)
  [{ coef := [(v + 1, 1), (v, -k)], lo := none, hi := hi }, { coef := [(v + 1, -1), (v, -k)], lo := none, hi := hi }]

/-- Every row in the order of R187. -/
def State.qpRows (s : State) : List HlmRow :=
  let p := s.plant
  let force := fun (a : Nat) (d : Rat) (f : Nat × Rat × Rat × Rat → Rat) =>
    ({ coef := (p.forces.filterMap fun c => if f c ≠ 0 then some (c.1, f c) else none) ++ [(a, 1)], lo := some d, hi := some d } : HlmRow)
  [force 0 s.hlm.dem.x (·.2.1), force 1 s.hlm.dem.y (·.2.2.1), force 2 s.hlm.dem.n (·.2.2.2), s.watchRow] ++
  (List.range p.nSec).map s.busRow ++ (p.ofType 2).flatMap s.wedgeRows ++ (p.ofType 2).map s.radialRow ++
  (p.ofType 3).flatMap s.rudderRows ++
  (if p.loss then (List.range p.strs.length).map fun k =>
    let b := s.strBounds k
    ({ coef := p.strTerms k, lo := some b.1, hi := some b.2 } : HlmRow) else [])

/-- Strings that take part in the sums of R191. -/
def State.sharing (s : State) : List Nat :=
  (List.range s.plant.strs.length).filter fun k => (s.plant.str k).pres && (s.hstr k).grant.isNone

/-- pref of every string (R191). -/
def State.prefs (s : State) : List Rat :=
  let p := s.pBat
  let ks := s.sharing
  let soc := fun k => s.strSoc k
  let mean := if ks.isEmpty then (0 : Rat) else (ks.foldl (fun (a : Rat) k => a + soc k) 0) / (ks.length : Rat)
  let a := fun k => max 0 ((if 0 ≤ p then (s.strCap k).1 else (s.strCap k).2) * (1 + s.plant.w.getD 6 0 * (soc k - mean)))
  let tot := ks.foldl (fun (t : Rat) k => t + a k) 0
  (List.range s.plant.strs.length).map fun k => if ks.contains k && tot ≠ 0 then p * a k / tot else 0

/-- The cost as entries of H and of the gradient (R155, R191). -/
def State.qpCost (s : State) : List ((Nat × Nat) × Rat) × List (Nat × Rat) :=
  let p := s.plant
  let w := fun i => p.w.getD i (0 : Rat)
  let d := fun (i : Nat) (x : Rat) => ((i, i), x)
  let thr := (List.range p.thrs.length).filter s.thrAvail
  let comps := thr.flatMap fun i => ((p.force i).map (·.1)).zip [(s.hthr i).a, (s.hthr i).b]
  let pf := s.prefs
  let ks := s.sharing
  let gs := (List.range p.gens.length).filter fun g => bit s.hlm.inp.gens g
  ([d 0 (2 * w 2), d 1 (2 * w 2), d 2 (2 * w 2 / 100), d 3 (2 * w 4)] ++ ((List.range p.nSec).map fun j => d (4 + j) (2 * w 3)) ++
    (comps.map fun c => d c.1 (2 * (w 0 + w 1))) ++
    (ks.flatMap fun k => if p.loss then [d (p.strVar k) (2 * w 5), d (p.strVar k + 1) (2 * w 5), ((p.strVar k + 1, p.strVar k), -(2 * w 5))]
      else [d (p.strVar k) (2 * w 5)]) ++
    (gs.map fun g => d (p.genVar g) (2 * w 7)) ++ (p.ties.zipIdx.map fun e => d (p.tieVar e.2) (2 * w 8)),
   (comps.map fun c => (c.1, -(2 * w 1 * c.2))) ++
    (ks.flatMap fun k =>
      let q := pf.getD k 0
      if p.loss then [(p.strVar k, w 9 - 2 * w 5 * q), (p.strVar k + 1, w 9 + 2 * w 5 * q)] else [(p.strVar k, -(2 * w 5 * q))]) ++
    (gs.map fun g => (p.genVar g, (p.gen g).c1 - 2 * w 7 * s.hlm.gens.getD g 0)))

/-- The QP of the cycle. -/
def State.formQp (s : State) : HlmQp :=
  let b := s.qpBounds
  let c := s.qpCost
  { lo := b.map (·.1), hi := b.map (·.2), rows := s.qpRows, quad := c.1,
    lin := (List.range s.plant.n).map fun i => c.2.foldl (fun (a : Rat) e => if e.1 = i then a + e.2 else a) 0 }

/-! ### The change list and the request (R159, R194) -/

/-- Helm firmware's buffers: result records, structure block, output, change list. -/
def hlmBuf : Nat := 0x1A400000 + 32 * (Config.helmArea % 2 ^ 20)
def hlmRes : Nat := hlmBuf
def hlmLoadRes : Nat := hlmBuf + 64
def hlmBlock : Nat := hlmBuf + 128
def hlmOutAt : Nat := hlmBuf + 256
def hlmList : Nat := hlmBuf + 0x8000

/-- Coefficients of a QP by key (target, row, column), as binary64 patterns. -/
def HlmQp.coefs (q : HlmQp) : List (Nat × Nat) :=
  (q.quad.map fun e => (valKey 0 e.1.1 e.1.2, f64Of e.2)) ++
  (q.rows.zipIdx.flatMap fun r => r.1.coef.map fun c => (valKey 1 r.2 c.1, f64Of c.2)) ++
  (q.lin.zipIdx.map fun g => (valKey 2 g.2 0, f64Of g.1))

/-- Bounds and right-hand sides by key. -/
def HlmQp.bnds (q : HlmQp) : List (Nat × Nat) :=
  let lo := fun (b : Option Rat) => match b with | some x => f64Of x | none => f64NegInf
  let hi := fun (b : Option Rat) => match b with | some x => f64Of x | none => f64PosInf
  (q.rows.zipIdx.flatMap fun r => [(valKey 3 r.2 0, lo r.1.lo), (valKey 4 r.2 0, hi r.1.hi)]) ++
  (q.lo.zipIdx.map fun b => (valKey 5 b.2 0, lo b.1)) ++ (q.hi.zipIdx.map fun b => (valKey 6 b.2 0, hi b.1))

/-- The change list: every bound and right-hand side, and every coefficient that differs from what was sent last. -/
def HlmQp.changes (q : HlmQp) (sent : List (Nat × Nat)) : List (Nat × Nat) :=
  let c := q.coefs
  q.bnds ++ (c.filter fun e => aGet e.1 sent ≠ some e.2) ++
  (sent.filterMap fun e => if e.2 ≠ 0 && (aGet e.1 c).isNone then some (e.1, 0) else none)

/-- A change record of R159 from its key and value. -/
def changeBytes (e : Nat × Nat) : Bytes :=
  bytesOf 8 (e.1 / 2 ^ 36 + (e.1 / 2 ^ 16 % 2 ^ 20) <<< 4 + (e.1 % 2 ^ 16) <<< 24) ++ bytesOf 8 e.2

/-- Bytes written by helm firmware, in whole words. -/
def State.hlmPut (s : State) (a : Nat) (b : Bytes) : State := State.putWords ((b.length + 31) / 32) s (a / 32) b

/-- A request of the helm enters the solver's queue, or is rejected as one from the ring is (R162). -/
def State.slvEnter (s : State) (q : SlvReq) : State :=
  if !s.slvOn || 31 ≤ s.slvFlight + s.ringLen then s
  else
    let o := s.slvReject q []
    if o ≠ 0 then s.slvPost q { outcome := o }
    else
      let s := s.modSlv fun v => { v with queue := v.queue ++ [q], num := v.num + 1 }
      (if q.op = 0 then s.wr (SLV_SLOT_STAT_STATE q.slot) 3 else s.wr (SLV_SLOT_STAT_STATE q.slot) 1).slvShow

/-- The structure of the plant description loaded with FEED = 0, and MAX_ITER written to the slot (R194). -/
def State.hlmLoad (s : State) : State :=
  let p := s.plant
  let slot := s.rd HLM_QP_CFG_SLOT % 16
  let s := s.hlmPut hlmBlock (bytesOf 32 (1 + 5 <<< 8 + p.n <<< 16 + p.m <<< 64))
  let s := s.wr (SLV_SLOT_CFG_MAX_ITER slot) (s.rd HLM_QP_CFG_MAX_ITER)
  let s := s.slvEnter { num := s.slv.num, op := 1, slot := slot, wsSlot := 0, wsEn := false, prio := 3, tag := 0, release := 0,
                        released := true, deadline := 0, inAddr := hlmBlock, inCount := 0, outAddr := 0, resAddr := hlmLoadRes, damp := 0 }
  s.modHlm fun h => { h with sent := [] }

/-- The cycle's SOLVE (R194). -/
def State.hlmSolve (s : State) (ck : Nat) : State :=
  let q := s.formQp
  let ch := q.changes s.hlm.sent
  let s := s.hlmPut hlmList (ch.flatMap changeBytes)
  let slot := s.rd HLM_QP_CFG_SLOT % 16
  let tag := s.hlm.cycle % 4096
  let rel := ck + 1000 * s.rd HLM_TIME_CFG_QP_REL
  let s := s.slvEnter { num := s.slv.num, op := 0, slot := slot, wsSlot := slot, wsEn := true, prio := 3, tag := tag,
                        release := rel % 2 ^ 32, released := false, deadline := ck + 1000 * s.rd HLM_TIME_CFG_QP_DL, inAddr := hlmList,
                        inCount := ch.length, outAddr := hlmOutAt, resAddr := hlmRes, damp := 0 }
  s.modHlm fun h => { h with qp := some q, sent := q.coefs, tag := some tag }

/-! ### Commands of the block -/

/-- The index of the first fusion instant after RUN was set (R174). -/
def State.hlmC0 (s : State) : Int := max 0 (((s.hlm.runAt : Int) - s.fusF 0) / s.fusT + 1)

/-- Fusion instant c is a control instant. -/
def State.hlmGrid (s : State) (c : Int) : Bool := s.hlmC0 ≤ c && (c - s.hlmC0) % (s.rd HLM_TIME_CFG_HDIV + 1 : Nat) = 0

/-- The last control instant that has come. -/
def State.hlmLast (s : State) : Option Nat :=
  if s.fus.k0.isNone then none
  else
    let c := ((s.now : Int) - s.fusF 0) / s.fusT
    if c < s.hlmC0 then none else some (s.fusF (c - (c - s.hlmC0) % (s.rd HLM_TIME_CFG_HDIV + 1 : Nat))).toNat

/-- R174 and R175 for a value of HLM_TIME_CFG. -/
def State.timeOk (s : State) (v : Nat) : Bool :=
  helmTimeOk (bits v 0 20) (bits v 20 20) (bits v 40 20) (bits v 60 4) (s.rd FUS_CYCLE_CFG_PUB_OFF)
    ((s.rd FUS_CYCLE_CFG_FDIV + 1) * s.rd SCH_GRID_PERIOD_PERIOD)

/-- R174 and R175 for HLM_TIME_CFG as it stands. -/
def State.timeNow (s : State) : Bool :=
  s.timeOk (s.word HLM_TIME_CFG_QP_REL.addr + s.word (HLM_TIME_CFG_QP_REL.addr + 4) <<< 32)

/-- RUN written (R174, R175, R197): offsets that hold, the admission check, then the structure is loaded; refused with CFG_REJ or
ADMIT_REJ. -/
def State.hlmRun (s : State) (run : Bool) : State × WRes :=
  if run && !s.timeNow then (s.set1 HLM_ERR_CFG_REJ, .range)
  else if run then
    let b := s.plant.bound (s.rd HLM_QP_CFG_MAX_ITER) s.domino
    let s := s.wr HLM_ADMIT_BOUND (min (usUp b) (2 ^ 20 - 1))
    if (1000 * ((s.rd HLM_TIME_CFG_QP_DL : Int) - (s.rd HLM_TIME_CFG_QP_REL : Int)) : Int) < b.ceil then
      ((s.errLog HLM_ERR_ADMIT_REJ 0).wr HLM_CTRL_RUN 0, .state)
    else
      let was := s.on HLM_CTRL_RUN
      let s := s.wr HLM_CTRL_RUN 1
      (if was then s else (s.modHlm fun h => { h with runAt := s.now, ck := none }).hlmLoad, .ok)
  else ((s.wr HLM_CTRL_RUN 0).modHlm fun h => { h with qp := none, tag := none }, .ok)

/-- HLM_RUN (R197). -/
def execHlmRun (run : Bool) (s : State) : Out := done (whenLive s fun s => (s.hlmRun run).1)

/-- The transit ends when θ lies 1° beyond the far edge (R188). -/
def State.transitEnd (s : State) : State :=
  match s.hlm.transit with
  | some t =>
    let th := s.azFb t.thr
    let past := if t.cw then (th + 36000 - t.far % 36000) % 36000 else (t.far + 36000 - th % 36000) % 36000
    if (100 ≤ past && past < 18000) || !s.thrAvail t.thr then (s.modHlm fun h => { h with transit := none }).wr HLM_STATUS_TRANSIT 0 else s
  | none => s

/-- The law of the cycle whose control instant is ck (R176 to R194, R199 to R201). -/
def State.hlmLaw (s : State) (remote : List (Nat × Rat × Rat)) (ck : Nat) : State :=
  let cn := ck + s.hlmT
  let s := (s.modHlm fun h => { h with ck := some ck, cNext := cn, cycle := (h.cycle + 1) % 2 ^ 32, held := false }).wr HLM_STATUS_HELD 0
  let p := s.predict ((ck : Int) - 2 * s.fusT) cn
  let s := (s.modHlm fun h => { h with pred := p }).takeInputs
  let s := s.validity.takeMode.takeTarget
  let s := (s.contradictions).updClass
  let s := if 2 ≤ s.hmode then s.refStep else s
  let w := s.windTerm
  let s := w.1
  let law := s.lawDemand w.2
  let joy := s.joyDemand
  let dem := match s.hmode with
    | 0 => s.plant.total s.fbForce
    | 1 => joy
    | 2 => { joy with n := law.n }
    | _ => law
  let s := s.modHlm fun h => { h with dem := dem }
  let s := if 3 ≤ s.hmode && s.watchR ≤ s.watchOff.1 then s.hAlarm HLM_ALARM_WATCH else s
  let s := (List.range s.plant.strs.length).foldl (fun s k => s.strCycle k ((remote.find? (·.1 = k)).map (·.2))) s
  (s.restCycle.transitEnd).hlmSolve ck

/-- HLM_LAW_START (R174 to R176): C_k + PUB_OFF, fusion having published its output of the control instant C_k; once a cycle.
`remote` holds what the domains of REMOTE strings have reported for this cycle: string, discharge and charge limit in kW. -/
def execHlmLawStart (remote : List (Nat × Rat × Rat)) (s : State) : Out :=
  done (whenLive s fun s =>
    let c : Int := (s.fus.next : Int) - 1
    if !s.hlmOn || s.fus.k0.isNone || s.fus.next = 0 || !s.hlmGrid c || s.hlm.ck = some (s.fusF c).toNat then s
    else s.hlmLaw remote (s.fusF c).toNat)

/-- A pattern of the solver's output. -/
def State.outNum (s : State) (i : Nat) : Rat := f64Val (natOf (s.peek (hlmOutAt + 8 * i) 8))

/-- The largest azimuth command: an angle in rad as 0.01°, 0 to 35,999. -/
def azOf (a : Rat) : Nat := (roundQ (a * 18000 / realPi) % 36000).toNat

/-- Commands formed from the output (R196). -/
def State.formThr (s : State) (i : Nat) (h : HlmThr) : HlmThr :=
  let t := s.plant.thr i
  let v := s.plant.thrVar i
  let a := s.outNum v
  match t.typ with
  | 1 => { h with a := a, b := 0 }
  | 2 =>
    let b := s.outNum (v + 1)
    { h with a := a, b := b, az := if (1 : Rat) / 4 ≤ a * a + b * b then azOf (realAtan2 b a) else h.az }
  | _ =>
    let b := s.outNum (v + 1)
    { h with a := a, b := b }

/-- A thruster's commands clipped to its bounds of R186, and its rudder command (R195, R196). -/
def State.clipThr (s : State) (i : Nat) (h : HlmThr) : HlmThr :=
  let t := s.plant.thr i
  let b := s.thrBounds i
  let b0 := b.getD 0 (0, 0); let b1 := b.getD 1 (0, 0)
  if t.typ = 2 then
    let r := realSqrt (h.a * h.a + h.b * h.b)
    let u := s.radial i
    if s.hmode = 0 || !s.thrAvail i || s.transitHeld i then { h with a := clampQ b0.1 b0.2 h.a, b := clampQ b1.1 b1.2 h.b }
    else if r ≤ 0 then h
    else { h with a := h.a * clampQ u.1 u.2 r / r, b := h.b * clampQ u.1 u.2 r / r }
  else
    let a := clampQ b0.1 b0.2 h.a
    let l := if t.typ = 3 then clampQ b1.1 b1.2 h.b else 0
    { h with a := a, b := l, rud := if t.typ = 3 && 0 < a && t.rud ≠ 0 then satSigned 16 (roundQ (l / (t.rud * a) * 32768)) else 0 }

/-- Every command clipped. -/
def State.clipAll (s : State) : State :=
  let p := s.plant
  s.modHlm fun m => { m with
    thrs := m.thrs.zipIdx.map fun e => if e.2 < p.thrs.length then s.clipThr e.2 e.1 else HlmThr.init
    strs := m.strs.zipIdx.map fun e => if e.2 < p.strs.length then
      { e.1 with p := clampQ (s.strBounds e.2).1 (s.strBounds e.2).2 e.1.p } else HlmStr.init
    gens := m.gens.zipIdx.map fun e => if e.2 < p.gens.length then clampQ (s.genBounds e.2).1 (s.genBounds e.2).2 e.1 else 0 }

/-- Slacks of the output: their alarms, and the count of cycles in which one was not 0 (R199, R203). -/
def State.slacks (s : State) : State :=
  let f0 := s.outNum 0 = 0 && s.outNum 1 = 0 && s.outNum 2 = 0
  let b0 := (List.range s.plant.nSec).all fun j => s.outNum (4 + j) = 0
  let s := if f0 then s else s.hAlarm HLM_ALARM_FORCE_SHORT
  let s := if b0 then s else s.hAlarm HLM_ALARM_BUS_SHORT
  let n := if f0 && b0 then 0 else s.hlm.slackN + 1
  s.modHlm fun h => { h with
    force0 := f0, bus0 := b0, slackN := n, strs := if 2 ≤ n then h.strs.map fun x => { x with grant := none } else h.strs }

/-- Transits (R188): for each azimuth thruster a wedge edge at a zone that is active in the solution, with a force slack
that is not 0, for TRANSIT_PERS cycles in a row. -/
def State.transits (s : State) : State :=
  let p := s.plant
  let azs := p.ofType 2
  let edge := fun (i : Nat) =>
    let t := p.thr i
    let w := wedge t (s.azFb i) ((t.slew : Nat) * s.hlmTs)
    let row := 4 + p.nSec + 2 * azs.idxOf i
    let up := w.1.2.isSome && s.outNum (p.n + row + 1) < 0
    let dn := w.2.2.isSome && s.outNum (p.n + row) < 0
    if up then (match w.1.2 with | some z => some (true, z.2) | none => none)
    else if dn then (match w.2.2 with | some z => some (false, z.1) | none => none) else none
  let s := s.modHlm fun h => { h with thrs := h.thrs.zipIdx.map fun e =>
    { e.1 with pers := if azs.contains e.2 && (edge e.2).isSome && !h.force0 && s.hmode ≠ 0 then e.1.pers + 1 else 0 } }
  match s.hlm.transit with
  | some _ => s
  | none =>
    match azs.find? fun i => s.rd HLM_QP_CFG_TRANSIT_PERS ≤ (s.hthr i).pers && s.thrAvail i with
    | some i =>
      match edge i with
      | some (cw, far) => (s.modHlm fun h => { h with transit := some { thr := i, far := far, cw := cw } }).wr HLM_STATUS_TRANSIT 1
      | none => s
    | none => s

/-- The azimuth command of a thruster held at 0 in transit moves across the zone at SLEW. -/
def State.transitMove (s : State) : State :=
  match s.hlm.transit with
  | some t =>
    if s.transitHeld t.thr then
      let step := (roundQ (((s.plant.thr t.thr).slew : Nat) * s.hlmTs)).toNat
      s.modHlm fun h => { h with thrs := modAt h.thrs t.thr fun x =>
        { x with az := if t.cw then (x.az + step) % 36000 else (x.az + 36000 - step % 36000) % 36000 } }
    else s
  | none => s

/-- New commands from the returned x. -/
def State.newCommands (s : State) : State :=
  let p := s.plant
  let s := s.modHlm fun m => { m with
    thrs := m.thrs.zipIdx.map fun e => if e.2 < p.thrs.length then s.formThr e.2 e.1 else e.1
    strs := m.strs.zipIdx.map fun e => if e.2 < p.strs.length then
      { e.1 with p := if p.loss then s.outNum (p.strVar e.2) - s.outNum (p.strVar e.2 + 1) else s.outNum (p.strVar e.2) } else e.1
    gens := m.gens.zipIdx.map fun e => if e.2 < p.gens.length then s.outNum (p.genVar e.2) else e.1 }
  s.slacks.transits

/-- A cycle without a usable result (R195). -/
def State.fallback (s : State) (o : Nat) : State :=
  let s := (s.satInc HLM_CNT_FALLBACK_CNT).set1 HLM_ERR_FALLBACK
  let n := s.hlm.falls + 1
  let s := s.modHlm fun h => { h with falls := n }
  let s := if n = 3 then
      let was := s.on HLM_ALARM_ALLOC_FAIL
      let s := s.hAlarm HLM_ALARM_ALLOC_FAIL
      if was then s else s.lower 1
    else s
  if o = 2 then s.hlmLoad else s

/-- HLM_QP_RESULT (R195): the result record of the cycle's request has been posted. -/
def execHlmQpResult (s : State) : Out :=
  done (whenLive s fun s =>
    let w := natOf (s.peek hlmRes 32)
    if s.hlmOn && s.hlm.tag = some (bits w 32 12) then
      let o := bits w 0 8
      let s := s.modHlm fun h => { h with tag := none, outcome := o, iter := bits w 16 8 }
      let s :=
        if o = 0 || o = 0x23 || o = 0x20 || o = 0x21 || o = 0x26 then
          let s := if o = 0x21 || o = 0x26 then s.satInc HLM_CNT_ITERATE_CNT else s
          (s.modHlm fun h => { h with falls := 0 }).newCommands
        else s.fallback o
      s.clipAll.transitMove
    else s)

/-! ### Publication (R177, R184, R195, R196, R203) -/

/-- State of a thruster entry of HLM_OUT. -/
def State.thrState (s : State) (i : Nat) : Nat :=
  if s.plant.thrs.length ≤ i then 0 else if s.hmode = 0 then 4 else if !s.thrAvail i then 2 else if s.inTransit i then 3 else 1

/-- A signed number of w bits, rounded and saturated (R8). -/
def outS (w : Nat) (q : Rat) : Nat := ofSigned w (satSigned w (roundQ q))

/-- HLM_OUT (R203). -/
def State.writeOut (s : State) : State :=
  let h := s.hlm
  let ck := h.ck.getD 0
  let flags := b2n h.held + 2 * b2n h.transit.isSome +
    4 * b2n (h.strs.any fun x => x.stale ≠ 0 && !x.ids.isEmpty) + 8 * b2n (!h.force0) + 16 * b2n (!h.bus0)
  let s := s.wrAll [(HLM_OUT_NS32, ck % 2 ^ 32), (HLM_OUT_EPOCH, ck / 2 ^ 32), (HLM_OUT_CYCLE, h.cycle), (HLM_OUT_OUTCOME, h.outcome),
    (HLM_OUT_MODE, s.hmode), (HLM_OUT_CLASS, s.rd HLM_STATUS_CLASS), (HLM_OUT_ITER, h.iter), (HLM_OUT_FLAGS, flags),
    (HLM_OUT_DEM_X, outS 32 (h.dem.x * 100)), (HLM_OUT_DEM_Y, outS 32 (h.dem.y * 100)), (HLM_OUT_DEM_N, outS 32 (h.dem.n * 10))]
  let s := (List.range 32).foldl (fun s i =>
    let st := s.thrState i
    let x := s.hthr i
    let az2 := (s.plant.thr i).typ = 2
    let f := if st = 4 then s.thrFb i else if az2 then realSqrt (x.a * x.a + x.b * x.b) else x.a
    s.wrAll [(HLM_OUT_THR_THRUST i, if st = 0 then 0 else outS 16 (f * 10)),
      (HLM_OUT_THR_AZ i, if st = 0 then 0 else if st = 4 then s.azFb i else x.az),
      (HLM_OUT_THR_RUD i, if st = 0 || st = 4 then 0 else ofSigned 16 x.rud), (HLM_OUT_THR_STATE i, st)]) s
  let s := (List.range 256).foldl (fun s k => s.wr (HLM_OUT_STR_P k) (outS 32 ((s.hstr k).p * 1000))) s
  (List.range 16).foldl (fun s g => s.wr (HLM_OUT_GEN_P g) (roundQ (s.hlm.gens.getD g 0 * 1000)).toNat) s

/-- A power set-point in W of the string of index k, in effect from `eff`, as a fabric command to a node (R262). -/
def State.sendPower (s : State) (dom dst k eff : Nat) (w : Rat) : State :=
  let n := 1 + k <<< 32 + (eff % 2 ^ 64) <<< 64 + f64Of w <<< 128 + (s.zfb.txCmd % 2 ^ 32) <<< 192
  let s := s.modZfb fun z => { z with txCmd := (z.txCmd + 1) % 2 ^ 32 }
  s.sendFrame true { hdr := { cls := 4, dst := dst % 2 ^ 18, dstDom := dom, blocks := 1 }, words := [payWord n] }

/-- The set-point of a string, to the node of SLOT_FIRST, or to the domain of a REMOTE string, in effect from C_(k+1) (R196). -/
def State.sendString (s : State) (k : Nat) : State :=
  let x := s.plant.str k
  let w := (s.hstr k).p * 1000
  if !x.pres then s
  else if x.remote then s.sendPower x.nMod (Config.cidOfDomain x.nMod) k s.hlm.cNext w
  else s.sendPower (s.rd ZFB_ID_DOMAIN) (Config.nodeOfSlot x.first) k s.hlm.cNext w

/-- The unit coordinates a domain that is not the helm domain (R21). -/
def State.ownDispatch (s : State) : Bool :=
  s.engineRole && s.holds && !s.half2 && s.zfb.helmEn && s.zfb.helmDom ≠ s.rd ZFB_ID_DOMAIN

/-- R21: such a unit dispatches its own strings for the power asked of its domain, `total` in W from `eff`, and reports the limits of
its strings to the helm domain's coordinator. -/
def State.dispatchOwn (s : State) (total : Rat) (eff : Nat) : State :=
  let ks := (List.range s.plant.strs.length).filter fun k => (s.plant.str k).pres && !(s.plant.str k).remote
  let s := ks.foldl (fun s k => s.strCycle k none) s
  let caps := ks.map s.strCap
  let s := ks.zipIdx.foldl (fun s e =>
    s.sendPower (s.rd ZFB_ID_DOMAIN) (Config.nodeOfSlot (s.plant.str e.1).first) e.1 eff (Config.ownPower total caps e.2)) s
  let b := (List.range 32).map (Config.limitByte (caps.flatMap fun c => [c.1, c.2]))
  let d := Config.cidOfDomain s.zfb.helmDom % 2 ^ 18
  s.sendFrame true { hdr := { cls := 8, dst := d, dstDom := s.zfb.helmDom, blocks := 1, aux := Config.limitAux.toNat }, words := payWords b }

/-- Commands in whole units for CAN FD records: the control instant, then of each thruster its state, thrust in 0.1 kN, azimuth and
rudder, and of each generator set its power in W. -/
def State.canCommands (s : State) (ck : Nat) : List Int :=
  (ck : Int) :: ((List.range s.plant.thrs.length).flatMap fun i =>
    [(s.thrState i : Int), toSigned 16 (s.rd (HLM_OUT_THR_THRUST i)), (s.rd (HLM_OUT_THR_AZ i) : Int), toSigned 16 (s.rd (HLM_OUT_THR_RUD i))]) ++
  ((List.range s.plant.gens.length).map fun g => (s.rd (HLM_OUT_GEN_P g) : Int))

/-- Thruster and generator commands put into the transmit records that helm firmware fills (R175). -/
def State.hlmCan (s : State) (ck : Nat) : State :=
  (Config.helmCan (s.canCommands ck)).foldl (fun s e =>
    if e.1 < 512 && e.2.1 < 64 && s.rd (CAN_REC_DIR e.1) = 0 then s.wr (CAN_REC_DATA e.1 e.2.1) (e.2.2 % 256) else s) s

/-- The commands of the cycle with control instant ck published (R175, R184, R196): HLM_OUT, CAN FD records, the force given to
fusion from that instant on, and the strings' set-points. -/
def State.hlmPublish (s : State) (ck : Nat) : State :=
  let s := if s.hlm.held || s.hlm.tag.isSome then s.clipAll else s
  let s := s.writeOut.hlmCan ck
  let f := if s.hmode = 0 then s.plant.total s.fbForce else s.plant.total fun i => ((s.hthr i).a, (s.hthr i).b)
  let s := s.modHlm fun h => { h with
    hist := ((ck + 1000 * s.rd HLM_TIME_CFG_CMD_OFF, f) :: h.hist).take 64, pubCk := some ck,
    pub := { thrs := h.thrs, strs := h.strs.map fun x => x.p, gens := h.gens } }
  (List.range s.plant.strs.length).foldl (fun s k => s.sendString k) s

/-- HLM_COMMAND_PUBLISH (R175): C_k + CMD_OFF, once a cycle. -/
def execHlmCommandPublish (s : State) : Out :=
  done (whenLive s fun s =>
    match s.hlm.ck with
    | some ck =>
      if s.hlmOn && s.hlm.pubCk ≠ some ck && ck + 1000 * s.rd HLM_TIME_CFG_CMD_OFF ≤ s.now then s.hlmPublish ck else s
    | none => s)

/-- The cycle of control instant ck repeats the commands last published, with HELD (R177, R332). -/
def State.hlmHold (s : State) (ck : Nat) : State :=
  (s.modHlm fun h => { h with
    held := true, tag := none, qp := none, ck := some ck, cNext := ck + s.hlmT,
    cycle := (h.cycle + (match h.ck with | some c => (ck - c) / s.hlmT | none => 1)) % 2 ^ 32,
    thrs := h.pub.thrs, strs := h.strs.zipIdx.map fun e => { e.1 with p := h.pub.strs.getD e.2 e.1.p },
    gens := h.gens.zipIdx.map fun e => h.pub.gens.getD e.2 e.1 }).wr HLM_STATUS_HELD 1

/-- R177: the unit takes over within a cycle, whose commands it has still to publish. -/
def State.hlmTakeover (s : State) : State :=
  if s.on HLM_CTRL_RUN then
    match s.hlmLast with
    | some ck => if s.hlm.pubCk = some ck then s else s.hlmHold ck
    | none => s
  else s

/-- HLM_MODE_SET (R200): HLM_MODE_REQ written with SET. -/
def execHlmModeSet (mode : Fin 8) (s : State) : Out := done (whenLive s fun s => (s.modeRequest mode).1)

/-- HLM_RESTORE (R201): HLM_MODE_REQ written with RESTORE. -/
def execHlmRestore (s : State) : Out := done (whenLive s fun s => s.hlmRestore.1)

/-! ### Register writes (R174, R175, R203) -/

/-- A request through HLM_MODE_REQ (R200, R201): with SET, with RESTORE, or with both, of which neither takes effect where the other
is refused (R11). -/
def State.modeReqWrite (s : State) (m : Nat) (set restore : Bool) : State × WRes :=
  let bad := (set && !(s.modeRequest m).2) || (restore && !s.hlmRestore.2)
  if bad then ((s.set1 HLM_ERR_CMD_REJ).modHlm fun h => { h with rejCnt := h.rejCnt + 1 }, .state)
  else
    let s := if set then (s.modeRequest m).1 else s
    (if restore then s.hlmRestore.1 else s, .ok)

/-- A write of HLM_CTRL: with RUN refused nothing else of it takes effect (R11). RUN asks for offsets that hold (R174, R175). -/
def State.hlmCtrl (s : State) (v : Nat) : State × WRes :=
  let t := s.wrAll [(HLM_CTRL_WFF, bits v 8 8), (HLM_CTRL_MAX_CLASS, bits v 16 2)]
  if bit v 0 = s.on HLM_CTRL_RUN then (t, .ok)
  else match (s.hlmRun (bit v 0)).2 with
    | .ok => t.hlmRun (bit v 0)
    | _ => s.hlmRun (bit v 0)

/-- A write to a register of the block: refusals of state before those of range (R307). -/
def State.writeHlm (s : State) (l : RegLoc) (v : Nat) : State × WRes :=
  let rej := (s.set1 HLM_ERR_CFG_REJ, WRes.range)
  if (l.row.name = "HLM_TIME_CFG" || l.row.name = "HLM_QP_CFG") && s.on HLM_CTRL_RUN then (s.set1 HLM_ERR_CFG_REJ, .state)
  else if !l.inRange v then rej
  else if l.row.name = "HLM_CTRL" then s.hlmCtrl v
  else if l.row.name = "HLM_TIME_CFG" then if s.timeOk v then (s.wrReg l v, .ok) else rej
  else if l.row.name = "HLM_MODE_REQ" then s.modeReqWrite (bits v 0 3) (bit v 3) (bit v 4)
  else if l.row.name = "HLM_SP" then ((s.wrReg l v).modHlm fun h => { h with spNew := true }, .ok)
  else if l.row.name = "HLM_JOY" then ((s.wrReg l v).modHlm fun h => { h with joyXY := false, joyN := false }, .ok)
  else (s.wrReg l v, .ok)

end Sys2Proof.Machine
end

