-- ==== Sys2Proof/Machine/Learned.lean ====
section
/-!
DEFINITION. Machine/Learned.lean: learned records in flash (R101 to R103, R417).
-/
namespace Sys2Proof.Machine

/-- The address of slot X (0) or Y (1) of the record kept at index i. -/
def learnedAt (i copy : Nat) : Nat := 0x21400000 + 768 * i + 384 * copy

/-- The index under which a half keeps the record of a SLOT: 16,384 in each (R417). -/
def learnedIndex (half2 : Bool) (slot : Nat) : Option Nat :=
  if half2 then (if 16384 ≤ slot && slot < 32768 then some (slot - 16384) else none)
  else if slot < 16384 then some slot else none

/-- The 11 words of a slot as they stand, corrected; none where one fails its check or is ERASED. -/
def State.learnedBytes (s : State) (i copy : Nat) : Option Bytes :=
  (List.range 11).foldl (fun b k => b.bind fun l =>
    let w := s.rdRaw (learnedAt i copy / 32 + k)
    if w = erasedWord then none else (pipData w).map fun d => l ++ d) (some [])

/-- A valid record (R103). -/
def recordOk (b : Bytes) : Bool :=
  let seq := field b 0 4
  field b 320 4 = seq && field b 324 4 = 0xA55AC33C && seq ≠ 0 && seq ≠ 0xFFFFFFFF && bits (field b 16 16) 4 8 = 1

/-- The valid slots of an index with their SEQ. -/
def State.learnedSlot (s : State) (i copy : Nat) : Option (Nat × Bytes) :=
  match s.learnedBytes i copy with
  | some b => if recordOk b then some (field b 0 4, b) else none
  | none => none

/-- The record in use: the valid slot with the higher SEQ (R103). -/
def State.learned (s : State) (i : Nat) : Option (Nat × Bytes) :=
  match s.learnedSlot i 0, s.learnedSlot i 1 with
  | some x, some y => if x.1 < y.1 then some y else some x
  | some x, none => some x
  | none, y => y

/-- The slot that the next commit erases: the one with the lower SEQ, an invalid one first, X when both are invalid. -/
def State.learnedNext (s : State) (i : Nat) : Nat :=
  match s.learnedSlot i 0, s.learnedSlot i 1 with
  | some x, some y => if x.1 < y.1 then 0 else 1
  | some _, none => 1
  | none, _ => 0

/-- MODULE_UID, SLOT and SEG_GEN of a record. -/
def recUid (b : Bytes) : Nat := field b 4 8
def recSlot (b : Bytes) : Nat := bits (field b 12 4) 0 20
def recGen (b : Bytes) : Nat := bits (field b 12 8) 20 16

/-- A record with another SEQ (in word 0 and word 10). -/
def recWithSeq (b : Bytes) (seq : Nat) : Bytes :=
  bytesOf 4 seq ++ slice b 4 316 ++ bytesOf 4 seq ++ bytesOf 4 0xA55AC33C ++ List.replicate 24 0

/-- R102: the older slot erased, words 0 to 9 programmed, and word 10 once each of them verifies. -/
def State.programRecord (s : State) (i : Nat) (b : Bytes) : State :=
  let a := learnedAt i (s.learnedNext i)
  let s := (s.blank a (a + 384)).programs 10 (a / 32) b
  if (List.range 10).all fun k => s.rdRaw (a / 32 + k) = pipEncode (slice b (32 * k) 32) then
    s.program (a / 32 + 10) (slice b 320 32)
  else s

/-- A record committed by the holder, which the next COMMIT takes to the standby (R102, R288). -/
def State.commitRecord (s : State) (i : Nat) (b : Bytes) : State :=
  let s := s.programRecord i b
  if s.prd.mlUp then { s with mir := { s.mir with recs := s.mir.recs ++ [(i, b)] } } else s

/-- Both slots of an index read, which enters a corrected symbol in the fault log (R103). -/
def State.learnedRead (s : State) (i : Nat) : State :=
  let s := (State.readWords 11 s (learnedAt i 0 / 32)).1
  (State.readWords 11 s (learnedAt i 1 / 32)).1

end Sys2Proof.Machine
end

