-- ==== Sys2Proof/Machine/Roll.lean ====
section
/-!
DEFINITION. Machine/Roll.lean: Roll call and join authentication (R249 to R254). Messages are read from the frame in
`zfb.deliv`.
-/
namespace Sys2Proof.Machine

/-! ### Messages (R252) -/

/-- Nodes of a list, the two halves of a Domino pair counted as one (R19). -/
def nodeCount (ns : List RollNode) : Nat := (ns.map RollNode.id).eraseDups.length

/-- n random bytes (R250): free values. -/
def randomBytes (s : State) (n : Nat) : State × Bytes :=
  ({ s with free := s.free + n }, (List.range n).map fun i => Config.freeByte (s.free + i))

/-- The class of a message type: CHAL, ANSWER and DENY are AUTH frames. -/
def rollCls (type : Nat) : Nat := if 3 ≤ type && type ≤ 5 then 1 else 0

/-- A message on a path, sent out of the path's first exit. -/
def State.rollSend (s : State) (asCid : Bool) (type : Nat) (path : List Nat) (body : Bytes) : State :=
  match path with
  | [] => s
  | q :: _ =>
    let h : ZHdr := { cls := rollCls type, dst := 0, blocks := 0, aux := type }
    let f := s.fillSrc asCid { hdr := h, words := pathWord path 1 :: payWords body }
    (s.modZfb fun z => { z with seq := modAt z.seq f.hdr.cls fun n => (n + 1) % 2 ^ 16 }).pathOut q f

/-- A delivered message of a type: its arrival port, its path back, its sender's domain, and its fields (word 1 onwards). -/
structure RollIn where
  port  : Nat
  back  : List Nat
  coord : Bool
  dom   : Nat
  body  : Bytes

/-- The message of a type that was delivered last, taken. -/
def State.takeRoll (s : State) (type : Nat) : State × Option RollIn :=
  match s.zfb.deliv with
  | some (p, f) =>
    if f.hdr.cls = rollCls type && f.hdr.aux % 256 = type then
      let (path, _) := pathOf (natOf ((f.words.head?.bind pipData).getD []))
      (s.modZfb fun z => { z with deliv := none },
       some { port := p, back := p :: (path.drop 1).reverse, coord := f.hdr.coord, dom := f.hdr.srcDom,
              body := (f.words.drop 1).flatMap fun w => (pipData w).getD [] })
    else (s, none)
  | none => (s, none)

/-- A message from a coordinator group: others are discarded (R252). -/
def State.fromAny (s : State) (type : Nat) (k : State → RollIn → State) : State :=
  match s.takeRoll type with
  | (s, some m) => if m.coord then k s m else s
  | (s, none) => s

/-- A message from the coordinator group of the node's own domain (R252). -/
def State.fromCoord (s : State) (type : Nat) (k : State → RollIn → State) : State :=
  s.fromAny type fun s m => if m.dom = s.rd ZFB_DOM_CFG_DOMAIN then k s m else s

/-- An acknowledgement. -/
def State.rollAck (s : State) (m : RollIn) (type status : Nat) : State :=
  s.rollSend false 8 m.back [BitVec.ofNat 8 type, BitVec.ofNat 8 status]

/-! ### Proofs (R250) -/

/-- The message of a proof; `first` and `uids` in the order of the tag. -/
def proofMsg (tag : Nat) (c : Bytes) (uid1 uid2 : BitVec 64) (dom gen id : Nat) : Bytes :=
  bytesOf 1 tag ++ slice c 0 16 ++ bytesOf 8 uid1.toNat ++ bytesOf 8 uid2.toNat ++ bytesOf 1 dom ++ bytesOf 2 gen ++
  bytesOf 3 id

/-- The key of a UID in the key table (R416): none where it has no entry. -/
def State.keyOf (s : State) (uid : BitVec 64) : Option Bytes :=
  (List.range 65536).findSome? fun e =>
    let w := s.rdRaw ((0x20020000 + 32 * e) / 32)
    if w = erasedWord then none
    else match pipData w with
      | some d => if field d 0 8 = uid.toNat then some (slice d 8 16) else none
      | none => none

/-! ### The node's side -/

/-- The active generation, and whether generation g is older than it. -/
def State.genOld (s : State) (g : Nat) : Bool :=
  s.on ZFB_STATUS_ASSIGNED && later32 (g <<< 16) (s.rd ZFB_STATUS_GEN <<< 16)

/-- A failure of R250, counted and logged with CHECK_FAILED. -/
def State.authFail (s : State) (port : Nat) : State :=
  let s := (s.satInc ZFB_CNT_AUTH_FAIL_CNT).set1 ZFB_ERR_AUTH_FAIL
  s.logEvent 9 9 port 2 (s.word ZFB_ERR_AUTH_FAIL.addr)

/-- PROBE (R252): answered with PRESENT; a node of the probing domain begins its pending state of the generation, one of another domain
keeps only what R250 across the boundary link needs. -/
def execRollProbe (s : State) : Out :=
  done (whenLive s fun s => s.fromAny 1 fun s m =>
    let gen := field m.body 0 2
    let dom := field m.body 2 1
    let (s, cN) := randomBytes s 16
    let fresh : RollPend :=
      { gen := gen, coord := BitVec.ofNat 64 (field m.body 3 8), cN := cN, proven := false, id := none, dom := dom, up := 7,
        table := [], route := 7, rate := [], act := none }
    let p := match s.zfb.pend with
      | some p => if p.gen = gen then { p with cN := cN } else fresh
      | none => fresh
    let s := s.modZfb fun z => if dom = s.rd ZFB_DOM_CFG_DOMAIN then { z with pend := some p } else { z with foreign := some fresh }
    s.rollSend false 2 m.back
      (bytesOf 8 Config.uid.toNat ++ bytesOf 1 (s.rd ZFB_DOM_CFG_DOMAIN) ++ bytesOf 1 s.start.setting ++
       bytesOf 1 s.start.half ++ bytesOf 1 (s.rd PRD_STATUS_POS) ++ bytesOf 1 m.port ++ bytesOf 3 (s.rd ZFB_ID_NODE_ID) ++
       bytesOf 2 (s.rd ZFB_STATUS_GEN) ++ cN))

/-- The ID offered in a coordinator's proof: the proof alone shows it, so the node tries every node ID (notes/assumptions/16.md). -/
def chalOk (p : RollPend) (proof key : Bytes) : Option Nat :=
  (List.range 0x3FFFF).find? fun id =>
    proof = hmac key (proofMsg 0x4B p.cN p.coord Config.uid p.dom p.gen id)

/-- The coordinator's proof checked under the device key (R250): ANSWER, or DENY and a counted failure. -/
def State.answerChal (s : State) (p : RollPend) (own : Bool) (m : RollIn) : State :=
  if own && s.genOld p.gen then s.rollSend false 5 m.back [2]
  else
    match s.mbx.devKey.bind fun key => (chalOk p (slice m.body 16 32) key).map fun id => (key, id) with
    | some (key, id) =>
      let s := s.modZfb fun z => if own then { z with pend := z.pend.map fun p => { p with proven := true } } else z
      s.rollSend false 4 m.back (hmac key (proofMsg 0x4A (slice m.body 0 16) Config.uid p.coord p.dom p.gen id))
    | none => (s.authFail m.port).rollSend false 5 m.back [1]

/-- CHAL (R250), of the node's own coordinator or of a domain's across a boundary link. -/
def execAuthChal (s : State) : Out :=
  done (whenLive s fun s => s.fromAny 3 fun s m =>
    let own := m.dom = s.rd ZFB_DOM_CFG_DOMAIN
    match if own then s.zfb.pend else s.zfb.foreign with
    | some p => s.answerChal p own m
    | none => s)

/-- ASSIGN (R252): taken by a node whose coordinator's proof has passed, and by a group member. -/
def execRollAssign (s : State) : Out :=
  done (whenLive s fun s => s.fromCoord 6 fun s m =>
    match s.zfb.pend with
    | some p =>
      if !p.proven && s.start.setting = 0 then s
      else
        let p := { p with id := some (field m.body 0 3), dom := field m.body 3 1, up := field m.body 4 1 }
        (s.modZfb fun z => { z with pend := some p }).rollAck m 6 0
    | none => s)

/-- Entries of two ports overlap; STBY entries aside (R247). -/
def tableOverlap (t : List (Nat × Nat)) : Bool :=
  t.any fun a => t.any fun b =>
    a.1 / 64 ≠ b.1 / 64 && bit a.2 38 && bit b.2 38 && !bit a.2 39 && !bit b.2 39 &&
    bits a.2 0 18 ≤ bits b.2 20 18 && bits b.2 0 18 ≤ bits a.2 20 18

/-- Pending entries, ROUTE_CFG and guard limit of a TABLE message: its port, first entry, count and entries (R252). -/
def pendTable (p : RollPend) (b : Bytes) : RollPend × Nat :=
  let port := field b 0 1 % 4
  let first := field b 1 1
  let n := field b 2 1
  let es := (List.range n).map fun i => (rtIx port (first + i), field b (9 + 8 * i) 8)
  let t := (p.table.filter fun e => !(rtIx port first ≤ e.1 && e.1 < rtIx port 0 + 64)) ++ es
  if 64 < first + n || b.length < 9 + 8 * n then (p, 1)
  else if 3 < field b 0 1 || tableOverlap t then (p, 5)
  else ({ p with table := t, route := field b 3 4, rate := (port, field b 7 2) :: p.rate.filter (·.1 ≠ port) }, 0)

/-- TABLE (R252, R247): refused where entries overlap across ports or exceed 64. -/
def execRollTable (s : State) : Out :=
  done (whenLive s fun s => s.fromCoord 7 fun s m =>
    match s.zfb.pend with
    | some p =>
      let (p, st) := pendTable p m.body
      let s := s.modZfb fun z => { z with pend := some p }
      let s := if st = 0 then s else s.set1 ZFB_ERR_BAD_ENTRY
      s.rollAck m 7 st
    | none => s)

/-- A port in RESTRICTED opened; a wrap at it ends (R249, R256). -/
def State.openPort (s : State) (p : Nat) : State :=
  if s.rd (ZFB_PORT_STATE p) = 1 then (s.wr (ZFB_PORT_STATE p) 2).wr (ZFB_PORT_WRAP p) 0 else s

/-- OPEN (R249, R252). -/
def execPortOpen (s : State) : Out :=
  done (whenLive s fun s => s.fromCoord 10 fun s m => (s.openPort (field m.body 0 1 % 4)).rollAck m 10 0)

/-- The role of a port by the pending table (R248): UP; child, where an entry lies in the domain's own IDs; boundary,
where it has entries outside only. -/
def State.pendRole (s : State) (p : RollPend) (port : Nat) : Nat :=
  let base := s.rd ZFB_DOM_CFG_ID_BASE
  let es := p.table.filter fun e => e.1 / 64 = port && bit e.2 38 && !bit e.2 39
  if bits p.route 0 3 = port then 1
  else if es.any fun e => base ≤ bits e.2 0 18 && bits e.2 0 18 < base + s.rd ZFB_DOM_CFG_ID_COUNT then 2
  else if es.isEmpty then 0 else 3

/-- ROLL_DONE (R252): the activation instant recorded, and the message passed on down the pending tree. -/
def State.rollDone (s : State) (arr : Option Nat) (body : Bytes) : State :=
  match s.zfb.pend with
  | some p =>
    if p.gen = field body 0 2 && p.act = none then
      let s := s.modZfb fun z => { z with pend := some { p with act := some (field body 2 8) } }
      (List.range 4).foldl (fun s q =>
        if arr ≠ some q && s.pendRole p q = 2 then s.rollSend true 9 [q] body else s) s
    else s
  | none => s

def execRollDone (s : State) : Out :=
  done (whenLive s fun s => s.fromCoord 9 fun s m => s.rollDone (some m.port) m.body)

/-- The pending table made active. -/
def State.applyTable (s : State) (p : RollPend) : State :=
  let s := (List.range 256).foldl (fun s n =>
    s.wrAll [(ZFB_RT_LO n, 0), (ZFB_RT_HI n, 0), (ZFB_RT_VALID n, 0), (ZFB_RT_STBY n, 0)]) s
  p.table.foldl (fun s e =>
    s.wrAll [(ZFB_RT_LO e.1, bits e.2 0 18), (ZFB_RT_HI e.1, bits e.2 20 18), (ZFB_RT_VALID e.1, bits e.2 38 1),
      (ZFB_RT_STBY e.1, bits e.2 39 1)]) s

/-- ROLL_ACTIVATION (R252, R253): the pending ID, tables and port roles become active together. -/
def execRollActivation (s : State) : Out :=
  done (whenLive s fun s =>
    match s.zfb.pend with
    | some p =>
      if (match p.act with | some a => decide (s.now < a) | none => true) then s else
      let id := p.id.getD 0
      let base := s.rd ZFB_DOM_CFG_ID_BASE
      let s := s.applyTable p
      let s := (List.range 4).foldl (fun s q => (s.wr (ZFB_PORT_ROLE q) (s.pendRole p q)).wr (ZFB_PORT_RATE q)
        ((aGet q p.rate).getD (s.rd (ZFB_PORT_RATE q)))) s
      let s := s.wrAll [(ZFB_ID_NODE_ID, id), (ZFB_ID_DOMAIN, p.dom), (ZFB_STATUS_ASSIGNED, b2n (id ≠ 0)),
        (ZFB_STATUS_GROUP, b2n (s.start.setting ≠ 0 && (id = base + 1 || id = base + 2))), (ZFB_STATUS_GEN, p.gen),
        (ZFB_STATUS_REVERSED, 0), (ZFB_ROUTE_CFG_UP, bits p.route 0 3), (ZFB_ROUTE_CFG_ALT, bits p.route 3 3),
        (ZFB_ROUTE_CFG_STBY_P2, bits p.route 6 1), (ZFB_ROUTE_CFG_GRP_P0, bits p.route 7 1),
        (ZFB_ROUTE_CFG_GRP_P1, bits p.route 8 1)]
      let s := s.modZfb fun z => { z with pend := none, term := none }
      match s.zfb.run with
      | some r =>
        let s := s.wrAll [(ZFB_ROLL_RES_OUTCOME, 0), (ZFB_ROLL_RES_NODES, nodeCount r.nodes),
          (ZFB_ROLL_RES_DEPTH, r.nodes.foldl (fun d n => max d n.level) 0), (ZFB_STATUS_ROLL_RUN, 0)]
        s.modZfb fun z => { z with run := none, map := r.nodes, links := r.links, got := [], recalls := [] }
      | none => s
    | none => s)

/-! ### The coordinator's side: intervals and tables -/

/-- The nodes below place k in the list, k among them; parents stand before their children. -/
def subtree (ns : List RollNode) (k : Nat) : List Nat :=
  (ns.zipIdx).foldl (fun l e => if e.2 = k || (0 < e.1.level && l.contains e.1.parent) then l ++ [e.2] else l) []

/-- One interval for each level of a set of places. -/
def levelIvs (ns : List RollNode) (set : List Nat) : List (Nat × Nat) :=
  let es := set.filterMap fun k => ns[k]?
  let levels := (es.map RollNode.level).eraseDups
  levels.map fun l =>
    let ids := (es.filter fun e => e.level = l).map RollNode.id
    (ids.foldl min 0x3FFFF, ids.foldl max 0)

/-- The nodes that a port of place k leads to below it: through its children, and toward the other group members. -/
def behind (ns : List RollNode) (k port : Nat) : List Nat :=
  let kids := (ns.zipIdx).filter fun e => 0 < e.1.level && e.1.parent = k && e.1.pport = port
  let down := kids.flatMap fun e => subtree ns e.2
  let group := (ns.zipIdx).filter fun e => e.1.level = 0
  let isGroup := group.any fun e => e.2 = k
  let side := if isGroup then
      group.filter fun e => (port = 1 && k < e.2) || (port = 0 && e.2 < k)
    else []
  down ++ side.flatMap fun e => subtree ns e.2

/-- An entry laid out as ZFB_RTp_e. -/
def entryOf (iv : Nat × Nat) (stby : Bool) : Nat := iv.1 + iv.2 <<< 20 + 2 ^ 38 + b2n stby <<< 39

/-- The root of a node's ring: the node of it nearest the coordinator (level 0, or reached by P2). -/
def ringRoot (ns : List RollNode) : Nat → Nat → Nat
  | 0, k => k
  | n + 1, k =>
    match ns[k]? with
    | some e => if e.level = 0 || e.up = 2 then (if e.level = 0 then 0 else k) else ringRoot ns n e.parent
    | none => k

/-- The place of a node ID in the list. -/
def placeOf (ns : List RollNode) (id : Nat) : Nat := (ns.findIdx? fun e => e.id = id).getD ns.length

/-- A standby attachment as recorded from either end: the parent-ring node's ID and the standby head's ID. -/
def standbyOf (l : RollLink) : Option (Nat × Nat) :=
  match l.kind with
  | .spare far fp =>
    if l.port = 3 && fp = 2 then some (l.node, far) else if l.port = 2 && fp = 3 then some (far, l.node) else none
  | _ => none

/-- Boundary intervals behind the boundary link of a port: outside the domain's span toward the parent domain (P2), and
a child domain's span (P3), which no field of the boundary list gives and is free. -/
def State.bndIvs (s : State) (j port : Nat) : List (Nat × Nat) :=
  let base := s.rd ZFB_DOM_CFG_ID_BASE
  if port = 2 then
    (if 1 < base then [(1, base - 1)] else []) ++
    (if base + s.zfb.span ≤ 0x3FFFE then [(base + s.zfb.span, 0x3FFFE)] else [])
  else [(Config.freeNat (s.free + 2 * j) % 2 ^ 18, Config.freeNat (s.free + 2 * j + 1) % 2 ^ 18)]

/-- The entries of a port of place k (R252). -/
def State.portEntries (s : State) (r : RollRun) (k port : Nat) : List Nat :=
  let ns := r.nodes
  let set := behind ns k port
  let own := (levelIvs ns set).map fun iv => entryOf iv false
  let bl := (r.links.zipIdx).filter fun e => e.1.kind = .boundary
  let bnd := bl.flatMap fun e =>
    let at_ := placeOf ns e.1.node
    if set.contains at_ || (at_ = k && e.1.port = port) then (s.bndIvs e.2 e.1.port).map fun iv => entryOf iv false
    else []
  let sb := if port = 3 then
      ((r.links.filterMap standbyOf).eraseDups).flatMap fun e =>
        if placeOf ns e.1 = k then (levelIvs ns (subtree ns (placeOf ns e.2))).map fun iv => entryOf iv true else []
    else []
  own ++ bnd ++ sb

/-- The value of ZFB_ROUTE_CFG of place k: ALT is P1 where the node's ring, or the child ring at its P3, has a standby
attachment (notes/assumptions/16.md). -/
def routeCfg (r : RollRun) (k : Nat) : Nat :=
  let ns := r.nodes
  match ns[k]? with
  | none => 7
  | some e =>
    let sb := (r.links.filterMap standbyOf).eraseDups
    let ring (j : Nat) : Nat := ringRoot ns ns.length j
    let head := e.up = 2 && sb.any fun x => ring (placeOf ns x.2) = k
    let parent := (ns.zipIdx).any fun c => c.1.parent = k && c.1.pport = 3 && 0 < c.1.level &&
      sb.any fun x => ring (placeOf ns x.2) = c.2 && ring (placeOf ns x.1) = ring k
    let group := (ns.zipIdx).filter fun c => c.1.level = 0
    e.up + (if head || parent then 1 else 7) <<< 3 + b2n (sb.any fun x => x.2 = e.id) <<< 6 +
      b2n (e.level = 0 && group.any fun c => c.2 < k) <<< 7 + b2n (e.level = 0 && group.any fun c => k < c.2) <<< 8

/-- The ports of place k that are opened: every port with a link of the run that R250 covers. -/
def openPorts (r : RollRun) (k : Nat) : List Nat :=
  (List.range 4).filter fun p =>
    (match r.nodes[k]? with | some e => e.up = p | none => false) || !(behind r.nodes k p).isEmpty ||
    r.links.any fun l => l.kind ≠ .foreign &&
      ((placeOf r.nodes l.node = k && l.port = p) ||
        (match l.kind with | .spare far fp => placeOf r.nodes far = k && fp = p | _ => false))

/-- The highest node ID that may be assigned (R20, R238). -/
def idTop : Nat := 0x3FFFE

/-- Endpoints that the table may hold (R18). -/
def State.endpointMax (s : State) : Nat := if s.domino then 2097152 else 1048576

/-- The endpoints of every node with a front end, 65 each, fit, and so does the segment of each (R18, R19, R405). -/
def State.endpointsFit (s : State) (ns : List RollNode) : Bool :=
  let seg := ns.filter RollNode.front
  65 * nodeCount seg ≤ s.endpointMax && seg.all fun n => 65 * Config.slotOfNode n.id + 65 ≤ s.endpointMax

/-- The limits of R18, R19, R238 and R253. -/
def State.rollFits (s : State) (r : RollRun) : Bool :=
  let ns := r.nodes
  let rings := (List.range ns.length).map fun k => ringRoot ns ns.length k
  s.endpointsFit ns && nodeCount ns ≤ 32768 && ns.all (fun e => e.level ≤ 60 && e.id ≤ idTop && e.id < s.rd ZFB_DOM_CFG_ID_BASE + s.rd ZFB_DOM_CFG_ID_COUNT) &&
  rings.all (fun q => (rings.filter (· = q)).length ≤ 128) &&
  (r.links.filter fun l => l.kind = .boundary).length ≤ 16 &&
  (List.range ns.length).all fun k => (List.range 4).all fun p => (s.portEntries r k p).length ≤ 64

/-! ### The coordinator's side: a run -/

/-- A run ended without success (R253). -/
def State.rollEnd (s : State) (outcome : Nat) : State :=
  let s := s.wrAll [(ZFB_ROLL_RES_OUTCOME, outcome), (ZFB_STATUS_ROLL_RUN, 0)]
  s.modZfb fun z => { z with run := none, pend := none }

/-- The coordinator group in ring order, seen from this member (R237, R244): units A and B where the mirror lane is up,
and their halves. -/
def State.groupNodes (s : State) : List RollNode :=
  let halves := s.nExp
  let own := s.rd PRD_STATUS_POS
  let units := if s.prd.mlUp then [0, 1] else [own]
  let me := if s.prd.mlUp then own * halves + (s.start.half - 1) else s.start.half - 1
  (units.flatMap fun u => (List.range halves).map fun h => (u, h)).zipIdx.map fun e =>
    { id := s.cid + 1 + e.1.1, uid := if e.2 = me then Config.uid else 0, parent := 0, pport := 0, up := 7, level := 0,
      path := if me < e.2 then List.replicate (e.2 - me) 1 else List.replicate (me - e.2) 0,
      front := e.2 = me && s.on CFE_STATUS_PRESENT }

/-- The place of this member: the one without a path. -/
def selfPlace (ns : List RollNode) : Nat := (ns.findIdx? fun e => e.path = []).getD 0

/-- The ports to be probed at a level: of each node in ascending ID order, every port but the one it was reached by and
those that face other group members. -/
def levelTodo (ns : List RollNode) (level : Nat) : List (Nat × Nat) :=
  let group := (ns.zipIdx).filter fun e => e.1.level = 0
  ((ns.zipIdx).filter fun e => e.1.level = level).flatMap fun e =>
    ((List.range 4).filter fun p => p ≠ e.1.up &&
      !(level = 0 && ((p = 1 && group.any fun g => e.2 < g.2) || (p = 0 && group.any fun g => g.2 < e.2)))).map
      fun p => (e.2, p)

/-- A message of the run to place k. -/
def State.toNode (s : State) (r : RollRun) (k type : Nat) (body : Bytes) : State :=
  s.rollSend true type ((r.nodes[k]?.map RollNode.path).getD []) body

/-- The PROBE of the port at the front. -/
def State.sendProbe (s : State) (gen : Nat) (path : List Nat) : State :=
  s.rollSend true 1 path (bytesOf 2 gen ++ bytesOf 1 (s.rd ZFB_DOM_CFG_DOMAIN) ++ bytesOf 8 Config.uid.toNat)

/-- The body of a TABLE message of one port. -/
def State.tableBody (s : State) (r : RollRun) (k p : Nat) : Bytes :=
  let es := s.portEntries r k p
  bytesOf 1 p ++ [0] ++ bytesOf 1 es.length ++ bytesOf 4 (routeCfg r k) ++ bytesOf 2 (s.rd (ZFB_PORT_RATE p)) ++
    es.flatMap (bytesOf 8)

/-- TABLE and OPEN to place k, and the acknowledgements awaited; at this member they take effect directly (R252). -/
def State.sendTables (s : State) (r : RollRun) (k : Nat) : State × List (Nat × Nat) :=
  if k = selfPlace r.nodes then
    let p0 : RollPend :=
      { gen := r.gen, coord := Config.uid, cN := [], proven := true, id := none, dom := 0, up := 7, table := [], route := 7,
        rate := [], act := none }
    let p := (List.range 4).foldl (fun p q => (pendTable p (s.tableBody r k q)).1) (s.zfb.pend.getD p0)
    let s := s.modZfb fun z => { z with pend := some p }
    ((openPorts r k).foldl State.openPort s, [])
  else
    let s := (List.range 4).foldl (fun s q => s.toNode r k 7 (s.tableBody r k q)) s
    let s := (openPorts r k).foldl (fun s q => s.toNode r k 10 (bytesOf 1 q)) s
    (s, List.replicate 4 (k, 7) ++ (openPorts r k).map fun _ => (k, 10))

/-- ROLL_DONE flooded, its instant at least 10 ms ahead; by how much more is free (R252 step 6). -/
def State.rollFlood (s : State) (r : RollRun) : State :=
  let t := s.now + 10000000 + Config.freeNat s.free % 2 ^ 32
  let s := s.draw.modZfb fun z => { z with run := some { r with phase := .flooding } }
  s.rollDone none (bytesOf 2 r.gen ++ bytesOf 8 (t % 2 ^ 64))

/-- Tables sent to every node of a run that fits; LENGTH_EXCEEDS otherwise. -/
def State.rollTables (s : State) (r : RollRun) : State :=
  if s.rollFits r then
    let (s, wait) := (List.range r.nodes.length).foldl (fun a k =>
      let (s, w) := a.1.sendTables r k
      (s, a.2 ++ w)) (s, [])
    let s := { s with free := s.free + 2 * r.links.length }
    let r := { r with phase := .tables, wait := wait }
    if wait.isEmpty then s.rollFlood r else s.modZfb fun z => { z with run := some r }
  else s.rollEnd 1

/-- The run goes on with its next port, its next level, or its tables. -/
def State.rollNext (s : State) (r : RollRun) : State :=
  let r := { r with tries := 0, fails := 0, auth := none }
  match r.todo with
  | (k, p) :: _ =>
    let s := s.modZfb fun z => { z with run := some r }
    s.sendProbe r.gen (((r.nodes[k]?.map RollNode.path).getD []) ++ [p])
  | [] =>
    match levelTodo r.nodes (r.level + 1) with
    | [] => s.rollTables r
    | (k, p) :: l =>
      let r := { r with todo := (k, p) :: l, level := r.level + 1 }
      let s := s.modZfb fun z => { z with run := some r }
      s.sendProbe r.gen (((r.nodes[k]?.map RollNode.path).getD []) ++ [p])

/-- A run begun (R252 step 1): only the holder of TOKEN, one run at a time; half 2 leaves it to half 1 (R295). -/
def State.rollStart (s : State) : State × WRes :=
  if s.zfb.run.isSome || !s.holds then (s.wr ZFB_ROLL_RES_OUTCOME 3, .state)
  else if s.half2 then ({ s with mir := { s.mir with dlOut := s.mir.dlOut ++ [.rollStart] } }, .ok)
  else
    let gen := (s.zfb.gen + 1) % 2 ^ 16
    let ns := s.groupNodes
    let me := selfPlace ns
    let r : RollRun :=
      { gen := gen, phase := .probing, nodes := ns, links := [], todo := levelTodo ns 0, level := 0, tries := 0,
        fails := 0, auth := none, wait := [] }
    let p : RollPend :=
      { gen := gen, coord := Config.uid, cN := [], proven := true, id := (ns[me]?).map RollNode.id, dom := s.rd ZFB_DOM_CFG_DOMAIN,
        up := 7, table := [], route := 7, rate := [], act := none }
    let s := (s.wr ZFB_STATUS_ROLL_RUN 1).modZfb fun z =>
      { z with gen := gen, again := none, rejoin := none, rejAuth := none, pend := some p }
    let s := (List.range ns.length).foldl (fun s k =>
      if k = me then s
      else
        let path := (ns[k]?.map RollNode.path).getD []
        (s.sendProbe gen path).rollSend true 6 path (bytesOf 3 ((ns[k]?.map RollNode.id).getD 0) ++
          bytesOf 1 (s.rd ZFB_DOM_CFG_DOMAIN) ++ [7, 0])) s
    (s.rollNext r, .ok)

/-- ZFB_ROLL_START (R252, R253). -/
def execZfbRollStart (s : State) : Out := done (whenLive s fun s => s.rollStart.1)

/-- ROLL_CALL_RESTART (R253): a fresh run once all ports have been stable for 1 s after an ABORTED one. -/
def execRollCallRestart (s : State) : Out :=
  done (whenLive s fun s =>
    match s.zfb.again with
    | some t => if t + 250000000 ≤ s.ticks && s.holds then s.rollStart.1 else s
    | none => s)

/-- The next free ID (R244). -/
def State.nextId (s : State) (r : RollRun) : Nat := s.cid + 3 + (r.nodes.filter fun e => 0 < e.level).length

/-- The failure counted at the present port; after three the port is left (R250). -/
def State.rollFail (s : State) (r : RollRun) : State :=
  match r.todo with
  | (k, p) :: l =>
    let s := s.authFail p
    if 2 ≤ r.fails then s.rollNext { r with todo := l }
    else
      let s := s.modZfb fun z => { z with run := some { r with fails := r.fails + 1, auth := none, tries := 0 } }
      s.sendProbe r.gen (((r.nodes[k]?.map RollNode.path).getD []) ++ [p])
  | [] => s

/-- The fields of PRESENT. -/
def presentOf (b : Bytes) : Present :=
  { uid := BitVec.ofNat 64 (field b 0 8), dom := field b 8 1, role := field b 9 1, half := field b 10 1,
    pos := field b 11 1, arr := field b 12 1, curId := field b 13 3, curGen := field b 16 2, cN := slice b 18 16 }

/-- CHAL for a node that PRESENT has shown, under an offered ID; none where the key table has no key for it. -/
def State.challenge (s : State) (path : List Nat) (pr : Present) (gen offer : Nat) : State × Option RollAuth :=
  match s.keyOf pr.uid with
  | none => (s, none)
  | some key =>
    let (s, cC) := randomBytes s 16
    let proof := hmac key (proofMsg 0x4B pr.cN Config.uid pr.uid (s.rd ZFB_DOM_CFG_DOMAIN) gen offer)
    (s.rollSend true 3 path (cC ++ proof), some { pres := pr, offer := offer, cC := cC })

/-- A fresh challenge of 16 random bytes drawn for a SLOT (R104). -/
def State.drawChal (s : State) (slot : Nat) : State :=
  match randomBytes s 16 with
  | (s, c) => s.modZfb fun z => { z with chal := (slot, c) :: z.chal.filter (·.1 ≠ slot) }

/-- A slot whose record names another module is marked REPLACED, and a challenge drawn for it (R104). -/
def State.markReplaced (s : State) (id : Nat) (uid : BitVec 64) : State :=
  let slot := Config.slotOfNode id
  match (learnedIndex s.half2 slot).bind s.learned with
  | some (_, b) =>
    if recUid b = uid.toNat then s
    else (s.drawChal slot).modZfb fun z =>
      { z with replaced := slot :: z.replaced.filter (· ≠ slot), passed := z.passed.filter (· ≠ slot) }
  | none => s

/-- The configuration set lists a boundary link between a port of a node and a foreign node (R252). -/
def State.bndListed (s : State) (uid : BitVec 64) (port : Nat) (far : BitVec 64) : Bool :=
  s.zfb.bnd.any fun b => b.1 = uid.toNat && b.2.1 = port && b.2.2.2 = far.toNat

/-- PRESENT during a run (R252 step 3). The node across a boundary link is authenticated too, and offered no ID (R249). -/
def State.rollPresent (s : State) (r : RollRun) (pr : Present) : State :=
  match r.todo with
  | [] => s
  | (k, p) :: l =>
    let me := r.nodes[k]?
    let nid := (me.map RollNode.id).getD 0
    let add (kind : LinkKind) : RollRun := { r with links := r.links ++ [{ node := nid, port := p, kind := kind }], todo := l }
    match r.nodes.find? fun e => e.uid = pr.uid with
    | some e => s.rollNext (add (.spare e.id pr.arr))
    | none =>
      if pr.dom ≠ s.rd ZFB_DOM_CFG_DOMAIN then
        let uid := (me.map RollNode.uid).getD 0
        if s.bndListed uid p pr.uid then
          match s.challenge (((me.map RollNode.path).getD []) ++ [p]) pr r.gen 0 with
          | (s, some a) => s.modZfb fun z => { z with run := some { r with auth := some a } }
          | (s, none) => s.rollFail r
        else s.rollNext (add .foreign)
      else if pr.role ≠ 0 then s.rollNext (add (.spare (s.cid + 1 + pr.pos) pr.arr))
      else
        let id := s.nextId r
        if s.cid + s.rd ZFB_DOM_CFG_ID_COUNT ≤ id || idTop < id then s.rollEnd 1
        else match s.challenge (((me.map RollNode.path).getD []) ++ [p]) pr r.gen id with
          | (s, some a) => (s.modZfb fun z => { z with run := some { r with auth := some a } }).markReplaced id pr.uid
          | (s, none) => s.rollFail r

/-- The map entry at the far end of a link (R254): a child of the tree, or the far node of a spare link. -/
def State.mapFar (s : State) (id port : Nat) : Option RollNode :=
  match s.zfb.map.find? fun e => 0 < e.level && (s.zfb.map[e.parent]?.map RollNode.id) = some id && e.pport = port with
  | some e => some e
  | none =>
    (s.zfb.links.findSome? fun l => if l.node = id && l.port = port then
      (match l.kind with | .spare far _ => some far | _ => none) else none).bind fun far =>
      s.zfb.map.find? fun e => e.id = far

/-- PRESENT between Roll calls (R254); across a boundary link the far node is authenticated again. -/
def State.rejoinPresent (s : State) (id port : Nat) (path : List Nat) (pr : Present) : State :=
  let uid := ((s.zfb.map.find? fun e => e.id = id).map RollNode.uid).getD 0
  let offer := if pr.dom ≠ s.rd ZFB_DOM_CFG_DOMAIN then (if s.bndListed uid port pr.uid then some 0 else none)
    else (s.mapFar id port).map RollNode.id
  match offer with
  | none => (s.modZfb fun z => { z with rejoin := none }).sendEvent 6 port
  | some o =>
    match s.challenge path pr (s.rd ZFB_STATUS_GEN) o with
    | (s, some a) => s.modZfb fun z => { z with rejAuth := some a }
    | (s, none) => (s.authFail port).modZfb fun z => { z with rejoin := none }

/-- The path of the port that a run probes now. -/
def RollRun.front (r : RollRun) : List Nat :=
  match r.todo with
  | (k, p) :: _ => ((r.nodes[k]?.map RollNode.path).getD []) ++ [p]
  | [] => []

/-- PRESENT (R252, R254), at the holder: of the port probed now, or of another group member, whose UID it tells. -/
def execRollPresent (s : State) : Out :=
  done (whenLive s fun s =>
    match s.takeRoll 2 with
    | (s, some m) =>
      let pr := presentOf m.body
      if !s.holds then s
      else match s.zfb.run, s.zfb.rejoin with
        | some r, _ =>
          if r.nodes.any fun e => e.level = 0 && e.path = m.back then
            s.modZfb fun z => { z with run := some { r with nodes := r.nodes.map fun e =>
              if e.level = 0 && e.path = m.back then { e with uid := pr.uid } else e } }
          else if r.phase = .probing && r.auth = none && m.back = r.front then s.rollPresent r pr else s
        | none, some (id, port) => s.rejoinPresent id port m.back pr
        | none, none => s
    | (s, none) => s)

/-- The node's proof (R250). -/
def State.answerOk (s : State) (a : RollAuth) (gen : Nat) (proof : Bytes) : Bool :=
  match s.keyOf a.pres.uid with
  | some key => proof = hmac key (proofMsg 0x4A a.cC a.pres.uid Config.uid (s.rd ZFB_DOM_CFG_DOMAIN) gen a.offer)
  | none => false

/-- ANSWER during a run: the node assigned, or the failure counted. -/
def State.rollAnswer (s : State) (r : RollRun) (a : RollAuth) (proof : Bytes) : State :=
  match r.todo with
  | [] => s
  | (k, p) :: l =>
    if s.answerOk a r.gen proof && a.pres.dom ≠ s.rd ZFB_DOM_CFG_DOMAIN then
      let nid := (r.nodes[k]?.map RollNode.id).getD 0
      s.rollNext { r with links := r.links ++ [{ node := nid, port := p, kind := .boundary }], todo := l }
    else if s.answerOk a r.gen proof then
      let path := ((r.nodes[k]?.map RollNode.path).getD []) ++ [p]
      let n : RollNode :=
        { id := a.offer, uid := a.pres.uid, parent := k, pport := p, up := a.pres.arr, level := r.level + 1,
          path := path, front := Config.freeBool s.free }
      let s := s.draw.rollSend true 6 path (bytesOf 3 a.offer ++ bytesOf 1 (s.rd ZFB_DOM_CFG_DOMAIN) ++
        bytesOf 1 a.pres.arr ++ bytesOf 1 (r.level + 1))
      s.rollNext { r with nodes := r.nodes ++ [n], todo := l }
    else s.rollFail r

/-- The map with another UID at a position. -/
def newUid (m : List RollNode) (e : RollNode) (uid : BitVec 64) : List RollNode :=
  m.map fun x => if x.path = e.path then { x with uid := uid } else x

/-- The run that the present map stands for. -/
def State.mapRun (s : State) : RollRun :=
  { gen := s.rd ZFB_STATUS_GEN, phase := .tables, nodes := s.zfb.map, links := s.zfb.links, todo := [], level := 0, tries := 0, fails := 0,
    auth := none, wait := [] }

/-- The ID of a position with its tables, active 10 ms later (R254): what the node there needs that does not hold it. -/
def State.giveId (s : State) (e : RollNode) (path : List Nat) : State :=
  let r := s.mapRun
  let k := placeOf r.nodes e.id
  let s := s.rollSend true 6 path (bytesOf 3 e.id ++ bytesOf 1 (s.rd ZFB_DOM_CFG_DOMAIN) ++ bytesOf 1 e.up ++ bytesOf 1 e.level)
  let s := (List.range 4).foldl (fun s q => s.rollSend true 7 path (s.tableBody r k q)) s
  s.rollSend true 9 path (bytesOf 2 r.gen ++ bytesOf 8 ((s.now + 10000000) % 2 ^ 64))

/-- ANSWER between Roll calls (R254): the link OPENed, a new UID given the ID of its position. Across a boundary link each end is opened
by its own domain (R249). -/
def State.rejoinAnswer (s : State) (a : RollAuth) (id port : Nat) (path : List Nat) (proof : Bytes) : State :=
  if s.answerOk a (s.rd ZFB_STATUS_GEN) proof then
    let s := s.modZfb fun z => { z with rejoin := none, rejAuth := none }
    let own := a.pres.dom = s.rd ZFB_DOM_CFG_DOMAIN
    let s := match if own then s.mapFar id port else none with
      | some e =>
        let s := if e.uid = a.pres.uid then s
          else (s.modZfb fun z => { z with map := newUid z.map e a.pres.uid }).markReplaced e.id a.pres.uid
        if a.pres.curId = e.id then s else s.giveId e path
      | none => s
    let s := if own then s.rollSend true 10 path (bytesOf 1 a.pres.arr) else s
    if path.length ≤ 1 then s.openPort port else s.rollSend true 10 path.dropLast (bytesOf 1 port)
  else (s.authFail port).modZfb fun z => { z with rejoin := none, rejAuth := none }

/-- ANSWER (R250, R252, R254), at the holder. -/
def execAuthAnswer (s : State) : Out :=
  done (whenLive s fun s =>
    match s.takeRoll 4 with
    | (s, some m) =>
      match s.zfb.run, s.zfb.rejoin with
      | some r, _ =>
        (match r.auth with
         | some a => if m.back = r.front then s.rollAnswer r a (slice m.body 0 32) else s
         | none => s)
      | none, some (id, port) =>
        (match s.zfb.rejAuth with | some a => s.rejoinAnswer a id port m.back (slice m.body 0 32) | none => s)
      | none, none => s
    | (s, none) => s)

/-- DENY (R250, R252). -/
def execAuthDeny (s : State) : Out :=
  done (whenLive s fun s =>
    match s.takeRoll 5 with
    | (s, some m) =>
      match s.zfb.run, s.zfb.rejoin with
      | some r, _ => if r.auth.isSome && m.back = r.front then s.rollFail r else s
      | none, some (_, port) => (s.authFail port).modZfb fun z => { z with rejoin := none, rejAuth := none }
      | none, none => s
    | (s, none) => s)

/-- PROBE_TIMEOUT (R252): 1 ms without PRESENT; after three tries the port is recorded as empty. -/
def execProbeTimeout (s : State) : Out :=
  done (whenLive s fun s =>
    match s.zfb.run, s.zfb.rejoin with
    | some r, _ =>
      if r.phase ≠ .probing || r.auth.isSome then s
      else match r.todo with
        | (k, p) :: l =>
          if 2 ≤ r.tries then s.rollNext { r with todo := l }
          else
            let s := s.modZfb fun z => { z with run := some { r with tries := r.tries + 1 } }
            s.sendProbe r.gen (((r.nodes[k]?.map RollNode.path).getD []) ++ [p])
        | [] => s
    | none, some (id, port) =>
      if 2 ≤ s.zfb.rejTries then s.modZfb fun z => { z with rejoin := none }
      else
        let s := s.modZfb fun z => { z with rejTries := z.rejTries + 1 }
        let path := ((s.zfb.map.find? fun e => e.id = id).map RollNode.path).getD []
        s.sendProbe (s.rd ZFB_STATUS_GEN) (path ++ [port])
    | none, none => s)

/-- ACK (R252 step 5): the last one awaited lets the run flood; an error status ends it. -/
def execRollAck (s : State) : Out :=
  done (whenLive s fun s =>
    match s.takeRoll 8 with
    | (s, some m) =>
      match s.zfb.run with
      | some r =>
        if r.phase = .tables then
          let k := (r.nodes.findIdx? fun e => e.path = m.back).getD r.nodes.length
          let wait := r.wait.erase (k, field m.body 0 1)
          if field m.body 1 1 ≠ 0 then s.rollEnd (field m.body 1 1)
          else if wait.isEmpty then s.rollFlood { r with wait := [] }
          else s.modZfb fun z => { z with run := some { r with wait := wait } }
        else s
      | none => s
    | (s, none) => s)

/-- EVENT_LINK_UP (R254, R265): the node through the new link is probed, unless a run is under way. -/
def execEventLinkUp (s : State) : Out :=
  done (whenLive s fun s => s.takeEvent 2 fun s id port =>
    if s.zfb.run.isSome then s.rollAbort
    else
      let s := s.modZfb fun z => { z with rejoin := some (id, port), rejAuth := none, rejTries := 0 }
      let path := ((s.zfb.map.find? fun e => e.id = id).map RollNode.path).getD []
      s.sendProbe (s.rd ZFB_STATUS_GEN) (path ++ [port]))

/-- The state refuses a write whatever its value (R253, R268, R269). -/
def State.zfbHeld (s : State) (l : RegLoc) : Bool :=
  (l.row.name = "ZFB_DOM_CFG" || l.row.name = "ZFB_TX_RING" || l.row.name = "ZFB_RX_RING") && s.on ZFB_CTRL_RUN

/-- A write to a register of the fabric block (R269): refusals of state before those of range (R307). -/
def State.writeZfb (s : State) (l : RegLoc) (v : Nat) : State × WRes :=
  let n := l.row.name
  let rej := (s.set1 ZFB_ERR_CFG_REJ, WRes.range)
  if n = "ZFB_TX_PTR" then s.txTail (bits v 8 6)
  else if s.zfbHeld l then (s.set1 ZFB_ERR_CFG_REJ, .state)
  else if !l.inRange v then rej
  else if n = "ZFB_CTRL" then
    let set := fun (s : State) => (s.wr ZFB_CTRL_RUN (bits v 0 1)).wr ZFB_CTRL_RECALL_EN (bits v 2 1)
    if bit v 1 then
      match s.rollStart with
      | (_, .ok) => (set s).rollStart
      | r => r
    else (set s, .ok)
  else if n = "ZFB_DOM_CFG" && idTop < bits v 16 18 + max s.zfb.span (bits v 48 16) - 1 then rej
  else if (n = "ZFB_TX_RING" || n = "ZFB_RX_RING") && v % 64 ≠ 0 then rej
  else (s.wrReg l v, .ok)

end Sys2Proof.Machine
end

