-- ==== Sys2Proof/Machine/Crt.lean ====
section
/-!
DEFINITION. Machine/Crt.lean: the cyclic runtime (chapter 15): releases, copies, overruns, forces, controller and task states,
remote stations; the image and its signals are in Tasks.lean. What a task's code computes comes with the command
that ends an instance; conventions are in notes/assumptions/24.md.
-/
namespace Sys2Proof.Machine

/-- Registers that follow from the controller's state. -/
def State.crtShow (s : State) : State :=
  let n := s.crt.forces.length
  s.wrAll [(CRT_STATUS_FORCED, if n = 0 then 0 else 1), (CRT_STATUS_N_FORCE, n),
    (CRT_STATUS_HOLD_ANY, b2n ((List.range 32).any fun t => s.rd (CRT_TASK_STAT_STATE t) = 3)),
    (CRT_CTRL_RUN, b2n (s.rd CRT_STATUS_STATE = 1))]

/-- The controller's state changed, and the change logged. -/
def State.setCrt (s : State) (st : Nat) : State := (s.wrState CRT_STATUS_STATE 0 0 st).crtShow

/-- The sections of the active set taken up: task and station status, and the output channels bound (R335, R337, R352). -/
def State.crtApply (s : State) : State :=
  let ds := taskDescs s.tasksSec
  let s := (List.range 32).foldl (fun s t =>
    match ds.find? (·.index = t) with
    | some d =>
      s.wrAll [(CRT_TASK_STAT_STATE t, if s.rd (CRT_TASK_STAT_STATE t) = 0 then 1 else s.rd (CRT_TASK_STAT_STATE t)),
        (CRT_TASK_STAT_KIND t, d.kind), (CRT_TASK_STAT_PRIO t, d.prio), (CRT_TASK_STAT_CORE t, d.core)]
    | none => (s.wrAll [(CRT_TASK_STAT_STATE t, 0), (CRT_TASK_STAT_KIND t, 0), (CRT_TASK_STAT_PRIO t, 0), (CRT_TASK_STAT_CORE t, 0)])) s
  let sd := s.stnDescs
  let s := (List.range 64).foldl (fun s k =>
    match sd[k]? with
    | some d => s.wrAll [(CRT_STN_STAT_STATE k, if s.rd (CRT_STN_STAT_STATE k) = 0 then 2 else s.rd (CRT_STN_STAT_STATE k)),
        (CRT_STN_STAT_NODE k, d.node)]
    | none => s.wrAll [(CRT_STN_STAT_STATE k, 0), (CRT_STN_STAT_NODE k, 0), (CRT_STN_STAT_MISS k, 0), (CRT_STN_STAT_WDT k, 0)]) s
  let s := s.wrAll [(CRT_STATUS_IMAGE_OK, b2n (!ds.isEmpty)), (CRT_STATUS_N_TASK, ds.length)]
  let b := ((s.sigs.filter fun g => g.kind = 1 && g.cls = 2 && 16 ≤ g.bind && g.bind < 32).map fun g => g.bind - 16).eraseDups.foldl
    (fun a n => a + 2 ^ n) 0
  ({ s with fio := { s.fio with bound := b } }).crtShow

/-- A station moved to ONLINE by an acknowledgement (R349): READY only. -/
def State.stnAck (s : State) (k : Nat) : State × Bool :=
  if s.rd (CRT_STN_STAT_STATE k) = 3 then
    ((s.wrState (CRT_STN_STAT_STATE k) 0 k 1).modStn k fun x => { x with rejoin := true }, true)
  else (s, false)

/-- A station lost (R349). -/
def State.stnLose (s : State) (k : Nat) : State :=
  let st := s.rd (CRT_STN_STAT_STATE k)
  if st = 1 then ((s.wrState (CRT_STN_STAT_STATE k) 0 k 2).set1 CRT_ERR_STN_LOST).modStn k fun x => { x with lostAt := some s.now, rejoin := false }
  else if st = 3 then s.wrState (CRT_STN_STAT_STATE k) 0 k 2 else s

/-- Bits of a record's data replaced. -/
def State.putCan (s : State) (g : Sig) (v : Nat) : State :=
  let n := g.bind % 4; let m := bits g.bind 8 16
  let o := g.canField
  let d := natOf (s.recData n m)
  let d := d - (bits d o.1 o.2) <<< o.1 + (v % 2 ^ o.2) <<< o.1
  (List.range 64).foldl (fun s j => s.wr (CAN_REC_DATA (recIx n m) j) (bits d (8 * j) 8)) s

/-- An output signal's value at its binding. -/
def State.driveSig (s : State) (g : Sig) (v : Nat) : State :=
  match g.kind with
  | 1 =>
    let n := g.bind - 16
    let o := s.fio.rtOut
    let o := if bit o n then o - 2 ^ n else o
    { s with fio := { s.fio with rtOut := if v % 2 = 1 then o + 2 ^ n else o } }
  | 2 => s.wrAll [(LPE_PAGE_VALUE g.bind, v), (LPE_PAGE_QUAL g.bind, 0)]
  | 3 => s.putCan g v
  | 4 => s.modStn g.bind fun x => { x with outs := (x.outs ++ List.replicate (g.bind2 + 1 - x.outs.length) 0).set g.bind2 v }
  | 6 =>
    let n := 2 + g.bind2 <<< 32 + ((s.now + 1000000) % 2 ^ 64) <<< 64 + (v % 2 ^ 64) <<< 128 + (s.zfb.txCmd % 2 ^ 32) <<< 192
    let s := s.modZfb fun z => { z with txCmd := (z.txCmd + 1) % 2 ^ 32 }
    s.sendFrame s.holds { hdr := { cls := 4, dst := g.bind % 2 ^ 18, dstDom := s.rd ZFB_ID_DOMAIN, blocks := 1 }, words := [payWord n] }
  | 7 => if g.bind = 2 && v % 2 = 1 then (s.stnAck g.bind2).1 else s
  | _ => s

/-- An output signal set to its SAFE value, its force suspended (R341 to R344). -/
def State.safeSig (s : State) (g : Sig) : State :=
  let s := if (s.forceOf g.id).isSome then s.set1 CRT_ERR_FORCE_SAFE else s
  let v := normVal g.typ g.safe
  (s.putSig g v 0).driveSig g v

/-! ### Station frames (R347, R348) -/

/-- Payload of a station frame. -/
def stnWords (typ flags cycle at32 : Nat) (vals : List Nat) : List WireWord :=
  payWords (bytesOf 32 (typ + flags <<< 8 + vals.length <<< 16 + (cycle % 2 ^ 32) <<< 32 + (at32 % 2 ^ 32) <<< 64) ++
    vals.flatMap (bytesOf 8))

def State.sendStn (s : State) (dst typ flags cycle at32 : Nat) (vals : List Nat) : State :=
  let ws := stnWords typ flags cycle at32 vals
  s.sendFrame s.holds { hdr := { cls := 8, dst := dst % 2 ^ 18, dstDom := s.rd ZFB_ID_DOMAIN, blocks := ws.length, aux := 0x10 }, words := ws }

/-- The outputs of station k sent at O_j, with or without SAFE. -/
def State.stnOutput (s : State) (k : Nat) (d : StnDesc) (safe : Bool) : State :=
  let x := s.cstn k
  let j := (s.ctask d.task).j
  let vals := (List.range d.nOut).map fun i => x.outs.getD i 0
  (s.sendStn d.node 2 (b2n safe + 2 * b2n x.rejoin) j (s.ns32 + 1000 * d.apply) vals).modStn k fun y => { y with rejoin := false }

/-- Output frames of the stations that task t serves (R348, R349). -/
def State.stnOutputs (s : State) (t : Nat) : State :=
  s.stnDescs.zipIdx.foldl (fun s e =>
    if e.1.task ≠ t then s
    else
      let x := s.cstn e.2
      let lost := match x.lostAt, (s.ctask t).rel with | some a, some r => decide (r ≤ a) | _, _ => false
      if lost then ((s.set1 CRT_ERR_OUT_DISCARD).satInc CRT_CNT_OUT_DISC_CNT).modStn e.2 fun y => { y with lostAt := none }
      else if s.rd (CRT_STN_STAT_STATE e.2) = 1 then s.stnOutput e.2 e.1 false else s) s

/-! ### Releases (R339, R340) -/

/-- R_j of a cyclic task in epoch:NS32 (R339). -/
def State.releaseAt (s : State) (d : TaskDesc) (j : Nat) : Nat :=
  2 ^ 32 * s.rd CRT_ORIGIN_EPOCH + s.rd CRT_ORIGIN_NS32 + 250000 * (d.ph + j * (d.div + 1))

/-- The j whose release has come last; none before the first (R339). -/
def State.cycleOf (s : State) (d : TaskDesc) : Option Nat :=
  if s.now < s.releaseAt d 0 then none else some ((s.now - s.releaseAt d 0) / (250000 * (d.div + 1)))

/-- The task's descriptor for its present instance (R332), and the instants of that instance that are `off` µs after R_j. -/
def State.runDesc (s : State) (t : Nat) : Option TaskDesc := (s.ctask t).d
def State.instAt (s : State) (t off : Nat) : Nat := ((s.ctask t).rel).getD 0 + 1000 * off

/-- Instance j released at instant r. -/
def State.releaseTask (s : State) (t : Nat) (d : TaskDesc) (j r : Nat) : State :=
  let s := s.modTask t fun x =>
    { x with d := some d, rel := some r, prog := true, copied := false, ready := false, j := j, step := false }
  (s.wrapInc (CRT_TASK_STAT_INST t)).count 0x0B d.core 1

/-- No instance of the task is released and still to come to its output instant. -/
def State.taskFree (s : State) (t : Nat) : Bool := !(s.ctask t).prog && !(s.ctask t).ready

/-- Instance j of a cyclic task is to be released: once, and not before the task's start (R339, R342). -/
def State.releaseDue (s : State) (t : Nat) (d : TaskDesc) (j : Nat) : Bool :=
  d.kind = 0 && s.mayRelease t d && s.taskFree t && (s.ctask t).start ≤ s.releaseAt d j && (s.ctask t).rel ≠ some (s.releaseAt d j)

/-- A cyclic task's release for the last j that has come. -/
def State.releaseLast (s : State) (t : Nat) (d : TaskDesc) : State :=
  match s.cycleOf d with
  | some j => if s.releaseDue t d j then s.releaseTask t d j (s.releaseAt d j) else s
  | none => s

/-- TASK_RELEASE (R339, R342): R_j of a cyclic task. -/
def execTaskRelease (t : Fin 32) (s : State) : Out :=
  done (whenLive s fun s =>
    match s.desc t with
    | some d => s.releaseLast t d
    | none => s)

/-- MIN_SEP has passed since the last release of an event task. -/
def State.sepOver (s : State) (t : Nat) (d : TaskDesc) : Bool :=
  match (s.ctask t).rel with
  | some r => r + 1000 * d.minSep ≤ s.now
  | none => true

/-- An event of an event task (R340): a release now, a latch or a loss. -/
def State.taskEvent (s : State) (t : Nat) (d : TaskDesc) : State :=
  if !s.mayRelease t d then s
  else if s.taskFree t && s.sepOver t d && !s.on (CRT_TASK_STAT_LATCHED t) then s.releaseTask t d ((s.ctask t).j + 1) s.now
  else if s.on (CRT_TASK_STAT_LATCHED t) then (s.set1 CRT_ERR_EVT_LOST).satInc CRT_CNT_EVT_LOST_CNT
  else s.wr (CRT_TASK_STAT_LATCHED t) 1

/-- EVENT_RELEASE (R340): an event of the task's source that has occurred is acted on. -/
def execEventRelease (t : Fin 32) (s : State) : Out :=
  done (whenLive s fun s =>
    match s.desc t with
    | some d =>
      if d.kind = 1 && s.crt.evts.contains t.val then
        (s.modCrt fun c => { c with evts := c.evts.erase t.val }).taskEvent t d
      else s
    | none => s)

/-- A latched event releases its task once the instance is complete and MIN_SEP has passed. -/
def State.latchedRelease (s : State) (t : Nat) : State :=
  match s.desc t with
  | some d =>
    if s.on (CRT_TASK_STAT_LATCHED t) && s.taskFree t && s.sepOver t d && s.mayRelease t d then
      (s.wr (CRT_TASK_STAT_LATCHED t) 0).releaseTask t d ((s.ctask t).j + 1) s.now
    else s
  | none => s

/-- LATCHED_EVENT_RELEASE (R340). -/
def execLatchedEventRelease (t : Fin 32) (s : State) : Out := done (whenLive s fun s => s.latchedRelease t)

/-- The stations of a task at its input copy: a frame of this cycle, or one more missing (R348, R349). -/
def State.stnCopy (s : State) (t : Nat) : State :=
  s.stnDescs.zipIdx.foldl (fun s e =>
    if e.1.task ≠ t then s
    else
      let k := e.2
      if (s.cstn k).seen = some ((s.ctask t).j % 2 ^ 32) then s.wr (CRT_STN_STAT_MISS k) 0
      else
        let m := min (s.rd (CRT_STN_STAT_MISS k) + 1) 15
        let s := s.wr (CRT_STN_STAT_MISS k) m
        if e.1.miss ≤ m then s.stnLose k else s) s

/-- INPUT_COPY (R339, R348): I_j of task t. -/
def execInputCopy (t : Fin 32) (s : State) : Out :=
  done (whenLive s fun s =>
    match s.runDesc t with
    | some d =>
      if !(s.ctask t).prog || (s.ctask t).copied || s.now < s.instAt t d.inOff then s
      else
        let s := s.stnCopy t
        let j := (s.ctask t).j
        let gs := d.ins.filterMap s.sig
        let vs := gs.map fun g =>
          let r := s.readSig g j
          match s.forceOf g.id with
          | some v => if g.cls = 1 then (v, r.2) else r
          | none => r
        let s := (gs.zip vs).foldl (fun s e =>
          let s := if e.1.cls = 1 then s.putSig e.1 e.2.1 e.2.2 else s
          let s := if e.1.kind = 5 then s.modCrt fun c => { c with writes := c.writes.filter (·.id ≠ e.1.id) } else s
          if e.1.kind = 3 && e.1.cls = 1 then s.wr (CAN_REC_NEW (recIx (e.1.bind % 4) (bits e.1.bind 8 16))) 0 else s) s
        s.evtScan.modTask t fun x => { x with copied := true, inAt := s.now, img := vs.map (·.1), qual := vs.map (·.2) }
    | none => s)

/-- The task whose code a core runs (R339): highest PRIO, earliest release, lowest index. -/
def State.coreRuns (s : State) (core : Nat) : Option Nat :=
  ((((List.range 32).filterMap s.runDesc).filter fun d => d.core = core && (s.ctask d.index).prog && (s.ctask d.index).copied).foldl
    (fun (b : Option TaskDesc) d => match b with
      | none => some d
      | some x =>
        let rd := ((s.ctask d.index).rel).getD 0; let rx := ((s.ctask x.index).rel).getD 0
        if x.prio < d.prio || (x.prio = d.prio && (rd < rx || (rd = rx && d.index < x.index))) then some d else some x) none).map (·.index)

/-- INSTANCE_COMPLETE (R339): the instance of task t that its core runs has ended: `outs` is its output image, `ints` what it
wrote to internal and retained signals. -/
def execInstanceComplete (t : Fin 32) (outs : List (BitVec 64)) (ints : List (BitVec 32 × BitVec 64)) (s : State) : Out :=
  done (whenLive s fun s =>
    match s.runDesc t with
    | some d =>
      if s.coreRuns d.core ≠ some t.val then s
      else
        let s := ints.foldl (fun s e =>
          match s.sig e.1.toNat with
          | some g => if g.cls = 0 || g.cls = 3 then s.putSig g (normVal g.typ e.2.toNat) 0 else s
          | none => s) s
        let us := (s.now - (s.ctask t).inAt) / 1000
        let s := s.wr (CRT_TASK_STAT_RESP t) (max (s.rd (CRT_TASK_STAT_RESP t)) (min us 0xFFFF))
        let im := (List.range d.outs.length).map fun i => (outs.getD i 0).toNat
        (s.modTask t fun x => { x with prog := false, ready := true, out := im }).latchedRelease t
    | none => s)

/-- Every output signal SAFE, and SAFE frames to every ONLINE station (R341). -/
def State.allSafe (s : State) : State :=
  let s := (s.sigs.filter (·.cls = 2)).foldl (fun s g => s.safeSig g) s
  s.stnDescs.zipIdx.foldl (fun s e => if s.rd (CRT_STN_STAT_STATE e.2) = 1 then s.stnOutput e.2 e.1 true else s) s

/-- An overrun of task t at its O_j, epoch:NS32 `o` (R341). -/
def State.overrun (s : State) (t o : Nat) : State :=
  let s := (s.wrAll [(CRT_OVR_TASK, t), (CRT_OVR_T, o % 2 ^ 32)]).modCrt fun c =>
    { c with ovrs := c.ovrs + 1, evts := [], tasks := c.tasks.map fun x => { x with prog := false, copied := false, ready := false } }
  let s := ((s.errLog CRT_ERR_OVERRUN t).satInc CRT_CNT_OVR_CNT).setCrt 2
  let s := s.allSafe
  if s.on CRT_CTRL_OVR_RELEASE && s.holds then s.release 5 0 else s

/-- The outputs of task t stand at SAFE: it, or the controller, was stopped with STOP_SAFE (R342, R343). -/
def State.stopSafe (s : State) (t : Nat) : Bool :=
  s.on CRT_CTRL_STOP_SAFE && (s.rd CRT_STATUS_STATE = 0 || s.rd (CRT_TASK_STAT_STATE t) = 2)

/-- The output image of an instance copied to one signal (R339, R344). -/
def State.outSig (s : State) (safe : Bool) (id v : Nat) : State :=
  match s.sig id with
  | some g =>
    if g.cls ≠ 2 then s.putSig g (normVal g.typ v) 0
    else if safe then s.safeSig g
    else
      let v := (s.forceOf g.id).getD (normVal g.typ v)
      (s.putSig g v 0).driveSig g v
  | none => s

/-- OUTPUT_INSTANT (R339, R341 to R343): O_j of task t. An instance that is not complete is an overrun where the controller runs
and the task is in RUN; else it ends without its outputs. -/
def execOutputInstant (t : Fin 32) (s : State) : Out :=
  done (whenLive s fun s =>
    match s.runDesc t with
    | some d =>
      let x := s.ctask t
      let o := s.instAt t d.outOff
      if (!x.prog && !x.ready) || s.now < o then s
      else if x.prog && s.rd CRT_STATUS_STATE = 1 && s.rd (CRT_TASK_STAT_STATE t) = 1 then s.overrun t o
      else
        let safe := s.stopSafe t
        let s := if x.ready then ((d.outs.zip x.out).foldl (fun s e => s.outSig safe e.1 e.2) s).stnOutputs t
          else d.outs.foldl (fun s id => if safe then s.outSig true id 0 else s) s
        s.modTask t fun x => { x with prog := false, copied := false, ready := false }
    | none => s)

/-- What FORCE_LED does (R345): off, on, or 1 Hz. -/
inductive ForceLed where
  | dark | steady | flash
  deriving DecidableEq, Repr

def State.forceLed (s : State) : ForceLed :=
  if s.crt.forces ≠ [] then .steady else if s.on CRT_STATUS_HOLD_ANY then .flash else .dark

/-! ### Controller and tasks (R342, R343, R346) -/

def State.crtRej (s : State) : State × Bool := (s.set1 CRT_ERR_CMD_REJ, false)

/-- RUN. -/
def State.crtRun (s : State) : State × Bool :=
  if s.crtOn && s.rd CRT_STATUS_STATE = 0 && s.on CRT_STATUS_IMAGE_OK then
    let keep := (s.sigs.filter (·.cls = 3)).map (·.id)
    let s := s.modCrt fun c => { c with
      vals := c.vals.filter fun e => keep.contains e.1
      evts := []
      tasks := c.tasks.map fun x =>
        { x with start := s.now + 100000, prog := false, copied := false, ready := false, rel := none, lvl := none } }
    ((s.setCrt 1).evtScan, true)
  else s.crtRej

/-- STOP. -/
def State.crtStop (s : State) : State × Bool :=
  if s.rd CRT_STATUS_STATE = 1 then
    let s := s.setCrt 0
    (if s.on CRT_CTRL_STOP_SAFE then (s.sigs.filter (·.cls = 2)).foldl (fun s g => s.safeSig g) s else s, true)
  else s.crtRej

/-- RESET. -/
def State.crtReset (s : State) : State × Bool :=
  if s.rd CRT_STATUS_STATE = 2 then (s.setCrt 0, true) else s.crtRej

def State.setTask (s : State) (t st : Nat) : State :=
  let s := (s.wrState (CRT_TASK_STAT_STATE t) 0 t st)
  (if st = 1 then s else s.wr (CRT_TASK_STAT_LATCHED t) 0).crtShow

/-- TASK_RUN and TASK_STOP; with STOP_SAFE the outputs of a task go SAFE once no instance of it is in progress. -/
def State.taskRun (s : State) (t : Nat) : State × Bool :=
  if s.rd (CRT_TASK_STAT_STATE t) = 2 then (s.setTask t 1, true) else s.crtRej
def State.taskStop (s : State) (t : Nat) : State × Bool :=
  if s.rd (CRT_TASK_STAT_STATE t) = 1 then
    let s := s.setTask t 2
    (match s.desc t with
     | some d => if s.on CRT_CTRL_STOP_SAFE && s.taskFree t then (d.outs.filterMap s.sig).foldl (fun s g => if g.cls = 2 then s.safeSig g else s) s else s
     | none => s, true)
  else s.crtRej

/-- HOLD, STEP and RESUME need DEBUG_EN and HOLD_OK. -/
def State.debugOk (s : State) (t : Nat) : Bool :=
  s.on CRT_CTRL_DEBUG_EN && (match s.desc t with | some d => d.holdOk | none => false)
def State.taskHoldOp (s : State) (t : Nat) : State × Bool :=
  if s.debugOk t && s.rd (CRT_TASK_STAT_STATE t) = 1 then (s.setTask t 3, true) else s.crtRej
def State.taskStepOp (s : State) (t : Nat) : State × Bool :=
  if s.debugOk t && s.rd (CRT_TASK_STAT_STATE t) = 3 then (s.modTask t fun x => { x with step := true }, true) else s.crtRej
def State.taskResumeOp (s : State) (t : Nat) : State × Bool :=
  if s.debugOk t && s.rd (CRT_TASK_STAT_STATE t) = 3 then (s.setTask t 1, true) else s.crtRej

/-- TRIGGER: an event task whose source is TASK_CONTROL. -/
def State.taskTriggerOp (s : State) (t : Nat) : State × Bool :=
  match s.desc t with
  | some d => if d.kind = 1 && d.evt = 6 then (s.taskEvent t d, true) else s.crtRej
  | none => s.crtRej

/-- STN_ACK. -/
def State.stnAckOp (s : State) (k : Nat) : State × Bool :=
  match s.stnAck k with
  | (s, true) => (s.evtScan, true)
  | (s, false) => s.crtRej

/-- The acknowledgements of a mask: where one is refused, none is made (R11, R349). -/
def State.stnAckMask (s : State) (v : Nat) : State × WRes :=
  s.jointly ((List.range 64).map fun k => (CRT_ERR_CMD_REJ, fun s => if bit v k then s.stnAckOp k else (s, true)))

/-- CRT_RUN_WRITE (R350). -/
def execCrtRunWrite (run : Bool) (s : State) : Out :=
  done (whenLive s fun s => if run then s.crtRun.1 else s.crtStop.1)

/-- CRT_RESET_WRITE (R342). -/
def execCrtResetWrite (s : State) : Out := done (whenLive s fun s => s.crtReset.1)

/-- CRT_STN_ACK_WRITE (R349). -/
def execCrtStnAckWrite (mask : BitVec 64) (s : State) : Out :=
  done (whenLive s fun s => (s.stnAckMask mask.toNat).1)

/-! ### Forces (R344 to R346) -/

/-- A force event in the fault log: its opcode, source and signal ID. -/
def State.forceLog (s : State) (op src id : Nat) : State :=
  s.logEvent 12 (192 + 0x0A) (id % 2 ^ 16) 0 (op + (src % 2 ^ 64) <<< 16 + (id / 2 ^ 16) <<< 80)

/-- FORCE_SET: the status of its response. -/
def State.forceSet (s : State) (id value src : Nat) : State × Nat :=
  if s.start.role = .standby || (256 ≤ s.crt.forces.length && (s.forceOf id).isNone) then (s, 3)
  else match s.sig id with
  | none => (s, 5)
  | some g =>
    if g.cls ≠ 1 && g.cls ≠ 2 then (s, 5)
    else
      let s := s.modCrt fun c => { c with forces := (id, normVal g.typ value) :: c.forces.filter fun e => e.1 ≠ id }
      ((s.forceLog 0x0A02 src id).crtShow, 0)

/-- FORCE_CLEAR: one force or all. -/
def State.forceClear (s : State) (id src : Nat) : State × Nat :=
  if id = 0xFFFFFFFF then (((s.modCrt fun c => { c with forces := [] }).forceLog 0x0A03 src id).crtShow, 0)
  else match s.sig id with
  | none => (s, 5)
  | some _ => (((s.modCrt fun c => { c with forces := c.forces.filter fun e => e.1 ≠ id }).forceLog 0x0A03 src id).crtShow, 0)

/-! ### Items and stations -/

/-- POWER_SETPOINT (R263): the oldest item handed over at its EFFECT passes to the runtime; the coordinator of a domain other than
the helm domain dispatches its own strings for it (R21). -/
def execPowerSetpoint (s : State) : Out :=
  done (whenLive s fun s =>
    match s.takeHanded 1 with
    | (s, some (_, i)) =>
      let s := s.modCrt fun c => { c with power := aSet (2 ^ 64) i.target i.value c.power }
      if s.ownDispatch then s.dispatchOwn ((s.crt.power.map fun e => f64Val e.2).foldl (· + ·) 0) i.effect else s
    | (s, none) => s)

/-- SIGNAL_WRITE (R338): accepted for a signal of BIND_KIND 5, else SIG_REJ. -/
def execSignalWrite (s : State) : Out :=
  done (whenLive s fun s =>
    match s.takeHanded 2 with
    | (s, some (_, i)) =>
      (match s.sig i.target with
       | some g =>
         if g.kind = 5 then
           (s.modCrt fun c => { c with writes := c.writes ++ [{ id := g.id, effect := i.effect, seq := i.seq, value := i.value }] }).evtScan
         else (s.set1 CRT_ERR_SIG_REJ).satInc CRT_CNT_SIG_REJ_CNT
       | none => (s.set1 CRT_ERR_SIG_REJ).satInc CRT_CNT_SIG_REJ_CNT)
    | (s, none) => s)

/-- The signals a station exports in one direction, by value index (R348). -/
def State.exported (s : State) (out : Bool) : List Sig :=
  s.sigs.filter fun g => if out then bit g.flags 1 else bit g.flags 0

/-- STATION_INPUT_SEND (R348): the station samples its exported inputs at R_j and sends them; `cycle` and `rj` are its
master's j and R_j. -/
def execStationInputSend (cycle rj : BitVec 32) (s : State) : Out :=
  done (whenLive s fun s =>
    let gs := s.exported false
    if gs.isEmpty || s.start.phase ≠ .running then s
    else
      let n := gs.foldl (fun a g => max a (g.bind2 + 1)) 0
      let vals := (List.range n).map fun i =>
        match gs.find? (·.bind2 = i) with
        | some g => (s.readSig g 0).1
        | none => 0
      s.sendStn s.stnMaster 1 (4 * b2n s.crt.wdt) cycle.toNat rj.toNat vals)

/-- The station frame delivered last, if it is of the type: its sender, flags, cycle, instant and values; a bad length is discarded and counted
(R347). -/
def State.takeStn (s : State) (typ : Nat) : State × Option (Nat × Nat × Nat × Nat × List Nat) :=
  match s.zfb.deliv with
  | some (_, f) =>
    let b := f.words.flatMap fun w => (pipData w).getD []
    let w0 := field b 0 32
    if f.hdr.cls = 8 && f.hdr.aux = 0x10 && bits w0 0 8 = typ then
      let s := s.modZfb fun z => { z with deliv := none }
      let n := bits w0 16 16
      if 252 < n || f.words.length ≠ 1 + (n + 3) / 4 then (s.satInc CRT_CNT_SIG_REJ_CNT, none)
      else (s, some (f.hdr.src, bits w0 8 8, bits w0 32 32, bits w0 64 32, (List.range n).map fun i => field b (32 + 8 * i) 8))
    else (s, none)
  | none => (s, none)

/-- STATION_INPUT_FRAME (R348, R349): at the master. -/
def execStationInputFrame (s : State) : Out :=
  done (whenLive s fun s =>
    match s.takeStn 1 with
    | (s, some (src, flags, cycle, _, vals)) =>
      match s.stnDescs.zipIdx.find? fun e => e.1.node = src with
      | some (_, k) =>
        let s := (s.modStn k fun x => { x with vals := vals, seen := some cycle }).wrB (CRT_STN_STAT_WDT k) (bit flags 2)
        let st := s.rd (CRT_STN_STAT_STATE k)
        (if st = 1 && bit flags 2 then s.stnLose k
        else if st = 2 then (s.wrState (CRT_STN_STAT_STATE k) 0 k 3).wr (CRT_STN_STAT_MISS k) 0
        else s).evtScan
      | none => s
    | (s, none) => s)

/-- STATION_OUTPUT_FRAME (R348): at the station, held for its apply instant; one that comes after that instant is not applied;
after WDT_FIRED one without REJOIN is ignored. -/
def execStationOutputFrame (s : State) : Out :=
  done (whenLive s fun s =>
    match s.takeStn 2 with
    | (s, some (src, flags, _, t, vals)) =>
      if src ≠ s.stnMaster || (s.crt.wdt && !bit flags 1) || 0 < diff32 t s.ns32 then s
      else s.modCrt fun c => { c with held := some { at32 := t, rejoin := bit flags 1, vals := vals } }
    | (s, none) => s)

/-- STATION_APPLY (R344, R348): A_j; a frame held for a later instant waits for its own. -/
def execStationApply (s : State) : Out :=
  done (whenLive s fun s =>
    let gs := s.exported true
    if gs.isEmpty then s
    else match s.crt.held with
    | some h =>
      if diff32 h.at32 s.ns32 < 0 then s else
      let s := gs.foldl (fun s g =>
        match h.vals[g.bind2]? with
        | some v =>
          let v := (s.forceOf g.id).getD (normVal g.typ v)
          (s.putSig g v 0).driveSig g v
        | none => s) s
      s.modCrt fun c => { c with held := none, miss := 0, wdt := c.wdt && !h.rejoin }
    | none =>
      let m := s.crt.miss + 1
      let s := s.modCrt fun c => { c with miss := m }
      if s.stnWdt ≤ m && !s.crt.wdt then
        (gs.foldl (fun s g => s.safeSig g) s).modCrt fun c => { c with wdt := true }
      else s)

/-- Whether port p of node `id` lies on the path to the node at place i of the map: at most n steps toward the root. -/
def nodeOnPath (m : List RollNode) (id p : Nat) : Nat → Nat → Bool
  | 0, _ => false
  | n + 1, i =>
    match m[i]? with
    | none => false
    | some x =>
      (x.id = id && x.up = p) || (match m[x.parent]? with | some y => y.id = id && x.pport = p | none => false) ||
      (x.parent ≠ i && nodeOnPath m id p n x.parent)

/-- Whether port p of node `id` lies on the path to a node by the Roll call map (R349). -/
def State.onPath (s : State) (id p dst : Nat) : Bool :=
  nodeOnPath s.zfb.map id p 256 (s.zfb.map.findIdx fun x => x.id = dst)

/-- EVENT_LINK_DOWN (R265, R349): stations whose path passes the port become LOST. -/
def execEventLinkDown (s : State) : Out :=
  done (whenLive s fun s => s.takeEvent 1 fun s id port =>
    s.stnDescs.zipIdx.foldl (fun s e => if s.onPath id port e.1.node && s.rd (CRT_STN_STAT_STATE e.2) = 1 then s.stnLose e.2 else s) s |>.evtScan)

/-- The standby's runtime when it takes TOKEN (R342): tasks start at their first release from t_drive on. -/
def State.crtTakeover (s : State) : State :=
  s.modCrt fun c => { c with evts := [], tasks := c.tasks.map fun x => { x with start := s.driveAt, prog := false, copied := false, ready := false } }

/-- A write to a register of the block (R350). -/
def State.writeCrt (s : State) (l : RegLoc) (v : Nat) : State × WRes :=
  let st := (s.set1 CRT_ERR_CFG_REJ, WRes.state)
  let stopped := s.rd CRT_STATUS_STATE = 0
  if l.row.name = "CRT_CTRL" then
    if !stopped && (bit v 1 ≠ s.on CRT_CTRL_DEBUG_EN || bit v 3 ≠ s.on CRT_CTRL_OVR_RELEASE) then st
    else
      s.jointly
        [(CRT_ERR_CMD_REJ, fun s =>
           (s.wrAll [(CRT_CTRL_DEBUG_EN, bits v 1 1), (CRT_CTRL_STOP_SAFE, bits v 2 1), (CRT_CTRL_OVR_RELEASE, bits v 3 1)], true)),
         (CRT_ERR_CMD_REJ, fun s => if bit v 4 then s.crtReset else (s, true)),
         (CRT_ERR_CMD_REJ, fun s =>
           if bit v 0 = s.on CRT_CTRL_RUN then (s, true) else if bit v 0 then s.crtRun else s.crtStop)]
  else if l.row.name = "CRT_ORIGIN" && !stopped then st
  else if l.row.name = "CRT_STN_ACK" then
    s.stnAckMask v
  else (s.wrReg l v, .ok)

end Sys2Proof.Machine
end

