-- ==== Sys2Proof/Machine/Cse.lean ====
section
/-!
DEFINITION. Machine/Cse.lean: the cell state engine (chapter 4). Quantities are exact fractions: SOC and U in %, charge in
Ah, current in A, voltage in V, resistance in ohm, time in s; they are rounded where they enter a register or a payload.
-/
namespace Sys2Proof.Machine

def State.modCse (s : State) (f : CseState → CseState) : State := { s with cse := f s.cse }
def State.modCells (s : State) (f : Nat → CseCell → CseCell) : State :=
  s.modCse fun c => { c with cells := c.cells.mapIdx f }

/-! ### The chemistry table (R79) -/

/-- The chemistry table of the active set. -/
def State.chem (s : State) : Bytes := (aGet 4 s.cfg.secs).getD []

/-- An unsigned and a signed field of the table. -/
def chU (b : Bytes) (o : Nat) : Rat := (field b o 2 : Nat)
def chS (b : Bytes) (o : Nat) : Rat := toSigned 16 (field b o 2)

/-- The temperature segment that t lies in, and how far along it; t is clamped to −10 … 45 °C. -/
def tempSeg (t : Rat) : Nat × Rat :=
  if t ≤ -10 then (0, 0) else if t < 5 then (0, (t + 10) / 15) else if t < 25 then (1, (t - 5) / 20)
  else if t < 45 then (2, (t - 25) / 20) else (2, 1)

/-- Point j of OCV row i in V. -/
def ocvPoint (b : Bytes) (i j : Nat) : Rat := chU b (40 + 42 * i + 2 * j) / 10000

/-- OCV(s, T) in V, bilinear. -/
def ocvAt (b : Bytes) (soc t : Rat) : Rat :=
  let g := tempSeg t
  let j := min 19 (soc / 5).floor.toNat
  let u := soc / 5 - j
  let row := fun i => ocvPoint b i j + (ocvPoint b i (j + 1) - ocvPoint b i j) * u
  row g.1 + (row (g.1 + 1) - row g.1) * g.2

/-- OCV⁻¹(v, T) in %, held at the ends of the curve. -/
def ocvInv (b : Bytes) (v t : Rat) : Rat :=
  let pt := fun j : Nat => ocvAt b (5 * j) t
  if v ≤ pt 0 then 0 else if pt 20 ≤ v then 100
  else match (List.range 20).reverse.find? fun j => pt j ≤ v with
    | some j => 5 * j + 5 * (v - pt j) / (pt (j + 1) - pt j)
    | none => 0

/-- The slope of R86 in V per %. -/
def ocvSlope (b : Bytes) (soc t : Rat) : Rat :=
  let m := clampQ (5 / 2) (195 / 2) soc
  absQ (ocvAt b (m + 5 / 2) t - ocvAt b (m - 5 / 2) t) / 5

/-- R0_TF(T). -/
def r0Tf (b : Bytes) (t : Rat) : Rat :=
  let g := tempSeg t
  let pt := fun i : Nat => chU b (32 + 2 * i) / 4096
  pt g.1 + (pt (g.1 + 1) - pt g.1) * g.2

def ocvTol (b : Bytes) : Rat := chU b 8 / 10000

/-! ### Current and temperature (R80, R81) -/

def State.rsh (s : State) : Rat := (s.rd CSE_SHUNT_CFG_RSH : Nat) / 1000000000

/-- Charge is positive. -/
def State.chgSign (s : State) : Rat := if s.on CSE_CTRL_CHG_POS then 1 else -1

/-- The stack current that a shunt record gives. -/
def State.shuntAmp (s : State) (r : Nat) : Rat := s.chgSign * (toSigned 32 (recVal r) / 2 ^ 30) / s.rsh

/-- The voltage that a cell record gives. -/
def recVolt (r : Nat) : Rat := (toSigned 32 (recVal r) : Int) / 2 ^ 24

/-- i_bal of cell k at voltage v while its switch conducts. -/
def State.balAmp (s : State) (v : Rat) : Rat := v / ((s.rd CSE_BAL_RES_RBAL : Nat) / 10 + 1 / 2)

/-- i_fe by the front end's state. -/
def State.feAmp (s : State) : Rat :=
  match s.rd CFE_STATUS_HV_STATE with
  | 1 => 12 / 1000 | 2 => 12 / 1000
  | 3 => 30 / 1000000 + 300 / 1000000 / (s.rd CFE_SNOW_CFG_PERIOD : Nat)
  | 4 => 8 / 1000000
  | _ => 0

/-- The current of cell k at voltage v under stack current i. -/
def State.cellAmp (s : State) (i v : Rat) (k : Nat) : Rat :=
  i - (if (s.rd CFE_BAL_ACT_ACT).testBit k then s.balAmp v else 0) - s.feAmp

/-- The temperature of a thermistor record in °C (R81). -/
def State.thermTemp (s : State) (r : Nat) : Rat :=
  let c : Rat := (recVal r : Nat)
  let rn := 10000 * c / (65536 - c)
  let r25 : Rat := 10 * (s.rd CSE_NTC_CFG_R25 : Nat)
  1 / (1 / (29815 / 100) + realLn (rn / r25) / (s.rd CSE_NTC_CFG_BETA : Nat)) - 27315 / 100

/-- Temperatures of the thermistors whose records are valid. -/
def State.validTemps (s : State) : List Rat :=
  ((List.range 16).filter fun n => !recBad (s.recOf (48 + n))).map fun n => s.thermTemp (s.recOf (48 + n))

/-- The temperature of cell k, whether it is a substitute, and whether any thermistor is valid. -/
def State.cellTemp (s : State) (k : Nat) : Rat × Bool × Bool :=
  let n := s.rd (CSE_TMAP_TS (k / 8) (k % 8))
  if !recBad (s.recOf (48 + n)) then (s.thermTemp (s.recOf (48 + n)), false, true)
  else match s.validTemps with
    | [] => (45, true, false)
    | t :: l => (l.foldl max t, true, true)

/-! ### Intersection (R85, R86) -/

/-- The running interval of a cell combined with an estimate from voltage; SOC_JUMP where they do not overlap. -/
def CseCell.meet (c : CseCell) (sv uv : Rat) : CseCell :=
  let a := max 0 (c.soc - c.u); let b := min 100 (c.soc + c.u)
  let a' := max 0 (sv - uv); let b' := min 100 (sv + uv)
  let lo := max a a'; let hi := min b b'
  if lo ≤ hi then { c with soc := (lo + hi) / 2, u := (hi - lo) / 2 }
  else { c with soc := (a' + b') / 2, u := (b' - a') / 2, jump := true }

/-- s_v and U_v of a compensated voltage (R86). -/
def voltEst (b : Bytes) (v e t : Rat) : Rat × Rat :=
  let sv := ocvInv b v t
  let sl := ocvSlope b sv t
  (sv, if sl = 0 then 50 else min 50 (e / sl))

/-- R85 with an estimate from voltage. -/
def CseCell.meetVolt (b : Bytes) (v e t : Rat) (c : CseCell) : CseCell :=
  let m := voltEst b v e t
  c.meet m.1 m.2

/-! ### One update (R82) -/

/-- What one update works with: the chemistry table, stack current, seconds since the last update, instant in ns, and
for each cell its voltage, current, temperature, substitute flag and BAD. -/
structure CseIn where
  b    : Bytes
  amp  : Rat
  shOk : Bool
  dt   : Rat
  now  : Nat
  v    : List Rat
  i    : List Rat
  t    : List Rat
  sub  : List Bool
  any  : Bool
  bad  : List Bool

def State.cseIn (s : State) : CseIn :=
  let amp := s.shuntAmp (s.recOf 64)
  let ts := (List.range 48).map s.cellTemp
  let vs := (List.range 48).map fun k => recVolt (s.recOf k)
  { b := s.chem, amp := amp, shOk := !recBad (s.recOf 64),
    dt := match s.cse.lastT with | some t0 => ((s.now - t0 : Nat) : Rat) / 1000000000 | none => 0
    now := s.now, v := vs, i := vs.mapIdx fun k v => s.cellAmp amp v k
    t := ts.map (·.1), sub := ts.map (·.2.1), any := ts.all (·.2.2)
    bad := (List.range 48).map fun k => recBad (s.recOf k) }

/-- R0 and R1 of a cell at temperature t. -/
def CseCell.r0At (c : CseCell) (b : Bytes) (t : Rat) : Rat := c.r0 * r0Tf b t
def CseCell.r1At (c : CseCell) (b : Bytes) (t : Rat) : Rat := chU b 4 / 1000000 * (c.r0At b t) / (chU b 2 / 1000000)

/-- v' of R87. -/
def CseIn.comp (x : CseIn) (k : Nat) (c : CseCell) : Rat :=
  x.v.getD k 0 - c.r0At x.b (x.t.getD k 0) * x.i.getD k 0

/-- R83: a loss of the link that lasts is a gap up to the present. -/
def State.cseLasting (s : State) : State :=
  match s.cse.seen with
  | some t =>
    let g : Rat := s.now - t
    if g ≤ 100000 then s
    else
      let s := if 1000000 < s.cse.gapRun + g then s.set1 CSE_ERR_GAP else s
      s.modCse fun c => { c with seen := some s.now, gapNs := c.gapNs + g, gapRun := c.gapRun + g }
  | none => s

/-- R83, R84: the charge counted since the last update and the growth of U; a gap adds I_GAP. -/
def State.cseCount (s : State) (x : CseIn) : State :=
  let gapH : Rat := s.cse.gapNs / 1000000000 / 3600
  let qs := s.chgSign * (s.cse.charge / 1000000000) / s.rsh / 3600
  let cntErr : Rat := (s.rd CSE_ERR_CFG_CNT_ERR : Nat) / 1000000
  let iGap : Rat := (s.rd CSE_ERR_CFG_I_GAP : Nat) / 10
  s.modCells fun k c =>
    let dq := qs - s.balAmp (x.v.getD k 0) * (s.cse.balNs.getD k 0 / 1000000000) / 3600 - s.feAmp * x.dt / 3600
    let ds := dq / c.cap * 100
    let du := (cntErr * absQ dq + 5 / 1000000 / s.rsh * (x.dt / 3600)) / c.cap * 100 + c.uc * absQ ds
    { c with
      soc := clampQ 0 100 (c.soc + ds), u := min 50 (c.u + du + iGap * gapH / c.cap * 100),
      q := c.q + dq, qt := c.qt + absQ dq }

/-- The counts start afresh after an update. -/
def CseState.counted (c : CseState) : CseState :=
  { c with charge := 0, balNs := List.replicate 48 0, gapNs := 0, since := 0 }

/-- R98: the defaults of a cell. -/
def CseCell.defaults (b : Bytes) (c : CseCell) : CseCell :=
  let cap := chU b 0 / 100; let r0 := chU b 2 / 1000000; let tau := chU b 6 / 10
  { c with cap := cap, uc := 1 / 5, r0 := r0, tau := tau, refCap := cap, refR0 := r0, refTau := tau }

/-- R98: the first valid sweep after start. -/
def State.cseFirst (s : State) (x : CseIn) : State :=
  (s.modCells fun k c =>
    let c := { c.defaults x.b with soc := 50, u := 50, v1 := 0, q := 0, qt := 0, anchors := [] }
    if x.bad.getD k true then c
    else c.meetVolt x.b (x.comp k c) (2 / 1000 + ocvTol x.b + 20 / 1000) (x.t.getD k 0)).wr CSE_STATUS_STATE 2

/-- R97: the first valid sweep after a wake. -/
def State.cseAfterWake (s : State) (x : CseIn) : State :=
  let thr : Rat := (s.rd CFE_SNOW_CFG_SHUNT_THR : Nat) / 4000 / s.rsh
  (s.modCells fun k c =>
    if x.bad.getD k true then c
    else c.meetVolt x.b (x.v.getD k 0) (2 / 1000 + ocvTol x.b + c.r0At x.b (x.t.getD k 0) * thr)
      (x.t.getD k 0)).modCse fun c => { c with woken := false }

/-- Learning runs (R94). -/
def State.learning (s : State) : Bool := s.on CSE_CTRL_LEARN_EN && s.rd CSE_STATUS_STATE = 3

/-- A capacity anchor (R93): the newest earlier anchor far enough away gives an observation; CAP_REJ where it is more
than 10 % off. -/
def CseCell.anchored (anchorU dsocMin cntErr : Rat) (now : Nat) (c : CseCell) : CseCell × Bool :=
  if anchorU < c.u then (c, false)
  else
    let old := c.anchors.filter fun a => now - a.t ≤ 604800000000000
    let me : CseAnchor := { soc := c.soc, u := c.u, q := c.q, qt := c.qt, t := now }
    let c' := { c with anchors := me :: old }
    match old.find? fun a => dsocMin ≤ absQ (c.soc - a.soc) with
    | none => (c', false)
    | some a =>
      let ds := (c.soc - a.soc) / 100
      let qb := c.q - a.q
      let obs := qb / ds
      if c.cap / 10 < absQ (obs - c.cap) then (c', true)
      else
        let uo := (c.u + a.u) / 100 / absQ ds + cntErr * (c.qt - a.qt) / absQ qb
        let w := c.uc * c.uc / (c.uc * c.uc + uo * uo)
        let st := clampQ (-c.cap / 50) (c.cap / 50) (w * (obs - c.cap))
        ({ c' with cap := c.cap + st, uc := max (1 / 200) (realSqrt w * uo) }, false)

/-- The cells that R87 or R88 has just estimated taken as anchors, while learning runs. -/
def State.cseAnchors (s : State) (x : CseIn) (est : Nat → Bool) : State :=
  if s.learning then
    let r := s.cse.cells.mapIdx fun k c =>
      if !est k then (c, false)
      else CseCell.anchored ((s.rd CSE_LRN_CFG_ANCHOR_U : Nat) / 100) (s.rd CSE_LRN_CFG_DSOC_MIN : Nat)
        ((s.rd CSE_ERR_CFG_CNT_ERR : Nat) / 1000000) x.now c
    let s := s.modCse fun c => { c with cells := r.map (·.1) }
    if r.any (·.2) then s.set1 CSE_ERR_CAP_REJ else s
  else s

/-- The mean of v' of cell k over the second that ends at t, or its last sample by then (R88). -/
def meanAt (w : List RlxSample) (t : Rat) (k : Nat) : Option Rat :=
  let l := w.filter fun e => e.t ≤ t
  let vs := (l.filter fun e => t - 1 < e.t).filterMap fun e => e.vs.getD k none
  if vs.isEmpty then (l.filterMap fun e => e.vs.getD k none).head?
  else some (vs.foldl (· + ·) 0 / vs.length)

/-- R88: a window of `len` seconds evaluated for every cell; R94: its time-constant estimate. -/
def State.cseWindow (s : State) (x : CseIn) (w : List RlxSample) (len : Rat) : State :=
  let learn := s.learning && 120 ≤ len
  let s := s.modCells fun k c =>
    if x.bad.getD k true then c
    else match meanAt w (len / 2) k, meanAt w len k with
    | some va, some vb =>
      let corr := (va - vb) / (realExp (len / (2 * c.tau)) - 1)
      let c := c.meetVolt x.b (vb - corr) (2 / 1000 + ocvTol x.b + absQ corr / 2) (x.t.getD k 0)
      match meanAt w (len / 3) k, meanAt w (2 * len / 3) k with
      | some q1, some q2 =>
        let ratio := (q1 - q2) / (q2 - vb)
        if learn && 105 / 100 ≤ ratio && ratio ≤ 100 then
          { c with tau := c.tau + (len / (3 * realLn ratio) - c.tau) / 8 }
        else c
      | _, _ => c
    | _, _ => c
  (s.satInc CSE_RLX_CNT_USED).cseAnchors x fun k =>
    !x.bad.getD k true && (meanAt w (len / 2) k).isSome && (meanAt w len k).isSome

/-- R87: full rest reached. -/
def State.cseFullRest (s : State) (x : CseIn) : State :=
  (s.modCells fun k c =>
    if x.bad.getD k true then c
    else c.meetVolt x.b (x.comp k c) (2 / 1000 + ocvTol x.b) (x.t.getD k 0)).cseAnchors x fun k => !x.bad.getD k true

/-- R87, R88: rest and relaxation windows; a window opens only once an update above REST_I has come. An update with a BAD shunt record counts as above REST_I
(notes/assumptions/17.md). -/
def State.cseRest (s : State) (x : CseIn) : State :=
  let restI : Rat := (s.rd CSE_REST_CFG_REST_I : Nat) / 10
  let full : Rat := 60 * (s.rd CSE_REST_CFG_REST_FULL : Nat)
  if x.shOk && absQ x.amp ≤ restI then
    let vs := s.cse.cells.mapIdx fun k c => if x.bad.getD k true then none else some (x.comp k c)
    match s.cse.restT with
    | none => s.modCse fun c =>
      { c with restT := some 0, fulls := 0, win := if c.high then some [{ t := 0, vs := vs }] else none }
    | some r =>
      let r := r + x.dt
      let s := s.modCse fun c => { c with restT := some r, win := c.win.map fun w => { t := r, vs := vs } :: w }
      let n := (r / full).floor.toNat
      if s.cse.fulls < n then (s.cseFullRest x).modCse fun c => { c with fulls := n, win := none } else s
  else
    let s := match s.cse.win, s.cse.restT with
      | some w, some r =>
        if (s.rd CSE_RLX_CFG_RLX_MIN : Nat) ≤ r + x.dt then s.cseWindow x w (r + x.dt)
        else s.satInc CSE_RLX_CNT_SHORT
      | _, _ => s
    s.modCse fun c => { c with restT := none, fulls := 0, win := none, high := true }

/-- Seconds for which the current has been within HIB_I without a break (R96). -/
def State.cseQuiet (s : State) (x : CseIn) : State :=
  let quiet := x.shOk && absQ x.amp ≤ (s.rd CSE_HIB_CFG_HIB_I : Nat) / 10
  let run := fun (h : Option Rat) => if quiet then some (h.elim 0 (· + x.dt)) else none
  s.modCse fun c => { c with hibT := run c.hibT }

/-- R94: R0 from a step of current between consecutive sweeps, neither of them COARSE or BAD. -/
def State.cseR0 (s : State) (x : CseIn) : State :=
  let old := fun k => s.sch.prevRecs.getD k (2 ^ 32)
  let good := fun k => !recBad (s.recOf k) && !recCoarse (s.recOf k) && !recBad (old k) && !recCoarse (old k)
  let di := x.amp - s.shuntAmp (old 64)
  if s.learning && good 64 && chU x.b 0 / 500 ≤ absQ di then
    s.modCells fun k c =>
      if good k then
        let obs := (x.v.getD k 0 - recVolt (old k)) / di / r0Tf x.b (x.t.getD k 0)
        { c with r0 := c.r0 + (obs - c.r0) / 64 }
      else c
  else s

/-- One end threshold of R91: seconds beyond it, and the flag. -/
def endFlag (beyond back : Bool) (pers dt : Rat) (t : Option Rat) (f : Bool) : Option Rat × Bool :=
  let t := if beyond then some (match t with | some a => a + dt | none => 0) else none
  (t, if (match t with | some a => decide (pers ≤ a) | none => false) then true else if back then false else f)

/-- R91: the polarisation voltage and the end flags. -/
def State.cseEnds (s : State) (x : CseIn) : State :=
  let lim : Rat := (s.rd CSE_END_CFG_COMP_MAX : Nat) / 1000
  let pers : Rat := (s.rd CSE_END_CFG_END_PERS : Nat) / 100
  let hyst : Rat := (s.rd CSE_END_CFG_END_HYST : Nat) / 1000
  let eocV := chU x.b 14 / 10000; let eodV := chU x.b 16 / 10000
  s.modCells fun k c =>
    let t := x.t.getD k 0; let i := x.i.getD k 0
    let e := c.r1At x.b t * i
    let v1 := e + (c.v1 - e) * realExp (-x.dt / c.tau)
    let d := c.r0At x.b t * i + v1
    let vc := x.v.getD k 0 - clampQ (-lim) lim d
    let c := { c with v1 := v1, compCap := decide (lim < absQ d), bad := x.bad.getD k true, tempSub := x.sub.getD k true }
    if x.bad.getD k true then c
    else
      let a := endFlag (eocV ≤ vc) (vc ≤ eocV - hyst) pers x.dt c.eocT c.eoc
      let o := endFlag (vc ≤ eodV) (eodV + hyst ≤ vc) pers x.dt c.eodT c.eod
      { c with eocT := a.1, eoc := a.2, eodT := o.1, eod := o.2 }

/-- The current limits of a cell in A, its OCV with decayed v1, and r_h (R92). -/
def State.cseSop (s : State) (x : CseIn) (k : Nat) (c : CseCell) : Rat × Rat × Rat × Rat :=
  let t := x.t.getD k 0
  let dec := realExp (-((s.rd CSE_SOP_CFG_HOR : Nat) : Rat) / c.tau)
  let rh := c.r0At x.b t + c.r1At x.b t * (1 - dec)
  let ov := ocvAt x.b c.soc t + c.v1 * dec
  let ic := min (chU x.b 18 / 10) (max 0 ((chU x.b 10 / 10000 - ov) / rh))
  let id := min (chU x.b 20 / 10) (max 0 ((ov - chU x.b 12 / 10000) / rh))
  let dead := c.bad || !x.any
  let ic := if dead || c.eoc || t < chS x.b 22 / 10 || chS x.b 24 / 10 < t then 0 else ic
  let id := if dead || c.eod || t < chS x.b 26 / 10 || chS x.b 28 / 10 < t then 0 else id
  (ic, id, ov, rh)

/-- R89, R90: REST_STARVED of each cell, each change entered in the fault log. -/
def State.cseStarved (s : State) : State :=
  let lim : Rat := (s.rd CSE_UNC_CFG_U_LIM : Nat) / 100
  let nxt := fun (c : CseCell) => if lim < c.u then true else if c.u ≤ lim - 1 then false else c.starved
  let old := s.cse.cells
  let s := s.modCells fun _ c => { c with starved := nxt c }
  (List.range 48).foldl (fun s k =>
    let c := old.getD k CseCell.init
    if nxt c = c.starved then s else s.logEvent 2 130 k 0x13 (b2n c.starved + 256 * b2n (nxt c))) s

/-- A number cut to an unsigned field of w bits. -/
def satU (w : Nat) (i : Int) : Nat := min i.toNat (2 ^ w - 1)

/-- The cell with the largest U. -/
def worstCell (l : List CseCell) : Nat :=
  let m := (l.map (·.u)).foldl max 0
  ((List.range l.length).find? fun k => (l.getD k CseCell.init).u = m).getD 0

/-- The entries of R82 written to the cell registers. -/
def State.cseEntry (s : State) (k soc u cap r0 temp ic id flags : Nat) : State :=
  s.wrAll [(CSE_CELL_SOC k, soc), (CSE_CELL_U k, u), (CSE_CELL_CAP k, cap), (CSE_CELL_R0 k, r0), (CSE_CELL_TEMP k, temp),
    (CSE_CELL_ICHG k, ic), (CSE_CELL_IDIS k, id), (CSE_CELL_FLAGS k, flags)]

/-- The flags of a cell entry (R82). -/
def State.cseFlags (s : State) (c : CseCell) : Nat :=
  let st := s.rd CSE_STATUS_STATE
  b2n c.eoc + 2 * b2n c.eod + 4 * b2n c.starved + 8 * b2n (st = 1 || st = 2) + 16 * b2n c.jump + 32 * b2n c.tempSub +
    64 * b2n c.compCap + 128 * b2n c.bad + 256 * s.rd CSE_STATUS_SEG_DOUBT

/-- R95: a learned value has moved since the last confirmed commit. -/
def CseCell.moved (c : CseCell) : Bool :=
  c.refCap / 200 ≤ absQ (c.cap - c.refCap) || c.refR0 / 50 ≤ absQ (c.r0 - c.refR0) ||
    c.refTau / 10 ≤ absQ (c.tau - c.refTau)

/-- The status bits and module values of an update (R82, R89, R92, R95). -/
def State.cseModule (s : State) (x : CseIn) : State :=
  let cs := s.cse.cells
  let sop := cs.mapIdx fun k c => s.cseSop x k c
  let ic := (sop.map (·.1)).foldl min (chU x.b 18 / 10)
  let id := (sop.map (·.2.1)).foldl min (chU x.b 20 / 10)
  let pc := ic * (sop.map fun e => e.2.2.1 + e.2.2.2 * ic).foldl (· + ·) 0
  let pd := id * (sop.map fun e => e.2.2.1 - e.2.2.2 * id).foldl (· + ·) 0
  let st := s.rd CSE_STATUS_STATE
  let d : Rat := if st = 1 || st = 2 then (s.rd CSE_SOP_CFG_DERATE : Nat) / 256 else 1
  let w := worstCell cs
  let um := (cs.getD w CseCell.init).u
  let req : Rat := (s.rd CSE_UNC_CFG_U_REQ : Nat) / 100
  let rq := if req ≤ um then true else if um ≤ req - 1 then false else s.on CSE_STATUS_REST_REQ
  let lrn := st = 3 && cs.any CseCell.moved
  let s := s.wrAll [(CSE_STATUS_REST_REQ, b2n rq), (CSE_STATUS_STARVED, b2n (cs.any (·.starved))),
    (CSE_STATUS_EOC_ANY, b2n (cs.any (·.eoc))), (CSE_STATUS_EOD_ANY, b2n (cs.any (·.eod))), (CSE_STATUS_WORST_CELL, w),
    (CSE_MOD_SOP_ICHG, satU 16 (roundQ (10 * d * ic))), (CSE_MOD_SOP_IDIS, satU 16 (roundQ (10 * d * id))),
    (CSE_MOD_SOP_PCHG, satU 16 (roundQ (d * pc / 10))), (CSE_MOD_SOP_PDIS, satU 16 (roundQ (d * pd / 10))),
    (CSE_UMAX_U_MAX, satU 16 (roundQ (100 * um))), (CSE_UMAX_CELL, w)]
  let s := if lrn then s.set1 CSE_STATUS_LRN_CHG else s
  let s := if cs.any (·.jump) then s.set1 CSE_ERR_SOC_JUMP else s
  let s := if cs.any (·.tempSub) then s.set1 CSE_ERR_TEMP_SUB else s
  let s := if cs.any (·.compCap) then s.set1 CSE_ERR_COMP_CAP else s
  (List.range 48).foldl (fun s k =>
    let c := cs.getD k CseCell.init
    let p := sop.getD k (0, 0, 0, 0)
    let t := x.t.getD k 0
    s.cseEntry k (satU 16 (roundQ (100 * c.soc))) (satU 16 (roundQ (100 * c.u))) (satU 16 (roundQ (100 * c.cap)))
      (satU 16 (roundQ (1000000 * c.r0At x.b t))) (ofSigned 16 (satSigned 16 (roundQ (100 * t))))
      (satU 16 (roundQ (10 * p.1))) (satU 16 (roundQ (10 * p.2.1))) (s.cseFlags c)) s

/-- The entry of cell k as the registers hold it: 16 bytes. -/
def State.cseEntryBytes (s : State) (k : Nat) : Bytes :=
  [CSE_CELL_SOC k, CSE_CELL_U k, CSE_CELL_CAP k, CSE_CELL_R0 k, CSE_CELL_TEMP k, CSE_CELL_ICHG k, CSE_CELL_IDIS k,
    CSE_CELL_FLAGS k].flatMap fun f => bytesOf 2 (s.rd f)

/-- The cell-state payload of R82: header and 48 entries, 25 words. -/
def State.csePayload (s : State) (id : Nat) : Bytes :=
  let rest := if s.on CSE_STATUS_REST_REQ then s.rd CSE_RLX_CFG_RLX_REQ_T else 0
  bytesOf 32 (id % 2 ^ 32 + (s.word CSE_STATUS_STATE.addr % 2 ^ 16) <<< 32 + s.rd CSE_STATUS_WORST_CELL <<< 48 +
    s.rd CSE_MOD_SOP_ICHG <<< 64 + s.rd CSE_MOD_SOP_IDIS <<< 80 + s.rd CSE_MOD_SOP_PCHG <<< 96 +
    s.rd CSE_MOD_SOP_PDIS <<< 112 + rest <<< 128 + s.rd CSE_UMAX_U_MAX <<< 144) ++
  (List.range 48).flatMap s.cseEntryBytes

/-- An update is due on the last published sweep: every (DIV + 1)-th since the last update, and in START each until a valid
one comes (R82, R106). -/
def State.cseDue (s : State) : Bool :=
  let st := s.rd CSE_STATUS_STATE
  s.chainOn && 1 ≤ s.cse.since && (st = 1 || ((st = 2 || st = 3) && s.rd CSE_CTRL_DIV + 1 ≤ s.cse.since))

/-- One update on the last published sweep (R82 to R95, R98). -/
def State.cseUpdate (s : State) : State :=
  let x := s.cseIn
  let valid := x.bad.any (!·)
  let first := s.rd CSE_STATUS_STATE = 1
  let s := s.cseLasting.modCells fun _ c => { c with jump := false }
  let s := (if first then s.cseFirst x else s.cseCount x).modCse CseState.counted
  let s := if s.cse.woken && valid then s.cseAfterWake x else s
  let s := ((((s.cseRest x).cseQuiet x).cseR0 x).cseEnds x).cseStarved
  let s := s.cseModule x
  let id := s.rd SCH_SWEEP_ID_ID
  s.modCse fun c => { c with lastT := some x.now, payload := some (id, s.csePayload id) }

/-- CSE_UPDATE (R82): an update that is due; in START a sweep without a valid cell is passed over. -/
def execCseUpdate (s : State) : Out :=
  done (if s.cseDue then
    if s.rd CSE_STATUS_STATE = 1 && s.cseIn.bad.all id then s.modCse CseState.counted else s.cseUpdate
  else s)

/-! ### States (R96, R97, R106) -/

/-- Every cell entry BAD, every limit 0. -/
def State.cseDark (s : State) : State :=
  let s := s.wrAll [(CSE_MOD_SOP_ICHG, 0), (CSE_MOD_SOP_IDIS, 0), (CSE_MOD_SOP_PCHG, 0), (CSE_MOD_SOP_PDIS, 0)]
  let s := s.modCells fun _ c => { c with bad := true }
  (List.range 48).foldl (fun s k =>
    s.wrAll [(CSE_CELL_FLAGS k, s.rd (CSE_CELL_FLAGS k) ||| 128), (CSE_CELL_ICHG k, 0), (CSE_CELL_IDIS k, 0)]) s

/-- RUN written (R106). It stays as it is where the sweeps are too close together (R82). -/
def State.cseRun (s : State) (run : Bool) : State :=
  let was := s.on CSE_CTRL_RUN
  if run && !was && !cadenceOk (s.rd CSE_CTRL_DIV) (s.rd SCH_GRID_PERIOD_PERIOD) then s.set1 CSE_ERR_CFG_REJ else
  let s := s.wrB CSE_CTRL_RUN run
  if run && !was then
    (s.wr CSE_STATUS_STATE 1).modCse fun _ => CseState.init
  else if !run && was then
    (s.cseDark.wr CSE_STATUS_STATE 0).modCse fun c => { c with payload := none }
  else s

/-- CSE_RUN (R106). -/
def execCseRun (run : Bool) (s : State) : Out := done (whenLive s fun s => s.cseRun run)

/-- The current has been within HIB_I for HIB_T minutes without a break (R96). -/
def State.hibDue (s : State) : Bool :=
  match s.cse.hibT with
  | some a => decide (((60 * s.rd CSE_HIB_CFG_HIB_T : Nat) : Rat) ≤ a)
  | none => false

/-- HIBERNATE_ENTRY (R96). -/
def execHibernateEntry (s : State) : Out :=
  done (whenLive s fun s =>
    if s.on CSE_CTRL_HIB_EN && s.rd CSE_STATUS_STATE = 3 && s.hibDue then
      let s := s.cseDark.wr CSE_STATUS_STATE 4
      let s := s.modCse fun c =>
        { c with hibAt := some s.now, win := none, restT := none, fulls := 0, high := false, hibT := none, payload := none }
      (s.cfeStateCmd (if s.on CSE_CTRL_FE_MODE then 0x11 else 0x10)).1
    else s)

/-- R97: the engine wakes: U widened for the span, which ends with the wake, and the link restarted; what follows until the
first valid frame is a gap. -/
def State.cseWake (s : State) : State :=
  if s.rd CSE_STATUS_STATE = 4 then
    let thr := s.rd CFE_SNOW_CFG_SHUNT_THR
    let h : Rat := ((s.now - s.cse.hibAt.getD s.now : Nat) : Rat) / 1000000000 / 3600
    let amp : Rat := if thr = 0 then (s.rd CSE_ERR_CFG_I_GAP : Nat) / 10 else (thr : Rat) / 4000 / s.rsh
    let s := if thr = 0 && 1000000 < s.now - s.cse.hibAt.getD s.now then s.set1 CSE_ERR_GAP else s
    let s := s.modCells fun _ c => { c with u := min 50 (c.u + amp * h / c.cap * 100) }
    let span := s.now - s.cse.hibAt.getD s.now
    let s := (s.wr CSE_STATUS_STATE 3).modCse fun c =>
      { c with woken := true, hibAt := none, lastT := c.lastT.map (· + span), seen := some s.now, gapRun := 0 }
    (s.cfeEnable false).cfeEnable true
  else s

/-- ENGINE_WAKE (R97): WAKE from the front end. -/
def execEngineWake (s : State) : Out := done (whenLive s State.cseWake)

/-- CSE_WAKE_NOW (R97): CSE_CTRL.WAKE_NOW written. -/
def execCseWakeNow (s : State) : Out := done (whenLive s State.cseWake)

/-- WAKE (R97, R262): a wake item handed over on the fabric. -/
def execWakeItem (s : State) : Out :=
  done (whenLive s fun s =>
    match s.takeHanded 3 with
    | (s, some _) => s.cseWake
    | (s, none) => s)

/-- A write to a register of the block (R82, R89, R107). What the state refuses is refused whatever the value (R307). -/
def State.writeCse (s : State) (l : RegLoc) (v : Nat) : State × WRes :=
  let ctrl := l.row.name = "CSE_CTRL"
  if s.on CSE_CTRL_RUN && (l.row.name = "CSE_SHUNT_CFG" || (ctrl && b2n (bit v 4) ≠ s.rd CSE_CTRL_CHG_POS)) then
    (s.set1 CSE_ERR_CFG_REJ, .state)
  else if !l.inRange v || (ctrl && !cadenceOk (bits v 8 8) (s.rd SCH_GRID_PERIOD_PERIOD)) then (s.set1 CSE_ERR_CFG_REJ, .range)
  else if ctrl then
    let s := (s.wrReg l ((v - b2n (bit v 0)) + s.rd CSE_CTRL_RUN)).cseRun (bit v 0)
    (if bit v 5 then s.cseWake else s, .ok)
  else if l.row.name = "CSE_UNC_CFG" &&
      !(100 ≤ bits v 0 16 && bits v 0 16 < bits v 16 16 && bits v 16 16 ≤ 5000) then (s.set1 CSE_ERR_CFG_REJ, .range)
  else (s.wrReg l v, .ok)

/-! ### Sweep frames (R76, R82, R96) -/

/-- A cell-state payload with every cell BAD and limits 0 (R96). -/
def State.hibPayload (s : State) : Bytes := s.csePayload (s.rd SCH_SWEEP_ID_ID)

/-- SWEEP_FRAME_SEND (R82, R259): S + D_n + 250 µs of the last published sweep. -/
def execSweepFrameSend (s : State) : Out :=
  done (whenWorks s fun s =>
    if s.on ZFB_STATUS_ASSIGNED && s.on CFE_STATUS_PRESENT && s.sch.last ≠ none then
      let id := s.rd SCH_SWEEP_ID_ID
      let cell := if s.rd CSE_STATUS_STATE = 4 then s.hibPayload
        else match s.cse.payload with
          | some (i, b) => if i = id then b else []
          | none => []
      let h : ZHdr := { cls := 3, dst := s.cid, dstDom := s.rd ZFB_ID_DOMAIN, blocks := 0, tag := id }
      let f : ZFrame := { hdr := h, words := payWords (sweepPayload id s.sch.records ++ cell) }
      let s := s.modZfb fun z => { z with sweeps := ((id, f) :: z.sweeps).take 16 }
      s.sendFrame false f
    else s)

/-! ### Restore, replacement and commits (R99 to R105) -/

/-- The UID of the module as a number. -/
def ownUid : Nat := Config.uid.toNat

/-- The learned values of one cell in a record: C, R0_25, tau, u_c (R101). -/
def recCell (b : Bytes) (k : Nat) : Rat × Rat × Rat × Rat :=
  let o := 32 + 6 * k
  ((field b o 2 : Nat) / 100, (field b (o + 2) 2 : Nat) / 1000000, (field b (o + 4) 1 : Nat), (field b (o + 5) 1 : Nat) / 1000)

/-- A record that holds the defaults of R98 for every cell. -/
def recDefault (chem b : Bytes) : Bool :=
  (List.range 48).all fun k =>
    recCell b k = ((chU chem 0 / 100, chU chem 2 / 1000000, (roundQ (chU chem 6 / 10) : Rat), 1 / 5) : Rat × Rat × Rat × Rat)

/-- The 11 words of a record as a command carries them: 36 bytes each; none where one fails its Pip check. -/
def recOfParams (p : Bytes) : Option Bytes :=
  (List.range 11).foldl (fun b k => b.bind fun l =>
    (pipData { data := slice p (36 * k) 32, chk := slice p (36 * k + 32) 4 }).map fun d => l ++ d) (some [])

/-- A symbol of the words was corrected (R103). -/
def recCorrected (p : Bytes) : Bool :=
  (List.range 11).any fun k =>
    match pipDecode { data := slice p (36 * k) 32, chk := slice p (36 * k + 32) 4 } with
    | .corrected _ _ => true
    | _ => false

/-- The restored interval of cell k does not overlap the running one (R100). -/
def CseCell.apart (c : CseCell) (soc u : Rat) : Bool := soc + u < c.soc - c.u || c.soc + c.u < soc - u

/-- CSE_RESTORE's effect on a module in UNRESTORED (R99, R100, R319, R417): statuses are OK 0, CHECK_FAILED 2, STATE_REFUSED 3
and BAD_ENTRY 5. Where the restored interval of a cell and its own do not overlap, the restored one stands
(notes/assumptions/17.md). -/
def State.cseRestore (s : State) (p : Bytes) : State × Nat :=
  let s := if recCorrected (p.drop 200) then s.cmdLog 2 7 0 0x0701 0 else s
  match recOfParams (p.drop 200) with
  | none => (s, 2)
  | some b =>
    if !recordOk b then (s, 2)
    else if recUid b ≠ ownUid || s.rd CSE_STATUS_STATE ≠ 2 then (s, 3)
    else if 32768 ≤ recSlot b then (s, 5)
    else
      let iGap : Rat := (s.rd CSE_ERR_CFG_I_GAP : Nat) / 10
      let h : Rat := ((s.now - field p 0 8 : Nat) : Rat) / 1000000000 / 3600
      let soc := fun k : Nat => ((field p (8 + 4 * k) 2 : Nat) : Rat) / 100
      let u := fun k : Nat => min 50 (((field p (10 + 4 * k) 2 : Nat) : Rat) / 100 + iGap * h / (recCell b k).1 * 100)
      let far := ((List.range 48).filter fun k => (s.cse.cells.getD k CseCell.init).apart (soc k) (u k)).length
      if 8 ≤ far then (s.wr CSE_STATUS_SEG_DOUBT 1, 3)
      else
        let s := s.modCells fun k c =>
          let r := recCell b k
          let c := { c with cap := r.1, r0 := r.2.1, tau := r.2.2.1, uc := r.2.2.2, refCap := r.1, refR0 := r.2.1, refTau := r.2.2.1 }
          c.meet (soc k) (u k)
        let s := if s.cse.cells.any (·.jump) then s.set1 CSE_ERR_SOC_JUMP else s
        let s := if recDefault s.chem b then s.set1 CSE_ERR_REC_NONE else s
        ((s.wr CSE_STATUS_SEG_DOUBT 0).wr CSE_STATUS_STATE 3, 0)

/-- R100: the segment declared new to a module in UNRESTORED. -/
def State.cseDeclareNew (s : State) : State :=
  ((s.modCells fun _ c => c.defaults s.chem).wr CSE_STATUS_SEG_DOUBT 0).wr CSE_STATUS_STATE 3

/-- The words of a record about their cells (R101). -/
def recordBytes (uid slot gen seq now : Nat) (cell : Nat → Bytes) : Bytes :=
  bytesOf 32 (seq + uid % 2 ^ 64 <<< 32 + slot % 2 ^ 20 <<< 96 + gen % 2 ^ 16 <<< 116 + 1 <<< 132 + now % 2 ^ 64 <<< 140) ++
    (List.range 48).flatMap cell ++ bytesOf 32 (seq + 0xA55AC33C <<< 32)

/-- A record for a SLOT with nothing learned: the defaults of R98 (R105). -/
def State.newRecord (s : State) (uid slot gen seq : Nat) : Bytes :=
  let b := s.chem
  recordBytes uid slot gen seq s.now fun _ =>
    bytesOf 2 (field b 0 2) ++ bytesOf 2 (field b 2 2) ++ bytesOf 1 (max 1 (satU 8 (roundQ (chU b 6 / 10)))) ++ bytesOf 1 200

/-- The cell entry that the endpoint table holds for cell k of a SLOT, with the sweep of its update (R406); none where no
update has written one. -/
def State.cellEntry (s : State) (slot k : Nat) : Option (Nat × Nat) :=
  (s.endpointOf slot k).bind fun e =>
    let w := s.wordAt (endpointAt e + 32)
    if bits w 0 160 = 0 then none else some (bits w 0 128, bits w 128 32)

/-- The record that a commit programs for a SLOT: the module's own learned values when it is the segment's. Of another module
the endpoint table gives C; the rest of its learned values reaches the coordinator by no stated way and is free
(notes/assumptions/18.md). -/
def State.commitBytes (s : State) (uid slot gen seq : Nat) : Bytes :=
  recordBytes uid slot gen seq s.now fun k =>
    if uid = ownUid then
      let c := s.cse.cells.getD k CseCell.init
      bytesOf 2 (satU 16 (roundQ (100 * c.cap))) ++ bytesOf 2 (satU 16 (roundQ (1000000 * c.r0))) ++
        bytesOf 1 (max 1 (satU 8 (roundQ c.tau))) ++ bytesOf 1 (satU 8 (roundQ (1000 * c.uc)))
    else
      let f := s.free + 4 * k
      bytesOf 2 (match s.cellEntry slot k with | some e => bits e.1 32 16 | none => Config.freeNat f % 2 ^ 16) ++
        bytesOf 2 (Config.freeNat (f + 1) % 2 ^ 16) ++ bytesOf 1 (1 + Config.freeNat (f + 2) % 255) ++
        bytesOf 1 (Config.freeNat (f + 3) % 2 ^ 8)

/-- R95: the commit of this module's own record confirmed. -/
def State.cseConfirm (s : State) : State :=
  (s.wr CSE_STATUS_LRN_CHG 0).modCells fun _ c => { c with refCap := c.cap, refR0 := c.r0, refTau := c.tau }

/-- The index at which this half keeps the record of a SLOT (R417). -/
def State.recIndex (s : State) (slot : Nat) : Option Nat :=
  learnedIndex s.half2 slot

/-- The node that the map shows at a SLOT. -/
def State.nodeAt (s : State) (slot : Nat) : Option RollNode := s.zfb.map.find? fun n => Config.slotOfNode n.id = slot

/-- A record committed for a SLOT with one more than its SEQ (R102): the SEQ used. -/
def State.commitSlot (s : State) (slot : Nat) : State × Option Nat :=
  match s.recIndex slot with
  | none => (s, none)
  | some i =>
    let s := s.learnedRead i
    let old := s.learned i
    let seq := (match old with | some r => r.1 | none => 0) + 1
    let uid := match old with
      | some r => recUid r.2
      | none => match s.nodeAt slot with
        | some n => n.uid.toNat | none => ownUid
    let gen := match old with | some r => recGen r.2 | none => 0
    let s' := s.commitRecord i (s.commitBytes uid slot gen seq)
    let s' := { s' with free := s'.free + 192 }
    (if uid = ownUid then s'.cseConfirm else s', some seq)

/-- MIN_COMMIT hours have passed since the instant of the slot's record (R102). -/
def State.commitDue (s : State) (slot : Nat) : Bool :=
  match (s.recIndex slot).bind s.learned with
  | some r => 3600000000000 * s.rd CSE_LRN_CFG_MIN_COMMIT ≤ s.now - bits (field r.2 0 32) 140 64
  | none => true

/-- This module's own segment SLOT. -/
def State.ownSlot (s : State) : Nat := Config.slotOfNode (s.rd ZFB_ID_NODE_ID)

/-- MOD_FLAGS of the newest cell-state payload from a SLOT (R82). -/
def State.modFlags (s : State) (slot : Nat) : Nat :=
  match aGet slot s.hlm.pay with
  | some h => bits h.2 32 16
  | none => 0

/-- LRN_CHG of the module at a SLOT, this one's from its register. -/
def State.lrnChg (s : State) (slot : Nat) : Bool :=
  if slot = s.ownSlot then s.on CSE_STATUS_LRN_CHG else (s.modFlags slot).testBit 5

/-- LEARNED_RECORD_COMMIT (R95, R102): at the coordinator a segment whose LRN_CHG is set is due once MIN_COMMIT hours have
passed. At a module that is not the coordinator it is the confirmation of its own record's commit
(notes/assumptions/18.md). -/
def execLearnedRecordCommit (slot : Nat) (s : State) : Out :=
  done (whenWorks s fun s =>
    if s.holds then (if s.commitDue slot && s.lrnChg slot then (s.commitSlot slot).1 else s)
    else if slot = s.ownSlot then s.cseConfirm else s)

/-! ### The coordinator's restores (R99, R100) -/

/-- A command as a mailbox frame carries it (R304, R306). -/
def mkCmd (op seq : Nat) (p : Bytes) : Bytes :=
  let head := fun check : Nat =>
    bytesOf 2 op ++ bytesOf 2 seq ++ bytesOf 2 p.length ++ bytesOf 2 0 ++ bytesOf 4 check ++ bytesOf 4 0
  head (crc32 (head 0 ++ p)) ++ p

/-- The parameters of CSE_RESTORE for a SLOT (R319): the instant and each cell's SOC and U by the endpoint table, and the
record. A cell without an entry goes as 50 % ± 50 % (notes/assumptions/18.md). -/
def State.restoreParams (s : State) (slot : Nat) (b : Bytes) : Bytes :=
  let es := (List.range 48).map (s.cellEntry slot)
  let at_ := match es.findSome? id with
    | some e => s.sweepAt (s.sweepOfId e.2)
    | none => s.now
  bytesOf 8 at_ ++ (es.flatMap fun e => match e with
    | some e => bytesOf 4 (e.1 % 2 ^ 32)
    | none => bytesOf 2 5000 ++ bytesOf 2 5000) ++
  (List.range 11).flatMap fun k => let w := pipEncode (slice b (32 * k) 32); w.data ++ w.chk

/-- The module of a SLOT at a node sent its restore, with its record or, where no slot is valid, the defaults (R99, R103);
this module restores itself. -/
def State.sendRestore (s : State) (slot node : Nat) : State :=
  match s.recIndex slot with
  | none => s
  | some i =>
    let s := s.learnedRead i
    let uid := match s.nodeAt slot with | some n => n.uid.toNat | none => ownUid
    let b := match s.learned i with | some r => r.2 | none => s.newRecord uid slot 0 1
    let p := s.restoreParams slot b
    let s := s.modZfb fun z => { z with restored := slot :: z.restored.filter (· ≠ slot) }
    if node = s.rd ZFB_ID_NODE_ID then (s.cseRestore p).1
    else
      let h : ZHdr := { cls := 6, dst := node, dstDom := s.rd ZFB_ID_DOMAIN, blocks := 0, aux := 0 }
      s.sendFrame true { hdr := h, words := payWords (mkCmd 0x0701 (s.zfb.seq.getD 6 0) p) }

/-- The coordinator's answer to the flags of a module's payload (R99, R100): one restore for a module that has come to
UNRESTORED, a service decision held open for one in SEG_DOUBT. A REPLACED slot waits for its decision. -/
def State.watchModule (s : State) (slot node flags : Nat) : State :=
  if !s.holds then s
  else if flags % 8 ≠ 2 then s.modZfb fun z => { z with restored := z.restored.filter (· ≠ slot) }
  else if flags.testBit 6 then
    if s.zfb.doubt.contains slot then s
    else (s.drawChal slot).modZfb fun z =>
      { z with doubt := slot :: z.doubt, passed := z.passed.filter (· ≠ slot) }
  else if s.zfb.replaced.contains slot || s.zfb.doubt.contains slot || s.zfb.restored.contains slot then s
  else s.sendRestore slot node

/-- SWEEP_FRAME_RECEIVE (R259, R260, R407): the sweep frame delivered last, at a group member. A restore is formed before the
frame's own entries reach the table. -/
def execSweepFrameReceive (s : State) : Out :=
  done (whenLive s fun s =>
    match s.zfb.deliv with
    | some (_, f) =>
      if f.hdr.cls = 3 && s.on ZFB_STATUS_GROUP then
        let s := s.modZfb fun z => { z with deliv := none }
        if s.zfb.got.contains (f.hdr.src, f.hdr.tag) then s
        else
          let s := s.modZfb fun z => { z with got := ((f.hdr.src, f.hdr.tag) :: z.got).take 524288 }
          let due := s.sweepAt (s.sweepOfId f.hdr.tag) + 1000 * s.rd ZFB_SWEEP_CFG_DUE
          let late := f.hdr.late || due < s.now
          let s := if late then s.set1 ZFB_ERR_LATE_RX else s
          let b := f.words.flatMap fun w => (pipData w).getD []
          let s := if 544 < b.length then s.watchModule (Config.slotOfNode f.hdr.src) f.hdr.src (bits (field b 544 32) 32 16) else s
          s.endpointFrame f.hdr.src f.hdr.tag b late
      else s
    | none => s)

/-! ### Replacement (R104, R105) -/

/-- The 35 bytes of R104. -/
def replMsg (ch : Bytes) (uid slot gen seq : Nat) : Bytes :=
  [0x43] ++ slice ch 0 16 ++ bytesOf 8 uid ++ bytesOf 4 slot ++ bytesOf 2 gen ++ bytesOf 4 seq

/-- A SLOT awaits a service decision: REPLACED or in SEG_DOUBT. -/
def State.undecided (s : State) (slot : Nat) : Bool := s.zfb.replaced.contains slot || s.zfb.doubt.contains slot

/-- The answer to the challenge of a SLOT is the one that its module's key gives (R104). -/
def State.replOk (s : State) (slot : Nat) (reply : Bytes) : Bool :=
  match aGet slot s.zfb.chal, s.nodeAt slot, (s.recIndex slot).bind s.learned with
  | some ch, some n, some r =>
    (match s.keyOf n.uid with
     | some key => reply = hmac key (replMsg ch n.uid.toNat slot (recGen r.2) r.1)
     | none => false)
  | _, _, _ => false

/-- REPLACEMENT_CHALLENGE (R104): at the module challenged, the answer under its device key; at the coordinator, an answer
checked; at the module again, the verdict returned. After a wrong answer a fresh challenge is drawn
(notes/assumptions/18.md). -/
def execReplacementChallenge (m : ReplMsg) (s : State) : Out :=
  done (whenLive s fun s =>
    match m with
    | .challenge ch slot gen seq =>
      (match s.mbx.devKey with
       | some key => s.modCse fun c => { c with answer := some (hmac key (replMsg ch ownUid slot.toNat gen.toNat seq.toNat)) }
       | none => s)
    | .answer slot reply =>
      let slot := slot.toNat
      if s.holds && s.undecided slot then
        if s.replOk slot reply then
          s.modZfb fun z => { z with passed := slot :: z.passed.filter (· ≠ slot), verdict := some (slot, 0) }
        else ((s.logEvent 2 6 slot 2 0).drawChal slot).modZfb fun z => { z with verdict := some (slot, 2) }
      else s
    | .verdict ok => if ok then s else s.errLog CSE_ERR_AUTH_FAIL 0)

/-- The module's own engine can be declared new by a service command given to it (R100, R319): in UNRESTORED, with no decision
open for its segment here. -/
def State.declarable (s : State) (slot : Nat) : Bool :=
  s.rd CSE_STATUS_STATE = 2 && (!s.holds || (slot = s.ownSlot && !s.undecided slot))

/-- A decision on a SLOT is refused because of state (R105). MIN_COMMIT holds for these commits too (R102). -/
def State.serviceRefused (s : State) (slot decision : Nat) : Bool :=
  !(decision = 2 && s.declarable slot) &&
    (!s.holds || !s.zfb.passed.contains slot || !s.commitDue slot || (s.nodeAt slot).isNone)

/-- CSE_SERVICE's effect (R100, R105): BAD_ENTRY 5 for another DECISION. -/
def State.cseService (s : State) (slot decision : Nat) : State × Nat :=
  if decision ≠ 1 && decision ≠ 2 then (s, 5)
  else if s.serviceRefused slot decision then (s, 3)
  else if decision = 2 && s.declarable slot then (s.cseDeclareNew, 0)
  else
    match s.recIndex slot, s.nodeAt slot with
    | some i, some n =>
      let s := s.learnedRead i
      let old := s.learned i
      let seq := (match old with | some r => r.1 | none => 0) + 1
      let gen := match old with | some r => recGen r.2 | none => 0
      let b := match decision, old with
        | 1, some r => bytesOf 4 seq ++ bytesOf 8 n.uid.toNat ++ (recWithSeq r.2 seq).drop 12
        | _, _ => s.newRecord n.uid.toNat slot (gen + 1) seq
      let s := s.commitRecord i b
      let s := s.modZfb fun z =>
        { z with replaced := z.replaced.filter (· ≠ slot), doubt := z.doubt.filter (· ≠ slot),
                 chal := z.chal.filter (·.1 ≠ slot), passed := z.passed.filter (· ≠ slot) }
      (if decision = 1 then s.sendRestore slot n.id
       else if n.uid.toNat = ownUid && s.rd CSE_STATUS_STATE = 2 then s.cseDeclareNew
       else s.modZfb fun z => { z with restored := slot :: z.restored.filter (· ≠ slot) }, 0)
    | _, _ => (s, 5)

end Sys2Proof.Machine
end

