-- ==== Sys2Proof/Machine/Fio.lean ====
section
/-!
DEFINITION. Machine/Fio.lean: field inputs and outputs and their crossing (chapter 16). The field side is
`s.fio.field`; it has the field supply's power and runs whatever the logic side does.
What the spec leaves open here is in notes/assumptions/38.md.
-/
namespace Sys2Proof.Machine

def State.modFio (s : State) (f : FioState → FioState) : State := { s with fio := f s.fio }
def State.modField (s : State) (f : FieldSide → FieldSide) : State :=
  { s with fio := { s.fio with field := f s.fio.field } }

/-! ### Frames (R359, R360) -/

/-- Bits 79:8 of a downlink frame, as a number from bit 0. -/
def fioDownNum (f : FioDown) : Nat := f.seq + f.out <<< 8 + f.opcode <<< 24 + f.addr <<< 32 + f.data <<< 40

def fioDownCrc (f : FioDown) : Nat := crc8 (fioDownNum f) 0 72

/-- A list of fields of w bits each, the first lowest. -/
def packBits (w : Nat) (l : List Nat) : Nat := l.foldr (fun v n => n * 2 ^ w + v % 2 ^ w) 0

/-- The STATE byte of an uplink frame (R360). -/
def fioStateByte (f : FioUp) : Nat :=
  f.state + 4 * b2n f.fsOk + 8 * b2n f.por + 16 * f.discN + 64 * b2n f.syncIn

/-- Bits 295:8 of an uplink frame, as a number from bit 0. -/
def fioUpNum (f : FioUp) : Nat :=
  f.seqEcho + f.inp <<< 8 + f.rb <<< 24 + f.act <<< 40 +
  (f.ovl + f.openW <<< 16 + f.ot <<< 32 + f.disc <<< 48) <<< 56 + fioStateByte f <<< 120 + f.rd <<< 128 +
  f.chg <<< 160 + packBits 5 f.ofs <<< 176 + packBits 2 f.nchg <<< 256

def fioUpCrc (f : FioUp) : Nat := crc8 (fioUpNum f) 0 288

/-! ### Field-held registers (R364) -/

/-- Their word indices in the order in which they are compared. -/
def fieldHeld : List Nat := 0x04 :: (List.range 32).map (0x10 + ·)

/-- The reset value of a field-held word. -/
def fieldRst (idx : Nat) : Nat := if idx = 0x04 then 0x64 else if idx < 0x20 then 0x0BB8 else 0x0064020A

/-- The field side's working copy. -/
def FieldSide.cfg (f : FieldSide) (idx : Nat) : Nat := (aGet idx f.held).getD (fieldRst idx)

/-- RESTART and OPEN_EN of an output in the working copy. -/
def FieldSide.restart (f : FieldSide) (n : Nat) : Bool := bit (f.cfg (0x20 + n)) 8
def FieldSide.openEn (f : FieldSide) (n : Nat) : Bool := bit (f.cfg (0x20 + n)) 9

/-- The logic side's shadow. -/
def State.fioShadow (s : State) (idx : Nat) : Nat := s.word (0x400D0000 + 4 * idx)

def FioState.writePending (c : FioState) : Bool :=
  !c.queue.isEmpty || (match c.op with | some o => o.write | none => false)

/-- FIO_STATUS.PENDING brought up to date. -/
def State.updFioPend (s : State) : State := s.wrB FIO_STATUS_PENDING s.fio.writePending

/-! ### The logic side -/

/-- Synchronising frames begin (R361). -/
def State.fioSync (s : State) : State :=
  s.modFio fun c => { c with syncing := true, mism := 0, answered := true, seq := (c.seq + 1) % 256, op := none }

/-- The output image: the runtime's values on bound channels, FIO_OUT on the others (R352). -/
def State.fioImage (s : State) : Nat :=
  (s.fio.rtOut &&& s.fio.bound) ||| (s.rd FIO_OUT_OUT &&& (0xFFFF ^^^ s.fio.bound))

/-- The image that leaves the logic side (R357, R363). -/
def State.fioOut (s : State) : Nat := if s.permit && s.fio.rewriting = 0 then s.fioImage else 0

/-- The operation of the next command frame: one not yet sent, the next write, or the next comparison (R364). -/
def FioState.nextOp (c : FioState) : HeldOp × List (Nat × Nat) :=
  match c.op, c.queue with
  | some o, q => (o, q)
  | none, (i, d) :: q => ({ write := true, idx := i, data := d, cnt := none }, q)
  | none, [] => ({ write := false, idx := fieldHeld.getD c.scan 0x04, data := 0, cnt := none }, [])

/-- FIO_DOWNLINK_SEND (R357, R359, R361, R364): no frame after a release (R278). An unanswered frame counts as a
mismatch, and two in a row start synchronising. -/
def execFioDownlinkSend (s : State) : Out :=
  done (whenLive s fun s =>
    if !s.on FIO_CTRL_ENABLE || s.rd PRD_STATUS_GATE = 3 then s.modFio fun c => { c with down := none }
    else
      let m := if s.fio.answered then 0 else s.fio.mism + 1
      let s := s.modFio fun c => { c with mism := m }
      let s := if 2 ≤ m && !s.fio.syncing then s.fioSync else s
      if s.fio.syncing then
        let f : FioDown :=
          { sync := true, seq := s.fio.seq, out := 0, opcode := 0, addr := 0, data := 0, crc := 0 }
        s.modFio fun c => { c with sentAt := s.ns32, answered := false, down := some { f with crc := fioDownCrc f } }
      else
        let n := (s.fio.seq + 1) % 256
        let f : FioDown :=
          { sync := false, seq := n, out := s.fioOut, opcode := 0, addr := 0, data := 0, crc := 0 }
        let s := s.modFio fun c => { c with seq := n, sentAt := s.ns32, answered := false }
        let (o, q) := s.fio.nextOp
        if o.cnt = none then
          let g := { f with opcode := if o.write then 1 else 2, addr := o.idx, data := o.data }
          s.modFio fun c =>
            { c with op := some { o with cnt := some n }, queue := q, down := some { g with crc := fioDownCrc g } }
        else s.modFio fun c => { c with down := some { f with crc := fioDownCrc f } })

/-- FIELD_HELD_RESEND (R364). -/
def execFieldHeldResend (s : State) : Out :=
  done (whenLive s fun s => s.modFio fun c => { c with op := c.op.map fun o => { o with cnt := none } })

/-- A write to a field-held register (R364, R366). -/
def State.fioHeldWrite (s : State) (l : RegLoc) (v : Nat) : State × WRes :=
  if !l.inRange v then (s.set1 FIO_ERR_CFG_REJ, .range)
  else
    let s := s.wrReg l v
    let idx := (l.base - 0x400D0000) / 4
    if s.on FIO_STATUS_LINK then
      ((s.modFio fun c => { c with queue := c.queue ++ [(idx, s.fioShadow idx)] }).updFioPend, .ok)
    else (s.set1 FIO_ERR_WR_DROPPED, .ok)

/-- FIELD_HELD_WRITE (R364): register `r` is FIO_CFG, then the input settings, then the output settings. -/
def execFieldHeldWrite (r : Fin 33) (v : BitVec 32) (s : State) : Out :=
  done (whenLive s fun s =>
    match findReg (0x400D0000 + 4 * fieldHeld.getD r 0x04) with
    | some l => (s.fioHeldWrite l v.toNat).1
    | none => s)

/-- FIO_CTRL.ENABLE written (R361, R366). -/
def State.fioEnable (s : State) (b : Bool) : State :=
  let was := s.on FIO_CTRL_ENABLE
  let s := s.wrB FIO_CTRL_ENABLE b
  if b && !was then s.fioSync.modFio fun c => { c with rewriting := 33 }
  else if !b then s.modFio fun c => { c with syncing := false, op := none }
  else s

/-- FIO_ENABLE (R361). -/
def execFioEnable (on : Bool) (s : State) : Out := done (whenLive s fun s => s.fioEnable on)

/-- FIO_OUT written: bits of bound channels are not applied (R352). -/
def State.fioOutWrite (s : State) (v : Nat) : State :=
  let old := s.rd FIO_OUT_OUT
  let b := s.fio.bound
  let s := if (v ^^^ old) &&& b ≠ 0 then s.set1 FIO_ERR_OWN_REJ else s
  s.wr FIO_OUT_OUT ((v &&& (0xFFFF ^^^ b)) ||| (old &&& b))

/-- A bitmap of channel faults taken over from the uplink, each change logged as kind 2 (R495). -/
def State.takeFaults (s : State) (f : Fld) (idx new : Nat) : State :=
  let old := s.rd f
  (List.range 16).foldl (fun s k =>
    if old.testBit k = new.testBit k then s
    else s.stateLog 13 idx k (b2n (old.testBit k)) (b2n (new.testBit k)) 0) (s.wr f new)

/-- The edges of an uplink frame (R353, R360): the answered frame ended 1.76 µs after its send instant (R365). -/
def State.takeEdges (s : State) (f : FioUp) : State :=
  (List.range 16).foldl (fun s n =>
    if f.chg.testBit n then
      let t : Int := s.fio.sentAt + 1760 - 1000 * f.ofs.getD n 0 - 1000 * s.rd (FIO_IN_CFG_DEB n)
      s.wrAll [(FIO_EDGE_T n, (t % 2 ^ 32).toNat), (FIO_EDGE_LEVEL n, b2n (f.inp.testBit n)),
        (FIO_EDGE_CNT n, s.rd (FIO_EDGE_CNT n) + f.nchg.getD n 0)]
    else s) s

/-- An outstanding operation confirmed by an echo (R364). -/
def State.fioConfirm (s : State) (f : FioUp) : State :=
  match s.fio.op with
  | some o =>
    match o.cnt with
    | some c =>
      if (f.seqEcho + 256 - c) % 256 < 128 then
        let s := s.modFio fun c => { c with op := none }
        if o.write then (s.modFio fun c => { c with rewriting := c.rewriting - 1 }).updFioPend
        else if s.fio.writePending then s
        else
          let s := s.modFio fun c => { c with scan := (c.scan + 1) % 33 }
          if f.rd = s.fioShadow o.idx then s
          else
            ((s.set1 FIO_ERR_MISMATCH).modFio fun c =>
              { c with queue := c.queue ++ [(o.idx, s.fioShadow o.idx)] }).updFioPend
      else s
    | none => s
  | none => s

/-- The echo of an uplink frame (R361). -/
def State.fioEcho (s : State) (f : FioUp) : State :=
  if f.seqEcho = s.fio.seq then
    let s := s.modFio fun c => { c with answered := true, mism := 0 }
    if s.fio.syncing then
      (s.modFio fun c =>
        { c with syncing := false, op := none, rewriting := 33,
                 queue := fieldHeld.map fun i => (i, s.fioShadow i) }).updFioPend
    else s
  else s

/-- A new discrepancy on a channel with DISC_REL releases the TOKEN of a holder (R356). -/
def State.discRelease (s : State) (old new : Nat) : State :=
  if (List.range 16).any fun n => new.testBit n && !old.testBit n && s.on (FIO_OUT_CFG_DISC_REL n) then s.release 5 0
  else s

/-- FIO_UPLINK_RECEIVE (R340, R353, R356, R360, R361, R363, R364). -/
def execFioUplinkReceive (f : FioUp) (s : State) : Out :=
  done (whenLive s fun s =>
    if f.crc ≠ fioUpCrc f then (s.set1 FIO_ERR_UP_CRC).satInc FIO_LINK_ERRCNT_UP_CRC_CNT
    else
      let oldDisc := s.rd FIO_FAULT_DISC
      let oldFs := s.on FIO_STATUS_FS_OK
      let s := s.wrAll [(FIO_STATUS_LINK, 1), (FIO_STATUS_STATE, f.state), (FIO_STATUS_FS_OK, b2n f.fsOk),
        (FIO_IN_IN, f.inp), (FIO_IN_RB, f.rb), (FIO_IN_ACT, f.act)]
      let s := if oldFs = f.fsOk then s else s.stateLog 13 4 0 (b2n oldFs) (b2n f.fsOk) 0
      let s := if oldFs && !f.fsOk then s.set1 FIO_ERR_FS_LOW else s
      let s := if f.por then s.errLog FIO_ERR_FIELD_POR 0 else s
      let s := if f.discN ≠ 0 then (s.set1 FIO_ERR_DOWN_REJ).satAdd FIO_LINK_ERRCNT_DOWN_REJ_CNT f.discN else s
      let s := if f.syncIn then s.set1 FIO_ERR_SYNC_IN_ACTIVE else s
      let s := (s.takeFaults FIO_FAULT_OVL 0 f.ovl).takeFaults FIO_FAULT_OPEN 1 f.openW
      let s := (s.takeFaults FIO_FAULT_OT 2 f.ot).takeFaults FIO_FAULT_DISC 3 f.disc
      let s := ((s.takeEdges f).fioConfirm f).fioEcho f
      let s := s.modFio fun c => { c with up := some f, upTick := s.ticks }
      s.evtScan.discRelease oldDisc f.disc)

/-- FIO_LINK_LOST (R363): 100 µs without an uplink frame with a correct CRC. -/
def execFioLinkLost (s : State) : Out :=
  done (whenLive s fun s =>
    if s.on FIO_STATUS_LINK && s.fio.upTick + 25000 ≤ s.ticks then
      let s := (s.wr FIO_STATUS_LINK 0).errLog FIO_ERR_LINK_LOST 0
      if s.on FIO_CTRL_ENABLE then s.fioSync.modFio fun c => { c with rewriting := 33 } else s
    else s)

/-- A write to a register of the block (R366). -/
def State.writeFio (s : State) (l : RegLoc) (v : Nat) : State × WRes :=
  if l.row.name = "FIO_CTRL" then (s.fioEnable (bit v 0), .ok)
  else if l.row.name = "FIO_OUT" then (s.fioOutWrite (v % 65536), .ok)
  else if fieldHeld.contains ((l.base - 0x400D0000) / 4) then s.fioHeldWrite l v
  else (s.wrReg l v, .ok)

/-! ### The field side -/

/-- ACT of R355: what the commands and the protection make of the outputs; off outside ACTIVE and without supply. -/
def FieldSide.applied (f : FieldSide) : Nat :=
  if f.st = 2 && f.fsOk then f.out &&& (0xFFFF ^^^ (f.ovl ||| f.ot)) else 0

/-- The field side with applied states `act` from tick t on. -/
def FieldSide.setAct (f : FieldSide) (t act : Nat) : FieldSide :=
  { f with act := act, actTick := f.actTick.zipIdx.map fun e => if f.act.testBit e.2 = act.testBit e.2 then e.1 else t }

/-- The field side with ACT brought up to date at tick t. -/
def FieldSide.apply (f : FieldSide) (t : Nat) : FieldSide := f.setAct t f.applied

/-- At tick t output n has been in its applied state for k ticks at least. -/
def FieldSide.actFor (f : FieldSide) (n k t : Nat) : Bool := f.actTick.getD n 0 + k ≤ t

/-- OVL_T in ticks, RB_T in ticks, and DEB in ticks of an oscillator that is 2 % fast, in the working copy (R353, R355, R356). -/
def FieldSide.ovlT (f : FieldSide) (n : Nat) : Nat := 250000 * bits (f.cfg (0x20 + n)) 0 8
def FieldSide.rbT (f : FieldSide) (n : Nat) : Nat := 250 * bits (f.cfg (0x20 + n)) 16 10
def FieldSide.debT (f : FieldSide) (n : Nat) : Nat := 245 * bits (f.cfg (0x10 + n)) 0 16

/-- A downlink frame discarded (R361). -/
def FieldSide.discard (f : FieldSide) : FieldSide :=
  if f.st = 0 then f else { f with discN := min (f.discN + 1) 3 }

/-- The answer to a frame accepted now (R360); STATE is filled in as the frame is sent. -/
def FieldSide.mkAnswer (f : FieldSide) (ticks : Nat) : FioUp :=
  { seqEcho := f.seq, inp := f.inp, rb := f.rb, act := f.act, ovl := f.ovl, openW := f.openW, ot := f.ot,
    disc := f.disc, state := 0, fsOk := false, por := false, discN := 0, syncIn := false, rd := f.rd,
    chg := packBits 1 (f.nchg.map fun n => b2n (n ≠ 0)),
    ofs := (List.range 16).map fun n =>
      if f.nchg.getD n 0 = 0 then 0 else min ((ticks - f.chgTick.getD n 0) * 4 / 1000) 31,
    nchg := f.nchg, crc := 0 }

/-- The latches that a frame's commands release with RESTART = 0: a channel commanded off since it latched, and now on
again (R355). -/
def FieldSide.relatch (f : FieldSide) (out : Nat) : FieldSide :=
  (List.range 16).foldl (fun f n =>
    let latched := f.ovl.testBit n || f.ot.testBit n
    if latched && !f.restart n then
      if !out.testBit n then { f with offSeen := f.offSeen ||| 2 ^ n }
      else if f.offSeen.testBit n then
        let m := 0xFFFF ^^^ 2 ^ n
        { f with ovl := f.ovl &&& m, ot := f.ot &&& m, offSeen := f.offSeen &&& m }
      else f
    else f) f

/-- The operation of an accepted frame (R359). -/
def FieldSide.doOp (f : FieldSide) (d : FioDown) : FieldSide :=
  if d.opcode = 1 && fieldHeld.contains d.addr then
    { f with held := aSet (fieldRst d.addr) d.addr d.data f.held }
  else if d.opcode = 2 then { f with rd := if fieldHeld.contains d.addr then f.cfg d.addr else 0 }
  else f

/-- Whether a command frame is accepted (R361). -/
def FieldSide.accepts (f : FieldSide) (d : FioDown) : Bool :=
  f.st = 2 && !d.sync && d.crc = fioDownCrc d && d.opcode ≤ 2 && d.seq = (f.seq + 1) % 256

/-- FIO_COMMAND_FRAME (R355, R361): a downlink frame at the field side, with the read-back as it then stands. -/
def execFioCommandFrame (d : FioDown) (rb : BitVec 16) (s : State) : Out :=
  done (s.modField fun f =>
    if f.accepts d then
      let f := { (f.relatch d.out) with seq := d.seq, out := d.out, rb := rb.toNat, accTick := s.ticks }
      let f := (f.apply s.ticks).doOp d
      { f with answer := some (f.mkAnswer s.ticks), nchg := List.replicate 16 0 }
    else f.discard)

/-- FIO_SYNC_FRAME (R361, R362). -/
def execFioSyncFrame (d : FioDown) (rb : BitVec 16) (s : State) : Out :=
  done (s.modField fun f =>
    if f.st = 0 then f
    else if !d.sync || d.crc ≠ fioDownCrc d then f.discard
    else if f.st = 2 then { f with syncIn := true }
    else
      let f := { (f.setAct s.ticks 0) with st := 2, seq := d.seq, out := 0, rb := rb.toNat, accTick := s.ticks }
      { f with answer := some (f.mkAnswer s.ticks), nchg := List.replicate 16 0 })

/-- FIO_UPLINK_SEND (R360): the answer, with STATE as it stands and the CRC. -/
def execFioUplinkSend (s : State) : Out :=
  let f := s.fio.field
  match f.answer with
  | some a =>
    let a := { a with state := f.st, fsOk := f.fsOk, por := f.por, discN := f.discN, syncIn := f.syncIn }
    let s := s.modFio fun c => { c with up := some { a with crc := fioUpCrc a } }
    done (s.modField fun f => { f with answer := none, por := false, discN := 0, syncIn := false })
  | none => done s

/-- FIO_SILENCE (R362): no frame accepted for SILENCE, the switches off from 1.5 µs before it at the earliest. -/
def execFioSilence (s : State) : Out :=
  done (s.modField fun f =>
    if f.st = 2 && f.accTick + 250 * bits (f.cfg 0x04) 0 9 ≤ s.ticks + 375 then { (f.setAct s.ticks 0) with st := 1, out := 0 } else f)

/-- FIELD_SUPPLY_LOW (R358). -/
def execFieldSupplyLow (s : State) : Out := done (s.modField fun f => { (f.setAct s.ticks 0) with fsOk := false })

/-- FIELD_SUPPLY_GOOD (R358). -/
def execFieldSupplyGood (s : State) : Out :=
  done (s.modField fun f => if f.st = 0 then f else FieldSide.apply { f with fsOk := true } s.ticks)

/-- FIELD_POR (R358, R362): the safety lanes lose their supply too, and start with every output pair OFF (R392). -/
def execFieldPor (s : State) : Out :=
  let t := s.ticks
  let s := { s with saf := { s.saf with
      lanes := List.replicate 2 (SafLane.startAt t), diff := 0, pulse := [none, none], due := [0, 0],
      nextT := List.replicate 4 t, doneT := List.replicate 4 t } }
  done ((s.modField fun _ => FieldSide.init).wr MBX_PWR_STAT_FS_PRESENT 0)

/-- FIELD_SUPPLY_RISE (R362): FS_24V above 12 V. -/
def execFieldSupplyRise (s : State) : Out :=
  done ((if s.fio.field.st = 0 then s.modField fun _ => { FieldSide.init with st := 1, por := true } else s).wr
    MBX_PWR_STAT_FS_PRESENT 1)

/-- INPUT_DEBOUNCE_CHANGE (R353): the raw level has held for DEB samples, which began after the last change. -/
def execInputDebounceChange (n : Fin 16) (raw : Bool) (s : State) : Out :=
  done (s.modField fun f =>
    let v := raw != bit (f.cfg (0x10 + n)) 16
    if f.st = 0 || f.inp.testBit n = v || s.ticks < f.chgTick.getD n 0 + f.debT n then f
    else { f with
      inp := (f.inp &&& (0xFFFF ^^^ 2 ^ n.val)) + b2n v * 2 ^ n.val
      nchg := modAt f.nchg n fun k => min (k + 1) 3
      chgTick := putAt f.chgTick n s.ticks })

/-- OUTPUT_OVERLOAD (R355): the current limit of a switch that is on has stayed engaged for OVL_T. -/
def execOutputOverload (n : Fin 16) (s : State) : Out :=
  done (s.modField fun f =>
    if f.act.testBit n && f.actFor n (f.ovlT n) s.ticks then
      FieldSide.apply { f with ovl := f.ovl ||| 2 ^ n.val, offSeen := f.offSeen &&& (0xFFFF ^^^ 2 ^ n.val) } s.ticks
    else f)

/-- OUTPUT_OVER_TEMP (R355). -/
def execOutputOverTemp (n : Fin 16) (s : State) : Out :=
  done (s.modField fun f =>
    if f.st = 0 then f
    else FieldSide.apply { f with ot := f.ot ||| 2 ^ n.val, offSeen := f.offSeen &&& (0xFFFF ^^^ 2 ^ n.val) } s.ticks)

/-- OUTPUT_RETRY (R355): with RESTART = 1 a latched channel retries, for OVL 100 ms after it switched off; a retry that holds for
OVL_T clears the latch. -/
def execOutputRetry (n : Fin 16) (holds : Bool) (s : State) : Out :=
  done (s.modField fun f =>
    if f.restart n && holds && f.actFor n (f.ovlT n + (if f.ovl.testBit n then 25000000 else 0)) s.ticks then
      let m := 0xFFFF ^^^ 2 ^ n.val
      FieldSide.apply { f with ovl := f.ovl &&& m, ot := f.ot &&& m } s.ticks
    else f)

/-- OPEN_WIRE (R355): the load current has been below (`on`) or at or above 8 mA for 20 ms. -/
def execOpenWire (n : Fin 16) (on : Bool) (s : State) : Out :=
  done (s.modField fun f =>
    if f.openEn n && f.act.testBit n && f.actFor n 5000000 s.ticks then
      { f with openW := (f.openW &&& (0xFFFF ^^^ 2 ^ n.val)) + b2n on * 2 ^ n.val }
    else f)

/-- DISCREPANCY (R356): the read-back has differed from ACT for RB_T (`on`), or equals it again. -/
def execDiscrepancy (n : Fin 16) (on : Bool) (s : State) : Out :=
  done (s.modField fun f =>
    if f.st = 0 || (on && !f.actFor n (f.rbT n) s.ticks) then f
    else { f with disc := (f.disc &&& (0xFFFF ^^^ 2 ^ n.val)) + b2n on * 2 ^ n.val })

end Sys2Proof.Machine
end

