-- ==== Sys2Proof/Machine/Lpe.lean ====
section
/-!
DEFINITION. Machine/Lpe.lean: the loop engine (chapter 9). Q15 values are whole numbers of 2^−15, accumulators of 2^−30.
A sample runs at its command; its output waits for the publish instant (notes/assumptions/23.md).
-/
namespace Sys2Proof.Machine

def State.lp (s : State) (n : Nat) : LpeLoop := s.lpe.loops.getD n LpeLoop.init
def State.modLp (s : State) (n : Nat) (f : LpeLoop → LpeLoop) : State :=
  { s with lpe := { s.lpe with loops := modAt s.lpe.loops n f } }

/-- Loops run in MONITOR and on the unit that holds TOKEN (R17). -/
def State.lpeOn (s : State) : Bool :=
  s.on LPE_CTRL_RUN && s.start.phase = .running && (s.start.role = .monitor || s.holds)

/-- State of a loop: 0 DISABLED, 1 OPEN, 2 CLOSED, 3 FAULT. -/
def State.lst (s : State) (n : Nat) : Nat := s.rd (LPE_LOOP_STAT_STATE n)

/-- Coefficient word c of the active bank, signed. -/
def State.coef (s : State) (n c : Nat) : Int := s.rdS (LPE_LOOP_COEF_ACT_C n c)

/-! ### Arithmetic (R209) -/

/-- A sum in the 40-bit accumulator, term by term. -/
def acc40 (l : List Int) : Int := l.foldl (fun a t => satSigned 40 (a + t)) 0

/-- Q30 to Q15, rounded. -/
def round15 (a : Int) : Int := roundDiv a 32768
def sat15 (a : Int) : Int := satSigned 16 a

/-- Sections or states of a loop. -/
def State.loopN (s : State) (n : Nat) : Nat := s.rd (LPE_LOOP_CFG_SIZE n) + 1

/-- The output of an accumulator (R209), the value before the clamp, and SAT. -/
def State.loopOut (s : State) (n : Nat) (acc : Int) : Int × Int × Bool :=
  let v := round15 (acc * 2 ^ s.rd (LPE_LOOP_CFG_SHIFT n))
  let u := clampI (s.rdS (LPE_LOOP_LIM_UMIN n)) (s.rdS (LPE_LOOP_LIM_UMAX n)) (sat15 v)
  (u, v, u ≠ v)

/-- The inputs of a loop: r, ff, and y or the states x_0 …. -/
structure LpeIn where
  r  : Int
  ff : Int
  ys : List Int

def State.loopIn (s : State) (n : Nat) : LpeIn :=
  let y := s.rd (LPE_LOOP_IO_Y_IDX n)
  let k := if s.rd (LPE_LOOP_CFG_TYPE n) = 2 then s.loopN n else 1
  { r := s.rdS (LPE_PAGE_VALUE (s.rd (LPE_LOOP_IO_R_IDX n))), ff := s.rdS (LPE_PAGE_VALUE (s.rd (LPE_LOOP_IO_FF_IDX n))),
    ys := (List.range k).map fun i => s.rdS (LPE_PAGE_VALUE (y + i)) }

def LpeIn.y (x : LpeIn) : Int := x.ys.getD 0 0

/-- A feedback word of QUAL BAD (R205). -/
def State.loopBad (s : State) (n : Nat) : Bool :=
  let k := if s.rd (LPE_LOOP_CFG_TYPE n) = 2 then s.loopN n else 1
  (List.range k).any fun i => 2 ≤ s.rd (LPE_PAGE_QUAL (s.rd (LPE_LOOP_IO_Y_IDX n) + i))

/-- Anti-windup (R210): the integrator after a sample. -/
def State.windup (s : State) (n : Nat) (v term old new : Int) : Int :=
  if (s.rdS (LPE_LOOP_LIM_UMAX n) < v && 0 < term) || (v < s.rdS (LPE_LOOP_LIM_UMIN n) && term < 0) then old else new

/-- Section k of the biquad: its output from input x and the section's history. -/
def State.section (s : State) (n k : Nat) (x : Int) (h : Int × Int × Int × Int) : Int :=
  let c := fun j => s.coef n (5 * k + j)
  let sh := bits (s.rd (LPE_LOOP_COEF_ACT_C n 21)) (2 * k) 2
  sat15 (2 ^ sh * round15 (acc40 [c 0 * x, c 1 * h.1, c 2 * h.2.1, -(c 3 * h.2.2.1), -(c 4 * h.2.2.2)]))

/-- The sections in turn: the last output, and the histories. -/
def State.sections (s : State) (n : Nat) : Nat → Int → List (Int × Int × Int × Int) → Int × List (Int × Int × Int × Int)
  | _, x, [] => (x, [])
  | k, x, h :: hs =>
    let w := s.section n k x h
    let r := State.sections s n (k + 1) w hs
    (r.1, (x, h.1, w, h.2.2.1) :: r.2)

/-- u_off after a sample. -/
def blendOff (blend off : Int) : Int := roundDiv (blend * off) 32768

/-- One computed sample (R210): output, SAT and what the loop carries on. -/
def State.compute (s : State) (n : Nat) (x : LpeIn) (q : LpeDyn) : Int × Bool × LpeDyn :=
  let c := s.coef n
  match s.rd (LPE_LOOP_CFG_TYPE n) with
  | 0 =>
    let e := x.r - x.y
    let d := acc40 [c 3 * q.d, -(c 2 * (x.y - q.y))]
    let term := c 1 * e
    let ic := satSigned 40 (q.i + term)
    let o := s.loopOut n (acc40 [c 0 * e, ic, d, c 4 * x.ff])
    (o.1, o.2.2, { q with i := s.windup n o.2.1 term q.i ic, d := sat15 (round15 d), y := x.y })
  | 1 =>
    let r := s.sections n 0 (sat15 (x.r - x.y)) (q.hist.take (s.loopN n))
    let o := s.loopOut n (acc40 [r.1 * 2 ^ (15 - s.rd (LPE_LOOP_CFG_SHIFT n)), c 20 * x.ff, q.off])
    (o.1, o.2.2, { q with hist := r.2 ++ q.hist.drop (s.loopN n), off := blendOff (c 22) q.off, y := x.y })
  | _ =>
    let term := c 9 * (x.r - x.y)
    let ic := satSigned 40 (q.i + term)
    let o := s.loopOut n (acc40 ([c 8 * x.r] ++ (x.ys.zipIdx.map fun e => -(c e.2 * e.1)) ++ [ic, c 10 * x.ff, q.off]))
    (o.1, o.2.2, { q with i := s.windup n o.2.1 term q.i ic, off := blendOff (c 11) q.off, y := x.y })

/-! ### The closing hold (R214) -/

/-- The steady state of section k for input x: its output, and whether it has one. -/
def State.steady (s : State) (n k : Nat) (x : Int) : Int :=
  let c := fun j => s.coef n (5 * k + j)
  let sh := bits (s.rd (LPE_LOOP_COEF_ACT_C n 21)) (2 * k) 2
  let den := 32768 + 2 ^ sh * (c 3 + c 4)
  if 32768 + c 3 + c 4 = 0 || den = 0 then x
  else sat15 (roundQ (((2 ^ sh * (c 0 + c 1 + c 2) * x : Int) : Rat) / ((den : Int) : Rat)))

/-- Histories of the sections at their steady state for input x; a section without one is set to x_0. -/
def State.steadyAll (s : State) (n : Nat) (x0 : Int) : Nat → Nat → Int → List (Int × Int × Int × Int)
  | 0, _, _ => []
  | m + 1, k, x =>
    let c := fun j => s.coef n (5 * k + j)
    let w := if 32768 + c 3 + c 4 = 0 then x0 else s.steady n k x
    let x := if 32768 + c 3 + c 4 = 0 then x0 else x
    (x, x, w, w) :: State.steadyAll s n x0 m (k + 1) w

/-- What a loop carries after the hold instant, so that the next sample continues from u_h. -/
def State.holdInit (s : State) (n : Nat) (x : LpeIn) (uh : Int) (q : LpeDyn) : LpeDyn :=
  let c := s.coef n
  let target := uh * 2 ^ (15 - s.rd (LPE_LOOP_CFG_SHIFT n))
  match s.rd (LPE_LOOP_CFG_TYPE n) with
  | 0 => { q with d := 0, y := x.y, i := satSigned 40 (target - c 0 * (x.r - x.y) - c 4 * x.ff), ym := x.y }
  | 1 =>
    let x0 := sat15 (x.r - x.y)
    let h := s.steadyAll n x0 (s.loopN n) 0 x0
    let w := match h.getLast? with | some e => e.2.2.1 | none => x0
    { q with hist := h ++ q.hist.drop (s.loopN n), y := x.y, ym := x.y,
             off := satSigned 40 (target - acc40 [w * 2 ^ (15 - s.rd (LPE_LOOP_CFG_SHIFT n)), c 20 * x.ff]) }
  | _ =>
    let a := acc40 ([c 8 * x.r] ++ (x.ys.zipIdx.map fun e => -(c e.2 * e.1)) ++ [c 10 * x.ff])
    if c 9 ≠ 0 then { q with i := satSigned 40 (target - a), off := 0, y := x.y, ym := x.y }
    else { q with off := satSigned 40 (target - a - q.i), y := x.y, ym := x.y }

/-! ### States (R212) -/

/-- Cost of a loop in 10 ns (R207). -/
def loopCost (typ size : Nat) (sup : Bool) : Nat :=
  (match typ with | 0 => 50 | 1 => 20 + 18 * (size + 1) | _ => 30 + 6 * (size + 1)) + if sup then 14 else 0

/-- The admission sum of the enabled loops but n, in 10 ns. -/
def State.loadBut (s : State) (n : Nat) : Nat :=
  (List.range 64).foldl (fun a k =>
    if k ≠ n && s.on (LPE_LOOP_CFG_EN k) then
      a + loopCost (s.rd (LPE_LOOP_CFG_TYPE k)) (s.rd (LPE_LOOP_CFG_SIZE k)) (s.on (LPE_LOOP_SUP_EN k)) else a) 0

/-- LPE_STATUS and LPE_FAULT brought up to date. -/
def State.lpeShow (s : State) : State :=
  let c := (List.range 64).filter fun n => s.lst n = 2
  let f := (List.range 64).filter fun n => s.lst n = 3
  s.wrAll [(LPE_STATUS_N_CLOSED, c.length), (LPE_STATUS_N_FAULT, f.length), (LPE_STATUS_LOAD, min (s.loadBut 64) 0xFFFF),
    (LPE_FAULT_LOOP, f.foldl (fun a n => a + 2 ^ n) 0)]

/-- A loop's state changed, and the change logged (R217). -/
def State.setLoop (s : State) (n st : Nat) : State := s.wrState (LPE_LOOP_STAT_STATE n) 0 n st

/-- The staging copy becomes the active bank. -/
def State.coefSwap (s : State) (n : Nat) (c : List Nat) : State :=
  (List.range 32).foldl (fun s k => s.wr (LPE_LOOP_COEF_ACT_C n k) (c.getD k 0)) s

/-- The pending bank. -/
def State.coefPend (s : State) (n : Nat) : List Nat := (List.range 32).map fun k => s.rd (LPE_LOOP_COEF_PEND_C n k)

/-- MAN clamped. -/
def State.loopMan (s : State) (n : Nat) : Int :=
  clampI (s.rdS (LPE_LOOP_LIM_UMIN n)) (s.rdS (LPE_LOOP_LIM_UMAX n)) (s.rdS (LPE_LOOP_MAN_MAN n))

/-- A command or enable written at least 2 µs ago (R212). -/
def State.due (s : State) (t : Nat) : Bool := t + 2000 ≤ s.now

/-- EN taken at the loop's instant. -/
def State.takeEn (s : State) (n : Nat) : State :=
  if !s.due (s.lp n).enAt then s
  else if !s.on (LPE_LOOP_CFG_EN n) && s.lst n ≠ 0 then
    ((s.setLoop n 0).modLp n fun l => { l with cmd := none, clear := none, hold := false, out := none })
  else if s.on (LPE_LOOP_CFG_EN n) && s.lst n = 0 then
    let y := (s.loopIn n).y
    ((s.setLoop n 1).modLp n fun l => { l with dyn := { LpeDyn.init with ym := y, y := y }, us := [], manNew := true }).wrAll
      [(LPE_LOOP_STAT_SUP_CNT n, 0), (LPE_LOOP_STAT_SUP_FLAG n, 0)]
  else s

/-- A committed swap (R213, R214), at least 2 µs after its write (R212). -/
def State.takeSwap (s : State) (n : Nat) : State :=
  if s.on (LPE_LOOP_STAT_COMMIT_PEND n) && s.due (s.lp n).swapAt then
    let s := (s.coefSwap n (s.lp n).staging).wr (LPE_LOOP_STAT_COMMIT_PEND n) 0
    if s.lst n = 2 then s.modLp n fun l => { l with hold := true } else s
  else s

/-- OPEN, CLOSE and CLEAR. -/
def State.takeCmd (s : State) (n : Nat) : State :=
  let s := match (s.lp n).clear with
    | some t =>
      if s.due t then
        let s := s.modLp n fun l => { l with clear := none, manNew := if s.lst n = 3 then false else l.manNew }
        if s.lst n = 3 then s.setLoop n 1 else s
      else s
    | none => s
  match (s.lp n).cmd with
  | some (c, t) =>
    if s.due t then
      let s := s.modLp n fun l => { l with cmd := none }
      if c && s.lst n = 1 then (s.setLoop n 2).modLp n fun l => { l with hold := true }
      else if !c && s.lst n = 2 then (s.setLoop n 1).modLp n fun l => { l with manNew := false, hold := false }
      else s
    else s
  | none => s

/-- The residual of this sample (R216), with the model's new value. -/
def State.model (s : State) (n : Nat) (x : LpeIn) (l : LpeLoop) : Int × Int :=
  let u := l.us.getD (s.rd (LPE_LOOP_SUP_DEAD n)) 0
  let ym := sat15 (round15 (acc40 [s.rdS (LPE_LOOP_MODEL_AM n) * l.dyn.ym, s.rdS (LPE_LOOP_MODEL_BM n) * u,
    s.rdS (LPE_LOOP_MODEL_LM n) * (l.dyn.y - l.dyn.ym)]))
  (ym, x.y - ym)

/-- A supervision fault (R216): its report and its event (R340), and by ACT the state FAULT with the output held or safe. -/
def State.supFault (s : State) (n : Nat) (bad : Bool) : State :=
  let s := ((s.errLog LPE_ERR_SUP_FAULT n).satInc LPE_CNT_SUP_CNT).wr (LPE_LOOP_STAT_SUP_FLAG n) 1
  let s := s.evtMark fun d => d.evt = 5 && d.evtArg = n
  let act := s.rd (LPE_LOOP_SUP_ACT n)
  let act := if act = 0 && bad then 1 else act
  if act = 0 then s
  else
    let u := if act = 2 then s.rdS (LPE_LOOP_MODEL_SAFE n) else s.rdS (LPE_LOOP_STAT_U n)
    (s.setLoop n 3).modLp n fun l => { l with out := some (u, 1) }

/-- Computation and the tests of one loop at its instant. -/
def State.loopRun (s : State) (n : Nat) : State :=
  let st := s.lst n
  if st = 0 || st = 3 then s
  else
    let x := s.loopIn n
    let bad := s.loopBad n
    let l := s.lp n
    let m := s.model n x l
    let sup := s.on (LPE_LOOP_SUP_EN n)
    let held := st = 2 && l.hold
    let s := s.wrB (LPE_LOOP_STAT_BAD_IN n) bad
    let s :=
      if held then
        (s.modLp n fun l => { l with dyn := s.holdInit n x (s.rdS (LPE_LOOP_STAT_U n)) l.dyn, hold := false,
                                     out := some (s.rdS (LPE_LOOP_STAT_U n), 0) }).wrAll
          [(LPE_LOOP_STAT_SUP_CNT n, 0), (LPE_LOOP_STAT_SUP_FLAG n, 0), (LPE_LOOP_STAT_SAT n, 0)]
      else if st = 2 then
        let r := s.compute n x l.dyn
        (s.modLp n fun l => { l with dyn := r.2.2, out := some (r.1, 0) }).wrB (LPE_LOOP_STAT_SAT n) r.2.1
      else
        (s.modLp n fun l => { l with dyn := { l.dyn with y := x.y }, manNew := false,
                                     out := if l.manNew then some (s.loopMan n, 0) else none }).wr (LPE_LOOP_STAT_SAT n) 0
    let s := s.wrBit LPE_SAT_LOOP n (s.on (LPE_LOOP_STAT_SAT n))
    if !sup then s
    else
      let ovr := s.rd (LPE_LOOP_SUP_THR n) < m.2.natAbs
      let fire := !held && ovr && s.rd (LPE_LOOP_STAT_SUP_CNT n) + 1 = s.rd (LPE_LOOP_SUP_PERS n)
      let s := if held then s else
        let cnt := if ovr then min (s.rd (LPE_LOOP_STAT_SUP_CNT n) + 1) 255 else 0
        ((s.modLp n fun l => { l with dyn := { l.dyn with ym := m.1 } }).wr (LPE_LOOP_STAT_SUP_CNT n) cnt).wrS (LPE_LOOP_STAT_RES n) (sat15 m.2)
      if bad then s.supFault n true
      else if fire then s.supFault n false
      else s

/-- Loop n samples at the base tick b (R204). -/
def State.releasedAt (s : State) (n : Nat) (b : Int) : Bool :=
  (b - (s.rd (LPE_LOOP_CFG_PH n) : Int)) % ((s.rd (LPE_LOOP_CFG_DIV n) : Int) + 1) = 0

/-- LPE_ORIGIN in ns of epoch:NS32. -/
def State.lpeOrigin (s : State) : Int := (2 ^ 32 * s.rd LPE_ORIGIN_EPOCH + s.rd LPE_ORIGIN_NS32 : Nat)

/-- The base tick of the present instant. -/
def State.baseTick (s : State) : Int := ((s.now : Int) - s.lpeOrigin) / 125000

/-- LOOP_SAMPLE (R204 to R216): the base tick at or before the present instant, once: every loop released at it, in order of index,
from one snapshot of the page. -/
def execLoopSample (s : State) : Out :=
  done (whenLive s fun s =>
    if !s.lpeOn then s
    else
      let b := s.baseTick
      if b < 0 || s.lpe.tick = some b then s
      else
        let s := { s with lpe := { s.lpe with tick := some b } }
        let k := ((List.range 64).filter fun n => s.releasedAt n b && s.on (LPE_LOOP_CFG_EN n)).length
        (((List.range 64).foldl (fun s n =>
          if s.releasedAt n b && (s.on (LPE_LOOP_CFG_EN n) || s.lst n ≠ 0) then
            let s := (s.takeEn n).takeSwap n |>.takeCmd n
            (s.modLp n fun l => { l with
              back := l.dyn, cnt0 := s.rd (LPE_LOOP_STAT_SUP_CNT n), hold0 := l.hold, sampled := s.lst n ≠ 0 }).loopRun n
          else s) s).lpeShow).count 0x0C 0 k)

/-- The output of one loop published. -/
def State.publishLoop (s : State) (n : Nat) : State :=
  match (s.lp n).out with
  | some (u, q) =>
    let k := s.rd (LPE_LOOP_IO_OUT_IDX n)
    (s.modLp n fun l => { l with out := none }).wrAll
      [(LPE_PAGE_VALUE k, ofSigned 16 u), (LPE_PAGE_QUAL k, q), (LPE_LOOP_STAT_U n, ofSigned 16 u)]
  | none => s

/-- A sample that was not computed in time (R208): the loop is as it was before it. -/
def State.loopOverrun (s : State) (n : Nat) : State :=
  let l := s.lp n
  ((((s.modLp n fun l => { l with dyn := l.back, hold := l.hold0, out := none }).wr (LPE_LOOP_STAT_SUP_CNT n) l.cnt0).errLog
    LPE_ERR_OVERRUN n).satInc LPE_CNT_OVR_CNT)

/-- OUT_OFF has passed since the base tick that was sampled last (R206). -/
def State.loopOutDue (s : State) : Bool :=
  match s.lpe.tick with
  | some b => s.lpeOrigin + 125000 * b + 1000 * s.rd LPE_CTRL_OUT_OFF ≤ s.now
  | none => false

/-- LOOP_PUBLISH (R206, R208): L_j + OUT_OFF. `ovr` marks the loops whose computation is not complete. -/
def execLoopPublish (ovr : BitVec 64) (s : State) : Out :=
  done (whenLive s fun s =>
    if !s.lpeOn || !s.loopOutDue then s
    else
      (List.range 64).foldl (fun s n =>
        if !(s.lp n).sampled then s
        else
          let s := if ovr.toNat.testBit n then s.loopOverrun n else s.publishLoop n
          s.modLp n fun l => { l with sampled := false, us := (s.rdS (LPE_LOOP_STAT_U n) :: l.us).take 16 }) s)

/-! ### Commands (R207, R212, R213) -/

/-- EN written (R207, R217). -/
def State.loopEn (s : State) (n : Nat) (en : Bool) : State × WRes :=
  if en = s.on (LPE_LOOP_CFG_EN n) then (s, .ok)
  else if !en then
    (((s.wr (LPE_LOOP_CFG_EN n) 0).modLp n fun l => { l with enAt := s.now }).lpeShow, .ok)
  else
    let clash := (List.range 64).any fun k =>
      k ≠ n && s.on (LPE_LOOP_CFG_EN k) && s.rd (LPE_LOOP_IO_OUT_IDX k) = s.rd (LPE_LOOP_IO_OUT_IDX n)
    let sum := s.loadBut n + loopCost (s.rd (LPE_LOOP_CFG_TYPE n)) (s.rd (LPE_LOOP_CFG_SIZE n)) (s.on (LPE_LOOP_SUP_EN n))
    if 100 * s.rd LPE_CTRL_OUT_OFF < sum + 200 then (s.set1 LPE_ERR_ADMIT_REJ, .state)
    else if clash || (s.rd (LPE_LOOP_CFG_TYPE n) = 2 && 1023 < s.rd (LPE_LOOP_IO_Y_IDX n) + s.rd (LPE_LOOP_CFG_SIZE n)) then
      (s.set1 LPE_ERR_CFG_REJ, .range)
    else (((s.wr (LPE_LOOP_CFG_EN n) 1).modLp n fun l => { l with enAt := s.now }).lpeShow, .ok)

/-- LOOP_EN_WRITE (R207). -/
def execLoopEnWrite (n : Fin 64) (en : Bool) (s : State) : Out := done (whenLive s fun s => (s.loopEn n en).1)

/-- OPEN or CLOSE written: held for the loop's instant, or refused. -/
def State.loopOpenClose (s : State) (n : Nat) (close : Bool) : State × Bool :=
  if s.lst n = 1 || s.lst n = 2 then (s.modLp n fun l => { l with cmd := some (close, s.now) }, true)
  else (s.set1 LPE_ERR_CMD_REJ, false)

/-- LOOP_OPEN (R212). -/
def execLoopOpen (n : Fin 64) (s : State) : Out := done (whenLive s fun s => (s.loopOpenClose n false).1)

/-- LOOP_CLOSE (R212, R214). -/
def execLoopClose (n : Fin 64) (s : State) : Out := done (whenLive s fun s => (s.loopOpenClose n true).1)

/-- COMMIT written (R213). -/
def State.loopCommit (s : State) (n : Nat) : State :=
  if s.lst n = 0 then s.coefSwap n (s.coefPend n)
  else (s.modLp n fun l => { l with staging := s.coefPend n, swapAt := s.now }).wr (LPE_LOOP_STAT_COMMIT_PEND n) 1

/-- LOOP_COMMIT (R213). -/
def execLoopCommit (n : Fin 64) (s : State) : Out := done (whenLive s fun s => s.loopCommit n)

/-- CLEAR written. -/
def State.loopClear (s : State) (n : Nat) : State × Bool :=
  if s.lst n = 3 then (s.modLp n fun l => { l with clear := some s.now }, true) else (s.set1 LPE_ERR_CMD_REJ, false)

/-- LOOP_CLEAR (R212). -/
def execLoopClear (n : Fin 64) (s : State) : Out := done (whenLive s fun s => (s.loopClear n).1)

/-- R215: after taking TOKEN, every loop that is CLOSED runs the closing hold at its first instant. -/
def State.lpeTakeover (s : State) : State :=
  (List.range 64).foldl (fun s n => if s.lst n = 2 then s.modLp n fun l => { l with hold := true } else s) s

/-- EN and what it admits, written with the rest of LPE_LOOPn_CFG; refused, nothing of it is applied. -/
def State.loopCfg (s : State) (l : RegLoc) (v : Nat) : State × WRes :=
  let s' := if s.on (LPE_LOOP_CFG_EN l.n) then s else l.flds.foldl (fun s f => if f.lo = 0 then s else s.wrField f (l.get v f)) s
  match s'.loopEn l.n (bit v 0) with
  | (r, .ok) => (r, .ok)
  | (_, w) => (s.set1 (if w = .state then LPE_ERR_ADMIT_REJ else LPE_ERR_CFG_REJ), w)

/-- RUN and OUT_OFF written: loops run from the next base tick. -/
def State.lpeCtrl (s : State) (l : RegLoc) (v : Nat) : State :=
  if s.on LPE_CTRL_RUN then s.wrReg l v else { (s.wrReg l v) with lpe := { s.lpe with tick := none } }

/-- The state refuses a write whatever its value (R213, R217). -/
def State.lpeHeld (s : State) (l : RegLoc) (v : Nat) : Bool :=
  let en := s.on (LPE_LOOP_CFG_EN l.n)
  if l.row.name = "LPE_CTRL" then s.on LPE_CTRL_RUN && bits v 8 7 ≠ s.rd LPE_CTRL_OUT_OFF
  else if l.row.name = "LPE_ORIGIN" then s.on LPE_CTRL_RUN
  else if l.row.name = "LPE_LOOP_CFG" then en && l.flds.any (fun f => f.lo ≠ 0 && l.get v f ≠ s.rd f)
  else if l.row.name = "LPE_LOOP_IO" then en && !s.sameRW l v
  else l.row.name = "LPE_LOOP_COEF_PEND" && s.on (LPE_LOOP_STAT_COMMIT_PEND l.n)

/-- A write to a register of the block (R204, R213, R217): refusals of state before those of range (R307). -/
def State.writeLpe (s : State) (l : RegLoc) (v : Nat) : State × WRes :=
  let rej := (s.set1 LPE_ERR_CFG_REJ, WRes.range)
  let n := l.n
  if s.lpeHeld l v then (s.set1 LPE_ERR_CFG_REJ, .state)
  else if !l.inRange v then rej
  else if l.row.name = "LPE_CTRL" then (s.lpeCtrl l v, .ok)
  else if l.row.name = "LPE_LOOP_CFG" then
    if bits v 16 16 < bits v 32 16 || (bits v 1 2 = 1 && 3 < bits v 4 3) then rej else s.loopCfg l v
  else if l.row.name = "LPE_LOOP_IO" then
    if (List.range 64).any (fun k => k ≠ n && s.on (LPE_LOOP_CFG_EN k) && s.rd (LPE_LOOP_IO_OUT_IDX k) = bits v 30 10) ||
        (s.rd (LPE_LOOP_CFG_TYPE n) = 2 && 1023 < bits v 10 10 + s.rd (LPE_LOOP_CFG_SIZE n)) then rej
    else (s.wrReg l v, .ok)
  else if l.row.name = "LPE_LOOP_LIM" then
    if toSigned 16 (bits v 16 16) ≤ toSigned 16 (bits v 0 16) then rej else (s.wrReg l v, .ok)
  else if l.row.name = "LPE_LOOP_SUP" then
    if bits v 28 2 = 3 then rej else ((s.wrReg l v).lpeShow, .ok)
  else if l.row.name = "LPE_LOOP_CMD" then
    s.jointly
      [(LPE_ERR_CMD_REJ, fun s => if bit v 0 then s.loopOpenClose n false else (s, true)),
       (LPE_ERR_CMD_REJ, fun s => if bit v 1 then s.loopOpenClose n true else (s, true)),
       (LPE_ERR_CMD_REJ, fun s => (if bit v 2 then s.loopCommit n else s, true)),
       (LPE_ERR_CMD_REJ, fun s => if bit v 3 then s.loopClear n else (s, true))]
  else if l.row.name = "LPE_LOOP_MAN" then ((s.wrReg l v).modLp n fun x => { x with manNew := true }, .ok)
  else (s.wrReg l v, .ok)

end Sys2Proof.Machine
end

