-- ==== Sys2Proof/Machine/Mbx.lean ====
section
/-!
DEFINITION. Machine/Mbx.lean: the mailboxes (chapter 13): the host bus window, command and response format, repeats,
arrival on each path, order of execution. What a command does is its own row, in Cmd.lean; notes/assumptions/28.md says
where the checks of R307 are made.
-/
namespace Sys2Proof.Machine

/-! ### Boxes, counters and formats -/

def State.box (s : State) (n : Nat) : Mailbox := s.mbx.boxes.getD n Mailbox.init

def State.modBox (s : State) (n : Nat) (f : Mailbox → Mailbox) : State :=
  { s with mbx := { s.mbx with boxes := modAt s.mbx.boxes n f } }

/-- MBX_MB_STAT as the mailboxes and their paths stand (R321). -/
def State.mbxShow (s : State) : State :=
  (List.range 8).foldl (fun s n =>
    s.wr (MBX_MB_STAT_STATE n) (if s.rd (MBX_PATH_PATH n) = 0 then (s.box n).st else 3)) s

/-- A status code counted in MBX_CNT (R311, R321). -/
def State.mbxCount (s : State) (status : Nat) : State :=
  if status = 1 then s.satInc MBX_CNT_LEN_CNT
  else if status = 2 then s.satInc MBX_CNT_CHECK_CNT
  else if status = 3 then s.satInc MBX_CNT_REFUSED_CNT else s

def cmdOp (c : Bytes) : Nat := field c 0 2
def cmdSeq (c : Bytes) : Nat := field c 2 2
def cmdLen (c : Bytes) : Nat := field c 4 2
def cmdFlags (c : Bytes) : Nat := field c 6 2
def cmdParams (c : Bytes) : Bytes := slice c 16 (cmdLen c)

/-- CHECK of R306 verifies on a command. -/
def cmdCheckOk (c : Bytes) : Bool :=
  crc32 (slice c 0 8 ++ bytesOf 4 0 ++ slice c 12 (4 + cmdLen c)) = field c 8 4

/-- A reserved field of the header is not zero (R304). -/
def cmdReserved (c : Bytes) : Bool := cmdFlags c / 4 ≠ 0 || field c 12 4 ≠ 0

/-- The header of a response (R305). -/
def respHead (op seq len status flags check t : Nat) : Bytes :=
  bytesOf 2 op ++ bytesOf 2 seq ++ bytesOf 2 len ++ bytesOf 1 status ++ bytesOf 1 flags ++ bytesOf 4 check ++ bytesOf 4 t

/-- A whole response with its CHECK (R305, R306). -/
def mkResp (op seq status flags t : Nat) (data : Bytes) : Bytes :=
  respHead op seq data.length status flags (crc32 (respHead op seq data.length status flags 0 t ++ data)) t ++ data

/-- A stored response as it is sent again (R309). -/
def asRepeat (r : Bytes) : Bytes :=
  mkResp (field r 0 2) (field r 2 2) (field r 6 1) (field r 7 1 ||| 1) (field r 12 4) (slice r 16 (field r 4 2))

/-! ### Opcodes (R317) -/

def knownOps : List Nat :=
  [0x0001, 0x0002, 0x0003, 0x0004, 0x0101, 0x0102, 0x0201, 0x0202, 0x0301, 0x0302, 0x0303, 0x0304, 0x0401, 0x0402,
   0x0403, 0x0404, 0x0501, 0x0502, 0x0601, 0x0602, 0x0603, 0x0701, 0x0702, 0x0703, 0x0704, 0x0801, 0x0901, 0x0902,
   0x0A01, 0x0A02, 0x0A03, 0x0B01]

/-- The commands marked L. -/
def longOps : List Nat := [0x0301, 0x0401, 0x0403, 0x0501, 0x0502, 0x0704]

/-- Bytes of a configuration slot and of an area that FW_WRITE names: firmware slots 0 and 1, the key table (R322, R439,
R440). -/
def slotBytes : Nat := 0x200000
def fwAreaBytes (area : Nat) : Nat := if area = 2 then 0x200000 else 0x600000

/-- A length, count or size field that the parameters hold in full lies beyond its limit, or claims more than LENGTH holds
(R308), whatever else is wrong with them. -/
def lenClaim (op : Nat) (p : Bytes) : Bool :=
  let out (v lo hi : Nat) : Bool := v < lo || hi < v
  let room (o b size : Nat) : Bool := out b 32 992 || size < o + b
  if op = 0x0004 then 6 ≤ p.length && out (field p 4 2) 1 31
  else if op = 0x0101 then 10 ≤ p.length && out (field p 8 2) 1 252
  else if op = 0x0102 then 10 ≤ p.length && (out (field p 8 2) 1 16 || p.length < 12 + 4 * field p 8 2)
  else if op = 0x0201 then 12 ≤ p.length && out (field p 8 4) 32 992
  else if op = 0x0202 then 12 ≤ p.length && (out (field p 8 4) 32 992 || p.length < 16 + field p 8 4)
  else if op = 0x0301 then 8 ≤ p.length && (room (field p 0 4) (field p 4 4) slotBytes || p.length < 12 + field p 4 4)
  else if op = 0x0304 then 12 ≤ p.length && room (field p 4 4) (field p 8 4) slotBytes
  else if op = 0x0401 then
    12 ≤ p.length && (room (field p 4 4) (field p 8 4) (fwAreaBytes (field p 0 1)) || p.length < 16 + field p 8 4)
  else if op = 0x0902 then 3 ≤ p.length && (out (field p 2 1) 1 64 || 64 < field p 1 1 + field p 2 1)
  else false

/-! ### Responses on their way (R303, R312, R314, R315) -/

/-- TAG of R315 under the host key. -/
def State.hostTag (s : State) (tag : Byte) (head msg : Bytes) : Option Bytes :=
  s.mbx.hostKey.map fun k => (hmac k (tag :: (head.take 8 ++ msg))).take 16

/-- A response datagram: its tag is 0 where the request's did not verify, and where no host key is stored. -/
def State.respDatagram (s : State) (n ctr : Nat) (tagged : Bool) (resp : Bytes) : Bytes :=
  let head := [0x01, BitVec.ofNat 8 (n + 8), 0, 0] ++ bytesOf 4 ctr
  let tag := if tagged then (s.hostTag 0x49 head resp).getD (bytesOf 16 0) else bytesOf 16 0
  head ++ tag ++ resp

/-- A response sent to its requester. -/
def State.sendResp (s : State) (n : Nat) (dst : Source) (ctr : Nat) (tagged : Bool) (resp : Bytes) : State :=
  let note (s : State) (b : Bytes) : State := { s with mbx := { s.mbx with sent := some { dst := dst, mb := n, resp := b } } }
  match dst with
  | .host => note s resp
  | .internal => note s resp
  | .fabric node dom =>
    let h : ZHdr := { cls := 6, dst := node, dstDom := dom, blocks := 0, aux := n + 8 }
    (note s resp).sendFrame false { hdr := h, words := payWords resp }
  | .eth _ _ => note s (s.respDatagram n ctr tagged resp)

/-- The number under which the fault log names a source (R452): a node ID, an Ethernet address or the path. -/
def Source.code : Source → Nat
  | .host => 0 | .internal => 3 | .fabric n _ => n | .eth a _ => a

/-- Commands whose every response is entered in the fault log (R321, R444). -/
def loggedOps : List Nat := [0x0003, 0x0403, 0x0404, 0x0501, 0x0502]

/-- A CHECK_FAILED on the Ethernet path is logged (R321). -/
def State.ethCheckLog (s : State) (src : Source) (op status : Nat) : State :=
  match src with
  | .eth a _ => if status = 2 then s.cmdLog 11 (op / 256 % 64) status op a else s
  | _ => s

/-- The end of mailbox n's command (R303): its response is written and the mailbox is DONE, or, on any path but the host
bus, the response is sent and the mailbox is IDLE. -/
def State.mbxFinish (s : State) (n : Nat) (resp : Bytes) (store tagged : Bool) : State :=
  let b := s.box n
  let s := s.modBox n fun b =>
    { b with resp := resp, st := if b.src = .host then 2 else 0,
             last := if store then some (b.src, b.seq, resp) else b.last }
  let s := if b.src = .host && (cmdFlags b.cmd).testBit 0 then s.wrBit MBX_IRQ_DONE n true else s
  (s.sendResp n b.src b.ctr tagged resp).mbxShow

/-- A command of mailbox n answered with a status and data (R305, R309, R316). -/
def State.respond (s : State) (n status : Nat) (data : Bytes) : State :=
  let b := s.box n
  let op := cmdOp b.cmd
  let s := (s.mbxCount status).ethCheckLog b.src op status
  let s := if loggedOps.contains op then s.cmdLog 11 (op / 256) status op b.src.code else s
  s.mbxFinish n (mkResp (cmdOp b.cmd) b.seq status 0 s.ns32 data) true true

/-- The answer to a command that never entered a mailbox. -/
def State.turnAway (s : State) (n : Nat) (src : Source) (ctr : Nat) (tagged : Bool) (c : Bytes) (len status : Nat) : State :=
  let op := if len < 16 then 0xFFFF else cmdOp c
  let s := (s.mbxCount status).ethCheckLog src op status
  s.sendResp n src ctr tagged (mkResp op (cmdSeq c) status 0 s.ns32 [])

/-! ### Arrival -/

/-- What the first checks of R307 and R309 make of a command that arrives. -/
inductive Arrival where
  | bad (status : Nat)
  | again (resp : Bytes)
  | fresh
  deriving DecidableEq, Repr

/-- Steps 1 to 3 of R307 and the repeat of R309, which passes steps 1 and 2 first. -/
def State.mbxJudge (s : State) (n : Nat) (src : Source) (c : Bytes) (len : Nat) (authOk : Bool) : Arrival :=
  if len < 16 || 1008 < cmdLen c || len < 16 + cmdLen c || lenClaim (cmdOp c) (cmdParams c) then .bad 1
  else if !cmdCheckOk c || !authOk then .bad 2
  else
    let new := if knownOps.contains (cmdOp c) then Arrival.fresh else .bad 4
    match (s.box n).last with
    | some (q, seq, r) => if q = src && seq = cmdSeq c then .again r else new
    | none => new

/-- A command frozen in its mailbox, which becomes BUSY (R303). -/
def State.mbxFreeze (s : State) (n : Nat) (src : Source) (ctr : Nat) (c : Bytes) (len : Nat) : State :=
  (s.modBox n fun b => { b with st := 1, cmd := c, len := len, src := src, seq := cmdSeq c, ctr := ctr }).mbxShow

/-- An accepted command: answered at once where its first checks fail or it is a repeat, else queued (R310). -/
def State.mbxAccept (s : State) (n : Nat) (src : Source) (ctr : Nat) (c : Bytes) (len : Nat) (authOk : Bool) : State :=
  let j := s.mbxJudge n src c len authOk
  let s := s.mbxFreeze n src ctr c len
  match j with
  | .bad st =>
    let s := (s.mbxCount st).ethCheckLog src (cmdOp c) st
    s.mbxFinish n (mkResp (if len < 16 then 0xFFFF else cmdOp c) (cmdSeq c) st 0 s.ns32 []) (st = 4) authOk
  | .again r => s.mbxFinish n (asRepeat r) false true
  | .fresh => { s with mbx := { s.mbx with order := s.mbx.order ++ [n] } }

/-- A command on the fabric, Ethernet or internal path (R302, R303, R307). -/
def State.mbxArrive (s : State) (n path : Nat) (src : Source) (ctr : Nat) (c : Bytes) (authOk : Bool) : State :=
  match s.mbxJudge n src c c.length authOk with
  | .bad st => s.turnAway n src ctr authOk c c.length st
  | _ =>
    if s.rd (MBX_PATH_PATH n) ≠ path then s.turnAway n src ctr true c c.length 3
    else if (s.box n).st = 1 then
      if (s.box n).src = src && (s.box n).seq = cmdSeq c then s else s.turnAway n src ctr true c c.length 3
    else s.mbxAccept n src ctr c c.length authOk

/-! ### The host bus (R298, R302, R303) -/

/-- The doorbell of one mailbox. -/
def State.ring (s : State) (n : Nat) : State :=
  if s.rd (MBX_PATH_PATH n) ≠ 0 then s.set1 MBX_HB_ERR_RING_PATH
  else if (s.box n).st = 1 then (s.set1 MBX_HB_ERR_RING_BUSY).mbxCount 3
  else
    let s := if (s.box n).st = 2 then s.satInc MBX_CNT_RESP_LOST else s
    s.mbxAccept n .host 0 (s.box n).cmd 1024 true

/-- A write of MBX_DOORBELL: each bit rings one mailbox. -/
def State.doorbell (s : State) (mask : Nat) : State :=
  (List.range 8).foldl (fun s n => if mask.testBit n then s.ring n else s) s

/-- A write of MBX_ACK. -/
def State.mbxAck (s : State) (mask : Nat) : State :=
  ((List.range 8).foldl (fun s n =>
    if mask.testBit n && (s.box n).st = 2 then s.modBox n fun b => { b with st := 0 } else s) s).mbxShow

/-- Two bytes put into a command buffer. -/
def putWord (c : Bytes) (off v : Nat) : Bytes :=
  (List.range (max c.length (off + 2))).map fun i =>
    if i = off then BitVec.ofNat 8 v else if i = off + 1 then BitVec.ofNat 8 (v / 256) else c.getD i 0

/-- A write of MBX_PATH (R302): it applies to each IDLE mailbox; another keeps its path and CFG_REJ is set. A command whose
write is refused for one mailbox leaves all of them as they are (R11). -/
def State.mbxPath (s : State) (who : Requester) (v : Nat) : State × WRes :=
  let held := (List.range 8).filter fun n => (s.box n).st ≠ 0 && bits v (2 * n) 2 ≠ s.rd (MBX_PATH_PATH n)
  if who = .mbox && !held.isEmpty then (s.set1 MBX_HB_ERR_CFG_REJ, .state) else
  let s := (List.range 8).foldl (fun s n => if held.contains n then s else s.wr (MBX_PATH_PATH n) (bits v (2 * n) 2)) s
  let s := s.mbxShow
  if held.isEmpty then (s, .ok) else (s.set1 MBX_HB_ERR_CFG_REJ, .state)

/-- HB_IRQ_N is low (R300, R321). -/
def State.hbIrqLow (s : State) : Bool := s.rd MBX_IRQ_DONE &&& s.rd MBX_IRQ_EN_EN ≠ 0

/-- A write to a register of the block (R302, R303, R321, R418, R432, R444): the words at 0x000 to 0x00C hold two 16-bit
registers each. -/
def State.writeMbx (s : State) (who : Requester) (l : RegLoc) (v : Nat) : State × WRes :=
  let off := l.base - 0x400B0000
  if off = 0 then (s.doorbell (v % 256), .ok)
  else if off = 4 then ((s.mbxAck (v % 256)).wrReg l v, .ok)
  else if off = 0x10 then s.mbxPath who v
  else if !l.inRange v then (s.set1 MBX_HB_ERR_CFG_REJ, .range)
  else (s.wrReg l v, .ok)

/-- The MAC address of the host Ethernet port, its bytes in order: 0x02 and bits 39:0 of the UID (R464). -/
def hostMac : Bytes := 0x02 :: (bytesOf 5 (Config.uid.toNat % 2 ^ 40)).reverse

/-! ### Rows of arrival -/

/-- DOORBELL (R303). -/
def execDoorbell (mask : BitVec 8) (s : State) : Out := done (whenLive s fun s => s.doorbell mask.toNat)

/-- MBX_ACK (R303). -/
def execMbxAck (mask : BitVec 8) (s : State) : Out := done (whenLive s fun s => s.mbxAck mask.toNat)

/-- HOST_BUFFER_WRITE (R298, R299, R303): a word of the command buffer that MBX_PAGE shows. -/
def execHostBufferWrite (word : Fin 512) (v : BitVec 16) (s : State) : Out :=
  done (whenLive s fun s =>
    let n := s.rd MBX_PAGE_MB
    if (s.box n).st = 1 then s.set1 MBX_HB_ERR_WR_BUSY
    else s.modBox n fun b => { b with cmd := putWord b.cmd (2 * word.val) v.toNat })

/-- MBX_PATH_WRITE (R302). -/
def execMbxPathWrite (v : BitVec 16) (s : State) : Out := done (whenLive s fun s => (s.mbxPath .mgmt v.toNat).1)

/-- MAILBOX_FRAME_RECEIVE (R243, R245, R312): the MAILBOX frame delivered last, when it is a command; a frame for the
CID is executed by the TOKEN holder alone, and one of more than 32 words is answered with LENGTH_EXCEEDS. -/
def execMailboxFrameReceive (s : State) : Out :=
  done (whenLive s fun s =>
    match s.zfb.deliv with
    | some (_, f) =>
      if f.hdr.cls = 6 && !f.hdr.aux.testBit 3 then
        let s := { s with zfb := { s.zfb with deliv := none } }
        let n := f.hdr.aux % 8
        let src := Source.fabric f.hdr.src f.hdr.srcDom
        let c := f.words.flatMap fun w => (pipData w).getD (bytesOf 32 0)
        if f.hdr.dst = s.cid && f.hdr.dst ≠ s.rd ZFB_ID_NODE_ID && !s.holds then s
        else if 32 < f.words.length then s.turnAway n src 0 true c c.length 1
        else s.mbxArrive n 1 src 0 c true
      else s
    | none => s)

/-- ETHERNET_DATAGRAM (R314, R315): a datagram to the mailbox port, from an address and port. -/
def execEthernetDatagram (addr : BitVec 128) (port : BitVec 16) (b : Bytes) (s : State) : Out :=
  done (whenLive s fun s =>
    if !s.on MBX_ETH_CFG_EN then s
    else if b.length < 24 || field b 0 1 ≠ 1 || 8 ≤ field b 1 1 || field b 2 2 ≠ 0 then s.satInc MBX_CNT_CHECK_CNT
    else
      let n := field b 1 1
      let src := Source.eth addr.toNat port.toNat
      let ctr := field b 4 4
      let c := b.drop 24
      let authOk := s.hostTag 0x48 b c = some (slice b 8 16) && s.mbx.ethCtr < ctr && ctr ≠ 0xFFFFFFFF
      let s := if authOk then { s with mbx := { s.mbx with ethCtr := ctr } } else s
      s.mbxArrive n 2 src ctr c authOk)

/-- INTERNAL_COMMAND (R302): a command of a helm core on the internal path. -/
def execInternalCommand (n : Fin 8) (c : Bytes) (s : State) : Out :=
  done (whenLive s fun s => s.mbxArrive n 3 .internal 0 c true)

/-- LONG_COMMAND_COMPLETE (R310): the long command in the background ends with its response. -/
def execLongCommandComplete (s : State) : Out :=
  done (whenLive s fun s =>
    match s.mbx.long with
    | some (n, status, data) =>
      let s := { s with mbx := { s.mbx with long := none } }
      let s := (s.wr MBX_STATUS_LONG_RUN 0).wr MBX_STATUS_LONG_MB 0
      s.respond n status data
    | none => s)

/-- HOST_ETHERNET_FRAME (R233, R314): a frame that is no mailbox datagram: an IEEE 1588 event message is stamped; the
answers to ARP, neighbour discovery and ICMP echo leave no state. -/
def execHostEthernetFrame (event : Bool) (t : BitVec 32) (s : State) : Out :=
  done (whenLive s fun s => if event then { s with ptu := { s.ptu with ethStamp := some t.toNat } } else s)

/-! ### Execution (R310, R311) -/

/-- Step 4 of R307 for every command (R311): its path, Bulb mode, and one long command at a time. -/
def State.barred (s : State) (op : Nat) (src : Source) : Bool :=
  let group := op / 256
  (s.start.phase = .bulb && !([0, 1, 2, 4, 5].contains group || op = 0x0304)) ||
  (group = 5 && src ≠ .host) ||
  (longOps.contains op && s.mbx.long.isSome)

/-- A long command with one of these opcodes is running, and holds what it works on (R311). -/
def State.longHolds (s : State) (ops : List Nat) : Bool :=
  match s.mbx.long with
  | some (n, _, _) => ops.contains (cmdOp (s.box n).cmd)
  | none => false

/-- How a command ended: the state, the status and data of its response, and what follows once the response is sent. -/
structure CmdOut where
  st     : State
  status : Nat
  data   : Bytes := []
  fin    : State → State := id

/-- The command at the head of the order, when it has opcode `op` and `mine` takes its parameters: `refuse` is its part of
step 4, given its FLAGS and parameters, `bad` its part of step 5, `run` its effect, given its mailbox. A long command's
effect is that of its end; its response waits for LONG_COMMAND_COMPLETE. -/
def State.runCmd (s : State) (op : Nat) (mine : Bytes → Bool) (refuse : State → Nat → Bytes → Bool) (bad : State → Bytes → Bool)
    (run : State → Nat → Bytes → CmdOut) : State :=
  match s.mbx.order with
  | n :: rest =>
    let c := (s.box n).cmd
    let p := cmdParams c
    if cmdOp c = op && mine p then
      let s := { s with mbx := { s.mbx with order := rest } }
      if s.barred op (s.box n).src || refuse s (cmdFlags c) p then s.respond n 3 []
      else if bad s p then s.respond n 5 []
      else
        let o := run s n p
        if cmdReserved c && o.status ≠ 3 then s.respond n 5 []
        else if longOps.contains op then
          let s := { o.st with mbx := { o.st.mbx with long := some (n, o.status, o.data) } }
          (s.wr MBX_STATUS_LONG_RUN 1).wr MBX_STATUS_LONG_MB n
        else o.fin (o.st.respond n o.status o.data)
    else s
  | [] => s

/-- Every set of parameters; no refusal of a command's own; no parameters; a status as an outcome. -/
def anyParams (_ : Bytes) : Bool := true
def neverRefused (_ : State) (_ : Nat) (_ : Bytes) : Bool := false
def notEmpty (_ : State) (p : Bytes) : Bool := !p.isEmpty
def ended (r : State × Nat) : CmdOut := { st := r.1, status := r.2 }
def endedB (r : State × Bool) : CmdOut := { st := r.1, status := if r.2 then 0 else 3 }
def endedW (r : State × WRes) : CmdOut := { st := r.1, status := match r.2 with | .ok => 0 | .range => 5 | .state => 3 }

end Sys2Proof.Machine
end

