-- ==== Sys2Proof/Machine/Pmc.lean ====
section
/-!
DEFINITION. Machine/Pmc.lean: the performance counters, snapshots and sampling interrupts (R445 to R450, R457); its
readings are in notes/assumptions/37.md.
-/
namespace Sys2Proof.Machine

/-- An EVT value of R445 with an SRC that it allows. -/
def evtOk (evt src : Nat) : Bool :=
  match evt with
  | 0x01 | 0x02 => src ≤ 8
  | 0x07 | 0x08 | 0x0A => src ≤ 3
  | 0x0B => src ≤ 7
  | 0x00 | 0x03 | 0x04 | 0x05 | 0x06 | 0x09 | 0x0C | 0x0D | 0x0E => src = 0
  | _ => false

/-- PMC_COUNTER_WRAP (R445 to R448): `k` occurrences of the processor event that counter `n` selects fall in one tick; the
counter advances by them, and a wrap sets its overflow bit. Every other event is counted where it happens. The high half of
a chained pair has no event of its own (R446). -/
def execPmcCounterWrap (n : Fin 32) (k : Nat) (s : State) : Out :=
  done (whenLive s fun s =>
    if s.on PMC_CTRL_RUN && s.start.phase ≠ .bulb && (s.rd (PMC_SEL_EVT n) = 1 || s.rd (PMC_SEL_EVT n) = 2) &&
        !(s.chained n && n.val % 2 = 1) then s.pmcCount n k
    else s)

/-- PMC_CNT_WRITE (R447): the written value wins over an increment of the same tick. -/
def execPmcCntWrite (n : Fin 32) (v : BitVec 32) (s : State) : Out :=
  done (whenLive s fun s => s.pmcWrite n v.toNat)

/-- Counter n and PMC_OVF without the increments of the present tick (R449). -/
def State.snapCnt (s : State) (n : Nat) : Nat :=
  if s.pmc.tick = s.ticks + 1 then s.pmc.cnt0.getD n 0 else s.rd (PMC_CNT_VALUE n)
def State.snapOvf (s : State) : Nat :=
  if s.pmc.tick = s.ticks + 1 then s.pmc.ovf0 &&& s.rd PMC_OVF_OVF else s.rd PMC_OVF_OVF

/-- A snapshot record: 5 Pip words (R450). -/
def State.snapRecord (s : State) (periodic manual : Bool) : Bytes :=
  let h := s.ns32 + s.rd PTU_TIME_EPOCH <<< 32 + (s.pmc.seq % 2 ^ 16) <<< 64 + b2n periodic <<< 80 + b2n manual <<< 81
    + s.snapOvf <<< 96 + s.rd PMC_CHAIN_CHAIN <<< 128
  bytesOf 32 h ++ (List.range 32).flatMap fun i => bytesOf 4 (s.snapCnt i)

/-- A snapshot for one cause or both (R449, R450): the counters copied; with DUMP_EN the record written to the ring
unless that is full; SEQ advances. -/
def State.snapshot (s : State) (periodic manual : Bool) : State :=
  let rcd := s.snapRecord periodic manual
  let s := (List.range 32).foldl (fun s i => s.wr (PMC_SNAP_VALUE i) (s.snapCnt i)) s
  let s :=
    if s.on PMC_CTRL_DUMP_EN then
      let n := s.rd PMC_DUMP_CFG_ENTRIES
      let wrp := s.rd PMC_DUMP_PTR_WR
      if (wrp + 1) % n = s.rd PMC_DUMP_PTR_RD then (s.satInc PMC_DUMP_PTR_DROP_CNT).set1 PMC_ERR_DUMP_DROP
      else
        let w := s.rd PMC_DUMP_BASE_ADDR / 32 + 5 * wrp
        let s := if inRamWord w && inRamWord (w + 4) then s.putWords 5 w rcd else s.busErr (32 * w)
        s.wr PMC_DUMP_PTR_WR ((wrp + 1) % n)
    else s
  { s with pmc := { s.pmc with seq := (s.pmc.seq + 1) % 2 ^ 16, lastSnap := some s.ticks } }

/-- No snapshot within the last 2 µs (R449). -/
def State.freezeOk (s : State) : Bool :=
  match s.pmc.lastSnap with
  | some t => t + ticksOf 2000 < s.ticks
  | none => true

/-- FREEZE (R449): refused within 2 µs of the previous snapshot. -/
def State.freeze (s : State) : State × WRes :=
  if s.freezeOk then (s.snapshot false true, .ok) else (s.set1 PMC_ERR_CMD_REJ, .state)

/-- PMC_FREEZE (R449). -/
def execPmcFreeze (s : State) : Out := done (whenLive s fun s => s.freeze.1)

/-- A whole multiple of PER falls in the present tick (R449), which is under 5 ns of fabric time. -/
def State.perNow (s : State) : Bool := s.now % (1000000 * s.rd PMC_DUMP_CFG_PER) < 5 && s.pmc.lastSnap ≠ some s.ticks

/-- PERIODIC_SNAPSHOT (R449): at a multiple of PER; `manual` when a FREEZE falls in the same tick. None in Bulb mode. -/
def execPeriodicSnapshot (manual : Bool) (s : State) : Out :=
  done (whenLive s fun s =>
    if s.on PMC_CTRL_DUMP_EN && s.start.phase ≠ .bulb && s.perNow then
      if manual && !s.freezeOk then (s.snapshot true false).set1 PMC_ERR_CMD_REJ else s.snapshot true manual
    else if manual then s.freeze.1 else s)

/-- A write to a register of the block (R457): SEL and CHAIN not while RUN, DUMP_BASE and DUMP_CFG not while DUMP_EN;
ranges by R445 and R457; FREEZE takes a snapshot, and a write whose FREEZE is refused has no other effect (R11). -/
def State.writePmc (s : State) (l : RegLoc) (v : Nat) : State × WRes :=
  let rej := (s.set1 PMC_ERR_CFG_REJ, WRes.range)
  let st := (s.set1 PMC_ERR_CFG_REJ, WRes.state)
  let busy := if l.row.name = "PMC_SEL" || l.row.name = "PMC_CHAIN" then s.on PMC_CTRL_RUN
    else (l.row.name = "PMC_DUMP_BASE" || l.row.name = "PMC_DUMP_CFG") && s.on PMC_CTRL_DUMP_EN
  if busy then st
  else if !l.inRange v then rej
  else if l.row.name = "PMC_SEL" then
    if evtOk (l.get v (PMC_SEL_EVT l.n)) (l.get v (PMC_SEL_SRC l.n)) then (s.wrReg l v, .ok) else rej
  else if l.row.name = "PMC_DUMP_BASE" then if v % 32 = 0 then (s.wrReg l v, .ok) else rej
  else if l.row.name = "PMC_CNT" then (s.pmcWrite l.n v, .ok)
  else if l.row.name = "PMC_CTRL" && bit v 1 then
    if s.freezeOk then (s.wrReg l v).freeze else s.freeze
  else (s.wrReg l v, .ok)

end Sys2Proof.Machine
end

