-- ==== Sys2Proof/Machine/Mirrored.lean ====
section
/-!
DEFINITION. Machine/Mirrored.lean: the mirrored state of R288 gathered at the active unit and entered at the standby. The message
that carries it is the model's (notes/assumptions/36.md).
-/
namespace Sys2Proof.Machine

/-- Registers that show mirrored state (R288): posteriors' outputs, tracks and votes; solver slots with their configuration and
signatures; helm mode, class and LOWERED with HLM_OUT; loop states; task states; the field and safety output images. -/
def mirRows : List String :=
  ["FUS_STATUS", "FUS_REF_STAT", "FUS_OUT", "FUS_TRK", "SLV_SLOT_CFG", "SLV_SLOT_STAT", "SLV_SLOT_SIG", "HLM_STATUS", "HLM_OUT",
    "HLM_OUT_THR", "HLM_OUT_STR", "HLM_OUT_GEN", "LPE_LOOP_STAT", "CRT_STATUS", "CRT_TASK_STAT", "FIO_OUT", "SAF_REQ"]

/-- Their fields, and those of the CAN FD transmit records' contents. -/
def State.mirFlds (s : State) : List Fld :=
  (((rowsFUS ++ rowsSLV ++ rowsHLM ++ rowsLPE ++ rowsCRT ++ rowsFIO ++ rowsSAF).filter fun r => mirRows.contains r.name).flatMap
    fun r => (List.range r.count).flatMap r.fields) ++
  ((List.range 512).filter fun n => s.rd (CAN_REC_DIR n) = 0).flatMap fun n => CAN_REC_DLC n :: (List.range 64).map (CAN_REC_DATA n)

/-- Pages that loops write. -/
def State.outPages (s : State) : List Nat :=
  ((List.range 64).filter fun n => s.on (LPE_LOOP_CFG_EN n)).map fun n => s.rd (LPE_LOOP_IO_OUT_IDX n)

/-- Signals that keep their values (R337). -/
def State.retains (s : State) (id : Nat) : Bool := match s.sig id with | some g => g.cls = 3 | none => false

/-- The image that a COMMIT carries (R288). -/
def State.mirImage (s : State) : MirImage :=
  let keys := s.mirFlds.map Fld.key
  { regs := s.regs.filter fun e => keys.contains e.1
    fus := s.fus, slots := s.slv.slots, hlm := s.hlm, lpe := s.lpe
    page := s.outPages.map fun i => (i, s.rd (LPE_PAGE_VALUE i), s.rd (LPE_PAGE_QUAL i))
    tasks := s.crt.tasks, vals := s.crt.vals.filter fun e => s.retains e.1, forces := s.crt.forces
    map := s.zfb.map, links := s.zfb.links, occ := s.can.ctl.map fun c => c.occ
    cmdSeq := s.zfb.cmdSeq, txCmd := s.zfb.txCmd, rtOut := s.fio.rtOut, recs := s.mir.recs, flip := s.mir.flip }

/-- The image entered at the standby (R291). Payloads of cell state are its own (R245); a request whose result is awaited is not
mirrored (R288). -/
def State.enterImage (s : State) (m : MirImage) : State :=
  let s := s.mirFlds.foldl (fun s f => s.wr f ((aGet f.key m.regs).getD f.rst)) s
  let s := m.page.foldl (fun s e => (s.wr (LPE_PAGE_VALUE e.1) e.2.1).wr (LPE_PAGE_QUAL e.1) e.2.2) s
  let s := { s with
    fus := m.fus, lpe := m.lpe, slv := { s.slv with slots := m.slots },
    hlm := { m.hlm with pay := s.hlm.pay, qp := none, tag := none },
    zfb := { s.zfb with map := m.map, links := m.links, cmdSeq := m.cmdSeq, txCmd := m.txCmd },
    can := { s.can with ctl := s.can.ctl.zipIdx.map fun e => { e.1 with occ := m.occ.getD e.2 e.1.occ } },
    fio := { s.fio with rtOut := m.rtOut },
    crt := { s.crt with tasks := m.tasks, forces := m.forces,
                        vals := m.vals.foldl (fun l e => aIns e.1 e.2 (aDel e.1 l)) (s.crt.vals.filter fun e => !s.retains e.1) } }
  m.recs.foldl (fun s e => s.programRecord e.1 e.2) s

end Sys2Proof.Machine
end

