-- ==== Sys2Proof/Machine/Saf.lean ====
section
/-!
DEFINITION. Machine/Saf.lean: safety functions (chapter 18). The two lanes are `s.saf.lanes`: lane 0 of the list is the
spec's lane 1 and drives the P switches, lane 1 its lane 2 and drives the M switches. They have the field supply's power
and run whatever the logic side does. What the spec leaves open here is in notes/assumptions/25.md.
-/
namespace Sys2Proof.Machine

def State.modSaf (s : State) (f : SafState → SafState) : State := { s with saf := f s.saf }
def State.safLane (s : State) (k : Nat) : SafLane := s.saf.lanes.getD k SafLane.init
def State.modLane (s : State) (k : Nat) (f : SafLane → SafLane) : State :=
  s.modSaf fun c => { c with lanes := modAt c.lanes k f }

def SafLane.inAt (l : SafLane) (p : Nat) : SafIn := l.ins.getD p SafIn.init
def SafLane.fnAt (l : SafLane) (k : Nat) : SafFn := l.fns.getD k SafFn.init
def SafLane.outAt (l : SafLane) (q : Nat) : SafOut := l.outs.getD q SafOut.init

/-- The least span, in ticks of 4 ns, that n units of u ns on a lane's clock can take: its oscillator is within 5 % (R381). -/
def laneSpan (n u : Nat) : Nat := n * u * 95 / 400

/-- The lanes have their supply (R358). -/
def State.lanesOn (s : State) : Bool := s.fio.field.st ≠ 0

/-! ### Parameters (R400) -/

/-- The register of the SAF block that offset o of the section gives. -/
def safReg (o : Nat) : Nat :=
  0x400F0000 + (if o = 16 then 0x1C else if o < 36 then 0x2C + o else if o < 48 then 0x2C + o
    else if o < 240 then 0xD0 + o else 0x110 + o)

/-- Words of the section that registers are loaded from. -/
def safOffs : List Nat := ((List.range 88).map fun i => 16 + 4 * i).filter (· ≠ 44)

/-- The word at offset o of the parameters in force; the register's reset value before the first section. -/
def State.safW (s : State) (o : Nat) : Nat :=
  match s.saf.par with
  | some b => field b o 4
  | none => rstWord (safReg o)

def State.safPairEn (s : State) : Bool := bit (s.safW 16) 0
def State.inEn (s : State) (p : Nat) : Bool := bit (s.safW (20 + 4 * p)) 0
def State.inMode (s : State) (p : Nat) : Bool := bit (s.safW (20 + 4 * p)) 1
def State.inFilt (s : State) (p : Nat) : Nat := bits (s.safW (20 + 4 * p)) 4 4
def State.inServes (s : State) (p q : Nat) : Bool := bit (s.safW (20 + 4 * p)) (18 + q)
def State.outEn (s : State) (q : Nat) : Bool := bit (s.safW (36 + 4 * q)) 0
def State.tpEn (s : State) (q : Nat) : Bool := bit (s.safW (36 + 4 * q)) 1
def State.telKind (s : State) (m : Nat) : Nat := bits (s.safW (48 + 16 * m)) 0 2
def State.telSrc (s : State) (m : Nat) : Nat := bits (s.safW (48 + 16 * m)) 16 16
def State.telSeed (s : State) (m : Nat) : Nat := s.safW (56 + 16 * m)
def State.fnType (s : State) (k : Nat) : Nat := bits (s.safW (240 + 16 * k)) 0 3
def State.fnA (s : State) (k : Nat) : Nat := bits (s.safW (240 + 16 * k)) 4 4
def State.fnB (s : State) (k : Nat) : Nat := bits (s.safW (240 + 16 * k)) 8 4
def State.fnServes (s : State) (k q : Nat) : Bool := bit (s.safW (240 + 16 * k)) (12 + q)
def State.fnFilt (s : State) (k : Nat) : Nat := bits (s.safW (240 + 16 * k)) 16 4
def State.inDisc (s : State) (p : Nat) : Nat := bits (s.safW (20 + 4 * p)) 8 9
def State.outPulseW (s : State) (q : Nat) : Nat := bits (s.safW (36 + 4 * q)) 2 6
def State.outTpInt (s : State) (q : Nat) : Nat := bits (s.safW (36 + 4 * q)) 8 8
def State.outDiagInt (s : State) (q : Nat) : Nat := bits (s.safW (36 + 4 * q)) 16 11
def State.fnDisc (s : State) (k : Nat) : Nat := bits (s.safW (240 + 16 * k)) 24 8

/-- TMO of telegram source m in ms; VOTE_TMO for the partner's vote (R388, R398). -/
def State.telTmo (s : State) (m : Nat) : Nat :=
  if m = 12 then bits (s.safW 16) 8 8 else bits (s.safW (52 + 16 * m)) 0 8

/-- SX_SIL in 0.1 ms (R384). -/
def State.sxSil (s : State) : Nat := bits (s.safW 16) 16 8

def State.fnTol (s : State) (k : Nat) : Nat := bits (s.safW (244 + 16 * k)) 0 16
def State.fnLim (s : State) (k : Nat) : Nat := s.safW (248 + 16 * k) + s.safW (252 + 16 * k) <<< 32

/-- PCRC of a section (R400). -/
def safPcrc (b : Bytes) : Nat := crcTel 0xFFFFFFFF (slice b 16 352)

/-- Fields of a word within their ranges and every other bit 0: a list of low bit, width, least and greatest value. -/
def safFieldsOk (v : Nat) (l : List (Nat × Nat × Nat × Nat)) : Bool :=
  (l.all fun (lo, w, a, b) => a ≤ bits v lo w && bits v lo w ≤ b) &&
  v = l.foldl (fun n e => n ||| (bits v e.1 e.2.1 <<< e.1)) 0

/-- The limits of a function by its TYPE (R401). -/
def safLimFields : Nat → List (Nat × Nat × Nat × Nat)
  | 1 => [(0, 16, 0, 65535)]
  | 2 => [(0, 48, 0, 2 ^ 48 - 1), (48, 16, 1, 65535)]
  | 3 => [(0, 16, 0, 35999), (16, 16, 0, 35999)]
  | 4 => [(0, 16, 0, 65535), (16, 2, 1, 2)]
  | _ => []

/-- SHADOW_CHECK of a SAFETY section (R400): the outcome, 0 where it is good. `isTx` says which record of a controller
is a transmit record in the same set. -/
def safCheck (b : Bytes) (isTx : Nat → Nat → Bool) : Nat :=
  if 368 < b.length then 1
  else if b.length < 368 || field b 0 4 ≠ 1 || field b 8 8 ≠ 0 || field b 44 4 ≠ 0 then 5
  else
    let mode := safFieldsOk (field b 16 4) [(0, 1, 0, 1), (8, 8, 2, 50), (16, 8, 10, 100)]
    let ins := (List.range 4).all fun p =>
      safFieldsOk (field b (20 + 4 * p) 4) [(0, 2, 0, 3), (4, 4, 1, 10), (8, 9, 1, 500), (18, 2, 0, 3)]
    let outs := (List.range 2).all fun q =>
      safFieldsOk (field b (36 + 4 * q) 4) [(0, 2, 0, 3), (2, 6, 10, 40), (8, 8, 1, 255), (16, 11, 1, 1440)]
    let tels := (List.range 12).all fun m =>
      let v := field b (48 + 16 * m) 16
      let kind := bits v 0 2
      safFieldsOk v [(0, 2, 0, 2), (2, 9, 0, 511), (16, 16, 0, 0xFFFF), (32, 8, 1, 255), (64, 32, 0, 2 ^ 32 - 1)] &&
      (kind = 0 || (1 ≤ bits v 16 16 && bits v 16 16 ≤ 0xFFEF)) && !(kind = 1 && isTx (bits v 2 2) (bits v 4 7))
    let fns := (List.range 8).all fun k =>
      let v := field b (240 + 16 * k) 8
      let lim := field b (248 + 16 * k) 8
      safFieldsOk v [(0, 3, 0, 4), (4, 4, 0, 11), (8, 4, 0, 11), (12, 2, 0, 3), (16, 4, 0, 10), (24, 8, 1, 50), (32, 16, 0, 65535)] &&
      safFieldsOk lim (safLimFields (bits v 0 3)) && bits v 4 4 ≠ bits v 8 4 &&
      !(bits v 0 3 = 3 && bits lim 0 16 = bits lim 16 16)
    if mode && ins && outs && tels && fns then 0 else 5

/-- Some output pair is ON at a lane (R400). -/
def State.safAnyOn (s : State) : Bool := s.saf.lanes.any fun l => l.outs.any fun o => o.st = 1

/-- Parameters taking effect, at a start or at a Flip (R400): registers loaded, and where they are new every function
and input pair restarts in OK. A PCRC that differs keeps every output OFF. -/
def State.safApply (s : State) (b : Bytes) : State :=
  let s := safOffs.foldl (fun s o =>
    match findReg (safReg o) with
    | some l => l.flds.foldl (fun s f =>
        if f.addr + f.lo / 32 * 4 = safReg o && f.lo % 32 + f.width ≤ 32 then s.wr f (bits (field b o 4) (f.lo % 32) f.width)
        else if f.addr = safReg o && f.width = 64 then s.wr f (field b o 8) else s) s
    | none => s) s
  let crc := safPcrc b
  let s := (s.wr SAF_PCRC_PCRC crc).wrB SAF_STATUS_PAIR_EN (bit (field b 16 4) 0)
  let s := if field b 4 4 = crc then s else
    (s.set1 SAF_ERR_CFG_REJ).modSaf fun c => { c with parBad := true }
  if s.saf.par = some b then s
  else s.modSaf fun c => { c with
    par := some b, pulse := [none, none], due := [0, 0], nextT := List.replicate 4 s.ticks, doneT := List.replicate 4 s.ticks
    lanes := c.lanes.map fun l => { l with
      src := (SafLane.startAt s.ticks).src, ins := SafLane.init.ins, fns := SafLane.init.fns
      outs := l.outs.map fun o => { o with wait := false } } }

/-! ### What a lane shows -/

/-- The decision word (R382), in the layout of SAF_STATE. -/
def State.safWord (s : State) (l : SafLane) : Nat :=
  let two (n : Nat) (f : Nat → Nat) : Nat := (List.range n).foldl (fun v i => v + (f i % 4) <<< (2 * i)) 0
  two 4 (fun p => if s.inEn p then (l.inAt p).st else 3) +
  two 2 (fun q => (l.outAt q).st) <<< 8 +
  two 8 (fun k => if s.fnType k = 0 then 3 else (l.fnAt k).st) <<< 12

/-- The link of a lane is valid. -/
def linkFld (k : Nat) : Fld := if k = 0 then SAF_STATUS_LINK1 else SAF_STATUS_LINK2

/-- SAF_STATE and the counts show this lane: lane 1, or lane 2 while lane 1 is silent. -/
def State.shows (s : State) (k : Nat) : Bool := k = 0 || !s.on SAF_STATUS_LINK1

/-- One field of SAF_STATE brought up to date: each change of a state is logged; an item that becomes enabled or
disabled (code 3, where `off`) changes no state. -/
def State.safField (s : State) (f : Fld) (idx v : Nat) (off : Bool) : State :=
  let old := s.rd f
  (List.range (f.width / 2)).foldl (fun s i =>
    let a := bits old (2 * i) 2
    let b := bits v (2 * i) 2
    if a = b || (off && (a = 3 || b = 3)) then s else s.stateLog 15 idx i a b 0) (s.wr f v)

/-- The claim in force (R399). -/
def State.safSil (s : State) : Nat :=
  if s.saf.lnDiff || !((List.range 2).all fun q => !s.outEn q || s.tpEn q) then 0
  else if s.safPairEn && s.on SAF_STATUS_VOTE_OK && s.holds then 3 else 2

/-- Votes of the partner arrive at a lane (R398). -/
def State.voteOk (s : State) (l : SafLane) : Bool :=
  match l.src[12]? with
  | some v => s.safPairEn && v.valid && v.seq.isSome
  | none => false

/-- The flags a lane holds for SAF_ERR and SAF_ALARM given to the logic side, and entered in the fault log as R401
says. -/
def State.safFlags (s : State) (k errs alarms : Nat) : State :=
  let s := (List.range 10).foldl (fun s b =>
    if errs.testBit b then
      if b = 8 && s.shows k then s.errLog SAF_ERR_LANE_DIFF 0 else s.set1 { SAF_ERR_CFG_REJ with lo := b }
    else s) s
  let s := (List.range 2).foldl (fun s q => if alarms.testBit q then s.alarmLog SAF_ALARM_TP_OVERDUE q q else s) s
  let s := if alarms.testBit 2 then
      if s.shows k then s.alarmLog SAF_ALARM_PARTNER_VOTE 0 0 else s.set1 SAF_ALARM_PARTNER_VOTE
    else s
  if alarms.testBit 3 then s.set1 SAF_ALARM_TEL_TIMEOUT else s

/-- What the logic side knows of lane k brought up to date while its link is valid: flags, counts, states (R383,
R401). -/
def State.safReport (s : State) (k : Nat) : State :=
  if s.live && s.on (linkFld k) then
    let l := s.safLane k
    let s := (s.safFlags k l.errs l.alarms).satAdd SAF_CNT_SX_REJ_CNT (l.cnts.getD 3 0)
    let s := s.modLane k fun l => { l with errs := 0, alarms := 0, cnts := [0, 0, 0, 0] }
    if s.shows k then
      let s := ((s.satAdd SAF_CNT_TRIP_CNT (l.cnts.getD 0 0)).satAdd SAF_CNT_PULSE_MISS_CNT (l.cnts.getD 1 0)).satAdd
        SAF_CNT_TEL_REJ_CNT (l.cnts.getD 2 0)
      let w := s.safWord l
      let s := ((s.safField SAF_STATE_IN 0 (bits w 0 8) true).safField SAF_STATE_OUT 1 (bits w 8 4) false).safField
        SAF_STATE_FN 2 (bits w 12 16) true
      let s := (s.wrB SAF_STATUS_LANE_DIFF s.saf.lnDiff).wrB SAF_STATUS_VOTE_OK (s.voteOk l)
      s.wr SAF_STATUS_SIL s.safSil
    else s
  else s

/-! ### The crossing (R383, R384) -/

/-- Bits 543:0 of a downlink frame, as bytes. -/
def safDownBytes (f : SafDown) : Bytes :=
  bytesOf 4 (f.seq % 2 ^ 16 + (f.req % 4) <<< 16 + b2n f.permit <<< 18 + (f.reset % 4) <<< 19 + b2n f.take <<< 21 +
    (f.nTel % 8) <<< 22 + (f.rsv % 128) <<< 25) ++
  (List.range 4).flatMap fun i => slice (f.tels.getD i []) 0 16

def safDownCrc (f : SafDown) : Nat := crc32 (safDownBytes f)

/-- SAF_DOWNLINK_SEND (R383, R387): the frame that both lanes are sent, its telegrams oldest first. -/
def execSafDownlinkSend (s : State) : Out :=
  done (whenLive s fun s =>
    let seq := (s.saf.seq + 1) % 2 ^ 16
    let t := s.saf.tels.take 4
    let f : SafDown :=
      { seq := seq, req := s.rd SAF_REQ_REQ, permit := s.permit, reset := s.saf.resets, take := s.saf.take,
        nTel := t.length, tels := t, crc := 0 }
    (s.wrB SAF_STATUS_PERMIT s.permit).modSaf fun c => { c with
      seq := seq, resets := 0, take := false, tels := c.tels.drop 4, sent := some { f with crc := safDownCrc f } })

/-- A telegram at a lane (R388): taken for every source under whose SEED and SRC_ID it verifies with a later SEQ, the
partner's vote among them (R398); dropped where there is none. -/
def State.laneTel (s : State) (l : SafLane) (t : Bytes) : SafLane :=
  let hits (m : Nat) : Bool :=
    let on := if m = 12 then s.safPairEn else s.telKind m ≠ 0
    let seed := if m = 12 then safPcrc (s.saf.par.getD []) else s.telSeed m
    let src := if m = 12 then 0xFFF0 + b2n (!s.on PRD_STATUS_POS) else s.telSrc m
    on && field t 0 2 = src && field t 12 4 = crcTel seed (t.take 12) &&
    (match (l.src.getD m SafSrc.init).seq with
     | some q => 1 ≤ (field t 2 2 + 65536 - q) % 65536 && (field t 2 2 + 65536 - q) % 65536 < 32768
     | none => true)
  let ms := (List.range 13).filter hits
  if ms.isEmpty then { l with errs := l.errs ||| 16, cnts := modAt l.cnts 2 (· + 1) }
  else { l with src := ms.foldl (fun src m => putAt src m
    { valid := true, seq := some (field t 2 2), v0 := toSigned 32 (field t 4 4), v1 := toSigned 32 (field t 8 4), t := s.ticks }) l.src }

/-- SAF_LANE_FRAME (R383, R384, R388): a frame without PERMIT is no refresh, and can take a request away but bring none. -/
def execSafLaneFrame (k : Fin 2) (f : SafDown) (s : State) : Out :=
  if !s.lanesOn then done s
  else
    let l := s.safLane k
    let next : Bool := match l.seq with | some q => f.seq = (q + 1) % 65536 | none => true
    if f.crc ≠ safDownCrc f || 4 < f.nTel || !next then
      done ((s.modLane k fun l => { l with errs := l.errs ||| 4, cnts := modAt l.cnts 3 (· + 1) }).safReport k)
    else
      let l := { l with seq := some (f.seq % 65536), resets := l.resets ||| f.reset % 4, answer := true }
      let l := if f.permit then
          { l with req := f.req % 4, rise := l.rise ||| (f.req &&& (3 ^^^ (l.lastReq &&& 3))) % 4, take := l.take || f.take,
                   refT := s.ticks }
        else { l with req := l.req &&& f.req }
      let l := (f.tels.take f.nTel).foldl (fun l t => s.laneTel l t) { l with lastReq := f.req % 4 }
      done ((s.modLane k fun _ => l).safReport k)

/-- SAF_UPLINK_RECEIVE (R383, R384): the lane's answer; `valid` where its CRC verifies. -/
def execSafUplinkReceive (k : Fin 2) (valid : Bool) (s : State) : Out :=
  done (whenLive s fun s =>
    if valid && s.lanesOn && (s.safLane k).answer then
      (((s.wrB (linkFld k) true).modSaf fun c => { c with upT := putAt c.upT k s.ticks }).modLane k fun l =>
        { l with answer := false }).safReport k
    else s)

/-- SAF_LANE_SILENT (R384): 1 ms since the last valid uplink frame of the lane, or since the module's restart. -/
def execSafLaneSilent (k : Fin 2) (s : State) : Out :=
  done (whenLive s fun s =>
    if s.saf.upT.getD k 0 + 250000 ≤ s.ticks then (s.wrB (linkFld k) false).set1 SAF_ERR_SX_SILENT else s)

/-! ### Output pairs at a lane (R391, R392) -/

/-- Lane k given new contents; a change of an output's state while a pulse is in progress on the pair makes the pulse
moot (R395). -/
def State.setLane (s : State) (k : Nat) (l : SafLane) : State :=
  let old := s.safLane k
  (List.range 2).foldl (fun s q =>
    if (old.outAt q).st = (l.outAt q).st && (old.outAt q).wait = (l.outAt q).wait then s
    else s.modSaf fun c => { c with pulse := modAt c.pulse q fun p => p.map fun p => { p with moot := true } })
    (s.modLane k fun _ => l)

/-- An output pair of a lane sent to FAULT (R392). -/
def SafLane.fault (l : SafLane) (q cause : Nat) : SafLane :=
  if (l.outAt q).st = 3 then l
  else { l with outs := putAt l.outs q { st := 3, cause := cause, wait := false }, errs := l.errs ||| 0x80 ||| (if cause = 1 then 0x200 else 0) }

/-- Both sources of a function are valid. -/
def State.fnValid (s : State) (l : SafLane) (k : Nat) : Bool :=
  (l.src.getD (s.fnA k) SafSrc.init).valid && (l.src.getD (s.fnB k) SafSrc.init).valid

/-- Both sources of a function have delivered a telegram. -/
def State.fnHeard (s : State) (l : SafLane) (k : Nat) : Bool :=
  (l.src.getD (s.fnA k) SafSrc.init).seq.isSome && (l.src.getD (s.fnB k) SafSrc.init).seq.isSome

/-- The sources differ by more than TOL, angles wrapped (R390). -/
def State.fnApart (s : State) (l : SafLane) (k : Nat) : Bool :=
  let a := l.src.getD (s.fnA k) SafSrc.init
  let b := l.src.getD (s.fnB k) SafSrc.init
  let d := if s.fnType k = 3 then (a.v0 - b.v0 + 18000) % 36000 - 18000 else a.v0 - b.v0
  s.fnHeard l k && ((s.fnTol k : Int) < d.natAbs || (s.fnType k = 2 && (s.fnTol k : Int) < (a.v1 - b.v1).natAbs))

/-- The test of R389 on one source. -/
def fnBad (type lim : Nat) (v : SafSrc) : Bool :=
  match type with
  | 1 => lim % 65536 < v.v0.natAbs
  | 2 =>
    let n := v.v0 - toSigned 24 (bits lim 0 24)
    let e := v.v1 - toSigned 24 (bits lim 24 24)
    let r : Int := bits lim 48 16
    r * r < n * n + e * e
  | 3 =>
    let a : Int := bits lim 0 16
    let b : Int := bits lim 16 16
    (b - a) % 36000 < (v.v0 - a) % 36000
  | 4 =>
    let st : Int := bits lim 0 16
    if bits lim 16 2 = 1 then decide (v.v0 < -st) else decide (st < v.v0)
  | _ => false

/-- A function fails its test: on either source (R389). -/
def State.fnViolates (s : State) (l : SafLane) (k : Nat) : Bool :=
  s.fnHeard l k && (fnBad (s.fnType k) (s.fnLim k) (l.src.getD (s.fnA k) SafSrc.init) ||
    fnBad (s.fnType k) (s.fnLim k) (l.src.getD (s.fnB k) SafSrc.init))

/-- RESET bits of a lane for an output that input pair p, or function k, serves. -/
def State.inReset (s : State) (l : SafLane) (p : Nat) : Bool := (List.range 2).any fun q => l.resets.testBit q && s.inServes p q
def State.fnReset (s : State) (l : SafLane) (k : Nat) : Bool := (List.range 2).any fun q => l.resets.testBit q && s.fnServes k q

/-- The channels of input pair p are OK (R385). -/
def State.chanOk (s : State) (l : SafLane) (p : Nat) : Bool × Bool :=
  (l.filt.testBit (2 * p), l.filt.testBit (2 * p + 1) != s.inMode p)

/-- One evaluation of input pair p (R386). -/
def State.inStep (s : State) (l : SafLane) (p : Nat) : SafLane :=
  if !s.inEn p then l
  else
    let i := l.inAt p
    let (a, b) := s.chanOk l p
    let none' := !a && !b
    let both := a && b
    let i' : SafIn :=
      if i.st = 0 then (if both then i else { st := 1, full := none', back := 0, t := s.ticks })
      else if i.st = 1 then
        if none' then { i with full := true } else if both && i.full then SafIn.init else i
      else
        let bk := if none' then 1 else if i.back = 1 && both then 2 else i.back
        if bk = 2 && both && s.inReset l p then SafIn.init else { i with back := bk }
    { l with ins := putAt l.ins p i' }

/-- One evaluation of function k (R388 to R390). -/
def State.fnStep (s : State) (l : SafLane) (k : Nat) : SafLane :=
  if s.fnType k = 0 then l
  else
    let f := l.fnAt k
    let apart := if s.fnApart l k then some (f.apart.getD s.ticks) else none
    if f.st = 2 then
      let st := if s.fnReset l k && s.fnValid l k && apart.isNone then 0 else 2
      { l with fns := putAt l.fns k { st := st, bad := 0, apart := apart } }
    else if !s.fnValid l k then { l with fns := putAt l.fns k { st := 2, bad := 0, apart := apart }, errs := l.errs ||| 0x40 }
    else
      let lim := s.fnFilt k + 1
      let bad := if s.fnViolates l k then min (f.bad + 1) lim else 0
      { l with fns := putAt l.fns k { st := if bad = lim then 1 else 0, bad := bad, apart := apart } }

/-- The permit of output pair q (R391); a missing vote never withholds it (R398). -/
def State.safPermit (s : State) (l : SafLane) (q : Nat) : Bool :=
  let vote := l.src.getD 12 SafSrc.init
  let against (v : Int) (i : Nat) : Bool := s.voteOk l && (bits (ofSigned 32 v) (2 * i) 2 = 1 || bits (ofSigned 32 v) (2 * i) 2 = 2)
  (List.range 4).all (fun p => !(s.inEn p && s.inServes p q) ||
    ((l.inAt p).st = 0 && !against vote.v1 p)) &&
  (List.range 8).all (fun k => !(s.fnType k ≠ 0 && s.fnServes k q) ||
    ((l.fnAt k).st = 0 && !against vote.v0 k))

/-- The cause of an output's FAULT is gone (R392). -/
def State.faultGone (s : State) (l : SafLane) (q : Nat) : Bool :=
  !s.saf.lnDiff && ((l.outAt q).cause ≠ 2 || l.mism.getD q 0 = 0)

/-- Lane samples that span the 1 ms of R392. -/
def mismSamples : Nat := 5

/-- A light pulse is in progress on pair q (R395). -/
def State.lightPulse (s : State) (q : Nat) : Bool := match s.saf.pulse.getD q none with | some p => p.light | none => false

/-- One evaluation of output pair q (R392, R400); an on waits for a light pulse in progress (R395). -/
def State.outStep (s : State) (l : SafLane) (q : Nat) : SafLane :=
  let o := l.outAt q
  let req := l.req.testBit q
  let put (n : Nat) (w : Bool) : SafLane := { l with outs := putAt l.outs q { st := n, cause := 0, wait := w } }
  let goTo (n : Nat) : SafLane := put n false
  if s.outEn q && mismSamples ≤ l.mism.getD q 0 && o.st ≠ 3 then l.fault q 2
  else if o.st = 0 then
    if s.outEn q && !s.saf.parBad && (l.rise.testBit q || (l.take && req) || (o.wait && req)) && s.safPermit l q then
      if s.lightPulse q then put 0 true else goTo 1
    else goTo 0
  else if o.st = 1 then
    if !req || !s.outEn q || s.saf.parBad then goTo 0
    else if s.safPermit l q then l
    else { goTo 2 with cnts := modAt l.cnts 0 (· + 1) }
  else if o.st = 2 then
    if l.resets.testBit q && !req && s.safPermit l q then goTo 0 else l
  else if l.resets.testBit q && !req && s.faultGone l q then goTo 0 else l

/-- One evaluation of every function at a lane: input pairs, functions, outputs (R381). -/
def State.laneEval (s : State) (l : SafLane) : SafLane :=
  let l := (List.range 4).foldl (fun l p => s.inStep l p) l
  let l := (List.range 8).foldl (fun l k => s.fnStep l k) l
  let l := (List.range 2).foldl (fun l q => s.outStep l q) l
  { l with rise := 0, resets := 0, take := false }

/-- Both lanes set LANE_DIFF and every output pair goes to FAULT (R382). -/
def State.laneDiff (s : State) : State :=
  let s := s.modSaf fun c => { c with lnDiff := true }
  (List.range 2).foldl (fun s k =>
    let l := s.safLane k
    (s.setLane k (({ l with errs := l.errs ||| 0x100 }.fault 0 0).fault 1 0)).safReport k) s

/-- The decision words exchanged (R382): a cycle compares with the other lane's word that no cycle has compared yet. -/
def State.exchange (s : State) (k : Nat) : State :=
  let w := s.safWord (s.safLane k)
  match (s.safLane (1 - k)).word with
  | some o =>
    let s := (s.modLane (1 - k) fun l => { l with word := none }).modLane k fun l => { l with word := none }
    let n := if o = w then 0 else s.saf.diff + 1
    let s := s.modSaf fun c => { c with diff := n }
    if n = 2 then s.laneDiff else s
  | none => s.modLane k fun l => { l with word := some w }

/-- LANE_CYCLE (R381, R382, R385 to R392), every 500 µs of the lane's clock. -/
def execLaneCycle (k : Fin 2) (s : State) : Out :=
  if s.lanesOn && (s.safLane k).cycT ≤ s.ticks then
    let l := { s.laneEval (s.safLane k) with cycT := s.ticks + laneSpan 500 1000 }
    done (((s.setLane k l).exchange k).safReport k)
  else done s

/-- The commanded state of lane k's switch of pair q: its output's state, the pulse in progress (R393, R395), and the
field supply (R358). -/
def State.safCmd (s : State) (k q : Nat) : Bool :=
  let on := ((s.safLane k).outAt q).st = 1
  s.lanesOn && s.fio.field.fsOk && match s.saf.pulse.getD q none with
  | some p => if p.m = (k = 1) then p.light else on && !p.light
  | none => on

/-- A pin differs from its commanded state: above 11 V and below 5 V are the levels of R393. -/
def pinDiffers (m cmd : Bool) (mv : Nat) : Bool := if cmd != m then mv ≤ 11000 else 5000 ≤ mv

/-- LANE_SAMPLE (R381, R385, R392), every 250 µs of the lane's clock: input levels and output pins. -/
def execLaneSample (k : Fin 2) (levels : BitVec 8) (pins : SafPins) (s : State) : Out :=
  if s.lanesOn && (s.safLane k).sampT ≤ s.ticks then
    let l := { s.safLane k with sampT := s.ticks + laneSpan 250 1000 }
    let l := (List.range 8).foldl (fun l i =>
      if levels.toNat.testBit i = l.filt.testBit i then { l with run := putAt l.run i 0 }
      else
        let n := l.run.getD i 0 + 1
        if 4 * s.inFilt (i / 2) ≤ n then { l with run := putAt l.run i 0, filt := l.filt ^^^ 2 ^ i }
        else { l with run := putAt l.run i n }) l
    let l := (List.range 2).foldl (fun l q =>
      let d := pinDiffers false (s.safCmd 0 q) (pins.p.getD q 0) || pinDiffers true (s.safCmd 1 q) (pins.m.getD q 0)
      { l with mism := putAt l.mism q (if d then min (l.mism.getD q 0 + 1) mismSamples else 0) }) l
    done (s.modLane k fun _ => l)
  else done s

/-! ### Spans that pass on a lane's clock -/

/-- SAF_REFRESH_SILENCE (R384): no refresh for SX_SIL; REQ is taken as 0 and the outputs go OFF; any SEQ is accepted next. -/
def execSafRefreshSilence (k : Fin 2) (s : State) : Out :=
  if s.lanesOn && (s.safLane k).refT + laneSpan s.sxSil 100000 ≤ s.ticks then
    let l := s.safLane k
    let l := { l with req := 0, rise := 0, take := false, seq := none,
                      outs := l.outs.map fun o => { o with st := if o.st = 1 then 0 else o.st, wait := false } }
    done ((s.setLane k l).safReport k)
  else done s

/-- INPUT_PAIR_DISCREPANCY (R386): DISC_T since the pair came into DEMAND. -/
def execInputPairDiscrepancy (k : Fin 2) (p : Fin 4) (s : State) : Out :=
  let l := s.safLane k
  let i := l.inAt p
  if s.lanesOn && s.inEn p && i.st = 1 && !i.full && i.t + laneSpan (s.inDisc p) 1000000 ≤ s.ticks then
    done ((s.modLane k fun l => { l with
      ins := putAt l.ins p { SafIn.init with st := 2 }, errs := l.errs ||| 0x20 }).safReport k)
  else done s

/-- A function of a lane sent to FAULT. -/
def SafLane.fnFault (l : SafLane) (k : Nat) : SafLane :=
  if (l.fnAt k).st = 2 then l
  else { l with fns := modAt l.fns k fun f => { f with st := 2, bad := 0 }, errs := l.errs ||| 0x40 }

/-- FUNCTION_SOURCE_DISCREPANCY (R390): the sources have differed without a break for DISC_T. -/
def execFunctionSourceDiscrepancy (k : Fin 2) (n : Fin 8) (s : State) : Out :=
  let l := s.safLane k
  let since := (l.fnAt n).apart
  if s.lanesOn && s.fnType n ≠ 0 && s.fnApart l n && since.any (fun t => t + laneSpan (s.fnDisc n) 10000000 ≤ s.ticks) then
    done ((s.modLane k fun l => l.fnFault n).safReport k)
  else done s

/-- TELEGRAM_TIMEOUT (R388, R398): no telegram accepted for TMO; a source of a lane becomes invalid and every function that uses it goes to FAULT; the
partner's vote trips nothing. -/
def execTelegramTimeout (k : Fin 2) (m : Fin 13) (s : State) : Out :=
  let l := s.safLane k
  let on := if m = 12 then s.safPairEn else s.telKind m ≠ 0
  let x := l.src.getD m SafSrc.init
  if s.lanesOn && on && x.valid && x.t + laneSpan (s.telTmo m) 1000000 ≤ s.ticks then
    let l := { l with src := modAt l.src m fun x => { x with valid := false }, alarms := l.alarms ||| (if m = 12 then 4 else 8) }
    let l := (List.range 8).foldl (fun l n =>
      if s.fnType n ≠ 0 && (s.fnA n = m.val || s.fnB n = m.val) then l.fnFault n else l) l
    done ((s.modLane k fun _ => l).safReport k)
  else done s

/-! ### Test pulses (R393 to R395) -/

/-- TEST_PULSE_START: the switch of pair q whose turn it is opens alone where the pair is ON, closes alone where it is
off; each switch once every TP_INT (R393), and 100 ms after a pulse that did not count (R395). -/
def execTestPulseStart (q : Fin 2) (s : State) : Out :=
  let m := s.saf.turn.getD q false
  let st := ((s.safLane (b2n m)).outAt q).st
  let w := 2 * q.val + b2n m
  if s.lanesOn && s.fio.field.fsOk && s.outEn q && s.tpEn q && (s.saf.pulse.getD q none).isNone && st ≠ 3 &&
      s.saf.nextT.getD w 0 ≤ s.ticks then
    done (s.modSaf fun c => { c with
      pulse := putAt c.pulse q (some { m := m, light := st ≠ 1, moot := false, t := s.ticks })
      nextT := putAt c.nextT w (s.ticks + laneSpan (s.outTpInt q) 1000000000) })
  else done s

/-- The lanes whose on waited for the pulse on pair q turn it ON (R395). -/
def State.endWait (s : State) (q : Nat) : State :=
  (List.range 2).foldl (fun s k =>
    if ((s.safLane k).outAt q).wait then
      (s.modLane k fun l => { l with outs := putAt l.outs q { SafOut.init with st := 1 } }).safReport k
    else s) s

/-- TEST_PULSE_END, PULSE_W after the start: the pulsed pin reads mv millivolts. -/
def execTestPulseEnd (q : Fin 2) (mv : Nat) (s : State) : Out :=
  match s.saf.pulse.getD q none with
  | some p =>
    let w := 2 * q.val + b2n p.m
    if s.ticks < p.t + laneSpan (s.outPulseW q) 10000 then done s
    else
      let s := s.modSaf fun c => { c with pulse := putAt c.pulse q none }
      if p.moot then
        done ((((s.modSaf fun c => { c with
          turn := putAt c.turn q p.m, nextT := putAt c.nextT w (s.ticks + laneSpan 100 1000000) }).modLane 0 fun l =>
          { l with cnts := modAt l.cnts 1 (· + 1) }).endWait q).safReport 0)
      else
        let s := s.modSaf fun c => { c with turn := putAt c.turn q !p.m }
        if (if p.m = p.light then decide (mv < 5000) else decide (11000 < mv)) then
          let due := s.saf.due.getD q 0
          let due := if due.testBit (b2n p.m) then due - 2 ^ b2n p.m else due
          let s := s.modSaf fun c => { c with due := putAt c.due q due, doneT := putAt c.doneT w s.ticks }
          done (if due = 0 then
              (List.range 2).foldl (fun s k => s.modLane k fun l =>
                { l with alarms := l.alarms &&& (15 ^^^ 2 ^ q.val) }) (s.wrBit SAF_ALARM_TP_OVERDUE q false)
            else s)
        else done ((List.range 2).foldl (fun s k => (s.setLane k ((s.safLane k).fault q 1)).safReport k) s)
  | none => done s

/-- TEST_PULSE_OVERDUE (R394): the switch P or M of pair q has had no completed pulse within DIAG_INT. -/
def execTestPulseOverdue (q : Fin 2) (m : Bool) (s : State) : Out :=
  if s.lanesOn && s.outEn q && s.tpEn q &&
      s.saf.doneT.getD (2 * q.val + b2n m) 0 + laneSpan (s.outDiagInt q) 60000000000 ≤ s.ticks then
    done (((s.modSaf fun c => { c with due := modAt c.due q (· ||| 2 ^ b2n m) }).modLane (b2n m) fun l =>
      { l with alarms := l.alarms ||| 2 ^ q.val }).safReport (b2n m))
  else done s

/-! ### Telegrams and votes at the logic side (R387, R398) -/

/-- TELEGRAM_ARRIVAL (R387, R398): the oldest telegram that has arrived in a receive record that a source names, or the one of
the DATA frame delivered last, joins those to forward. -/
def execTelegramArrival (record : Option (Fin 4 × Fin 128)) (s : State) : Out :=
  done (whenLive s fun s =>
    let add (t : Bytes) (s : State) : State := s.modSaf fun c => { c with tels := c.tels ++ [slice t 0 16] }
    match record with
    | some (n, m) =>
      match s.saf.fresh.find? (fun e => e.1 = recIx n m) with
      | some (i, b) => add b (s.modSaf fun c => { c with fresh := c.fresh.eraseP fun e => e.1 = i })
      | none => s
    | none =>
      match s.zfb.deliv with
      | some (_, f) =>
        if f.hdr.cls = 8 && (f.hdr.aux % 256 = 0x11 || (f.hdr.aux % 256 = 0x12 && s.on SAF_MODE_PAIR_EN)) then
          match f.words with
          | w :: _ => add ((pipData w).getD []) { s with zfb := { s.zfb with deliv := none } }
          | [] => s
        else s
      | none => s)

/-- VOTE_SEND (R398): the vote telegram to the partner's unit ID. -/
def execVoteSend (partner : BitVec 18) (s : State) : Out :=
  done (whenLive s fun s =>
    if s.on SAF_MODE_PAIR_EN then
      let seq := (s.saf.vseq + 1) % 65536
      let b := bytesOf 2 (0xFFF0 + s.rd PRD_STATUS_POS) ++ bytesOf 2 seq ++ bytesOf 4 (s.rd SAF_STATE_FN) ++
        bytesOf 4 (s.rd SAF_STATE_IN)
      let t := b ++ bytesOf 4 (crcTel (s.rd SAF_PCRC_PCRC) b)
      let h : ZHdr := { cls := 8, dst := partner.toNat, dstDom := s.rd ZFB_ID_DOMAIN, blocks := 1, aux := 0x12 }
      (s.modSaf fun c => { c with vseq := seq }).sendFrame false { hdr := h, words := payWords t }
    else s)

/-! ### Registers -/

/-- A RESET for output pair q that the tables of R386, R390 and R392 allow, by the states the logic side knows. -/
def State.resetAllowed (s : State) (q : Nat) : Bool :=
  let l := s.safLane (if s.on SAF_STATUS_LINK1 then 0 else 1)
  let o := (l.outAt q).st
  let req := (s.rd SAF_REQ_REQ).testBit q
  (!req && ((o = 2 && s.safPermit l q) || (o = 3 && s.faultGone l q))) ||
  (List.range 4).any (fun p => let i := l.inAt p; let c := s.chanOk l p
    s.inEn p && s.inServes p q && i.st = 2 && i.back = 2 && c.1 && c.2) ||
  (List.range 8).any (fun k => s.fnType k ≠ 0 && s.fnServes k q && (l.fnAt k).st = 2 && s.fnValid l k &&
    !s.fnApart l k)

/-- A write of SAF_CTRL.RESET (R392): all the RESETs it asks for, or none where the tables do not allow one of them. -/
def State.safReset (s : State) (v : Nat) : State × WRes :=
  let ask := (List.range 2).filter fun q => v.testBit q
  if ask.isEmpty then (s, .ok)
  else if ask.all s.resetAllowed then
    ((s.modSaf fun c => { c with resets := c.resets ||| v % 4 }).logEvent 15 192 (v % 4) 0 0, .ok)
  else (s.set1 SAF_ERR_CMD_REJ, .state)

/-- SAF_RESET (R392). -/
def execSafReset (v : BitVec 2) (s : State) : Out := done (whenLive s fun s => (s.safReset v.toNat).1)

/-- SAF_REQ_WRITE (R392, R401). -/
def execSafReqWrite (v : BitVec 2) (s : State) : Out := done (whenLive s fun s => s.wr SAF_REQ_REQ v.toNat)

/-- A write to a register of the block (R401). -/
def State.writeSaf (s : State) (l : RegLoc) (v : Nat) : State × WRes :=
  if l.row.name = "SAF_CTRL" then s.safReset (v % 4) else (s.wrReg l v, .ok)

end Sys2Proof.Machine
end

