-- ==== Sys2Proof/Machine/Role.lean ====
section
/-!
DEFINITION. Machine/Role.lean: how a start ends, in a role or as a failed start, what taking TOKEN enables, and the words
that the pair exchanges about configuration sets (R13, R16, R234, R276, R333, R435 to R438, R494).
-/
namespace Sys2Proof.Machine

/-! ### Records of the Selectors area (R322, R438) -/

/-- The valid copy with the higher sequence number, compared as in R9. -/
def newerRec (x y : Option StartRec) : Option StartRec :=
  match x, y with
  | some a, some b => if later32 a.seq b.seq then some b else some a
  | some a, none => some a
  | none, y => y

def newerSel (x y : Option SelCopy) : Option SelCopy :=
  match x, y with
  | some a, some b => if later32 a.seq b.seq then some b else some a
  | some a, none => some a
  | none, y => y

/-- The start record in force (R438). -/
def State.startRec (s : State) : StartRec := (newerRec s.start.recX s.start.recY).getD ⟨0, 0, 0, 0⟩

/-- A start record committed: into the copy that is not in force, with the next SEQ (R438). -/
def State.commitRec (s : State) (failCnt reason slot : Nat) : State :=
  let r := newerRec s.start.recX s.start.recY
  let n : StartRec := { seq := match r with | some a => (a.seq + 1) % 2 ^ 32 | none => 0, failCnt := failCnt, reason := reason, slot := slot }
  if r = s.start.recX && r.isSome then { s with start := { s.start with recY := some n } }
  else { s with start := { s.start with recX := some n } }

/-- A selector copy written in the same way: the two copies after it. -/
def selWrite (x y : Option SelCopy) (value : Nat) : Option SelCopy × Option SelCopy :=
  let r := newerSel x y
  let n : SelCopy := { seq := match r with | some a => (a.seq + 1) % 2 ^ 32 | none => 0, value := value }
  if r = x && r.isSome then (x, some n) else (some n, y)

/-! ### Configuration slots -/

/-- Address of SET_X and SET_Y (R415). -/
def setBase (slot : Nat) : Nat := 0x21000000 + 0x200000 * slot

/-- CRC field of the set in a slot. -/
def State.setCrc (s : State) (slot : Nat) : Nat := bits (s.wordAt (setBase slot)) 96 32

def State.activeCrc (s : State) : Nat := s.setCrc s.cfg.active

/-- The CRC of the checked shadow; 0 while the shadow is not CHECKED (R333). A pending Flip's set is checked too. -/
def State.shadowCrc (s : State) : Nat :=
  match s.cfg.shadow with
  | .writing _ => 0
  | _ => s.setCrc (1 - s.cfg.active)

/-! ### Messages between partners (R286, R333) -/

def State.dlPush (s : State) (m : DominoMsg) : State := { s with mir := { s.mir with dlOut := s.mir.dlOut ++ [m] } }

/-- IDENT on one lane. -/
def State.identOn (s : State) (lane : Lane) : State :=
  match lane with
  | .ml => if s.prd.mlUp then s.mirPush (s.mirFrame 8 0 0 0 0 [payWord (s.activeCrc + s.shadowCrc <<< 32)]) else s
  | .dl => if s.on PRD_STATUS_DL_UP then s.dlPush (.ident s.activeCrc s.shadowCrc) else s

/-- IDENT on both lanes: after a SHADOW_CHECK that passes and after a Flip. -/
def State.sendIdent (s : State) : State := (s.identOn .ml).identOn .dl

/-- The unit is a STANDBY (R16). -/
def State.isStandby (s : State) : Bool := s.start.phase = .running && s.start.role = .standby

/-- The partner's IDENT shows the active set of this unit. -/
def State.identSame (s : State) : Bool := match s.mir.ident with | some i => i.1 = s.activeCrc | none => false

/-- The partner's IDENT shows another active set (CFG_DIFF of R333). -/
def State.cfgDiff (s : State) : Bool := match s.mir.ident with | some i => i.1 ≠ s.activeCrc | none => false

/-- Regions in the order of a bulk pass: journal regions by number, then the command page (R292). -/
def State.passRegions (s : State) : List Nat :=
  regionIxs.filter (fun n => s.rd (PRD_MR_KIND n) = 1) ++ regionIxs.filter (fun n => s.rd (PRD_MR_KIND n) = 2)

/-- The first word of a pass; none where no region is declared. -/
def State.passFirst (s : State) : Option (Nat × Nat) := s.passRegions.head?.map fun n => (n, 0)

/-- The word of a pass that follows word o of region n. -/
def State.passNext (s : State) (n o : Nat) : Option (Nat × Nat) :=
  if o + 1 < s.rd (PRD_MR_SIZE n) then some (n, o + 1)
  else ((s.passRegions.dropWhile (· ≠ n)).drop 1).head?.map fun m => (m, 0)

/-- The lane enters SYNCING afresh at the standby (R292): SYNC_REQ goes once IDENT is equal. -/
def State.resync (s : State) : State :=
  let s := if s.prd.mlUp then s.wrState PRD_STATUS_ML_STATE 5 0 2 else s
  let s := { s with mir := { s.mir with pass := s.passFirst, passDone := s.passFirst.isNone, wantSync := true } }
  let s := if s.prd.mlUp && s.isStandby && s.identSame then
      ({ s with mir := { s.mir with wantSync := false } }).mirPush (s.mirFrame 9 0 0 0 0 [])
    else s
  s.updTake

/-! ### How a start ends -/

/-- A successful start (R435, R437): the role is taken, a record with FAIL_CNT = 0 committed, the outputs and the blocks
that the role runs enabled; the runtime's RUN of the active set follows the start. REASON stays that of the last failed
start (R444). -/
def State.startDone (s : State) (role : Role) : State :=
  let s := { s with start := { s.start with phase := .running, role := role } }
  let s := (s.commitRec 0 s.startRec.reason (s.rd MBX_START_SLOT_RUN)).wr MBX_START_FAIL_CNT 0
  let s := s.canClkBack.updPermit.updTake
  let s := (List.range 24).foldl (fun s n => s.gEnter n) s
  let s := s.slvTakeAll.sendBlocks
  if role = .standby then s.resync else if s.cfg.runCrt then s.crtRun.1 else s

/-- A failed start (R437, R444): its entry and its record committed, then the reset of source 7. -/
def State.startFail (s : State) (reason : Nat) : State :=
  let s := (s.logFlash (s.entryNow 0xFE (192 + reason) 0 0)).wrapInc PMC_LOG_STAT_NEXT
  let s := s.commitRec (min 3 (s.startRec.failCnt + 1)) reason (s.rd MBX_START_SLOT_SEL)
  s.enterReset 7 true false

/-- Step 8 (R276, R494): a contending module that finds the count at 1 or more, or its partner's HOLD at 1. -/
def State.contendCheck (s : State) : State :=
  if s.start.phase = .contend && s.rd PRD_STATUS_GATE = 0 && !s.half2 &&
      (1 ≤ s.rd PRD_STATUS_TOKEN_CNT || !s.vetoClear) then
    if s.prd.mlUp then s.startDone .standby else s.startFail 5
  else s

/-- Step 7 ends: R13 on the lanes that trained, then contention (R435). -/
def State.enterContend (s : State) : State :=
  let dl := s.on PRD_STATUS_DL_UP
  let sameHalf : Bool := match s.prd.partDL with | some b => b.half == s.on PRD_STATUS_HALF | none => false
  if (s.start.setting = 1 && dl) || (s.domino && (!dl || sameHalf)) then s.startFail 3
  else
    let s := { s with start := { s.start with phase := .contend, role := .monitor } }
    ((s.wrB PRD_STATUS_N_EXP2 s.domino).updTake).contendCheck

/-- Every lane that the role setting uses has trained (R435). -/
def State.lanesDone (s : State) : Bool := s.prd.mlUp && (!s.domino || s.on PRD_STATUS_DL_UP)

/-! ### Taking TOKEN -/

/-- The standby's open delta discarded whole (R291): flag, count and entry. -/
def State.discardDelta (s : State) : State :=
  let s := (s.errLog PRD_ERR_DELTA_DISC 0).satInc PRD_CNT_DISC_CNT
  { s with mir := { s.mir with journal := [], page := [], recvd := 0, bad := false, loadHeld := [], loadDone := [] } }

/-- What a STANDBY does when it takes TOKEN (R16, R24, R172, R177, R215, R291, R342, R375). -/
def State.takeover (s : State) : State :=
  let s := { s with start := { s.start with phase := .running, role := if s.domino then .dominoHalf else .coordinator } }
  let s := if s.mir.recvd = 0 && s.mir.loadHeld = [] then s else s.discardDelta
  let s := { s with mir := { s.mir with pass := none, passDone := false, wantSync := false, bulk := none, count := 0, ovf := false } }
  s.updPermit.canTakeover.slvTakeover.hlmTakeover.lpeTakeover.crtTakeover

/-- The gate in HOLD (R274): `drive` is the span to t_drive in ns. Transmitters, fabric origination and the refresh of
outputs are enabled; TAKE_SRC becomes SRC (R234). -/
def State.tokenPaths (s : State) (drive : Nat) : State :=
  let s := s.wrState PRD_STATUS_GATE 0 0 2
  let seen : Bool := match s.prd.partDL with | some b => b.hold | none => false
  let s := { s with prd := { s.prd with confTick := s.ticks, wrongTick := s.ticks, dlHeld := seen, outDrive := true }, saf := { s.saf with take := true } }
  let s := (s.wr PRD_TAKE_T_DRIVE (s.ns32 + drive)).wrB ZFB_STATUS_DRIVE true
  let s := (s.wr PTU_CTRL_SRC (s.rd PTU_CTRL_TAKE_SRC)).srcTaken (s.rd PTU_CTRL_SRC)
  if s.prd.mlUp then s.wrState PRD_STATUS_ML_STATE 5 0 2 else s

/-- The role that TOKEN brings: a contending module ends its start, a STANDBY takes over (R13, R16). -/
def State.takeRole (s : State) : State :=
  if s.start.phase = .contend then s.startDone (if s.domino then .dominoHalf else .coordinator)
  else if s.isStandby then s.takeover else s

/-- The gate enters HOLD (R274). -/
def State.tokenTaken (s : State) (drive : Nat) : State :=
  ((s.tokenPaths drive).takeRole.sendBlocks.updPermit.updTake).updClass

end Sys2Proof.Machine
end

