-- ==== Sys2Proof/Machine/Prd.lean ====
section
/-!
DEFINITION. Machine/Prd.lean: TOKEN, the release watchdog, heartbeats, the pair lanes and the mirror (chapter 12). What the
spec leaves open here is in notes/assumptions/26.md.
-/
namespace Sys2Proof.Machine

/-! ### TOKEN (R273 to R277, R494) -/

/-- The lanes train and the gate may contend (R297): never with the setting MONITOR, nor in Bulb mode or before step 7 of a
start (R13, R15). -/
def State.prdOn (s : State) : Bool :=
  s.on PRD_CTRL_EN && s.start.setting ≠ 0 &&
    (s.start.phase = .waitLanes || s.start.phase = .contend || s.start.phase = .running)

/-- TOKEN_COUNT_CHANGE (R273, R274, R276): a B-strapped module in ASSERT withdraws on a count above N_EXP. -/
def execTokenCountChange (cnt : Fin 5) (s : State) : Out :=
  done (whenLive s fun s =>
    let s := if s.rd PRD_STATUS_TOKEN_CNT = cnt.val then s else { s with prd := { s.prd with
      cntTick := s.ticks, wrongTick := if s.rd PRD_STATUS_TOKEN_CNT = s.nExp then s.ticks else s.prd.wrongTick } }
    let s := s.wr PRD_STATUS_TOKEN_CNT cnt.val
    if s.rd PRD_STATUS_GATE = 1 && s.nExp < cnt.val && s.on PRD_STATUS_POS then
      let s := { s with prd := { s.prd with srcOn := false } }
      (((s.wrState PRD_STATUS_GATE 0 0 0).errLog PRD_ERR_COLLISION 0).satInc PRD_CNT_COLL_CNT).contendCheck
    else s.contendCheck)

/-- The count has stood as it reads for n ticks (of 4 ns) since tick t at the earliest. -/
def State.cntFor (s : State) (t n : Nat) : Bool := max s.prd.cntTick t + n ≤ s.ticks

/-- The source switched on (R274). -/
def State.assertToken (s : State) : State :=
  let s := { s with prd := { s.prd with srcOn := true, asrtTick := s.ticks } }
  (s.wrState PRD_STATUS_GATE 0 0 1).wr PRD_TAKE_T_ASSERT s.ns32

/-- The module contends at start, or is a STANDBY with TAKE_READY (R275). -/
def State.mayTake (s : State) : Bool := s.start.phase = .contend || (s.isStandby && s.takeReady)

/-- t_q of R275 in ticks. -/
def State.tq (s : State) : Nat := if s.on PRD_STATUS_POS then 375 else 250

/-- TOKEN_ASSERT (R275): the count has read 0 for t_q. Half 1 of a Domino pair asks half 2's ready bit, and sends it
TAKE. -/
def execTokenAssert (s : State) : Out :=
  done (whenLive s fun s =>
    if s.prdOn && s.rd PRD_STATUS_GATE = 0 && s.mayTake && s.rd PRD_STATUS_TOKEN_CNT = 0 && s.cntFor 0 s.tq && s.vetoClear && !s.half2 &&
        (!s.domino || s.otherReady) then
      let s := if s.domino then s.sendBlock .dl true else s
      s.assertToken
    else s)

/-- Half 2 acting on TAKE (R275, R494). -/
def State.dominoTake (s : State) : State :=
  if s.prdOn && s.half2 && s.rd PRD_STATUS_GATE = 0 && (s.start.phase = .contend || s.isStandby) then s.assertToken else s

/-- DOMINO_TAKE (R275, R494). -/
def execDominoTake (s : State) : Out := done (whenLive s State.dominoTake)

/-- TOKEN_CONFIRM (R274): the count has equalled N_EXP for 500 ns, in a run that starts 200 ns after the assertion at
the earliest and ends within 5 µs of it; `drive` is the span to t_drive in ns, at most
1 µs. -/
def execTokenConfirm (drive : Fin 1001) (s : State) : Out :=
  done (whenLive s fun s =>
    if s.rd PRD_STATUS_GATE = 1 && s.rd PRD_STATUS_TOKEN_CNT = s.nExp && s.cntFor (s.prd.asrtTick + 50) 125 &&
        s.ticks ≤ s.prd.asrtTick + 1250 then s.tokenTaken drive.val else s)

/-- TOKEN_CONFIRM_TIMEOUT (R274, R494): 5 µs after the assertion. -/
def execTokenConfirmTimeout (s : State) : Out :=
  done (whenLive s fun s =>
    if s.rd PRD_STATUS_GATE = 1 && s.prd.asrtTick + 1250 ≤ s.ticks then
      let s := { s with prd := { s.prd with srcOn := false } }
      let s := (s.wrState PRD_STATUS_GATE 0 0 0).set1 PRD_ERR_TOKEN_LINE
      if s.start.phase = .contend then s.startFail 4 else s
    else s)

/-- TOKEN_LINE_FAULT (R274, R277): a holder has read another count than N_EXP for 1 µs; TOKEN is not released. -/
def execTokenLineFault (s : State) : Out :=
  done (whenLive s fun s =>
    if s.holds && s.rd PRD_STATUS_TOKEN_CNT ≠ s.nExp && s.prd.wrongTick + 250 ≤ s.ticks then s.set1 PRD_ERR_TOKEN_LINE else s)

/-- VETO_DETECT (R277): for 2 µs. -/
def execVetoDetect (s : State) : Out :=
  done (whenLive s fun s =>
    let held : Bool := match s.prd.partML with | some b => b.hold | none => false
    if s.isStandby && s.rd PRD_STATUS_TOKEN_CNT = 0 && held && s.cntFor s.prd.holdTick 500 then (s.set1 PRD_ERR_VETO).set1 PRD_ERR_TOKEN_LINE else s)

/-- A write of PRD_CTRL.RELEASE (R278). -/
def State.prdRelease (s : State) : State × Bool :=
  if s.holds then (s.release 5 0, true) else (s.set1 PRD_ERR_CMD_REJ, false)

/-- RELEASE (R278). -/
def execPrdRelease (s : State) : Out := done (whenLive s fun s => s.prdRelease.1)

/-! ### The release watchdog (R280) and heartbeats (R283) -/

/-- A kick of source src; one that completes the set restarts the count. -/
def State.kick (s : State) (src : Nat) : State :=
  let k := s.prd.kicked ||| 2 ^ src
  let all := s.rd PRD_WDT_SRC
  let full : Bool := k &&& all = all
  { s with prd := { s.prd with
      kicked := if full then 0 else k, wdtTick := if full then s.ticks else s.prd.wdtTick
      lastKick := putAt s.prd.lastKick src s.ticks } }

/-- WATCHDOG_KICK (R280): helm cores 0–7, management processor 8. -/
def execWatchdogKick (src : Fin 9) (s : State) : Out := done (whenLive s fun s => s.kick src)

/-- WATCHDOG_EXPIRY (R280): between 0.9 and 1.1 × WIN after the last restart of the count. -/
def execWatchdogExpiry (s : State) : Out :=
  done (whenLive s fun s =>
    if s.on PRD_WDT_EN && s.prd.wdtTick + 225 * s.rd PRD_WDT_WIN ≤ s.ticks then ((s.release 2 0).wrB PRD_STATUS_ALIVE false).updTake else s)

/-- A write of PRD_WDT (R280, R297). -/
def State.wdtWrite (s : State) (v : Nat) : State × WRes :=
  let same := bits v 0 1 = s.rd PRD_WDT_EN && bits v 4 12 = s.rd PRD_WDT_WIN && bits v 16 9 = s.rd PRD_WDT_SRC
  if s.on PRD_WDT_EN then (if same then (s, .ok) else (s.set1 PRD_ERR_CFG_REJ, .state))
  else if !fldInRange PRD_WDT_WIN (bits v 4 12) then (s.set1 PRD_ERR_CFG_REJ, .range)
  else
    let s := s.wrAll [(PRD_WDT_EN, bits v 0 1), (PRD_WDT_WIN, bits v 4 12), (PRD_WDT_SRC, bits v 16 9)]
    (if bit v 0 then { s with prd := { s.prd with kicked := 0, wdtTick := s.ticks, lastKick := List.replicate 9 s.ticks } } else s, .ok)

/-- PRD_WDT_WRITE (R280). -/
def execPrdWdtWrite (v : BitVec 32) (s : State) : Out := done (whenLive s fun s => (s.wdtWrite v.toNat).1)

/-- The heartbeat count advanced. -/
def State.hbTick (s : State) : State := { s with prd := { s.prd with hb := (s.prd.hb + 1) % 2 ^ 16 } }

/-- HEARTBEAT_TICK (R283). -/
def execHeartbeatTick (s : State) : Out := done (whenLive s State.hbTick)

/-- The partner's heartbeat is lost (R283): TOKEN does not move. -/
def State.hbLost (s : State) : State :=
  if s.on PRD_STATUS_PART_HB_OK then
    (((s.wrB PRD_STATUS_PART_HB_OK false).errLog PRD_ERR_HB_LOST 0).satInc PRD_CNT_HB_LOSS_CNT).updClass
  else s

/-- HEARTBEAT_LOSS (R283): the partner's count has not changed for HB_TO. -/
def execHeartbeatLoss (s : State) : Out :=
  done (whenLive s fun s => if s.prd.hbTick + 25000 * s.rd PRD_HB_HB_TO ≤ s.ticks then s.hbLost else s)

/-! ### Status blocks and lanes (R271, R285, R292, R296) -/

/-- STATUS_BLOCK_SEND (R285). -/
def execStatusBlockSend (lane : Lane) (s : State) : Out :=
  done (whenLive s fun s => if s.prdOn then s.sendBlock lane false else s)

/-- Ticks of 1 µs. -/
def tick1us : Nat := 250

/-- A status block of the mirror lane partner. -/
def State.blockML (s : State) (b : StatusBlock) : State :=
  let moved : Bool := match s.prd.partML with | some o => o.hb ≠ b.hb | none => true
  let held : Bool := match s.prd.partML with | some o => o.hold | none => false
  let s := { s with prd := { s.prd with
    partML := some b, hbTick := if moved then s.ticks else s.prd.hbTick, holdTick := if held then s.prd.holdTick else s.ticks } }
  let s := (s.wrB PRD_STATUS_PART_HOLD b.hold).wrB PRD_STATUS_PART_ALIVE b.alive
  let s := if moved && s.prd.mlUp then s.wrB PRD_STATUS_PART_HB_OK true else s
  s.updTake.updClass.contendCheck

/-- A status block of the other half. -/
def State.blockDL (s : State) (b : StatusBlock) : State :=
  let s := { s with prd := { s.prd with partDL := some b } }
  let s := if b.take then s.dominoTake else s
  let s := if s.holds && s.domino then
      if b.hold then { s with prd := { s.prd with dlHeld := true } }
      else if s.prd.dlHeld || s.prd.confTick + tick1us ≤ s.ticks then s.release 4 0 else s
    else s
  let s := if s.half2 && s.start.phase = .contend && s.rd PRD_STATUS_GATE = 0 && b.role = .standby then s.startDone .standby else s
  s.updTake

/-- STATUS_BLOCK_RECEIVE (R285, R296, R494). -/
def execStatusBlockReceive (lane : Lane) (b : StatusBlock) (s : State) : Out :=
  done (whenLive s fun s =>
    if s.prdOn then match lane with | .ml => s.blockML b | .dl => s.blockDL b else s)

/-- Step 7 ends once every lane has trained. -/
def State.step7 (s : State) : State := if s.start.phase = .waitLanes && s.lanesDone then s.enterContend else s

/-- LANE_TRAINED (R271, R292): block lock for 1 ms and a status block from each end. Equal straps leave the mirror lane
untrained. -/
def execLaneTrained (lane : Lane) (s : State) : Out :=
  done (whenLive s fun s =>
    if !s.prdOn then s
    else match lane with
      | .ml =>
        match s.prd.partML with
        | some b =>
          if s.prd.mlUp then s
          else if b.pos = s.on PRD_STATUS_POS then s.set1 PRD_ERR_POS_SAME
          else
            let s := { s with prd := { s.prd with mlUp := true, hbTick := s.ticks }, mir := { s.mir with lastDseq := none, ident := none } }
            let s := ((s.wrState PRD_STATUS_ML_STATE 5 0 2).wrB PRD_STATUS_PART_HB_OK true).identOn .ml
            ((if s.holds then s else s.resync).updTake).step7
        | none => s
      | .dl =>
        if s.prd.partDL.isSome && !s.on PRD_STATUS_DL_UP then
          (((s.wrState PRD_STATUS_DL_UP 6 0 1).identOn .dl).updTake).step7
        else s)

/-- The mirror lane goes DOWN (R292): what was in transit is lost; LOADs that wait for the partner end (R172); the
heartbeat is lost (R283). -/
def State.mlDown (s : State) : State :=
  if s.prd.mlUp then
    let s := (s.wrState PRD_STATUS_ML_STATE 5 0 0).set1 PRD_ERR_ML_DOWN
    let s := s.hbLost
    let waits := s.mir.loadWait
    let s := { s with
      prd := { s.prd with mlUp := false, partML := none }
      mir := { s.mir with queue := [], bulk := none, journal := [], page := [], recvd := 0, bad := false, lastDseq := none,
                          loadHeld := [], loadDone := [], loadWait := [], pass := none, passDone := false, ident := none } }
    let s := waits.foldl (fun s n => s.slvConfirm n) s
    let s := s.wrAll [(PRD_STATUS_PART_HOLD, 0), (PRD_STATUS_PART_ALIVE, 0)]
    s.updTake.updClass
  else s

/-- The Domino lane goes DOWN (R296, R494). -/
def State.dlDown (s : State) : State :=
  if s.on PRD_STATUS_DL_UP then
    let s := (s.wrState PRD_STATUS_DL_UP 6 0 0).set1 PRD_ERR_DL_DOWN
    let s := { s with prd := { s.prd with partDL := none }, mir := { s.mir with dlOut := [], identDL := none } }
    let s := s.updTake
    if s.domino && s.holds then s.release 4 0
    else if s.half2 && s.start.phase = .contend then s.startFail 3 else s
  else s

/-- LANE_DOWN (R271, R292, R296, R494). -/
def execLaneDown (lane : Lane) (s : State) : Out :=
  done (whenLive s fun s => match lane with | .ml => s.mlDown | .dl => s.dlDown)

/-! ### Commit and apply (R282, R290 to R292) -/

/-- An enabled watchdog source has gone without kicking for more than 0.5 × WIN (R282). -/
def State.kickLate (s : State) : Bool :=
  s.on PRD_WDT_EN && (List.range 9).any fun k =>
    (s.rd PRD_WDT_SRC).testBit k && 500 * s.rd PRD_WDT_WIN < 4 * (s.ticks - s.prd.lastKick.getD k 0)

/-- A write of PRD_COMMIT (R282, R290): the delta is closed; one beyond its limit goes without a COMMIT. -/
def State.prdCommit (s : State) (ci : Nat) : State × Bool :=
  if !s.holds || s.kickLate then (s.set1 PRD_ERR_CMD_REJ, false)
  else
    let s := if s.mir.ovf then s
      else
        let s := s.wr PRD_MIR_STAT_CI_TX ci
        if s.prd.mlUp then
          ({ s with mir := { s.mir with image := some s.mirImage, recs := [], flip := none } }).mirPush (s.mirFrame 1 0 0 ci s.mir.count [])
        else s
    ({ s with mir := { s.mir with dseq := (s.mir.dseq + 1) % 2 ^ 16, count := 0, ovf := false } }, true)

/-- PRD_COMMIT (R290). -/
def execPrdCommit (ci : BitVec 32) (s : State) : Out := done (whenLive s fun s => (s.prdCommit ci.toNat).1)

/-- A frame received on the mirror lane (R286) that a unit takes as one of a KIND: a frame of an unknown KIND, or with
BLOCKS above 16, is discarded and counted. -/
def State.mirIn (s : State) (kind : Nat) (f : MirFrame) (act : State → State) : State :=
  if !s.prd.mlUp then s
  else if 9 < f.hdr.kind || 16 < f.hdr.blocks || f.words.length ≠ f.hdr.blocks then s.satInc PRD_CNT_DISC_CNT
  else if f.hdr.kind = kind then act s else s

/-- The words of a frame that pass their Pip check, by offset in the region, and whether all did. -/
def mirWords (f : MirFrame) : List CapWord × Bool :=
  ((f.words.zipIdx).filterMap fun e => (pipData e.1).map fun d => { region := f.hdr.region, offset := f.hdr.offset + e.2, data := d },
   f.words.all fun w => (pipData w).isSome)

/-- The standby's place in a bulk pass after word o of region n has come. -/
def State.passStep (s : State) (n o : Nat) : State :=
  if s.mir.pass = some (n, o) then
    let nx := s.passNext n o
    { s with mir := { s.mir with pass := nx, passDone := nx.isNone } }
  else s

/-- Words of the open delta received by the standby: into the journal, or into the inactive command-page bank. -/
def State.mirTake (s : State) (page pass : Bool) (f : MirFrame) : State :=
  if s.holds then s
  else
    let r := mirWords f
    let s := { s with mir := { s.mir with
      journal := if page then s.mir.journal else s.mir.journal ++ r.1
      page := if page then s.mir.page ++ r.1 else s.mir.page
      recvd := s.mir.recvd + f.words.length, bad := s.mir.bad || !r.2 } }
    if pass then (List.range f.words.length).foldl (fun s i => s.passStep f.hdr.region (f.hdr.offset + i)) s else s

/-- DELTA_FRAME (R291). -/
def execDeltaFrame (f : MirFrame) (s : State) : Out := done (whenLive s fun s => s.mirIn 0 f fun s => s.mirTake false false f)

/-- CMDPAGE_FRAME (R291, R292). -/
def execCmdpageFrame (f : MirFrame) (s : State) : Out := done (whenLive s fun s => s.mirIn 2 f fun s => s.mirTake true true f)

/-- BULK_FRAME (R292). -/
def execBulkFrame (f : MirFrame) (s : State) : Out := done (whenLive s fun s => s.mirIn 5 f fun s => s.mirTake false true f)

/-- Captured words entered into the standby's image, in order; nothing is captured from there. -/
def State.applyWords (s : State) (l : List CapWord) : State :=
  l.foldl (fun s c => if inRamWord (s.rd (PRD_MR_BASE c.region) + c.offset) then
    s.wrWord (s.rd (PRD_MR_BASE c.region) + c.offset) c.data else s) s

/-- A structure held aside enters the standby's solver slot (R289). -/
def State.applyLoad (s : State) (slot : Nat) : State :=
  let b := ((s.mir.loadHeld.filter (·.region = slot)).mergeSort fun x y => x.offset ≤ y.offset).flatMap (·.data)
  match s.slvCheckBody slot (b.take 32) (b.drop 32) with
  | .good x sig foot _ => (s.modSslot slot fun _ => x).slvSlotRegs slot 2 x sig foot
  | .fail _ => s

/-- A Flip order that a holder writes to a journal region (R333, R334). -/
def State.flipJournal (s : State) (o : Option FlipOrder) : State :=
  if s.holds then { s with mir := { s.mir with flip := some o } } else s

/-- A Flip order, of the journal or from half 1, takes effect: the checked shadow becomes PENDING, or the order is
dropped (R333). -/
def State.flipOrder (s : State) (o : Option FlipOrder) : State :=
  let s := s.flipJournal o
  match o, s.cfg.shadow with
  | some x, .checked => if x.crc = s.shadowCrc then { s with cfg := { s.cfg with shadow := .pending x } } else s
  | none, .pending _ => { s with cfg := { s.cfg with shadow := .checked } }
  | _, _ => s

/-- COMMIT_FRAME (R291, R292): `img` is what the delta carries of the engines' state and of the Flip order (R288, R333). -/
def execCommitFrame (f : MirFrame) (img : Option MirImage) (s : State) : Out :=
  done (whenLive s fun s => s.mirIn 1 f fun s =>
    if s.holds then s
    else
      let chain : Bool := s.rd PRD_STATUS_ML_STATE ≠ 3 ||
        (match s.mir.lastDseq with | some d => f.hdr.dseq = (d + 1) % 2 ^ 16 | none => true)
      if chain && f.hdr.count = s.mir.recvd && !s.mir.bad then
        let s := (s.applyWords s.mir.page).applyWords s.mir.journal
        let s := s.mir.loadDone.foldl (fun s n => s.applyLoad n) s
        let s := { s with mir := { s.mir with
          journal := [], page := [], recvd := 0, lastDseq := some f.hdr.dseq, loadDone := []
          loadHeld := s.mir.loadHeld.filter fun c => !s.mir.loadDone.contains c.region } }
        let s := s.wr PRD_MIR_STAT_CI_RX f.hdr.ci
        let s := match img with
          | some m =>
            let s := s.enterImage m
            match m.flip with | some o => s.flipOrder o | none => s
          | none => s
        let s := if s.rd PRD_STATUS_ML_STATE = 2 && s.mir.passDone && s.identSame then s.wrState PRD_STATUS_ML_STATE 5 0 3 else s
        s.updTake
      else s.discardDelta.resync)

/-- One word of a bulk pass put into the queue (R292). An uncorrectable word counts as one read by the mirror
(R412). -/
def State.bulkWord (s : State) : State :=
  match s.mir.bulk with
  | some (n, o) =>
    let w := s.rd (PRD_MR_BASE n) + o
    let s := match s.getWord w with
      | (s, some _) => s
      | (s, none) => s.codePip w false
    let s := s.deltaWord (if s.rd (PRD_MR_KIND n) = 2 then 2 else 5) n o (s.rdRaw w)
    { s with mir := { s.mir with bulk := s.passNext n o } }
  | none => s

/-- BULK_SEND (R292): while the queue holds less than 16 KiB. -/
def execBulkSend (s : State) : Out :=
  done (whenLive s fun s =>
    if s.holds && s.prd.mlUp && s.mir.bulk.isSome && queueWords s.mir.queue < mirBulkWords then s.bulkWord else s)

/-! ### LOAD, IDENT and SYNC_REQ (R289, R292, R333) -/

/-- LOAD_FRAME (R289): structure words of the slot in REGION. Once every word of the structure that its header word
announces has passed its Pip check, the standby answers LOAD_CONFIRM. -/
def execLoadFrame (f : MirFrame) (s : State) : Out :=
  done (whenLive s fun s => s.mirIn 6 f fun s =>
    if s.holds then s
    else
      let r := mirWords f
      let old := if f.hdr.offset = 0 then s.mir.loadHeld.filter (·.region ≠ f.hdr.region) else s.mir.loadHeld
      let s := { s with mir := { s.mir with loadHeld := old ++ r.1 } }
      let held := s.mir.loadHeld.filter (·.region = f.hdr.region)
      let head := ((held.find? (·.offset = 0)).map CapWord.data).getD []
      if head ≠ [] && held.length = 1 + slvBodyWords head then
        ({ s with mir := { s.mir with loadDone := s.mir.loadDone.filter (· ≠ f.hdr.region) ++ [f.hdr.region] } }).mirPush
          (s.mirFrame 7 f.hdr.region 0 0 0 [])
      else s)

/-- LOAD_CONFIRM_FRAME (R172, R289). -/
def execLoadConfirmFrame (f : MirFrame) (s : State) : Out :=
  done (whenLive s fun s => s.mirIn 7 f fun s =>
    ({ s with mir := { s.mir with loadWait := s.mir.loadWait.filter (· ≠ f.hdr.region) } }).slvConfirm f.hdr.region)

/-- IDENT of the mirror lane partner (R286, R292, R333). -/
def State.identML (s : State) (active shadow : Nat) : State :=
  let s := { s with mir := { s.mir with ident := some (active, shadow) } }
  if s.cfgDiff then
    let s := s.set1 PRD_ERR_CFG_DIFF
    let s := { s with mir := { s.mir with wantSync := true } }
    (if s.rd PRD_STATUS_ML_STATE = 3 then s.wrState PRD_STATUS_ML_STATE 5 0 2 else s).updTake
  else if s.isStandby && s.mir.wantSync then s.resync else s

/-- IDENT_FRAME (R333). -/
def execIdentFrame (lane : Lane) (f : MirFrame) (s : State) : Out :=
  done (whenLive s fun s =>
    let go (s : State) : State :=
      match f.words with
      | w :: _ =>
        match pipData w with
        | some d =>
          if lane = .ml then s.identML (field d 0 4) (field d 4 4)
          else { s with mir := { s.mir with identDL := some (field d 0 4, field d 4 4) } }
        | none => s
      | [] => s
    if lane = .ml then s.mirIn 8 f go else if s.on PRD_STATUS_DL_UP && f.hdr.kind = 8 then go s else s)

/-- SYNC_REQ_FRAME (R292): a fresh pass from the start of the first journal region. -/
def execSyncReqFrame (f : MirFrame) (s : State) : Out :=
  done (whenLive s fun s => s.mirIn 9 f fun s =>
    let order := match s.cfg.shadow with | .pending o => some (some o) | _ => s.mir.flip
    if s.holds then { s with mir := { s.mir with bulk := s.passFirst, flip := order } } else s)

/-- A write of PRD_CTRL.SYNC_REQ (R292, R297). -/
def State.prdSyncReq (s : State) : State × Bool :=
  if s.isStandby then (s.resync, true) else (s.set1 PRD_ERR_CMD_REJ, false)

/-- PRD_SYNC_REQ (R292). -/
def execPrdSyncReq (s : State) : Out := done (whenLive s fun s => s.prdSyncReq.1)

/-! ### Transmitters and the Domino lane (R287, R295, R334) -/

/-- MIRROR_LANE_TRANSMIT (R287): the oldest frame of the queue, or of the Domino lane's, is sent. -/
def execMirrorLaneTransmit (lane : Lane) (s : State) : Out :=
  done (whenLive s fun s =>
    match lane with
    | .ml =>
      match s.mir.queue with
      | f :: q => if s.prd.mlUp then { s with mir := { s.mir with queue := q, sent := some f } } else s
      | [] => s
    | .dl =>
      match s.mir.dlOut with
      | m :: q => if s.on PRD_STATUS_DL_UP then { s with mir := { s.mir with dlOut := q, dlSent := some m } } else s
      | [] => s)

/-- DOMINO_LANE_FRAME (R244, R295, R333, R334): a frame the other half passes on is delivered here; half 1 starts the Roll call asked
for at half 2; half 2 takes half 1's Flip order or its cancel; block columns belong to the factorisation in progress and leave no other state. -/
def execDominoLaneFrame (m : DominoMsg) (s : State) : Out :=
  done (whenLive s fun s =>
    if !s.domino || !s.on PRD_STATUS_DL_UP then s
    else match m with
      | .frame p f => s.deliverOk p f
      | .rollStart => if s.half2 then s else s.rollStart.1
      | .flip o => if s.half2 then s.flipOrder o else s
      | .ident a b => { s with mir := { s.mir with identDL := some (a, b) } }
      | .columns _ => s
      | .time _ => s)

/-! ### Registers (R297) -/

/-- Words of SRAM and of the firmware and application region (R404). -/
def regionPlace (b n : Nat) : Bool := b + n ≤ 0x80000 || (0xD20000 ≤ b && b + n ≤ 0x1000000)

/-- The rules of R297 on region n with new contents beside the others. -/
def State.regionOk (s : State) (n base size kind : Nat) : Bool :=
  if kind = 0 then true
  else
    let get (k : Nat) : Nat × Nat × Nat :=
      if k = n then (base, size, kind) else (s.rd (PRD_MR_BASE k), s.rd (PRD_MR_SIZE k), s.rd (PRD_MR_KIND k))
    let all := (regionIxs.map fun k => (k, get k)).filter fun e => e.2.2.2 ≠ 0
    kind ≤ 2 && 1 ≤ size && size ≤ 3014656 && regionPlace base size && (kind = 1 || size ≤ 1024) &&
    all.all (fun e => e.1 = n || e.2.1 + e.2.2.1 ≤ base || base + size ≤ e.2.1) &&
    (all.filter fun e => e.2.2.2 = 2).length ≤ 1 &&
    (all.filter fun e => e.2.2.2 = 1).foldl (fun a e => a + e.2.2.1) 0 ≤ 3538944

/-- A write to a register of the block by a processor (R297). -/
def State.writePrd (s : State) (who : Requester) (l : RegLoc) (v : Nat) : State × WRes :=
  let rej := fun (w : WRes) => (s.set1 PRD_ERR_CFG_REJ, w)
  let idle := s.rd PRD_STATUS_GATE = 0
  if l.row.name = "PRD_CTRL" then
    s.jointly
      [(PRD_ERR_CFG_REJ, fun s =>
         if bit v 0 then (s.wr PRD_CTRL_EN 1, true)
         else if !s.on PRD_CTRL_EN then (s, true)
         else if idle then ((s.mlDown.dlDown).wr PRD_CTRL_EN 0, true) else (s, false)),
       (PRD_ERR_CMD_REJ, fun s => if bit v 2 then s.prdSyncReq else (s, true)),
       (PRD_ERR_CMD_REJ, fun s => if bit v 1 then s.prdRelease else (s, true))]
  else if l.row.name = "PRD_WDT" then s.wdtWrite v
  else if l.row.name = "PRD_KICK" then (s.kick (match who with | .core n => n.val | _ => 8), .ok)
  else if l.row.name = "PRD_HB" then
    if !fldInRange PRD_HB_HB_TO (bits v 8 8) then rej .range
    else
      let s := s.wr PRD_HB_HB_TO (bits v 8 8)
      (if bit v 0 then s.hbTick else s, .ok)
  else if l.row.name = "PRD_COMMIT" then
    match s.prdCommit (v % 2 ^ 32) with
    | (s, ok) => (s, if ok then .ok else .state)
  else if l.row.name = "PRD_DIAG_EN" then (if idle then (s.wrReg l v, .ok) else rej .state)
  else if l.row.name = "PRD_MR" then
    let size := bits v 32 24; let kind := bits v 56 2
    if s.on PRD_CTRL_EN then rej .state
    else if kind = 3 || (kind ≠ 0 && (size = 0 || 3014656 < size)) then rej .range
    else if !s.regionOk l.n (bits v 0 32) size kind then rej .state
    else (s.wrReg l v, .ok)
  else (s.wrReg l v, .ok)

end Sys2Proof.Machine
end

