-- ==== Sys2Proof/Machine/Regs.lean ====
section
/-!
DEFINITION. Machine/Regs.lean: register access (R3 to R5, R62, R107, R135, R318, R403): which block's rules a write meets,
and the latches and held words of wide registers.
-/
namespace Sys2Proof.Machine

/-- A whole register written under its block's rules. -/
def State.blockWrite (s : State) (who : Requester) (l : RegLoc) (v : Nat) : State × WRes :=
  match blockOf l.base with
  | 0 => s.writeCfe l v
  | 1 =>
    let r := s.writeSch l v
    if l.row.name = "SCH_GRID_ORIGIN" then (r.1.phaseNow, r.2) else r
  | 2 => s.writeCse l v
  | 3 => s.writeGnb l v
  | 4 => s.writeFus l v
  | 5 => s.writeSlv l v
  | 6 => s.writeHlm l v
  | 7 => s.writeLpe l v
  | 8 => s.writePtu l v
  | 9 => s.writeZfb l v
  | 10 => s.writePrd who l v
  | 11 => s.writeMbx who l v
  | 12 => s.writeCrt l v
  | 13 => s.writeFio l v
  | 14 => s.writeCan l v
  | 15 => s.writeSaf l v
  | 16 => s.writePmc l v
  | _ => (s, .ok)

/-- Rows that follow R62 and R107. The slot tables, filter lists and message records of R380 are arrays of memory words
(notes/assumptions/27.md). -/
def wideRow (r : RegRow) : Bool := 32 < r.bits && !(["CAN_SLOT", "CAN_FILT", "CAN_REC"].contains r.name)

/-- What a word keeps when another word of its register is written: RW fields as they stand, W1C bits as written 0. -/
def State.keepVal (s : State) (l : RegLoc) : Nat :=
  l.flds.foldl (fun v f => v + (if f.acc = .rw then s.rd f <<< l.pos f else 0)) 0

/-- A requester's latched and held words of one register. -/
def State.wideOf (s : State) (who : Requester) (base : Nat) : WideSlot :=
  (s.wide.find? fun w => w.who = who && w.base = base).getD { who := who, base := base, latched := [], held := [] }

def State.setWide (s : State) (w : WideSlot) : State :=
  { s with wide := (if w.latched.isEmpty && w.held.isEmpty then [] else [w]) ++
      s.wide.filter fun x => !(x.who = w.who && x.base = w.base) }

/-- A word of a register value replaced. -/
def withWord (v k w : Nat) : Nat := v - (wordOf v k) <<< (32 * k) + (w % 2 ^ 32) <<< (32 * k)

/-- A read of a counter of a chained pair (R446): the low one latches the high one for the requester's next read of that. -/
def State.chainRead (s : State) (who : Requester) (l : RegLoc) : State × Nat :=
  let w := s.wideOf who (l.base - 4 * (l.n % 2))
  if l.n % 2 = 0 then
    (s.setWide { w with latched := [(1, s.rd (PMC_CNT_VALUE (l.n + 1)))] }, s.rd (PMC_CNT_VALUE l.n))
  else match w.latched with
    | e :: _ => (s.setWide { w with latched := [] }, e.2)
    | [] => (s, s.rd (PMC_CNT_VALUE l.n))

/-- One aligned 32-bit read by a requester (R3, R5, R62, R107, R403): the value read and what the read changes. -/
def State.regRead (s : State) (who : Requester) (a : Nat) : State × Nat :=
  match findReg a with
  | none => (s, 0)
  | some l =>
    if l.row.name = "PMC_CNT" && s.chained l.n then s.chainRead who l
    else if !wideRow l.row then (s.clearRC l (fun k => k = l.word), wordOf (s.regVal l) l.word)
    else
      let w := s.wideOf who l.base
      if l.word = 0 then
        let v := s.regVal l
        ((s.clearRC l fun _ => true).setWide
          { w with latched := (List.range (l.words - 1)).map fun k => (k + 1, wordOf v (k + 1)) }, wordOf v 0)
      else match w.latched.find? (fun e => e.1 = l.word) with
        | some e => (s.setWide { w with latched := w.latched.filter fun x => x.1 ≠ l.word }, e.2)
        | none => (s.clearRC l (fun k => k = l.word), wordOf (s.regVal l) l.word)

/-- One aligned 32-bit write by a requester (R3, R4, R62, R107, R403): a lower word of a wide register is held, its
highest word commits the whole. -/
def State.regWrite (s : State) (who : Requester) (a v : Nat) : State × WRes :=
  match findReg a with
  | none => (s, .ok)
  | some l =>
    if !wideRow l.row then
      s.blockWrite who l (if l.words = 1 then v % 2 ^ 32 else withWord (s.keepVal l) l.word v)
    else
      let w := s.wideOf who l.base
      if l.word + 1 < l.words then
        (s.setWide { w with held := (l.word, v % 2 ^ 32) :: w.held.filter fun x => x.1 ≠ l.word }, .ok)
      else
        let whole := w.held.foldl (fun n e => withWord n e.1 e.2) (withWord (s.keepVal l) l.word v)
        (s.setWide { w with held := [] }).blockWrite who l whole

/-- A processor's access to an aligned word of a register window; any other address is a bus error (R402, R403). -/
def atReg (a : BitVec 64) (s : State) (f : State → State) : State :=
  if inRegs a.toNat && a.toNat % 4 = 0 then f s else s.busErr a.toNat

/-- A read as a processor makes it: its value delivered. -/
def State.procRead (s : State) (who : Requester) (a : BitVec 64) : State :=
  if inRegs a.toNat && a.toNat % 4 = 0 then
    match s.regRead who a.toNat with
    | (s, v) => s.deliver who a.toNat v
  else (s.busErr a.toNat).deliverNone who

/-! ### Rows -/

/-- REGISTER_WRITE (R3, R4): a write of one word of a register. -/
def execRegisterWrite (who : Requester) (addr : BitVec 64) (v : BitVec 32) (s : State) : Out :=
  done (whenLive s fun s => atReg addr s fun s => (s.regWrite who addr.toNat v.toNat).1)

/-- READ_CLEAR (R3, R5): a read of one word of a register. -/
def execReadClear (who : Requester) (addr : BitVec 64) (s : State) : Out :=
  done (whenLive s fun s => s.procRead who addr)

/-- The row concerns a word of a wide register for which `p` holds. -/
def onWide (a : BitVec 64) (p : RegLoc → Bool) (s : State) (f : State → State) : State :=
  match findReg a.toNat with
  | some l => if wideRow l.row && p l && a.toNat % 4 = 0 then f s else s
  | none => s

/-- WIDE_REG_LOW_READ (R5, R62, R107). -/
def execWideRegLowRead (who : Requester) (addr : BitVec 64) (s : State) : Out :=
  done (whenLive s fun s => onWide addr (fun l => l.word = 0) s fun s => s.procRead who addr)

/-- WIDE_REG_HIGH_READ (R62, R107). -/
def execWideRegHighRead (who : Requester) (addr : BitVec 64) (s : State) : Out :=
  done (whenLive s fun s => onWide addr (fun l => 0 < l.word) s fun s => s.procRead who addr)

/-- WIDE_REG_LOWER_WRITE (R62, R107). -/
def execWideRegLowerWrite (who : Requester) (addr : BitVec 64) (v : BitVec 32) (s : State) : Out :=
  done (whenLive s fun s => onWide addr (fun l => l.word + 1 < l.words) s fun s => (s.regWrite who addr.toNat v.toNat).1)

/-- WIDE_REG_COMMIT_WRITE (R62, R107). -/
def execWideRegCommitWrite (who : Requester) (addr : BitVec 64) (v : BitVec 32) (s : State) : Out :=
  done (whenLive s fun s => onWide addr (fun l => l.word + 1 = l.words) s fun s => (s.regWrite who addr.toNat v.toNat).1)

/-- FUS_IN_PUSH (R135): the write to offset 0x07C commits the requester's sample. -/
def execFusInPush (who : Requester) (v : BitVec 32) (s : State) : Out :=
  done (whenLive s fun s => (s.regWrite who 0x4004007C v.toNat).1)

/-! ### REG_READ and REG_WRITE (R318) -/

/-- A 4-byte-aligned address inside a register block, `words` words of which lie in the block. -/
def blockSpan (a words : Nat) : Bool :=
  inRegs a && a % 4 = 0 && blockOf a = blockOf (a + 4 * words - 1)

/-- n words read in turn by the mailbox path. -/
def State.regReads : Nat → State → Nat → State × Bytes
  | 0, s, _ => (s, [])
  | n + 1, s, a =>
    match s.regRead .mbox a with
    | (s, v) =>
      match State.regReads n s (a + 4) with
      | (s, b) => (s, bytesOf 4 v ++ b)

/-- n words written in turn by the mailbox path; the last one's outcome is the register's. -/
def State.regWrites : Nat → State → Nat → Bytes → WRes → State × WRes
  | 0, s, _, _, r => (s, r)
  | n + 1, s, a, d, _ =>
    match s.regWrite .mbox a (field d 0 4) with
    | (s, r) => State.regWrites n s (a + 4) (d.drop 4) r

/-- REG_READ (R317, R318). -/
def execRegRead (s : State) : Out :=
  done (whenLive s fun s => s.runCmd 0x0101 anyParams neverRefused
    (fun _ p => p.length ≠ 12 || field p 10 2 ≠ 0 || !blockSpan (field p 0 8) (field p 8 2) || (findReg (field p 0 8)).isNone)
    (fun s _ p => match State.regReads (field p 8 2) s (field p 0 8) with | (s, b) => { st := s, status := 0, data := b }))

/-- The address is a register's first word and the count its width in words (R318). -/
def wholeReg (a words : Nat) : Bool :=
  a % 4 = 0 && match findReg a with
    | some l => (if wideRow l.row || l.words = 1 then l.word = 0 && words = l.words else words = 1)
    | none => false

/-- REG_WRITE (R317, R318). -/
def execRegWrite (s : State) : Out :=
  done (whenLive s fun s => s.runCmd 0x0102 anyParams neverRefused
    (fun _ p => p.length < 12 || p.length ≠ 12 + 4 * field p 8 2 || field p 10 2 ≠ 0 || !wholeReg (field p 0 8) (field p 8 2))
    (fun s _ p => endedW (State.regWrites (field p 8 2) s (field p 0 8) (p.drop 12) .ok)))

end Sys2Proof.Machine
end

