-- ==== Sys2Proof/Machine/Cfg.lean ====
section
/-!
DEFINITION. Machine/Cfg.lean: configuration sets (chapter 14): parsing, the checks of R328, start-only items, taking a set at
start, and Flip. A set is handled as its run of bytes.
-/
namespace Sys2Proof.Machine

/-! ### The image (R323) -/

def setN (b : Bytes) : Nat := field b 5 1
def setLen (b : Bytes) : Nat := field b 8 4

/-- Entry i of the directory: TYPE, OFFSET, LENGTH. -/
def setEntry (b : Bytes) (i : Nat) : Nat × Nat × Nat :=
  (field b (64 + 16 * i) 2, field b (68 + 16 * i) 4, field b (72 + 16 * i) 4)

def setDir (b : Bytes) : List (Nat × Nat × Nat) := (List.range (setN b)).map (setEntry b)

/-- The section of a TYPE. -/
def setSec (b : Bytes) (t : Nat) : Option Bytes :=
  ((setDir b).find? fun e => e.1 = t).map fun e => slice b e.2.1 e.2.2

/-- Every section, by TYPE. -/
def setSecs (b : Bytes) : List (Nat × Bytes) := (setDir b).foldl (fun l e => aIns e.1 (slice b e.2.1 e.2.2) l) []

def secIn (l : List (Nat × Bytes)) (t : Nat) : Bytes := (aGet t l).getD []

/-- Every byte of a run is zero. -/
def zeroRun (b : Bytes) (o k : Nat) : Bool := (slice b o k).all (· = 0)

/-- The CRC of R323 over the set. -/
def setCrcOk (b : Bytes) : Bool :=
  crc32 (slice b 0 12 ++ bytesOf 4 0 ++ slice b 16 (setLen b - 16)) = field b 12 4

/-- The outcome of a check: status, TYPE and offset of what failed; an offset that the spec does not fix is none. -/
structure ChkRes where
  code : Nat
  typ  : Nat
  off  : Option Nat

def ChkRes.good : ChkRes := { code := 0, typ := 0, off := some 0 }
def ChkRes.fail (code typ : Nat) : ChkRes := { code := code, typ := typ, off := none }
def ChkRes.and (a : ChkRes) (b : ChkRes) : ChkRes := if a.code = 0 then b else a

/-! ### Register records (R326) -/

structure RegRec where
  addr  : Nat
  words : Nat
  rsv   : Nat
  value : Nat
  off   : Nat

/-- Bytes of a record of w words. -/
def recSize (w : Nat) : Nat := (8 + 4 * w + 31) / 32 * 32

/-- The records of a REGISTERS section; false where one runs past the section. -/
def regRecs : Nat → Bytes → Nat → List RegRec × Bool
  | 0, _, _ => ([], true)
  | n + 1, b, o =>
    if b.length ≤ o then ([], true)
    else
      let w := field b (o + 4) 2
      if b.length < o + recSize w then ([], false)
      else
        match regRecs n b (o + recSize w) with
        | (l, ok) =>
          ({ addr := field b o 4, words := w, rsv := field b (o + 6) 2, value := field b (o + 8) (4 * w), off := o } :: l, ok)

def recsOf (b : Bytes) : List RegRec := (regRecs (b.length / 32 + 1) b 0).1

/-- The bits of a register that are RW fields. -/
def RegLoc.rwMask (l : RegLoc) : Nat :=
  l.flds.foldl (fun m f => m + (if f.acc = .rw then (2 ^ f.width - 1) <<< l.pos f else 0)) 0

/-- The bits of a register that a record may not set: WO, W1C and reserved ones are outside this mask (R326). -/
def RegLoc.recMask (l : RegLoc) : Nat :=
  l.flds.foldl (fun m f => m + (if f.acc = .wo || f.acc = .w1c then 0 else (2 ^ f.width - 1) <<< l.pos f)) 0

def RegLoc.rstVal (l : RegLoc) : Nat :=
  l.flds.foldl (fun v f => v + (if f.acc = .rw then f.rst <<< l.pos f else 0)) 0

/-- Registers that no record may name. -/
def barredRegs : List String := ["HLM_SP", "HLM_JOY", "HLM_PLANT_IN", "HLM_LOAD", "HLM_AZ_FB", "CFE_BAL_REQ"]

/-- The register that a record names, where it is well formed by itself. -/
def RegRec.loc (r : RegRec) : Option RegLoc :=
  match findReg r.addr with
  | some l =>
    if r.addr % 4 = 0 && l.word = 0 && (wideRow l.row || l.words = 1) && r.words = l.words && r.rsv = 0 &&
        l.rwMask ≠ 0 && r.value &&& l.recMask = r.value && !barredRegs.contains l.row.name then some l
    else none
  | none => none

/-- The RUN fields (R326, R327). -/
def runFields : List Fld :=
  [SCH_CTRL_RUN, CSE_CTRL_RUN, GNB_CTRL_RUN, FUS_CTRL_RUN, SLV_CTRL_RUN, HLM_CTRL_RUN, LPE_CTRL_RUN, ZFB_CTRL_RUN,
   CRT_CTRL_RUN, PMC_CTRL_RUN]

/-- A register with its RUN field, if it has one, at 0. -/
def RegLoc.noRun (l : RegLoc) (v : Nat) : Nat :=
  l.flds.foldl (fun v f => if runFields.contains f && v.testBit (l.pos f) then v - 2 ^ l.pos f else v) v

/-- A record applied as an ordinary write without its RUN field. -/
def State.recWrite (s : State) (r : RegRec) : State × WRes :=
  match r.loc with
  | some l => s.blockWrite .mgmt l (l.noRun (r.value &&& l.rwMask))
  | none => (s, .range)

/-- The RUN field of a record applied. The runtime's waits for the end of the start (R435). -/
def State.recRun (s : State) (r : RegRec) : State :=
  match r.loc with
  | some l =>
    let v := r.value &&& l.rwMask
    if l.noRun v = v then s
    else if l.row.name = "CRT_CTRL" then { s with cfg := { s.cfg with runCrt := true } }
    else (s.blockWrite .mgmt l v).1
  | none => s

/-- A register's RW fields as a set leaves them: its last record's value, or the reset value. -/
def effVal (rs : List RegRec) (l : RegLoc) : Nat :=
  match rs.reverse.find? (fun r => r.addr = l.base) with
  | some r => r.value
  | none => l.rstVal

/-- A field of the register as a set leaves it. -/
def effFld (rs : List RegRec) (f : Fld) : Nat :=
  match findReg (f.addr / 4 * 4) with
  | some l => l.get (effVal rs l) f
  | none => f.rst

/-! ### Checks of single sections -/

/-- ROLE (R324). -/
def roleOk (b : Bytes) : Bool :=
  b.length = 32 && field b 0 1 ≤ 2 && (if field b 0 1 = 2 then field b 1 1 = 1 || field b 1 1 = 2 else field b 1 1 = 0) && zeroRun b 2 30

/-- DOMAIN (R325): no field of ZFB_DOM_CFG out of range, SPAN and boundary entries as stated. -/
def domainOk (b : Bytes) : Bool :=
  let v := field b 0 8
  let l : RegLoc := { row := { name := "ZFB_DOM_CFG", base := 0x40090010, stride := 8, count := 1, bits := 64,
                               fields := fun _ => [ZFB_DOM_CFG_DOMAIN, ZFB_DOM_CFG_ID_BASE, ZFB_DOM_CFG_ID_COUNT] }, n := 0, word := 0 }
  b.length = 16 + 24 * field b 14 1 && l.inRange v && v &&& l.rwMask = v && bits v 48 16 ≤ field b 8 4 &&
  bits v 16 18 + field b 8 4 ≤ 0x3FFFF && field b 12 1 ≤ 1 && field b 15 1 = 0 &&
  (List.range (field b 14 1)).all fun i =>
    let o := 16 + 24 * i
    (field b (o + 8) 1 = 2 || field b (o + 8) 1 = 3) && zeroRun b (o + 10) 6

/-- CHEMISTRY (R79). -/
def chemOk (b : Bytes) : Bool :=
  let ocv (t i : Nat) : Nat := field b (40 + 42 * t + 2 * i) 2
  b.length = 208 && zeroRun b 30 2 && field b 36 2 = 0x1000 &&
  field b 12 2 < field b 16 2 && field b 16 2 < field b 14 2 && field b 14 2 < field b 10 2 &&
  (List.range 4).all fun t => (List.range 20).all fun i => ocv t i < ocv t (i + 1)

/-- NET (R325). -/
def netOk (b : Bytes) : Bool :=
  b.length = 64 && field b 0 2 ≤ 4094 && zeroRun b 2 2 && field b 8 1 ≤ 32 && zeroRun b 9 3 &&
  field b 32 1 ≤ 128 && zeroRun b 33 15

/-- Slot k of controller n and record m in a CAN section, as numbers. -/
def canSlotAt (b : Bytes) (n k : Nat) : Nat := field b (secSlots n + 16 * k) 16
def canFiltAt (b : Bytes) (n e : Nat) : Nat := field b (secFilts n + 16 * e) 16
def canRecAt (b : Bytes) (n m : Nat) : Nat := field b (secRec n m) 32
def canIsTx (b : Bytes) (n m : Nat) : Bool := bit (canRecAt b n m) 37

/-- CAN (R370, R372, R376): `per` gives each controller's BASE_PER in the set. -/
def canSecOk (b : Bytes) (per : Nat → Nat) : Bool :=
  b.length = 61440 && (List.range 4).all fun n =>
    let ks := (List.range 64).map (canSlotAt b n)
    let en := ks.filter fun v => bit v 39
    ks.all (fun v => bits v 56 72 = 0) && risingEq (en.map fun v => bits v 0 20) &&
    en.all (fun v => 10 ≤ bits v 20 12 && bits v 0 20 + bits v 20 12 ≤ per n && canIsTx b n (bits v 32 7)) &&
    decide (en.map fun v => bits v 32 7).Nodup &&
    (List.range 128).all (fun e =>
      let v := canFiltAt b n e
      bits v 11 21 = 0 && bits v 61 3 = 0 && bits v 93 35 = 0 &&
      (bits v 0 2 = 0 || !canIsTx b n (bits v 4 7)) && (bits v 0 2 ≠ 1 || bits v 32 29 ≤ bits v 64 29)) &&
    (List.range 128).all fun m =>
      let v := canRecAt b n m
      bits v 42 6 = 0 && bits v 56 8 = 0 && bits v 112 144 = 0

/-! ### TASKS and SIGNALS (R335 to R338, R352) -/

/-- Counts and sizes of the two sections beyond their limits. -/
def tasksLenBad (t g : Bytes) : Bool :=
  let n := field t 5 1
  n = 0 || 32 < n || t.length < 64 + 64 * n ||
  (List.range n).any (fun i =>
    let o := 64 + 64 * i
    let k := field t (o + 36) 2 + field t (o + 38) 2
    4096 < field t (o + 36) 2 || 4096 < field t (o + 38) 2 || t.length < field t (o + 40) 4 + 4 * k ||
    t.length < field t (o + 44) 4 + field t (o + 48) 4 || field t (o + 52) 4 < 4096 || 1048576 < field t (o + 52) 4) ||
  field g 0 4 = 0 || 16384 < field g 0 4 || 64 < field g 4 2 || g.length < 32 + 32 * field g 0 4 + 16 * field g 4 2

/-- The period of a cyclic task and MIN_SEP of an event task, in ns (R336). -/
def TaskDesc.tNs (d : TaskDesc) : Nat := if d.kind = 0 then (d.div + 1) * 250000 else 1000 * d.minSep

/-- wcet + b of R336. -/
def TaskDesc.cost (d : TaskDesc) : Nat := d.wcet + 4000 + 10 * (d.ins.length + d.outs.length)

/-- The response time of R336, iterated while it stays within the limit. -/
def respIter : Nat → TaskDesc → List TaskDesc → Nat → Nat → Bool
  | 0, _, _, _, _ => false
  | n + 1, d, hs, lim, r =>
    let r' := d.cost + hs.foldl (fun a h => a + (r + h.tNs - 1) / h.tNs * h.cost) 0
    if r' = r then r ≤ lim else if lim < r' then false else respIter n d hs lim r'

/-- The admission test of R336 for one task among all. -/
def admitted (ds : List TaskDesc) (d : TaskDesc) : Bool :=
  let lim := 1000 * (d.outOff - d.inOff)
  respIter (lim + 2) d (ds.filter fun h => h.index ≠ d.index && h.core = d.core && h.half = d.half && d.prio ≤ h.prio) lim d.cost

/-- One task descriptor (R335, R340). -/
def taskOk (t : Bytes) (domino : Bool) (i : Nat) : Bool :=
  let o := 64 + 64 * i
  let d := taskDesc t i
  d.index < 32 && d.kind ≤ 1 && d.prio ≤ 15 && d.core < 8 && bit (field t 6 1) d.core &&
  (if domino then d.half = 1 || d.half = 2 else d.half = 0) && field t (o + 5) 1 ≤ 1 && field t (o + 7) 1 = 0 &&
  field t (o + 44) 4 % 32 = 0 && zeroRun t (o + 56) 8 && d.inOff < d.outOff &&
  if d.kind = 0 then d.div ≤ 39999 && d.ph ≤ d.div && d.outOff ≤ (d.div + 1) * 250
  else 1 ≤ d.evt && d.evt ≤ 6 && d.inOff = 0 && 250 ≤ d.minSep && d.minSep ≤ 10000000

/-- One signal entry (R337, R338, R352). An exported signal holds its value index in BIND2. -/
def sigOk (nStn : Nat) (g : Sig) : Bool :=
  let b2 : Bool := g.flags ≠ 0 || g.bind2 = 0
  1 ≤ g.id && g.id ≤ 0xFFFFFFFE && g.typ ≤ 7 && g.cls ≤ 3 && g.flags ≤ 3 &&
  match g.kind with
  | 0 => g.bind = 0 && b2
  | 1 => b2 && g.typ = 0 && g.bind < 48 && (if g.bind < 16 || 32 ≤ g.bind then g.cls = 1 else g.cls = 2)
  | 2 => b2 && g.typ = 7 && g.bind < 1024
  | 3 => bits g.bind 0 8 < 4 && bits g.bind 8 16 < 128 && bits g.bind 24 8 = 0 &&
      (g.flags ≠ 0 || (1 ≤ bits g.bind2 16 16 && bits g.bind2 16 16 ≤ 64 && bits g.bind2 0 16 + bits g.bind2 16 16 ≤ 512))
  | 4 => g.bind < nStn && g.bind2 ≤ 251
  | 5 => g.bind = 0 && g.bind2 = 0 && g.cls = 1
  | 6 => g.cls = 2 && g.bind < 0x40000
  | 7 => g.bind2 < max nStn 1 &&
      (match g.bind with
       | 1 => g.typ = 0 && g.cls = 1 | 2 => g.typ = 0 && g.cls = 2 | 3 => g.typ = 0 && g.cls = 1 | 4 => g.typ = 4 && g.cls = 1
       | _ => false)
  | _ => false

/-- TASKS and SIGNALS together (R336). -/
def tasksOk (t g : Bytes) (domino : Bool) : Bool :=
  let ds := taskDescs t
  let gs := sigsOf g
  let ids := gs.map (·.id)
  let cls (id : Nat) : Option Nat := (gs.find? fun x => x.id = id).map (·.cls)
  let nStn := field g 4 2
  field t 0 4 = 0x4B534154 && field t 4 1 = 1 && field t 7 1 = 0 && field t 8 4 = 0x00010000 && zeroRun t 20 44 &&
  (List.range ds.length).all (taskOk t domino) && decide (ds.map (·.index)).Nodup &&
  zeroRun g 6 2 && 1 ≤ field g 12 1 && field g 12 1 ≤ 15 && zeroRun g 13 19 &&
  rising ids && gs.all (sigOk nStn) &&
  (stnsOf g).all (fun d => 1 ≤ d.miss && d.miss ≤ 15 && 1 ≤ d.nIn && d.nIn ≤ 252 && 1 ≤ d.nOut && d.nOut ≤ 252 &&
    d.node < 0x40000 && ds.any fun x => x.index = d.task && x.kind = 0) &&
  (List.range nStn).all (fun k => zeroRun g (32 + 32 * field g 0 4 + 16 * k + 10) 6) &&
  ds.all (fun d => d.ins.all (fun id => (cls id).isSome && cls id ≠ some 2) && d.outs.all (fun id => (cls id).isSome && cls id ≠ some 1)) &&
  decide (ds.flatMap (·.outs)).Nodup && ds.all (admitted ds)

/-! ### The whole set (R328) -/

/-- The length of a section beyond the limit of its type, or a count in it beyond its limit (R325, R335, R337, R400). -/
def secLenBad (secs : List (Nat × Bytes)) (t : Nat) (b : Bytes) : Bool :=
  match t with
  | 1 => 32 < b.length
  | 2 => 400 < b.length || 16 < field b 14 1 || b.length < 16 + 24 * field b 14 1 || 32768 < bits (field b 0 8) 48 16 ||
      0x3FFFE < bits (field b 0 8) 16 18 + field b 8 4 - 1
  | 3 => !(regRecs (b.length / 32 + 1) b 0).2
  | 4 => 208 < b.length
  | 5 => 5632 < b.length || plantCheck b (field (secIn secs 1) 0 1 = 2) (field (secIn secs 2) 13 1) = 1 ||
      b.length < 256 + 32 * field b 1 1 + 16 * field b 4 2 + 16 * field b 2 1
  | 6 => tasksLenBad b (secIn secs 7)
  | 8 => 61440 < b.length
  | 9 => 368 < b.length
  | 10 => 64 < b.length
  | _ => false

/-- Step 1 of R328 on the header and the directory. -/
def headLenBad (b : Bytes) : Bool := setN b = 0 || 32 < setN b || setLen b < 96 || 2097152 < setLen b

def dirLenBad (b : Bytes) : Option Nat :=
  ((setDir b).find? fun e => setLen b < e.2.1 + e.2.2).map (·.1)

/-- The header and the directory by R323. -/
def imageOk (b : Bytes) : Bool :=
  let d := setDir b
  field b 0 4 = 0x53435844 && field b 4 1 = 1 && zeroRun b 6 2 && setLen b % 32 = 0 && zeroRun b 28 36 &&
  64 + 16 * setN b ≤ setLen b &&
  (List.range (setN b)).all (fun i => zeroRun b (64 + 16 * i + 2) 2 && zeroRun b (64 + 16 * i + 12) 4) &&
  d.all (fun e => e.2.1 % 32 = 0 && 64 + 16 * setN b ≤ e.2.1 && 1 ≤ e.1 && e.1 ≤ 10) && decide (d.map (·.1)).Nodup &&
  d.all fun e => d.all fun x => x.1 = e.1 || e.2.2 = 0 || x.2.2 = 0 || e.2.1 + e.2.2 ≤ x.2.1 || x.2.1 + x.2.2 ≤ e.2.1

/-- The state on which the records of a set are tried: the module after reset with the set's own sections. -/
def checkBase (secs : List (Nat × Bytes)) : State :=
  let r := State.reset
  let d := secIn secs 2
  { r with
    start := { r.start with setting := field (secIn secs 1) 0 1, half := field (secIn secs 1) 1 1 }
    zfb := { r.zfb with span := field d 8 4, helmEn := field d 12 1 = 1, helmDom := field d 13 1 }
    cfg := { r.cfg with secs := secs } }

/-- The records tried in order; the offset of the first that is invalid (R326). -/
def tryRecs : List RegRec → State → Option Nat
  | [], _ => none
  | r :: rs, s =>
    match s.recWrite r with
    | (s, .ok) => tryRecs rs s
    | _ => some r.off

/-- The section that is required and missing (R324). -/
def missingSec (secs : List (Nat × Bytes)) : Option Nat :=
  let has (t : Nat) : Bool := (aGet t secs).isSome
  let rs := recsOf (secIn secs 3)
  if !has 1 then some 1 else if !has 2 then some 2 else if !has 3 then some 3
  else if effFld rs CSE_CTRL_RUN = 1 && !has 4 then some 4
  else if effFld rs HLM_CTRL_RUN = 1 && !has 5 then some 5
  else if has 6 && !has 7 then some 7 else if has 7 && !has 6 then some 6
  else if effFld rs MBX_ETH_CFG_EN = 1 && !has 10 then some 10
  else none

/-- Step 3 of R328 on one section: BAD_ENTRY unless it keeps the rules of its chapter. -/
def secRule (secs : List (Nat × Bytes)) (t : Nat) (b : Bytes) : ChkRes :=
  let rs := recsOf (secIn secs 3)
  let domino : Bool := field (secIn secs 1) 0 1 = 2
  let tell (ok : Bool) : ChkRes := if ok then .good else .fail 5 t
  match t with
  | 1 => tell (roleOk b)
  | 2 => tell (domainOk b)
  | 3 => match tryRecs rs (checkBase secs) with
    | none => .good
    | some o => { code := 5, typ := 3, off := some o }
  | 4 => tell (chemOk b)
  | 5 => tell (plantCheck b domino (field (secIn secs 2) 13 1) = 0)
  | 6 => tell (tasksOk b (secIn secs 7) domino)
  | 8 => tell (canSecOk b fun n => effFld rs (CAN_SCHED_BASE_PER n))
  | 9 => tell (safCheck b (canIsTx (secIn secs 8)) = 0)
  | 10 => tell (netOk b)
  | _ => .good

/-- The checks of R328 on a set whose words all passed their Pip check, in its order. -/
def setCheck (b : Bytes) : ChkRes :=
  let secs := setSecs b
  let step1 : ChkRes := match secs.find? (fun e => secLenBad secs e.1 e.2) with
    | some e => .fail 1 e.1
    | none => .good
  let step2 : ChkRes := if setCrcOk b then .good else .fail 2 0
  let step3 : ChkRes := if imageOk b then .good else .fail 5 0
  let need : ChkRes := match missingSec secs with | some t => .fail 5 t | none => .good
  let rules := secs.foldl (fun r e => r.and (secRule secs e.1 e.2)) ChkRes.good
  (((step1.and step2).and step3).and need).and rules

/-- The set of a slot read word by word and checked (R328): its bytes as far as they were read. -/
def State.checkSlot (s : State) (slot : Nat) : State × ChkRes × Bytes :=
  let w := setBase slot / 32
  match State.readWords 2 s w with
  | (s, none) => (s, .fail 2 0, [])
  | (s, some h) =>
    if headLenBad h then (s, .fail 1 0, h)
    else match State.readWords ((64 + 16 * setN h + 31) / 32) s w with
      | (s, none) => (s, .fail 2 0, h)
      | (s, some d) =>
        match dirLenBad d with
        | some t => (s, .fail 1 t, h)
        | none =>
          match State.readWords ((setLen h + 31) / 32) s w with
          | (s, none) => (s, .fail 2 0, h)
          | (s, some b) => (s, setCheck b, b)

/-- The set of a slot as it stands, with no effect of reading. -/
def State.slotBytes (s : State) (slot : Nat) : Bytes :=
  let w := setBase slot / 32
  let n := setLen ((pipData (s.rdRaw w)).getD [])
  (List.range ((min n 2097152 + 31) / 32)).flatMap fun i => (pipData (s.rdRaw (w + i))).getD (bytesOf 32 0)

/-! ### Start-only items (R327) -/

def startOnlyRegs : List String :=
  ["SCH_GRID_PERIOD", "SCH_GRID_ORIGIN", "FUS_CYCLE_CFG", "FUS_ORIGIN", "FUS_GNSS_CFG", "GNB_IF_CFG", "GNB_MEAS_CFG", "CSE_SHUNT_CFG",
   "LPE_ORIGIN", "HLM_QP_CFG", "PTU_CTRL", "PTU_SERVO", "PTU_SYNC_CFG", "ZFB_TX_RING", "ZFB_RX_RING", "MBX_PATH", "MBX_ETH_CFG",
   "PRD_CTRL", "PRD_DIAG_EN", "PRD_WDT", "PRD_MR"]

/-- A field that no Flip changes; `act` are the records of the active set. -/
def startOnly (act : List RegRec) (l : RegLoc) (f : Fld) : Bool :=
  let loopOn : Bool := effFld act (LPE_LOOP_CFG_EN l.n) = 1
  runFields.contains f || startOnlyRegs.contains l.row.name || f = CSE_CTRL_CHG_POS || f = LPE_CTRL_OUT_OFF ||
  (l.row.name = "LPE_LOOP_CFG" && f ≠ LPE_LOOP_CFG_EN l.n && loopOn) || (l.row.name = "LPE_LOOP_IO" && loopOn)

/-- The registers that either set names, by rising address. -/
def namedRegs (act new : List RegRec) : List RegLoc :=
  ((((act ++ new).map (·.addr)).mergeSort fun a b => a ≤ b).eraseDups).filterMap findReg

/-- The RW fields of a register that two sets leave at different values. -/
def diffFlds (act new : List RegRec) (l : RegLoc) : List Fld :=
  l.flds.filter fun f => f.acc = .rw && l.get (effVal act l) f ≠ l.get (effVal new l) f

/-- The first start-only difference of two sets: TYPE and, for a register, its address. -/
def startDiff (a b : List (Nat × Bytes)) : Option (Nat × Nat) :=
  let act := recsOf (secIn a 3)
  let new := recsOf (secIn b 3)
  if aGet 1 a ≠ aGet 1 b then some (1, 0)
  else if aGet 2 a ≠ aGet 2 b then some (2, 0)
  else match (namedRegs act new).find? (fun l => (diffFlds act new l).any (startOnly act l)) with
    | some l => some (3, l.base)
    | none => if aGet 10 a ≠ aGet 10 b then some (10, 0) else none

/-! ### A set taken at start (R322, R326, R435 step 4) -/

/-- The boundary list of a DOMAIN section. -/
def bndOf (d : Bytes) : List (Nat × Nat × Nat × Nat) :=
  (List.range (field d 14 1)).map fun i =>
    let o := 16 + 24 * i
    (field d o 8, field d (o + 8) 1, field d (o + 9) 1, field d (o + 16) 8)

/-- The active set applied: role setting, domain, register records in set order, the sections, and every RUN field
last. -/
def State.applySet (s : State) (b : Bytes) : State :=
  let secs := setSecs b
  let d := secIn secs 2
  let rs := recsOf (secIn secs 3)
  let v := field d 0 8
  let s := { s with
    start := { s.start with setting := field (secIn secs 1) 0 1, half := field (secIn secs 1) 1 1 }
    zfb := { s.zfb with span := field d 8 4, helmEn := field d 12 1 = 1, helmDom := field d 13 1, bnd := bndOf d }
    cfg := { s.cfg with secs := secs, runCrt := false } }
  let s := s.wrAll [(ZFB_DOM_CFG_DOMAIN, bits v 0 8), (ZFB_DOM_CFG_ID_BASE, bits v 16 18), (ZFB_DOM_CFG_ID_COUNT, bits v 48 16)]
  let s := rs.foldl (fun s r => (s.recWrite r).1) s
  let s := match aGet 8 secs with | some c => s.canApply c | none => s
  let s := match aGet 9 secs with | some c => s.safApply c | none => s
  rs.foldl (fun s r => s.recRun r) s.crtApply

/-! ### Flip (R330 to R334) -/

/-- A register written at F: by its block's rules, or as it stands where those bar the write while the block runs, since the
register is not start-only (R327). -/
def State.flipReg (s : State) (l : RegLoc) (v : Nat) : State :=
  let r := s.blockWrite .mgmt l v
  if r.2 = .ok then r.1 else s.wrReg l v

/-- The register as the new set leaves it, its start-only fields as they stand. -/
def State.flipVal (s : State) (act new : List RegRec) (l : RegLoc) : Nat :=
  l.flds.foldl (fun v f =>
    if f.acc = .rw then v + (if startOnly act l f then s.rd f else l.get (effVal new l) f) <<< l.pos f else v) 0

/-- The Flip of R332 at the instant F: the shadow becomes the active set. A STANDBY that is thereby equal to its partner
resynchronises (R333). -/
def State.flipAt (s : State) (f : Nat) : State :=
  let old := s.cfg.secs
  let new := setSecs (s.slotBytes (1 - s.cfg.active))
  let act := recsOf (secIn old 3)
  let nw := recsOf (secIn new 3)
  let s := { s with cfg := { s.cfg with secs := new } }
  let ls := (namedRegs act nw).filter fun l => (diffFlds act nw l).any fun f => !startOnly act l f
  let s := ls.foldl (fun s l => s.flipReg l (s.flipVal act nw l)) s
  let s := (ls.filter fun l => l.row.name = "LPE_LOOP_COEF_PEND").foldl (fun s l => s.loopCommit l.n) s
  let s := if aGet 8 old = aGet 8 new then s else s.canFlip (secIn new 8) f
  let s := if aGet 9 old = aGet 9 new then s else match aGet 9 new with | some b => s.safApply b | none => s
  let s := if aGet 5 old = aGet 5 new || !s.on HLM_CTRL_RUN then s
    else s.hlmLoad.hlmHold f
  let s := if aGet 6 old = aGet 6 new && aGet 7 old = aGet 7 new then s
    else
      let ids := s.sigs.map (·.id)
      (s.modCrt fun c => { c with
        vals := c.vals.filter fun e => ids.contains e.1
        tasks := c.tasks.map fun x => { x with start := max x.start f } }).crtApply
  let slot := 1 - s.cfg.active
  let sel := selWrite s.cfg.selX s.cfg.selY slot
  let s := { s with cfg := { s.cfg with active := slot, shadow := .checked, selX := sel.1, selY := sel.2 }, mir := { s.mir with flip := none } }
  let s := s.sendIdent
  if s.isStandby && s.identSame && s.rd PRD_STATUS_ML_STATE ≠ 3 then s.resync else s.updTake

/-- FLIP_INSTANT (R332): the pending order's F has come. -/
def execFlipInstant (s : State) : Out :=
  done (whenLive s fun s =>
    match s.cfg.shadow with
    | .pending o => if o.f ≤ s.now then s.flipAt o.f else s
    | _ => s)

/-- Eligible instants of R330. -/
inductive FlipGrid where
  | every (base step first last : Nat)
  | any (first last : Nat)

/-- What F must be, with the earliest and the latest, for an order accepted now. -/
def State.flipGrid (s : State) : FlipGrid :=
  let now := s.now
  if s.on HLM_CTRL_RUN then
    let t := s.hlmT
    let first := (s.fusF s.hlmC0).toNat
    match s.hlmLast with
    | some c => .every c t (c + 2 * t) (now + 60000000000)
    | none => .every first t (first + t) (now + 60000000000)
  else if s.on SCH_CTRL_RUN then
    let e := s.sweepAt (s.firstFrom (now + 2000000))
    .every e s.sweepP e (now + 60000000000)
  else .any (now + 2000000) (now + 60000000000)

def FlipGrid.earliest : FlipGrid → Nat
  | .every _ _ e _ => e
  | .any e _ => e

def FlipGrid.eligible (g : FlipGrid) (f : Nat) : Bool :=
  match g with
  | .every b t e l => e ≤ f && f ≤ l && (f - b) % t = 0
  | .any e l => e ≤ f && f ≤ l

/-- The sections of the shadow set. -/
def State.shadowSecs (s : State) : List (Nat × Bytes) := setSecs (s.slotBytes (1 - s.cfg.active))

/-- The STANDBY that R333 lets flip: CFG_DIFF, and its checked shadow is the partner's active set. -/
def State.standbyFlip (s : State) : Bool :=
  s.isStandby && s.cfgDiff && (match s.mir.ident with | some i => i.1 = s.shadowCrc | none => false)

/-- The pair and Domino conditions of R333 and R334. -/
def State.pairFlipOk (s : State) : Bool :=
  (!s.isStandby || s.standbyFlip) &&
  (!(s.holds && s.partSynced) || (match s.mir.ident with | some i => i.2 = s.shadowCrc | none => false)) &&
  (s.start.role ≠ .dominoHalf ||
    (!s.half2 && (match s.mir.identDL with | some i => i.2 = s.shadowCrc | none => false)))

/-- The admission bound of R197 for the shadow set, in µs, where it is not met. -/
def admitFails (new : List (Nat × Bytes)) : Option Nat :=
  let rs := recsOf (secIn new 3)
  if effFld rs HLM_CTRL_RUN = 1 then
    let b := (plantOf (secIn new 5)).bound (effFld rs HLM_QP_CFG_MAX_ITER) (field (secIn new 1) 0 1 = 2)
    if (1000 * ((effFld rs HLM_TIME_CFG_QP_DL : Int) - (effFld rs HLM_TIME_CFG_QP_REL : Int)) : Int) < b.ceil then some (usUp b) else none
  else none

/-- A forced signal that the new table lacks or gives another type (R331, R332). -/
def State.forceLost (s : State) (new : List (Nat × Bytes)) : Bool :=
  let gs := sigsOf (secIn new 7)
  s.crt.forces.any fun e => (gs.find? fun g => g.id = e.1).map (·.typ) ≠ (s.sig e.1).map (·.typ)

/-- What a FLIP comes to, before any effect. -/
inductive FlipVerdict where
  | refused (bound : Option Nat)
  | bad
  | cancel
  | restart
  | take (o : FlipOrder)

/-- The verdict of R330, R331, R333, R334 and R400 on a FLIP. -/
def State.flipVerdict (s : State) (f crc : Nat) (force : Bool) : FlipVerdict :=
  let g := s.flipGrid
  match s.cfg.shadow with
  | .writing _ => .refused none
  | .pending o => if crc = o.crc && f = 0 && !force && g.earliest ≤ o.f then .cancel else .refused none
  | .checked =>
    let new := s.shadowSecs
    let diff := startDiff s.cfg.secs new
    if crc ≠ s.shadowCrc || (diff.isSome && !force) || !s.pairFlipOk then .refused none
    else if diff.isSome then .restart
    else match admitFails new with
      | some n => .refused (some n)
      | none =>
        if s.forceLost new || field (secIn new 6) 6 1 ≠ field s.tasksSec 6 1 && s.tasksSec ≠ [] && secIn new 6 ≠ [] ||
            (aGet 9 s.cfg.secs ≠ aGet 9 new && s.safAnyOn) then .refused none
        else if s.standbyFlip then .take { f := g.earliest, crc := crc }
        else if f = 0 then .take { f := g.earliest, crc := crc }
        else if g.eligible f then .take { f := f, crc := crc }
        else .bad

end Sys2Proof.Machine
end

