-- ==== Sys2Proof/Machine/Cmd.lean ====
section
/-!
DEFINITION. Machine/Cmd.lean: the mailbox commands of R317, one row each: a row executes the command at the head of the
order of acceptance when that command is its own.
-/
namespace Sys2Proof.Machine

/-! ### Group 0x00 -/

/-- The version bytes that IDENTIFY returns: slot, then the first seven bytes of VERSION of the running image; in Bulb mode
boot ROM's own (notes/assumptions/30.md). -/
def State.runVersion (s : State) : Bytes :=
  if s.start.phase = .bulb then (List.range 8).map Config.bootVersion
  else
    let slot := s.rd MBX_START_SLOT_RUN
    let h := (pipData (s.rdRaw ((0x20400000 + 0x600000 * slot) / 32))).getD []
    bytesOf 1 slot ++ slice h 16 7

/-- IDENTIFY (R317). PAIR_POS: 1 for B, as in the status block. -/
def execIdentify (s : State) : Out :=
  done (whenLive s fun s => s.runCmd 0x0001 anyParams neverRefused notEmpty fun s _ _ =>
    { st := s, status := 0,
      data := bytesOf 8 ownUid ++ s.runVersion ++ bytesOf 2 Config.orderingCode.toNat ++ bytesOf 1 s.start.role.code ++
        bytesOf 1 (s.rd PRD_STATUS_POS) ++ bytesOf 4 s.activeCrc })

/-- STATUS (R15, R317): role, gate, PTU state, Bulb reason, then the ALARM words of FUS, HLM and SAF; 32 bytes. -/
def execStatusCommand (s : State) : Out :=
  done (whenLive s fun s => s.runCmd 0x0002 anyParams neverRefused notEmpty fun s _ _ =>
    let role := if s.start.phase = .running then s.start.role.code else Role.monitor.code
    let reason := if s.start.phase = .bulb then s.rd MBX_START_REASON else 0
    { st := s, status := 0,
      data := bytesOf 1 role ++ bytesOf 1 (s.rd PRD_STATUS_GATE) ++ bytesOf 1 (s.rd PTU_STATUS_STATE) ++ bytesOf 1 reason ++
        bytesOf 4 (s.word 0x4004000C) ++ bytesOf 4 (s.word 0x4006000C) ++ bytesOf 4 (s.word 0x400F000C) ++ bytesOf 16 0 })

/-- The restart of RESTART, FLIP with FORCE and BULB_CLEAR (R317, R331, R433 source 5): its entry goes to flash, TOKEN is
released first, then the module is held in reset. -/
def State.restart5 (s : State) : State :=
  let s := match s.log.staged.getLast? with
    | some x => s.logFlash x.e
    | none => s
  let s := if s.holds then s.release 5 0 else s
  s.enterReset 5 true false

/-- RESTART (R317): refused in HOLD unless FORCE is set. -/
def execRestartCommand (s : State) : Out :=
  done (whenLive s fun s => s.runCmd 0x0003 anyParams (fun s fl _ => s.holds && !bit fl 1) notEmpty fun s _ _ =>
    { st := s, status := 0, fin := State.restart5 })

/-- FAULT_LOG_READ (R456). -/
def execFaultLogRead (s : State) : Out :=
  done (whenLive s fun s => s.runCmd 0x0004 anyParams neverRefused (fun _ p => p.length ≠ 6) fun s _ p =>
    { st := s, status := 0, data := (s.logRead (field p 0 4) (field p 4 2)).flatten })

/-! ### Group 0x02 (R318) -/

/-- A run of bytes inside one memory of the map. -/
def memRun (a k : Nat) : Bool :=
  (inSram a && inSram (a + k - 1)) || (inDram a && inDram (a + k - 1)) || (inFlash a && inFlash (a + k - 1))

/-- A run of bytes that touches the key areas (R416). -/
def keyRun (a k : Nat) : Bool := a < 0x20220000 && 0x20010000 < a + k

/-- n whole words from word w as MEM_READ and SET_READ return them: an ERASED word of flash as all ones (R414); none once
a word is uncorrectable, which costs what R412 says of it. -/
def State.cmdRead : Nat → State → Nat → State × Option Bytes
  | 0, s, _ => (s, some [])
  | n + 1, s, w =>
    let r := if inFlash (32 * w) && s.rdRaw w = erasedWord then (s, some erasedWord.data) else s.getWord w
    match r with
    | (s, none) => (if inFlash (32 * w) then s else s.codePip w false, none)
    | (s, some d) =>
      match State.cmdRead n s (w + 1) with
      | (s, some e) => (s, some (d ++ e))
      | (s, none) => (s, none)

/-- What a read answers: CHECK_FAILED and no data where a word failed. -/
def readOut (r : State × Option Bytes) : CmdOut :=
  match r with
  | (s, some d) => { st := s, status := 0, data := d }
  | (s, none) => { st := s, status := 2 }

/-- MEM_READ (R318, R416). -/
def execMemRead (s : State) : Out :=
  done (whenLive s fun s => s.runCmd 0x0201 anyParams neverRefused
    (fun _ p => p.length ≠ 12 || field p 0 8 % 32 ≠ 0 || field p 8 4 % 32 ≠ 0 || !memRun (field p 0 8) (field p 8 4) ||
      keyRun (field p 0 8) (field p 8 4))
    fun s _ p => readOut (State.cmdRead (field p 8 4 / 32) s (field p 0 8 / 32)))

/-- MEM_WRITE (R318): SRAM and DRAM alone. -/
def execMemWrite (s : State) : Out :=
  done (whenLive s fun s => s.runCmd 0x0202 anyParams neverRefused
    (fun _ p => p.length < 16 || p.length ≠ 16 + field p 8 4 || field p 12 4 ≠ 0 || field p 0 8 % 32 ≠ 0 || field p 8 4 % 32 ≠ 0 ||
      !memRun (field p 0 8) (field p 8 4) || inFlash (field p 0 8))
    fun s _ p => { st := State.putWords (field p 8 4 / 32) s (field p 0 8 / 32) (p.drop 16), status := 0 })

/-! ### Group 0x03 (R328 to R331) -/

def State.isPending (s : State) : Bool := match s.cfg.shadow with | .pending _ => true | _ => false

/-- The offset at which the next SHADOW_WRITE may continue. -/
def State.shadowNext (s : State) : Nat := match s.cfg.shadow with | .writing n => n | _ => 0

/-- SHADOW_WRITE (R329, R414, R415). -/
def execShadowWrite (s : State) : Out :=
  done (whenLive s fun s => s.runCmd 0x0301 anyParams (fun s _ _ => s.isPending)
    (fun s p => p.length < 12 || p.length ≠ 12 + field p 4 4 || field p 0 4 % 32 ≠ 0 || field p 4 4 % 32 ≠ 0 || field p 8 4 ≠ 0 ||
      (field p 0 4 ≠ 0 && field p 0 4 ≠ s.shadowNext))
    fun s _ p =>
      let o := field p 0 4
      let base := setBase (1 - s.cfg.active)
      let s := if o = 0 then s.erase base (base + slotBytes) else s
      let s := State.programs (field p 4 4 / 32) s ((base + o) / 32) (p.drop 12)
      { st := { s with cfg := { s.cfg with shadow := .writing (o + field p 4 4) } }, status := 0 })

/-- The 16 bytes of R328; an offset that the spec does not fix is a free value. -/
def State.checkData (s : State) (r : ChkRes) (b : Bytes) : State × Bytes :=
  let diff := if r.code = 0 then startDiff s.cfg.secs (setSecs b) else none
  let typ := if r.code ≠ 0 then r.typ else match diff with | some d => d.1 | none => 0
  let ok : Bool := r.code = 0 && diff.isNone
  let off := if r.code ≠ 0 then r.off else some (match diff with | some d => d.2 | none => 0)
  let s' := if off.isNone then s.draw else s
  (s', bytesOf 4 (field b 12 4) ++ bytesOf 1 (b2n ok) ++ bytesOf 1 0 ++ bytesOf 2 typ ++
    bytesOf 4 (off.getD (Config.freeNat s.free)) ++ bytesOf 4 0)

/-- SHADOW_CHECK (R328, R329, R333). -/
def execShadowCheck (s : State) : Out :=
  done (whenLive s fun s => s.runCmd 0x0302 anyParams (fun s _ _ => s.isPending || s.longHolds [0x0301]) notEmpty
    fun s _ _ =>
      match s.checkSlot (1 - s.cfg.active) with
      | (s, r, b) =>
        match s.checkData r b with
        | (s, d) =>
          if r.code = 0 then
            { st := ({ s with cfg := { s.cfg with shadow := .checked } }).sendIdent, status := 0, data := d }
          else { st := { s with cfg := { s.cfg with shadow := .writing s.shadowNext } }, status := r.code, data := d })

/-- The order taken (R330, R333, R334): the shadow PENDING; a holder writes it to a journal region; half 1 passes
it on. -/
def State.takeOrder (s : State) (o : Option FlipOrder) : State :=
  let s := { s with cfg := { s.cfg with shadow := match o with | some o => .pending o | none => .checked } }
  let s := s.flipJournal o
  if s.start.role = .dominoHalf && !s.half2 then s.dlPush (.flip o) else s

/-- The verdict on a FLIP's parameters. -/
def State.flipOf (s : State) (fl : Nat) (p : Bytes) : FlipVerdict := s.flipVerdict (field p 0 8) (field p 8 4) (bit fl 1)

def FlipVerdict.isRefused : FlipVerdict → Bool
  | .refused none => true
  | _ => false

def FlipVerdict.isAdmit : FlipVerdict → Bool
  | .refused (some _) => true
  | _ => false

def FlipVerdict.isBad : FlipVerdict → Bool
  | .bad => true
  | _ => false

/-- FLIP (R330, R331, R333, R334). -/
def execFlip (s : State) : Out :=
  done (whenLive s fun s => s.runCmd 0x0303 anyParams
    (fun s fl p => s.longHolds [0x0301] || (s.flipOf fl p).isRefused)
    (fun s p => !(s.flipOf 0 p).isAdmit && (p.length ≠ 16 || field p 12 4 ≠ 0))
    fun s n p =>
      match s.flipOf (cmdFlags (s.box n).cmd) p with
      | .refused bound =>
        let s := match bound with
          | some b => (s.errLog HLM_ERR_ADMIT_REJ 0).wr HLM_ADMIT_BOUND (min b (2 ^ 20 - 1))
          | none => s
        { st := s, status := 3 }
      | .bad => { st := s, status := 5 }
      | .cancel => { st := s.takeOrder none, status := 0 }
      | .restart =>
        let sel := selWrite s.cfg.selX s.cfg.selY (1 - s.cfg.active)
        { st := { s with cfg := { s.cfg with selX := sel.1, selY := sel.2 } }, status := 0, fin := State.restart5 }
      | .take o => { st := s.takeOrder (some o), status := 0, data := bytesOf 8 o.f })

/-- SET_READ (R329). -/
def execSetRead (s : State) : Out :=
  done (whenLive s fun s => s.runCmd 0x0304 anyParams (fun s _ p => field p 0 1 = 1 && s.longHolds [0x0301])
    (fun _ p => p.length ≠ 12 || 1 < field p 0 1 || field p 1 3 ≠ 0 || field p 4 4 % 32 ≠ 0 || field p 8 4 % 32 ≠ 0)
    fun s _ p =>
      let slot := if field p 0 1 = 0 then s.cfg.active else 1 - s.cfg.active
      readOut (State.cmdRead (field p 8 4 / 32) s ((setBase slot + field p 4 4) / 32)))

/-! ### Group 0x04 (R439 to R443) -/

def fwBase (slot : Nat) : Nat := 0x20400000 + 0x600000 * slot

/-- The slot that the firmware selector names (R435 step 2). -/
def State.fwSelected (s : State) : Nat := match newerSel s.start.fwX s.start.fwY with | some c => c.value | none => 0

/-- R439 on a firmware slot: its CRC, VERSION and LEN where it is valid. The image that slot 0 was shipped with is valid. -/
def State.fwCheck (s : State) (slot : Nat) : State × Option (Nat × Bytes × Nat) :=
  let w := fwBase slot / 32
  if slot = 0 && s.start.ship0 then
    (s, some (natOf ((List.range 4).map fun i => Config.shipByte (12 + i)), (List.range 8).map fun i => Config.shipByte (16 + i), Config.shipLen))
  else match State.readWords 2 s w with
    | (s, none) => (s, none)
    | (s, some h) =>
      let len := field h 8 4
      if field h 0 4 ≠ 0x57465844 || field h 4 1 ≠ 1 || len < 64 || 6291456 < len || len % 32 ≠ 0 then (s, none)
      else match State.readWords (len / 32) s w with
        | (s, none) => (s, none)
        | (s, some b) =>
          if crc32 (slice b 0 12 ++ bytesOf 4 0 ++ b.drop 16) = field b 12 4 then (s, some (field b 12 4, slice b 16 8, len))
          else (s, none)

/-- R416 on the staged key table: ascending UIDs, none twice; reserved bytes 0. -/
def keyTableOk (b : Bytes) : Bool :=
  let n := b.length / 32
  rising ((List.range n).map fun i => field b (32 * i) 8) &&
  (List.range n).all fun i => field b (32 * i + 25) 1 ≤ 1 && zeroRun b (32 * i + 26) 6

/-- FW_WRITE (R440). -/
def execFwWrite (s : State) : Out :=
  done (whenLive s fun s => s.runCmd 0x0401 anyParams
    (fun s _ p => s.start.phase ≠ .bulb && (field p 0 1 = s.rd MBX_START_SLOT_RUN || field p 0 1 = s.fwSelected))
    (fun s p => p.length < 16 || p.length ≠ 16 + field p 8 4 || 2 < field p 0 1 || field p 1 3 ≠ 0 || field p 4 4 % 32 ≠ 0 ||
      field p 8 4 % 32 ≠ 0 || field p 12 4 ≠ 0 || (field p 4 4 ≠ 0 && field p 4 4 ≠ s.cfg.fwNext.getD (field p 0 1) 0))
    fun s _ p =>
      let area := field p 0 1
      let o := field p 4 4
      let d := p.drop 16
      let s := if area = 2 then
          { s with cfg := { s.cfg with ktBuf := (if o = 0 then [] else s.cfg.ktBuf) ++ d } }
        else
          let s := if o = 0 then s.erase (fwBase area) (fwBase area + 0x600000) else s
          State.programs (d.length / 32) s ((fwBase area + o) / 32) d
      { st := { s with cfg := { s.cfg with fwNext := s.cfg.fwNext.set area (o + d.length) } }, status := 0 })

/-- The parameters of FW_VERIFY and FW_SELECT are not AREA and three zero bytes. -/
def areaBad (_ : State) (p : Bytes) : Bool := p.length ≠ 4 || 2 < field p 0 1 || field p 1 3 ≠ 0

/-- FW_VERIFY (R439, R440). CRC and VERSION of the staged key table are not stated: free values. -/
def execFwVerify (s : State) : Out :=
  done (whenLive s fun s => s.runCmd 0x0402 anyParams (fun s _ _ => s.longHolds [0x0401, 0x0403]) areaBad fun s _ p =>
    if field p 0 1 = 2 then
      if keyTableOk s.cfg.ktBuf then
        { st := { s with free := s.free + 2 }, status := 0,
          data := bytesOf 4 (Config.freeNat s.free) ++ bytesOf 8 (Config.freeNat (s.free + 1)) ++ bytesOf 4 s.cfg.ktBuf.length }
      else { st := s, status := 5 }
    else match s.fwCheck (field p 0 1) with
      | (s, some (crc, ver, len)) => { st := s, status := 0, data := bytesOf 4 crc ++ ver ++ bytesOf 4 len }
      | (s, none) => { st := s, status := 2 })

/-- FW_SELECT (R440, R441). -/
def execFwSelect (s : State) : Out :=
  done (whenLive s fun s => s.runCmd 0x0403 anyParams neverRefused areaBad fun s _ p =>
    if field p 0 1 = 2 then
      if keyTableOk s.cfg.ktBuf then
        let s := s.erase 0x20020000 0x20220000
        { st := State.programs (s.cfg.ktBuf.length / 32) s (0x20020000 / 32) s.cfg.ktBuf, status := 0 }
      else { st := s, status := 5 }
    else match s.fwCheck (field p 0 1) with
      | (s, some _) =>
        let sel := selWrite s.start.fwX s.start.fwY (field p 0 1)
        { st := ({ s with start := { s.start with fwX := sel.1, fwY := sel.2 } }).wr MBX_START_SLOT_SEL (field p 0 1), status := 0 }
      | (s, none) => { st := s, status := 2 })

/-- BULB_CLEAR (R440, R443). -/
def execBulbClear (s : State) : Out :=
  done (whenLive s fun s => s.runCmd 0x0404 anyParams (fun s _ _ => s.start.phase ≠ .bulb) notEmpty fun s _ _ =>
    { st := s.commitRec 0 0 s.startRec.slot, status := 0, fin := State.restart5 })

/-! ### Group 0x05 (R320) -/

/-- A key of a kind is stored. -/
def State.hasKey (s : State) (kind : Nat) : Bool := if kind = 0 then s.mbx.devKey.isSome else s.mbx.hostKey.isSome

/-- A key stored or erased, with what MBX_STATUS shows. -/
def State.setKey (s : State) (kind : Nat) (k : Option Bytes) : State :=
  if kind = 0 then ({ s with mbx := { s.mbx with devKey := k } }).wrB MBX_STATUS_DEV_KEY k.isSome
  else ({ s with mbx := { s.mbx with hostKey := k } }).wrB MBX_STATUS_HOST_KEY k.isSome

/-- KEY_PROVISION (R315, R320): a host key sets the last accepted CTR to 0. -/
def execKeyProvision (s : State) : Out :=
  done (whenLive s fun s => s.runCmd 0x0501 anyParams (fun s _ p => s.hasKey (field p 0 1))
    (fun _ p => p.length ≠ 20 || 1 < field p 0 1 || field p 1 3 ≠ 0)
    fun s _ p =>
      let s := s.setKey (field p 0 1) (some (slice p 4 16))
      { st := if field p 0 1 = 1 then { s with mbx := { s.mbx with ethCtr := 0 } } else s, status := 0 })

/-- KEY_ERASE (R320). -/
def execKeyErase (s : State) : Out :=
  done (whenLive s fun s => s.runCmd 0x0502 anyParams (fun s _ _ => s.start.phase ≠ .bulb)
    (fun _ p => p.length ≠ 4 || 1 < field p 0 1 || field p 1 3 ≠ 0)
    fun s _ p => { st := s.setKey (field p 0 1) none, status := 0 })

/-! ### Groups 0x06 to 0x08 -/

/-- A whole register written with the value that a command carries (R202): reserved bits must be 0. -/
def State.regCmd (s : State) (op a k : Nat) : State :=
  s.runCmd op anyParams neverRefused
    (fun s p => p.length ≠ k || (match findReg a with
      | some l => field p 0 k &&& l.flds.foldl (fun m f => m ||| (2 ^ f.width - 1) <<< l.pos f) 0 ≠ field p 0 k &&
          (s.blockWrite .mbox l (field p 0 k)).2 ≠ .state
      | none => true))
    fun s _ p => match findReg a with
      | some l => endedW (s.blockWrite .mbox l (field p 0 k))
      | none => { st := s, status := 5 }

/-- HLM_SETPOINT (R202). -/
def execHlmSetpoint (s : State) : Out := done (whenLive s fun s => s.regCmd 0x0601 0x40060040 16)

/-- HLM_JOYSTICK (R202). -/
def execHlmJoystick (s : State) : Out := done (whenLive s fun s => s.regCmd 0x0602 0x40060050 8)

/-- HLM_MODE (R200, R201): SET and RESTORE as a write of HLM_MODE_REQ. -/
def execHlmMode (s : State) : Out := done (whenLive s fun s => s.regCmd 0x0603 HLM_MODE_REQ_MODE.addr 4)

/-- CSE_RESTORE (R99, R100, R319), refused in every state but UNRESTORED (notes/assumptions/17.md). -/
def execCseRestore (s : State) : Out :=
  done (whenLive s fun s => s.runCmd 0x0701 anyParams (fun s _ _ => s.rd CSE_STATUS_STATE ≠ 2)
    (fun _ p => p.length ≠ 596) fun s _ p => ended (s.cseRestore p))

/-- CSE_SERVICE (R100, R105, R319). -/
def execCseService (s : State) : Out :=
  done (whenLive s fun s => s.runCmd 0x0702 anyParams
    (fun s _ p => (field p 4 1 = 1 || field p 4 1 = 2) && s.serviceRefused (field p 0 4) (field p 4 1))
    (fun _ p => p.length ≠ 8 || field p 5 3 ≠ 0)
    fun s _ p => ended (s.cseService (field p 0 4) (field p 4 1)))

/-- CSE_WAKE (R97). -/
def execCseWake (s : State) : Out :=
  done (whenLive s fun s => s.runCmd 0x0703 anyParams neverRefused notEmpty fun s _ _ => { st := s.cseWake, status := 0 })

/-- CSE_COMMIT (R102, R417): coordinator only, at most once in MIN_COMMIT hours. -/
def execCseCommit (s : State) : Out :=
  done (whenLive s fun s => s.runCmd 0x0704 anyParams
    (fun s _ p => !s.holds || ((s.recIndex (field p 0 4)).isSome && !s.commitDue (field p 0 4)))
    (fun s p => p.length ≠ 4 || (s.recIndex (field p 0 4)).isNone)
    fun s _ p => match s.commitSlot (field p 0 4) with
      | (s, some q) => { st := s, status := 0, data := bytesOf 4 q }
      | (s, none) => { st := s, status := 5 })

/-- FUS_PUSH (R134 to R136). A full ring answers STATE_REFUSED; a sample that R136 refuses is answered OK
(notes/assumptions/28.md). -/
def execFusPush (s : State) : Out :=
  done (whenLive s fun s => s.runCmd 0x0801 anyParams neverRefused (fun _ p => p.length ≠ 64) fun s _ p =>
    match s.fusCommit p false with
    | (s, full) => { st := s, status := if full then 3 else 0 })

/-! ### Group 0x09 -/

/-- ROLL_START (R252, R253). -/
def execRollStart (s : State) : Out :=
  done (whenLive s fun s => s.runCmd 0x0901 anyParams neverRefused notEmpty fun s _ _ => endedW s.rollStart)

/-- A routing entry's register value (R247). -/
def State.rtVal (s : State) (p e : Nat) : Nat :=
  match findReg (0x40091000 + 8 * rtIx p e) with
  | some l => s.regVal l
  | none => 0

/-- ROUTE_READ (R317). -/
def execRouteRead (s : State) : Out :=
  done (whenLive s fun s => s.runCmd 0x0902 anyParams neverRefused
    (fun _ p => p.length ≠ 4 || 3 < field p 0 1 || 63 < field p 1 1 || field p 3 1 ≠ 0)
    fun s _ p =>
      { st := s, status := 0, data := (List.range (field p 2 1)).flatMap fun i => bytesOf 8 (s.rtVal (field p 0 1) (field p 1 1 + i)) })

/-! ### Group 0x0A (R342 to R346) -/

def taskOps : List Nat := [0x01, 0x02, 0x03, 0x10, 0x11, 0x12, 0x13, 0x14, 0x20, 0x21]

/-- TASK_CONTROL with one operation: OP, INDEX, two reserved bytes. -/
def State.taskCmd (s : State) (mine : Bytes → Bool) (f : State → Nat → State × Bool) : State :=
  s.runCmd 0x0A01 mine neverRefused
    (fun s p => p.length ≠ 4 || !taskOps.contains (field p 0 1) || (if field p 0 1 = 0x20 then 63 else 31) < field p 1 1 ||
      (field p 2 2 ≠ 0 && (f s (field p 1 1)).2))
    fun s _ p => endedB (f s (field p 1 1))

def opIs (n : Nat) (p : Bytes) : Bool := field p 0 1 = n

/-- RUN (R342); it answers parameters that name no operation too, with BAD_ENTRY. -/
def execTaskControlRun (s : State) : Out :=
  done (whenLive s fun s => s.taskCmd (fun p => opIs 0x01 p || !taskOps.contains (field p 0 1)) fun s _ => s.crtRun)

/-- STOP (R342). -/
def execTaskControlStop (s : State) : Out := done (whenLive s fun s => s.taskCmd (opIs 0x02) fun s _ => s.crtStop)

/-- RESET (R342). -/
def execTaskControlReset (s : State) : Out := done (whenLive s fun s => s.taskCmd (opIs 0x03) fun s _ => s.crtReset)

/-- TASK_RUN (R343). -/
def execTaskRun (s : State) : Out := done (whenLive s fun s => s.taskCmd (opIs 0x10) State.taskRun)

/-- TASK_STOP (R343). -/
def execTaskStop (s : State) : Out := done (whenLive s fun s => s.taskCmd (opIs 0x11) State.taskStop)

/-- HOLD (R343). -/
def execTaskHold (s : State) : Out := done (whenLive s fun s => s.taskCmd (opIs 0x12) State.taskHoldOp)

/-- STEP (R343). -/
def execTaskStep (s : State) : Out := done (whenLive s fun s => s.taskCmd (opIs 0x13) State.taskStepOp)

/-- RESUME (R343). -/
def execTaskResume (s : State) : Out := done (whenLive s fun s => s.taskCmd (opIs 0x14) State.taskResumeOp)

/-- STN_ACK (R349). -/
def execStnAck (s : State) : Out := done (whenLive s fun s => s.taskCmd (opIs 0x20) State.stnAckOp)

/-- TRIGGER (R340). -/
def execTaskTrigger (s : State) : Out := done (whenLive s fun s => s.taskCmd (opIs 0x21) State.taskTriggerOp)

/-- A signal that the set of a pending Flip lacks or gives another type (R332). -/
def State.pendingLost (s : State) (id : Nat) : Bool :=
  s.isPending && ((sigsOf (secIn s.shadowSecs 7)).find? fun g => g.id = id).map (·.typ) ≠ (s.sig id).map (·.typ)

/-- FORCE_SET (R332, R344 to R346). -/
def execForceSet (s : State) : Out :=
  done (whenLive s fun s => s.runCmd 0x0A02 anyParams (fun s _ p => s.pendingLost (field p 0 4))
    (fun s p => p.length ≠ 16 || (field p 4 4 ≠ 0 && (s.forceSet (field p 0 4) (field p 8 8) 0).2 ≠ 3))
    fun s n p => ended (s.forceSet (field p 0 4) (field p 8 8) (s.box n).src.code))

/-- FORCE_CLEAR (R332, R344 to R346). -/
def execForceClear (s : State) : Out :=
  done (whenLive s fun s => s.runCmd 0x0A03 anyParams neverRefused (fun _ p => p.length ≠ 8 || field p 4 4 ≠ 0)
    fun s n p => ended (s.forceClear (field p 0 4) (s.box n).src.code))

/-! ### Group 0x0B -/

/-- CAN_BUSOFF_RETURN (R378). -/
def execCanBusoffReturn (s : State) : Out :=
  done (whenLive s fun s => s.runCmd 0x0B01 anyParams neverRefused (fun s p => p.length ≠ 4 || 3 < field p 0 1 || (field p 1 3 ≠ 0 && s.rd (CAN_STATUS_STATE (field p 0 1)) = 4))
    fun s _ p => endedW (s.canRecover (field p 0 1)))

end Sys2Proof.Machine
end

