-- ==== Sys2Proof/Machine/Power.lean ====
section
/-!
DEFINITION. Machine/Power.lean: supplies, resets and the junction (R422 to R425, R430, R433).
-/
namespace Sys2Proof.Machine

/-- POWER_ON_RESET (R433, R492): a fresh start in which PRD_CAUSE, the power flags and the retained start-failure
register are cleared; flash, keys and the records of the Selectors area are those held. -/
def execPowerOnReset (s : State) : Out :=
  let r := ({ s with pwr := { s.pwr with thermal := false } }).enterReset 0 false false
  done { r with regs := r.keepRegs [MBX_STATUS_DEV_KEY, MBX_STATUS_HOST_KEY, MBX_PWR_STAT_FS_PRESENT], start := { r.start with failReg := none } }

/-- RESET_PIN (R433): RESET_N low for 1 µs holds the module in reset; once it is high again the rail condition of
source 0 releases it. -/
def execResetPin (high : Bool) (s : State) : Out :=
  done (
    if high then { s with pwr := { s.pwr with pinLow := false } }
    else
      let r := s.enterReset 1 true false
      { r with pwr := { r.pwr with pinLow := true } })

/-- BROWN_OUT (R423, R424): VIN below the falling threshold, or (`high`) above 33 V. TOKEN goes with cause 3, every
crossing and frame stops, and the module restarts; `inTime` says that the entry can be written within the hold-up,
`collapse` that the logic rails fail (R492). -/
def execBrownOut (high inTime collapse : Bool) (s : State) : Out :=
  let s := s.release 3 0
  let e := s.entryNow 11 0 0 (1 + 2 * b2n high)
  let s := if s.live && inTime then (s.logFlash e).wrapInc PMC_LOG_STAT_NEXT
    else { s with start := { s.start with deferred := some { e with deferred := true } } }
  let r := s.enterReset 2 (!collapse) false
  done (r.wrAll [(MBX_PWR_ERR_BROWNOUT, 1), (MBX_PWR_ERR_VIN_HIGH, b2n high), (MBX_PWR_STAT_HOLD_OK, 0)])

/-- RAIL_OUT_OF_WINDOW (R422): the SUPPLY check fails on a rail; a holder whose check is enabled releases TOKEN; the
module is held in reset. -/
def execRailOutOfWindow (rail : Fin 5) (s : State) : Out :=
  let s := (s.wr MBX_PWR_ERR_SUPPLY 1).wr MBX_PWR_ERR_RAIL rail
  done ((s.checkFail 0).enterReset 3 false false)

/-- RAILS_QUALIFIED (R422, R433): every rail inside its window, and VIN above the rising threshold, for 10 ms; `vin` is
the reading in 0.1 V. -/
def execRailsQualified (vin : BitVec 10) (s : State) : Out :=
  let s := (s.wr MBX_PWR_STAT_VIN vin.toNat).wr MBX_PWR_STAT_HOLD_OK 1
  done (match s.pwr.held with
    | some src => if src ≤ 3 && !s.pwr.thermal && !s.pwr.pinLow then s.released else s
    | none => s)

/-- MBX_PWR_STAT.TJ (R432): the sensor's reading in °C, in 8 signed bits; one above 127 °C saturates (R8). -/
def State.junction (s : State) (tj : BitVec 9) : State := s.wr MBX_PWR_STAT_TJ (ofSigned 8 (satSigned 8 tj.toInt))

/-- JUNCTION_HOT (R430): the sensor's reading, at 115 °C or above; rates are unchanged. -/
def execJunctionHot (tj : BitVec 9) (s : State) : Out :=
  let s := s.junction tj
  done (if s.pwr.hot || tj.toInt < 115 then s
    else
      let s := { s with pwr := { s.pwr with hot := true } }
      if s.live then s.errLog MBX_PWR_ERR_JUNCT_HOT 0 else s.set1 MBX_PWR_ERR_JUNCT_HOT)

/-- TEMP_CHECK_FAIL (R430): 135 °C for 10 µs; a holder whose check is enabled releases TOKEN; the module is held in
reset with THERMAL set. -/
def execTempCheckFail (tj : BitVec 9) (s : State) : Out :=
  let s := s.junction tj
  done (if tj.toInt < 135 then s else ((s.checkFail 1).enterReset 3 true true).set1 MBX_PWR_ERR_THERMAL)

/-- JUNCTION_COOL (R430): below 110 °C the hot condition ends and a thermal reset is released. -/
def execJunctionCool (tj : BitVec 9) (s : State) : Out :=
  let s := s.junction tj
  done (if 110 ≤ tj.toInt then s
    else
      let held := s.pwr.held = some 3 && s.pwr.thermal
      let s := { s with pwr := { s.pwr with hot := false, thermal := false } }
      if held then s.released else s)

/-- RESTART_AFTER_RELEASE (R274): 1 ms after a TOKEN release the module restarts, unless another reset holds it. -/
def execRestartAfterRelease (s : State) : Out :=
  done (match s.pwr.restart with
    | some t => if s.live && t + 250000 ≤ s.ticks then (s.enterReset 4 true false).released else s
    | none => s)

end Sys2Proof.Machine
end

