-- ==== Sys2Proof/Machine/Start.lean ====
section
/-!
DEFINITION. Machine/Start.lean: the start sequence, its waits and its watchdog, and Bulb mode (R13, R322, R326, R435 to
R438, R442, R455, R462, R463, R496). A step of R435 that waits leaves its phase in State; notes/assumptions/31.md says
what the model fixes.
-/
namespace Sys2Proof.Machine

/-! ### Steps 1 and 3: memories cleared and read back -/

/-- A memory written to zero and read back. `bad` holds the words that did not read back clean: with a symbol position
where the word was corrected, without one where it is uncorrectable. True where none was uncorrectable. -/
def State.clearMem (s : State) (lo hi : Nat) (bad : List (Nat × Option (Fin 36))) : State × Bool :=
  let mine := bad.filter fun e => lo ≤ 32 * e.1 && 32 * e.1 < hi
  (mine.foldl (fun s e =>
      match e.2 with
      | some p => s.pipCorrected e.1 p (pipEncode (bytesOf 32 0))
      | none => s.pipUncorr e.1) (s.blank lo hi),
    mine.all fun e => e.2.isSome)

/-! ### Step 1: records -/

/-- A reason that waits in the retained register is committed first; then MBX_START is loaded (R437, R438, R444). -/
def State.startRecords (s : State) : State :=
  let slot := s.fwSelected
  let s := match s.start.failReg with
    | some r =>
      let s := s.commitRec (min 3 (s.startRec.failCnt + 1)) r slot
      { s with start := { s.start with failReg := none } }
    | none => s
  s.wrAll [(MBX_START_RESET_SRC, s.pwr.src), (MBX_START_SLOT_SEL, slot), (MBX_START_FAIL_CNT, s.startRec.failCnt),
    (MBX_START_REASON, s.startRec.reason), (MBX_START_BULB, 0)]

/-- The scan of the fault log, then the entries that a reset left to this start: a brown-out's, and a failed SUPPLY
check's (R422, R424, R455). The staging ring was in SRAM. -/
def State.startLog (s : State) : State :=
  let s := ({ s with log := { s.log with staged := [] } }).logScan
  let s := match s.start.deferred with
    | some e => ({ s with start := { s.start with deferred := none } }).stage e
    | none => s
  if s.pwr.src = 3 && !s.on MBX_PWR_ERR_THERMAL then s.errLog MBX_PWR_ERR_SUPPLY 0 else s

/-! ### Bulb mode (R442, R463) -/

/-- What Bulb mode takes from the active set when that passes its CRC: its identity in Roll call, and the host Ethernet
interface with its NET section. -/
def State.bulbSet (s : State) : State :=
  match s.checkSlot s.cfg.active with
  | (s, _, b) =>
    if setLen b ≤ b.length && 96 ≤ b.length && setCrcOk b then
      let secs := setSecs b
      let rs := recsOf (secIn secs 3)
      let s := { s with
        start := { s.start with setting := field (secIn secs 1) 0 1, half := field (secIn secs 1) 1 1 }
        cfg := { s.cfg with secs := secs.filter fun e => e.1 = 10 } }
      let s := s.wr ZFB_DOM_CFG_DOMAIN (field (secIn secs 2) 0 1)
      if effFld rs MBX_ETH_CFG_EN = 1 then
        match findReg MBX_ETH_CFG_EN.addr with
        | some l => s.wrReg l (effVal rs l)
        | none => s
      else s
    else s

/-- Boot ROM enters Bulb mode: its entry, plant time from the fabric, the front end with all masks zero, the field and
safety crossings with no permit, and the fabric. -/
def State.enterBulb (s : State) : State :=
  let s := { s with start := { s.start with phase := .bulb, role := .monitor } }
  let s := (s.wrAll [(MBX_START_BULB, 1), (MBX_START_SLOT_RUN, 0), (PTU_CTRL_SRC, 2)])
  let s := s.stateLog 11 1 0 0 1 (s.rd MBX_START_REASON)
  let s := s.bulbSet
  (((s.cfeEnable true).fioEnable true).wr ZFB_CTRL_RUN 1).updPermit.mbxShow

/-! ### Steps 4 to 8 -/

/-- Step 7 of a setting other than MONITOR (R435, R462): PAIR_POS, PRD_CTRL.EN, and the wait for the lanes. -/
def State.startLanes (s : State) : State :=
  if s.start.straps.all id || s.start.straps.all (!·) then
    let s := (s.wrB PRD_STATUS_POS (!s.start.straps.all id)).wr PRD_STATUS_HALF (s.start.half - 1)
    let s := { s with start := { s.start with phase := .waitLanes, role := .monitor, stepTick := s.ticks } }
    (s.wr PRD_CTRL_EN 1).step7
  else s.startFail 3

/-- Steps 6 and 7 (R435, R496). -/
def State.startBlocks (s : State) : State :=
  let s := (s.cfeEnable true).wr ZFB_CTRL_RUN 1
  if s.start.setting = 0 then s.startDone .monitor else s.startLanes

/-- Step 5. -/
def State.startClock (s : State) : State :=
  if s.on PTU_STATUS_REFCLK_OK then s.startBlocks
  else { s with start := { s.start with phase := .waitRefclk, role := .monitor, stepTick := s.ticks } }

/-- The shadow slot is checked again at start (R329). -/
def State.startShadow (s : State) : State :=
  match s.checkSlot (1 - s.cfg.active) with
  | (s, r, _) => { s with cfg := { s.cfg with shadow := if r.code = 0 then .checked else .writing 0 } }

/-- The slot that the configuration selector names (R322). -/
def State.setSelected (s : State) : Nat := match newerSel s.cfg.selX s.cfg.selY with | some c => c.value | none => 0

/-- Step 4 (R322, R326). -/
def State.startSets (s : State) : State :=
  let s := { s with cfg := { s.cfg with active := s.setSelected } }
  match s.checkSlot s.cfg.active with
  | (s, r, b) =>
    if r.code = 0 then (s.applySet b).startShadow.mbxShow.startClock
    else s.startFail 2

/-- Steps 1 to 4. -/
def State.startBegin (s : State) (bad : List (Nat × Option (Fin 36))) : State :=
  let s := s.startLog
  match s.clearMem 0 0x01000000 bad with
  | (s, sramOk) =>
    let s := s.startRecords
    if !sramOk then s.startFail 8
    else if s.rd MBX_START_FAIL_CNT = 3 then s.enterBulb
    else match s.fwCheck (s.rd MBX_START_SLOT_SEL) with
      | (s, none) => s.startFail 1
      | (s, some _) =>
        let s := s.wr MBX_START_SLOT_RUN (s.rd MBX_START_SLOT_SEL)
        match s.clearMem 0x10000000 0x20000000 bad with
        | (s, dramOk) => if dramOk then s.startSets else s.startFail 8

/-- START_SEQUENCE (R435): from reset release. A module that sources 0 to 3 hold starts once they release it; sources 4 to
7 are released by their 1 ms, which is this command's. `straps` are the samples of PAIR_POS, 1 for high; `bad` the words
that a memory's read-back finds corrected or uncorrectable. -/
def execStartSequence (straps : BitVec 16) (bad : List (Nat × Option (Fin 36))) (s : State) : Out :=
  done (
    let free : Bool := match s.pwr.held with | none => true | some src => 4 ≤ src
    if s.start.phase = .idle && free then
      let s := s.released
      ({ s with start := { s.start with straps := (List.range 16).map straps.getLsbD } }).startBegin bad
    else s)

/-- REFCLK_WAIT_TIMEOUT (R435, R437): step 5 after 1 s. -/
def execRefclkWaitTimeout (s : State) : Out :=
  done (whenLive s fun s => if s.start.phase = .waitRefclk && s.start.stepTick + 250000000 ≤ s.ticks then s.startFail 7 else s)

/-- REFCLK_RETURN (R220, R367): REFCLK_OK returns; a start that waits in step 5 goes on. -/
def execRefclkReturn (s : State) : Out :=
  done (
    if s.on PTU_STATUS_REFCLK_OK then s
    else
      let s := s.refclkBack
      if s.live && s.start.phase = .waitRefclk then s.startBlocks else s)

/-- LANE_TRAIN_TIMEOUT (R13, R435): step 7 after 2 s; a lane untrained counts as no. -/
def execLaneTrainTimeout (s : State) : Out :=
  done (whenLive s fun s => if s.start.phase = .waitLanes && s.start.stepTick + 500000000 ≤ s.ticks then s.enterContend else s)

/-- START_WATCHDOG_EXPIRY (R436, R437): a start that has not succeeded 30 s ± 10 % after reset release. Its entry goes to flash;
the reason waits in the retained register. -/
def execStartWatchdogExpiry (s : State) : Out :=
  done (whenLive s fun s =>
    if s.start.phase = .running || s.start.phase = .bulb || s.ticks < s.start.relTick + 6750000000 then s
    else
      let s := (s.logFlash (s.entryNow 0xFE (192 + 6) 0 0)).wrapInc PMC_LOG_STAT_NEXT
      ({ s with start := { s.start with failReg := some 6 } }).enterReset 6 true false)

/-- PHY_RST_N (R463): high once the NET section has been applied. -/
def State.phyRst (s : State) : Bool :=
  (aGet 10 s.cfg.secs).isSome && s.live && (s.start.phase ≠ .bulb || s.on MBX_ETH_CFG_EN)

end Sys2Proof.Machine
end

