-- ==== Sys2Proof/Machine/Dispatch.lean ====
section
/-!
DEFINITION. Machine/Dispatch.lean: one arm per command, each a direct call of its meaning.
-/
namespace Sys2Proof.Machine

def exec (i : Instr) (s : State) : Host.Outcome State Fault Refusal :=
  match i with
  | .registerWrite who addr v => Sys2Proof.Machine.execRegisterWrite who addr v s
  | .readClear who addr => Sys2Proof.Machine.execReadClear who addr s
  | .wideRegLowRead who addr => Sys2Proof.Machine.execWideRegLowRead who addr s
  | .wideRegHighRead who addr => Sys2Proof.Machine.execWideRegHighRead who addr s
  | .wideRegLowerWrite who addr v => Sys2Proof.Machine.execWideRegLowerWrite who addr v s
  | .wideRegCommitWrite who addr v => Sys2Proof.Machine.execWideRegCommitWrite who addr v s
  | .powerOnReset => Sys2Proof.Machine.execPowerOnReset s
  | .resetPin high => Sys2Proof.Machine.execResetPin high s
  | .brownOut high inTime collapse => Sys2Proof.Machine.execBrownOut high inTime collapse s
  | .railOutOfWindow rail => Sys2Proof.Machine.execRailOutOfWindow rail s
  | .railsQualified vin => Sys2Proof.Machine.execRailsQualified vin s
  | .junctionHot tj => Sys2Proof.Machine.execJunctionHot tj s
  | .tempCheckFail tj => Sys2Proof.Machine.execTempCheckFail tj s
  | .junctionCool tj => Sys2Proof.Machine.execJunctionCool tj s
  | .startSequence straps bad => Sys2Proof.Machine.execStartSequence straps bad s
  | .refclkWaitTimeout => Sys2Proof.Machine.execRefclkWaitTimeout s
  | .laneTrainTimeout => Sys2Proof.Machine.execLaneTrainTimeout s
  | .startWatchdogExpiry => Sys2Proof.Machine.execStartWatchdogExpiry s
  | .restartAfterRelease => Sys2Proof.Machine.execRestartAfterRelease s
  | .tokenCountChange cnt => Sys2Proof.Machine.execTokenCountChange cnt s
  | .tokenAssert => Sys2Proof.Machine.execTokenAssert s
  | .dominoTake => Sys2Proof.Machine.execDominoTake s
  | .tokenConfirm drive => Sys2Proof.Machine.execTokenConfirm drive s
  | .tokenConfirmTimeout => Sys2Proof.Machine.execTokenConfirmTimeout s
  | .tokenLineFault => Sys2Proof.Machine.execTokenLineFault s
  | .vetoDetect => Sys2Proof.Machine.execVetoDetect s
  | .prdRelease => Sys2Proof.Machine.execPrdRelease s
  | .watchdogKick src => Sys2Proof.Machine.execWatchdogKick src s
  | .watchdogExpiry => Sys2Proof.Machine.execWatchdogExpiry s
  | .prdWdtWrite v => Sys2Proof.Machine.execPrdWdtWrite v s
  | .heartbeatTick => Sys2Proof.Machine.execHeartbeatTick s
  | .heartbeatLoss => Sys2Proof.Machine.execHeartbeatLoss s
  | .statusBlockSend lane => Sys2Proof.Machine.execStatusBlockSend lane s
  | .statusBlockReceive lane b => Sys2Proof.Machine.execStatusBlockReceive lane b s
  | .laneTrained lane => Sys2Proof.Machine.execLaneTrained lane s
  | .laneDown lane => Sys2Proof.Machine.execLaneDown lane s
  | .prdCommit ci => Sys2Proof.Machine.execPrdCommit ci s
  | .deltaFrame f => Sys2Proof.Machine.execDeltaFrame f s
  | .cmdpageFrame f => Sys2Proof.Machine.execCmdpageFrame f s
  | .bulkFrame f => Sys2Proof.Machine.execBulkFrame f s
  | .commitFrame f img => Sys2Proof.Machine.execCommitFrame f img s
  | .bulkSend => Sys2Proof.Machine.execBulkSend s
  | .loadFrame f => Sys2Proof.Machine.execLoadFrame f s
  | .loadConfirmFrame f => Sys2Proof.Machine.execLoadConfirmFrame f s
  | .identFrame lane f => Sys2Proof.Machine.execIdentFrame lane f s
  | .syncReqFrame f => Sys2Proof.Machine.execSyncReqFrame f s
  | .prdSyncReq => Sys2Proof.Machine.execPrdSyncReq s
  | .gnssPartnerFrame sweep off prs => Sys2Proof.Machine.execGnssPartnerFrame sweep off prs s
  | .ns32Wrap => Sys2Proof.Machine.execNs32Wrap s
  | .refclkLoss => Sys2Proof.Machine.execRefclkLoss s
  | .refclkReturn => Sys2Proof.Machine.execRefclkReturn s
  | .syncExchangeStart t1 => Sys2Proof.Machine.execSyncExchangeStart t1 s
  | .delayReq port t2 t3 => Sys2Proof.Machine.execDelayReq port t2 t3 s
  | .delayResp port t2 t3 t4 epoch pstate valid depth => Sys2Proof.Machine.execDelayResp port t2 t3 t4 epoch pstate valid depth s
  | .exchangeMissing => Sys2Proof.Machine.execExchangeMissing s
  | .ptuOffsetIn off t => Sys2Proof.Machine.execPtuOffsetIn off t s
  | .ppsInEdge falling t => Sys2Proof.Machine.execPpsInEdge falling t s
  | .holdoverEntry => Sys2Proof.Machine.execHoldoverEntry s
  | .stepNotice delta tb => Sys2Proof.Machine.execStepNotice delta tb s
  | .stepApply => Sys2Proof.Machine.execStepApply s
  | .secondBoundary => Sys2Proof.Machine.execSecondBoundary s
  | .rebase => Sys2Proof.Machine.execRebase s
  | .tsqPop mask => Sys2Proof.Machine.execTsqPop mask s
  | .portBlockLock p => Sys2Proof.Machine.execPortBlockLock p s
  | .portLinkLoss p => Sys2Proof.Machine.execPortLinkLoss p s
  | .guardTrip p long kib bad => Sys2Proof.Machine.execGuardTrip p long kib bad s
  | .guardHoldExpiry p => Sys2Proof.Machine.execGuardHoldExpiry p s
  | .frameReceive p hdr words ends => Sys2Proof.Machine.execFrameReceive p hdr words ends s
  | .frameTransmitStart p => Sys2Proof.Machine.execFrameTransmitStart p s
  | .txRingSubmit tail => Sys2Proof.Machine.execTxRingSubmit tail s
  | .rxRingHead head => Sys2Proof.Machine.execRxRingHead head s
  | .zfbRollStart => Sys2Proof.Machine.execZfbRollStart s
  | .rollProbe => Sys2Proof.Machine.execRollProbe s
  | .probeTimeout => Sys2Proof.Machine.execProbeTimeout s
  | .rollPresent => Sys2Proof.Machine.execRollPresent s
  | .authChal => Sys2Proof.Machine.execAuthChal s
  | .authAnswer => Sys2Proof.Machine.execAuthAnswer s
  | .authDeny => Sys2Proof.Machine.execAuthDeny s
  | .rollAssign => Sys2Proof.Machine.execRollAssign s
  | .rollTable => Sys2Proof.Machine.execRollTable s
  | .rollAck => Sys2Proof.Machine.execRollAck s
  | .portOpen => Sys2Proof.Machine.execPortOpen s
  | .rollDone => Sys2Proof.Machine.execRollDone s
  | .rollActivation => Sys2Proof.Machine.execRollActivation s
  | .eventLinkUp => Sys2Proof.Machine.execEventLinkUp s
  | .eventLinkDown => Sys2Proof.Machine.execEventLinkDown s
  | .eventGuardTrip => Sys2Proof.Machine.execEventGuardTrip s
  | .eventNewNode => Sys2Proof.Machine.execEventNewNode s
  | .reversalNotice => Sys2Proof.Machine.execReversalNotice s
  | .sweepFrameSend => Sys2Proof.Machine.execSweepFrameSend s
  | .sweepFrameReceive => Sys2Proof.Machine.execSweepFrameReceive s
  | .recallIssue sweep => Sys2Proof.Machine.execRecallIssue sweep s
  | .recallRepeat sweep => Sys2Proof.Machine.execRecallRepeat sweep s
  | .recallReceive => Sys2Proof.Machine.execRecallReceive s
  | .commandFrameReceive => Sys2Proof.Machine.execCommandFrameReceive s
  | .powerSetpoint => Sys2Proof.Machine.execPowerSetpoint s
  | .signalWrite => Sys2Proof.Machine.execSignalWrite s
  | .wakeItem => Sys2Proof.Machine.execWakeItem s
  | .commandItemEffect => Sys2Proof.Machine.execCommandItemEffect s
  | .cfeDownlinkSend => Sys2Proof.Machine.execCfeDownlinkSend s
  | .cfeCommandFrame f => Sys2Proof.Machine.execCfeCommandFrame f s
  | .cfeSyncFrame f => Sys2Proof.Machine.execCfeSyncFrame f s
  | .cfeUplinkSend aux mod => Sys2Proof.Machine.execCfeUplinkSend aux mod s
  | .cfeUplinkReceive f t => Sys2Proof.Machine.execCfeUplinkReceive f t s
  | .cfeSilence => Sys2Proof.Machine.execCfeSilence s
  | .cfeLinkLost => Sys2Proof.Machine.execCfeLinkLost s
  | .hvWrite r v => Sys2Proof.Machine.execHvWrite r v s
  | .hvResend => Sys2Proof.Machine.execHvResend s
  | .stackRise => Sys2Proof.Machine.execStackRise s
  | .stackFall => Sys2Proof.Machine.execStackFall s
  | .snowdropAuto => Sys2Proof.Machine.execSnowdropAuto s
  | .cfeEnable on => Sys2Proof.Machine.execCfeEnable on s
  | .snowEnter => Sys2Proof.Machine.execSnowEnter s
  | .hibEnter => Sys2Proof.Machine.execHibEnter s
  | .snowdropCheck cells codes => Sys2Proof.Machine.execSnowdropCheck cells codes s
  | .shuntWake => Sys2Proof.Machine.execShuntWake s
  | .cellComparatorChange ch uv on => Sys2Proof.Machine.execCellComparatorChange ch uv on s
  | .otFlagChange n on => Sys2Proof.Machine.execOtFlagChange n on s
  | .balReqWrite req => Sys2Proof.Machine.execBalReqWrite req s
  | .balLeaseExpiry => Sys2Proof.Machine.execBalLeaseExpiry s
  | .balPhaseChange => Sys2Proof.Machine.execBalPhaseChange s
  | .switchOvercurrent ch => Sys2Proof.Machine.execSwitchOvercurrent ch s
  | .dieHotChange hot => Sys2Proof.Machine.execDieHotChange hot s
  | .measPauseOpen sweep => Sys2Proof.Machine.execMeasPauseOpen sweep s
  | .measPauseClose => Sys2Proof.Machine.execMeasPauseClose s
  | .schRun run => Sys2Proof.Machine.execSchRun run s
  | .schRespSelWrite idx => Sys2Proof.Machine.execSchRespSelWrite idx s
  | .sweepPublish => Sys2Proof.Machine.execSweepPublish s
  | .cseRun run => Sys2Proof.Machine.execCseRun run s
  | .cseUpdate => Sys2Proof.Machine.execCseUpdate s
  | .hibernateEntry => Sys2Proof.Machine.execHibernateEntry s
  | .engineWake => Sys2Proof.Machine.execEngineWake s
  | .cseWakeNow => Sys2Proof.Machine.execCseWakeNow s
  | .replacementChallenge m => Sys2Proof.Machine.execReplacementChallenge m s
  | .gnbRun run => Sys2Proof.Machine.execGnbRun run s
  | .gnssClkLoss => Sys2Proof.Machine.execGnssClkLoss s
  | .gnssClkReturn => Sys2Proof.Machine.execGnssClkReturn s
  | .inputOverflow => Sys2Proof.Machine.execInputOverflow s
  | .gnbChannelEnable n en => Sys2Proof.Machine.execGnbChannelEnable n en s
  | .searchComplete n dwells bin cell => Sys2Proof.Machine.execSearchComplete n dwells bin cell s
  | .pullInLock n => Sys2Proof.Machine.execPullInLock n s
  | .pullInTimeout n => Sys2Proof.Machine.execPullInTimeout n s
  | .bitSync n => Sys2Proof.Machine.execBitSync n s
  | .frameSync n back => Sys2Proof.Machine.execFrameSync n back s
  | .cycleSlip n => Sys2Proof.Machine.execCycleSlip n s
  | .signalLoss n => Sys2Proof.Machine.execSignalLoss n s
  | .navParityLoss n => Sys2Proof.Machine.execNavParityLoss n s
  | .navWord n w t => Sys2Proof.Machine.execNavWord n w t s
  | .correlatorMs samples t => Sys2Proof.Machine.execCorrelatorMs samples t s
  | .firmwareErrorDeadline m => Sys2Proof.Machine.execFirmwareErrorDeadline m s
  | .measurementLatch cn0 => Sys2Proof.Machine.execMeasurementLatch cn0 s
  | .measurementPublish => Sys2Proof.Machine.execMeasurementPublish s
  | .timeSolution week sats => Sys2Proof.Machine.execTimeSolution week sats s
  | .fusRun run => Sys2Proof.Machine.execFusRun run s
  | .fusSampleCommit => Sys2Proof.Machine.execFusSampleCommit s
  | .fusInPush who v => Sys2Proof.Machine.execFusInPush who v s
  | .fusRefEnable r en => Sys2Proof.Machine.execFusRefEnable r en s
  | .fusUpdate => Sys2Proof.Machine.execFusUpdate s
  | .fusPublish => Sys2Proof.Machine.execFusPublish s
  | .slvRingSubmit tail => Sys2Proof.Machine.execSlvRingSubmit tail s
  | .slvRequestRelease num => Sys2Proof.Machine.execSlvRequestRelease num s
  | .slvLoad => Sys2Proof.Machine.execSlvLoad s
  | .slvSolve => Sys2Proof.Machine.execSlvSolve s
  | .slvClear => Sys2Proof.Machine.execSlvClear s
  | .slvSetupComplete pip => Sys2Proof.Machine.execSlvSetupComplete pip s
  | .slvIterationComplete dur pip => Sys2Proof.Machine.execSlvIterationComplete dur pip s
  | .slvDeadline num phaseS begun => Sys2Proof.Machine.execSlvDeadline num phaseS begun s
  | .hlmRun run => Sys2Proof.Machine.execHlmRun run s
  | .hlmLawStart remote => Sys2Proof.Machine.execHlmLawStart remote s
  | .hlmQpResult => Sys2Proof.Machine.execHlmQpResult s
  | .hlmCommandPublish => Sys2Proof.Machine.execHlmCommandPublish s
  | .hlmModeSet mode => Sys2Proof.Machine.execHlmModeSet mode s
  | .hlmRestore => Sys2Proof.Machine.execHlmRestore s
  | .loopEnWrite n en => Sys2Proof.Machine.execLoopEnWrite n en s
  | .loopSample => Sys2Proof.Machine.execLoopSample s
  | .loopPublish ovr => Sys2Proof.Machine.execLoopPublish ovr s
  | .loopOpen n => Sys2Proof.Machine.execLoopOpen n s
  | .loopClose n => Sys2Proof.Machine.execLoopClose n s
  | .loopCommit n => Sys2Proof.Machine.execLoopCommit n s
  | .loopClear n => Sys2Proof.Machine.execLoopClear n s
  | .taskRelease t => Sys2Proof.Machine.execTaskRelease t s
  | .inputCopy t => Sys2Proof.Machine.execInputCopy t s
  | .instanceComplete t outs ints => Sys2Proof.Machine.execInstanceComplete t outs ints s
  | .outputInstant t => Sys2Proof.Machine.execOutputInstant t s
  | .eventRelease t => Sys2Proof.Machine.execEventRelease t s
  | .latchedEventRelease t => Sys2Proof.Machine.execLatchedEventRelease t s
  | .crtRunWrite run => Sys2Proof.Machine.execCrtRunWrite run s
  | .crtResetWrite => Sys2Proof.Machine.execCrtResetWrite s
  | .crtStnAckWrite mask => Sys2Proof.Machine.execCrtStnAckWrite mask s
  | .stationInputSend cycle rj => Sys2Proof.Machine.execStationInputSend cycle rj s
  | .stationInputFrame => Sys2Proof.Machine.execStationInputFrame s
  | .stationOutputFrame => Sys2Proof.Machine.execStationOutputFrame s
  | .stationApply => Sys2Proof.Machine.execStationApply s
  | .fioEnable on => Sys2Proof.Machine.execFioEnable on s
  | .fioDownlinkSend => Sys2Proof.Machine.execFioDownlinkSend s
  | .fioCommandFrame d rb => Sys2Proof.Machine.execFioCommandFrame d rb s
  | .fioSyncFrame d rb => Sys2Proof.Machine.execFioSyncFrame d rb s
  | .fioUplinkSend => Sys2Proof.Machine.execFioUplinkSend s
  | .fioUplinkReceive f => Sys2Proof.Machine.execFioUplinkReceive f s
  | .fioSilence => Sys2Proof.Machine.execFioSilence s
  | .fioLinkLost => Sys2Proof.Machine.execFioLinkLost s
  | .fieldHeldWrite r v => Sys2Proof.Machine.execFieldHeldWrite r v s
  | .fieldHeldResend => Sys2Proof.Machine.execFieldHeldResend s
  | .fieldSupplyLow => Sys2Proof.Machine.execFieldSupplyLow s
  | .fieldSupplyGood => Sys2Proof.Machine.execFieldSupplyGood s
  | .fieldPor => Sys2Proof.Machine.execFieldPor s
  | .fieldSupplyRise => Sys2Proof.Machine.execFieldSupplyRise s
  | .inputDebounceChange n raw => Sys2Proof.Machine.execInputDebounceChange n raw s
  | .outputOverload n => Sys2Proof.Machine.execOutputOverload n s
  | .outputOverTemp n => Sys2Proof.Machine.execOutputOverTemp n s
  | .outputRetry n holds => Sys2Proof.Machine.execOutputRetry n holds s
  | .openWire n on => Sys2Proof.Machine.execOpenWire n on s
  | .discrepancy n on => Sys2Proof.Machine.execDiscrepancy n on s
  | .canBitTimingWrite n off v inFrame => Sys2Proof.Machine.execCanBitTimingWrite n off v inFrame s
  | .canIntegrationDone n => Sys2Proof.Machine.execCanIntegrationDone n s
  | .canSlotOccurrence n k => Sys2Proof.Machine.execCanSlotOccurrence n k s
  | .canWindowEnd n k started => Sys2Proof.Machine.execCanWindowEnd n k started s
  | .canArbitrationLost n m => Sys2Proof.Machine.execCanArbitrationLost n m s
  | .canFrameComplete n m sof => Sys2Proof.Machine.execCanFrameComplete n m sof s
  | .canBusError n kind transmitting dominant => Sys2Proof.Machine.execCanBusError n kind transmitting dominant s
  | .canFrameReceive n f => Sys2Proof.Machine.execCanFrameReceive n f s
  | .canTxreq n m => Sys2Proof.Machine.execCanTxreq n m s
  | .canRecover n => Sys2Proof.Machine.execCanRecover n s
  | .canRecoveryDone n => Sys2Proof.Machine.execCanRecoveryDone n s
  | .canTxClr n => Sys2Proof.Machine.execCanTxClr n s
  | .safDownlinkSend => Sys2Proof.Machine.execSafDownlinkSend s
  | .safLaneFrame k f => Sys2Proof.Machine.execSafLaneFrame k f s
  | .safUplinkReceive k valid => Sys2Proof.Machine.execSafUplinkReceive k valid s
  | .safRefreshSilence k => Sys2Proof.Machine.execSafRefreshSilence k s
  | .safLaneSilent k => Sys2Proof.Machine.execSafLaneSilent k s
  | .laneSample k levels pins => Sys2Proof.Machine.execLaneSample k levels pins s
  | .laneCycle k => Sys2Proof.Machine.execLaneCycle k s
  | .inputPairDiscrepancy k p => Sys2Proof.Machine.execInputPairDiscrepancy k p s
  | .functionSourceDiscrepancy k n => Sys2Proof.Machine.execFunctionSourceDiscrepancy k n s
  | .telegramArrival record => Sys2Proof.Machine.execTelegramArrival record s
  | .telegramTimeout k m => Sys2Proof.Machine.execTelegramTimeout k m s
  | .voteSend partner => Sys2Proof.Machine.execVoteSend partner s
  | .testPulseStart q => Sys2Proof.Machine.execTestPulseStart q s
  | .testPulseEnd q mv => Sys2Proof.Machine.execTestPulseEnd q mv s
  | .testPulseOverdue q m => Sys2Proof.Machine.execTestPulseOverdue q m s
  | .safReset v => Sys2Proof.Machine.execSafReset v s
  | .safReqWrite v => Sys2Proof.Machine.execSafReqWrite v s
  | .memoryStore addr data => Sys2Proof.Machine.execMemoryStore addr data s
  | .memoryRead who addr len code => Sys2Proof.Machine.execMemoryRead who addr len code s
  | .busErrorAccess who addr => Sys2Proof.Machine.execBusErrorAccess who addr s
  | .scrubRead dram code => Sys2Proof.Machine.execScrubRead dram code s
  | .flashScrub => Sys2Proof.Machine.execFlashScrub s
  | .doorbell mask => Sys2Proof.Machine.execDoorbell mask s
  | .mbxAck mask => Sys2Proof.Machine.execMbxAck mask s
  | .hostBufferWrite word v => Sys2Proof.Machine.execHostBufferWrite word v s
  | .mbxPathWrite v => Sys2Proof.Machine.execMbxPathWrite v s
  | .mailboxFrameReceive => Sys2Proof.Machine.execMailboxFrameReceive s
  | .ethernetDatagram addr port b => Sys2Proof.Machine.execEthernetDatagram addr port b s
  | .internalCommand n c => Sys2Proof.Machine.execInternalCommand n c s
  | .longCommandComplete => Sys2Proof.Machine.execLongCommandComplete s
  | .identify => Sys2Proof.Machine.execIdentify s
  | .statusCommand => Sys2Proof.Machine.execStatusCommand s
  | .restartCommand => Sys2Proof.Machine.execRestartCommand s
  | .faultLogRead => Sys2Proof.Machine.execFaultLogRead s
  | .regRead => Sys2Proof.Machine.execRegRead s
  | .regWrite => Sys2Proof.Machine.execRegWrite s
  | .memRead => Sys2Proof.Machine.execMemRead s
  | .memWrite => Sys2Proof.Machine.execMemWrite s
  | .shadowWrite => Sys2Proof.Machine.execShadowWrite s
  | .shadowCheck => Sys2Proof.Machine.execShadowCheck s
  | .flip => Sys2Proof.Machine.execFlip s
  | .flipInstant => Sys2Proof.Machine.execFlipInstant s
  | .setRead => Sys2Proof.Machine.execSetRead s
  | .fwWrite => Sys2Proof.Machine.execFwWrite s
  | .fwVerify => Sys2Proof.Machine.execFwVerify s
  | .fwSelect => Sys2Proof.Machine.execFwSelect s
  | .bulbClear => Sys2Proof.Machine.execBulbClear s
  | .keyProvision => Sys2Proof.Machine.execKeyProvision s
  | .keyErase => Sys2Proof.Machine.execKeyErase s
  | .hlmSetpoint => Sys2Proof.Machine.execHlmSetpoint s
  | .hlmJoystick => Sys2Proof.Machine.execHlmJoystick s
  | .hlmMode => Sys2Proof.Machine.execHlmMode s
  | .cseRestore => Sys2Proof.Machine.execCseRestore s
  | .cseService => Sys2Proof.Machine.execCseService s
  | .cseWake => Sys2Proof.Machine.execCseWake s
  | .cseCommit => Sys2Proof.Machine.execCseCommit s
  | .fusPush => Sys2Proof.Machine.execFusPush s
  | .rollStart => Sys2Proof.Machine.execRollStart s
  | .routeRead => Sys2Proof.Machine.execRouteRead s
  | .taskControlRun => Sys2Proof.Machine.execTaskControlRun s
  | .taskControlStop => Sys2Proof.Machine.execTaskControlStop s
  | .taskControlReset => Sys2Proof.Machine.execTaskControlReset s
  | .taskRun => Sys2Proof.Machine.execTaskRun s
  | .taskStop => Sys2Proof.Machine.execTaskStop s
  | .taskHold => Sys2Proof.Machine.execTaskHold s
  | .taskStep => Sys2Proof.Machine.execTaskStep s
  | .taskResume => Sys2Proof.Machine.execTaskResume s
  | .stnAck => Sys2Proof.Machine.execStnAck s
  | .taskTrigger => Sys2Proof.Machine.execTaskTrigger s
  | .forceSet => Sys2Proof.Machine.execForceSet s
  | .forceClear => Sys2Proof.Machine.execForceClear s
  | .canBusoffReturn => Sys2Proof.Machine.execCanBusoffReturn s
  | .pmcCounterWrap n k => Sys2Proof.Machine.execPmcCounterWrap n k s
  | .pmcCntWrite n v => Sys2Proof.Machine.execPmcCntWrite n v s
  | .pmcFreeze => Sys2Proof.Machine.execPmcFreeze s
  | .periodicSnapshot manual => Sys2Proof.Machine.execPeriodicSnapshot manual s
  | .faultLogMergeExpiry => Sys2Proof.Machine.execFaultLogMergeExpiry s
  | .faultLogFlashWrite => Sys2Proof.Machine.execFaultLogFlashWrite s
  | .learnedRecordCommit slot => Sys2Proof.Machine.execLearnedRecordCommit slot s
  | .rollCallRestart => Sys2Proof.Machine.execRollCallRestart s
  | .slvSolveComplete pip => Sys2Proof.Machine.execSlvSolveComplete pip s
  | .mirrorLaneTransmit lane => Sys2Proof.Machine.execMirrorLaneTransmit lane s
  | .dominoLaneFrame m => Sys2Proof.Machine.execDominoLaneFrame m s
  | .hostEthernetFrame event t => Sys2Proof.Machine.execHostEthernetFrame event t s

end Sys2Proof.Machine
end

