-- ==== Sys2Proof/Safety.lean ====
section
/-!
DEFINITION. Safety.lean: the words that statements use: what is left alone from one state to another, and the invariants
that every step keeps.
-/
namespace Sys2Proof.Machine

/-- Every register field but the named ones reads as before. -/
def RegsBut (fs : List Fld) (s t : State) : Prop :=
  ∀ g : Fld, (∀ f ∈ fs, g.key ≠ f.key) → t.rd g = s.rd g

/-- Every byte of SRAM, DRAM and flash reads as before, and so does every check byte. -/
def MemSame (s t : State) : Prop := (∀ a, t.rdByte a = s.rdByte a) ∧ ∀ k, t.rdChk k = s.rdChk k

/-- Every byte outside [lo, lo + n) reads as before. -/
def MemBut (lo n : Nat) (s t : State) : Prop := ∀ a, a < lo ∨ lo + n ≤ a → t.rdByte a = s.rdByte a

/-- The register fields that an entry in the fault log changes (R454). -/
def logFields : List Fld := [PMC_LOG_STAT_NEXT, PMC_LOG_STAT_STAGED, PMC_LOG_STAT_LOST_CNT]

/-- The state s with the registers and the fault log of t: what s becomes where nothing else changes. -/
def State.like (s t : State) : State := { s with regs := t.regs, log := t.log }

/-- The register fields that the performance counters change when an event is counted (R445, R446, R448). -/
def countFields : List Fld := PMC_OVF_OVF :: (List.range 32).map PMC_CNT_VALUE

/-- Outside the block of the given index no register field changes but those of the fault log and of the counters. -/
def OnlyBlock (b : Nat) (s t : State) : Prop :=
  ∀ g : Fld, (∀ f ∈ logFields ++ countFields, g.key ≠ f.key) → (g.addr < 0x40000000 + 0x10000 * b ∨ 0x40010000 + 0x10000 * b ≤ g.addr) →
    t.rd g = s.rd g

/-- The newest staged entry, which is what an event leaves in the log (R452, R453): its source, code and instance. -/
def State.lastEntry (s : State) : Option (Nat × Nat × Nat) := s.log.staged.getLast?.map fun x => (x.e.source, x.e.code, x.e.inst)

/-- Memory and the register file are in their one canonical form. -/
abbrev Canonical (s : State) : Prop := Memory.wf s = true ∧ aSorted s.regs = true

/-- R15: before a start has completed, and in Bulb mode, the role is MONITOR. -/
abbrev RoleBeforeStart (s : State) : Prop := s.start.phase ≠ .running → s.start.role = .monitor

end Sys2Proof.Machine
end

