-- ==== Sys2Proof/Certificates/Slice0/Obligations.lean ====
section
/-!
DEFINITION. Certificates/Slice0/Obligations.lean: the statements for the provers.
-/
open Sys2Proof Sys2Proof.Machine

/-- A step runs the command at the front of the queue. For every command c, state s and queue rest: a step of s with c in
front of rest is exec of c on s with the queue rest. -/
def Obligations.StepRunsFront : Prop :=
  ∀ (c : Instr) (rest : List Instr) (s : State), step (s.setPending (c :: rest)) = exec c (s.setPending rest)

/-- With no command waiting a step is one tick of the timing clock. With an empty queue a step answers a next state in
which the tick count is one greater and NS32 is the integer part of the accumulator NS32 · 2^24 + fraction + INCR +
the carry of the dither, modulo 2^32; the epoch advances exactly when that accumulator wraps. Registers outside
PTU_TIME, the second marker of the GNSS baseband and the response fields of the sample chain, whose switch comes at a
sweep instant (R68), stand while no event is counted; memory stands. That the tick is what an idle step does is the
model's choice (notes/assumptions/1.md). -/
def Obligations.IdleStepIsOneTick : Prop :=
  ∀ s : State, s.pending = [] → s.rd PMC_CTRL_RUN = 0 →
    let a := s.rd PTU_TIME_NS32 * 2 ^ 24 + s.ptu.frac + s.rd PTU_INCR_INCR + (s.ptu.dith + s.ptu.incrFine) / 2 ^ 16
    ∃ t, step s = .next t ∧ t.ticks = s.ticks + 1 ∧ t.rd PTU_TIME_NS32 = a / 2 ^ 24 % 2 ^ 32 ∧ t.ptu.frac = a % 2 ^ 24 ∧
      t.rd PTU_TIME_EPOCH = (if 2 ^ 56 ≤ a then (s.rd PTU_TIME_EPOCH + 1) % 2 ^ 32 else s.rd PTU_TIME_EPOCH) ∧
      RegsBut [PTU_TIME_NS32, PTU_TIME_EPOCH, GNB_PPS_NS32, GNB_PPS_TOW_S, SCH_STATUS_RESP_ACT, SCH_STATUS_RESP_PEND,
        SCH_RESP_EFF_SWEEP] s t ∧ MemSame s t

/-- The reset state meets the invariants. State.reset has memory and registers in canonical form, no command waiting, and
reports the role MONITOR, its start not begun. Where the rules leave a point open, the model's reading of it is in
notes/assumptions/4.md. -/
def Obligations.ResetStateIsCanonical : Prop :=
  Canonical State.reset ∧ RoleBeforeStart State.reset ∧ State.reset.pending = [] ∧ State.reset.start.role = .monitor ∧
    State.reset.start.phase ≠ .running

/-- Every step keeps memory and registers in canonical form. From every state whose memory and register file are in
canonical form, whatever command stands in front, a step that answers a next state leaves them in canonical form. -/
def Obligations.EveryStepKeepsCanonicalForm : Prop :=
  ∀ s t : State, Canonical s → step s = .next t → Canonical t

/-- Before a start completes and in Bulb mode the role is MONITOR. From every state in which R15 holds, whatever command
stands in front, a step that answers a next state leaves a state in which R15 holds: a module that has not completed
its start sequence, or is in Bulb mode, reports MONITOR. -/
def Obligations.RoleIsMonitorBeforeStartAndInBulb : Prop :=
  ∀ s t : State, RoleBeforeStart s → step s = .next t → RoleBeforeStart t

/-- A role once taken changes only from STANDBY to active, or ends with a reset. From every state whose start has
completed, whatever command stands in front, a step that answers a next state leaves the role as it was, or makes a
STANDBY a COORDINATOR or a DOMINO_HALF, or leaves the module in a reset whose start has not begun and whose role is
MONITOR. -/
def Obligations.RoleChangesOnlyByTakeoverOrRestart : Prop :=
  ∀ s t : State, s.start.phase = .running → step s = .next t →
    (t.start.phase = .running ∧ (t.start.role = s.start.role ∨
      (s.start.role = .standby ∧ (t.start.role = .coordinator ∨ t.start.role = .dominoHalf)))) ∨ t.start.phase = .idle

/-- A command leaves the queue and the tick count alone and gives no free value back. For every command c and states s, t
with exec c s = next t: the queue and the count of ticks of the timing clock are those of s, and the number of free
values drawn has not gone down. -/
def Obligations.CommandsLeaveQueueAndClock : Prop :=
  ∀ (c : Instr) (s t : State), exec c s = .next t → t.pending = s.pending ∧ t.ticks = s.ticks ∧ s.free ≤ t.free

/-- A word formed by the Pip code decodes clean with its data. For every run of 32 bytes, decoding the word that pipEncode
forms of it finds it clean and gives the bytes back. -/
def Obligations.PipEncodedWordReadsClean : Prop :=
  ∀ d : Bytes, d.length = 32 → pipDecode (pipEncode d) = .clean d

/-- A word with one wrong symbol is corrected. For every run of 32 bytes, every symbol position i of the 36 (32 data, then
4 check) and every nonzero error e, decoding the word with e added to symbol i corrects it: the result is the word as
pipEncode formed it, with position 35 - i. -/
def Obligations.PipSingleWrongSymbolIsCorrected : Prop :=
  ∀ (d : Bytes) (i : Nat) (e : Byte), d.length = 32 → i < 36 → e ≠ 0 →
    let v := pipEncode d
    let bad := (v.data ++ v.chk).modify i (· ^^^ e)
    pipDecode { data := bad.take 32, chk := bad.drop 32 } = .corrected v (35 - i)

def pipErrFields : List Fld :=
  [MBX_PIP_ERR_DRAM_CORR, MBX_PIP_ERR_DRAM_UNCORR, MBX_PIP_ERR_SRAM_CORR, MBX_PIP_ERR_SRAM_UNCORR, MBX_PIP_ERR_FLASH_CORR,
   MBX_PIP_ERR_FLASH_UNCORR, MBX_PIP_ERR_BUS_ERR]

/-- A register write stores, clears or ignores by access type, and outside the map it is a bus error. REGISTER_WRITE by
any requester to a live module. On MBX_PIP_ERR each flag written 1 clears and no other field changes; on PMC_CHAIN the
field takes the value while no counter runs, and is refused with CFG_REJ while they run; on the read-only PMC_SNAP0,
and at an offset that no register occupies, nothing changes; outside the register windows or misaligned it sets
BUS_ERR and changes nothing else but the fault log's registers. Memory stands. Where the rules leave a point open, the
model's reading of it is in notes/assumptions/33.md. -/
def Obligations.RegisterWritesFollowAccessTypes : Prop :=
  (∀ (who : Requester) (v : BitVec 32) (s : State), s.live = true →
    ∃ t, exec (.registerWrite who 0x400B0044 v) s = .next t ∧
      (∀ f ∈ pipErrFields, t.rd f = if v.toNat.testBit f.lo then 0 else s.rd f % 2) ∧ RegsBut pipErrFields s t ∧ MemSame s t) ∧
  (∀ (who : Requester) (v : BitVec 32) (s : State), s.live = true → s.rd PMC_CTRL_RUN = 0 →
    exec (.registerWrite who 0x4010000C v) s = .next (s.wr PMC_CHAIN_CHAIN v.toNat)) ∧
  (∀ (who : Requester) (v : BitVec 32) (s : State), s.live = true → s.rd PMC_CTRL_RUN ≠ 0 →
    exec (.registerWrite who 0x4010000C v) s = .next (s.wr PMC_ERR_CFG_REJ 1)) ∧
  (∀ (who : Requester) (v : BitVec 32) (s : State), s.live = true →
    exec (.registerWrite who 0x40100300 v) s = .next s) ∧
  (∀ (who : Requester) (a : BitVec 64) (v : BitVec 32) (s : State), s.live = true → inRegs a.toNat = true → a.toNat % 4 = 0 →
    findReg a.toNat = none → exec (.registerWrite who a v) s = .next s) ∧
  (∀ (who : Requester) (a : BitVec 64) (v : BitVec 32) (s : State), s.live = true → (inRegs a.toNat = false ∨ a.toNat % 4 ≠ 0) →
    ∃ t, exec (.registerWrite who a v) s = .next t ∧ t.rd MBX_PIP_ERR_BUS_ERR = 1 ∧
      RegsBut (MBX_PIP_ERR_BUS_ERR :: logFields) s t ∧ MemSame s t)

/-- A register read delivers the value and clears the RC fields it reads. READ_CLEAR of PMC_DUMP_PTR delivers WR, RD and
DROP_CNT and clears DROP_CNT alone. WIDE_REG_LOW_READ of PMC_LOG_STAT delivers NEXT, clears LOST_CNT in the upper
word, and latches the upper word as it stood. WIDE_REG_HIGH_READ after it delivers what was latched for that requester
and lets go of it. Memory stands. Where the rules leave a point open, the model's reading of it is in
notes/assumptions/7.md. -/
def Obligations.RegisterReadsDeliverAndClear : Prop :=
  (∀ (who : Requester) (s : State), s.live = true →
    ∃ t, exec (.readClear who 0x4010001C) s = .next t ∧
      t.reads.head? = some (ReadOut.mk who 0x4010001C
        ((s.rd PMC_DUMP_PTR_WR + s.rd PMC_DUMP_PTR_RD * 2 ^ 12 + s.rd PMC_DUMP_PTR_DROP_CNT * 2 ^ 24) % 2 ^ 32)) ∧
      t.rd PMC_DUMP_PTR_DROP_CNT = 0 ∧ RegsBut [PMC_DUMP_PTR_DROP_CNT] s t ∧ MemSame s t) ∧
  (∀ (who : Requester) (s : State), s.live = true → s.rd PMC_LOG_STAT_NEXT < 2 ^ 32 → s.rd PMC_LOG_STAT_STAGED < 2 ^ 13 →
    s.rd PMC_LOG_STAT_LOST_CNT < 2 ^ 16 →
    ∃ t, exec (.wideRegLowRead who 0x40100020) s = .next t ∧
      t.reads.head? = some { who := who, addr := 0x40100020, value := s.rd PMC_LOG_STAT_NEXT } ∧ t.rd PMC_LOG_STAT_LOST_CNT = 0 ∧
      (t.wideOf who 0x40100020).latched = [(1, s.rd PMC_LOG_STAT_STAGED + s.rd PMC_LOG_STAT_LOST_CNT * 2 ^ 16)] ∧
      RegsBut [PMC_LOG_STAT_LOST_CNT] s t ∧ MemSame s t) ∧
  (∀ (who : Requester) (x : Nat) (s : State), s.live = true → (s.wideOf who 0x40100020).latched = [(1, x)] →
    ∃ t, exec (.wideRegHighRead who 0x40100024) s = .next t ∧
      t.reads.head? = some { who := who, addr := 0x40100024, value := x } ∧ (t.wideOf who 0x40100020).latched = [] ∧
      t.regs = s.regs ∧ MemSame s t)

/-- A wide register takes a new value only with its highest word. WIDE_REG_LOWER_WRITE of the low word of PMC_DUMP_BASE
holds the word for its requester and changes no register. WIDE_REG_COMMIT_WRITE of the high word, with a low word held
that is a multiple of 32 and DUMP_EN = 0, gives the register the 64-bit value of both and lets go of the held word. -/
def Obligations.WideWritesCommitWithTheHighestWord : Prop :=
  (∀ (who : Requester) (v : BitVec 32) (s : State), s.live = true →
    ∃ t, exec (.wideRegLowerWrite who 0x40100010 v) s = .next t ∧ (0, v.toNat) ∈ (t.wideOf who 0x40100010).held ∧
      t.regs = s.regs ∧ MemSame s t) ∧
  (∀ (who : Requester) (v : BitVec 32) (x : Nat) (s : State), s.live = true → (s.wideOf who 0x40100010).held = [(0, x)] →
    x < 2 ^ 32 → x % 32 = 0 → s.rd PMC_CTRL_DUMP_EN = 0 →
    ∃ t, exec (.wideRegCommitWrite who 0x40100014 v) s = .next t ∧ t.rd PMC_DUMP_BASE_ADDR = x + v.toNat * 2 ^ 32 ∧
      (t.wideOf who 0x40100010).held = [] ∧ RegsBut [PMC_DUMP_BASE_ADDR] s t ∧ MemSame s t)

/-- Stores and reads of memory, and accesses outside the map. MEMORY_STORE of one whole aligned word to SRAM stores
exactly those 32 bytes. MEMORY_READ within one clean word of SRAM delivers its bytes, of an uncorrectable word
delivers nothing and counts it, and of the key areas delivers 0. BUS_ERROR_ACCESS, and a store or read outside SRAM,
DRAM and flash, set BUS_ERR; the reader gets no value. Everything else in memory stands. Where the rules leave a point
open, the model's reading of it is in notes/assumptions/5.md. -/
def Obligations.MemoryAccessesStoreAndDeliver : Prop :=
  (∀ (w : Nat) (d : Bytes) (s : State), s.live = true → w < 0x80000 → d.length = 32 →
    ∃ t, exec (.memoryStore (BitVec.ofNat 64 (32 * w)) d) s = .next t ∧ (∀ i < 32, t.rdByte (32 * w + i) = d.getD i 0) ∧
      MemBut (32 * w) 32 s t) ∧
  (∀ (a : BitVec 64) (d : Bytes) (s : State), s.live = true → d ≠ [] → a.toNat + d.length ≤ 2 ^ 64 → inSram a.toNat = false →
    inDram a.toNat = false → ∃ t, exec (.memoryStore a d) s = .next t ∧ t.rd MBX_PIP_ERR_BUS_ERR = 1 ∧ MemSame s t) ∧
  (∀ (who : Requester) (w o : Nat) (len : Fin 64) (code : Bool) (d : Bytes) (s : State), s.live = true → w < 0x80000 →
    1 ≤ len.val → o + len.val ≤ 32 → pipDecode (s.rdRaw w) = .clean d →
    exec (.memoryRead who (BitVec.ofNat 64 (32 * w + o)) len code) s =
      .next (s.deliver who (32 * w + o) (natOf (slice d o len.val)))) ∧
  (∀ (who : Requester) (w o : Nat) (len : Fin 64) (s : State), s.live = true → w < 0x80000 → 1 ≤ len.val → o + len.val ≤ 32 →
    pipDecode (s.rdRaw w) = .uncorr → s.regionOf w = none →
    ∃ t, exec (.memoryRead who (BitVec.ofNat 64 (32 * w + o)) len false) s = .next t ∧ (∀ r ∈ t.reads, r.who ≠ who) ∧
      t.rd MBX_PIP_ERR_SRAM_UNCORR = 1 ∧ t.rd MBX_PIP_ADDR_ADDR = 32 * w ∧ t.rd MBX_PIP_ADDR_UNCORR = 1 ∧ MemSame s t) ∧
  (∀ (who : Requester) (a : BitVec 64) (len : Fin 64) (code : Bool) (s : State), s.live = true → 1 ≤ len.val →
    inKeys a.toNat = true → inKeys (a.toNat + len.val - 1) = true →
    exec (.memoryRead who a len code) s = .next (s.deliver who a.toNat 0)) ∧
  (∀ (r : Requester) (a : BitVec 64) (s : State), s.live = true → mapped a.toNat = false →
    ∃ t, exec (.busErrorAccess (.proc r) a) s = .next t ∧ t.rd MBX_PIP_ERR_BUS_ERR = 1 ∧ (∀ x ∈ t.reads, x.who ≠ r) ∧
      RegsBut (MBX_PIP_ERR_BUS_ERR :: logFields) s t ∧ MemSame s t)

/-- A scrub read corrects a wrong symbol, advances, and the last word completes a pass. SCRUB_READ and FLASH_SCRUB read
the next word of their memory; before the first word of a pass they wait for the period. A clean word that is not the
last changes no register and no memory and the scrubber moves on by one word. A word of SRAM with one wrong symbol is
written back corrected, counted and sets SRAM_CORR. The last word of SRAM or flash, clean, advances the count of
passes and the next pass begins at the first word. FLASH_SCRUB never writes flash. The ascending order of the words is
the model's choice (notes/assumptions/11.md). -/
def Obligations.ScrubbingCorrectsAndCountsPasses : Prop :=
  (∀ (dram code : Bool) (d : Bytes) (s : State), s.live = true → (s.scrubPos (b2n dram)).next ≠ 0 ∨ (s.scrubPos (b2n dram)).due ≤ s.ticks →
    (s.scrubPos (b2n dram)).next + 1 ≠ scrubWords (b2n dram) → pipDecode (s.rdRaw (s.scrubNext (b2n dram))) = .clean d →
    (s.scrubPos (b2n dram)).next < scrubWords (b2n dram) → dram = false →
    ∃ t due, exec (.scrubRead dram code) s = .next t ∧ t.regs = s.regs ∧ MemSame s t ∧
      t.mbx.scrubs = putAt s.mbx.scrubs (b2n dram) { next := (s.scrubPos (b2n dram)).next + 1, due := due }) ∧
  (∀ (dram code : Bool) (s : State), s.live = true → (s.scrubPos (b2n dram)).next = 0 → s.ticks < (s.scrubPos (b2n dram)).due →
    exec (.scrubRead dram code) s = .next s) ∧
  (∀ (code : Bool) (v : WireWord) (p : Nat) (s : State), s.live = true → (s.scrubPos 0).next < 0x80000 →
    ((s.scrubPos 0).next ≠ 0 ∨ (s.scrubPos 0).due ≤ s.ticks) → s.rd PMC_CTRL_RUN = 0 →
    pipDecode (s.rdRaw (s.scrubPos 0).next) = .corrected v p →
    ∃ t, exec (.scrubRead false code) s = .next t ∧ (∀ i < 32, t.rdByte (32 * (s.scrubPos 0).next + i) = v.data.getD i 0) ∧
      MemBut (32 * (s.scrubPos 0).next) 32 s t ∧
      t.rd MBX_PIP_ERR_SRAM_CORR = 1 ∧ t.rd MBX_PIP_CNT_CORR_CNT = min (s.rd MBX_PIP_CNT_CORR_CNT + 1) 65535) ∧
  (∀ (code : Bool) (d : Bytes) (s : State), s.live = true → (s.scrubPos 0).next = 0x7FFFF → pipDecode (s.rdRaw 0x7FFFF) = .clean d →
    ∃ t, exec (.scrubRead false code) s = .next t ∧ t.rd MBX_SCRUB_STAT_SRAM_PASS = (s.rd MBX_SCRUB_STAT_SRAM_PASS + 1) % 256 ∧
      RegsBut [MBX_SCRUB_STAT_SRAM_PASS] s t ∧ MemSame s t ∧
      t.mbx.scrubs = putAt s.mbx.scrubs 0 { next := 0, due := (s.scrubPos 0).due }) ∧
  (∀ (d : Bytes) (s : State), s.live = true → (s.scrubPos 2).next = 0xFFFFF → pipDecode (s.rdRaw 0x10FFFFF) = .clean d →
    s.rdRaw 0x10FFFFF ≠ erasedWord →
    ∃ t, exec .flashScrub s = .next t ∧ t.rd MBX_SCRUB_STAT_FLASH_PASS = (s.rd MBX_SCRUB_STAT_FLASH_PASS + 1) % 256 ∧
      RegsBut [MBX_SCRUB_STAT_FLASH_PASS] s t ∧ MemSame s t) ∧
  (∀ s : State, (s.scrubPos 2).next < 0x100000 → ∃ t, exec .flashScrub s = .next t ∧ t.mem = s.mem ∧ t.chk = s.chk)

/-- An entry closes after its second, and staged entries drain to flash. FAULT_LOG_MERGE_EXPIRY closes the staged entries
whose first occurrence lies 250,000,000 ticks back or more, and changes nothing else. FAULT_LOG_FLASH_WRITE, with
fewer than 20,000 entries programmed within the last hour, takes the oldest staged entry once it has closed, programs
it at the word of its INDEX where that word is erased, and leaves the others staged; with 20,000 it changes nothing.
Where the rules leave a point open, the model's reading of it is in notes/assumptions/9.md. -/
def Obligations.FaultLogMergesAndDrains : Prop :=
  (∀ s : State, exec .faultLogMergeExpiry s = .next { s with log := { s.log with
    staged := s.log.staged.map (fun x => { x with closed := x.closed || decide (x.tick + 250000000 ≤ s.ticks) }) } }) ∧
  (∀ (s : State) (x : Staged) (rest : List Staged), s.log.staged = x :: rest → x.closed = true →
    s.logHour.length < 20000 → x.e.index % logSize % logBlock ≠ logBlock - 256 → s.rdRaw (logWord x.e.index) = erasedWord →
    ∃ t, exec .faultLogFlashWrite s = .next t ∧ t.log.staged = rest ∧ t.log.hour = s.logHour ++ [s.ticks] ∧
      t.rd PMC_LOG_STAT_STAGED = rest.length % 2 ^ 13 ∧
      (∀ i < 32, t.rdByte (32 * logWord x.e.index + i) = (bytesOf 32 (logNum x.e false)).getD i 0) ∧
      MemBut (32 * logWord x.e.index) 32 s t ∧ RegsBut [PMC_LOG_STAT_STAGED] s t) ∧
  (∀ s : State, 20000 ≤ s.logHour.length → exec .faultLogFlashWrite s = .next s)

/-- Performance counters add, wrap, take written values and are copied whole by a snapshot. PMC_COUNTER_WRAP on a running,
unchained counter that selects a processor event without LEVEL and SAMPLE, the first in its tick, adds the occurrences
modulo 2^32 and sets its overflow bit exactly when it wraps. PMC_CNT_WRITE gives the counter the value, and an
increment later in the same tick is lost. PMC_FREEZE with no snapshot yet and DUMP_EN = 0 copies all 32 counters into
PMC_SNAP and advances SEQ; within 2 µs of a snapshot it is refused with CMD_REJ. PERIODIC_SNAPSHOT at a multiple of
PER with DUMP_EN = 1 and a full ring copies the counters, writes no record, sets DUMP_DROP, counts it and advances
SEQ. -/
def Obligations.PerformanceCountersCountAndSnapshot : Prop :=
  (∀ (n : Fin 32) (k : Nat) (s : State), s.live = true → s.rd PMC_CTRL_RUN ≠ 0 → s.start.phase ≠ .bulb →
    (s.rd (PMC_SEL_EVT n) = 1 ∨ s.rd (PMC_SEL_EVT n) = 2) → s.chained n = false →
    s.rd (PMC_SEL_LEVEL n) = 0 → s.rd (PMC_SEL_SAMPLE n) = 0 → s.pmc.tick ≠ s.ticks + 1 →
    ∃ t, exec (.pmcCounterWrap n k) s = .next t ∧ t.rd (PMC_CNT_VALUE n) = (s.rd (PMC_CNT_VALUE n) + k) % 2 ^ 32 ∧
      (s.rd (PMC_CNT_VALUE n) + k < 2 ^ 32 → t.rd PMC_OVF_OVF = s.rd PMC_OVF_OVF) ∧
      (2 ^ 32 ≤ s.rd (PMC_CNT_VALUE n) + k → (t.rd PMC_OVF_OVF).testBit n = true) ∧
      RegsBut [PMC_CNT_VALUE n, PMC_OVF_OVF] s t ∧ MemSame s t) ∧
  (∀ (n : Fin 32) (v : BitVec 32) (s : State), s.live = true →
    ∃ t, exec (.pmcCntWrite n v) s = .next t ∧ t.rd (PMC_CNT_VALUE n) = v.toNat ∧ RegsBut [PMC_CNT_VALUE n] s t ∧ MemSame s t ∧
      t.pmc.tick = s.ticks + 1 ∧ t.pmc.wrote.testBit n = true) ∧
  (∀ (n : Fin 32) (k : Nat) (s : State), s.pmc.tick = s.ticks + 1 → s.pmc.wrote.testBit n = true → s.rd (PMC_SEL_LEVEL n) = 0 →
    s.chained n = false → ∃ t, exec (.pmcCounterWrap n k) s = .next t ∧ t.regs = s.regs) ∧
  (∀ s : State, s.live = true → s.pmc.lastSnap = none → s.rd PMC_CTRL_DUMP_EN = 0 → s.pmc.tick ≠ s.ticks + 1 →
    ∃ t, exec .pmcFreeze s = .next t ∧ (∀ i < 32, t.rd (PMC_SNAP_VALUE i) = s.rd (PMC_CNT_VALUE i) % 2 ^ 32) ∧
      t.pmc.seq = (s.pmc.seq + 1) % 2 ^ 16 ∧ MemSame s t) ∧
  (∀ (x : Nat) (s : State), s.live = true → s.pmc.lastSnap = some x → s.ticks ≤ x + 500 →
    exec .pmcFreeze s = .next (s.wr PMC_ERR_CMD_REJ 1)) ∧
  (∀ (manual : Bool) (s : State), s.live = true → s.rd PMC_CTRL_DUMP_EN ≠ 0 → s.start.phase ≠ .bulb → s.perNow = true →
    s.pmc.tick ≠ s.ticks + 1 → (s.rd PMC_DUMP_PTR_WR + 1) % s.rd PMC_DUMP_CFG_ENTRIES = s.rd PMC_DUMP_PTR_RD →
    ∃ t, exec (.periodicSnapshot manual) s = .next t ∧ (∀ i < 32, t.rd (PMC_SNAP_VALUE i) = s.rd (PMC_CNT_VALUE i) % 2 ^ 32) ∧
      t.rd PMC_ERR_DUMP_DROP = 1 ∧ t.rd PMC_DUMP_PTR_DROP_CNT = min (s.rd PMC_DUMP_PTR_DROP_CNT + 1) 255 ∧
      t.rd PMC_DUMP_PTR_WR = s.rd PMC_DUMP_PTR_WR ∧ t.pmc.seq = (s.pmc.seq + 1) % 2 ^ 16 ∧ MemSame s t)

/-- Resets hold the module, and what outlives them. Each of POWER_ON_RESET, RESET_PIN low, BROWN_OUT, RAIL_OUT_OF_WINDOW
and TEMP_CHECK_FAIL answers a state held in reset by its source, the role MONITOR, the start not begun; RAM reads zero
and flash as before, apart from a log entry of BROWN_OUT. POWER_ON_RESET clears PRD_CAUSE and the retained start-
failure register; the other sources keep the failure register. A holder that a brown-out stops records cause 3.
RESET_PIN high changes only the pin; RAILS_QUALIFIED releases sources 0 to 3 unless the pin is low or the reset is
thermal; JUNCTION_HOT at 115 °C or above sets its flag once, and the reading shown saturates at 127 °C; JUNCTION_COOL
below 110 °C releases a thermal reset, which TEMP_CHECK_FAIL at 135 °C or above began; RESTART_AFTER_RELEASE restarts
a live module 1 ms after it released TOKEN. Where the rules leave a point open, the model's reading of it is in
notes/assumptions/31.md. -/
def Obligations.PowerAndResetsHoldTheModule : Prop :=
  (∀ s : State, ∃ t, exec .powerOnReset s = .next t ∧ t.pwr.held = some 0 ∧ t.start.role = .monitor ∧ t.start.phase = .idle ∧
    t.start.failReg = none ∧ t.rd PRD_CAUSE_CAUSE = 0 ∧ t.rd PRD_CAUSE_CHECK = 0 ∧ t.rd PRD_CAUSE_T = 0 ∧
    (∀ a, t.rdByte a = if inFlash a then s.rdByte a else 0)) ∧
  (∀ s : State, ∃ t, exec (.resetPin false) s = .next t ∧ t.pwr.held = some 1 ∧ t.pwr.src = 1 ∧ t.pwr.pinLow = true ∧
    t.start.role = .monitor ∧ t.start.phase = .idle ∧ t.start.failReg = s.start.failReg ∧
    (∀ a, t.rdByte a = if inFlash a then s.rdByte a else 0)) ∧
  (∀ s : State, exec (.resetPin true) s = .next { s with pwr := { s.pwr with pinLow := false } }) ∧
  (∀ (high inTime collapse : Bool) (s : State), ∃ t, exec (.brownOut high inTime collapse) s = .next t ∧ t.pwr.held = some 2 ∧
    t.start.role = .monitor ∧ t.start.phase = .idle ∧ t.rd MBX_PWR_ERR_BROWNOUT = 1 ∧ t.rd MBX_PWR_ERR_VIN_HIGH = b2n high ∧
    t.rd MBX_PWR_STAT_HOLD_OK = 0 ∧ (s.holds = true → t.rd PRD_CAUSE_CAUSE = 3 ∧ t.rd PRD_CAUSE_T = s.ns32 % 2 ^ 32)) ∧
  (∀ (rail : Fin 5) (s : State), ∃ t, exec (.railOutOfWindow rail) s = .next t ∧ t.pwr.held = some 3 ∧ t.pwr.thermal = (!s.live && s.pwr.thermal) ∧
    t.start.phase = .idle ∧ t.rd MBX_PWR_ERR_SUPPLY = 1 ∧ t.rd MBX_PWR_ERR_RAIL = rail.val) ∧
  (∀ (vin : BitVec 10) (s : State), ∃ t, exec (.railsQualified vin) s = .next t ∧ t.rd MBX_PWR_STAT_VIN = vin.toNat ∧
    t.rd MBX_PWR_STAT_HOLD_OK = 1 ∧ RegsBut [MBX_PWR_STAT_VIN, MBX_PWR_STAT_HOLD_OK] s t ∧ MemSame s t ∧
    t.pwr.held = (if (match s.pwr.held with | some n => decide (n ≤ 3) | none => false) && !s.pwr.thermal && !s.pwr.pinLow then none
      else s.pwr.held)) ∧
  (∀ (tj : BitVec 9) (s : State), s.pwr.hot = false → 115 ≤ tj.toInt → ∃ t, exec (.junctionHot tj) s = .next t ∧ t.pwr.hot = true ∧
    t.rd MBX_PWR_STAT_TJ = ofSigned 8 (min tj.toInt 127) ∧ t.rd MBX_PWR_ERR_JUNCT_HOT = 1 ∧
    RegsBut (MBX_PWR_STAT_TJ :: MBX_PWR_ERR_JUNCT_HOT :: logFields) s t ∧ MemSame s t) ∧
  (∀ (tj : BitVec 9) (s : State), 135 ≤ tj.toInt → ∃ t, exec (.tempCheckFail tj) s = .next t ∧ t.pwr.held = some 3 ∧ t.pwr.thermal = true ∧
    t.start.phase = .idle ∧ t.rd MBX_PWR_ERR_THERMAL = 1 ∧ t.rd MBX_PWR_STAT_TJ = 127) ∧
  (∀ (tj : BitVec 9) (s : State), s.pwr.held = some 3 → s.pwr.thermal = true → tj.toInt < 110 → ∃ t, exec (.junctionCool tj) s = .next t ∧
    t.pwr.held = none ∧ t.pwr.thermal = false ∧ t.pwr.hot = false ∧ RegsBut [MBX_PWR_STAT_TJ] s t ∧ MemSame s t) ∧
  (∀ (x : Nat) (s : State), s.pwr.restart = some x → x + 250000 ≤ s.ticks → s.live = true → ∃ t, exec .restartAfterRelease s = .next t ∧ t.pwr.held = none ∧
    t.pwr.src = 4 ∧ t.pwr.restart = none ∧ t.start.phase = .idle ∧ t.start.role = .monitor ∧
    t.rd PRD_CAUSE_CAUSE = s.rd PRD_CAUSE_CAUSE)

/-- The start sequence: a complete start, Bulb mode after three failures, the timeouts, and REFCLK. START_SEQUENCE in an
idle module not held, with no faulty word, fewer than three failed starts recorded, a selected image and set that pass
their checks, and a set of the role setting MONITOR without a register section, completes: the module runs as MONITOR
from the selected image where the reference clock is there, and waits for the clock where it is not. With a third
failed start recorded it enters Bulb mode with the role MONITOR and reports the source of the reset.
REFCLK_WAIT_TIMEOUT 1 s into step 5 fails the start: held by source 7, start not begun; REFCLK_RETURN in it completes
the start of a MONITOR, and outside it sets REFCLK_OK. START_WATCHDOG_EXPIRY in a start not finished 27 s after reset
release retains reason 6 and holds the module by source 6. LANE_TRAIN_TIMEOUT 2 s into step 7 with the setting
COORDINATOR fails the start where the Domino lane trained, and begins contention where it did not. Where the rules
leave a point open, the model's reading of it is in notes/assumptions/31.md. -/
def Obligations.StartSequenceSteps : Prop :=
  (∀ (straps : BitVec 16) (s : State) (b : Bytes), s.start.phase = .idle → s.pwr.held = none → s.start.failReg = none →
    s.start.deferred = none → s.startRec.failCnt < 3 → (s.fwCheck s.fwSelected).2.isSome = true →
    (s.checkSlot s.setSelected).2.1.code = 0 → (s.checkSlot s.setSelected).2.2 = b → field (secIn (setSecs b) 1) 0 1 = 0 →
    recsOf (secIn (setSecs b) 3) = [] → aGet 8 (setSecs b) = none → aGet 9 (setSecs b) = none →
    ∃ t, exec (.startSequence straps []) s = .next t ∧ t.start.role = .monitor ∧ t.pwr.held = none ∧
      t.start.phase = (if s.on PTU_STATUS_REFCLK_OK then .running else .waitRefclk) ∧
      t.rd MBX_START_SLOT_RUN = s.fwSelected % 2 ∧ t.cfg.active = s.setSelected ∧ t.rd MBX_START_BULB = 0 ∧
      t.rd MBX_START_RESET_SRC = s.pwr.src % 2 ^ 3) ∧
  (∀ (straps : BitVec 16) (s : State), s.start.phase = .idle → s.pwr.held = none → s.start.failReg = none →
    s.startRec.failCnt = 3 →
    ∃ t, exec (.startSequence straps []) s = .next t ∧ t.start.phase = .bulb ∧ t.start.role = .monitor ∧ t.rd MBX_START_BULB = 1 ∧
      t.rd MBX_START_RESET_SRC = s.pwr.src % 2 ^ 3) ∧
  (∀ s : State, s.live = true → s.start.phase = .waitRefclk → s.start.stepTick + 250000000 ≤ s.ticks →
    ∃ t, exec .refclkWaitTimeout s = .next t ∧ t.pwr.held = some 7 ∧ t.start.phase = .idle ∧ t.start.role = .monitor) ∧
  (∀ s : State, s.live = true → s.start.phase ≠ .running → s.start.phase ≠ .bulb → s.start.relTick + 6750000000 ≤ s.ticks →
    ∃ t, exec .startWatchdogExpiry s = .next t ∧ t.pwr.held = some 6 ∧ t.start.failReg = some 6 ∧ t.start.phase = .idle) ∧
  (∀ s : State, s.live = true → s.start.phase = .waitLanes → s.start.stepTick + 500000000 ≤ s.ticks → s.start.setting = 1 →
    s.on PRD_STATUS_DL_UP = true →
    ∃ t, exec .laneTrainTimeout s = .next t ∧ t.pwr.held = some 7 ∧ t.start.phase = .idle) ∧
  (∀ s : State, s.live = true → s.start.phase = .waitLanes → s.start.stepTick + 500000000 ≤ s.ticks → s.start.setting = 1 →
    s.on PRD_STATUS_DL_UP = false → s.rd PRD_STATUS_TOKEN_CNT = 0 → s.vetoClear = true →
    ∃ t, exec .laneTrainTimeout s = .next t ∧ t.start.phase = .contend ∧ t.start.role = .monitor) ∧
  (∀ s : State, s.live = true → s.start.phase = .waitRefclk → s.start.setting = 0 → s.on PTU_STATUS_REFCLK_OK = false →
    ∃ t, exec .refclkReturn s = .next t ∧ t.rd PTU_STATUS_REFCLK_OK = 1 ∧ t.start.phase = .running ∧ t.start.role = .monitor) ∧
  (∀ s : State, s.start.phase ≠ .waitRefclk → s.on PTU_STATUS_REFCLK_OK = false →
    ∃ t, exec .refclkReturn s = .next t ∧ t.rd PTU_STATUS_REFCLK_OK = 1 ∧ t.start.phase = s.start.phase)

/-- TOKEN: counting, asserting, confirming and withdrawing. A B-strapped module in ASSERT that sees a count above N_EXP
withdraws with COLLISION, counted; a count seen outside ASSERT and contention is only stored. A module that may take,
has seen count 0 for its time and no veto asserts and records T_ASSERT; half 2 asserts on TAKE. A STANDBY in ASSERT
whose count has equalled N_EXP for 500 ns within 5 µs holds TOKEN, records T_DRIVE and becomes the active role. A
confirmation that does not come in 5 µs ends in IDLE with TOKEN_LINE. A line fault of 1 µs in HOLD and a veto of 2 µs
are flagged and move no gate. Where the rules leave a point open, the model's reading of it is in
notes/assumptions/26.md. -/
def Obligations.TokenIsTakenByTheCount : Prop :=
  (∀ (c : Fin 5) (s : State), s.live = true → s.rd PRD_STATUS_GATE = 1 → s.nExp < c.val → s.on PRD_STATUS_POS = true →
    s.start.phase ≠ .contend →
    ∃ t, exec (.tokenCountChange c) s = .next t ∧ t.rd PRD_STATUS_TOKEN_CNT = c.val ∧ t.rd PRD_STATUS_GATE = 0 ∧
      t.prd.srcOn = false ∧ t.rd PRD_ERR_COLLISION = 1 ∧ t.rd PRD_CNT_COLL_CNT = min (s.rd PRD_CNT_COLL_CNT + 1) 65535 ∧
      t.start = s.start ∧ MemSame s t) ∧
  (∀ (c : Fin 5) (s : State), s.live = true → s.rd PRD_STATUS_GATE ≠ 1 → s.start.phase ≠ .contend →
    ∃ t, exec (.tokenCountChange c) s = .next t ∧ t.rd PRD_STATUS_TOKEN_CNT = c.val ∧ t.prd.srcOn = s.prd.srcOn ∧
      t.start = s.start ∧ RegsBut [PRD_STATUS_TOKEN_CNT] s t ∧ MemSame s t) ∧
  (∀ s : State, s.live = true → s.prdOn = true → s.rd PRD_STATUS_GATE = 0 → s.mayTake = true → s.rd PRD_STATUS_TOKEN_CNT = 0 →
    s.cntFor 0 s.tq = true → s.vetoClear = true → s.half2 = false → (s.domino = true → s.otherReady = true) →
    ∃ t, exec .tokenAssert s = .next t ∧ t.rd PRD_STATUS_GATE = 1 ∧ t.prd.srcOn = true ∧
      t.rd PRD_TAKE_T_ASSERT = s.ns32 % 2 ^ 32 ∧ (s.domino = true → t.prd.sentDL.map (·.take) = some true) ∧
      RegsBut (PRD_STATUS_GATE :: PRD_TAKE_T_ASSERT :: logFields) s t ∧ MemSame s t) ∧
  (∀ s : State, s.live = true → s.prdOn = true → s.rd PRD_STATUS_GATE = 0 → s.half2 = true →
    (s.start.phase = .contend ∨ s.isStandby = true) →
    ∃ t, exec .dominoTake s = .next t ∧ t.rd PRD_STATUS_GATE = 1 ∧ t.prd.srcOn = true ∧
      t.rd PRD_TAKE_T_ASSERT = s.ns32 % 2 ^ 32 ∧ RegsBut (PRD_STATUS_GATE :: PRD_TAKE_T_ASSERT :: logFields) s t ∧ MemSame s t) ∧
  (∀ (d : Fin 1001) (s : State), s.live = true → s.rd PRD_STATUS_GATE = 1 → s.rd PRD_STATUS_TOKEN_CNT = s.nExp →
    s.cntFor (s.prd.asrtTick + 50) 125 = true → s.ticks ≤ s.prd.asrtTick + 1250 → s.isStandby = true →
    ∃ t, exec (.tokenConfirm d) s = .next t ∧ t.holds = true ∧ t.rd PRD_TAKE_T_DRIVE = (s.ns32 + d.val) % 2 ^ 32 ∧
      t.start.role = (if s.domino then .dominoHalf else .coordinator) ∧ t.start.phase = .running ∧ t.prd.outDrive = true) ∧
  (∀ s : State, s.live = true → s.rd PRD_STATUS_GATE = 1 → s.start.phase ≠ .contend → s.prd.asrtTick + 1250 ≤ s.ticks →
    ∃ t, exec .tokenConfirmTimeout s = .next t ∧ t.rd PRD_STATUS_GATE = 0 ∧ t.prd.srcOn = false ∧ t.rd PRD_ERR_TOKEN_LINE = 1 ∧
      t.start = s.start ∧ RegsBut (PRD_STATUS_GATE :: PRD_ERR_TOKEN_LINE :: logFields) s t ∧ MemSame s t) ∧
  (∀ s : State, s.live = true → s.holds = true → s.rd PRD_STATUS_TOKEN_CNT ≠ s.nExp → s.prd.wrongTick + 250 ≤ s.ticks →
    exec .tokenLineFault s = .next (s.wr PRD_ERR_TOKEN_LINE 1)) ∧
  (∀ (b : StatusBlock) (s : State), s.live = true → s.isStandby = true → s.rd PRD_STATUS_TOKEN_CNT = 0 → s.prd.partML = some b →
    b.hold = true → s.cntFor s.prd.holdTick 500 = true →
    exec .vetoDetect s = .next ((s.wr PRD_ERR_VETO 1).wr PRD_ERR_TOKEN_LINE 1))

/-- A release of TOKEN, and the watchdog and heartbeats that lead to one or do not. RELEASE in HOLD, and an expiry of the
enabled watchdog at 0.9 × WIN or later, put the gate in RELEASED with the source off, the outputs no longer driven,
and PRD_CAUSE with the cause and the instant; the role stands until the restart, which is due. PRD_WDT is written only
while the watchdog is off and WIN in range, else refused. A kick counts its source and restarts the set once complete.
A heartbeat tick advances the count; a partner heartbeat lost for HB_TO is flagged and counted and moves no gate.
Where the rules leave a point open, the model's reading of it is in notes/assumptions/26.md. -/
def Obligations.ReleaseOfTokenStopsTheUnit : Prop :=
  (∀ s : State, s.live = true → s.holds = true → s.start.role ≠ .monitor →
    ∃ t, exec .prdRelease s = .next t ∧ t.rd PRD_STATUS_GATE = 3 ∧ t.prd.srcOn = false ∧ t.prd.outDrive = false ∧
      t.rd PRD_CAUSE_CAUSE = 5 ∧ t.rd PRD_CAUSE_CHECK = 0 ∧ t.rd PRD_CAUSE_T = s.ns32 % 2 ^ 32 ∧ t.rd ZFB_STATUS_DRIVE = 0 ∧
      (∀ n < 4, t.on (CAN_STATUS_MONITOR n) = true) ∧ t.pwr.restart = some s.ticks ∧ t.start = s.start ∧ MemSame s t) ∧
  (∀ s : State, s.live = true → s.rd PRD_WDT_EN ≠ 0 → s.prd.wdtTick + 225 * s.rd PRD_WDT_WIN ≤ s.ticks → s.holds = true →
    ∃ t, exec .watchdogExpiry s = .next t ∧ t.rd PRD_STATUS_GATE = 3 ∧ t.prd.srcOn = false ∧ t.prd.outDrive = false ∧
      t.rd PRD_CAUSE_CAUSE = 2 ∧ t.rd PRD_CAUSE_T = s.ns32 % 2 ^ 32 ∧ t.rd PRD_STATUS_ALIVE = 0 ∧ t.pwr.restart = some s.ticks ∧
      t.start = s.start ∧ MemSame s t) ∧
  (∀ (v : BitVec 32) (s : State), s.live = true → s.rd PRD_WDT_EN = 0 → 8 ≤ bits v.toNat 4 12 →
    ∃ t, exec (.prdWdtWrite v) s = .next t ∧ t.rd PRD_WDT_EN = bits v.toNat 0 1 ∧ t.rd PRD_WDT_WIN = bits v.toNat 4 12 ∧
      t.rd PRD_WDT_SRC = bits v.toNat 16 9 ∧ RegsBut [PRD_WDT_EN, PRD_WDT_WIN, PRD_WDT_SRC] s t ∧ MemSame s t) ∧
  (∀ (v : BitVec 32) (s : State), s.live = true → s.rd PRD_WDT_EN ≠ 0 → bits v.toNat 0 1 ≠ s.rd PRD_WDT_EN →
    exec (.prdWdtWrite v) s = .next (s.wr PRD_ERR_CFG_REJ 1)) ∧
  (∀ (k : Fin 9) (s : State), s.live = true → s.prd.lastKick.length = 9 →
    ∃ t, exec (.watchdogKick k) s = .next t ∧ t.prd.lastKick[k.val]? = some s.ticks ∧
      t.prd.kicked = (if (s.prd.kicked ||| 2 ^ k.val) &&& s.rd PRD_WDT_SRC = s.rd PRD_WDT_SRC then 0
        else s.prd.kicked ||| 2 ^ k.val) ∧ t.regs = s.regs ∧ MemSame s t) ∧
  (∀ s : State, s.live = true →
    exec .heartbeatTick s = .next { s with prd := { s.prd with hb := (s.prd.hb + 1) % 2 ^ 16 } }) ∧
  (∀ s : State, s.live = true → s.rd PRD_STATUS_PART_HB_OK ≠ 0 → s.prd.hbTick + 25000 * s.rd PRD_HB_HB_TO ≤ s.ticks →
    ∃ t, exec .heartbeatLoss s = .next t ∧ t.rd PRD_STATUS_PART_HB_OK = 0 ∧ t.rd PRD_ERR_HB_LOST = 1 ∧
      t.rd PRD_CNT_HB_LOSS_CNT = min (s.rd PRD_CNT_HB_LOSS_CNT + 1) 65535 ∧ t.rd PRD_STATUS_GATE = s.rd PRD_STATUS_GATE ∧
      t.start = s.start ∧ MemSame s t)

/-- The pair lanes: status blocks, training and going down. STATUS_BLOCK_SEND on each lane sends the block as the unit
stands. A received block is kept and shown in PART_HOLD and PART_ALIVE. A mirror lane that trains between opposite
positions is SYNCING; equal positions set POS_SAME and leave it untrained; a Domino lane that trains sets DL_UP. A
mirror lane that goes down is DOWN with its flag, forgets the partner's block and moves no gate; a Domino lane that
goes down clears DL_UP with its flag. Where the rules leave a point open, the model's reading of it is in
notes/assumptions/26.md. -/
def Obligations.PairLanesTrainAndCarryStatus : Prop :=
  (∀ s : State, s.live = true → s.prdOn = true →
    exec (.statusBlockSend .ml) s = .next { s with prd := { s.prd with sentML := some (s.block .ml false) } } ∧
    exec (.statusBlockSend .dl) s = .next { s with prd := { s.prd with sentDL := some (s.block .dl false) } }) ∧
  (∀ (b : StatusBlock) (s : State), s.live = true → s.prdOn = true → s.start.phase ≠ .contend →
    ∃ t, exec (.statusBlockReceive .ml b) s = .next t ∧ t.prd.partML = some b ∧ t.rd PRD_STATUS_PART_HOLD = b2n b.hold ∧
      t.rd PRD_STATUS_PART_ALIVE = b2n b.alive ∧ t.rd PRD_STATUS_GATE = s.rd PRD_STATUS_GATE ∧ t.start = s.start ∧ MemSame s t) ∧
  (∀ (b : StatusBlock) (s : State), s.live = true → s.prdOn = true → s.start.phase ≠ .contend → s.holds = false → b.take = false →
    ∃ t, exec (.statusBlockReceive .dl b) s = .next t ∧ t.prd.partDL = some b ∧ t.start = s.start ∧
      RegsBut [PRD_STATUS_TAKE_READY] s t ∧ MemSame s t) ∧
  (∀ (b : StatusBlock) (s : State), s.live = true → s.prdOn = true → s.prd.partML = some b → s.prd.mlUp = false →
    b.pos ≠ s.on PRD_STATUS_POS → s.start.phase ≠ .waitLanes →
    ∃ t, exec (.laneTrained .ml) s = .next t ∧ t.prd.mlUp = true ∧ t.rd PRD_STATUS_ML_STATE = 2 ∧ t.start = s.start ∧ MemSame s t) ∧
  (∀ (b : StatusBlock) (s : State), s.live = true → s.prdOn = true → s.prd.partML = some b → s.prd.mlUp = false →
    b.pos = s.on PRD_STATUS_POS → exec (.laneTrained .ml) s = .next (s.wr PRD_ERR_POS_SAME 1)) ∧
  (∀ (b : StatusBlock) (s : State), s.live = true → s.prdOn = true → s.prd.partDL = some b → s.on PRD_STATUS_DL_UP = false →
    s.start.phase ≠ .waitLanes →
    ∃ t, exec (.laneTrained .dl) s = .next t ∧ t.rd PRD_STATUS_DL_UP = 1 ∧ t.start = s.start ∧
      RegsBut (PRD_STATUS_DL_UP :: PRD_STATUS_TAKE_READY :: logFields) s t ∧ MemSame s t) ∧
  (∀ s : State, s.live = true → s.prd.mlUp = true →
    ∃ t, exec (.laneDown .ml) s = .next t ∧ t.prd.mlUp = false ∧ t.prd.partML = none ∧ t.rd PRD_STATUS_ML_STATE = 0 ∧
      t.rd PRD_ERR_ML_DOWN = 1 ∧ t.start = s.start) ∧
  (∀ s : State, s.live = true → s.on PRD_STATUS_DL_UP = true → s.domino = false →
    ∃ t, exec (.laneDown .dl) s = .next t ∧ t.rd PRD_STATUS_DL_UP = 0 ∧ t.rd PRD_ERR_DL_DOWN = 1 ∧ t.prd.partDL = none ∧
      t.start = s.start ∧ RegsBut (PRD_STATUS_DL_UP :: PRD_ERR_DL_DOWN :: PRD_STATUS_TAKE_READY :: logFields) s t ∧ MemSame s t)

def mirFrameOk (kind : Nat) (f : MirFrame) : Prop := f.hdr.kind = kind ∧ f.hdr.blocks = f.words.length ∧ f.words.length ≤ 16

/-- The mirror lane: deltas are applied whole, passes and LOADs are answered. PRD_COMMIT by a holder with kicks in time
closes the delta: CI_TX, a COMMIT frame with the count of words, the next DSEQ. At a unit that does not hold, DELTA,
CMDPAGE and BULK frames add their good words to the journal or the page and count every word; a COMMIT whose count
agrees and whose words were good writes them into memory and shows CI_RX, and enters the engines' image that it
carries, and one whose count differs applies nothing and sets DELTA_DISC. BULK_SEND sends the next word of the pass; a
LOAD complete in one frame is answered with LOAD_CONFIRM, which ends a wait for it; IDENT is kept; SYNC_REQ starts a
pass at the holder, and PRD_SYNC_REQ enters SYNCING at a STANDBY; the transmitters send the oldest frame; the Domino
lane keeps IDENT, and half 2 makes its checked shadow pending by the order of half 1. Where the rules leave a point
open, the model's reading of it is in notes/assumptions/26.md. -/
def Obligations.MirrorCarriesWholeDeltas : Prop :=
  (∀ (ci : BitVec 32) (s : State), s.live = true → s.holds = true → s.kickLate = false → s.mir.ovf = false → s.prd.mlUp = true →
    ∃ t, exec (.prdCommit ci) s = .next t ∧ t.rd PRD_MIR_STAT_CI_TX = ci.toNat ∧
      t.mir.queue = s.mir.queue ++ [s.mirFrame 1 0 0 ci.toNat s.mir.count []] ∧ t.mir.count = 0 ∧
      t.mir.dseq = (s.mir.dseq + 1) % 2 ^ 16 ∧ RegsBut [PRD_MIR_STAT_CI_TX] s t ∧ MemSame s t) ∧
  (∀ (f : MirFrame) (s : State), s.live = true → s.prd.mlUp = true → s.holds = false →
    (mirFrameOk 0 f → ∃ t, exec (.deltaFrame f) s = .next t ∧ t.mir.journal = s.mir.journal ++ (mirWords f).1 ∧
      t.mir.recvd = s.mir.recvd + f.words.length ∧ t.mir.bad = (s.mir.bad || !(mirWords f).2) ∧ t.regs = s.regs ∧ MemSame s t) ∧
    (mirFrameOk 2 f → ∃ t, exec (.cmdpageFrame f) s = .next t ∧ t.mir.page = s.mir.page ++ (mirWords f).1 ∧
      t.mir.journal = s.mir.journal ∧ t.mir.recvd = s.mir.recvd + f.words.length ∧ t.regs = s.regs ∧ MemSame s t) ∧
    (mirFrameOk 5 f → ∃ t, exec (.bulkFrame f) s = .next t ∧ t.mir.journal = s.mir.journal ++ (mirWords f).1 ∧
      t.mir.recvd = s.mir.recvd + f.words.length ∧ t.regs = s.regs ∧ MemSame s t)) ∧
  (∀ (f : MirFrame) (c : CapWord) (s : State), s.live = true → s.prd.mlUp = true → s.holds = false → mirFrameOk 1 f →
    s.rd PRD_STATUS_ML_STATE ≠ 3 → f.hdr.count = s.mir.recvd → s.mir.bad = false → s.mir.page = [] → s.mir.journal = [c] →
    s.mir.loadDone = [] → inRamWord (s.rd (PRD_MR_BASE c.region) + c.offset) = true →
    ∃ t, exec (.commitFrame f none) s = .next t ∧ t.rd PRD_MIR_STAT_CI_RX = f.hdr.ci % 2 ^ 32 ∧ t.mir.journal = [] ∧
      t.mir.recvd = 0 ∧ t.mir.lastDseq = some f.hdr.dseq ∧
      (∀ i < 32, t.rdByte (32 * (s.rd (PRD_MR_BASE c.region) + c.offset) + i) = c.data.getD i 0) ∧
      MemBut (32 * (s.rd (PRD_MR_BASE c.region) + c.offset)) 32 s t) ∧
  (∀ (f : MirFrame) (o : Option MirImage) (s : State), s.live = true → s.prd.mlUp = true → s.holds = false →
    mirFrameOk 1 f → f.hdr.count ≠ s.mir.recvd →
    ∃ t, exec (.commitFrame f o) s = .next t ∧ t.rd PRD_ERR_DELTA_DISC = 1 ∧ t.mir.journal = [] ∧ t.mir.page = [] ∧
      t.mir.recvd = 0 ∧ t.rd PRD_MIR_STAT_CI_RX = s.rd PRD_MIR_STAT_CI_RX ∧ MemSame s t) ∧
  (∀ (f : MirFrame) (m : MirImage) (s : State), s.live = true → s.prd.mlUp = true → s.holds = false → mirFrameOk 1 f →
    s.rd PRD_STATUS_ML_STATE ≠ 3 → f.hdr.count = s.mir.recvd → s.mir.bad = false → m.flip = none → m.recs = [] →
    ∃ t, exec (.commitFrame f (some m)) s = .next t ∧ t.fus = m.fus ∧ t.lpe = m.lpe ∧ t.slv.slots = m.slots ∧
      t.crt.tasks = m.tasks ∧ t.zfb.map = m.map ∧ t.zfb.links = m.links ∧ t.fio.rtOut = m.rtOut ∧ t.hlm.qp = none) ∧
  (∀ (n o : Nat) (d : Bytes) (s : State), s.live = true → s.holds = true → s.prd.mlUp = true → s.mir.bulk = some (n, o) →
    queueWords s.mir.queue < mirBulkWords → s.rd PMC_CTRL_RUN = 0 → pipDecode (s.rdRaw (s.rd (PRD_MR_BASE n) + o)) = .clean d →
    s.rd (PRD_MR_KIND n) = 1 → s.rdRaw (s.rd (PRD_MR_BASE n) + o) ≠ erasedWord →
    ∃ t, exec .bulkSend s = .next t ∧
      t.mir.queue = s.mir.queue ++ [s.mirFrame 5 n o 0 0 [s.rdRaw (s.rd (PRD_MR_BASE n) + o)]] ∧ t.mir.bulk = s.passNext n o ∧
      MemSame s t) ∧
  (∀ (f : MirFrame) (w : WireWord) (ws : List WireWord) (d : Bytes) (s : State), s.live = true → s.prd.mlUp = true →
    s.holds = false → mirFrameOk 6 f → f.hdr.offset = 0 → f.words = w :: ws → pipData w = some d → d ≠ [] →
    (mirWords f).2 = true → ws.length = slvBodyWords d →
    ∃ t, exec (.loadFrame f) s = .next t ∧ f.hdr.region ∈ t.mir.loadDone ∧
      t.mir.queue = s.mir.queue ++ [s.mirFrame 7 f.hdr.region 0 0 0 []] ∧ t.regs = s.regs ∧ MemSame s t) ∧
  (∀ (f : MirFrame) (s : State), s.live = true → s.prd.mlUp = true → mirFrameOk 7 f → s.slv.loads = [] →
    exec (.loadConfirmFrame f) s =
      .next { s with mir := { s.mir with loadWait := s.mir.loadWait.filter (· ≠ f.hdr.region) } }) ∧
  (∀ (f : MirFrame) (w : WireWord) (d : Bytes) (s : State), s.live = true → s.prd.mlUp = true → mirFrameOk 8 f → f.words = [w] →
    pipData w = some d → ∃ t, exec (.identFrame .ml f) s = .next t ∧ t.mir.ident = some (field d 0 4, field d 4 4) ∧ MemSame s t) ∧
  (∀ (f : MirFrame) (s : State), s.live = true → s.prd.mlUp = true → s.holds = true → mirFrameOk 9 f →
    exec (.syncReqFrame f) s = .next { s with mir := { s.mir with
      bulk := s.passFirst, flip := (match s.cfg.shadow with | .pending o => some (some o) | _ => s.mir.flip) } }) ∧
  (∀ s : State, s.live = true → s.isStandby = true → s.prd.mlUp = true →
    ∃ t, exec .prdSyncReq s = .next t ∧ t.rd PRD_STATUS_ML_STATE = 2 ∧ t.mir.pass = s.passFirst ∧
      RegsBut (PRD_STATUS_ML_STATE :: PRD_STATUS_TAKE_READY :: logFields) s t ∧ MemSame s t) ∧
  (∀ (f : MirFrame) (q : List MirFrame) (s : State), s.live = true → s.prd.mlUp = true → s.mir.queue = f :: q →
    exec (.mirrorLaneTransmit .ml) s = .next { s with mir := { s.mir with queue := q, sent := some f } }) ∧
  (∀ (m : DominoMsg) (q : List DominoMsg) (s : State), s.live = true → s.on PRD_STATUS_DL_UP = true → s.mir.dlOut = m :: q →
    exec (.mirrorLaneTransmit .dl) s = .next { s with mir := { s.mir with dlOut := q, dlSent := some m } }) ∧
  (∀ (a b : Nat) (s : State), s.live = true → s.domino = true → s.on PRD_STATUS_DL_UP = true →
    exec (.dominoLaneFrame (.ident a b)) s = .next { s with mir := { s.mir with identDL := some (a, b) } }) ∧
  (∀ (x : FlipOrder) (s : State), s.live = true → s.domino = true → s.on PRD_STATUS_DL_UP = true → s.half2 = true → s.holds = false →
    s.cfg.shadow = .checked → x.crc = s.shadowCrc →
    exec (.dominoLaneFrame (.flip (some x))) s = .next { s with cfg := { s.cfg with shadow := .pending x } })

/-- Plant time: wraps, exchanges, offsets, steps, holdover and queues. NS32_WRAP zeroes NS32 and advances the epoch. A
loss of REFCLK while it clocks the unit ends in FREE with its flag; a holder with check 3 enabled also releases TOKEN.
An exchange on the pair lane is stamped, sent, answered, and its answer shows the parent, the depth and the offset of
R224; a missing one clears PARENT_OK. With the servo off a first offset of at most 1 s is recorded and changes nothing
else; PTU_OFFSET_IN is refused from another source. An edge of PPS_IN is stamped and counted. HOLDOVER_ENTRY after
HOLD_T without an offset, STEP_NOTICE at a node that follows, and STEP_APPLY at or after T_B change the state and the
counter as R227 and R229 say; SECOND_BOUNDARY drives PPS_OUT and counts a second of holdover; REBASE clears BASE in
FREE and HOLDOVER only; TSQ_POP drops the head of each named queue. Where the rules leave a point open, the model's
reading of it is in notes/assumptions/10.md. -/
def Obligations.PlantTimeFollowsItsSources : Prop :=
  (∀ s : State, ∃ t, exec .ns32Wrap s = .next t ∧ t.rd PTU_TIME_NS32 = 0 ∧
    t.rd PTU_TIME_EPOCH = (s.rd PTU_TIME_EPOCH + 1) % 2 ^ 32 ∧
    RegsBut [PTU_TIME_NS32, PTU_TIME_EPOCH, SCH_STATUS_RESP_ACT, SCH_STATUS_RESP_PEND, SCH_RESP_EFF_SWEEP] s t ∧ MemSame s t) ∧
  (∀ s : State, s.live = true → s.ptu.intOsc = false →
    ∃ t, exec .refclkLoss s = .next t ∧ t.rd PTU_STATUS_REFCLK_OK = 0 ∧ t.rd PTU_STATUS_STATE = 0 ∧ t.rd PTU_ERR_REFCLK_LOSS = 1 ∧
      t.ptu.intOsc = true ∧ t.start = s.start ∧ MemSame s t ∧
      (s.holds = true → (s.rd PRD_DIAG_EN_CHECK).testBit 3 = true →
        t.rd PRD_STATUS_GATE = 3 ∧ t.rd PRD_CAUSE_CAUSE = 1 ∧ t.rd PRD_CAUSE_CHECK = 3)) ∧
  (∀ (t1 : BitVec 34) (s : State), s.live = true → s.rd PTU_CTRL_SRC = 3 → s.half2 = false →
    ∃ t, exec (.syncExchangeStart t1) s = .next t ∧ t.ptu.t1 = some (4, t1.toNat) ∧
      t.mir.queue = s.mir.queue ++ [s.mirFrame 3 0 0 0 0 []] ∧ t.regs = s.regs ∧ MemSame s t) ∧
  (∀ (t1 : BitVec 34) (s : State), s.live = true → s.rd PTU_CTRL_SRC = 3 → s.half2 = true →
    ∃ t, exec (.syncExchangeStart t1) s = .next t ∧ t.ptu.t1 = some (5, t1.toNat) ∧ t.mir.dlOut = s.mir.dlOut ++ [.time []] ∧
      t.regs = s.regs ∧ MemSame s t) ∧
  (∀ (t2 t3 : BitVec 34) (s : State), s.live = true →
    ∃ t, exec (.delayReq 4 t2 t3) s = .next t ∧
      t.mir.queue = s.mir.queue ++ [s.mirFrame 3 0 0 0 0
        [payWord (respWord t2.toNat t3.toNat (s.rd PTU_TIME_EPOCH) (s.rd PTU_STATUS_STATE) (!s.ptu.intOsc))]] ∧
      t.regs = s.regs ∧ MemSame s t) ∧
  (∀ (port : Fin 5) (t1 : Nat) (t2 t3 t4 : BitVec 34) (epoch : BitVec 32) (pstate : Fin 5) (depth : Nat) (s : State),
    s.live = true → s.ptu.t1 = some (port.val, t1) → pstate ≠ 0 → s.ptu.delays = [] → s.ptu.needEpoch = false →
    s.rd PTU_CTRL_SERVO_EN = 0 → s.ptu.lastOff = none →
    absQ ((diffQ t1 t2.toNat - diffQ t3.toNat t4.toNat : Int) / 8 - (s.rdS (PTU_PORT_ASYM port) : Rat) / 10) ≤ 10 ^ 9 →
    ∃ t, exec (.delayResp port.castSucc t2 t3 t4 epoch pstate true depth) s = .next t ∧ t.ptu.t1 = none ∧ t.rd PTU_STATUS_PARENT_OK = 1 ∧
      t.rd PTU_STATUS_DEPTH = min (depth + 1) 255 ∧ t.rd PTU_LAST_OFF_T = t4.toNat / 4 % 2 ^ 32 ∧
      t.rd PTU_LAST_OFF_OFFSET = ofSigned 32 (satSigned 32 (roundQ
        (((diffQ t1 t2.toNat - diffQ t3.toNat t4.toNat : Int) / 8 - (s.rdS (PTU_PORT_ASYM port) : Rat) / 10) * 16))) ∧
      RegsBut [PTU_STATUS_PARENT_OK, PTU_STATUS_DEPTH, PTU_PORT_DELAY port, PTU_LAST_OFF_OFFSET, PTU_LAST_OFF_T] s t ∧ MemSame s t) ∧
  (∀ s : State, s.live = true →
    exec .exchangeMissing s = .next (({ s with ptu := { s.ptu with t1 := none } }).wr PTU_STATUS_PARENT_OK 0)) ∧
  (∀ (off i : BitVec 32) (s : State), s.live = true → s.rd PTU_CTRL_SRC = 4 → s.rd PTU_CTRL_SERVO_EN = 0 →
    s.ptu.lastOff = none →
    ∃ t, exec (.ptuOffsetIn off i) s = .next t ∧ t.rd PTU_LAST_OFF_OFFSET = off.toNat ∧ t.rd PTU_LAST_OFF_T = i.toNat ∧
      RegsBut [PTU_LAST_OFF_OFFSET, PTU_LAST_OFF_T] s t ∧ MemSame s t) ∧
  (∀ (off i : BitVec 32) (s : State), s.live = true → s.rd PTU_CTRL_SRC ≠ 4 →
    exec (.ptuOffsetIn off i) s = .next (s.wr PTU_ERR_CFG_REJ 1)) ∧
  (∀ (falling : Bool) (i : BitVec 32) (s : State), s.live = true → s.rd PTU_PPS_CFG_PPS_IN_EN ≠ 0 →
    s.on PTU_PPS_CFG_PPS_IN_FALL = falling → s.rd PTU_CTRL_SRC ≠ 5 →
    exec (.ppsInEdge falling i) s = .next ((s.wr PTU_PPS_IN_T i.toNat).wr PTU_PPS_IN_CNT (s.rd PTU_PPS_IN_CNT + 1))) ∧
  (∀ s : State, s.rd PTU_STATUS_STATE = 1 ∨ s.rd PTU_STATUS_STATE = 3 → s.ptu.offTick + 2500000 * s.rd PTU_SYNC_CFG_HOLD_T ≤ s.ticks →
    ∃ t, exec .holdoverEntry s = .next t ∧ t.rd PTU_STATUS_STATE = 2 ∧ t.rd PTU_HOLD_DUR = 0 ∧ t.rd PTU_ERR_HOLDOVER_ENT = 1 ∧
      RegsBut (PTU_STATUS_STATE :: PTU_HOLD_DUR :: PTU_INCR_INCR :: PTU_ERR_HOLDOVER_ENT :: logFields) s t ∧ MemSame s t) ∧
  (∀ (delta : BitVec 32) (tb : BitVec 64) (s : State), s.live = true → s.rd PTU_STATUS_STATE ≠ 0 → s.rd PTU_STATUS_STATE ≠ 4 →
    s.rd PTU_CTRL_SRC = 2 ∨ s.rd PTU_CTRL_SRC = 3 →
    ∃ t, exec (.stepNotice delta tb) s = .next t ∧ t.rd PTU_STATUS_STATE = 4 ∧
      t.ptu.step = some { delta := delta.toInt, tb := tb.toNat } ∧ RegsBut [PTU_STATUS_STATE] s t ∧ MemSame s t) ∧
  (∀ (p : PtuStep) (s : State), s.rd PTU_STATUS_STATE = 4 → s.ptu.step = some p → p.tb ≤ s.now →
    ∃ t, exec .stepApply s = .next t ∧ t.rd PTU_STATUS_STATE = 1 ∧ t.rd PTU_ERR_STEP = 1 ∧ t.ptu.step = none ∧
      t.rd PTU_STEP_T = p.tb % 2 ^ 32 ∧ (t.rd PTU_TIME_NS32 : Int) = (s.now + p.delta) % 2 ^ 32 ∧
      (t.rd PTU_TIME_EPOCH : Int) = (s.now + p.delta) / 2 ^ 32 % 2 ^ 32) ∧
  (∀ s : State, s.stepDue = false →
    ∃ t, exec .secondBoundary s = .next t ∧ t.ptu.ppsOut = (if s.on PTU_CTRL_PPS_EN then some s.ticks else none) ∧
      t.rd PTU_HOLD_DUR = (if s.rd PTU_STATUS_STATE = 2 then min (s.rd PTU_HOLD_DUR + 1) (2 ^ 32 - 1) else s.rd PTU_HOLD_DUR) ∧
      RegsBut [PTU_HOLD_DUR] s t ∧ MemSame s t) ∧
  (∀ s : State, s.live = true → (s.rd PTU_STATUS_STATE = 0 ∨ s.rd PTU_STATUS_STATE = 2) →
    exec .rebase s = .next ((s.wr PTU_STATUS_BASE_SET 0).wr PTU_GPS_BASE_BASE 0)) ∧
  (∀ s : State, s.live = true → s.rd PTU_STATUS_STATE ≠ 0 → s.rd PTU_STATUS_STATE ≠ 2 →
    exec .rebase s = .next (s.wr PTU_ERR_CFG_REJ 1)) ∧
  (∀ (mask : BitVec 6) (s : State), s.live = true → s.ptu.tsq.length = 6 →
    ∃ t, exec (.tsqPop mask) s = .next t ∧ (∀ p < 6, t.ptu.tsq.getD p [] =
      if mask.toNat.testBit p then (s.ptu.tsq.getD p []).drop 1 else s.ptu.tsq.getD p []) ∧ MemSame s t)

/-- Channel n is in state st, and nothing but its STATE, its own record and the fault log has changed. -/
def ChannelTo (s t : State) (n st : Nat) : Prop :=
  t.gst n = st ∧ RegsBut (GNB_CH_STAT_STATE n :: logFields) s t ∧ (∀ k, k ≠ n → t.gchan k = s.gchan k) ∧
    t = { s.like t with gnb := t.gnb }

/-- The STATE fields of the 24 channels. -/
def channelStates : List Fld := (List.range 24).map GNB_CH_STAT_STATE

/-- GNSS: the states of a channel and what moves it. RUN = 0 puts every channel in IDLE; RUN = 1 starts each channel that
is enabled with a PRN of 1 to 32. EN of a channel does the same for it alone. A loss of the sample clock or an input
overflow sets its flag and sends every channel that is not IDLE to SEARCH. A search that two dwells confirm within the
window enters PULL_IN with its Doppler and code, one that fails is counted and the search engine goes on, and another
channel's changes nothing; frame sync needs the preamble of R117 in one polarity. While the baseband runs, each event
moves the channel whose state it names to the state R115 gives, with no other register than STATE and the fault log's
changed; the same event in another state changes nothing. A cycle slip in TRACK, BIT_SYNC or FRAME_SYNC is flagged and
counted. The other channels stand. Where the rules leave a point open, the model's reading of it is in
notes/assumptions/19.md. -/
def Obligations.GnssChannelsFollowTheirStates : Prop :=
  (∀ s : State, s.live = true →
    ∃ t, exec (.gnbRun false) s = .next t ∧ t.rd GNB_CTRL_RUN = 0 ∧ (∀ n < 24, t.gst n = 0) ∧
      RegsBut (GNB_CTRL_RUN :: channelStates ++ logFields) s t ∧ t = { s.like t with gnb := t.gnb }) ∧
  (∀ s : State, s.live = true → s.engineRole = true → s.half2 = false → s.gCadenceBad = false →
    ∃ t, exec (.gnbRun true) s = .next t ∧ t.rd GNB_CTRL_RUN = 1 ∧
      (∀ n < 24, t.gst n = if s.on (GNB_CH_CFG_EN n) && 1 ≤ s.rd (GNB_CH_CFG_PRN n) && s.rd (GNB_CH_CFG_PRN n) ≤ 32 && s.gst n = 0
        then 1 else s.gst n) ∧
      RegsBut (GNB_CTRL_RUN :: channelStates ++ logFields) s t ∧ t = { s.like t with gnb := t.gnb }) ∧
  (∀ (n : Fin 24) (s : State), s.live = true → s.gnbOn = true → 1 ≤ s.rd (GNB_CH_CFG_PRN n) → s.rd (GNB_CH_CFG_PRN n) ≤ 32 →
    s.gst n = 0 →
    ∃ t, exec (.gnbChannelEnable n true) s = .next t ∧ t.rd (GNB_CH_CFG_EN n) = 1 ∧ ChannelTo (s.wr (GNB_CH_CFG_EN n) 1) t n 1) ∧
  (∀ (n : Fin 24) (s : State), s.live = true →
    ∃ t, exec (.gnbChannelEnable n false) s = .next t ∧ t.rd (GNB_CH_CFG_EN n) = 0 ∧ ChannelTo (s.wr (GNB_CH_CFG_EN n) 0) t n 0) ∧
  (∀ s : State, s.live = true → s.gnbOn = true →
    (∃ t, exec .gnssClkLoss s = .next t ∧ t.rd GNB_ERR_CLK_LOSS = 1 ∧ t.rd GNB_STATUS_CLK_OK = 0 ∧ t.rd GNB_STATUS_TSOL_VALID = 0 ∧
      (∀ n < 24, t.gst n = if s.gst n = 0 then 0 else 1) ∧
      RegsBut ([GNB_ERR_CLK_LOSS, GNB_STATUS_CLK_OK, GNB_STATUS_TSOL_VALID] ++ channelStates ++ logFields) s t ∧
      t = { s.like t with gnb := t.gnb }) ∧
    (∃ t, exec .inputOverflow s = .next t ∧ t.rd GNB_ERR_IN_OVF = 1 ∧ (∀ n < 24, t.gst n = if s.gst n = 0 then 0 else 1) ∧
      RegsBut (GNB_ERR_IN_OVF :: channelStates ++ logFields) s t ∧ t = { s.like t with gnb := t.gnb }) ∧
    exec .gnssClkReturn s = .next (s.wr GNB_STATUS_CLK_OK 1)) ∧
  (∀ (n : Fin 24) (dwells : Fin 4) (bin : Int) (cell : Fin 2046) (s : State), s.live = true → s.gnbOn = true →
    (s.gnb.srch = some n.val → s.gst n = 1 → 2 ≤ dwells.val → -(s.rd GNB_ACQ_CFG_DOPP_WIN : Int) ≤ bin → bin ≤ s.rd GNB_ACQ_CFG_DOPP_WIN →
      ∃ t, exec (.searchComplete n dwells bin cell) s = .next t ∧ ChannelTo s t n 2 ∧ (t.gchan n).hint = (s.gchan n).hint ∧
        (t.gchan n).dopp = 2 * (s.gchan n).hint + 500 * bin ∧ (t.gchan n).code = (cell.val : Rat) / 2) ∧
    (s.gnb.srch = some n.val → dwells.val < 2 →
      exec (.searchComplete n dwells bin cell) s = .next ((s.wr (GNB_CH_STAT_ACQ_CNT n) (min (s.rd (GNB_CH_STAT_ACQ_CNT n) + 1) 255)).modGnb
        fun g => { g with srch := (s.wr (GNB_CH_STAT_ACQ_CNT n) (min (s.rd (GNB_CH_STAT_ACQ_CNT n) + 1) 255)).gWaiting (n.val + 1) })) ∧
    (s.gnb.srch ≠ some n.val → exec (.searchComplete n dwells bin cell) s = .next s)) ∧
  (∀ (n : Fin 24) (back : Fin 300) (s : State), s.live = true → s.gnbOn = true →
    (s.gst n = 2 → (∃ t, exec (.pullInLock n) s = .next t ∧ ChannelTo s t n 3) ∧
      ∃ t, exec (.pullInTimeout n) s = .next t ∧ ChannelTo s t n 1 ∧ (t.gchan n).hint = (s.gchan n).hint) ∧
    (s.gst n = 3 → ∃ t, exec (.bitSync n) s = .next t ∧ ChannelTo s t n 4) ∧
    (s.gst n = 4 → (frameFound (s.gchan n).bits (s.gchan n).nbits back = true ∨
        frameFound ((s.gchan n).bits ^^^ (2 ^ 640 - 1)) (s.gchan n).nbits back = true) →
      ∃ t, exec (.frameSync n back) s = .next t ∧ ChannelTo s t n 5 ∧ (t.gchan n).half = false ∧
        (t.gchan n).inv = !frameFound (s.gchan n).bits (s.gchan n).nbits back) ∧
    (frameFound (s.gchan n).bits (s.gchan n).nbits back = false →
      frameFound ((s.gchan n).bits ^^^ (2 ^ 640 - 1)) (s.gchan n).nbits back = false → exec (.frameSync n back) s = .next s) ∧
    (s.gst n = 5 → 2 ≤ (s.gchan n).tlmBad → ∃ t, exec (.navParityLoss n) s = .next t ∧ ChannelTo s t n 4) ∧
    (2 ≤ s.gst n → ∃ t, exec (.signalLoss n) s = .next t ∧ ChannelTo s t n 1 ∧
      (t.gchan n).hint = satSigned 14 (roundQ ((s.gchan n).dopp / 2))) ∧
    (s.gst n ≠ 2 → exec (.pullInLock n) s = .next s) ∧ (s.gst n ≠ 2 → exec (.pullInTimeout n) s = .next s) ∧
    (s.gst n ≠ 3 → exec (.bitSync n) s = .next s) ∧ (s.gst n ≠ 4 → exec (.frameSync n back) s = .next s) ∧
    (s.gst n ≠ 5 → exec (.navParityLoss n) s = .next s) ∧ (s.gst n < 2 → exec (.signalLoss n) s = .next s)) ∧
  (∀ (n : Fin 24) (s : State), s.live = true → s.gnbOn = true → 3 ≤ s.gst n →
    ∃ t, exec (.cycleSlip n) s = .next t ∧ t.rd GNB_ERR_SLIP = 1 ∧
      t.rd (GNB_CH_STAT_SLIP_CNT n) = (s.rd (GNB_CH_STAT_SLIP_CNT n) + 1) % 256 ∧
      RegsBut (GNB_ERR_SLIP :: GNB_CH_STAT_SLIP_CNT n :: logFields) s t ∧ (∀ k, k ≠ n.val → t.gchan k = s.gchan k) ∧
      t = { s.like t with gnb := t.gnb })

/-- What the rate tracker makes of a block of samples whose last is stamped i. -/
def blockTrack (s : State) (samples : List (BitVec 4)) (i : Nat) : Rat × Rat :=
  let r := rateTrack ((samples.length : Nat) : Rat) (1000000 / 16368) s.gnb.clkAt s.gnb.clkPer (s.stampAt i : Int)
  (r.1, r.2.1)

/-- What channel n makes of a block of samples. -/
def blockOf (s : State) (samples : List (BitVec 4)) (n : Nat) : GnbChan × List (Nat × List (Int × Int)) :=
  GnbChan.block (s.corrSet n) (samples.map (gnssSample (s.on GNB_IF_CFG_REAL) (s.on GNB_IF_CFG_IQ_SWAP))) (s.gchan n)

/-- The registers of a privileged channel's sums. -/
def corrFields (m : Nat) : List Fld := (List.range 22).map (GNB_PC_CORR_SUMS m) ++ [GNB_PC_CORR_T m, GNB_PC_CORR_SEQ m]

/-- GNSS: navigation words, correlator sums, measurements and time solutions. A navigation word of a channel in BIT_SYNC
or FRAME_SYNC goes into the entry at WR, with its instant, channel, PRN and place, and WR advances; with the ring full
it is dropped, flagged and counted. A block of samples moves the rate tracker and every channel from PULL_IN on by its
correlators and loops, and a privileged channel's code period that ends in it comes to its registers with its instant
and SEQ; a firmware error that misses its deadline is counted and 0 is used. The measurement latch at the sweep that
is due keeps a record of each channel in TRACK to NAV, and the third epoch without the partner's data clears
PARTNER_OK. Publishing shows the epoch's words, INTEG_OK, TSOL_VALID and the number of valid pseudoranges. A time
solution is formed from four usable records or more, and is valid only with a present sample clock, TSOL_EN, no failed
residual test and no uniform C/N0. Data of the partner for the epoch at hand set PARTNER_OK, others are ignored. Where
the rules leave a point open, the model's reading of it is in notes/assumptions/19.md. -/
def Obligations.GnssMeasuresAndSolvesTime : Prop :=
  (∀ (n : Fin 24) (w : BitVec 30) (i : BitVec 32) (wp : Fin 256) (s : State), s.live = true → s.gnbOn = true →
    (s.gst n = 4 ∨ s.gst n = 5) → s.rd GNB_NAV_PTR_WR = wp →
    (s.rd GNB_NAV_PTR_RD ≠ (wp + 1) % 256 →
      ∃ t, exec (.navWord n w i) s = .next t ∧ t.rd (GNB_NAV_T wp) = i.toNat ∧ t.rd (GNB_NAV_CH wp) = n ∧
        t.rd (GNB_NAV_PRN wp) = s.rd (GNB_CH_CFG_PRN n) % 256 ∧ t.rd GNB_NAV_PTR_WR = (wp + 1) % 256 ∧
        (s.gst n = 4 → t.rd (GNB_NAV_WORD_IDX wp) = 0) ∧
        RegsBut [GNB_NAV_WORD wp, GNB_NAV_PARITY_OK wp, GNB_NAV_T wp, GNB_NAV_CH wp, GNB_NAV_PRN wp, GNB_NAV_WORD_IDX wp,
          GNB_NAV_PTR_WR] s t ∧ t = { s.like t with gnb := t.gnb }) ∧
    (s.rd GNB_NAV_PTR_RD = (wp + 1) % 256 →
      ∃ t, exec (.navWord n w i) s = .next t ∧ t.rd GNB_ERR_NAV_OVF = 1 ∧
        t.rd GNB_NAV_PTR_DROP_CNT = min (s.rd GNB_NAV_PTR_DROP_CNT + 1) 65535 ∧
        RegsBut [GNB_ERR_NAV_OVF, GNB_NAV_PTR_DROP_CNT] s t ∧ t = { s.like t with gnb := t.gnb })) ∧
  (∀ (x : BitVec 4) (xs : List (BitVec 4)) (i : BitVec 32) (s : State), s.live = true → s.gnbOn = true → s.on GNB_STATUS_CLK_OK = true →
    ∃ t, exec (.correlatorMs (x :: xs) i) s = .next t ∧ t.gnb.clkAt = some (blockTrack s (x :: xs) i.toNat).1 ∧
      t.gnb.clkPer = (blockTrack s (x :: xs) i.toNat).2 ∧
      (∀ n < 24, s.gst n < 2 → t.gchan n = s.gchan n) ∧ (∀ n < 20, 2 ≤ s.gst n → t.gchan n = (blockOf s (x :: xs) n).1) ∧
      (∀ (m : Fin 4) (d : Nat) (l : List (Int × Int)), 2 ≤ s.gst (20 + m) → (blockOf s (x :: xs) (20 + m)).2 = [(d, l)] →
        (∀ j < 22, t.rd (GNB_PC_CORR_SUMS m j) =
          ofSigned 32 (satSigned 32 (if j % 2 = 0 then (l.getD (j / 2) (0, 0)).1 else (l.getD (j / 2) (0, 0)).2))) ∧
        t.rd (GNB_PC_CORR_T m) = (roundQ ((blockTrack s (x :: xs) i.toNat).1 - (d : Nat) * (blockTrack s (x :: xs) i.toNat).2) % 2 ^ 32).toNat ∧
        t.rd (GNB_PC_CORR_SEQ m) = (s.rd (GNB_PC_CORR_SEQ m) + 1) % 65536) ∧
      RegsBut ((List.range 4).flatMap corrFields) s t ∧ t = { s.like t with gnb := t.gnb }) ∧
  (∀ (m : Fin 4) (s : State), s.live = true → s.gnbOn = true → (s.gchan (20 + m)).waiting = true →
    ∃ t, exec (.firmwareErrorDeadline m) s = .next t ∧ t.rd (GNB_PC_CORR_LATE m) = min (s.rd (GNB_PC_CORR_LATE m) + 1) 65535 ∧
      t.gchan (20 + m) = ({ s.gchan (20 + m) with waiting := false }).codeLoop (s.corrSet (20 + m)) 1 0 ∧ RegsBut [GNB_PC_CORR_LATE m] s t ∧
      t = { s.like t with gnb := t.gnb }) ∧
  (∀ (cn0 : List (Fin 24 × Nat)) (k : Nat) (s : State), s.live = true → s.gnbOn = true → s.gDueSweep = some k →
    ∃ t e, exec (.measurementLatch cn0) s = .next t ∧ t.gnb.epoch = some e ∧ e.m = s.sweepAt k ∧ e.sweep = k % 2 ^ 32 ∧
      e.pub = false ∧ e.off = none ∧ e.given = false ∧ t.gnb.nextK = some (k + s.rd GNB_MEAS_CFG_MDIV + 1) ∧
      e.recs.map (·.ch) = (List.range 24).filter (fun n => decide (3 ≤ s.gst n)) ∧ (∀ r ∈ e.recs, 3 ≤ r.state ∧ r.state = s.gst r.ch) ∧
      (s.gnb.epoch ≠ none → s.gnb.partner = none → 2 ≤ s.gnb.missed → t.rd GNB_STATUS_PARTNER_OK = 0) ∧
      RegsBut ([GNB_STATUS_CN0_UNIFORM, GNB_ERR_CN0_UNIFORM, GNB_STATUS_PARTNER_OK, GNB_STATUS_PARTNER_DIFF] ++
        (List.range 24).map GNB_CH_STAT_CN0 ++ logFields) s t ∧ t = { s.like t with gnb := t.gnb }) ∧
  (∀ (cn0 : List (Fin 24 × Nat)) (s : State), s.live = true → s.gDueSweep = none → exec (.measurementLatch cn0) s = .next s) ∧
  (∀ (e : GnbEpoch) (s : State), s.live = true → s.gnbOn = true → s.gnb.epoch = some e → s.prd.mlUp = false →
    ∃ t, exec .measurementPublish s = .next t ∧ t.rd GNB_STATUS_INTEG_OK = e.integ % 2 ∧
      t.rd GNB_STATUS_N_VALID = (e.recs.filter s.gPrValid).length % 32 ∧ t.gnb.epoch = some { e with pub := true } ∧
      t.rd GNB_STATUS_TSOL_VALID = b2n e.given ∧ (∀ j < 200, t.rd (GNB_MEAS_W j) = field (s.gEpoch e) (4 * j) 4) ∧
      RegsBut ([GNB_STATUS_INTEG_OK, GNB_STATUS_N_VALID, GNB_STATUS_TSOL_VALID] ++ (List.range 200).map GNB_MEAS_W) s t ∧
      t = { s.like t with gnb := t.gnb }) ∧
  (∀ (e : GnbEpoch) (week : BitVec 10) (sats : List GnbSat) (s : State), s.live = true → s.gnbOn = true → s.gnb.epoch = some e →
    (∀ r : GnbSolved, s.gSolve (gUsable e.recs sats) = some r → ∃ t, exec (.timeSolution week sats) s = .next t ∧
      4 ≤ (gUsable e.recs sats).length ∧ (r.fail = true → t.rd GNB_ERR_INTEG_FAIL = 1) ∧
      (t.rd GNB_STATUS_TSOL_VALID = 1 → s.on GNB_STATUS_CLK_OK = true ∧ s.on GNB_CTRL_TSOL_EN = true ∧ e.uni = false ∧ r.fail = false)) ∧
    (s.gSolve (gUsable e.recs sats) = none → exec (.timeSolution week sats) s = .next s)) ∧
  (∀ (e : GnbEpoch) (sweep : BitVec 32) (off : Rat) (prs : List (Nat × Nat)) (s : State), s.live = true → s.gnbOn = true →
    s.gnb.epoch = some e →
    (e.sweep = sweep.toNat → ∃ t, exec (.gnssPartnerFrame sweep off prs) s = .next t ∧ t.rd GNB_STATUS_PARTNER_OK = 1 ∧
      t.gnb.missed = 0 ∧ t.gnb.partner = some { sweep := sweep.toNat, off := off, prs := prs } ∧ t = { s.like t with gnb := t.gnb }) ∧
    (e.sweep ≠ sweep.toNat → exec (.gnssPartnerFrame sweep off prs) s = .next s))

def sweepFields : List Fld := [SCH_SWEEP_ID_ID, SCH_QUAL_CNT_COARSE_CNT, SCH_QUAL_CNT_BAD_CNT, SCH_ERR_CLIP]

/-- The sampling grid: runs, response switches and sweep records. SCH_RUN writes RUN, and RUN = 0 lets go of balancing
held open between pauses. A response index becomes pending for the sweeps from D_n and 1.1 ms after the write.
SWEEP_PUBLISH publishes, of the sweeps produced, the one whose publish instant S + D_n + 50 µs comes first and has
come: 65 records under its ID, one sweep less in flight; in an outage of the link, or with no modulator bits within 20
µs of S, every cell record and the shunt's are BAD with value 0, and in an outage the thermistors' too; a sweep with a
BAD record is counted. With no publish instant reached, or before a role is taken, it changes nothing. Where the rules
leave a point open, the model's reading of it is in notes/assumptions/13.md. -/
def Obligations.SweepsArePublishedOnTheGrid : Prop :=
  (∀ s : State, s.live = true → exec (.schRun true) s = .next (s.wr SCH_CTRL_RUN 1)) ∧
  (∀ s : State, s.live = true →
    (s.cfe.gap = false → exec (.schRun false) s = .next (s.wr SCH_CTRL_RUN 0)) ∧
    (s.cfe.gap = true → ∃ t, exec (.schRun false) s = .next t ∧ t.rd SCH_CTRL_RUN = 0 ∧ t.rd CFE_STATUS_BAL_STARVED = 0 ∧
      t.cfe = { s.cfe with pause := none, gap := false } ∧ RegsBut [SCH_CTRL_RUN, CFE_STATUS_BAL_STARVED] s t ∧
      t = { s.like t with cfe := t.cfe })) ∧
  (∀ (idx : Fin 16) (s : State), s.live = true →
    ∃ t, exec (.schRespSelWrite idx) s = .next t ∧ t.rd SCH_RESP_SEL_NEXT = idx ∧ t.rd SCH_STATUS_RESP_PEND = 1 ∧
      t.sch = { s.sch with pend := some (idx.val, s.now + respD idx + 1100000) } ∧
      RegsBut [SCH_RESP_SEL_NEXT, SCH_STATUS_RESP_PEND] s t ∧ t = { s.like t with sch := t.sch }) ∧
  (∀ (e : SchDue) (s : State), s.works = true → s.sweepDue = some e →
    ∃ t, exec .sweepPublish s = .next t ∧ e ∈ s.sch.flight ∧ e.inst + respD e.resp + 50000 ≤ s.now ∧
      (∀ x ∈ s.sch.flight, e.due ≤ x.due) ∧ t.rd SCH_SWEEP_ID_ID = e.k % 2 ^ 32 ∧
      t.sch = { s.sch with flight := s.sch.flight.erase e, last := some e.k, records := t.sch.records, prevRecs := s.sch.records } ∧
      t.sch.records.length = 65 ∧ t.cse.since = s.cse.since + 1 ∧
      ((s.sch.facts e).out = true ∨ (s.sch.facts e).near = false →
        (∀ i < 48, recBad (t.recOf i) = true ∧ recVal (t.recOf i) = 0) ∧ recBad (t.recOf 64) = true ∧ recVal (t.recOf 64) = 0 ∧
        t.rd SCH_QUAL_CNT_BAD_CNT = min (s.rd SCH_QUAL_CNT_BAD_CNT + 1) 65535) ∧
      ((s.sch.facts e).out = true → ∀ i < 16, recBad (t.recOf (48 + i)) = true ∧ recVal (t.recOf (48 + i)) = 0) ∧
      RegsBut sweepFields s t ∧ t = { s.like t with sch := t.sch, cfe := t.cfe, cse := t.cse }) ∧
  (∀ s : State, s.works = false ∨ s.sweepDue = none → exec .sweepPublish s = .next s)

/-- A sample that fusion takes (R133 to R136). -/
abbrev SampleOk (s : State) (x : FusSample) : Prop :=
  s.engineRole = true ∧ x.slot < 34 ∧ s.on (FUS_REF_CFG_EN x.slot) = true ∧ x.kind = s.rd (FUS_REF_CFG_KIND x.slot) ∧
    kindOk x.slot x.kind = true ∧ (∀ v ∈ x.v.take (kindVals x.kind x.flags), f64Finite v = true) ∧
    (bit x.flags 2 = true → f64Finite x.sig = true) ∧ x.t ≤ x.arr + 1000000 ∧ s.fus.ring.length < 1024

/-- The 64 bytes that a requester's fifteen held words and a last word make. -/
def pushed (s : State) (who : Requester) (v : BitVec 32) : Bytes :=
  bytesOf 64 ((s.wideOf who 0x40040040).held.foldl (fun n e => withWord n e.1 e.2) (withWord 0 15 v.toNat))

/-- What a FUSION frame of one sample holds. -/
def frameSample (s : State) (f : ZFrame) : FusSample :=
  let x := s.fusSample (slice (f.words.flatMap fun w => (pipData w).getD (List.replicate 32 0)) 0 64)
  if f.hdr.late then { x with flags := x.flags ||| 1 } else x

/-- Fusion: runs, samples taken or refused, updates and publication. RUN = 1 makes the first sweep after the present
instant F_0, and is refused with a cycle out of range; RUN = 0 discards the samples and frees every track. EN of a
reference is written as it is. A sample, from a FUSION frame or pushed through FUS_IN_PUSH, that is enabled, of its
reference's kind, finite, not 1 ms ahead and finds room goes to the end of the ring; one for a reference that is not
enabled is counted as rejected and nothing else. The update of cycle k runs once its input cutoff has come: it takes
up the enables, drops and counts the samples more than eight intervals late, leaves the posterior at F_(k-2) and a
complete output; otherwise it changes nothing. Publishing at F_k + PUB_OFF shows that output in FUS_OUT and FUS_STATUS
and goes on to the next cycle; without a complete update it sets OVERRUN; before that instant it changes nothing. No
register of another block changes but those of the fault log and of the event counters. Where the rules leave a point
open, the model's reading of it is in notes/assumptions/20.md. -/
def Obligations.FusionTakesSamplesAndPublishes : Prop :=
  (∀ s : State, s.live = true → s.rd FUS_CTRL_RUN = 0 → s.fusTimeBad = false →
    ∃ t, exec (.fusRun true) s = .next t ∧ t.rd FUS_CTRL_RUN = 1 ∧ t.fus = { s.fus with k0 := some (s.firstAfter s.now), next := 0 } ∧
      RegsBut [FUS_CTRL_RUN, FUS_STATUS_DOMINO, FUS_STATUS_TRK_USED] s t ∧ t = { s.like t with fus := t.fus }) ∧
  (∀ s : State, s.live = true → s.fusTimeBad = true → exec (.fusRun true) s = .next (s.wr FUS_ERR_CFG_REJ 1)) ∧
  (∀ s : State, s.live = true →
    ∃ t, exec (.fusRun false) s = .next t ∧ t.rd FUS_CTRL_RUN = 0 ∧ t.fus = FusState.init ∧ (∀ n < 128, t.rd (FUS_TRK_STATE n) = 0) ∧
      OnlyBlock 4 s t ∧ t = { s.like t with fus := t.fus }) ∧
  (∀ (r : Fin 34) (en : Bool) (s : State), s.live = true →
    exec (.fusRefEnable r en) s = .next (s.wr (FUS_REF_CFG_EN r) (if en then 1 else 0))) ∧
  (∀ (p : Nat) (f : ZFrame) (s : State), s.live = true → s.zfb.deliv = some (p, f) → f.hdr.cls = 5 → f.words.length = 2 →
    (SampleOk s (frameSample s f) →
      ∃ t, exec .fusSampleCommit s = .next t ∧ t.fus.ring = s.fus.ring ++ [frameSample s f] ∧ t.zfb.deliv = none ∧
        RegsBut countFields s t ∧ t = { s.like t with fus := t.fus, zfb := t.zfb, pmc := t.pmc }) ∧
    (s.engineRole = true → s.rd (FUS_REF_CFG_EN (frameSample s f).slot) = 0 →
      ∃ t, exec .fusSampleCommit s = .next t ∧ t.rd FUS_CNT_REJ = min (s.rd FUS_CNT_REJ + 1) 65535 ∧ t.fus = s.fus ∧
        RegsBut [FUS_CNT_REJ] s t)) ∧
  (∀ (who : Requester) (v : BitVec 32) (s : State), s.live = true → SampleOk s (s.fusSample (pushed s who v)) →
    ∃ t, exec (.fusInPush who v) s = .next t ∧ t.fus.ring = s.fus.ring ++ [s.fusSample (pushed s who v)] ∧
      RegsBut countFields s t ∧ t = { s.like t with fus := t.fus, wide := t.wide, pmc := t.pmc }) ∧
  (∀ (k : Nat) (s : State), s.live = true → s.fusOn = true → s.fus.out = none → s.fusDue (s.fusOff - 1000000) = some k →
    s.fus.next ≤ k →
    ∃ t b, exec .fusUpdate s = .next t ∧ t.fus.out = some (k, b) ∧ t.fus.next = s.fus.next ∧
      t.fus.en = maskOf ((List.range 34).filter fun i => s.on (FUS_REF_CFG_EN i)) ∧
      (∃ p, t.fus.post.head? = some p ∧ p.j = (k : Int) - 2 ∧ p.t = s.fusF ((k : Int) - 2)) ∧
      (∀ x ∈ t.fus.ring, (k : Int) - 2 ≤ s.fusIv x.t + 8) ∧
      ((∃ x ∈ s.fus.ring, x.stored = false ∧ s.fusIv x.t + 8 < (k : Int) - 2) → t.rd FUS_ERR_LATE_DROP = 1) ∧
      OnlyBlock 4 s t ∧ t = { s.like t with fus := t.fus }) ∧
  (∀ s : State, s.fusOn = false ∨ s.fus.out.isSome = true ∨ s.fusDue (s.fusOff - 1000000) = none → exec .fusUpdate s = .next s) ∧
  (∀ (c : Nat) (s : State), s.live = true → s.fusOn = true → s.fusDue s.fusOff = some c →
    (∀ k b, s.fus.out = some (k, b) → k ≤ c →
      ∃ t, exec .fusPublish s = .next t ∧ (∀ i < 64, t.rd (FUS_OUT_W i) = field b (4 * i) 4 % 2 ^ 32) ∧
        t.rd FUS_STATUS_VALID = bits (field b 16 2) 0 5 ∧ t.rd FUS_STATUS_DOMINO = (if s.domino then 1 else 0) ∧
        t.fus = { s.fus with out := none, next := k + 1 } ∧
        RegsBut ([FUS_STATUS_VALID, FUS_STATUS_COAST_ANY, FUS_STATUS_DOMINO, FUS_STATUS_TRK_USED] ++ (List.range 64).map FUS_OUT_W) s t ∧
        t = { s.like t with fus := t.fus }) ∧
    (∀ k b, s.fus.out = some (k, b) → c < k → exec .fusPublish s = .next s) ∧
    (s.fus.out = none → s.fus.next ≤ c → ∃ t, exec .fusPublish s = .next t ∧ t.rd FUS_ERR_OVERRUN = 1 ∧ t.fus.next = c + 1 ∧
      t.fus.out = none ∧ OnlyBlock 4 s t)) ∧
  (∀ s : State, s.fusDue s.fusOff = none → exec .fusPublish s = .next s)

/-- Only the front end's own side has changed, and it is `fe`. -/
def FeIs (s t : State) (fe : CfeFe) : Prop := t = { s with cfe := { s.cfe with fe := fe } }

/-- The cell front end: frames, states, switches, wakes. A command frame that passes its check, its counter and its opcode
in ACTIVE is accepted: a switch conducts when its mask bit is 1, no UV or over-current holds it open and nothing is
hot; a mask with two adjacent bits opens every switch and is reported; opcode 1 writes a held copy; 0x10 and 0x11 open
every switch and enter SNOWDROP and HIBERNATE after one last uplink frame that reports it. Any other frame is
discarded and counted in LINK_DOWN and ACTIVE. A synchronising frame enters ACTIVE with its counter and no switch
closed; in ACTIVE it is only reported. The uplink frame carries the counters, flags and reports, which then start
afresh; none is sent in SNOWDROP and HIBERNATE. Silence in ACTIVE gives LINK_DOWN; the stack's rise and fall reset the
front end; SNOWDROP with AUTO, the periodic check, the shunt and each comparator act as their rules say. Nothing
outside the front end changes. Where the rules leave a point open, the model's reading of it is in
notes/assumptions/12.md. -/
def Obligations.CellFrontEndObeysFrames : Prop :=
  (∀ (f : CfeDown) (s : State), s.cfe.fe.accepts f = true → f.op < 0x10 →
    ∃ t, exec (.cfeCommandFrame f) s = .next t ∧ FeIs s t t.cfe.fe ∧ t.cfe.fe.cnt = f.cnt ∧ t.cfe.fe.st = 2 ∧
      (adjacent f.bal = true → t.cfe.fe.sw = 0 ∧ t.cfe.fe.adjRej = true) ∧
      (adjacent f.bal = false → s.cfe.fe.dieHot = false → s.cfe.fe.ot = 0 →
        ∀ k < 48, t.cfe.fe.sw.testBit k = (f.bal.testBit k && !s.cfe.fe.uv.testBit k && !s.cfe.fe.ovr.testBit k)) ∧
      (s.cfe.fe.dieHot = true → t.cfe.fe.sw = 0) ∧
      (f.op = 1 → f.addr = 0x0A → t.cfe.fe.lim = f.data) ∧ (f.op = 1 → f.addr = 0x0B → t.cfe.fe.ntc = f.data) ∧
      (f.op = 1 → f.addr = 0x0C → t.cfe.fe.snow = f.data) ∧ (f.op = 2 → f.addr = 0x0A → t.cfe.fe.rd = some s.cfe.fe.lim)) ∧
  (∀ (f : CfeDown) (s : State), s.cfe.fe.accepts f = true → 0x10 ≤ f.op →
    ∃ t u, exec (.cfeCommandFrame f) s = .next t ∧ t.cfe.fe.st = (if f.op = 0x10 then 3 else 4) ∧ t.cfe.fe.sw = 0 ∧
      t.cfe.fe.cnt = f.cnt ∧ t.cfe.up = some u ∧ goodUp u = true ∧ u.stat.state = t.cfe.fe.st ∧ u.seq = s.cfe.fe.seq ∧
      t = { s with cfe := { s.cfe with up := some u, fe := t.cfe.fe }, free := t.free }) ∧
  (∀ (f : CfeDown) (s : State), s.cfe.fe.accepts f = false →
    exec (.cfeCommandFrame f) s = .next (if s.cfe.fe.st = 1 ∨ s.cfe.fe.st = 2
      then { s with cfe := { s.cfe with fe := { s.cfe.fe with rejects := s.cfe.fe.rejects + 1 } } } else s)) ∧
  (∀ (f : CfeDown) (s : State), f.sync = 0x5A → f.crc = cfeDownCrc f → s.cfe.fe.st ≠ 0 →
    (s.cfe.fe.st ≠ 2 → ∃ t, exec (.cfeSyncFrame f) s = .next t ∧
      FeIs s t { s.cfe.fe with st := 2, sw := 0, cnt := f.cnt, wake := false, pass := true }) ∧
    (s.cfe.fe.st = 2 → ∃ t, exec (.cfeSyncFrame f) s = .next t ∧ FeIs s t { s.cfe.fe with syncRej := true })) ∧
  (∀ (aux : BitVec 16) (mod : List (BitVec 64)) (s : State), s.cfe.fe.st = 1 ∨ s.cfe.fe.st = 2 →
    ∃ t f, exec (.cfeUplinkSend aux mod) s = .next t ∧ t.cfe.up = some f ∧ goodUp f = true ∧ f.seq = s.cfe.fe.seq ∧ f.echo = s.cfe.fe.cnt ∧
      f.stat.state = s.cfe.fe.st ∧ f.stat.ov = s.cfe.fe.ov ∧ f.stat.uv = s.cfe.fe.uv ∧ f.stat.ot = s.cfe.fe.ot ∧ f.stat.act = s.cfe.fe.sw ∧
      f.stat.rejects = s.cfe.fe.rejects ∧ f.aux = aux.toNat ∧ f.auxIdx = s.cfe.fe.auxIdx ∧ f.mod = mod.map (·.toNat) ∧
      t.cfe.fe.seq = (s.cfe.fe.seq + 1) % 256 ∧
      t.cfe.fe.auxIdx = (s.cfe.fe.auxIdx + 1) % 16 ∧ t.cfe.fe.rejects = 0 ∧ t.cfe.fe.por = false ∧ t.cfe.fe.st = s.cfe.fe.st ∧
      t.cfe.fe.sw = s.cfe.fe.sw ∧ t = { s with cfe := { s.cfe with up := t.cfe.up, fe := t.cfe.fe } }) ∧
  (∀ (aux : BitVec 16) (mod : List (BitVec 64)) (s : State), s.cfe.fe.st ≠ 1 → s.cfe.fe.st ≠ 2 →
    exec (.cfeUplinkSend aux mod) s = .next s) ∧
  (∀ s : State, s.cfe.fe.st = 2 → ∃ t, exec .cfeSilence s = .next t ∧ FeIs s t { s.cfe.fe with st := 1, sw := 0 }) ∧
  (∀ s : State, s.cfe.fe.st ≠ 2 → exec .cfeSilence s = .next s) ∧
  (∀ s : State, s.cfe.fe.st = 0 → ∃ t, exec .stackRise s = .next t ∧ FeIs s t { CfeFe.init with st := 1, por := true }) ∧
  (∀ s : State, ∃ t, exec .stackFall s = .next t ∧ FeIs s t CfeFe.init) ∧
  (∀ s : State, s.cfe.fe.st = 1 → bit s.cfe.fe.snow 12 = true →
    ∃ t u, exec .snowdropAuto s = .next t ∧ t.cfe.fe = ({ s.cfe.fe with st := 3, sw := 0, checks := 0 }).reported ∧
      t.cfe.up = some u ∧ goodUp u = true ∧ u.stat.state = 3 ∧
      t = { s with cfe := { s.cfe with up := some u, fe := t.cfe.fe }, free := t.free }) ∧
  (∀ (cells : List Int) (codes : List Nat) (s : State), s.cfe.fe.st = 3 →
    ∃ t, exec (.snowdropCheck cells codes) s = .next t ∧ FeIs s t t.cfe.fe ∧ t.cfe.fe.checks = s.cfe.fe.checks + 1 ∧
      t.cfe.fe.st = 3 ∧
      (∀ k < 48, s.cfe.fe.ovMv < cells.getD k 0 → t.cfe.fe.wake = true ∧ t.cfe.fe.wakeSrc.testBit 0 = true) ∧
      (∀ k < 48, cells.getD k 0 < s.cfe.fe.uvMv → t.cfe.fe.wake = true ∧ t.cfe.fe.wakeSrc.testBit 1 = true) ∧
      (∀ n < 16, s.cfe.fe.ntcHot n (codes.getD n 65535) = true → t.cfe.fe.wake = true ∧ t.cfe.fe.wakeSrc.testBit 2 = true) ∧
      ((∀ k < 48, s.cfe.fe.uvMv ≤ cells.getD k 0 ∧ cells.getD k 0 ≤ s.cfe.fe.ovMv) →
        (∀ n < 16, s.cfe.fe.ntcHot n (codes.getD n 65535) = false) → bits s.cfe.fe.snow 16 8 = 0 →
        t.cfe.fe = { s.cfe.fe with checks := s.cfe.fe.checks + 1 })) ∧
  (∀ s : State, s.cfe.fe.st = 3 ∨ s.cfe.fe.st = 4 → bits s.cfe.fe.snow 24 8 ≠ 0 →
    ∃ t, exec .shuntWake s = .next t ∧ FeIs s t { s.cfe.fe with wake := true, wakeSrc := s.cfe.fe.wakeSrc ||| 16 }) ∧
  (∀ (ch : Fin 48) (uv on : Bool) (s : State), s.cfe.fe.st = 1 ∨ s.cfe.fe.st = 2 →
    ∃ t, exec (.cellComparatorChange ch uv on) s = .next t ∧ FeIs s t t.cfe.fe ∧
      (if uv then t.cfe.fe.uv else t.cfe.fe.ov).testBit ch = on ∧ (uv = true → on = true → t.cfe.fe.sw.testBit ch = false) ∧
      (∀ k, k ≠ ch.val → t.cfe.fe.uv.testBit k = s.cfe.fe.uv.testBit k ∧ t.cfe.fe.ov.testBit k = s.cfe.fe.ov.testBit k ∧
        t.cfe.fe.sw.testBit k = s.cfe.fe.sw.testBit k)) ∧
  (∀ (n : Fin 16) (on : Bool) (s : State), s.cfe.fe.st = 1 ∨ s.cfe.fe.st = 2 → bit s.cfe.fe.ntc (16 + n) = true →
    ∃ t, exec (.otFlagChange n on) s = .next t ∧ FeIs s t { s.cfe.fe with ot := t.cfe.fe.ot, sw := t.cfe.fe.sw } ∧
      t.cfe.fe.ot.testBit n = on ∧ t.cfe.fe.sw = (if on then 0 else s.cfe.fe.sw)) ∧
  (∀ (ch : Fin 48) (s : State), bit s.cfe.fe.sw ch = true →
    ∃ t, exec (.switchOvercurrent ch) s = .next t ∧ FeIs s t { s.cfe.fe with sw := t.cfe.fe.sw, ovr := t.cfe.fe.ovr } ∧
      t.cfe.fe.sw.testBit ch = false ∧ t.cfe.fe.ovr.testBit ch = true) ∧
  (∀ (hot : Bool) (s : State), s.cfe.fe.st ≠ 0 →
    ∃ t, exec (.dieHotChange hot) s = .next t ∧
      FeIs s t { s.cfe.fe with dieHot := hot, sw := if hot then 0 else s.cfe.fe.sw })

/-- The logic side of the isolated link and balancing. ENABLE = 1 starts synchronising with a new counter; ENABLE = 0
sends nothing more. A downlink frame is none while disabled, the synchronising frame while synchronising, and
otherwise a command frame with the next counter value that carries a waiting state command, or the next held
operation. A write to a held register in range is stored, and queued or, without a link, dropped with WR_DROPPED; out
of range it is refused. A resend sends the operation again. SNOW_ENTER and HIB_ENTER wait for the next frame in ACTIVE
and are refused elsewhere. BAL_REQ is written whole, which releases the over-current channels; its lease ends with
zero; phases alternate. A pause opens, with PAUSE_EN and RUN, for the sweeps that MEAS_DIV names, and its close goes
on holding where the next one is too near. An uplink frame with a wrong SYNC or CRC is only counted; a good one shows
LINK, PRESENT, the front end's state, its closed switches and its flags, and its SNOWDROP or HIBERNATE ends ENABLE. A
lost link is flagged, its outage counts from the last valid frame, and the bitstreams restart. Where the rules leave a
point open, the model's reading of it is in notes/assumptions/14.md. -/
def Obligations.CellLinkIsDrivenFromTheLogicSide : Prop :=
  (∀ s : State, s.live = true → s.rd CFE_CTRL_ENABLE = 0 →
    ∃ t, exec (.cfeEnable true) s = .next t ∧ t.rd CFE_CTRL_ENABLE = 1 ∧ t.cfe.syncing = true ∧ t.cfe.cnt = (s.cfe.cnt + 1) % 65536 ∧
      t.cfe.fe = s.cfe.fe ∧ RegsBut [CFE_CTRL_ENABLE] s t ∧ t = { s.like t with cfe := t.cfe, sch := { s.sch with fresh := true } }) ∧
  (∀ s : State, s.live = true →
    ∃ t, exec (.cfeEnable false) s = .next t ∧ t.rd CFE_CTRL_ENABLE = 0 ∧
      t.cfe = { s.cfe with syncing := false, stateOp := none, op := none } ∧ RegsBut [CFE_CTRL_ENABLE] s t ∧
      t = { s.like t with cfe := t.cfe }) ∧
  (∀ s : State, s.live = true →
    (s.rd CFE_CTRL_ENABLE = 0 → exec .cfeDownlinkSend s = .next { s with cfe := { s.cfe with down := none } }) ∧
    (s.rd CFE_CTRL_ENABLE ≠ 0 → s.cfe.syncing = true → ∃ t f, exec .cfeDownlinkSend s = .next t ∧ t.cfe.down = some f ∧
      f.sync = 0x5A ∧ f.cnt = s.cfe.cnt ∧ f.bal = 0 ∧ f.crc = cfeDownCrc f ∧
      t = { s with cfe := { s.cfe with down := t.cfe.down, ends := ((s.cfe.cnt, (s.now : Int) + 2720) :: s.cfe.ends).take 8 } }) ∧
    (s.rd CFE_CTRL_ENABLE ≠ 0 → s.cfe.syncing = false → ∃ t f, exec .cfeDownlinkSend s = .next t ∧ t.cfe.down = some f ∧
      f.sync = 0xA5 ∧ f.cnt = (s.cfe.cnt + 1) % 65536 ∧ t.cfe.cnt = f.cnt ∧
      t.cfe.ends = ((f.cnt, (s.now : Int) + 2720) :: s.cfe.ends).take 8 ∧ f.bal = s.balMask ∧
      f.crc = cfeDownCrc f ∧ (∀ o, s.cfe.stateOp = some o → f.op = o ∧ t.cfe.stateOp = none) ∧
      (∀ i d q, s.cfe.stateOp = none → s.cfe.op = none → s.cfe.queue = (i, d) :: q →
        f.op = 1 ∧ f.addr = i ∧ f.data = d ∧ t.cfe.queue = q) ∧ t = { s with cfe := t.cfe })) ∧
  (∀ (v : BitVec 32) (s : State), s.live = true →
    (s.rd CFE_STATUS_LINK ≠ 0 → ∃ t, exec (.hvWrite 1 v) s = .next t ∧ t.rd CFE_NTC_LIM_OT_CODE = v.toNat % 65536 ∧
      t.rd CFE_NTC_LIM_NTC_EN = v.toNat / 65536 ∧ t.cfe.queue = s.cfe.queue ++ [(0x0B, v.toNat)] ∧ t.rd CFE_STATUS_HV_PENDING = 1 ∧
      RegsBut [CFE_NTC_LIM_OT_CODE, CFE_NTC_LIM_NTC_EN, CFE_STATUS_HV_PENDING] s t) ∧
    (s.rd CFE_STATUS_LINK = 0 → ∃ t, exec (.hvWrite 1 v) s = .next t ∧ t.rd CFE_NTC_LIM_OT_CODE = v.toNat % 65536 ∧
      t.rd CFE_ERR_WR_DROPPED = 1 ∧ t.cfe = s.cfe ∧ RegsBut [CFE_NTC_LIM_OT_CODE, CFE_NTC_LIM_NTC_EN, CFE_ERR_WR_DROPPED] s t) ∧
    (300 < v.toNat % 512 → exec (.hvWrite 0 v) s = .next (s.wr CFE_ERR_CFG_REJ 1))) ∧
  (∀ (o : HeldOp) (s : State), s.live = true → s.cfe.op = some o →
    exec .hvResend s = .next { s with cfe := { s.cfe with op := some { o with cnt := none } } }) ∧
  (∀ s : State, s.live = true →
    (s.rd CFE_STATUS_HV_STATE = 2 → exec .snowEnter s = .next { s with cfe := { s.cfe with stateOp := some 0x10 } } ∧
      exec .hibEnter s = .next { s with cfe := { s.cfe with stateOp := some 0x11 } }) ∧
    (s.rd CFE_STATUS_HV_STATE ≠ 2 → exec .snowEnter s = .next (s.wr CFE_ERR_CMD_REJ 1) ∧
      exec .hibEnter s = .next (s.wr CFE_ERR_CMD_REJ 1))) ∧
  (∀ (req : BitVec 48) (s : State), s.live = true →
    ∃ t, exec (.balReqWrite req) s = .next t ∧ t.rd CFE_BAL_REQ_REQ = req.toNat ∧ t.cfe.fe = { s.cfe.fe with ovr := 0 } ∧
      RegsBut [CFE_BAL_REQ_REQ] s t ∧ MemSame s t) ∧
  (∀ s : State, s.live = true →
    exec .balLeaseExpiry s = .next (s.wr CFE_BAL_REQ_REQ 0) ∧
    exec .balPhaseChange s = .next { s with cfe := { s.cfe with odd := !s.cfe.odd } } ∧
    (∀ k d, s.works = true → s.cfe.pause = some (k, d) → exec .measPauseClose s = .next { (s.wr CFE_STATUS_BAL_STARVED (if s.balStarved k d then 1 else 0)) with
      cfe := { s.cfe with pause := (if s.balStarved k d then some (k, d) else none), gap := s.balStarved k d } })) ∧
  (∀ (sweep : BitVec 32) (k : Nat) (s : State), s.works = true → k = s.sweepOfId sweep.toNat →
    (s.pausesFor k = true → s.rd CFE_MEAS_CFG_PAUSE_EN ≠ 0 → s.rd SCH_CTRL_RUN ≠ 0 → s.chainOn = true →
      exec (.measPauseOpen sweep) s = .next { s with cfe := { s.cfe with
        pause := some (k, respD (s.respAt (s.sweepAt k))), gap := false, paused := s.cfe.paused ++ [k] } }) ∧
    (s.pausesFor k = false → exec (.measPauseOpen sweep) s = .next s)) ∧
  (∀ (f : CfeUp) (i : BitVec 32) (s : State), s.live = true →
    (goodUp f = false → exec (.cfeUplinkReceive f i) s =
      .next ((s.wr CFE_ERR_UP_CRC 1).wr CFE_LINK_ERRCNT_UP_CRC_CNT (min (s.rd CFE_LINK_ERRCNT_UP_CRC_CNT + 1) 65535))) ∧
    (goodUp f = true → ∃ t, exec (.cfeUplinkReceive f i) s = .next t ∧ t.rd CFE_STATUS_LINK = 1 ∧
      t.rd CFE_STATUS_PRESENT = 1 ∧ t.rd CFE_STATUS_HV_STATE = f.stat.state % 8 ∧ t.rd CFE_BAL_ACT_ACT = f.stat.act % 2 ^ 48 ∧
      t.rd CFE_CMP_OV_OV = f.stat.ov % 2 ^ 48 ∧ t.rd CFE_CMP_UV_UV = f.stat.uv % 2 ^ 48 ∧ t.rd CFE_CMP_OT_OT = f.stat.ot % 2 ^ 16 ∧
      (f.stat.por = true → t.rd CFE_ERR_HV_POR = 1) ∧ (f.stat.state = 3 ∨ f.stat.state = 4 → t.rd CFE_CTRL_ENABLE = 0) ∧
      (s.works = true → t.sch.seq = f.seq) ∧
      (∀ g : Fld, 0x40030000 ≤ g.addr → (∀ f ∈ logFields, g.key ≠ f.key) → t.rd g = s.rd g) ∧
      t = { s.like t with cfe := t.cfe, sch := t.sch, cse := t.cse })) ∧
  (∀ s : State, s.live = true → s.rd CFE_STATUS_LINK ≠ 0 →
    ∃ t, exec .cfeLinkLost s = .next t ∧ t.rd CFE_STATUS_LINK = 0 ∧ t.rd CFE_ERR_LINK_LOST = 1 ∧ t.sch.fresh = true ∧
      (∀ p, s.sch.phase = some p → t.sch.outages.head? = some (p, none)) ∧ (s.rd CFE_CTRL_ENABLE ≠ 0 → t.cfe.syncing = true) ∧
      RegsBut (CFE_STATUS_LINK :: CFE_ERR_LINK_LOST :: logFields) s t ∧
      t = { s.like t with cfe := t.cfe, sch := t.sch }) ∧
  (∀ s : State, s.rd CFE_STATUS_LINK = 0 → exec .cfeLinkLost s = .next s)

/-- Cell k is BAD with both limits 0, as its registers show it. -/
def CellDark (t : State) (k : Nat) : Prop :=
  t.rd (CSE_CELL_ICHG k) = 0 ∧ t.rd (CSE_CELL_IDIS k) = 0 ∧ (t.rd (CSE_CELL_FLAGS k)).testBit 7 = true

/-- The engine has left HIBERNATE. -/
def Woken (s t : State) : Prop :=
  t.rd CSE_STATUS_STATE = 3 ∧ t.cse.woken = true ∧ t.cse.hibAt = none ∧ t.cse.seen = some (s.now : Rat) ∧ t.rd CFE_CTRL_ENABLE = 1 ∧
    RegsBut [CSE_STATUS_STATE, CSE_ERR_GAP, CFE_CTRL_ENABLE] s t ∧ MemSame s t

/-- The cell state engine: runs, updates, hibernation, wakes, replacement. RUN = 1 enters INIT with everything forgotten,
and is refused where updates would come closer than 10 ms; RUN = 0 enters OFF with every cell BAD and every limit 0.
An update that is due keeps its payload under the sweep's ID and its instant; a cell whose record is BAD has both
limits 0 and its BAD flag; the first valid sweep leaves INIT for UNRESTORED, and one without a valid cell is passed
over there. HIBERNATE_ENTRY with HIB_EN in RUN after HIB_T of current within HIB_I commands the front end, enters
HIBERNATE and sets every limit 0. A wake from the front end, from WAKE_NOW or from a wake item leaves HIBERNATE for
RUN and starts the link again; in another state it changes nothing. A module answers a replacement challenge under its
device key, and flags a verdict against it; the coordinator checks the answer and notes the SLOT as passed or its
verdict as CHECK_FAILED. Where the rules leave a point open, the model's reading of it is in notes/assumptions/17.md. -/
def Obligations.CellStateEngineRunsAndSleeps : Prop :=
  (∀ s : State, s.live = true → s.rd CSE_CTRL_RUN = 0 → cadenceOk (s.rd CSE_CTRL_DIV) (s.rd SCH_GRID_PERIOD_PERIOD) = false →
    exec (.cseRun true) s = .next (s.wr CSE_ERR_CFG_REJ 1)) ∧
  (∀ s : State, s.live = true → s.rd CSE_CTRL_RUN = 0 → cadenceOk (s.rd CSE_CTRL_DIV) (s.rd SCH_GRID_PERIOD_PERIOD) = true →
    ∃ t, exec (.cseRun true) s = .next t ∧ t.rd CSE_CTRL_RUN = 1 ∧ t.rd CSE_STATUS_STATE = 1 ∧ t.cse = CseState.init ∧
      RegsBut [CSE_CTRL_RUN, CSE_STATUS_STATE] s t ∧ t = { s.like t with cse := t.cse }) ∧
  (∀ s : State, s.live = true → s.rd CSE_CTRL_RUN ≠ 0 →
    ∃ t, exec (.cseRun false) s = .next t ∧ t.rd CSE_CTRL_RUN = 0 ∧ t.rd CSE_STATUS_STATE = 0 ∧ (∀ k < 48, CellDark t k) ∧
      t.rd CSE_MOD_SOP_ICHG = 0 ∧ t.rd CSE_MOD_SOP_IDIS = 0 ∧ t.cse.payload = none ∧ OnlyBlock 2 s t ∧
      t = { s.like t with cse := t.cse }) ∧
  (∀ s : State, s.cseDue = true →
    (s.rd CSE_STATUS_STATE ≠ 1 ∨ (∃ k < 48, recBad (s.recOf k) = false) →
      ∃ t b, exec .cseUpdate s = .next t ∧ t.cse.payload = some (s.rd SCH_SWEEP_ID_ID, b) ∧ b.length = 800 ∧
        t.cse.lastT = some s.now ∧ t.cse.since = 0 ∧ (∀ k < 48, recBad (s.recOf k) = true → CellDark t k) ∧
        t.rd CSE_STATUS_STATE = (if s.rd CSE_STATUS_STATE = 1 then 2 else s.rd CSE_STATUS_STATE) ∧
        OnlyBlock 2 s t ∧ t = { s.like t with cse := t.cse }) ∧
    (s.rd CSE_STATUS_STATE = 1 → (∀ k < 48, recBad (s.recOf k) = true) →
      exec .cseUpdate s = .next { s with cse := s.cse.counted })) ∧
  (∀ s : State, s.cseDue = false → exec .cseUpdate s = .next s) ∧
  (∀ s : State, s.live = true → s.rd CSE_CTRL_HIB_EN ≠ 0 → s.rd CSE_STATUS_STATE = 3 → s.hibDue = true →
    s.rd CFE_STATUS_HV_STATE = 2 →
    ∃ t, exec .hibernateEntry s = .next t ∧ t.rd CSE_STATUS_STATE = 4 ∧ (∀ k < 48, CellDark t k) ∧ t.rd CSE_MOD_SOP_ICHG = 0 ∧
      t.rd CSE_MOD_SOP_IDIS = 0 ∧ t.cfe.stateOp = some (if s.rd CSE_CTRL_FE_MODE = 0 then 0x10 else 0x11) ∧
      t.cse.hibAt = some s.now ∧ t.cse.payload = none ∧ OnlyBlock 2 s t ∧ t = { s.like t with cse := t.cse, cfe := t.cfe }) ∧
  (∀ s : State, s.live = true →
    (s.rd CSE_STATUS_STATE = 4 → (∃ t, exec .engineWake s = .next t ∧ Woken s t) ∧ ∃ t, exec .cseWakeNow s = .next t ∧ Woken s t) ∧
    (s.rd CSE_STATUS_STATE ≠ 4 → exec .engineWake s = .next s ∧ exec .cseWakeNow s = .next s) ∧
    (∀ e, s.rd CSE_STATUS_STATE = 4 → (s.zfb.handed.find? fun e => e.2.op = 3) = some e →
      ∃ t, exec .wakeItem s = .next t ∧ t.zfb.handed = s.zfb.handed.erase e ∧ Woken s t)) ∧
  (∀ s : State, s.rd CSE_CTRL_HIB_EN = 0 ∨ s.rd CSE_STATUS_STATE ≠ 3 ∨ s.hibDue = false → exec .hibernateEntry s = .next s) ∧
  (∀ (ch : Bytes) (slot : BitVec 20) (gen : BitVec 16) (seq : BitVec 32) (key : Bytes) (s : State), s.live = true →
    s.mbx.devKey = some key →
    exec (.replacementChallenge (.challenge ch slot gen seq)) s = .next { s with cse := { s.cse with answer := some (hmac key
      ([0x43] ++ slice ch 0 16 ++ bytesOf 8 ownUid ++ bytesOf 4 slot.toNat ++ bytesOf 2 gen.toNat ++ bytesOf 4 seq.toNat)) } }) ∧
  (∀ (slot : BitVec 20) (reply : Bytes) (s : State), s.live = true → s.holds = true → s.undecided slot.toNat = true →
    ∃ t, exec (.replacementChallenge (.answer slot reply)) s = .next t ∧
      t.zfb.passed = (if s.replOk slot.toNat reply then slot.toNat :: s.zfb.passed.filter (· ≠ slot.toNat) else s.zfb.passed) ∧
      t.zfb.verdict = some (slot.toNat, if s.replOk slot.toNat reply then 0 else 2) ∧
      (s.replOk slot.toNat reply = true → t = { s with zfb := t.zfb }) ∧ RegsBut logFields s t ∧ MemSame s t) ∧
  (∀ s : State, s.live = true → exec (.replacementChallenge (.verdict true)) s = .next s ∧
    ∃ t, exec (.replacementChallenge (.verdict false)) s = .next t ∧ t.rd CSE_ERR_AUTH_FAIL = 1 ∧
      RegsBut (CSE_ERR_AUTH_FAIL :: logFields) s t ∧ t = s.like t)

/-- A learned record is committed to the older slot of its index. On a unit that holds TOKEN, a commit that is due for a
SLOT of this half whose LRN_CHG is set and of which a record is kept, with nothing to correct in flash, programs the
11 words of a record with one more than the SEQ into the slot with the lower SEQ, for the record's own module and
generation; no byte outside those 384 changes. On a unit without TOKEN it is the confirmation of its own segment's
commit, which clears LRN_CHG. A commit that is not due, a SLOT of the other half, and a unit that has no role change
nothing. Where the rules leave a point open, the model's reading of it is in notes/assumptions/18.md. -/
def Obligations.LearnedRecordsAreCommittedToTheOlderSlot : Prop :=
  (∀ (slot i : Nat) (r : Nat × Bytes) (s : State), s.works = true → s.holds = true → s.commitDue slot = true →
    s.lrnChg slot = true → s.recIndex slot = some i → s.learned i = some r → s.learnedRead i = s →
    ∃ t, exec (.learnedRecordCommit slot) s = .next t ∧
      (∀ k < 11, t.rdRaw (learnedAt i (s.learnedNext i) / 32 + k) =
        pipEncode (slice (s.commitBytes (recUid r.2) slot (recGen r.2) (r.1 + 1)) (32 * k) 32)) ∧
      MemBut (learnedAt i (s.learnedNext i)) 384 s t ∧ RegsBut [CSE_STATUS_LRN_CHG] s t) ∧
  (∀ s : State, s.works = true → s.holds = false → ∃ t, exec (.learnedRecordCommit s.ownSlot) s = .next t ∧ t.rd CSE_STATUS_LRN_CHG = 0 ∧
    RegsBut [CSE_STATUS_LRN_CHG] s t ∧ t = { s.like t with cse := t.cse }) ∧
  (∀ (slot : Nat) (s : State), s.works = false ∨
      (s.holds = true ∧ (s.commitDue slot = false ∨ s.lrnChg slot = false ∨ s.recIndex slot = none)) ∨ (s.holds = false ∧ slot ≠ s.ownSlot) →
    exec (.learnedRecordCommit slot) s = .next s)

/-- q is the request that a free solver would take next, of the given operation, on one of the 16 slots. -/
def Chosen (s : State) (q : SlvReq) (op : Nat) : Prop :=
  s.live = true ∧ s.slvOn = true ∧ s.slv.run = none ∧ s.slvNext = some q ∧ q.op = op ∧ q.slot < 16 ∧ s.slv.queue.contains q = true

/-- The state with q out of the queue. -/
def tookReq (s : State) (q : SlvReq) : State := { s with slv := { s.slv with queue := s.slv.queue.erase q } }

/-- The state in which a submitted descriptor is read. -/
def atTail (s : State) (tail : Nat) : State := (s.wr SLV_RING_PTR_TAIL tail).wr SLV_RING_PTR_HEAD (s.rd SLV_RING_PTR_HEAD + 1)

/-- The request that a descriptor's bytes spell, its release instant perhaps already past. -/
def ringReq (s : State) (b : Bytes) : SlvReq :=
  let q := slvReqOf s.slv.num b
  { q with released := q.released || 0 ≤ diff32 q.release s.ns32 }

/-- The state with request `num` released, if its instant has come. -/
def releasedReq (s : State) (num : Nat) : State :=
  { s with slv := { s.slv with
    queue := s.slv.queue.map fun q => if q.num = num && 0 ≤ diff32 q.release s.ns32 then { q with released := true } else q } }

/-- What reading a SOLVE's input gives: the state after it, and the bytes unless a word was uncorrectable. -/
def solveInput (s : State) (q : SlvReq) : State × Option Bytes :=
  let len := if (s.sslot q.slot).feed then 8 * q.inCount else 16 * q.inCount
  if len = 0 then (s, some []) else s.loadBytes q.inAddr len false

/-- The values a SOLVE's input gives, if it has no fault. -/
def solveVals (s : State) (q : SlvReq) (b : Bytes) : Option (List (Nat × Nat)) :=
  if (s.sslot q.slot).feed then slvAssemble (s.sslot q.slot) b else slvChanges (s.sslot q.slot) b q.inCount

/-- The run after its factorisation in state s, without an iterate. -/
def factored (s : State) (r : SlvRun) : SlvRun := r.factor (s.slvFac r) (s.slvFac r).shifts

/-- The run after an iteration of `dur` ns. -/
def iterated (s : State) (r : SlvRun) (dur : Nat) : SlvRun :=
  let pt := (s.sslot r.req.slot).nextPt r (slvShift (s.slvFac r).d1 (s.slvFac r).shifts)
  { factored s r with pt := pt, resPs := (Config.qpResP r.key pt % 2 ^ 64 :: r.resPs).take 6, dur := dur }

/-- A run within an interior-point iteration, or, with `iter` 0, in the one pass of the other classes. -/
def Solving (s : State) (r : SlvRun) : Prop :=
  s.live = true ∧ s.slv.run = some r ∧ r.staging = none ∧ r.req.slot < 16

/-- The solve has ended with a solution in its slot, under the slot's signature. -/
def Stored (s t : State) (n : Nat) : Prop :=
  t.slv.run = none ∧ t.rd (SLV_SLOT_STAT_HAS_SOL n) = 1 ∧ t.rd (SLV_SLOT_SIG_SOL_SIG n) = s.rd (SLV_SLOT_SIG_SIG n) % 2 ^ 64

/-- A solve has ended by its deadline, counted in one of the two counters. -/
def LateEnd (s t : State) (iterate : Bool) : Prop :=
  t.rd SLV_ERR_DEADLINE = 1 ∧
  (iterate = true → t.rd SLV_CNT_ITERATE_CNT = min (s.rd SLV_CNT_ITERATE_CNT + 1) 65535 ∧ t.rd SLV_CNT_PRIOR_CNT = s.rd SLV_CNT_PRIOR_CNT) ∧
  (iterate = false → t.rd SLV_CNT_PRIOR_CNT = min (s.rd SLV_CNT_PRIOR_CNT + 1) 65535 ∧
    t.rd SLV_CNT_ITERATE_CNT = s.rd SLV_CNT_ITERATE_CNT)

/-- The solver: the ring, loads, solves and their ends. A TAIL that would leave more than 31 requests outstanding is
refused with RING_FULL; any other is stored, and a solver that runs takes every descriptor up to it, a good SOLVE into
its queue with its slot BUSY. A release whose instant has come opens its request, and a request of higher PRIO sets
the running solve aside. A chosen LOAD that passes its checks leaves its slot READY with its signature, or LOADING
while the partner has still to confirm it; one that fails leaves the slot EMPTY; a CLEAR leaves it EMPTY without a
solution, or LOADING where a LOAD of it still waits. A chosen SOLVE whose slot is not READY is refused; one whose
input is good starts; one that is late ends at once with the prior solution, counted; a preempted one resumes. Setup
puts the staging copy in force and starts the iterations, or, on an uncorrectable word, ends the solve with the slot
EMPTY. A solve that converges, or completes in the classes without iterations, leaves its slot with a solution under
the slot's signature and the solver free; an iteration that ends nothing is followed by the next; one before which the
guard finds too little time ends the solve with the iterate at hand; a failed factorisation ends it with the prior
solution. A deadline in the last phase of a later iteration returns the iterate before it, elsewhere the prior
solution, each counted. Where the rules leave a point open, the model's reading of it is in notes/assumptions/21.md. -/
def Obligations.SolverTakesLoadsAndSolves : Prop :=
  (∀ (tail : Fin 32) (s : State), s.live = true → 31 < (tail.val + 32 - s.rd SLV_RING_PTR_HEAD) % 32 + s.slvFlight →
    exec (.slvRingSubmit tail) s = .next (s.wr SLV_ERR_RING_FULL 1)) ∧
  (∀ (tail head : Fin 32) (s : State), s.live = true → s.rd SLV_RING_PTR_HEAD = head →
    (tail.val + 32 - head.val) % 32 + s.slvFlight ≤ 31 →
    (∃ t, exec (.slvRingSubmit tail) s = .next t ∧ t.rd SLV_RING_PTR_TAIL = tail ∧
      (s.slvOn = true → t.rd SLV_RING_PTR_HEAD = tail) ∧
      (s.slvOn = false → t.rd SLV_RING_PTR_HEAD = head ∧ t.slv = s.slv ∧ MemSame s t)) ∧
    (∀ b s', s.slvOn = true → tail = head + 1 →
      State.getWords 2 (atTail s tail) ((s.rd SLV_RING_BASE_ADDR + 64 * head) / 32) = (s', some b) →
      s'.slvReject (ringReq s b) b = 0 → (ringReq s b).op = 0 →
      ∃ t, exec (.slvRingSubmit tail) s = .next t ∧ t.slv.queue = s.slv.queue ++ [ringReq s b] ∧ t.sst (ringReq s b).slot = 3)) ∧
  (∀ (num : Nat) (s : State), s.live = true → s.slvOn = true →
    (s.slv.run = none → exec (.slvRequestRelease num) s = .next (releasedReq s num)) ∧
    (∀ r q, s.slv.run = some r → (releasedReq s num).slvNext = some q →
      (r.req.prio < q.prio → ∃ t, exec (.slvRequestRelease num) s = .next t ∧ t.slv.run = none ∧
        t.slv.paused = { r with preempt := true } :: s.slv.paused) ∧
      (q.prio ≤ r.req.prio → exec (.slvRequestRelease num) s = .next (releasedReq s num)))) ∧
  (∀ (q : SlvReq) (s : State), Chosen s q 1 →
    (∀ s' x sig foot b, (tookReq s q).slvCheck q = (s', .good x sig foot b) →
      ∃ t, exec .slvLoad s = .next t ∧ t.sst q.slot = (if s'.prd.mlUp then 1 else 2) ∧
        t.rd (SLV_SLOT_SIG_SIG q.slot) = sig % 2 ^ 64 ∧ t.rd (SLV_SLOT_STAT_CLASS q.slot) = x.cls % 8 ∧
        t.slv.queue = s.slv.queue.erase q ∧ t.slv.run = none ∧ t.slv.loads = s.slv.loads ++ (if s'.prd.mlUp then [q] else [])) ∧
    (∀ s' o, (tookReq s q).slvCheck q = (s', .fail o) →
      ∃ t, exec .slvLoad s = .next t ∧ t.sst q.slot = 0 ∧ t.rd (SLV_SLOT_SIG_SIG q.slot) = 0 ∧
        t.slv.queue = s.slv.queue.erase q ∧ t.slv.run = none)) ∧
  (∀ (q : SlvReq) (s : State), Chosen s q 2 →
    ∃ t, exec .slvClear s = .next t ∧
      t.sst q.slot = (if (s.slv.queue.erase q).any (fun p => p.slot = q.slot && p.op = 1) then 1 else 0) ∧
      t.rd (SLV_SLOT_STAT_HAS_SOL q.slot) = 0 ∧ t.rd (SLV_SLOT_SIG_SIG q.slot) = 0 ∧ t.slv.queue = s.slv.queue.erase q) ∧
  (∀ (q : SlvReq) (r : SlvRun) (s : State), s.live = true → s.slvOn = true → s.slv.run = none → s.slvNext = some q →
    (s.slv.paused.find? fun r => r.req = q) = some r → r.wait = false →
    ∃ t, exec .slvSolve s = .next t ∧ t.slv.run = some r ∧ t.slv.paused = s.slv.paused.erase r) ∧
  (∀ (q : SlvReq) (s : State), Chosen s q 0 → (s.slv.paused.find? fun r => r.req = q) = none →
    (s.sst q.slot < 2 → ∃ t, exec .slvSolve s = .next t ∧ t.slv.run = none ∧ t.slv.queue = s.slv.queue.erase q ∧
      t.sst q.slot = s.sst q.slot) ∧
    (2 ≤ s.sst q.slot → s.slvDue q = false →
      (∀ s' b v, solveInput (tookReq s q) q = (s', some b) → solveVals s q b = some v →
        ∃ t, exec .slvSolve s = .next t ∧ t.slv.run = some (SlvRun.start q v) ∧ t.slv.queue = s.slv.queue.erase q ∧
          t.rd SLV_STATUS_BUSY = 1 ∧ t.rd SLV_STATUS_RUN_SLOT = q.slot) ∧
      (∀ s' b, solveInput (tookReq s q) q = (s', some b) → solveVals s q b = none →
        ∃ t, exec .slvSolve s = .next t ∧ t.slv.run = none ∧ t.slv.queue = s.slv.queue.erase q) ∧
      (∀ s', solveInput (tookReq s q) q = (s', none) →
        ∃ t, exec .slvSolve s = .next t ∧ t.slv.run = none ∧ t.slv.queue = s.slv.queue.erase q ∧ t.sst q.slot = 0)) ∧
    (2 ≤ s.sst q.slot → s.slvDue q = true →
      ∃ t, exec .slvSolve s = .next t ∧ t.slv.run = none ∧ t.slv.queue = s.slv.queue.erase q ∧ LateEnd s t false)) ∧
  (∀ (r : SlvRun) (v : List (Nat × Nat)) (s : State), s.live = true → s.slv.run = some r → r.staging = some v → r.req.slot < 16 →
    (s.slvDue r.req = true → ∃ t, exec (.slvSetupComplete 0) s = .next t ∧ t.slv.run = none ∧ LateEnd s t false) ∧
    (s.slvDue r.req = false → s.slv.queue = [] → s.slv.paused = [] → s.slv.slots.length = 16 → r.iter = 0 →
      ∃ t r', exec (.slvSetupComplete 0) s = .next t ∧ t.slv.run = some r' ∧ r'.req = r.req ∧ r'.staging = none ∧
        r'.iter = (if (s.sslot r.req.slot).cls = 5 then 1 else 0) ∧ (t.sslot r.req.slot).vals = v ∧ t = { s with slv := t.slv }) ∧
    (s.slvDue r.req = false →
      ∃ t, exec (.slvSetupComplete 2) s = .next t ∧ t.slv.run = none ∧ t.rd SLV_ERR_PIP_UNCORR = 1 ∧ t.sst r.req.slot = 0)) ∧
  (∀ (dur : Nat) (r : SlvRun) (s : State), Solving s r → 0 < r.iter →
    ((s.slvFac r).fail = true → ∃ t, exec (.slvIterationComplete dur 0) s = .next t ∧ t.slv.run = none) ∧
    ((s.slvFac r).fail = false → s.slvDue r.req = true →
      ∃ t, exec (.slvIterationComplete dur 0) s = .next t ∧ t.slv.run = none ∧ LateEnd s t (2 ≤ r.iter)) ∧
    ((s.slvFac r).fail = false → s.slvDue r.req = false →
      (f64Le ((s.sslot r.req.slot).gaps (iterated s r dur)).1 (pow2neg (s.rd (SLV_SLOT_CFG_GAP_EXP r.req.slot))) = true →
        f64Le ((s.sslot r.req.slot).gaps (iterated s r dur)).2.1 (pow2neg (s.rd (SLV_SLOT_CFG_FEAS_EXP r.req.slot))) = true →
        f64Le ((s.sslot r.req.slot).gaps (iterated s r dur)).2.2 (pow2neg (s.rd (SLV_SLOT_CFG_FEAS_EXP r.req.slot))) = true →
        ∃ t, exec (.slvIterationComplete dur 0) s = .next t ∧ Stored s t r.req.slot) ∧
      (∀ o, s.slvTest (iterated s r dur) = some o → ∃ t, exec (.slvIterationComplete dur 0) s = .next t ∧ t.slv.run = none ∧
        (o = 0x25 → t.rd (SLV_SLOT_STAT_HAS_SOL r.req.slot) = s.rd (SLV_SLOT_STAT_HAS_SOL r.req.slot)) ∧
        (o ≠ 0x25 → Stored s t r.req.slot)) ∧
      (s.slvTest (iterated s r dur) = none → s.slv.queue = [] → s.slv.paused = [] →
        (16 * s.now + s.rd SLV_CTRL_GUARD * dur ≤ 16 * r.req.deadline →
          ∃ t, exec (.slvIterationComplete dur 0) s = .next t ∧
            t.slv.run = some { iterated s r dur with iter := r.iter + 1, wait := false } ∧ MemSame s t) ∧
        (16 * r.req.deadline < 16 * s.now + s.rd SLV_CTRL_GUARD * dur →
          ∃ t, exec (.slvIterationComplete dur 0) s = .next t ∧ Stored s t r.req.slot ∧ LateEnd s t true)))) ∧
  (∀ (r : SlvRun) (s : State), Solving s r → r.iter = 0 →
    ((s.slvFac r).fail = true → ∃ t, exec (.slvSolveComplete 0) s = .next t ∧ t.slv.run = none) ∧
    ((s.slvFac r).fail = false → s.slvDue r.req = true →
      ∃ t, exec (.slvSolveComplete 0) s = .next t ∧ t.slv.run = none ∧ LateEnd s t false) ∧
    ((s.slvFac r).fail = false → s.slvDue r.req = false →
      ∃ t, exec (.slvSolveComplete 0) s = .next t ∧ Stored s t r.req.slot)) ∧
  (∀ (dur : Nat) (r : SlvRun) (s : State), Solving s r →
    (0 < r.iter → ∃ t, exec (.slvIterationComplete dur 2) s = .next t ∧ t.slv.run = none ∧ t.rd SLV_ERR_PIP_UNCORR = 1 ∧
      t.sst r.req.slot = 0) ∧
    (r.iter = 0 → ∃ t, exec (.slvSolveComplete 2) s = .next t ∧ t.slv.run = none ∧ t.rd SLV_ERR_PIP_UNCORR = 1 ∧
      t.sst r.req.slot = 0)) ∧
  (∀ (r : SlvRun) (phaseS : Bool) (begun : Fin 5) (s : State), s.live = true → s.slv.run = some r → s.slvDue r.req = true →
    ∃ t, exec (.slvDeadline r.req.num phaseS begun) s = .next t ∧ t.slv.run = none ∧
      LateEnd s t ((phaseS || r.wait) && 2 ≤ r.iter && r.staging.isNone))

/-- The admission bound of the plant description in ns (R197). -/
def admitBound (s : State) : Rat := s.plant.bound (s.rd HLM_QP_CFG_MAX_ITER) s.domino

/-- An outcome of R195 with a usable result. -/
def usableOutcome (o : Nat) : Bool := o = 0 || o = 0x23 || o = 0x20 || o = 0x21 || o = 0x26

/-- Helm allocation: admission, cycles, modes and results. RUN = 1 is refused with CFG_REJ where the offsets do not hold;
it writes the admission bound and is refused with ADMIT_REJ where the time between QP_REL and QP_DL is shorter;
otherwise it stands, and RUN = 0 withdraws the cycle's problem. A control instant takes up C_k once, advances the
cycle, clears HELD and awaits a result under a new tag; a lost heading puts any automatic mode into JOYSTICK, a lost
position into AUTO_HDG, a lost target into DP, each with its alarm, and with all valid and no request the mode stands.
A result under the awaited tag is taken once: a usable one ends the count of fallbacks, any other is a fallback,
counted and flagged, the third in a row with ALLOC_FAIL. Publication, once a cycle and not before CMD_OFF, shows the
cycle, the outcome and the mode and gives the force from that instant on. A mode request that is listed waits for the
next instant, any other is refused and counted; RESTORE clears LOWERED and recomputes the class unless a contradiction
or ALLOC_FAIL stands. Where the rules leave a point open, the model's reading of it is in notes/assumptions/22.md. -/
def Obligations.HelmRunsItsCycle : Prop :=
  (∀ s : State, s.live = true →
    ∃ t, exec (.hlmRun false) s = .next t ∧ t.rd HLM_CTRL_RUN = 0 ∧ t.hlm = { s.hlm with qp := none, tag := none } ∧
      RegsBut [HLM_CTRL_RUN] s t ∧ t = { s.like t with hlm := t.hlm }) ∧
  (∀ s : State, s.live = true → s.timeNow = false → exec (.hlmRun true) s = .next (s.wr HLM_ERR_CFG_REJ 1)) ∧
  (∀ s : State, s.live = true → s.timeNow = true →
    ((1000 * ((s.rd HLM_TIME_CFG_QP_DL : Int) - (s.rd HLM_TIME_CFG_QP_REL : Int)) : Int) < (admitBound s).ceil →
      ∃ t, exec (.hlmRun true) s = .next t ∧ t.rd HLM_CTRL_RUN = 0 ∧ t.rd HLM_ERR_ADMIT_REJ = 1 ∧
        t.rd HLM_ADMIT_BOUND = min (usUp (admitBound s)) (2 ^ 20 - 1) ∧
        RegsBut (HLM_CTRL_RUN :: HLM_ERR_ADMIT_REJ :: HLM_ADMIT_BOUND :: logFields) s t ∧ t = s.like t) ∧
    ((admitBound s).ceil ≤ (1000 * ((s.rd HLM_TIME_CFG_QP_DL : Int) - (s.rd HLM_TIME_CFG_QP_REL : Int)) : Int) →
      ∃ t, exec (.hlmRun true) s = .next t ∧ t.rd HLM_CTRL_RUN = 1 ∧
        t.rd HLM_ADMIT_BOUND = min (usUp (admitBound s)) (2 ^ 20 - 1) ∧ t.hlm.qp = s.hlm.qp ∧
        (s.rd HLM_CTRL_RUN = 0 → t.hlm.sent = [] ∧ t.hlm.runAt = s.now ∧ t.hlm.ck = none))) ∧
  (∀ (remote : List (Nat × Rat × Rat)) (s : State), s.live = true → s.hlmOn = true → s.fus.k0.isSome = true → s.fus.next ≠ 0 →
    s.hlmGrid ((s.fus.next : Int) - 1) = true → s.hlm.ck ≠ some (s.fusF ((s.fus.next : Int) - 1)).toNat →
    ∃ t, exec (.hlmLawStart remote) s = .next t ∧ t.hlm.ck = some (s.fusF ((s.fus.next : Int) - 1)).toNat ∧
      t.hlm.cycle = (s.hlm.cycle + 1) % 2 ^ 32 ∧ t.hlm.tag = some (t.hlm.cycle % 4096) ∧ t.hlm.modeReq = none ∧ t.rd HLM_STATUS_HELD = 0 ∧
      (s.hlm.modeReq = none → s.fusFlag 1 = false → 2 ≤ s.hmode → t.hmode = 1 ∧ t.on HLM_ALARM_HDG_LOST = true) ∧
      (s.hlm.modeReq = none → s.fusFlag 1 = true → s.fusFlag 0 = false → 3 ≤ s.hmode → t.hmode = 2 ∧ t.on HLM_ALARM_POS_LOST = true) ∧
      (s.hlm.modeReq = none → s.fusFlag 1 = true → s.fusFlag 0 = true → s.fusFlag 4 = false → s.hmode = 4 →
        t.hmode = 3 ∧ t.on HLM_ALARM_TGT_LOST = true) ∧
      (s.hlm.modeReq = none → s.fusFlag 1 = true → s.fusFlag 0 = true → s.fusFlag 4 = true → t.hmode = s.hmode)) ∧
  (∀ (remote : List (Nat × Rat × Rat)) (s : State), s.hlm.ck = some (s.fusF ((s.fus.next : Int) - 1)).toNat →
    exec (.hlmLawStart remote) s = .next s) ∧
  (∀ (w : Nat) (s : State), s.live = true → s.hlmOn = true → w = natOf (s.peek hlmRes 32) → s.hlm.tag = some (bits w 32 12) →
    ∃ t, exec .hlmQpResult s = .next t ∧ t.hlm.tag = none ∧ t.hlm.outcome = bits w 0 8 ∧
      (usableOutcome (bits w 0 8) = true → t.hlm.falls = 0 ∧ t.rd HLM_CNT_FALLBACK_CNT = s.rd HLM_CNT_FALLBACK_CNT) ∧
      (usableOutcome (bits w 0 8) = false → t.hlm.falls = s.hlm.falls + 1 ∧ t.rd HLM_ERR_FALLBACK = 1 ∧
        t.rd HLM_CNT_FALLBACK_CNT = min (s.rd HLM_CNT_FALLBACK_CNT + 1) 65535 ∧
        (s.hlm.falls = 2 → t.on HLM_ALARM_ALLOC_FAIL = true))) ∧
  (∀ s : State, s.hlm.tag = none → exec .hlmQpResult s = .next s) ∧
  (∀ (ck : Nat) (s : State), s.live = true → s.hlmOn = true → s.hlm.ck = some ck → s.hlm.pubCk ≠ some ck →
    ck + 1000 * s.rd HLM_TIME_CFG_CMD_OFF ≤ s.now →
    ∃ t, exec .hlmCommandPublish s = .next t ∧ t.rd HLM_OUT_NS32 = ck % 2 ^ 32 ∧ t.rd HLM_OUT_CYCLE = s.hlm.cycle % 2 ^ 32 ∧
      t.rd HLM_OUT_OUTCOME = s.hlm.outcome % 256 ∧ t.rd HLM_OUT_MODE = s.hmode % 8 ∧ t.hlm.pubCk = some ck ∧
      (t.hlm.hist.head?.map (·.1)) = some (ck + 1000 * s.rd HLM_TIME_CFG_CMD_OFF)) ∧
  (∀ (ck : Nat) (s : State), s.hlm.ck = some ck → s.hlm.pubCk = some ck ∨ s.now < ck + 1000 * s.rd HLM_TIME_CFG_CMD_OFF →
    exec .hlmCommandPublish s = .next s) ∧
  (∀ (mode : Fin 8) (s : State), s.live = true →
    (s.modeOk mode = true → s.hmode ≠ mode →
      exec (.hlmModeSet mode) s = .next { s with hlm := { s.hlm with modeReq := some mode.val } }) ∧
    (s.modeOk mode = true → s.hmode = mode → exec (.hlmModeSet mode) s = .next s) ∧
    (s.modeOk mode = false → exec (.hlmModeSet mode) s =
      .next { (s.wr HLM_ERR_CMD_REJ 1) with hlm := { s.hlm with rejCnt := s.hlm.rejCnt + 1 } }) ∧
    (4 < mode.val → s.modeOk mode = false)) ∧
  (∀ s : State, s.live = true →
    ((∀ g ∈ s.fus.groups, g.contra = false) → s.rd HLM_ALARM_ALLOC_FAIL = 0 →
      ∃ t, exec .hlmRestore s = .next t ∧ t.rd HLM_STATUS_LOWERED = 0 ∧
        t.rd HLM_STATUS_CLASS = min (s.rd HLM_CTRL_MAX_CLASS) (if s.redundant then 3 else 1) % 4 ∧
        t.rd HLM_STATUS_REDUND = (if s.redundant then 1 else 0) ∧
        RegsBut (HLM_STATUS_LOWERED :: HLM_STATUS_CLASS :: HLM_STATUS_REDUND :: logFields) s t ∧ t = s.like t) ∧
    ((∃ g ∈ s.fus.groups, g.contra = true) ∨ s.rd HLM_ALARM_ALLOC_FAIL ≠ 0 →
      exec .hlmRestore s = .next { (s.wr HLM_ERR_CMD_REJ 1) with hlm := { s.hlm with rejCnt := s.hlm.rejCnt + 1 } }))

/-- Loop n runs at this instant and its enable is not about to change. -/
def LoopRuns (s : State) (n : Fin 64) (l : LpeLoop) (st : Nat) : Prop :=
  s.live = true ∧ s.lpeOn = true ∧ 0 ≤ s.baseTick ∧ s.lpe.tick ≠ some s.baseTick ∧ s.releasedAt n s.baseTick = true ∧ s.rd (LPE_LOOP_CFG_EN n) ≠ 0 ∧
    s.lst n = st ∧ s.lpe.loops[n.val]? = some l ∧ s.rd (LPE_LOOP_STAT_COMMIT_PEND n) = 0 ∧ l.clear = none ∧
    s.rd (LPE_LOOP_SUP_EN n) = 0

def lpeShown : List Fld := [LPE_STATUS_N_CLOSED, LPE_STATUS_N_FAULT, LPE_STATUS_LOAD, LPE_FAULT_LOOP]

/-- Another enabled loop has the same output word, or the state inputs leave the page. -/
def loopClash (s : State) (n : Nat) : Bool :=
  ((List.range 64).any fun k => k ≠ n && s.on (LPE_LOOP_CFG_EN k) && s.rd (LPE_LOOP_IO_OUT_IDX k) = s.rd (LPE_LOOP_IO_OUT_IDX n)) ||
    (s.rd (LPE_LOOP_CFG_TYPE n) = 2 && 1023 < s.rd (LPE_LOOP_IO_Y_IDX n) + s.rd (LPE_LOOP_CFG_SIZE n))

/-- What the enabled loops cost with loop n, in 10 ns. -/
def loopSum (s : State) (n : Nat) : Nat :=
  s.loadBut n + loopCost (s.rd (LPE_LOOP_CFG_TYPE n)) (s.rd (LPE_LOOP_CFG_SIZE n)) (s.on (LPE_LOOP_SUP_EN n))

/-- The loop engine: enables, commands, samples and publication. EN = 1 is refused with ADMIT_REJ where the sum of the
costs and 2 µs exceed OUT_OFF, with CFG_REJ where another enabled loop has the same output word or the state inputs
leave the page, and else written; EN = 0 is written. OPEN and CLOSE of an OPEN or CLOSED loop, and CLEAR in FAULT, are
held with their instant, elsewhere refused with CMD_REJ. COMMIT in DISABLED makes the pending bank active at once,
elsewhere it waits. At its base tick an OPEN loop whose CLOSE is 2 µs old goes to CLOSED and holds its output; a
CLOSED loop without supervision puts out a value within UMIN and UMAX. A base tick is sampled once, and a loop that
runs nowhere samples nothing. Once OUT_OFF has passed a loop's value goes to its page word and to U; a loop marked
late sets OVERRUN, is counted and leaves U as it was. Where the rules leave a point open, the model's reading of it is
in notes/assumptions/23.md. -/
def Obligations.LoopsSampleAndPublish : Prop :=
  (∀ (n : Fin 64) (s : State), s.live = true →
    (s.rd (LPE_LOOP_CFG_EN n) = 0 → loopClash s n = true → loopSum s n + 200 ≤ 100 * s.rd LPE_CTRL_OUT_OFF →
      exec (.loopEnWrite n true) s = .next (s.wr LPE_ERR_CFG_REJ 1)) ∧
    (s.rd (LPE_LOOP_CFG_EN n) = 0 → 100 * s.rd LPE_CTRL_OUT_OFF < loopSum s n + 200 →
      exec (.loopEnWrite n true) s = .next (s.wr LPE_ERR_ADMIT_REJ 1)) ∧
    (s.rd (LPE_LOOP_CFG_EN n) = 0 → loopClash s n = false → loopSum s n + 200 ≤ 100 * s.rd LPE_CTRL_OUT_OFF →
      ∃ t, exec (.loopEnWrite n true) s = .next t ∧ t.rd (LPE_LOOP_CFG_EN n) = 1 ∧
        RegsBut (LPE_LOOP_CFG_EN n :: lpeShown) s t ∧ t = { s.like t with lpe := t.lpe }) ∧
    (s.rd (LPE_LOOP_CFG_EN n) ≠ 0 → ∃ t, exec (.loopEnWrite n false) s = .next t ∧ t.rd (LPE_LOOP_CFG_EN n) = 0 ∧
      RegsBut (LPE_LOOP_CFG_EN n :: lpeShown) s t ∧ t = { s.like t with lpe := t.lpe })) ∧
  (∀ (n : Fin 64) (l : LpeLoop) (s : State), s.live = true → s.lpe.loops[n.val]? = some l →
    (s.lst n = 1 ∨ s.lst n = 2 →
      (∃ t, exec (.loopOpen n) s = .next t ∧ (t.lp n).cmd = some (false, s.now) ∧ t = { s with lpe := t.lpe }) ∧
      ∃ t, exec (.loopClose n) s = .next t ∧ (t.lp n).cmd = some (true, s.now) ∧ t = { s with lpe := t.lpe }) ∧
    (s.lst n ≠ 1 → s.lst n ≠ 2 → exec (.loopOpen n) s = .next (s.wr LPE_ERR_CMD_REJ 1) ∧
      exec (.loopClose n) s = .next (s.wr LPE_ERR_CMD_REJ 1)) ∧
    (s.lst n = 3 → ∃ t, exec (.loopClear n) s = .next t ∧ (t.lp n).clear = some s.now ∧ t = { s with lpe := t.lpe }) ∧
    (s.lst n ≠ 3 → exec (.loopClear n) s = .next (s.wr LPE_ERR_CMD_REJ 1))) ∧
  (∀ (n : Fin 64) (l : LpeLoop) (s : State), s.live = true → s.lpe.loops[n.val]? = some l →
    (s.lst n = 0 → ∃ t, exec (.loopCommit n) s = .next t ∧
      (∀ k < 32, t.rd (LPE_LOOP_COEF_ACT_C n k) = s.rd (LPE_LOOP_COEF_PEND_C n k) % 65536) ∧
      RegsBut ((List.range 32).map (LPE_LOOP_COEF_ACT_C n)) s t ∧ t = s.like t) ∧
    (s.lst n ≠ 0 → ∃ t, exec (.loopCommit n) s = .next t ∧ t.rd (LPE_LOOP_STAT_COMMIT_PEND n) = 1 ∧
      (t.lp n).staging = s.coefPend n ∧ RegsBut [LPE_LOOP_STAT_COMMIT_PEND n] s t ∧ t = { s.like t with lpe := t.lpe })) ∧
  (∀ (n : Fin 64) (l : LpeLoop) (i : Nat) (s : State), LoopRuns s n l 1 → l.cmd = some (true, i) → s.due i = true →
    ∃ t, exec .loopSample s = .next t ∧ t.lst n = 2 ∧ (t.lp n).out = some (s.rdS (LPE_LOOP_STAT_U n), 0) ∧ (t.lp n).cmd = none ∧
      OnlyBlock 7 s t ∧ t = { s.like t with lpe := t.lpe, pmc := t.pmc, crt := t.crt }) ∧
  (∀ (n : Fin 64) (l : LpeLoop) (s : State), LoopRuns s n l 2 → l.cmd = none → l.hold = false →
    s.rdS (LPE_LOOP_LIM_UMIN n) ≤ s.rdS (LPE_LOOP_LIM_UMAX n) →
    ∃ t u, exec .loopSample s = .next t ∧ t.lst n = 2 ∧ (t.lp n).out = some (u, 0) ∧ s.rdS (LPE_LOOP_LIM_UMIN n) ≤ u ∧
      u ≤ s.rdS (LPE_LOOP_LIM_UMAX n) ∧ t.rd (LPE_LOOP_STAT_U n) = s.rd (LPE_LOOP_STAT_U n)) ∧
  (∀ s : State, s.lpeOn = false ∨ s.lpe.tick = some s.baseTick → exec .loopSample s = .next s) ∧
  (∀ (ovr : BitVec 64) (s : State), s.lpeOn = false ∨ s.loopOutDue = false → exec (.loopPublish ovr) s = .next s) ∧
  (∀ (n : Fin 64) (k : Fin 1024) (ovr : BitVec 64) (u : Int) (q : Nat) (s : State), s.live = true → s.lpeOn = true → s.loopOutDue = true →
    (s.lp n).sampled = true → (s.lp n).out = some (u, q) → s.rd (LPE_LOOP_IO_OUT_IDX n) = k →
    (ovr.toNat.testBit n = false → (∀ m, m ≠ n.val → (s.lp m).out = none) →
      ∃ t, exec (.loopPublish ovr) s = .next t ∧ t.rd (LPE_PAGE_VALUE k) = ofSigned 16 u ∧ t.rd (LPE_PAGE_QUAL k) = q % 4 ∧
        t.rd (LPE_LOOP_STAT_U n) = ofSigned 16 u ∧ (t.lp n).out = none ∧ (t.lp n).sampled = false) ∧
    (ovr.toNat.testBit n = true → ∃ t, exec (.loopPublish ovr) s = .next t ∧ t.rd LPE_ERR_OVERRUN = 1 ∧
      t.rd (LPE_LOOP_STAT_U n) = s.rd (LPE_LOOP_STAT_U n) ∧ (t.lp n).out = none))

/-- What the fabric alone leaves unchanged: registers of other blocks, memory and every other part of the module. -/
def FabricOnly (s t : State) : Prop := OnlyBlock 9 s t ∧ t = { s.like t with zfb := t.zfb, pmc := t.pmc }

/-- The same for a node that is no member of its group: a member's EVENT to the group reaches its own receive ring. -/
def PortOnly (s t : State) : Prop := s.on ZFB_STATUS_GROUP = false → FabricOnly s t

/-- Port p leaves service for a state (R249, R255). -/
def PortLeaves (s t : State) (p : Fin 4) (st : Nat) : Prop :=
  t.rd (ZFB_PORT_STATE p) = st ∧ (t.zport p).tx = none ∧ PortOnly s t ∧
    (s.rd (ZFB_PORT_ROLE p) ≠ 0 → p.val ≤ 1 ∨ (p = 3 ∧ s.rd ZFB_ROUTE_CFG_ALT ≠ 7) →
      t.rd ZFB_ERR_PROTECT = 1 ∧ t.rd (ZFB_PORT_WRAP p) = 1)

/-- The port passes a frame's header check for class, version and lengths (R241), with the fields h. -/
def GoodHdr (h : ZHdr) : Prop := h.ver = 1 ∧ h.cls ≤ 8 ∧ h.rsv = 0 ∧ h.blocks ≤ 64 ∧ 1 < h.ttl

/-- A good frame as it is passed on (R241): its TTL less one. -/
def passedOn (h : ZHdr) (ws : List WireWord) : ZFrame := { hdr := { h with ttl := h.ttl - 1 }, words := ws }

/-- Fabric ports: link changes, the header check, forwarding, transmission and the rings. Block lock takes a port from
DOWN to RESTRICTED. A lost link takes a port in service to DOWN and counts it; a guard trip takes it to GUARDED with
ERR.GUARD; a ring port with a role, or P3 with an alternate, sets ERR.PROTECT and wraps. A window without a breach
trips nothing. The guard hold's end takes GUARDED to DOWN, counted. A reversal notice sets STATUS.REVERSED and
ERR.PROTECT on a node that is not terminal, and is kept with its side on one that is. A frame with an uncorrectable
header, a wrong version, class or reserved field is dropped and counted; a RESTRICTED port drops other classes than
ROLL and AUTH without count; a good link-local frame is delivered with TTL less one, a frame whose end is wrong is not
and sets ERR.ABORT; a unicast frame for another node is queued at the port its route names. An idle port with an empty
ring transmits the queued frame of the highest priority, and drops a frame of its own under CID without TOKEN with
ERR.DRIVE_BLK. TAIL equal to HEAD sets RING_FULL, another TAIL is written, and so is the receive ring's HEAD. Where
the rules leave a point open, the model's reading of it is in notes/assumptions/15.md. -/
def Obligations.FabricPortsCarryFrames : Prop :=
  (∀ (p : Fin 4) (s : State), s.live = true →
    (s.on ZFB_CTRL_RUN = true → s.rd (ZFB_PORT_STATE p) = 0 →
      ∃ t, exec (.portBlockLock p) s = .next t ∧ t.rd (ZFB_PORT_STATE p) = 1 ∧ t.zfb.run = none ∧ PortOnly s t) ∧
    (s.rd (ZFB_PORT_STATE p) = 1 ∨ s.rd (ZFB_PORT_STATE p) = 2 →
      (∃ t, exec (.portLinkLoss p) s = .next t ∧ PortLeaves s t p 0 ∧
        t.rd (ZFB_PORT_DOWN_CNT p) = min (s.rd (ZFB_PORT_DOWN_CNT p) + 1) 65535) ∧
      (∀ long kib bad, (long = true ∨ s.rd (ZFB_PORT_RATE p) < kib ∨ 16 < bad) →
        ∃ t, exec (.guardTrip p long kib bad) s = .next t ∧ PortLeaves s t p 3 ∧ t.rd ZFB_ERR_GUARD = 1) ∧
      (∀ kib bad, kib ≤ s.rd (ZFB_PORT_RATE p) → bad ≤ 16 → exec (.guardTrip p false kib bad) s = .next s)) ∧
    (s.rd (ZFB_PORT_STATE p) = 3 → ∃ t, exec (.guardHoldExpiry p) s = .next t ∧ t.rd (ZFB_PORT_STATE p) = 0 ∧
      t.rd (ZFB_PORT_DOWN_CNT p) = min (s.rd (ZFB_PORT_DOWN_CNT p) + 1) 65535 ∧
      RegsBut [ZFB_PORT_STATE p, ZFB_PORT_DOWN_CNT p] s t ∧ t = s.like t)) ∧
  (∀ (p : Nat) (f : ZFrame) (s : State), s.live = true → s.zfb.deliv = some (p, f) → f.hdr.cls = 7 → f.hdr.aux = 4 → f.hdr.dst = 0 →
    ∃ t, exec .reversalNotice s = .next t ∧ t.rd ZFB_ERR_PROTECT = 1 ∧ PortOnly s t ∧
      (s.on ZFB_STATUS_GROUP = false → t.zfb.deliv = none) ∧ (s.terminal = true → t.zfb.term = some p ∧ t.zfb.deliv = none) ∧ (s.terminal = false → t.rd ZFB_STATUS_REVERSED = 1)) ∧
  (∀ (p : Fin 4) (hdr : WireWord) (words : List WireWord) (ends : Bool) (s : State), s.live = true → s.on ZFB_CTRL_RUN = true →
    s.rd (ZFB_PORT_STATE p) = 1 ∨ s.rd (ZFB_PORT_STATE p) = 2 →
    (pipData hdr = none → ∃ t, exec (.frameReceive p hdr words ends) s = .next t ∧ t.rd ZFB_ERR_HDR_DROP = 1 ∧
      t.rd (ZFB_PORT_HDR_ERR_CNT p) = min (s.rd (ZFB_PORT_HDR_ERR_CNT p) + 1) 65535 ∧
      t.rd ZFB_CNT_DROP_CNT = min (s.rd ZFB_CNT_DROP_CNT + 1) 65535 ∧ FabricOnly s t ∧ t.zfb = s.zfb) ∧
    ∀ d, pipData hdr = some d →
      ((hdrOf (natOf d)).ver ≠ 1 ∨ 8 < (hdrOf (natOf d)).cls ∨ (hdrOf (natOf d)).rsv ≠ 0 →
        ∃ t, exec (.frameReceive p hdr words ends) s = .next t ∧ t.rd ZFB_ERR_HDR_DROP = 1 ∧
          t.rd ZFB_CNT_DROP_CNT = min (s.rd ZFB_CNT_DROP_CNT + 1) 65535 ∧ FabricOnly s t ∧ t.zfb = s.zfb) ∧
      (GoodHdr (hdrOf (natOf d)) → 1 < (hdrOf (natOf d)).cls → s.rd (ZFB_PORT_STATE p) = 1 →
        exec (.frameReceive p hdr words ends) s = .next s) ∧
      (GoodHdr (hdrOf (natOf d)) → 2 ≤ (hdrOf (natOf d)).cls → (hdrOf (natOf d)).cls ≤ 5 → (hdrOf (natOf d)).dst = 0 →
        s.rd (ZFB_PORT_STATE p) = 2 → words.length = (hdrOf (natOf d)).blocks →
        (ends = false → exec (.frameReceive p hdr words ends) s = .next (s.set1 ZFB_ERR_ABORT)) ∧
        (ends = true → clsBlocksOk (hdrOf (natOf d)).cls (hdrOf (natOf d)).blocks = true → ∀ ws, passWords words = (ws, true) →
          exec (.frameReceive p hdr words ends) s = .next { s with zfb := { s.zfb with deliv := some (p, passedOn (hdrOf (natOf d)) ws) } })) ∧
      (GoodHdr (hdrOf (natOf d)) → 2 ≤ (hdrOf (natOf d)).cls → (hdrOf (natOf d)).dst ≠ 0 → (hdrOf (natOf d)).dst ≠ bcastId →
        (hdrOf (natOf d)).wrap = false → (s.on ZFB_STATUS_ASSIGNED = true → (hdrOf (natOf d)).dst ≠ s.rd ZFB_ID_NODE_ID) →
        (s.on ZFB_STATUS_GROUP = true → (hdrOf (natOf d)).dst ≠ s.cid) → s.on ZFB_STATUS_REVERSED = false →
        s.rd (ZFB_PORT_STATE p) = 2 → words.length = (hdrOf (natOf d)).blocks → ends = true →
        ∀ ws (q : Fin 4) z, passWords words = (ws, true) → s.routePort (hdrOf (natOf d)).dst = some q.val →
          s.rd (ZFB_PORT_STATE q) = 2 → s.zfb.ports[q.val]? = some z → z.q = [] →
          ∃ t, exec (.frameReceive p hdr words ends) s = .next t ∧ (t.zport q).q = [passedOn (hdrOf (natOf d)) ws] ∧ t = { s with zfb := t.zfb })) ∧
  (∀ (p : Fin 4) (z : ZPort) (f : ZFrame) (s : State), s.live = true → s.on ZFB_CTRL_RUN = true →
    s.rd ZFB_TX_PTR_HEAD = s.rd ZFB_TX_PTR_TAIL → s.zfb.ports[p.val]? = some z → bestOf z.q = some f →
    (f.own = false → s.rd (ZFB_PORT_STATE p) = 2 →
      ∃ t, exec (.frameTransmitStart p) s = .next t ∧ (t.zport p).tx = some f ∧ (t.zport p).q = restOf z.q f ∧
        RegsBut countFields s t ∧ FabricOnly s t) ∧
    (f.own = true → f.hdr.src = s.cid → f.hdr.coord = true → s.holds = false → z.q = [f] →
      ∃ t, exec (.frameTransmitStart p) s = .next t ∧ (t.zport p).tx = none ∧ (t.zport p).q = [] ∧ t.rd ZFB_ERR_DRIVE_BLK = 1 ∧
        RegsBut (ZFB_ERR_DRIVE_BLK :: countFields) s t ∧ FabricOnly s t)) ∧
  (∀ (n : Fin 64) (s : State), s.live = true →
    (n.val = s.rd ZFB_TX_PTR_HEAD → exec (.txRingSubmit n) s = .next (s.wr ZFB_ERR_RING_FULL 1)) ∧
    (n.val ≠ s.rd ZFB_TX_PTR_HEAD → exec (.txRingSubmit n) s = .next (s.wr ZFB_TX_PTR_TAIL n)) ∧
    exec (.rxRingHead n) s = .next (s.wr ZFB_RX_PTR_HEAD n))

/-- The payload of this module's sweep frame of the last sweep (R259). -/
def sweepBytes (s : State) : Bytes :=
  sweepPayload (s.rd SCH_SWEEP_ID_ID) s.sch.records ++
    if s.rd CSE_STATUS_STATE = 4 then s.hibPayload
    else match s.cse.payload with
      | some (i, b) => if i = s.rd SCH_SWEEP_ID_ID then b else []
      | none => []

/-- A recall goes for this sweep (R261). -/
def Recalls (s : State) (id : Nat) : Prop :=
  s.holds = true ∧ s.on ZFB_CTRL_RECALL_EN = true ∧ s.missing id ≠ [] ∧
    ((aGet id s.zfb.recalls).getD (0, 0)).1 < s.rd ZFB_SWEEP_CFG_RECALL_MAX

/-- The first recall of a sweep is due: DUE has passed, and none has gone. -/
def RecallDue (s : State) (id : Nat) : Prop :=
  s.sweepAt (s.sweepOfId id) + 1000 * s.rd ZFB_SWEEP_CFG_DUE ≤ s.now ∧ aGet id s.zfb.recalls = none

/-- A further one is due: RECALL_INT has passed since the last. -/
def RepeatDue (s : State) (id : Nat) : Prop :=
  ∃ k at_, aGet id s.zfb.recalls = some (k, at_) ∧ at_ + 100000 * s.rd ZFB_SWEEP_CFG_RECALL_INT ≤ s.now

/-- One recall went: counted, and noted for the sweep. -/
def Recalled (s t : State) (id : Nat) : Prop :=
  t.rd ZFB_CNT_RECALL_CNT = min (s.rd ZFB_CNT_RECALL_CNT + 1) 65535 ∧ aGet id t.zfb.recalls = some (((aGet id s.zfb.recalls).getD (0, 0)).1 + 1, s.now) ∧
    FabricOnly s t

/-- The item is one that the target discards (R263). -/
def BadItem (s : State) (i : CmdItem) : Prop := i.rsv ≠ 0 ∨ i.op = 0 ∨ 3 < i.op ∨ s.now + 1000000000 < i.effect

/-- CMD_SEQ of the item is later than the last accepted from its sender. -/
def LaterItem (s : State) (src : Nat) (i : CmdItem) : Prop := ∀ q, aGet src s.zfb.cmdSeq = some q → later32 q i.seq = true

/-- The payload of a frame as numbers and bytes. -/
def firstWord (f : ZFrame) : Nat := natOf ((f.words.head?.bind pipData).getD [])
def payBytes (f : ZFrame) : Bytes := f.words.flatMap fun w => (pipData w).getD []

/-- The RECALL names this node: its count of intervals is 1 to 16 and one of them holds its ID. -/
def Named (s : State) (b : Bytes) : Prop :=
  1 ≤ bits (field b 0 8) 36 5 ∧ bits (field b 0 8) 36 5 ≤ 16 ∧ ∃ i < bits (field b 0 8) 36 5,
    bits (field b (32 + 8 * i) 8) 0 18 ≤ s.rd ZFB_ID_NODE_ID ∧ s.rd ZFB_ID_NODE_ID ≤ bits (field b (32 + 8 * i) 8) 32 18

/-- The fabric: sweep frames, recalls, command items and events. A module with a front end and an ID that has taken its
role keeps and sends its sweep frame, the record payload and, where the cell state engine has this sweep's, the cell
payload. A group member notes a sweep frame it takes, sets LATE_RX where it is late or marked LATE, and, where it has
no restore to send, writes nothing outside the endpoint table; one it has already is ignored. The holder recalls a
sweep with frames missing from its DUE on, again each RECALL_INT until RECALL_MAX, counted; a node within a RECALL's
intervals counts it and one outside does nothing. An item with a bad opcode, reserved bits or an EFFECT beyond one
second is discarded; one whose CMD_SEQ is not later is ignored; a late one is handed on and counted; another is held
to EFFECT, and the earliest held one is handed on at its instant where its CMD_SEQ is still later. The coordinator
enters an event frame in the fault log. Where the rules leave a point open, the model's reading of it is in
notes/assumptions/16.md. -/
def Obligations.SweepsRecallsAndItemsCrossTheFabric : Prop :=
  (∀ s : State, s.works = true → s.on ZFB_STATUS_ASSIGNED = true → s.on CFE_STATUS_PRESENT = true →
    s.sch.last ≠ none →
    ∃ t f, exec .sweepFrameSend s = .next t ∧ t.zfb.sweeps = ((s.rd SCH_SWEEP_ID_ID, f) :: s.zfb.sweeps).take 16 ∧ f.hdr.cls = 3 ∧
      f.hdr.dst = s.cid ∧ f.hdr.tag = s.rd SCH_SWEEP_ID_ID ∧ f.words = payWords (sweepBytes s) ∧ FabricOnly s t) ∧
  (∀ (p : Nat) (f : ZFrame) (s : State), s.live = true → s.zfb.deliv = some (p, f) → f.hdr.cls = 3 → s.on ZFB_STATUS_GROUP = true →
    ((f.hdr.src, f.hdr.tag) ∈ s.zfb.got → exec .sweepFrameReceive s = .next { s with zfb := { s.zfb with deliv := none } }) ∧
    ((f.hdr.src, f.hdr.tag) ∉ s.zfb.got → ∃ t, exec .sweepFrameReceive s = .next t ∧
      t.zfb.got = ((f.hdr.src, f.hdr.tag) :: s.zfb.got).take 524288 ∧
      t.rd ZFB_ERR_LATE_RX = (if f.hdr.late = true ∨ s.sweepAt (s.sweepOfId f.hdr.tag) + 1000 * s.rd ZFB_SWEEP_CFG_DUE < s.now then 1
        else s.rd ZFB_ERR_LATE_RX) ∧
      ((payBytes f).length ≤ 544 ∨ s.holds = false → t.zfb = { s.zfb with deliv := none, got := t.zfb.got } ∧
        RegsBut ([ZFB_ERR_LATE_RX, MBX_PIP_CNT_OLD_CNT, PRD_CNT_STALL_CNT, PRD_ERR_MIR_OVF] ++ countFields) s t ∧
        MemBut 0x10000000 0x4000000 s t ∧
        t = { s.like t with zfb := t.zfb, hlm := t.hlm, mir := t.mir, pmc := t.pmc, mem := t.mem, chk := t.chk }))) ∧
  (∀ (id : BitVec 32) (s : State), s.live = true →
    (Recalls s id.toNat → RecallDue s id.toNat → ∃ t, exec (.recallIssue id) s = .next t ∧ Recalled s t id.toNat) ∧
    (¬ Recalls s id.toNat ∨ ¬ RecallDue s id.toNat → exec (.recallIssue id) s = .next s) ∧
    (Recalls s id.toNat → RepeatDue s id.toNat → ∃ t, exec (.recallRepeat id) s = .next t ∧ Recalled s t id.toNat) ∧
    (¬ Recalls s id.toNat ∨ ¬ RepeatDue s id.toNat → exec (.recallRepeat id) s = .next s)) ∧
  (∀ (p : Nat) (f : ZFrame) (s : State), s.live = true → s.zfb.deliv = some (p, f) → f.hdr.cls = 7 → f.hdr.aux = 5 →
    (Named s (payBytes f) → ∃ t, exec .recallReceive s = .next t ∧
      t.rd ZFB_CNT_RECALL_CNT = min (s.rd ZFB_CNT_RECALL_CNT + 1) 65535 ∧ t.zfb.sweeps = s.zfb.sweeps ∧
      (s.zfb.sweeps = [] → FabricOnly s t)) ∧
    (¬ Named s (payBytes f) → exec .recallReceive s = .next { s with zfb := { s.zfb with deliv := none } })) ∧
  (∀ (p : Nat) (f : ZFrame) (w : WireWord) (d : Bytes) (s : State), s.live = true → s.zfb.deliv = some (p, f) → f.hdr.cls = 4 →
    f.words = [w] → pipData w = some d →
    ∃ t, exec .commandFrameReceive s = .next t ∧ t = { s with zfb := t.zfb } ∧ t.zfb.deliv = none ∧
      (BadItem s (itemOf (natOf d)) → t.zfb = { s.zfb with deliv := none, discCmd := s.zfb.discCmd + 1 }) ∧
      (¬ BadItem s (itemOf (natOf d)) → ¬ LaterItem s f.hdr.src (itemOf (natOf d)) → t.zfb = { s.zfb with deliv := none }) ∧
      (¬ BadItem s (itemOf (natOf d)) → LaterItem s f.hdr.src (itemOf (natOf d)) → (itemOf (natOf d)).effect < s.now →
        t.zfb.handed = s.zfb.handed ++ [(f.hdr.src, itemOf (natOf d))] ∧ t.zfb.lateCmd = s.zfb.lateCmd + 1 ∧
        t.zfb.held = s.zfb.held ∧ (aGet f.hdr.src t.zfb.cmdSeq).getD (2 ^ 32) = (itemOf (natOf d)).seq) ∧
      (¬ BadItem s (itemOf (natOf d)) → LaterItem s f.hdr.src (itemOf (natOf d)) → s.now ≤ (itemOf (natOf d)).effect →
        t.zfb.held = s.zfb.held ++ [(f.hdr.src, itemOf (natOf d))] ∧ t.zfb.lateCmd = s.zfb.lateCmd ∧
        t.zfb.handed = s.zfb.handed ∧ t.zfb.cmdSeq = s.zfb.cmdSeq)) ∧
  (∀ s : State, s.live = true → s.zfb.held ≠ [] →
    ∃ e ∈ s.zfb.held, (∀ x ∈ s.zfb.held, e.2.effect ≤ x.2.effect) ∧
      (s.now < e.2.effect → exec .commandItemEffect s = .next s) ∧
      (e.2.effect ≤ s.now → ∃ t, exec .commandItemEffect s = .next t ∧ t = { s with zfb := t.zfb } ∧
        t.zfb.held = s.zfb.held.erase e ∧
        (LaterItem s e.1 e.2 → t.zfb.handed = s.zfb.handed ++ [e]) ∧
        (¬ LaterItem s e.1 e.2 → t.zfb.handed = s.zfb.handed ∧ t.zfb.cmdSeq = s.zfb.cmdSeq))) ∧
  (∀ (p : Nat) (f : ZFrame) (s : State), s.live = true → s.zfb.deliv = some (p, f) → f.hdr.cls = 7 → s.on ZFB_STATUS_GROUP = true →
    (f.hdr.aux = 3 → ∃ t, exec .eventGuardTrip s = .next t ∧ t.zfb.deliv = none ∧ (s.holds = true → t.zfb.run = none) ∧
      FabricOnly s t) ∧
    (f.hdr.aux = 6 → exec .eventNewNode s = .next (({ s with zfb := { s.zfb with deliv := none } }).logEvent 9
      (Config.eventCode 6).toNat (bits (firstWord f) 18 2) 0xFF (firstWord f % 2 ^ 96))))

/-- A message of this type stands delivered, as m, at a module in service. -/
def Msg (s : State) (type : Nat) (m : RollIn) : Prop := s.live = true ∧ (s.takeRoll type).2 = some m

/-- The message comes from the node's own coordinator group. -/
def FromOwn (s : State) (type : Nat) (m : RollIn) : Prop := Msg s type m ∧ m.coord = true ∧ m.dom = s.rd ZFB_DOM_CFG_DOMAIN

/-- An answer of this type and body stands alone in the queue of port q, where that queue was empty and the port passes it. -/
def Answered (s t : State) (q type : Nat) (body : Bytes) : Prop :=
  ∀ z, s.zfb.ports[q]? = some z → z.q = [] → s.rd (ZFB_PORT_STATE q) = 1 ∨ s.rd (ZFB_PORT_STATE q) = 2 →
    ∃ f, (t.zport q).q = [f] ∧ f.hdr.cls = rollCls type ∧ f.hdr.aux = type ∧ f.words.drop 1 = payWords body

/-- Only the fabric's registers, its state and the counters have changed; random bytes may have been drawn. -/
def FabOnly (s t : State) : Prop := OnlyBlock 9 s t ∧ t = { s.like t with zfb := t.zfb, pmc := t.pmc, free := t.free }

/-- Entry n of the routing table reads as this pending word. -/
def RtShows (t : State) (n w : Nat) : Prop :=
  t.rd (ZFB_RT_LO n) = bits w 0 18 ∧ t.rd (ZFB_RT_HI n) = bits w 20 18 ∧ t.rd (ZFB_RT_VALID n) = bits w 38 1 ∧
    t.rd (ZFB_RT_STBY n) = bits w 39 1

/-- Roll call at a node: the answer to each message, and activation. A message that is not from the coordinator group, or,
of those that only the node's own coordinator sends, from another domain's, is taken and changes nothing more. PROBE
is answered with PRESENT out of the port it came by, and a probe of the node's own domain leaves a pending state of
its generation. CHAL is answered with DENY 2 where the generation is old, with the node's proof where the
coordinator's stands under the device key, and otherwise with DENY 1, AUTH_FAIL and a count. so is a challenge from
across a boundary link, under what its own probe left. ASSIGN puts ID, domain and UP into the pending state of a node
whose coordinator has proven itself, or of a group member, and is ignored elsewhere; TABLE puts its entries there, or
is refused with status 1 beyond 64 entries and 5 on an overlap, with BAD_ENTRY; each is acknowledged, and so is OPEN,
which opens a RESTRICTED port and ends its wrap. ROLL_DONE of the pending generation records the activation instant,
once. Activation, once its instant has come, makes the pending ID, domain, generation, tables and port roles active
together, and clears the pending state. Where the rules leave a point open, the model's reading of it is in
notes/assumptions/16.md. -/
def Obligations.RollCallGivesANodeItsTables : Prop :=
  (∀ (type : Nat) (c : Instr) (m : RollIn) (s : State),
    (type, c) ∈ [(1, Instr.rollProbe), (3, .authChal), (6, .rollAssign), (7, .rollTable), (9, .rollDone), (10, .portOpen)] →
    Msg s type m → m.coord = false ∨ (6 ≤ type ∧ m.dom ≠ s.rd ZFB_DOM_CFG_DOMAIN) →
    exec c s = .next { s with zfb := { s.zfb with deliv := none } }) ∧
  (∀ (m : RollIn) (s : State), Msg s 1 m → m.coord = true →
    ∃ t cN, exec .rollProbe s = .next t ∧ FabOnly s t ∧ t.zfb.deliv = none ∧ cN.length = 16 ∧
      (field m.body 2 1 = s.rd ZFB_DOM_CFG_DOMAIN → ∃ p, t.zfb.pend = some p ∧ p.gen = field m.body 0 2 ∧ p.cN = cN) ∧
      (field m.body 2 1 ≠ s.rd ZFB_DOM_CFG_DOMAIN → t.zfb.pend = s.zfb.pend ∧
        ∃ p, t.zfb.foreign = some p ∧ p.gen = field m.body 0 2 ∧ p.dom = field m.body 2 1 ∧ p.cN = cN) ∧
      Answered s t m.port 2 (bytesOf 8 Config.uid.toNat ++ bytesOf 1 (s.rd ZFB_DOM_CFG_DOMAIN) ++ bytesOf 1 s.start.setting ++
        bytesOf 1 s.start.half ++ bytesOf 1 (s.rd PRD_STATUS_POS) ++ bytesOf 1 m.port ++ bytesOf 3 (s.rd ZFB_ID_NODE_ID) ++
        bytesOf 2 (s.rd ZFB_STATUS_GEN) ++ cN)) ∧
  (∀ (m : RollIn) (p : RollPend) (s : State), FromOwn s 3 m → s.zfb.pend = some p →
    (s.genOld p.gen = true → ∃ t, exec .authChal s = .next t ∧ FabOnly s t ∧ t.zfb.pend = some p ∧ Answered s t m.port 5 [2]) ∧
    (∀ key id, s.genOld p.gen = false → s.mbx.devKey = some key → chalOk p (slice m.body 16 32) key = some id →
      ∃ t, exec .authChal s = .next t ∧ FabOnly s t ∧ t.zfb.pend = some { p with proven := true } ∧
        t.rd ZFB_CNT_AUTH_FAIL_CNT = s.rd ZFB_CNT_AUTH_FAIL_CNT ∧
        Answered s t m.port 4 (hmac key (proofMsg 0x4A (slice m.body 0 16) Config.uid p.coord p.dom p.gen id))) ∧
    (s.genOld p.gen = false → (∀ key, s.mbx.devKey = some key → chalOk p (slice m.body 16 32) key = none) →
      ∃ t, exec .authChal s = .next t ∧ FabOnly s t ∧ t.zfb.pend = some p ∧ t.rd ZFB_ERR_AUTH_FAIL = 1 ∧
        t.rd ZFB_CNT_AUTH_FAIL_CNT = min (s.rd ZFB_CNT_AUTH_FAIL_CNT + 1) 65535 ∧ Answered s t m.port 5 [1])) ∧
  (∀ (m : RollIn) (p : RollPend) (key : Bytes) (id : Nat) (s : State), Msg s 3 m → m.coord = true → m.dom ≠ s.rd ZFB_DOM_CFG_DOMAIN →
    s.zfb.foreign = some p → s.mbx.devKey = some key → chalOk p (slice m.body 16 32) key = some id →
    ∃ t, exec .authChal s = .next t ∧ FabOnly s t ∧ t.zfb.pend = s.zfb.pend ∧
      Answered s t m.port 4 (hmac key (proofMsg 0x4A (slice m.body 0 16) Config.uid p.coord p.dom p.gen id))) ∧
  (∀ (m : RollIn) (p : RollPend) (s : State), FromOwn s 6 m → s.zfb.pend = some p →
    (p.proven = true ∨ s.start.setting ≠ 0 → ∃ t, exec .rollAssign s = .next t ∧ FabOnly s t ∧ Answered s t m.port 8 [6, 0] ∧
      t.zfb.pend = some { p with id := some (field m.body 0 3), dom := field m.body 3 1, up := field m.body 4 1 }) ∧
    (p.proven = false → s.start.setting = 0 → exec .rollAssign s = .next { s with zfb := { s.zfb with deliv := none } })) ∧
  (∀ (m : RollIn) (p : RollPend) (s : State), FromOwn s 7 m → s.zfb.pend = some p →
    (64 < field m.body 1 1 + field m.body 2 1 ∨ m.body.length < 9 + 8 * field m.body 2 1 → ∃ t, exec .rollTable s = .next t ∧ FabOnly s t ∧ t.zfb.pend = some p ∧
      t.rd ZFB_ERR_BAD_ENTRY = 1 ∧ Answered s t m.port 8 [7, 1]) ∧
    ((pendTable p m.body).2 = 5 → ∃ t, exec .rollTable s = .next t ∧ FabOnly s t ∧ t.zfb.pend = some p ∧
      t.rd ZFB_ERR_BAD_ENTRY = 1 ∧ Answered s t m.port 8 [7, 5]) ∧
    ((pendTable p m.body).2 = 0 → ∃ t p', exec .rollTable s = .next t ∧ FabOnly s t ∧ t.zfb.pend = some p' ∧
      p' = { p with table := p'.table, route := field m.body 3 4, rate := p'.rate } ∧ tableOverlap p'.table = false ∧
      (∀ i < field m.body 2 1, (64 * (field m.body 0 1 % 4) + (field m.body 1 1 + i), field m.body (9 + 8 * i) 8) ∈ p'.table) ∧
      t.rd ZFB_ERR_BAD_ENTRY = s.rd ZFB_ERR_BAD_ENTRY ∧ Answered s t m.port 8 [7, 0])) ∧
  (∀ (m : RollIn) (p : Fin 4) (s : State), FromOwn s 10 m → p.val = field m.body 0 1 % 4 →
    s.rd (ZFB_PORT_STATE p) = 1 → ∃ t, exec .portOpen s = .next t ∧ FabOnly s t ∧ t.rd (ZFB_PORT_STATE p) = 2 ∧
      t.rd (ZFB_PORT_WRAP p) = 0 ∧ Answered s t m.port 8 [10, 0]) ∧
  (∀ (m : RollIn) (p : RollPend) (s : State), FromOwn s 9 m → s.zfb.pend = some p →
    (p.gen = field m.body 0 2 → p.act = none → ∃ t, exec .rollDone s = .next t ∧ FabOnly s t ∧
      t.zfb.pend = some { p with act := some (field m.body 2 8) }) ∧
    (p.gen ≠ field m.body 0 2 ∨ p.act ≠ none → exec .rollDone s = .next { s with zfb := { s.zfb with deliv := none } })) ∧
  (∀ (p : RollPend) (i : Nat) (s : State), s.live = true → s.zfb.pend = some p → p.act = some i → i ≤ s.now → (∀ e ∈ p.table, e.1 < 256) →
    ∃ t, exec .rollActivation s = .next t ∧ FabOnly s t ∧ t.zfb.pend = none ∧ t.zfb.run = none ∧
      t.rd ZFB_ID_NODE_ID = p.id.getD 0 % 2 ^ 18 ∧ t.rd ZFB_ID_DOMAIN = p.dom % 256 ∧ t.rd ZFB_STATUS_GEN = p.gen % 65536 ∧
      t.rd ZFB_STATUS_ASSIGNED = b2n (p.id.getD 0 ≠ 0) ∧ t.rd ZFB_STATUS_REVERSED = 0 ∧ t.rd ZFB_ROUTE_CFG_UP = bits p.route 0 3 ∧
      (∀ q : Fin 4, t.rd (ZFB_PORT_ROLE q) = s.pendRole p q % 4) ∧
      (∀ n : Fin 256, (∀ e ∈ p.table, e.1 ≠ n.val) → RtShows t n 0) ∧
      ((p.table.map Prod.fst).Nodup → ∀ e ∈ p.table, RtShows t e.1 e.2)) ∧
  (∀ (p : RollPend) (s : State), s.zfb.pend = some p → (∀ i, p.act = some i → s.now < i) → exec .rollActivation s = .next s)

/-- A run has begun (R252 step 1). -/
def RunBegun (s t : State) : Prop :=
  t.rd ZFB_STATUS_ROLL_RUN = 1 ∧ t.zfb.gen = (s.zfb.gen + 1) % 2 ^ 16 ∧ t.zfb.again = none ∧ FabOnly s t ∧
    (∃ r, t.zfb.run = some r ∧ r.gen = t.zfb.gen ∧ r.phase = .probing ∧ r.nodes = s.groupNodes ∧ r.todo ≠ []) ∧
    ∃ p, t.zfb.pend = some p ∧ p.gen = t.zfb.gen ∧ p.act = none

/-- The run r is at the port (k, p), with `rest` after it, nobody being authenticated. -/
def ProbingAt (s : State) (r : RollRun) (x : Nat × Nat) (rest : List (Nat × Nat)) : Prop :=
  s.zfb.run = some r ∧ r.phase = .probing ∧ r.auth = none ∧ r.todo = x :: rest

/-- The run is asking the module a for its proof, at the port x. -/
def AskingAt (s : State) (r : RollRun) (a : RollAuth) (x : Nat × Nat) (rest : List (Nat × Nat)) : Prop :=
  s.zfb.run = some r ∧ r.auth = some a ∧ r.todo = x :: rest

/-- A failure of R250 was counted, and the run probes the port again. -/
def FailedOnce (s t : State) (r : RollRun) : Prop :=
  t.zfb.run = some { r with fails := r.fails + 1, auth := none, tries := 0 } ∧ t.rd ZFB_ERR_AUTH_FAIL = 1 ∧
    t.rd ZFB_CNT_AUTH_FAIL_CNT = min (s.rd ZFB_CNT_AUTH_FAIL_CNT + 1) 65535 ∧ FabOnly s t

/-- Roll call at the coordinator: a run, its probes, its authentications and its end. A run is refused with OUTCOME 3
without TOKEN or while one is under way; otherwise it begins, probing, under the next generation, half 2 leaving it to
half 1; a restart begins one only 1 s after an aborted run. A timeout retries a probe and after three leaves the port.
PRESENT is taken from the port probed now, and one of another group member tells its UID. One of a UID found already
records a spare link; of a new node of the domain with a key it sends a challenge under the next free ID. A good
ANSWER adds the node under the ID offered, or, from another domain, the boundary link; a bad one, or DENY, is counted
with AUTH_FAIL. An ACK with an error ends the run with that outcome; the last good one starts the flood, another is
taken off the list. LINK_UP aborts a run, and between runs the node is probed to rejoin. Where the rules leave a point
open, the model's reading of it is in notes/assumptions/16.md. -/
def Obligations.TheCoordinatorRunsRollCall : Prop :=
  (∀ s : State, s.live = true →
    (s.holds = false ∨ s.zfb.run.isSome = true → exec .zfbRollStart s = .next (s.wr ZFB_ROLL_RES_OUTCOME 3)) ∧
    (s.holds = true → s.zfb.run = none → s.half2 = false → (∃ t, exec .zfbRollStart s = .next t ∧ RunBegun s t) ∧
      (∀ at_, s.zfb.again = some at_ → at_ + 250000000 ≤ s.ticks → ∃ t, exec .rollCallRestart s = .next t ∧ RunBegun s t)) ∧
    (s.holds = true → s.zfb.run = none → s.half2 = true →
      exec .zfbRollStart s = .next { s with mir := { s.mir with dlOut := s.mir.dlOut ++ [.rollStart] } }) ∧
    ((∀ at_, s.zfb.again = some at_ → s.ticks < at_ + 250000000) → exec .rollCallRestart s = .next s)) ∧
  (∀ (r : RollRun) (x y : Nat × Nat) (rest : List (Nat × Nat)) (s : State), s.live = true →
    (ProbingAt s r x rest → r.tries < 2 → ∃ t, exec .probeTimeout s = .next t ∧ FabOnly s t ∧
      t.zfb.run = some { r with tries := r.tries + 1 }) ∧
    (ProbingAt s r x (y :: rest) → 2 ≤ r.tries → ∃ t, exec .probeTimeout s = .next t ∧ FabOnly s t ∧
      t.zfb.run = some { r with todo := y :: rest, tries := 0, fails := 0 })) ∧
  (∀ (id port : Nat) (s : State), s.live = true → s.zfb.run = none → s.zfb.rejoin = some (id, port) →
    (s.zfb.rejTries < 2 → ∃ t, exec .probeTimeout s = .next t ∧ FabOnly s t ∧ t.zfb.rejTries = s.zfb.rejTries + 1) ∧
    (2 ≤ s.zfb.rejTries → exec .probeTimeout s = .next { s with zfb := { s.zfb with rejoin := none } })) ∧
  (∀ (m : RollIn) (r : RollRun) (x y : Nat × Nat) (rest : List (Nat × Nat)) (e me : RollNode) (s : State), Msg s 2 m →
    s.holds = true → r.nodes[x.1]? = some me → m.back = me.path ++ [x.2] →
    (∀ n ∈ r.nodes, n.level = 0 → n.path ≠ m.back) →
    (ProbingAt s r x (y :: rest) → (r.nodes.find? fun e => e.uid = (presentOf m.body).uid) = some e →
      ∃ t, exec .rollPresent s = .next t ∧ FabOnly s t ∧ t.zfb.run = some { r with todo := y :: rest, tries := 0, fails := 0
                                                                                   links := r.links ++
          [{ node := me.id, port := x.2, kind := .spare e.id (presentOf m.body).arr }] }) ∧
    (∀ key, ProbingAt s r x rest → (r.nodes.find? fun e => e.uid = (presentOf m.body).uid) = none →
      (presentOf m.body).dom = s.rd ZFB_DOM_CFG_DOMAIN → (presentOf m.body).role = 0 →
      s.nextId r < s.cid + s.rd ZFB_DOM_CFG_ID_COUNT → s.nextId r ≤ 0x3FFFE → s.keyOf (presentOf m.body).uid = some key →
      ∃ t a, exec .rollPresent s = .next t ∧ FabOnly s t ∧ t.zfb.run = some { r with auth := some a } ∧
        a.pres = presentOf m.body ∧ a.offer = s.nextId r ∧ a.cC.length = 16)) ∧
  (∀ (m : RollIn) (r : RollRun) (s : State), Msg s 2 m → s.holds = true → s.zfb.run = some r →
    (∃ n ∈ r.nodes, n.level = 0 ∧ n.path = m.back) →
    exec .rollPresent s = .next { s with zfb := { s.zfb with deliv := none, run := some { r with nodes := r.nodes.map fun n =>
      if n.level = 0 ∧ n.path = m.back then { n with uid := (presentOf m.body).uid } else n } } }) ∧
  (∀ (m : RollIn) (r : RollRun) (a : RollAuth) (x y : Nat × Nat) (rest : List (Nat × Nat)) (s : State), Msg s 4 m → m.back = r.front →
    (AskingAt s r a x (y :: rest) → s.answerOk a r.gen (slice m.body 0 32) = true → a.pres.dom = s.rd ZFB_DOM_CFG_DOMAIN →
      ∃ t n, exec .authAnswer s = .next t ∧ FabOnly s t ∧ n.id = a.offer ∧ n.uid = a.pres.uid ∧ n.parent = x.1 ∧ n.pport = x.2 ∧
        n.level = r.level + 1 ∧
        t.zfb.run = some { r with todo := y :: rest, nodes := r.nodes ++ [n], tries := 0, fails := 0, auth := none }) ∧
    (∀ me, AskingAt s r a x (y :: rest) → s.answerOk a r.gen (slice m.body 0 32) = true → a.pres.dom ≠ s.rd ZFB_DOM_CFG_DOMAIN →
      r.nodes[x.1]? = some me → ∃ t, exec .authAnswer s = .next t ∧ FabOnly s t ∧ t.zfb.run = some { r with
        todo := y :: rest, links := r.links ++ [{ node := me.id, port := x.2, kind := .boundary }], tries := 0, fails := 0, auth := none }) ∧
    (AskingAt s r a x rest → s.answerOk a r.gen (slice m.body 0 32) = false → r.fails < 2 →
      ∃ t, exec .authAnswer s = .next t ∧ FailedOnce s t r)) ∧
  (∀ (m : RollIn) (r : RollRun) (a : RollAuth) (x : Nat × Nat) (rest : List (Nat × Nat)) (s : State), Msg s 5 m → m.back = r.front →
    AskingAt s r a x rest → r.fails < 2 → ∃ t, exec .authDeny s = .next t ∧ FailedOnce s t r) ∧
  (∀ (m : RollIn) (r : RollRun) (k : Nat) (s : State), Msg s 8 m → s.zfb.run = some r → r.phase = .tables →
    (r.nodes.findIdx? fun e => e.path = m.back) = some k →
    (field m.body 1 1 ≠ 0 → ∃ t, exec .rollAck s = .next t ∧ t.rd ZFB_ROLL_RES_OUTCOME = field m.body 1 1 ∧
      t.rd ZFB_STATUS_ROLL_RUN = 0 ∧ t.zfb.run = none ∧ t.zfb.pend = none ∧
      RegsBut [ZFB_ROLL_RES_OUTCOME, ZFB_STATUS_ROLL_RUN] s t ∧ t = { s.like t with zfb := t.zfb }) ∧
    (field m.body 1 1 = 0 → r.wait.erase (k, field m.body 0 1) ≠ [] → exec .rollAck s = .next { s with zfb := { s.zfb with
      deliv := none, run := some { r with wait := r.wait.erase (k, field m.body 0 1) } } }) ∧
    (field m.body 1 1 = 0 → r.wait.erase (k, field m.body 0 1) = [] → ∃ t, exec .rollAck s = .next t ∧ FabOnly s t ∧
      t.zfb.run = some { r with wait := [], phase := .flooding })) ∧
  (∀ (p : Nat) (f : ZFrame) (s : State), s.live = true → s.holds = true → s.zfb.deliv = some (p, f) → f.hdr.cls = 7 → f.hdr.aux = 2 →
    s.on ZFB_STATUS_GROUP = true →
    (s.zfb.run.isSome = true → ∃ t, exec .eventLinkUp s = .next t ∧ FabOnly s t ∧ t.rd ZFB_ROLL_RES_OUTCOME = 6 ∧
      t.zfb.run = none ∧ t.zfb.pend = none ∧ t.zfb.again = some s.ticks) ∧
    (s.zfb.run = none → ∃ t, exec .eventLinkUp s = .next t ∧ FabOnly s t ∧ t.zfb.rejTries = 0 ∧
      t.zfb.rejoin = some (bits (firstWord f) 0 18, bits (firstWord f) 18 2)))

/-- The bindings and stations of the active set stand within their ranges (R337). -/
def RuntimeBound (s : State) : Prop :=
  s.stnDescs.length ≤ 64 ∧ ∀ g ∈ s.sigs, (g.kind = 2 → g.bind < 1024) ∧ (g.kind = 3 → bits g.bind 8 16 < 128) ∧ (g.kind = 7 → g.bind2 < 64)

/-- Task n, which was x, is released as instance j at instant r; nothing but its record, its INST and LATCHED has changed. -/
def Released (s t : State) (n : Fin 32) (d : TaskDesc) (x : CrtTask) (j r : Nat) : Prop :=
  t.ctask n = { x with d := some d, rel := some r, prog := true, copied := false, ready := false, j := j, step := false } ∧
    t.rd (CRT_TASK_STAT_INST n) = (s.rd (CRT_TASK_STAT_INST n) + 1) % 65536 ∧ (∀ k, k ≠ n.val → t.ctask k = s.ctask k) ∧
    t.crt.evts = s.crt.evts ∧
    RegsBut (CRT_TASK_STAT_LATCHED n :: CRT_TASK_STAT_INST n :: countFields) s t ∧ t = { s.like t with crt := t.crt, pmc := t.pmc }

/-- An event may release the task now. -/
def Idle (s : State) (n : Fin 32) (d : TaskDesc) : Prop := s.taskFree n = true ∧ s.sepOver n d = true

/-- The state with an event of task n taken up. -/
def noted (s : State) (n : Fin 32) : State := { s with crt := { s.crt with evts := s.crt.evts.erase n.val } }

/-- Instance `x` of task n, released from descriptor d, stands in state s. -/
def Instance (s : State) (n : Fin 32) (d : TaskDesc) (x : CrtTask) : Prop :=
  s.live = true ∧ s.crt.tasks[n.val]? = some x ∧ x.d = some d

/-- What an input signal gives a copy (R338, R344). -/
def copyValue (s : State) (g : Sig) (j : Nat) : Nat :=
  if g.cls = 1 then (s.forceOf g.id).getD (s.readSig g j).1 else (s.readSig g j).1

/-- A task whose instance is complete, with its output image. -/
def finished (x : CrtTask) (d : TaskDesc) (outs : List (BitVec 64)) : CrtTask :=
  { x with prog := false, ready := true, out := (List.range d.outs.length).map fun i => (outs.getD i 0).toNat }

/-- The cyclic runtime: releases, input copies, completion and output instants. At R_j a cyclic task that may run and has
no instance under way is released once, under its cycle number; an event that has occurred releases an idle event task
whose MIN_SEP is over, is latched while it is busy, and is lost with EVT_LOST where one is latched already; a latched
event releases its task once it may. The input copy of a released task, from its instant on, takes the value of every
input, a force in its place, and its own instant. The end of the instance that its core runs keeps the output image
and the longest response. At the output instant a complete instance drives its outputs, a force in their place; one of
a running controller's running task that is not complete is an overrun: OVERRUN is set, logged and counted, every task
is dropped, and the controller goes to FAULT; one of a stopped controller or task ends without outputs. Elsewhere
nothing happens. Where the rules leave a point open, the model's reading of it is in notes/assumptions/24.md. -/
def Obligations.TasksAreReleasedCopiedAndCompleted : Prop :=
  (∀ (n : Fin 32) (d : TaskDesc) (x : CrtTask) (s : State), s.live = true → s.desc n = some d → s.crt.tasks[n.val]? = some x →
    (∀ j, s.cycleOf d = some j → s.releaseDue n d j = true →
      ∃ t, exec (.taskRelease n) s = .next t ∧ Released s t n d x j (s.releaseAt d j)) ∧
    ((∀ j, s.cycleOf d = some j → s.releaseDue n d j = false) → exec (.taskRelease n) s = .next s)) ∧
  (∀ (n : Fin 32) (d : TaskDesc) (x : CrtTask) (s : State), s.live = true → s.desc n = some d → d.kind = 1 →
    s.crt.tasks[n.val]? = some x →
    (s.crt.evts.contains n.val = true → s.mayRelease n d = true →
      (s.rd (CRT_TASK_STAT_LATCHED n) = 0 → Idle s n d →
        ∃ t, exec (.eventRelease n) s = .next t ∧ Released (noted s n) t n d x (x.j + 1) s.now) ∧
      (s.rd (CRT_TASK_STAT_LATCHED n) = 0 → ¬ Idle s n d →
        exec (.eventRelease n) s = .next ((noted s n).wr (CRT_TASK_STAT_LATCHED n) 1)) ∧
      (s.rd (CRT_TASK_STAT_LATCHED n) ≠ 0 → ∃ t, exec (.eventRelease n) s = .next t ∧ t.rd CRT_ERR_EVT_LOST = 1 ∧
        t.rd CRT_CNT_EVT_LOST_CNT = min (s.rd CRT_CNT_EVT_LOST_CNT + 1) 65535 ∧
        RegsBut [CRT_ERR_EVT_LOST, CRT_CNT_EVT_LOST_CNT] s t ∧ t = (noted s n).like t)) ∧
    (s.crt.evts.contains n.val = true → s.mayRelease n d = false → exec (.eventRelease n) s = .next (noted s n)) ∧
    (s.crt.evts.contains n.val = false → exec (.eventRelease n) s = .next s) ∧
    (s.mayRelease n d = true → s.rd (CRT_TASK_STAT_LATCHED n) ≠ 0 → Idle s n d → ∃ t, exec (.latchedEventRelease n) s = .next t ∧
      Released s t n d x (x.j + 1) s.now ∧ t.rd (CRT_TASK_STAT_LATCHED n) = 0) ∧
    (s.mayRelease n d = false ∨ s.rd (CRT_TASK_STAT_LATCHED n) = 0 ∨ ¬ Idle s n d → exec (.latchedEventRelease n) s = .next s)) ∧
  (∀ (n : Fin 32) (d : TaskDesc) (x : CrtTask) (s : State), Instance s n d x →
    (x.prog = true → x.copied = false → s.instAt n d.inOff ≤ s.now → (∀ e ∈ s.stnDescs, e.task ≠ n.val) →
      ∃ t y, exec (.inputCopy n) s = .next t ∧ t.ctask n = y ∧ y.copied = true ∧ y.inAt = s.now ∧ y.j = x.j ∧ y.d = x.d ∧
        y.img = (d.ins.filterMap s.sig).map (fun g => copyValue s g x.j) ∧
        y.qual = (d.ins.filterMap s.sig).map (fun g => (s.readSig g x.j).2) ∧ t = { s.like t with crt := t.crt }) ∧
    (x.prog = false ∨ x.copied = true ∨ s.now < s.instAt n d.inOff → exec (.inputCopy n) s = .next s)) ∧
  (∀ (n : Fin 32) (outs : List (BitVec 64)) (ints : List (BitVec 32 × BitVec 64)) (d : TaskDesc) (x : CrtTask) (s : State),
    Instance s n d x →
    (s.coreRuns d.core = some n.val → s.rd (CRT_TASK_STAT_LATCHED n) = 0 →
      ∃ t, exec (.instanceComplete n outs ints) s = .next t ∧ t.ctask n = finished x d outs ∧
        t.rd (CRT_TASK_STAT_RESP n) = max (s.rd (CRT_TASK_STAT_RESP n)) (min ((s.now - x.inAt) / 1000) 65535) % 65536 ∧
        RegsBut [CRT_TASK_STAT_RESP n] s t ∧ t = { s.like t with crt := t.crt }) ∧
    (s.coreRuns d.core ≠ some n.val → exec (.instanceComplete n outs ints) s = .next s)) ∧
  (∀ (n : Fin 32) (d : TaskDesc) (x : CrtTask) (s : State), Instance s n d x →
    (s.now < s.instAt n d.outOff ∨ (x.prog = false ∧ x.ready = false) → exec (.outputInstant n) s = .next s) ∧
    (s.instAt n d.outOff ≤ s.now → x.prog = true →
      (s.rd CRT_STATUS_STATE = 1 → s.rd (CRT_TASK_STAT_STATE n) = 1 → RuntimeBound s → s.rd CRT_CTRL_OVR_RELEASE = 0 →
        ∃ t, exec (.outputInstant n) s = .next t ∧ t.rd CRT_STATUS_STATE = 2 ∧ t.rd CRT_CTRL_RUN = 0 ∧ t.rd CRT_ERR_OVERRUN = 1 ∧
          t.rd CRT_OVR_TASK = n ∧ t.rd CRT_OVR_T = s.instAt n d.outOff % 2 ^ 32 ∧
          t.rd CRT_CNT_OVR_CNT = min (s.rd CRT_CNT_OVR_CNT + 1) 65535 ∧
          t.crt.ovrs = s.crt.ovrs + 1 ∧ ∀ y ∈ t.crt.tasks, y.prog = false ∧ y.copied = false ∧ y.ready = false) ∧
      (s.rd CRT_STATUS_STATE ≠ 1 ∨ s.rd (CRT_TASK_STAT_STATE n) ≠ 1 → x.ready = false → s.stopSafe n = false →
        ∃ t, exec (.outputInstant n) s = .next t ∧ t.ctask n = { x with prog := false, copied := false } ∧ t = { s with crt := t.crt })) ∧
    (∀ g v c, s.instAt n d.outOff ≤ s.now → x.prog = false → x.ready = true → s.stopSafe n = false → d.outs = [g.id] →
      s.sig g.id = some g → g.cls = 2 → g.kind = 1 → g.bind = 16 + c → x.out = [v] → (∀ e ∈ s.stnDescs, e.task ≠ n.val) →
      ∃ t, exec (.outputInstant n) s = .next t ∧ t.ctask n = { x with copied := false, ready := false } ∧
        t.sigVal g = ((s.forceOf g.id).getD (normVal g.typ v), 0) ∧
        t.fio.rtOut.testBit c = (((s.forceOf g.id).getD (normVal g.typ v)).testBit 0) ∧
        (∀ m, m ≠ c → t.fio.rtOut.testBit m = s.fio.rtOut.testBit m) ∧ t = { s with crt := t.crt, fio := t.fio }))

/-- The registers that show the controller's state. -/
def crtShown : List Fld := [CRT_STATUS_STATE, CRT_STATUS_FORCED, CRT_STATUS_N_FORCE, CRT_STATUS_HOLD_ANY, CRT_CTRL_RUN]

/-- The runtime refused a command: CMD_REJ, nothing else. -/
def CrtRefused (c : Instr) (s : State) : Prop := exec c s = .next (s.wr CRT_ERR_CMD_REJ 1)

/-- The cyclic runtime: controller commands, items, stations. RUN starts a stopped controller with an image 100 µs ahead
and keeps only retained signals; STOP stops a running one; RESET takes FAULT to STOPPED; elsewhere each is refused
with CMD_REJ. STN_ACK takes the READY stations of its mask to ONLINE, and sets CMD_REJ and changes nothing else where
one is not READY. A power set-point item is kept for its target; a SIGNAL_WRITE item is queued for a signal of
BIND_KIND 5, else SIG_REJ. A station sends its exported inputs to its master. The master keeps a station's frame; a
LOST station becomes READY, an ONLINE one that reports WDT_FIRED becomes LOST. A station holds its master's output
frame to the apply instant, unless that has passed; without one it counts a miss and fires its watchdog at ST_WDT.
LINK_DOWN makes the ONLINE stations behind the port LOST. Where the rules leave a point open, the model's reading of
it is in notes/assumptions/24.md. -/
def Obligations.TheRuntimeObeysItsCommandsAndStations : Prop :=
  (∀ s : State, s.live = true →
    (s.crtOn = true → s.rd CRT_STATUS_STATE = 0 → s.rd CRT_STATUS_IMAGE_OK ≠ 0 →
      ∃ t, exec (.crtRunWrite true) s = .next t ∧ t.rd CRT_STATUS_STATE = 1 ∧ t.rd CRT_CTRL_RUN = 1 ∧
        (∀ x ∈ t.crt.tasks, x.start = s.now + 100000 ∧ x.prog = false ∧ x.copied = false ∧ x.ready = false ∧ x.rel = none) ∧
        (∀ e, e ∈ t.crt.vals ↔ e ∈ s.crt.vals ∧ ∃ g ∈ s.sigs, g.cls = 3 ∧ g.id = e.1) ∧
        RegsBut (crtShown ++ logFields) s t ∧ t = { s.like t with crt := t.crt }) ∧
    (s.crtOn = false ∨ s.rd CRT_STATUS_STATE ≠ 0 ∨ s.rd CRT_STATUS_IMAGE_OK = 0 → CrtRefused (.crtRunWrite true) s) ∧
    (s.rd CRT_STATUS_STATE = 1 → RuntimeBound s →
      ∃ t, exec (.crtRunWrite false) s = .next t ∧ t.rd CRT_STATUS_STATE = 0 ∧ t.rd CRT_CTRL_RUN = 0 ∧
        (s.rd CRT_CTRL_STOP_SAFE = 0 → RegsBut (crtShown ++ logFields) s t ∧ t = s.like t)) ∧
    (s.rd CRT_STATUS_STATE ≠ 1 → CrtRefused (.crtRunWrite false) s) ∧
    (s.rd CRT_STATUS_STATE = 2 → ∃ t, exec .crtResetWrite s = .next t ∧ t.rd CRT_STATUS_STATE = 0 ∧
      RegsBut (crtShown ++ logFields) s t ∧ t = s.like t) ∧
    (s.rd CRT_STATUS_STATE ≠ 2 → CrtRefused .crtResetWrite s)) ∧
  (∀ (m : BitVec 64) (s : State), s.live = true →
    ((∀ k : Fin 64, m.toNat.testBit k = true → s.rd (CRT_STN_STAT_STATE k) = 3) →
      ∃ t, exec (.crtStnAckWrite m) s = .next t ∧
        (∀ k : Fin 64, t.rd (CRT_STN_STAT_STATE k) = if m.toNat.testBit k then 1 else s.rd (CRT_STN_STAT_STATE k)) ∧
        RegsBut ((List.range 64).map CRT_STN_STAT_STATE ++ logFields) s t ∧ t = { s.like t with crt := t.crt }) ∧
    ((∃ k : Fin 64, m.toNat.testBit k = true ∧ s.rd (CRT_STN_STAT_STATE k) ≠ 3) → CrtRefused (.crtStnAckWrite m) s)) ∧
  (∀ (src : Nat) (i : CmdItem) (s : State), s.live = true →
    ((s.zfb.handed.find? fun e => e.2.op = 1) = some (src, i) → ∃ t, exec .powerSetpoint s = .next t ∧
      (aGet i.target t.crt.power).getD (2 ^ 64) = i.value ∧ t.zfb.handed = s.zfb.handed.erase (src, i) ∧
      (s.ownDispatch = false → t = { s with crt := { s.crt with power := t.crt.power }, zfb := { s.zfb with handed := t.zfb.handed } })) ∧
    ((s.zfb.handed.find? fun e => e.2.op = 2) = some (src, i) →
      (∀ g, s.sig i.target = some g → g.kind = 5 → ∃ t, exec .signalWrite s = .next t ∧
        t.crt.writes = s.crt.writes ++ [{ id := g.id, effect := i.effect, seq := i.seq, value := i.value }] ∧
        t.zfb = { s.zfb with handed := s.zfb.handed.erase (src, i) } ∧
        t = { s with crt := t.crt, zfb := t.zfb }) ∧
      ((∀ g, s.sig i.target = some g → g.kind ≠ 5) → ∃ t, exec .signalWrite s = .next t ∧ t.rd CRT_ERR_SIG_REJ = 1 ∧
        t.rd CRT_CNT_SIG_REJ_CNT = min (s.rd CRT_CNT_SIG_REJ_CNT + 1) 65535 ∧ t.crt = s.crt ∧
        t.zfb = { s.zfb with handed := s.zfb.handed.erase (src, i) } ∧ RegsBut [CRT_ERR_SIG_REJ, CRT_CNT_SIG_REJ_CNT] s t ∧
        t = { s.like t with zfb := t.zfb }))) ∧
  (∀ (cycle rj : BitVec 32) (s : State), s.live = true →
    (s.exported false = [] ∨ s.start.phase ≠ .running → exec (.stationInputSend cycle rj) s = .next s) ∧
    (s.exported false ≠ [] → s.start.phase = .running → ∃ t, exec (.stationInputSend cycle rj) s = .next t ∧
      t.zfb.seq = modAt s.zfb.seq 8 (fun n => (n + 1) % 2 ^ 16) ∧
      ((s.on ZFB_STATUS_ASSIGNED = true → s.stnMaster % 2 ^ 18 ≠ s.rd ZFB_ID_NODE_ID) →
        (s.on ZFB_STATUS_GROUP = true → s.stnMaster % 2 ^ 18 ≠ s.cid) → FabricOnly s t))) ∧
  (∀ (src flags cycle at32 : Nat) (vals : List Nat) (k : Fin 64) (d : StnDesc) (x : CrtStn) (s : State), s.live = true →
    (s.takeStn 1).2 = some (src, flags, cycle, at32, vals) → (s.stnDescs.zipIdx.find? fun e => e.1.node = src) = some (d, k.val) →
    s.crt.stns[k.val]? = some x →
    ∃ t, exec .stationInputFrame s = .next t ∧ (t.cstn k).vals = vals ∧ (t.cstn k).seen = some cycle ∧
      t.rd (CRT_STN_STAT_WDT k) = b2n (flags.testBit 2) ∧
      t.rd (CRT_STN_STAT_STATE k) = (if s.rd (CRT_STN_STAT_STATE k) = 1 ∧ flags.testBit 2 = true then 2
        else if s.rd (CRT_STN_STAT_STATE k) = 2 then 3 else s.rd (CRT_STN_STAT_STATE k)) ∧
      (s.rd (CRT_STN_STAT_STATE k) = 2 → t.rd (CRT_STN_STAT_MISS k) = 0) ∧
      RegsBut ([CRT_STN_STAT_WDT k, CRT_STN_STAT_STATE k, CRT_STN_STAT_MISS k, CRT_ERR_STN_LOST] ++ logFields) s t ∧
      t = { s.like t with crt := t.crt, zfb := { s.zfb with deliv := none } }) ∧
  (∀ (src flags cycle at32 : Nat) (vals : List Nat) (s : State), s.live = true → (s.takeStn 2).2 = some (src, flags, cycle, at32, vals) →
    (src = s.stnMaster → (s.crt.wdt = true → flags.testBit 1 = true) → diff32 at32 s.ns32 ≤ 0 →
      exec .stationOutputFrame s = .next { s with
        crt := { s.crt with held := some { at32 := at32, rejoin := flags.testBit 1, vals := vals } }
        zfb := { s.zfb with deliv := none } }) ∧
    (src ≠ s.stnMaster ∨ (s.crt.wdt = true ∧ flags.testBit 1 = false) ∨ 0 < diff32 at32 s.ns32 →
      exec .stationOutputFrame s = .next { s with zfb := { s.zfb with deliv := none } })) ∧
  (∀ s : State, s.live = true → s.exported true ≠ [] →
    (∀ h, s.crt.held = some h → 0 ≤ diff32 h.at32 s.ns32 → ∃ t, exec .stationApply s = .next t ∧ t.crt.held = none ∧ t.crt.miss = 0 ∧
      t.crt.wdt = (s.crt.wdt && !h.rejoin)) ∧
    (∀ h, s.crt.held = some h → diff32 h.at32 s.ns32 < 0 → exec .stationApply s = .next s) ∧
    (s.crt.held = none → ∃ t, exec .stationApply s = .next t ∧ t.crt.miss = s.crt.miss + 1 ∧
      t.crt.wdt = (s.crt.wdt || decide (s.stnWdt ≤ s.crt.miss + 1)))) ∧
  (∀ (p : Nat) (f : ZFrame) (s : State), s.live = true → s.zfb.deliv = some (p, f) → f.hdr.cls = 7 → f.hdr.aux = 1 →
    s.on ZFB_STATUS_GROUP = true → s.stnDescs.length ≤ 64 →
    ∃ t, exec .eventLinkDown s = .next t ∧ t.zfb = { s.zfb with deliv := none } ∧ OnlyBlock 12 s t ∧
      (∀ k : Fin 64, t.rd (CRT_STN_STAT_STATE k) = if s.holds = true ∧ s.rd (CRT_STN_STAT_STATE k) = 1 ∧
        (∃ d, s.stnDescs[k.val]? = some d ∧ s.onPath (bits (firstWord f) 0 18) (bits (firstWord f) 18 2) d.node = true) then 2
        else s.rd (CRT_STN_STAT_STATE k)) ∧ t = { s.like t with crt := t.crt, zfb := t.zfb })

/-- Only the field side has changed, to f. -/
def FieldTo (s t : State) (f : FieldSide) : Prop := t = { s with fio := { s.fio with field := f } }

/-- Bit n of a 16-channel image has become b, the others are as before. -/
def BitTo (old new : Nat) (n : Fin 16) (b : Bool) : Prop := new.testBit n = b ∧ ∀ m : Fin 16, m ≠ n → new.testBit m = old.testBit m

/-- A frame at the field side that is discarded leaves this. -/
def discarded (f : FieldSide) : FieldSide := if f.st = 0 then f else { f with discN := min (f.discN + 1) 3 }

/-- The latch of channel n is released by a frame with these commands (R355). -/
def latchFreed (f : FieldSide) (out : Nat) (n : Nat) : Bool :=
  (f.ovl.testBit n || f.ot.testBit n) && !f.restart n && out.testBit n && f.offSeen.testBit n

/-- The retry of channel n has held for OVL_T, after the 100 ms that an overload waits. -/
def RetryHeld (s : State) (n : Fin 16) : Prop :=
  s.fio.field.actFor n (s.fio.field.ovlT n + (if s.fio.field.ovl.testBit n then 25000000 else 0)) s.ticks = true

/-- The field side: frames, supply, inputs, overload, open wire and discrepancy. An accepted command frame sets SEQ, the
output image and the read-back, releases the latches of channels commanded off and on again, applies the outputs,
carries its operation and is answered; another frame is counted as discarded, or ignored in POR. A good synchronising
frame takes LINK_DOWN to ACTIVE with every output off; in ACTIVE it is noted. The answer goes with the field side's
state and a correct CRC, and clears POR, the discard count and the note. SILENCE without an accepted frame takes
ACTIVE to LINK_DOWN with every output off; a low supply turns every output off, a good one applies the image; power-on
reset forgets everything and puts the safety lanes at their start; a rising supply starts the field side. A level held
for DEB changes its input; an overload of OVL_T and over-temperature latch a channel and turn it off; a retry that
holds clears the latch, after 100 ms for an overload; open wire and discrepancy follow their conditions once those
have lasted their times, and earlier nothing happens. Where the rules leave a point open, the model's reading of it is
in notes/assumptions/38.md. No command touches another part of the module. -/
def Obligations.TheFieldSideFollowsItsFrames : Prop :=
  (∀ (d : FioDown) (rb : BitVec 16) (s : State),
    (s.fio.field.accepts d = true → ∃ t f a, exec (.fioCommandFrame d rb) s = .next t ∧ FieldTo s t f ∧ f.st = 2 ∧ f.seq = d.seq ∧
      f.out = d.out ∧ f.rb = rb.toNat ∧ f.act = f.applied ∧
      (∀ n : Fin 16, f.ovl.testBit n = (s.fio.field.ovl.testBit n && !latchFreed s.fio.field d.out n) ∧
        f.ot.testBit n = (s.fio.field.ot.testBit n && !latchFreed s.fio.field d.out n)) ∧
      (d.opcode = 1 → d.addr ∈ fieldHeld → f.cfg d.addr = d.data) ∧
      (d.opcode = 2 → d.addr ∈ fieldHeld → f.rd = s.fio.field.cfg d.addr) ∧
      f.answer = some a ∧ a.seqEcho = d.seq ∧ a.inp = f.inp ∧ a.rb = f.rb ∧ a.act = f.act ∧ a.ovl = f.ovl ∧ a.rd = f.rd) ∧
    (s.fio.field.accepts d = false → ∃ t, exec (.fioCommandFrame d rb) s = .next t ∧ FieldTo s t (discarded s.fio.field)) ∧
    (d.sync = true → d.crc = fioDownCrc d → s.fio.field.st = 1 → ∃ t f a, exec (.fioSyncFrame d rb) s = .next t ∧ FieldTo s t f ∧
      f.st = 2 ∧ f.seq = d.seq ∧ f.out = 0 ∧ f.act = 0 ∧ f.answer = some a ∧ a.seqEcho = d.seq) ∧
    (d.sync = true → d.crc = fioDownCrc d → s.fio.field.st = 2 → ∃ t, exec (.fioSyncFrame d rb) s = .next t ∧
      FieldTo s t { s.fio.field with syncIn := true }) ∧
    (d.sync = false ∨ d.crc ≠ fioDownCrc d → ∃ t, exec (.fioSyncFrame d rb) s = .next t ∧ FieldTo s t (discarded s.fio.field))) ∧
  (∀ s : State,
    (s.fio.field.answer = none → exec .fioUplinkSend s = .next s) ∧
    (∀ a, s.fio.field.answer = some a → ∃ t u, exec .fioUplinkSend s = .next t ∧ t.fio.up = some u ∧ u.crc = fioUpCrc u ∧
      u.seqEcho = a.seqEcho ∧ u.inp = a.inp ∧ u.act = a.act ∧ u.state = s.fio.field.st ∧ u.fsOk = s.fio.field.fsOk ∧
      u.por = s.fio.field.por ∧ u.discN = s.fio.field.discN ∧ u.syncIn = s.fio.field.syncIn ∧
      t = { s with fio := { s.fio with up := some u, field := { s.fio.field with answer := none, por := false, discN := 0, syncIn := false } } }) ∧
    (s.fio.field.st = 2 → s.fio.field.accTick + 250 * bits (s.fio.field.cfg 0x04) 0 9 ≤ s.ticks + 375 →
      ∃ t, exec .fioSilence s = .next t ∧ t.fio.field.act = 0 ∧
        FieldTo s t { (s.fio.field.setAct s.ticks 0) with st := 1, out := 0 }) ∧
    (s.fio.field.st ≠ 2 ∨ s.ticks + 375 < s.fio.field.accTick + 250 * bits (s.fio.field.cfg 0x04) 0 9 →
      exec .fioSilence s = .next s) ∧
    (∃ t, exec .fieldSupplyLow s = .next t ∧ t.fio.field.act = 0 ∧ FieldTo s t { (s.fio.field.setAct s.ticks 0) with fsOk := false }) ∧
    (s.fio.field.st ≠ 0 → ∃ t f, exec .fieldSupplyGood s = .next t ∧ FieldTo s t f ∧
      f = { s.fio.field with fsOk := true, act := f.act, actTick := f.actTick } ∧ f.act = f.applied) ∧
    (∃ t, exec .fieldPor s = .next t ∧ t.fio.field = FieldSide.init ∧ t.rd MBX_PWR_STAT_FS_PRESENT = 0 ∧
      t.saf.lanes = List.replicate 2 (SafLane.startAt s.ticks) ∧ RegsBut [MBX_PWR_STAT_FS_PRESENT] s t ∧ t = { s.like t with fio := t.fio, saf := t.saf }) ∧
    (∃ t, exec .fieldSupplyRise s = .next t ∧ t.rd MBX_PWR_STAT_FS_PRESENT = 1 ∧ RegsBut [MBX_PWR_STAT_FS_PRESENT] s t ∧
      t.fio.field = (if s.fio.field.st = 0 then { FieldSide.init with st := 1, por := true } else s.fio.field) ∧
      t = { s.like t with fio := { s.fio with field := t.fio.field } })) ∧
  (∀ (n : Fin 16) (b : Bool) (s : State),
    (s.fio.field.st ≠ 0 → s.fio.field.chgTick.getD n 0 + s.fio.field.debT n ≤ s.ticks →
      ∃ t f, exec (.inputDebounceChange n b) s = .next t ∧ FieldTo s t f ∧
        BitTo s.fio.field.inp f.inp n (b != (s.fio.field.cfg (0x10 + n)).testBit 16) ∧ f.act = s.fio.field.act) ∧
    (s.ticks < s.fio.field.chgTick.getD n 0 + s.fio.field.debT n → exec (.inputDebounceChange n b) s = .next s) ∧
    (s.fio.field.act.testBit n = true → s.fio.field.actFor n (s.fio.field.ovlT n) s.ticks = true →
      ∃ t f, exec (.outputOverload n) s = .next t ∧ FieldTo s t f ∧
        BitTo s.fio.field.ovl f.ovl n true ∧ f.act.testBit n = false ∧ f.ot = s.fio.field.ot) ∧
    (s.fio.field.act.testBit n = false ∨ s.fio.field.actFor n (s.fio.field.ovlT n) s.ticks = false →
      exec (.outputOverload n) s = .next s) ∧
    (s.fio.field.st ≠ 0 → ∃ t f, exec (.outputOverTemp n) s = .next t ∧ FieldTo s t f ∧ BitTo s.fio.field.ot f.ot n true ∧
      f.act.testBit n = false ∧ f.ovl = s.fio.field.ovl) ∧
    (s.fio.field.restart n = true → RetryHeld s n → ∃ t f, exec (.outputRetry n true) s = .next t ∧ FieldTo s t f ∧
      BitTo s.fio.field.ovl f.ovl n false ∧ BitTo s.fio.field.ot f.ot n false ∧ f.act = f.applied) ∧
    (s.fio.field.restart n = false ∨ b = false ∨ ¬ RetryHeld s n → exec (.outputRetry n b) s = .next s) ∧
    (s.fio.field.openEn n = true → s.fio.field.act.testBit n = true → s.fio.field.actFor n 5000000 s.ticks = true →
      ∃ t f, exec (.openWire n b) s = .next t ∧ FieldTo s t f ∧
        BitTo s.fio.field.openW f.openW n b ∧ f = { s.fio.field with openW := f.openW }) ∧
    (s.fio.field.openEn n = false ∨ s.fio.field.act.testBit n = false ∨ s.fio.field.actFor n 5000000 s.ticks = false →
      exec (.openWire n b) s = .next s) ∧
    (s.fio.field.st ≠ 0 → (b = true → s.fio.field.actFor n (s.fio.field.rbT n) s.ticks = true) →
      ∃ t f, exec (.discrepancy n b) s = .next t ∧ FieldTo s t f ∧ BitTo s.fio.field.disc f.disc n b ∧
        f = { s.fio.field with disc := f.disc }) ∧
    (b = true → s.fio.field.actFor n (s.fio.field.rbT n) s.ticks = false → exec (.discrepancy n b) s = .next s))

/-- The logic side has begun synchronising (R361). -/
def Syncing (s t : State) : Prop :=
  t.fio.syncing = true ∧ t.fio.seq = (s.fio.seq + 1) % 256 ∧ t.fio.op = none ∧ t.fio.mism = 0 ∧ t.fio.rewriting = 33

/-- A frame under way: its CRC is right, and only the crossing's own state has changed. -/
def Sent (s t : State) (f : FioDown) : Prop := t.fio.down = some f ∧ f.crc = fioDownCrc f ∧ t.fio.answered = false ∧ t = { s with fio := t.fio }

/-- The logic side of the field crossing: frames, echoes, held registers, link loss. ENABLE = 1 starts synchronising under
the next SEQ; ENABLE = 0 ends it. Without ENABLE or after a release no frame goes; while synchronising a synchronising
frame with all outputs off goes; otherwise a command frame under the next SEQ with the permitted image carries the
next write or comparison; a second frame without an answer starts synchronising. Every frame has a correct CRC. An
uplink frame with a wrong CRC is counted; a good one sets LINK, the inputs, the read-back and the faults; its echo
ends synchronising and queues every held register; a new discrepancy on a channel with DISC_REL releases TOKEN. 100 µs
without a good frame sets LINK_LOST and starts synchronising. A held register's write is refused with CFG_REJ out of
range, dropped with WR_DROPPED without LINK, and else queued. -/
def Obligations.TheLogicSideDrivesTheField : Prop :=
  (∀ s : State, s.live = true →
    (s.rd FIO_CTRL_ENABLE = 0 → ∃ t, exec (.fioEnable true) s = .next t ∧ t.rd FIO_CTRL_ENABLE = 1 ∧ Syncing s t ∧
      RegsBut [FIO_CTRL_ENABLE] s t ∧ t = { s.like t with fio := t.fio }) ∧
    (∃ t, exec (.fioEnable false) s = .next t ∧ t.rd FIO_CTRL_ENABLE = 0 ∧ t.fio = { s.fio with syncing := false, op := none } ∧
      RegsBut [FIO_CTRL_ENABLE] s t ∧ t = { s.like t with fio := t.fio })) ∧
  (∀ s : State, s.live = true →
    (s.rd FIO_CTRL_ENABLE = 0 ∨ s.rd PRD_STATUS_GATE = 3 →
      exec .fioDownlinkSend s = .next { s with fio := { s.fio with down := none } }) ∧
    (s.rd FIO_CTRL_ENABLE ≠ 0 → s.rd PRD_STATUS_GATE ≠ 3 → s.fio.syncing = true → s.fio.answered = true →
      ∃ t f, exec .fioDownlinkSend s = .next t ∧ Sent s t f ∧ f.sync = true ∧ f.seq = s.fio.seq ∧ f.out = 0) ∧
    (s.rd FIO_CTRL_ENABLE ≠ 0 → s.rd PRD_STATUS_GATE ≠ 3 → s.fio.syncing = false → s.fio.answered = false → s.fio.mism = 1 →
      ∃ t f, exec .fioDownlinkSend s = .next t ∧ Sent s t f ∧ f.sync = true ∧ t.fio.syncing = true ∧ f.seq = (s.fio.seq + 1) % 256 ∧ f.out = 0) ∧
    (s.rd FIO_CTRL_ENABLE ≠ 0 → s.rd PRD_STATUS_GATE ≠ 3 → s.fio.syncing = false → s.fio.answered = true →
      ∃ t f, exec .fioDownlinkSend s = .next t ∧ Sent s t f ∧ f.sync = false ∧ f.seq = (s.fio.seq + 1) % 256 ∧ t.fio.seq = f.seq ∧
        f.out = s.fioOut ∧ (∀ i d q, s.fio.op = none → s.fio.queue = (i, d) :: q →
          f.opcode = 1 ∧ f.addr = i ∧ f.data = d ∧ t.fio.queue = q) ∧
        (s.fio.op = none → s.fio.queue = [] → f.opcode = 2 ∧ f.addr = fieldHeld.getD s.fio.scan 0x04))) ∧
  (∀ (f : FioUp) (s : State), s.live = true →
    (f.crc ≠ fioUpCrc f → ∃ t, exec (.fioUplinkReceive f) s = .next t ∧ t.rd FIO_ERR_UP_CRC = 1 ∧
      t.rd FIO_LINK_ERRCNT_UP_CRC_CNT = min (s.rd FIO_LINK_ERRCNT_UP_CRC_CNT + 1) 65535 ∧
      RegsBut [FIO_ERR_UP_CRC, FIO_LINK_ERRCNT_UP_CRC_CNT] s t ∧ t = s.like t) ∧
    (f.crc = fioUpCrc f → (∀ n : Fin 16, s.rd (FIO_OUT_CFG_DISC_REL n) = 0) →
      ∃ t, exec (.fioUplinkReceive f) s = .next t ∧ t.rd FIO_STATUS_LINK = 1 ∧ t.rd FIO_STATUS_STATE = f.state % 4 ∧
        t.rd FIO_STATUS_FS_OK = b2n f.fsOk ∧ t.rd FIO_IN_IN = f.inp % 65536 ∧ t.rd FIO_IN_RB = f.rb % 65536 ∧
        t.rd FIO_IN_ACT = f.act % 65536 ∧ t.rd FIO_FAULT_OVL = f.ovl % 65536 ∧ t.rd FIO_FAULT_OPEN = f.openW % 65536 ∧
        t.rd FIO_FAULT_OT = f.ot % 65536 ∧ t.rd FIO_FAULT_DISC = f.disc % 65536 ∧ t.fio.up = some f ∧
        (f.por = true → t.rd FIO_ERR_FIELD_POR = 1) ∧ (f.syncIn = true → t.rd FIO_ERR_SYNC_IN_ACTIVE = 1) ∧
        (s.rd FIO_STATUS_FS_OK ≠ 0 → f.fsOk = false → t.rd FIO_ERR_FS_LOW = 1) ∧
        (f.seqEcho = s.fio.seq → t.fio.answered = true ∧ t.fio.mism = 0 ∧ t.fio.syncing = false) ∧
        (f.seqEcho = s.fio.seq → s.fio.syncing = true → t.fio.rewriting = 33 ∧ t.fio.queue.map Prod.fst = fieldHeld ∧ t.rd FIO_STATUS_PENDING = 1) ∧
        OnlyBlock 13 s t ∧ t = { s.like t with fio := t.fio, crt := t.crt }) ∧
    (f.crc = fioUpCrc f → s.holds = true → (∃ n : Fin 16, f.disc.testBit n = true ∧ (s.rd FIO_FAULT_DISC).testBit n = false ∧
      s.rd (FIO_OUT_CFG_DISC_REL n) ≠ 0) → ∃ t, exec (.fioUplinkReceive f) s = .next t ∧ t.holds = false ∧ t.rd PRD_STATUS_GATE = 3)) ∧
  (∀ s : State, s.live = true →
    (s.rd FIO_STATUS_LINK = 0 ∨ s.ticks < s.fio.upTick + 25000 → exec .fioLinkLost s = .next s) ∧
    (s.rd FIO_STATUS_LINK ≠ 0 → s.fio.upTick + 25000 ≤ s.ticks → ∃ t, exec .fioLinkLost s = .next t ∧ t.rd FIO_STATUS_LINK = 0 ∧ t.rd FIO_ERR_LINK_LOST = 1 ∧
      (s.rd FIO_CTRL_ENABLE ≠ 0 → Syncing s t) ∧ RegsBut ([FIO_STATUS_LINK, FIO_ERR_LINK_LOST] ++ logFields) s t ∧
      t = { s.like t with fio := t.fio }) ∧
    (∀ o, s.fio.op = some o → exec .fieldHeldResend s = .next { s with fio := { s.fio with op := some { o with cnt := none } } })) ∧
  (∀ (r : Fin 33) (v : BitVec 32) (l : RegLoc) (s : State), s.live = true → findReg (0x400D0000 + 4 * fieldHeld.getD r 0x04) = some l →
    (l.inRange v.toNat = false → exec (.fieldHeldWrite r v) s = .next (s.wr FIO_ERR_CFG_REJ 1)) ∧
    (l.inRange v.toNat = true → ∃ t, exec (.fieldHeldWrite r v) s = .next t ∧
      (r.val = 0 → t.rd FIO_CFG_SILENCE = v.toNat % 512) ∧
      (∀ n : Fin 16, r.val = n + 1 → t.rd (FIO_IN_CFG_DEB n) = v.toNat % 65536 ∧ t.rd (FIO_IN_CFG_INV n) = bits v.toNat 16 1) ∧
      (∀ n : Fin 16, r.val = n + 17 → t.rd (FIO_OUT_CFG_OVL_T n) = v.toNat % 256 ∧ t.rd (FIO_OUT_CFG_RESTART n) = bits v.toNat 8 1 ∧
        t.rd (FIO_OUT_CFG_OPEN_EN n) = bits v.toNat 9 1 ∧ t.rd (FIO_OUT_CFG_DISC_REL n) = bits v.toNat 10 1 ∧
        t.rd (FIO_OUT_CFG_RB_T n) = bits v.toNat 16 10) ∧
      (s.rd FIO_STATUS_LINK ≠ 0 → t.rd FIO_STATUS_PENDING = 1 ∧ ∃ x, t.fio.queue = s.fio.queue ++ [(fieldHeld.getD r 0x04, x)] ∧
        x = t.fioShadow (fieldHeld.getD r 0x04)) ∧
      (s.rd FIO_STATUS_LINK = 0 → t.rd FIO_ERR_WR_DROPPED = 1 ∧ t.fio = s.fio) ∧ OnlyBlock 13 s t ∧ t = { s.like t with fio := t.fio }))

/-- The applied outputs are what the commands, the latches, the state and the supply allow (R355). -/
def OutputsAllowed (s : State) : Prop := s.fio.field.act = s.fio.field.applied

/-- The applied outputs are always what commands, protection and the field state allow. If the applied outputs of the
field side are the commanded ones without the latched channels in ACTIVE with a good supply, and none elsewhere, then
so they are after every step. -/
def Obligations.EveryStepKeepsOutputsAsTheFieldStateAllows : Prop :=
  ∀ s t : State, step s = .next t → OutputsAllowed s → OutputsAllowed t

/-- After reset no output is applied. At reset the field side is in POR with no output applied, as the invariant of the
applied outputs asks. Where the rules leave a point open, the model's reading of it is in notes/assumptions/4.md. -/
def Obligations.OutputsAreOffAfterReset : Prop :=
  OutputsAllowed State.reset ∧ State.reset.fio.field.act = 0 ∧ State.reset.fio.field.st = 0

/-- Only the CAN block and the counters of events have changed. -/
def CanOnly (s t : State) : Prop := OnlyBlock 14 s t ∧ t = { s.like t with can := t.can, pmc := t.pmc }

/-- Controller n is on the bus, and no timing word waits for its frame to end. -/
def OnBus (s : State) (n : Fin 4) : Prop :=
  (s.rd (CAN_STATUS_STATE n) = 2 ∨ s.rd (CAN_STATUS_STATE n) = 3) ∧ (s.canCtl n).timing = [] ∧ ∀ a ∈ (s.canCtl n).arb, a.msg < 128

/-- The state that the counters give a controller on the bus (R377). -/
def canLevelOf (tec rc : Nat) : Nat := if 127 < tec ∨ 127 < rc then 3 else 2

/-- CAN: bit timing, integration, the error counters, bus-off and recovery. A timing word out of range sets CFG_REJ; one
in range is written at once while EN = 0, waits for the frame in progress while EN = 1, and otherwise is written and
makes the controller integrate again. Integration ends in ERROR_ACTIVE, or ERROR_PASSIVE where a counter is above 127.
A bus error on the bus sets LEC; in bus monitoring mode the counters stand; a transmitter's TEC rises by 8, beyond 255
into BUS_OFF, counted and logged; a receiver's REC rises by 1 or 8 up to 255. RECOVER takes BUS_OFF to RECOVERING and
is else refused with CMD_REJ; its end gives ERROR_ACTIVE with both counters 0 and every held event record pending
again. TX_CLR makes every event record that is not idle IDLE. Elsewhere nothing happens. Where the rules leave a point
open, the model's reading of it is in notes/assumptions/27.md. -/
def Obligations.CanControllersFollowTheirStates : Prop :=
  (∀ (n : Fin 4) (off v : Nat) (b : Bool) (c : CanCtl) (s : State), s.live = true → off ∈ [0x0C, 0x10, 0x14] →
    s.can.ctl[n.val]? = some c →
    (timingOk off v = false → exec (.canBitTimingWrite n off v b) s = .next (s.wr (CAN_ERR_CFG_REJ n) 1)) ∧
    (timingOk off v = true → s.rd (CAN_CTRL_EN n) = 0 → ∃ t, exec (.canBitTimingWrite n off v b) s = .next t ∧
      (∀ f ∈ timingFields n off, t.rd f = bits v f.lo f.width) ∧ RegsBut (timingFields n off) s t ∧ t = { s.like t with can := t.can }) ∧
    (timingOk off v = true → s.rd (CAN_CTRL_EN n) ≠ 0 → ∃ t, exec (.canBitTimingWrite n off v true) s = .next t ∧
      (t.canCtl n).timing = c.timing.filter (fun e => e.1 ≠ off) ++ [(off, v)] ∧ t = { s with can := t.can }) ∧
    (timingOk off v = true → s.rd (CAN_CTRL_EN n) ≠ 0 → c.timing = [] → ∃ t, exec (.canBitTimingWrite n off v false) s = .next t ∧
      (∀ f ∈ timingFields n off, t.rd f = bits v f.lo f.width) ∧ (t.canCtl n).timing = [] ∧
      t.rd (CAN_STATUS_STATE n) = (if s.rd (CAN_STATUS_STATE n) = 2 ∨ s.rd (CAN_STATUS_STATE n) = 3 then 1 else s.rd (CAN_STATUS_STATE n)) ∧
      RegsBut (CAN_STATUS_STATE n :: timingFields n off) s t ∧ t = { s.like t with can := t.can })) ∧
  (∀ (n : Fin 4) (s : State),
    (s.rd (CAN_STATUS_STATE n) = 1 → ∃ t, exec (.canIntegrationDone n) s = .next t ∧
      t.rd (CAN_STATUS_STATE n) = canLevelOf (s.rd (CAN_STATUS_TEC n)) (s.rd (CAN_STATUS_REC n)) ∧
      RegsBut [CAN_STATUS_STATE n, CAN_ERR_PASSIVE n] s t ∧ t = s.like t) ∧
    (s.rd (CAN_STATUS_STATE n) ≠ 1 → exec (.canIntegrationDone n) s = .next s)) ∧
  (∀ (n : Fin 4) (kind : CanErr) (tx dom : Bool) (s : State),
    (s.rd (CAN_STATUS_STATE n) ≠ 2 → s.rd (CAN_STATUS_STATE n) ≠ 3 → exec (.canBusError n kind tx dom) s = .next s) ∧
    (OnBus s n → s.rd (CAN_STATUS_MONITOR n) ≠ 0 → exec (.canBusError n kind tx dom) s = .next (s.wr (CAN_STATUS_LEC n) kind.lec)) ∧
    (OnBus s n → s.rd (CAN_STATUS_MONITOR n) = 0 → s.rd (CAN_STATUS_TEC n) + 8 ≤ 255 →
      s.rd (CAN_STATUS_STATE n) = 2 ∨ kind ≠ .ack ∨ dom = true →
      ∃ t, exec (.canBusError n kind true dom) s = .next t ∧ t.rd (CAN_STATUS_TEC n) = s.rd (CAN_STATUS_TEC n) + 8 ∧
        t.rd (CAN_STATUS_LEC n) = kind.lec ∧
        t.rd (CAN_STATUS_STATE n) = canLevelOf (s.rd (CAN_STATUS_TEC n) + 8) (s.rd (CAN_STATUS_REC n)) ∧ CanOnly s t) ∧
    (OnBus s n → s.rd (CAN_STATUS_MONITOR n) = 0 → 255 < s.rd (CAN_STATUS_TEC n) + 8 →
      s.rd (CAN_STATUS_STATE n) = 2 ∨ kind ≠ .ack ∨ dom = true →
      ∃ t, exec (.canBusError n kind true dom) s = .next t ∧ t.rd (CAN_STATUS_STATE n) = 4 ∧ t.rd (CAN_ERR_BUSOFF n) = 1 ∧
        t.rd (CAN_CNT_BUSOFF_CNT n) = min (s.rd (CAN_CNT_BUSOFF_CNT n) + 1) 65535 ∧
        (∀ m : Fin 128, s.rd (CAN_REC_STATE (recIx n m)) = 1 → s.rd (CAN_REC_DIR (recIx n m)) = 1 →
          t.rd (CAN_REC_STATE (recIx n m)) = 2 ∧ t.rd (CAN_REC_CODE (recIx n m)) = 0x30) ∧
        (t.canCtl n).arb = [] ∧ (t.canCtl n).occ = [] ∧ CanOnly s t) ∧
    (OnBus s n → s.rd (CAN_STATUS_MONITOR n) = 0 → ∃ t, exec (.canBusError n kind false dom) s = .next t ∧
      t.rd (CAN_STATUS_REC n) = min (s.rd (CAN_STATUS_REC n) + (if dom then 8 else 1)) 255 ∧
      t.rd (CAN_STATUS_TEC n) = s.rd (CAN_STATUS_TEC n) ∧ t.rd (CAN_STATUS_LEC n) = kind.lec ∧
      RegsBut [CAN_STATUS_REC n, CAN_STATUS_LEC n, CAN_STATUS_STATE n, CAN_ERR_PASSIVE n] s t ∧ t = s.like t)) ∧
  (∀ (n : Fin 4) (s : State),
    (s.live = true → s.rd (CAN_STATUS_STATE n) = 4 → ∃ t, exec (.canRecover n) s = .next t ∧ t.rd (CAN_STATUS_STATE n) = 5 ∧
      t.rd (CAN_STATUS_RECOV n) = 0 ∧ RegsBut [CAN_STATUS_STATE n, CAN_STATUS_RECOV n] s t ∧ t = s.like t) ∧
    (s.live = true → s.rd (CAN_STATUS_STATE n) ≠ 4 → exec (.canRecover n) s = .next (s.wr (CAN_ERR_CMD_REJ n) 1)) ∧
    (s.rd (CAN_STATUS_STATE n) = 5 → ∃ t, exec (.canRecoveryDone n) s = .next t ∧ t.rd (CAN_STATUS_STATE n) = 2 ∧
      t.rd (CAN_STATUS_TEC n) = 0 ∧ t.rd (CAN_STATUS_REC n) = 0 ∧ t.rd (CAN_STATUS_RECOV n) = 128 ∧
      (∀ m : Fin 128, t.rd (CAN_REC_STATE (recIx n m)) = if s.rd (CAN_REC_STATE (recIx n m)) = 2 then
        (if (s.slotOf n m).isNone then 1 else 0) else s.rd (CAN_REC_STATE (recIx n m))) ∧ CanOnly s t) ∧
    (s.rd (CAN_STATUS_STATE n) ≠ 5 → exec (.canRecoveryDone n) s = .next s) ∧
    (s.live = true → ∃ t, exec (.canTxClr n) s = .next t ∧
      (∀ m : Fin 128, t.rd (CAN_REC_STATE (recIx n m)) = if s.rd (CAN_REC_DIR (recIx n m)) = 1 ∧ (s.slotOf n m).isNone = true then 0
        else s.rd (CAN_REC_STATE (recIx n m))) ∧
      RegsBut ((List.range 128).map fun m => CAN_REC_STATE (recIx n m)) s t ∧ t = { s.like t with can := t.can }))

/-- Record m of controller n stands first in arbitration with its present contents. -/
def Contends (s t : State) (n : Fin 4) (m : Fin 128) : Prop :=
  (t.canCtl n).arb.head? = some { msg := m, dlc := s.rd (CAN_REC_DLC (recIx n m)), data := s.recData n m }

/-- A slot table waits for controller n (R379). -/
def NewTable (s : State) (n : Fin 4) : Prop := s.can.newTab.getD n.val none ≠ none

/-- CAN: occurrences, windows, completion, requests and reception. Once a role has been taken, a slot occurrence of its
row, taken once, makes its record PENDING with its present contents, with a window of WINDOW from its instant, unless
the controller is OFF or in bus monitoring mode; in BUS_OFF it is MISSED with NOT_SENT_BUSOFF; nothing happens where
its entry is disabled or it is not in the row. An occurrence not started at the end of its window is MISSED, counted
and logged, and its record IDLE; before that end nothing happens. A record that lost arbitration contends with its
present contents. Completion, where a takeover sends no other record ahead of it, makes the record IDLE with CODE 0
and the instant of its start of frame, and lowers TEC. A request makes an idle event record PENDING under OUT_PERMIT
and is else refused with CMD_REJ. A received frame is stored, with NEW and its stamp, in the record of the first
filter that matches, or counted as unmatched; a rejecting filter and a remote frame store nothing. REC falls by one,
from above 127 to a value of 119 to 127 that is left open. Where the rules leave a point open, the model's reading of
it is in notes/assumptions/27.md. -/
def Obligations.CanRecordsAreSentAndReceived : Prop :=
  (∀ (n : Fin 4) (k : Fin 64) (m : Fin 128) (c : CanCtl) (s : State), s.rd (CAN_SLOT_MSG (slotIx n k)) = m →
    ¬ NewTable s n → s.can.ctl[n.val]? = some c →
    (s.works = false ∨ s.slotLast n k s.now = none → exec (.canSlotOccurrence n k) s = .next s) ∧
    (∀ at_, s.works = true → s.slotLast n k s.now = some at_ → aGet k.val c.slotAt = some at_ → exec (.canSlotOccurrence n k) s = .next s) ∧
    (∀ at_, s.works = true → s.slotLast n k s.now = some at_ → aGet k.val c.slotAt ≠ some at_ → ∃ t, exec (.canSlotOccurrence n k) s = .next t ∧
      (t.canCtl n).slotAt = aIns k.val at_ (aDel k.val c.slotAt) ∧ t = { s.like t with can := t.can } ∧
      (s.rd (CAN_STATUS_STATE n) = 0 ∨ s.rd (CAN_STATUS_STATE n) ≠ 4 ∧ s.rd (CAN_STATUS_MONITOR n) ≠ 0 →
        t.canCtl n = { c with slotAt := (t.canCtl n).slotAt } ∧ t = { s with can := t.can }) ∧
      (s.rd (CAN_STATUS_STATE n) = 4 → t.rd (CAN_REC_CODE (recIx n m)) = 0x30 ∧ t.rd (CAN_ERR_MISSED n) = 1 ∧
        t.rd (CAN_CNT_MISS_CNT n) = min (s.rd (CAN_CNT_MISS_CNT n) + 1) 65535 ∧
        RegsBut ([CAN_REC_CODE (recIx n m), CAN_ERR_MISSED n, CAN_CNT_MISS_CNT n] ++ logFields) s t) ∧
      (s.rd (CAN_STATUS_STATE n) ≠ 0 → s.rd (CAN_STATUS_STATE n) ≠ 4 → s.rd (CAN_STATUS_MONITOR n) = 0 →
        t.rd (CAN_REC_STATE (recIx n m)) = 1 ∧ Contends s t n m ∧
        (t.canCtl n).occ = c.occ.filter (·.slot ≠ k.val) ++
          [{ slot := k, t := at_, msg := m, ends := at_ + 1000 * s.rd (CAN_SLOT_WINDOW (slotIx n k)) }] ∧
        RegsBut [CAN_REC_STATE (recIx n m)] s t))) ∧
  (∀ (n : Fin 4) (k : Fin 64) (c : CanCtl) (s : State), s.can.ctl[n.val]? = some c →
    (∀ (o : CanOcc) (m : Fin 128), c.occ.find? (·.slot = k.val) = some o → o.msg = m →
      (o.ends ≤ s.now → ∃ t, exec (.canWindowEnd n k false) s = .next t ∧ t.rd (CAN_REC_STATE (recIx n m)) = 0 ∧
        t.rd (CAN_ERR_MISSED n) = 1 ∧ t.rd (CAN_CNT_MISS_CNT n) = min (s.rd (CAN_CNT_MISS_CNT n) + 1) 65535 ∧
        (t.canCtl n).occ = c.occ.filter (fun o => o.slot ≠ k.val) ∧ (∀ a ∈ (t.canCtl n).arb, a.msg ≠ m.val) ∧
        RegsBut ([CAN_REC_STATE (recIx n m), CAN_ERR_MISSED n, CAN_CNT_MISS_CNT n] ++ logFields) s t ∧ t = { s.like t with can := t.can }) ∧
      (s.now < o.ends → exec (.canWindowEnd n k false) s = .next s)) ∧
    (c.occ.find? (·.slot = k.val) = none → exec (.canWindowEnd n k false) s = .next s) ∧
    exec (.canWindowEnd n k true) s = .next s) ∧
  (∀ (n : Fin 4) (m : Fin 128) (c : CanCtl) (s : State), s.can.ctl[n.val]? = some c →
    (s.rd (CAN_REC_STATE (recIx n m)) = 1 → ∃ t, exec (.canArbitrationLost n m) s = .next t ∧ t.rd (CAN_REC_STATE (recIx n m)) = 1 ∧
      Contends s t n m ∧ RegsBut [] s t ∧ t = { s.like t with can := t.can }) ∧
    (s.rd (CAN_REC_STATE (recIx n m)) ≠ 1 → exec (.canArbitrationLost n m) s = .next s)) ∧
  (∀ (n : Fin 4) (m : Fin 128) (sof : BitVec 32) (s : State),
    (s.rd (CAN_REC_STATE (recIx n m)) = 1 → s.canMayTx n = true →
      m.val ∉ (s.canCtl n).ahead ∨ (s.canCtl n).ahead.head? = some m.val → ∃ t, exec (.canFrameComplete n m sof) s = .next t ∧
      t.rd (CAN_REC_STATE (recIx n m)) = 0 ∧ t.rd (CAN_REC_CODE (recIx n m)) = 0 ∧ t.rd (CAN_REC_T (recIx n m)) = sof.toNat ∧
      t.rd (CAN_STATUS_TEC n) = (s.rd (CAN_STATUS_TEC n) - 1) % 256 ∧ (∀ a ∈ (t.canCtl n).arb, a.msg ≠ m.val) ∧
      (∀ o ∈ (t.canCtl n).occ, o.msg ≠ m.val) ∧ CanOnly s t) ∧
    (s.rd (CAN_REC_STATE (recIx n m)) ≠ 1 ∨ s.canMayTx n = false ∨ m.val ∈ (s.canCtl n).ahead ∧ (s.canCtl n).ahead.head? ≠ some m.val →
      exec (.canFrameComplete n m sof) s = .next s)) ∧
  (∀ (n : Fin 4) (m : Fin 128) (c : CanCtl) (s : State), s.live = true → ¬ NewTable s n → s.can.ctl[n.val]? = some c →
    (s.rd (CAN_REC_DIR (recIx n m)) = 1 → s.rd (CAN_REC_STATE (recIx n m)) = 0 → s.slotOf n m = none → s.rd FIO_STATUS_OUT_PERMIT ≠ 0 →
      ∃ t, exec (.canTxreq n m) s = .next t ∧ t.rd (CAN_REC_STATE (recIx n m)) = 1 ∧ Contends s t n m ∧
        RegsBut [CAN_REC_STATE (recIx n m)] s t ∧ t = { s.like t with can := t.can }) ∧
    (s.rd (CAN_REC_DIR (recIx n m)) ≠ 1 ∨ s.rd (CAN_REC_STATE (recIx n m)) ≠ 0 ∨ s.slotOf n m ≠ none ∨ s.rd FIO_STATUS_OUT_PERMIT = 0 →
      exec (.canTxreq n m) s = .next (s.wr (CAN_ERR_CMD_REJ n) 1))) ∧
  (∀ (n : Fin 4) (f : CanFrame) (s : State),
    (f.rtr = true → exec (.canFrameReceive n f) s = .next s) ∧
    (s.rd (CAN_STATUS_STATE n) ≠ 2 → s.rd (CAN_STATUS_STATE n) ≠ 3 → exec (.canFrameReceive n f) s = .next s) ∧
    (s.rd (CAN_STATUS_STATE n) = 2 ∨ s.rd (CAN_STATUS_STATE n) = 3 → f.rtr = false →
      ((List.range 128).find? fun e => s.filtMatch n e f) = none →
      ∃ t, exec (.canFrameReceive n f) s = .next t ∧ t.rd (CAN_ERR_NO_MATCH n) = 1 ∧
        t.rd (CAN_CNT_NOMATCH_CNT n) = min (s.rd (CAN_CNT_NOMATCH_CNT n) + 1) 65535 ∧
        (∀ m : Fin 128, t.rd (CAN_REC_NEW (recIx n m)) = s.rd (CAN_REC_NEW (recIx n m))) ∧
        (s.rd (CAN_STATUS_MONITOR n) = 0 → s.rd (CAN_STATUS_REC n) ≤ 127 → t.rd (CAN_STATUS_REC n) = s.rd (CAN_STATUS_REC n) - 1) ∧
        (s.rd (CAN_STATUS_MONITOR n) = 0 → 127 < s.rd (CAN_STATUS_REC n) →
          119 ≤ t.rd (CAN_STATUS_REC n) ∧ t.rd (CAN_STATUS_REC n) ≤ 127) ∧
        OnlyBlock 14 s t ∧ t = { s.like t with can := t.can, pmc := t.pmc, free := t.free }) ∧
    (∀ (e m : Fin 128), s.rd (CAN_STATUS_STATE n) = 2 ∨ s.rd (CAN_STATUS_STATE n) = 3 → f.rtr = false →
      ((List.range 128).find? fun e => s.filtMatch n e f) = some e.val → s.rd (CAN_FILT_MSG (recIx n e)) = m →
      ∃ t, exec (.canFrameReceive n f) s = .next t ∧ OnlyBlock 14 s t ∧
        t = { s.like t with can := t.can, pmc := t.pmc, free := t.free, crt := t.crt, saf := { s.saf with fresh := t.saf.fresh } } ∧
        (s.rd (CAN_FILT_REJECT (recIx n e)) ≠ 0 → t.rd (CAN_REC_NEW (recIx n m)) = s.rd (CAN_REC_NEW (recIx n m)) ∧
          t.recData n m = s.recData n m) ∧
        (s.rd (CAN_FILT_REJECT (recIx n e)) = 0 → t.rd (CAN_REC_NEW (recIx n m)) = 1 ∧ t.rd (CAN_REC_ID (recIx n m)) = f.id % 2 ^ 29 ∧
          t.rd (CAN_REC_DLC (recIx n m)) = f.dlc % 16 ∧ t.rd (CAN_REC_T (recIx n m)) = f.sof % 2 ^ 32 ∧
          (∀ j : Fin 64, t.rd (CAN_REC_DATA (recIx n m) j) = match f.data[j.val]? with
            | some b => b.toNat
            | none => s.rd (CAN_REC_DATA (recIx n m) j)) ∧
          (s.rd (CAN_REC_NEW (recIx n m)) ≠ 0 → t.rd (CAN_REC_OVW (recIx n m)) = 1 ∧ t.rd (CAN_ERR_RX_OVW n) = 1 ∧
            t.rd (CAN_CNT_OVW_CNT n) = min (s.rd (CAN_CNT_OVW_CNT n) + 1) 65535))))

/-- Only the safety block's registers and its lanes have changed. -/
def SafOnly (s t : State) : Prop := OnlyBlock 15 s t ∧ t = { s.like t with saf := t.saf }

/-- Lane k holds l, but for the flags and counts that it gives to the logic side. -/
def LaneIs (t : State) (k : Fin 2) (l : SafLane) : Prop := ∃ e a c, t.safLane k = { l with errs := e, alarms := a, cnts := c }

/-- Flag b of lane k is raised: it shows in SAF_ERR while the link is valid, else the lane keeps it (R383, R401). -/
def Raised (s t : State) (k : Fin 2) (b : Nat) (f : Fld) : Prop :=
  (s.live = true → s.rd (linkFld k) ≠ 0 → t.rd f = 1) ∧
    (s.live = false ∨ s.rd (linkFld k) = 0 → (t.safLane k).errs.testBit b = true)

/-- The lane accepts the frame (R383, R384). -/
def GoodFrame (l : SafLane) (f : SafDown) : Prop :=
  f.crc = safDownCrc f ∧ f.nTel ≤ 4 ∧ ∀ q, l.seq = some q → f.seq = (q + 1) % 65536

/-- Telegram t is one of source m of the lane (R387, R388). -/
def FromSource (s : State) (x : SafSrc) (m : Nat) (t : Bytes) : Prop :=
  s.telKind m ≠ 0 ∧ field t 0 2 = s.telSrc m ∧ field t 12 4 = crcTel (s.telSeed m) (t.take 12) ∧
    ∀ q, x.seq = some q → 1 ≤ (field t 2 2 + 65536 - q) % 65536 ∧ (field t 2 2 + 65536 - q) % 65536 < 32768

/-- What a good frame leaves of a lane at tick now, with these sources after its telegrams (R383, R384). -/
def refreshed (l : SafLane) (f : SafDown) (now : Nat) (src : List SafSrc) : SafLane :=
  { l with
    seq := some (f.seq % 65536)
    resets := l.resets ||| f.reset % 4
    answer := true
    lastReq := f.req % 4
    req := if f.permit then f.req % 4 else l.req &&& f.req
    take := if f.permit then l.take || f.take else l.take
    rise := if f.permit then l.rise ||| (f.req &&& (3 ^^^ (l.lastReq &&& 3))) % 4 else l.rise
    refT := if f.permit then now else l.refT
    src := src }

/-- An output pair that is ON, turned OFF; an on that waits is given up. -/
def offIfOn (o : SafOut) : SafOut := { o with st := if o.st = 1 then 0 else o.st, wait := false }

/-- A safety lane: frames, telegrams, samples, silence. A lane without supply does nothing. A frame with a wrong CRC, more
than four telegrams or a wrong SEQ is flagged with SX_REJ and changes nothing else; a good one gives SEQ and RESET
and, with PERMIT, REQ, its rises and TAKE, and is answered; without PERMIT it can only take a request away; a telegram
that a source takes makes it valid with its SEQ and values. A sample, at least 250 µs of the lane's clock after the
one before, turns a filtered level once it has differed for FILT milliseconds, and counts the samples in which a pin
differs from its command. Refresh silence, after SX_SIL without a refresh, takes REQ as 0, turns every output that is
ON to OFF, and lets any SEQ follow. Where the rules leave a point open, the model's reading of it is in
notes/assumptions/25.md. -/
def Obligations.SafetyLanesTakeFramesAndSamples : Prop :=
  (∀ (k : Fin 2) (f : SafDown) (l : SafLane) (s : State), s.saf.lanes[k.val]? = some l →
    (s.lanesOn = false → exec (.safLaneFrame k f) s = .next s) ∧
    (s.lanesOn = true → ¬ GoodFrame l f → ∃ t, exec (.safLaneFrame k f) s = .next t ∧ LaneIs t k l ∧ Raised s t k 2 SAF_ERR_SX_REJ ∧
      SafOnly s t) ∧
    (s.lanesOn = true → GoodFrame l f → ∃ t src, exec (.safLaneFrame k f) s = .next t ∧ SafOnly s t ∧
      LaneIs t k (refreshed l f s.ticks src) ∧
      (f.nTel = 0 → src = l.src) ∧
      ∀ (m : Fin 12) x tel, l.src[m.val]? = some x → f.nTel = 1 → f.tels = [tel] → FromSource s x m tel →
        src[m.val]? = some { valid := true, seq := some (field tel 2 2), v0 := toSigned 32 (field tel 4 4), v1 := toSigned 32 (field tel 8 4), t := s.ticks })) ∧
  (∀ (k : Fin 2) (levels : BitVec 8) (pins : SafPins) (l : SafLane) (s : State), s.saf.lanes[k.val]? = some l →
    (s.lanesOn = false ∨ s.ticks < l.sampT → exec (.laneSample k levels pins) s = .next s) ∧
    (s.lanesOn = true → l.sampT ≤ s.ticks → ∃ t run mism filt, exec (.laneSample k levels pins) s = .next t ∧
      t.safLane k = { l with run := run, mism := mism, filt := filt, sampT := s.ticks + laneSpan 250 1000 } ∧ t = { s with saf := t.saf } ∧
      (∀ (i : Fin 8) r, l.run[i.val]? = some r →
        (levels.toNat.testBit i = l.filt.testBit i → run[i.val]? = some 0 ∧ filt.testBit i = l.filt.testBit i) ∧
        (levels.toNat.testBit i ≠ l.filt.testBit i → r + 1 < 4 * s.inFilt (i.val / 2) → run[i.val]? = some (r + 1) ∧ filt.testBit i = l.filt.testBit i) ∧
        (levels.toNat.testBit i ≠ l.filt.testBit i → 4 * s.inFilt (i.val / 2) ≤ r + 1 → run[i.val]? = some 0 ∧ filt.testBit i = levels.toNat.testBit i)) ∧
      (∀ (q : Fin 2) x, l.mism[q.val]? = some x → mism[q.val]? = some (if pinDiffers false (s.safCmd 0 q) (pins.p.getD q 0) ||
        pinDiffers true (s.safCmd 1 q) (pins.m.getD q 0) then min (x + 1) 5 else 0)))) ∧
  (∀ (k : Fin 2) (l : SafLane) (s : State), s.saf.lanes[k.val]? = some l →
    (s.lanesOn = false ∨ s.ticks < l.refT + laneSpan s.sxSil 100000 → exec (.safRefreshSilence k) s = .next s) ∧
    (s.lanesOn = true → l.refT + laneSpan s.sxSil 100000 ≤ s.ticks → ∃ t, exec (.safRefreshSilence k) s = .next t ∧ SafOnly s t ∧
      LaneIs t k { l with req := 0, rise := 0, take := false, seq := none, outs := l.outs.map offIfOn }))

/-- Output pair q at lane l. -/
def outAt (l : SafLane) (q : Fin 2) : Nat := (l.outs.getD q SafOut.init).st

/-- Lane k, which holds l, evaluates to l' in a cycle in which the other lane's word is not there yet. -/
def Cycled (s t : State) (k : Fin 2) (l l' : SafLane) : Prop :=
  LaneIs t k l' ∧ l'.src = l.src ∧ l'.rise = 0 ∧ l'.resets = 0 ∧ l'.take = false ∧ l'.word ≠ none ∧ SafOnly s t

/-- A lane whose on for pair q, if one waited for the pulse, has taken place (R395). -/
def waitOver (l : SafLane) (q : Fin 2) : SafLane :=
  if (l.outs.getD q SafOut.init).wait then { l with outs := l.outs.set q.val { SafOut.init with st := 1 } } else l

/-- A safety lane: its cycle, discrepancies, timeouts and test pulses. A cycle, at least 500 µs of the lane's clock after
the one before, evaluates each enabled input pair by the table of R386, each function by R389 and R390 and each output
pair by R391 and R392: OFF turns ON by a rising request under permit, or waits for a light pulse in progress; ON turns
OFF without request and TRIPPED without permit; TRIPPED and FAULT return to OFF by RESET without request; a pin
mismatch of 1 ms gives FAULT. A discrepancy of an input pair or of a function's sources gives FAULT with its flag once
DISC_T has passed. A source that has taken no telegram for TMO becomes invalid and every function that uses it goes to
FAULT. A test pulse starts, once TP_INT has passed, on the switch whose turn it is where the pair is enabled for
tests; at its end a moot one is not counted and comes again 100 ms later, a good one passes the turn, a bad one sends
the pair to FAULT at both lanes, and an on that waited takes place; an overdue one is marked after DIAG_INT. Elsewhere
nothing happens. Where the rules leave a point open, the model's reading of it is in notes/assumptions/25.md. -/
def Obligations.SafetyLanesEvaluateTheirTables : Prop :=
  (∀ (k : Fin 2) (s : State), s.lanesOn = false ∨ s.ticks < (s.safLane k).cycT → exec (.laneCycle k) s = .next s) ∧
  (∀ (k : Fin 2) (l : SafLane) (s : State), s.lanesOn = true → l.cycT ≤ s.ticks → s.saf.lanes[k.val]? = some l → (s.safLane (1 - k.val)).word = none →
    ∃ t l', exec (.laneCycle k) s = .next t ∧ Cycled s t k l l' ∧ l'.cycT = s.ticks + laneSpan 500 1000 ∧
      (∀ (p : Fin 4) i, s.inEn p = true → l.ins[p.val]? = some i →
        (i.st = 0 → s.chanOk l p ≠ (true, true) → (l'.ins.getD p SafIn.init).st = 1) ∧
        (i.st = 0 → s.chanOk l p = (true, true) → (l'.ins.getD p SafIn.init).st = 0) ∧
        (i.st = 1 → i.full = true → s.chanOk l p = (true, true) → (l'.ins.getD p SafIn.init).st = 0) ∧
        (i.st = 1 → i.full = false → s.chanOk l p = (true, true) → (l'.ins.getD p SafIn.init).st = 1) ∧
        (i.st = 2 → i.back = 2 → s.chanOk l p = (true, true) → s.inReset l p = true → (l'.ins.getD p SafIn.init).st = 0) ∧
        (i.st = 2 → s.inReset l p = false → (l'.ins.getD p SafIn.init).st = 2)) ∧
      (∀ (n : Fin 8) f, s.fnType n ≠ 0 → l.fns[n.val]? = some f →
        (f.st ≠ 2 → s.fnValid l n = false → (l'.fns.getD n SafFn.init).st = 2) ∧
        (f.st ≠ 2 → s.fnValid l n = true → s.fnViolates l n = true → s.fnFilt n ≤ f.bad → (l'.fns.getD n SafFn.init).st = 1) ∧
        (f.st ≠ 2 → s.fnValid l n = true → s.fnViolates l n = false → (l'.fns.getD n SafFn.init).st = 0) ∧
        (f.st ≠ 2 → s.fnValid l n = true → f.bad < s.fnFilt n → (l'.fns.getD n SafFn.init).st = 0) ∧
        (f.st = 2 → s.fnReset l n = true → s.fnValid l n = true → s.fnApart l n = false → (l'.fns.getD n SafFn.init).st = 0) ∧
        (f.st = 2 → s.fnReset l n = false ∨ s.fnValid l n = false ∨ s.fnApart l n = true → (l'.fns.getD n SafFn.init).st = 2)) ∧
      (∀ (q : Fin 2) o, l.outs[q.val]? = some o →
        (s.outEn q = true → 5 ≤ l.mism.getD q 0 → o.st ≠ 3 → outAt l' q = 3) ∧
        (l.mism.getD q 0 < 5 →
          (o.st = 0 → s.outEn q = true → s.saf.parBad = false → (l.rise.testBit q = true ∨ (l.take = true ∧ l.req.testBit q = true)) →
            s.safPermit l' q = true → s.lightPulse q = false → outAt l' q = 1) ∧
          (o.st = 0 → s.lightPulse q = true → outAt l' q = 0) ∧
          (o.st = 0 → s.safPermit l' q = false → outAt l' q = 0) ∧
          (o.st = 1 → l.req.testBit q = false → outAt l' q = 0) ∧
          (o.st = 1 → l.req.testBit q = true → s.outEn q = true → s.saf.parBad = false → s.safPermit l' q = true → outAt l' q = 1) ∧
          (o.st = 1 → l.req.testBit q = true → s.outEn q = true → s.saf.parBad = false → s.safPermit l' q = false → outAt l' q = 2) ∧
          (o.st = 2 → outAt l' q = if l.resets.testBit q && !l.req.testBit q && s.safPermit l' q then 0 else 2) ∧
          (o.st = 3 → (l.resets.testBit q = false ∨ l.req.testBit q = true) → outAt l' q = 3)))) ∧
  (∀ (k : Fin 2) (p : Fin 4) (l : SafLane) (i : SafIn) (s : State), s.saf.lanes[k.val]? = some l → l.ins[p.val]? = some i →
    (s.lanesOn = true → s.inEn p = true → i.st = 1 → i.full = false → i.t + laneSpan (s.inDisc p) 1000000 ≤ s.ticks → ∃ t, exec (.inputPairDiscrepancy k p) s = .next t ∧
      LaneIs t k { l with ins := l.ins.set p.val { SafIn.init with st := 2 } } ∧ Raised s t k 5 SAF_ERR_IN_FAULT ∧ SafOnly s t) ∧
    (s.lanesOn = false ∨ s.inEn p = false ∨ i.st ≠ 1 ∨ i.full = true ∨ s.ticks < i.t + laneSpan (s.inDisc p) 1000000 → exec (.inputPairDiscrepancy k p) s = .next s)) ∧
  (∀ (k : Fin 2) (n : Fin 8) (l : SafLane) (f : SafFn) (s : State), s.saf.lanes[k.val]? = some l → l.fns[n.val]? = some f →
    (∀ a, s.lanesOn = true → s.fnType n ≠ 0 → s.fnApart l n = true → f.st ≠ 2 → f.apart = some a →
      a + laneSpan (s.fnDisc n) 10000000 ≤ s.ticks →
      ∃ t, exec (.functionSourceDiscrepancy k n) s = .next t ∧ LaneIs t k { l with fns := l.fns.set n.val { f with st := 2, bad := 0 } } ∧
        Raised s t k 6 SAF_ERR_FN_FAULT ∧ SafOnly s t) ∧
    (s.lanesOn = false ∨ s.fnType n = 0 ∨ s.fnApart l n = false ∨ (∀ a, f.apart = some a → s.ticks < a + laneSpan (s.fnDisc n) 10000000) →
      exec (.functionSourceDiscrepancy k n) s = .next s)) ∧
  (∀ (k : Fin 2) (m : Fin 13) (l : SafLane) (x : SafSrc) (s : State), s.saf.lanes[k.val]? = some l → l.src[m.val]? = some x →
    (s.lanesOn = true → (m = 12 → s.safPairEn = true) → (m ≠ 12 → s.telKind m ≠ 0) → x.valid = true →
      x.t + laneSpan (s.telTmo m) 1000000 ≤ s.ticks →
      ∃ t fns, exec (.telegramTimeout k m) s = .next t ∧
        LaneIs t k { l with src := l.src.set m.val { x with valid := false }, fns := fns } ∧ SafOnly s t ∧
        (s.live = true → s.rd (linkFld k) ≠ 0 → t.rd (if m = 12 then SAF_ALARM_PARTNER_VOTE else SAF_ALARM_TEL_TIMEOUT) = 1) ∧
        ∀ n : Fin 8, n.val < l.fns.length → (fns.getD n SafFn.init).st =
          if s.fnType n ≠ 0 ∧ (s.fnA n = m.val ∨ s.fnB n = m.val) then 2 else (l.fns.getD n SafFn.init).st) ∧
    (s.lanesOn = false ∨ x.valid = false ∨ s.ticks < x.t + laneSpan (s.telTmo m) 1000000 → exec (.telegramTimeout k m) s = .next s)) ∧
  (∀ (q : Fin 2) (m : Bool) (o : Option SafPulse) (n : Nat) (s : State), s.saf.turn[q.val]? = some m → s.saf.pulse[q.val]? = some o →
    s.saf.nextT[2 * q.val + b2n m]? = some n →
    (s.lanesOn = true → s.fio.field.fsOk = true → s.outEn q = true → s.tpEn q = true → o = none → outAt (s.safLane (b2n m)) q ≠ 3 → n ≤ s.ticks →
      exec (.testPulseStart q) s = .next { s with saf := { s.saf with
        pulse := s.saf.pulse.set q.val (some { m := m, light := decide (outAt (s.safLane (b2n m)) q ≠ 1), moot := false, t := s.ticks })
        nextT := s.saf.nextT.set (2 * q.val + b2n m) (s.ticks + laneSpan (s.outTpInt q) 1000000000) } }) ∧
    (s.lanesOn = false ∨ s.fio.field.fsOk = false ∨ s.outEn q = false ∨ s.tpEn q = false ∨ o ≠ none ∨ outAt (s.safLane (b2n m)) q = 3 ∨ s.ticks < n →
      exec (.testPulseStart q) s = .next s)) ∧
  (∀ (q : Fin 2) (mv : Nat) (o : Option SafPulse) (b : Bool) (s : State), s.saf.pulse[q.val]? = some o → s.saf.turn[q.val]? = some b →
    (o = none → exec (.testPulseEnd q mv) s = .next s) ∧
    (∀ p, o = some p → s.ticks < p.t + laneSpan (s.outPulseW q) 10000 → exec (.testPulseEnd q mv) s = .next s) ∧
    (∀ p, o = some p → p.t + laneSpan (s.outPulseW q) 10000 ≤ s.ticks → p.moot = true →
      ∃ t, exec (.testPulseEnd q mv) s = .next t ∧ t.saf.pulse = s.saf.pulse.set q.val none ∧
        t.saf.turn = s.saf.turn.set q.val p.m ∧ t.saf.nextT = s.saf.nextT.set (2 * q.val + b2n p.m) (s.ticks + laneSpan 100 1000000) ∧
        t.saf.doneT = s.saf.doneT ∧ (∀ k : Fin 2, LaneIs t k (waitOver (s.safLane k) q)) ∧ SafOnly s t) ∧
    (∀ p, o = some p → p.t + laneSpan (s.outPulseW q) 10000 ≤ s.ticks → p.moot = false → (if p.m = p.light then mv < 5000 else 11000 < mv) →
      ∃ t, exec (.testPulseEnd q mv) s = .next t ∧ t.saf.pulse = s.saf.pulse.set q.val none ∧ t.saf.turn = s.saf.turn.set q.val (!p.m) ∧
        t.saf.doneT = s.saf.doneT.set (2 * q.val + b2n p.m) s.ticks ∧ (∀ k : Fin 2, LaneIs t k (s.safLane k)) ∧ SafOnly s t) ∧
    (∀ p, o = some p → p.t + laneSpan (s.outPulseW q) 10000 ≤ s.ticks → p.moot = false → ¬ (if p.m = p.light then mv < 5000 else 11000 < mv) →
      ∃ t, exec (.testPulseEnd q mv) s = .next t ∧ t.saf.turn = s.saf.turn.set q.val (!p.m) ∧ SafOnly s t ∧
        ∀ (k : Fin 2) l, s.saf.lanes[k.val]? = some l → q.val < l.outs.length → outAt (t.safLane k) q = 3)) ∧
  (∀ (q : Fin 2) (m : Bool) (d n : Nat) (s : State), s.saf.due[q.val]? = some d → s.saf.doneT[2 * q.val + b2n m]? = some n →
    (s.lanesOn = true → s.outEn q = true → s.tpEn q = true → n + laneSpan (s.outDiagInt q) 60000000000 ≤ s.ticks → ∃ t, exec (.testPulseOverdue q m) s = .next t ∧
      t.saf.due = s.saf.due.set q.val (d ||| 2 ^ b2n m) ∧ SafOnly s t) ∧
    (s.lanesOn = false ∨ s.outEn q = false ∨ s.tpEn q = false ∨ s.ticks < n + laneSpan (s.outDiagInt q) 60000000000 → exec (.testPulseOverdue q m) s = .next s))

/-- An on of output pair q waits at lane l (R395). -/
def waitAt (l : SafLane) (q : Fin 2) : Bool := (l.outs.getD q SafOut.init).wait

/-- The cycle of lane k from s to t decides to turn output pair q ON (R391, R392, R400). -/
def OnDecided (s t : State) (k q : Fin 2) : Prop :=
  s.lanesOn = true ∧ (s.safLane k).cycT ≤ s.ticks ∧ outAt (s.safLane k) q = 0 ∧ s.outEn q = true ∧ s.saf.parBad = false ∧
    ((s.safLane k).rise.testBit q = true ∨
      (((s.safLane k).take = true ∨ waitAt (s.safLane k) q = true) ∧ (s.safLane k).req.testBit q = true)) ∧
    s.safPermit (t.safLane k) q = true

/-- An output pair turns ON only from OFF: in its own lane's cycle by a permitted rising request, or at the end of a light
pulse on which such an on waited. If a step takes output pair q at lane k to ON from another state, then the pair was
either OFF at a cycle of lane k with the lanes' supply on, enabled, its parameters good, no light pulse in progress on
it, its request had risen (or was taken over, or waited), and every input pair and function that serves it permits it;
or an on of it waited for the moot pulse on it whose end the step was. An on comes to wait only in a cycle of the
lane, under the same conditions and a light pulse. Where the rules leave a point open, the model's reading of it is in
notes/assumptions/25.md. -/
def Obligations.OutputPairsTurnOnOnlyInALaneCycle : Prop :=
  (∀ (s t : State) (k q : Fin 2), step s = .next t → outAt (s.safLane k) q ≠ 1 → outAt (t.safLane k) q = 1 →
    (∃ rest, s.pending = .laneCycle k :: rest ∧ OnDecided s t k q ∧ s.lightPulse q = false) ∨
      (∃ mv rest, s.pending = .testPulseEnd q mv :: rest ∧ waitAt (s.safLane k) q = true ∧
        ∃ p, s.saf.pulse[q.val]? = some (some p) ∧ p.moot = true)) ∧
  (∀ (s t : State) (k q : Fin 2), step s = .next t → waitAt (s.safLane k) q = false → waitAt (t.safLane k) q = true →
    ∃ rest, s.pending = .laneCycle k :: rest ∧ OnDecided s t k q ∧ s.lightPulse q = true)

/-- The logic side of the safety lanes: frames, links, telegrams, votes, RESET and REQ. Each downlink frame carries the
next SEQ, REQ, PERMIT, the waiting RESET and TAKE and up to four waiting telegrams, oldest first, under a correct CRC,
and clears what it carried. A lane's valid answer sets its LINK; a lane without one for 1 ms clears it and sets
SX_SILENT. The oldest telegram that has arrived in a receive record, as it was stored, or that of the DATA frame
delivered last, a vote only in pair configuration, joins the waiting ones. In pair configuration a vote goes to the
partner under the next SEQ. The RESETs asked for are all taken, and logged, where the states allow every one of them;
otherwise none is and CMD_REJ is set. REQ is written. Where the rules leave a point open, the model's reading of it is
in notes/assumptions/25.md. -/
def Obligations.TheLogicSideServesTheSafetyLanes : Prop :=
  (∀ s : State, s.live = true → ∃ t f, exec .safDownlinkSend s = .next t ∧ t.saf.sent = some f ∧ f.crc = safDownCrc f ∧
    f.seq = (s.saf.seq + 1) % 65536 ∧ f.req = s.rd SAF_REQ_REQ ∧ f.permit = s.permit ∧ f.reset = s.saf.resets ∧ f.take = s.saf.take ∧
    f.tels = s.saf.tels.take 4 ∧ f.nTel = f.tels.length ∧
    t.saf = { s.saf with seq := f.seq, resets := 0, take := false, tels := s.saf.tels.drop 4, sent := some f } ∧
    t.rd SAF_STATUS_PERMIT = b2n s.permit ∧ RegsBut [SAF_STATUS_PERMIT] s t ∧ t = { s.like t with saf := t.saf }) ∧
  (∀ (k : Fin 2) (l : SafLane) (s : State), s.live = true → s.saf.lanes[k.val]? = some l →
    (s.lanesOn = true → l.answer = true → ∃ t, exec (.safUplinkReceive k true) s = .next t ∧ t.rd (linkFld k) = 1 ∧
      LaneIs t k { l with answer := false } ∧ t.saf.upT = s.saf.upT.set k.val s.ticks ∧ SafOnly s t) ∧
    (s.lanesOn = false ∨ l.answer = false → exec (.safUplinkReceive k true) s = .next s) ∧
    exec (.safUplinkReceive k false) s = .next s ∧
    ∀ n, s.saf.upT[k.val]? = some n →
      (n + 250000 ≤ s.ticks → ∃ t, exec (.safLaneSilent k) s = .next t ∧ t.rd (linkFld k) = 0 ∧ t.rd SAF_ERR_SX_SILENT = 1 ∧
        RegsBut [linkFld k, SAF_ERR_SX_SILENT] s t ∧ t = s.like t) ∧
      (s.ticks < n + 250000 → exec (.safLaneSilent k) s = .next s)) ∧
  (∀ (n : Fin 4) (m : Fin 128) (s : State), s.live = true →
    (∀ b, s.saf.fresh.find? (fun e => e.1 = recIx n m) = some (recIx n m, b) → exec (.telegramArrival (some (n, m))) s = .next { s with saf := { s.saf with
      tels := s.saf.tels ++ [slice b 0 16], fresh := s.saf.fresh.eraseP fun e => e.1 = recIx n m } }) ∧
    (s.saf.fresh.find? (fun e => e.1 = recIx n m) = none → exec (.telegramArrival (some (n, m))) s = .next s)) ∧
  (∀ (p : Nat) (f : ZFrame) (w : WireWord) (d : Bytes) (rest : List WireWord) (s : State), s.live = true → s.zfb.deliv = some (p, f) →
    f.hdr.cls = 8 → f.hdr.aux % 256 = 0x11 ∨ f.hdr.aux % 256 = 0x12 ∧ s.rd SAF_MODE_PAIR_EN ≠ 0 → f.words = w :: rest → pipData w = some d →
    exec (.telegramArrival none) s = .next { s with zfb := { s.zfb with deliv := none }, saf := { s.saf with tels := s.saf.tels ++ [slice d 0 16] } }) ∧
  (∀ (partner : BitVec 18) (s : State), s.live = true →
    (s.rd SAF_MODE_PAIR_EN = 0 → exec (.voteSend partner) s = .next s) ∧
    (s.rd SAF_MODE_PAIR_EN ≠ 0 → ∃ t, exec (.voteSend partner) s = .next t ∧
      t.saf = { s.saf with vseq := (s.saf.vseq + 1) % 65536 } ∧ t.zfb.seq = modAt s.zfb.seq 8 (fun n => (n + 1) % 2 ^ 16) ∧
      ((s.on ZFB_STATUS_ASSIGNED = true → partner.toNat ≠ s.rd ZFB_ID_NODE_ID) → (s.on ZFB_STATUS_GROUP = true → partner.toNat ≠ s.cid) →
        OnlyBlock 9 s t ∧ t = { s.like t with saf := t.saf, zfb := t.zfb, pmc := t.pmc }))) ∧
  (∀ (v : BitVec 2) (s : State), s.live = true →
    (v = 0 → exec (.safReset v) s = .next s) ∧
    (v ≠ 0 → (∀ q : Fin 2, v.toNat.testBit q = true → s.resetAllowed q = true) → ∃ t, exec (.safReset v) s = .next t ∧
      t.saf = { s.saf with resets := s.saf.resets ||| v.toNat } ∧ RegsBut logFields s t ∧ t = { s.like t with saf := t.saf }) ∧
    ((∃ q : Fin 2, v.toNat.testBit q = true ∧ s.resetAllowed q = false) → exec (.safReset v) s = .next (s.wr SAF_ERR_CMD_REJ 1)) ∧
    exec (.safReqWrite v) s = .next (s.wr SAF_REQ_REQ v.toNat))

/-- The length checks of R307 step 1 and R308 pass for a command of which len bytes arrived. -/
def LengthOk (c : Bytes) (len : Nat) : Prop :=
  16 ≤ len ∧ cmdLen c ≤ 1008 ∧ 16 + cmdLen c ≤ len ∧ lenClaim (cmdOp c) (cmdParams c) = false

/-- Steps 1 and 2 of R307 pass. -/
def PassesSteps (c : Bytes) (len : Nat) : Prop := LengthOk c len ∧ cmdCheckOk c = true

/-- The command is no repeat for mailbox b (R309). -/
def NoRepeat (b : Mailbox) (src : Source) (c : Bytes) : Prop := ∀ r, b.last ≠ some (src, cmdSeq c, r)

/-- The status with which the first checks turn a command away (R307, R308). -/
def FailsWith (b : Mailbox) (src : Source) (c : Bytes) (len k : Nat) : Prop :=
  (k = 1 ∧ ¬ LengthOk c len) ∨ (k = 2 ∧ LengthOk c len ∧ cmdCheckOk c = false) ∨
  (k = 4 ∧ PassesSteps c len ∧ NoRepeat b src c ∧ cmdOp c ∉ knownOps)

/-- MBX_MB_STAT shows the mailboxes and their paths (R321). -/
def Shown (t : State) : Prop :=
  ∀ k < 8, t.rd (MBX_MB_STAT_STATE k) = if t.rd (MBX_PATH_PATH k) = 0 then (t.box k).st % 4 else 3

def statFields : List Fld := (List.range 8).map MBX_MB_STAT_STATE

/-- A mailbox replaced; one added to the order of acceptance; the response sent last. -/
def Sys2Proof.Machine.MbxState.withBox (m : MbxState) (n : Nat) (b : Mailbox) : MbxState := { m with boxes := m.boxes.set n b }
def Sys2Proof.Machine.MbxState.joined (m : MbxState) (n : Nat) : MbxState := { m with order := m.order ++ [n] }
def Sys2Proof.Machine.MbxState.withSent (m : MbxState) (dst : Source) (n : Nat) (r : Bytes) : MbxState := { m with sent := some { dst := dst, mb := n, resp := r } }

/-- Mailbox n, which was b, is BUSY with a command that stands last in the order of acceptance; no other part has changed. -/
def Entered (s t : State) (n : Nat) (b : Mailbox) (src : Source) (ctr : Nat) (c : Bytes) (len : Nat) : Prop :=
  t = { s.like t with mbx := ((s.mbx.withBox n { b with st := 1, cmd := c, len := len, src := src, seq := cmdSeq c, ctr := ctr }).joined n) } ∧ Shown t

/-- A host command answered at once: mailbox n, which was b, is DONE with a response, and nothing joined the order. -/
def HostDone (s t : State) (n : Nat) (b : Mailbox) (resp : Bytes) : Prop :=
  (∃ b', t.mbx.boxes = s.mbx.boxes.set n b' ∧ b'.st = 2 ∧ b'.resp = resp ∧ b'.cmd = b.cmd ∧ b'.src = .host) ∧
  t.mbx.order = s.mbx.order ∧ t.mbx.long = s.mbx.long ∧ Shown t ∧ OnlyBlock 11 s t ∧ t = { s.like t with mbx := t.mbx } ∧
  ∀ k < 8, (t.rd MBX_IRQ_DONE).testBit k = ((s.rd MBX_IRQ_DONE).testBit k || (decide (k = n) && (cmdFlags b.cmd).testBit 0))

/-- The requester is this module itself, over the fabric: a response to it goes into its own receive ring. -/
def OwnRequest (s : State) (src : Source) : Prop :=
  ∃ node dom, src = .fabric node dom ∧ (s.on ZFB_STATUS_ASSIGNED = true ∧ node = s.rd ZFB_ID_NODE_ID ∨ s.on ZFB_STATUS_GROUP = true ∧ node = s.cid)

/-- A command turned away without entering: its response is sent, counted by its status, and every mailbox stands. -/
def TurnedAway (s t : State) (n : Nat) (src : Source) (c : Bytes) (status : Nat) : Prop :=
  t.mbx = s.mbx.withSent src n (mkResp (if c.length < 16 then 0xFFFF else cmdOp c) (cmdSeq c) status 0 s.ns32 []) ∧
  (status = 1 → t.rd MBX_CNT_LEN_CNT = min (s.rd MBX_CNT_LEN_CNT + 1) 65535) ∧
  (status = 2 → t.rd MBX_CNT_CHECK_CNT = min (s.rd MBX_CNT_CHECK_CNT + 1) 65535) ∧
  (status = 3 → t.rd MBX_CNT_REFUSED_CNT = min (s.rd MBX_CNT_REFUSED_CNT + 1) 65535) ∧
  (∀ k < 8, t.rd (MBX_MB_STAT_STATE k) = s.rd (MBX_MB_STAT_STATE k)) ∧ (¬ OwnRequest s src → MemSame s t)

/-- The bytes of a frame's payload (R312); a word that cannot be corrected reads zeros. -/
def cmdBytes (f : ZFrame) : Bytes := f.words.flatMap fun w => (pipData w).getD (bytesOf 32 0)

/-- A well-formed datagram with a request for a mailbox (R314). -/
def RequestHead (b : Bytes) (n : Fin 8) : Prop := 24 ≤ b.length ∧ field b 0 1 = 1 ∧ field b 1 1 = n ∧ field b 2 2 = 0

/-- The datagram passes R315 under the host key. -/
def Authentic (s : State) (b : Bytes) : Prop :=
  (∃ k, s.mbx.hostKey = some k ∧ (hmac k (0x48 :: (b.take 8 ++ b.drop 24))).take 16 = slice b 8 16) ∧
  s.mbx.ethCtr < field b 4 4 ∧ field b 4 4 ≠ 0xFFFFFFFF

/-- The frame delivered last is a command for this module. -/
def CommandFrame (s : State) (f : ZFrame) : Prop :=
  (∃ p, s.zfb.deliv = some (p, f)) ∧ f.hdr.cls = 6 ∧ f.hdr.aux.testBit 3 = false

/-- The frame just read, taken away. -/
def Sys2Proof.Machine.State.frameTaken (s : State) : State := { s with zfb := { s.zfb with deliv := none } }

/-- The command counter of R315 stored. -/
def Sys2Proof.Machine.State.withEthCtr (s : State) (v : Nat) : State := { s with mbx := { s.mbx with ethCtr := v } }

/-- The mailboxes take commands from the host bus, the fabric, Ethernet and the helm cores. A doorbell on a mailbox of
another path sets RING_PATH, on a BUSY one RING_BUSY and it is counted; on an IDLE or DONE one the command in its
buffer is judged: one that passes steps 1 to 3 of R307 and is no repeat enters the mailbox, which is BUSY, and joins
the order of acceptance; one that fails is answered with that step's status, and a repeat with the stored response and
REPEAT, without joining it. An unread response is counted in RESP_LOST. Mailboxes that a mask does not ring stand.
MBX_ACK takes DONE to IDLE. A buffer write puts two bytes into the buffer of the mailbox shown, or sets WR_BUSY. A
path write applies to IDLE mailboxes and sets CFG_REJ for one that would change its path while it is not. A MAILBOX
frame, an Ethernet datagram with a right tag and a greater counter, and a helm core's command enter a mailbox of their
own path in the same way; on the fabric one for the CID without TOKEN is left, one of more than 32 words, or that
fails steps 1 to 3, or comes to another path or a BUSY mailbox, is turned away with its status, and a repeat of the
running command is discarded; a malformed datagram is counted alone, and one whose tag or counter fails gets
CHECK_FAILED under a tag of zeros. That a command's first checks and repeats are judged when it arrives is the model's
reading (notes/assumptions/28.md). -/
def Obligations.MailboxesTakeCommands : Prop :=
  (∀ (n : Fin 8) (b : Mailbox) (s : State), s.live = true → s.mbx.boxes[n.val]? = some b →
    let ring := exec (.doorbell (1#8 <<< n.val)) s
    (s.rd (MBX_PATH_PATH n) ≠ 0 → ring = .next (s.wr MBX_HB_ERR_RING_PATH 1)) ∧
    (s.rd (MBX_PATH_PATH n) = 0 → b.st = 1 → ∃ t, ring = .next t ∧ t.rd MBX_HB_ERR_RING_BUSY = 1 ∧
      t.rd MBX_CNT_REFUSED_CNT = min (s.rd MBX_CNT_REFUSED_CNT + 1) 65535 ∧
      RegsBut [MBX_HB_ERR_RING_BUSY, MBX_CNT_REFUSED_CNT] s t ∧ t = s.like t) ∧
    (s.rd (MBX_PATH_PATH n) = 0 → b.st ≠ 1 →
      (b.st = 2 → ∃ t, ring = .next t ∧ t.rd MBX_CNT_RESP_LOST = min (s.rd MBX_CNT_RESP_LOST + 1) 65535) ∧
      (PassesSteps b.cmd 1024 → NoRepeat b .host b.cmd → cmdOp b.cmd ∈ knownOps →
        ∃ t, ring = .next t ∧ Entered s t n b .host 0 b.cmd 1024 ∧ RegsBut (MBX_CNT_RESP_LOST :: statFields) s t) ∧
      (∀ k, FailsWith b .host b.cmd 1024 k →
        ∃ t, ring = .next t ∧ HostDone s t n b (mkResp (cmdOp b.cmd) (cmdSeq b.cmd) k 0 s.ns32 [])) ∧
      (∀ r, PassesSteps b.cmd 1024 → b.last = some (.host, cmdSeq b.cmd, r) →
        ∃ t, ring = .next t ∧ HostDone s t n b (asRepeat r)))) ∧
  (∀ (mask : BitVec 8) (s : State), s.live = true →
    (∃ t, exec (.doorbell mask) s = .next t ∧ OnlyBlock 11 s t ∧ t = { s.like t with mbx := t.mbx } ∧
      ∀ k, mask.getLsbD k = false → t.mbx.boxes[k]? = s.mbx.boxes[k]?) ∧
    (∃ t, exec (.mbxAck mask) s = .next t ∧ Shown t ∧ RegsBut statFields s t ∧ t = { s.like t with mbx := { s.mbx with boxes := t.mbx.boxes } } ∧
      ∀ k : Nat, t.mbx.boxes[k]? = (s.mbx.boxes[k]?).map fun b => if mask.getLsbD k && decide (b.st = 2) then { b with st := 0 } else b)) ∧
  (∀ (word : Fin 512) (v : BitVec 16) (b : Mailbox) (s : State), s.live = true → s.mbx.boxes[s.rd MBX_PAGE_MB]? = some b →
    (b.st = 1 → exec (.hostBufferWrite word v) s = .next (s.wr MBX_HB_ERR_WR_BUSY 1)) ∧
    (b.st ≠ 1 → ∃ c, exec (.hostBufferWrite word v) s =
        .next { s with mbx := s.mbx.withBox (s.rd MBX_PAGE_MB) { b with cmd := c } } ∧
      c.length = max b.cmd.length (2 * word + 2) ∧ field c (2 * word) 2 = v.toNat ∧
      ∀ i, i ≠ 2 * word.val → i ≠ 2 * word.val + 1 → c.getD i 0 = b.cmd.getD i 0)) ∧
  (∀ (v : BitVec 16) (s : State), s.live = true → ∃ t, exec (.mbxPathWrite v) s = .next t ∧ Shown t ∧ t = s.like t ∧
    RegsBut (MBX_HB_ERR_CFG_REJ :: statFields ++ (List.range 8).map MBX_PATH_PATH) s t ∧
    (∀ n < 8, t.rd (MBX_PATH_PATH n) = if (s.box n).st = 0 then bits v.toNat (2 * n) 2 else s.rd (MBX_PATH_PATH n)) ∧
    ((∃ n < 8, (s.box n).st ≠ 0 ∧ bits v.toNat (2 * n) 2 ≠ s.rd (MBX_PATH_PATH n)) → t.rd MBX_HB_ERR_CFG_REJ = 1) ∧
    ((∀ n < 8, (s.box n).st = 0) → t.rd MBX_HB_ERR_CFG_REJ = s.rd MBX_HB_ERR_CFG_REJ)) ∧
  (∀ (f : ZFrame) (n : Fin 8) (b : Mailbox) (s : State), s.live = true → CommandFrame s f → f.hdr.aux % 8 = n →
    s.mbx.boxes[n.val]? = some b →
    let src := Source.fabric f.hdr.src f.hdr.srcDom
    let c := cmdBytes f
    let u := s.frameTaken
    (f.hdr.dst = s.cid → f.hdr.dst ≠ s.rd ZFB_ID_NODE_ID → s.holds = false → exec .mailboxFrameReceive s = .next u) ∧
    (f.hdr.dst ≠ s.cid ∨ s.holds = true →
      (32 < f.words.length → ∃ t, exec .mailboxFrameReceive s = .next t ∧ TurnedAway u t n src c 1) ∧
      (f.words.length ≤ 32 →
        (∀ k, FailsWith b src c c.length k → ∃ t, exec .mailboxFrameReceive s = .next t ∧ TurnedAway u t n src c k) ∧
        (PassesSteps c c.length → cmdOp c ∈ knownOps →
          (s.rd (MBX_PATH_PATH n) ≠ 1 ∨ (b.st = 1 ∧ (b.src ≠ src ∨ b.seq ≠ cmdSeq c)) →
            ∃ t, exec .mailboxFrameReceive s = .next t ∧ TurnedAway u t n src c 3) ∧
          (s.rd (MBX_PATH_PATH n) = 1 → b.st = 1 → b.src = src → b.seq = cmdSeq c → exec .mailboxFrameReceive s = .next u) ∧
          (s.rd (MBX_PATH_PATH n) = 1 → b.st ≠ 1 → NoRepeat b src c →
            ∃ t, exec .mailboxFrameReceive s = .next t ∧ Entered u t n b src 0 c c.length ∧ RegsBut statFields s t))))) ∧
  (∀ (addr : BitVec 128) (port : BitVec 16) (d : Bytes) (s : State), s.live = true →
    (s.rd MBX_ETH_CFG_EN = 0 → exec (.ethernetDatagram addr port d) s = .next s) ∧
    (s.rd MBX_ETH_CFG_EN ≠ 0 →
      (¬ (∃ n, RequestHead d n) → ∃ t, exec (.ethernetDatagram addr port d) s = .next t ∧
        t.rd MBX_CNT_CHECK_CNT = min (s.rd MBX_CNT_CHECK_CNT + 1) 65535 ∧ RegsBut [MBX_CNT_CHECK_CNT] s t ∧ t = s.like t) ∧
      ∀ (n : Fin 8) (b : Mailbox), RequestHead d n → s.mbx.boxes[n.val]? = some b →
        let c := d.drop 24
        let src := Source.eth addr.toNat port.toNat
        (LengthOk c c.length → ¬ Authentic s d → ∃ t, exec (.ethernetDatagram addr port d) s = .next t ∧
          t.rd MBX_CNT_CHECK_CNT = min (s.rd MBX_CNT_CHECK_CNT + 1) 65535 ∧
          t.mbx = s.mbx.withSent src n
            ([0x01, BitVec.ofNat 8 (n.val + 8), 0, 0] ++ bytesOf 4 (field d 4 4) ++ bytesOf 16 0 ++
              mkResp (cmdOp c) (cmdSeq c) 2 0 s.ns32 []) ∧
          t = { s.like t with mbx := t.mbx } ∧
          (s.log.staged.length < 4000 → ∃ x ∈ t.log.staged, x.e.source = 11 ∧ x.e.code = 192 + cmdOp c / 256 % 64)) ∧
        (Authentic s d → PassesSteps c c.length → cmdOp c ∈ knownOps → s.rd (MBX_PATH_PATH n) = 2 → b.st ≠ 1 → NoRepeat b src c →
          ∃ t, exec (.ethernetDatagram addr port d) s = .next t ∧
            Entered (s.withEthCtr (field d 4 4)) t n b src (field d 4 4) c c.length ∧ RegsBut statFields s t))) ∧
  (∀ (n : Fin 8) (c : Bytes) (b : Mailbox) (s : State), s.live = true → s.mbx.boxes[n.val]? = some b →
    (∀ k, FailsWith b .internal c c.length k → ∃ t, exec (.internalCommand n c) s = .next t ∧ TurnedAway s t n .internal c k) ∧
    (PassesSteps c c.length → cmdOp c ∈ knownOps →
      (s.rd (MBX_PATH_PATH n) ≠ 3 → ∃ t, exec (.internalCommand n c) s = .next t ∧ TurnedAway s t n .internal c 3) ∧
      (s.rd (MBX_PATH_PATH n) = 3 → b.st ≠ 1 → NoRepeat b .internal c →
        ∃ t, exec (.internalCommand n c) s = .next t ∧ Entered s t n b .internal 0 c c.length ∧ RegsBut statFields s t)))

/-- A response as it leaves for its source (R303, R312, R314, R315). -/
def sentForm (s : State) (n : Nat) (b : Mailbox) (r : Bytes) : Bytes :=
  match b.src with
  | .eth _ _ =>
    let head : Bytes := [0x01, BitVec.ofNat 8 (n + 8), 0, 0] ++ bytesOf 4 b.ctr
    head ++ (match s.mbx.hostKey with | some k => (hmac k (0x49 :: (head ++ r))).take 16 | none => bytesOf 16 0) ++ r
  | _ => r

/-- The command of mailbox n, which was b, has ended with a status and data, from s to t. -/
def CommandEnds (s t : State) (n : Nat) (b : Mailbox) (status : Nat) (data : Bytes) : Prop :=
  let r := mkResp (cmdOp b.cmd) b.seq status 0 s.ns32 data
  t.mbx = (s.mbx.withBox n { b with resp := r, st := if b.src = .host then 2 else 0, last := some (b.src, b.seq, r) }).withSent b.src n
    (sentForm s n b r) ∧
  Shown t ∧
  (∀ k < 8, (t.rd MBX_IRQ_DONE).testBit k =
    ((s.rd MBX_IRQ_DONE).testBit k || (decide (k = n) && decide (b.src = .host) && (cmdFlags b.cmd).testBit 0))) ∧
  t.rd MBX_CNT_REFUSED_CNT = (if status = 3 then min (s.rd MBX_CNT_REFUSED_CNT + 1) 65535 else s.rd MBX_CNT_REFUSED_CNT) ∧
  t.rd MBX_CNT_CHECK_CNT = (if status = 2 then min (s.rd MBX_CNT_CHECK_CNT + 1) 65535 else s.rd MBX_CNT_CHECK_CNT) ∧
  t.rd MBX_CNT_LEN_CNT = (if status = 1 then min (s.rd MBX_CNT_LEN_CNT + 1) 65535 else s.rd MBX_CNT_LEN_CNT) ∧
  (cmdOp b.cmd ∈ [0x0003, 0x0403, 0x0404, 0x0501, 0x0502] → s.log.staged.length < 4000 →
    ∃ x ∈ t.log.staged, x.e.source = 11 ∧ x.e.code = 192 + cmdOp b.cmd / 256) ∧
  (b.src = .host ∨ b.src = .internal → OnlyBlock 11 s t ∧ t = { s.like t with mbx := t.mbx }) ∧ (¬ OwnRequest s b.src → MemSame s t)

/-- A command ends with its response, and a long one when its work is done. Answering mailbox n's command with a status
and data writes the response of R305 to its buffer, keeps it with the source and SEQ as the last executed, and leaves
the mailbox DONE on the host bus, with its MBX_IRQ bit set where FLAGS asks, and IDLE on any other path; the response
is sent to the requester, on Ethernet in a datagram under the tag of R315. STATE_REFUSED, CHECK_FAILED and
LENGTH_EXCEEDS are counted; a key command, RESTART, FW_SELECT and BULB_CLEAR are entered in the fault log. The long
command's end frees the background and answers its mailbox. An event message of the host Ethernet port is stamped.
Where the rules leave a point open, the model's reading of it is in notes/assumptions/28.md. -/
def Obligations.ResponsesEndCommands : Prop :=
  (∀ (s : State) (n : Fin 8) (b : Mailbox) (status : Nat) (data : Bytes), s.mbx.boxes[n.val]? = some b →
    CommandEnds s (s.respond n status data) n b status data) ∧
  (∀ (s : State) (n : Fin 8) (b : Mailbox) (status : Nat) (data : Bytes), s.live = true → s.mbx.long = some (n.val, status, data) →
    s.mbx.boxes[n.val]? = some b →
    ∃ u t, exec .longCommandComplete s = .next t ∧ CommandEnds u t n b status data ∧
      u = { s.like u with mbx := { s.mbx with long := none } } ∧ u.log = s.log ∧ u.rd MBX_STATUS_LONG_RUN = 0 ∧ u.rd MBX_STATUS_LONG_MB = 0 ∧
      RegsBut [MBX_STATUS_LONG_RUN, MBX_STATUS_LONG_MB] s u) ∧
  (∀ s : State, s.mbx.long = none → exec .longCommandComplete s = .next s) ∧
  (∀ (t : BitVec 32) (s : State), s.live = true →
    exec (.hostEthernetFrame true t) s = .next { s with ptu := { s.ptu with ethStamp := some t.toNat } } ∧
    exec (.hostEthernetFrame false t) s = .next s)

/-- The command at the head of the order is mailbox n's, with opcode op and parameters p; R311 bars it not, and its
reserved header fields are 0. -/
def Front (s : State) (n : Fin 8) (rest : List Nat) (op : Nat) (p : Bytes) : Prop :=
  s.live = true ∧ s.mbx.order = n.val :: rest ∧ cmdOp (s.box n).cmd = op ∧ cmdParams (s.box n).cmd = p ∧
    s.barred op (s.box n).src = false ∧ cmdReserved (s.box n).cmd = false

/-- The state with the head of the order taken. -/
def Sys2Proof.Machine.State.popped (s : State) (rest : List Nat) : State := { s with mbx := { s.mbx with order := rest } }

/-- The command of mailbox n carries FLAGS.FORCE. -/
def forced (s : State) (n : Fin 8) : Prop := (cmdFlags (s.box n).cmd).testBit 1 = true

/-- What a word of memory reads as over the mailboxes: an erased word of flash as all ones, else a clean word's data. -/
def WordReads (s : State) (w : Nat) (d : Bytes) : Prop :=
  if inFlash (32 * w) = true ∧ s.rdRaw w = erasedWord then d = List.replicate 32 0xFF else pipDecode (s.rdRaw w) = .clean d

/-- The status with which a register write's outcome is answered (R318). -/
def writeStatus : WRes → Nat
  | .ok => 0 | .range => 5 | .state => 3

/-- A register that is no counter of the performance block and that R62 does not cover. -/
def PlainReg (l : RegLoc) : Prop := wideRow l.row = false ∧ l.row.name ≠ "PMC_CNT"

/-- Mailbox commands of the groups 0x00, 0x01, 0x02 and 0x09. With its command at the head of the order of acceptance, not
barred by R311 and with its reserved fields 0: IDENTIFY answers OK with UID, slot and version, ordering code, role,
PAIR_POS and the active CRC, and BAD_ENTRY where it carries parameters; STATUS answers 32 bytes with the role, MONITOR
before the start has completed, gate and PTU states, Bulb reason and the alarm words. RESTART without TOKEN or with
FORCE answers OK and holds the module in reset, TOKEN released; in HOLD without FORCE it is refused. FAULT_LOG_READ
answers the entries. REG_READ of one plain register answers its word with its clear-on-read fields cleared, REG_WRITE
writes a one-word register and answers by the outcome, and both answer BAD_ENTRY where the address is no register.
MEM_READ answers the words of SRAM, DRAM or flash, CHECK_FAILED and no data where one is uncorrectable; MEM_WRITE
writes whole words of SRAM or DRAM; flash, registers and unaligned runs are BAD_ENTRY. ROUTE_READ answers routing
entries. ROLL_START begins a run on the holder of TOKEN, one at a time, and half 2 of a Domino pair passes it to half
1. Layouts of the data that the spec leaves open are the model's (notes/assumptions/30.md). -/
def Obligations.CommandsReachTheModule : Prop :=
  ∀ (s : State) (n : Fin 8) (rest : List Nat) (p : Bytes),
    let v := s.popped rest
    (Front s n rest 0x0001 p →
      (p = [] → ∃ ver, exec .identify s = .next (v.respond n 0 (bytesOf 8 Config.uid.toNat ++ ver ++ bytesOf 2 Config.orderingCode.toNat ++
          bytesOf 1 s.start.role.code ++ bytesOf 1 (s.rd PRD_STATUS_POS) ++ bytesOf 4 s.activeCrc)) ∧ ver.length = 8 ∧
        (s.start.phase ≠ .bulb → ver.head? = some (BitVec.ofNat 8 (s.rd MBX_START_SLOT_RUN)))) ∧
      (p ≠ [] → exec .identify s = .next (v.respond n 5 []))) ∧
    (Front s n rest 0x0002 [] → ∃ d, exec .statusCommand s = .next (v.respond n 0 d) ∧ d.length = 32 ∧
      field d 0 1 = (if s.start.phase = .running then s.start.role.code else Role.monitor.code) ∧
      field d 1 1 = s.rd PRD_STATUS_GATE % 256 ∧ field d 2 1 = s.rd PTU_STATUS_STATE % 256 ∧
      field d 3 1 = (if s.start.phase = .bulb then s.rd MBX_START_REASON % 256 else 0) ∧
      field d 4 4 = s.word 0x4004000C % 2 ^ 32 ∧ field d 8 4 = s.word 0x4006000C % 2 ^ 32 ∧ field d 12 4 = s.word 0x400F000C % 2 ^ 32) ∧
    (Front s n rest 0x0003 [] →
      (s.holds = false ∨ forced s n → ∃ t, exec .restartCommand s = .next t ∧ t.live = false ∧ t.pwr.src = 5 ∧ t.start.phase = .idle ∧
        t.start.role = .monitor ∧ t.holds = false ∧ t.mbx.sent = (v.respond n 0 []).mbx.sent) ∧
      (s.holds = true → ¬ forced s n → exec .restartCommand s = .next (v.respond n 3 []))) ∧
    (Front s n rest 0x0004 p → p.length = 6 →
      exec .faultLogRead s = .next (v.respond n 0 (s.logRead (field p 0 4) (field p 4 2)).flatten)) ∧
    (∀ l, Front s n rest 0x0101 p → p.length = 12 → field p 8 2 = 1 → field p 10 2 = 0 → field p 0 8 % 4 = 0 →
      (findReg (field p 0 8) = some l → PlainReg l → exec .regRead s =
        .next ((v.clearRC l (fun k => k = l.word)).respond n 0 (bytesOf 4 (wordOf (v.regVal l) l.word)))) ∧
      (findReg (field p 0 8) = none → exec .regRead s = .next (v.respond n 5 []))) ∧
    (∀ l, Front s n rest 0x0102 p → p.length = 16 → field p 8 2 = 1 → field p 10 2 = 0 →
      (field p 0 8 % 4 = 0 → findReg (field p 0 8) = some l → PlainReg l → l.words = 1 → l.word = 0 →
        exec .regWrite s = .next ((v.blockWrite .mbox l (field p 12 4)).1.respond n
          (writeStatus (v.blockWrite .mbox l (field p 12 4)).2) [])) ∧
      (field p 0 8 % 4 ≠ 0 ∨ findReg (field p 0 8) = none → exec .regWrite s = .next (v.respond n 5 []))) ∧
    (∀ (k : Nat) (ds : List Bytes), Front s n rest 0x0201 p → p.length = 12 → field p 0 8 % 32 = 0 → field p 8 4 = 32 * k → 0 < k →
      (memRun (field p 0 8) (32 * k) = true → keyRun (field p 0 8) (32 * k) = false →
        (ds.length = k → (∀ i < k, WordReads s (field p 0 8 / 32 + i) (ds.getD i [])) →
          ∃ u : State, exec .memRead s = .next (u.respond n 0 ds.flatten) ∧ RegsBut countFields v u ∧ MemSame v u ∧
            u = { v.like u with pmc := u.pmc }) ∧
        (k = 1 → ¬ (inFlash (field p 0 8) = true ∧ s.rdRaw (field p 0 8 / 32) = erasedWord) →
          pipDecode (s.rdRaw (field p 0 8 / 32)) = .uncorr → ∃ u : State, exec .memRead s = .next (u.respond n 2 []))) ∧
      (inRegs (field p 0 8) = true ∨ keyRun (field p 0 8) (32 * k) = true → exec .memRead s = .next (v.respond n 5 []))) ∧
    (∀ k : Nat, Front s n rest 0x0202 p → p.length = 16 + 32 * k → field p 8 4 = 32 * k → 0 < k → field p 12 4 = 0 → field p 0 8 % 32 = 0 →
      (memRun (field p 0 8) (32 * k) = true → inFlash (field p 0 8) = false →
        ∃ u : State, exec .memWrite s = .next (u.respond n 0 []) ∧ (∀ i < 32 * k, u.rdByte (field p 0 8 + i) = p.getD (16 + i) 0) ∧
          MemBut (field p 0 8) (32 * k) v u ∧ u.mbx = v.mbx ∧ u.start = v.start) ∧
      (inFlash (field p 0 8) = true ∨ inRegs (field p 0 8) = true → exec .memWrite s = .next (v.respond n 5 []))) ∧
    (Front s n rest 0x0902 p → p.length = 4 → field p 0 1 ≤ 3 → field p 1 1 ≤ 63 → field p 3 1 = 0 →
      exec .routeRead s = .next (v.respond n 0 ((List.range (field p 2 1)).flatMap fun i => bytesOf 8 (v.rtVal (field p 0 1) (field p 1 1 + i))))) ∧
    (Front s n rest 0x0901 [] →
      (s.holds = true → s.zfb.run = none → s.half2 = false → ∃ u : State, exec .rollStart s = .next (u.respond n 0 []) ∧ RunBegun v u) ∧
      (s.holds = true → s.zfb.run = none → s.half2 = true →
        exec .rollStart s = .next (({ v with mir := { v.mir with dlOut := v.mir.dlOut ++ [DominoMsg.rollStart] } }).respond n 0 [])) ∧
      (s.holds = false ∨ s.zfb.run.isSome = true → exec .rollStart s = .next ((v.wr ZFB_ROLL_RES_OUTCOME 3).respond n 3 [])))

/-- A long command that has had its effect runs on with its response kept (R310). -/
def longBegun (u : State) (n status : Nat) (data : Bytes) : State :=
  (({ u with mbx := { u.mbx with long := some (n, status, data) } }).wr MBX_STATUS_LONG_RUN 1).wr MBX_STATUS_LONG_MB n

/-- The slot's bytes are those given, then erased; nothing outside it has changed. -/
def SlotHolds (s u : State) (base size : Nat) (d : Bytes) : Prop :=
  (∀ i < size, u.rdByte (base + i) = d.getD i 0xFF) ∧ MemBut base size s u

/-- A state with another configuration part: its shadow; its selectors. -/
def Sys2Proof.Machine.State.withShadow (s : State) (x : ShadowState) : State := { s with cfg := { s.cfg with shadow := x } }

/-- The key of a kind (R320). -/
def keyOf (s : State) (kind : Nat) : Option Bytes := if kind = 0 then s.mbx.devKey else s.mbx.hostKey
def keyFlag (kind : Nat) : Fld := if kind = 0 then MBX_STATUS_DEV_KEY else MBX_STATUS_HOST_KEY

/-- Mailbox commands of the groups 0x03, 0x04 and 0x05, and the Flip. A long command applies its effect and runs on in the
background with its response kept. SHADOW_WRITE at offset 0 erases the shadow slot and programs its bytes, and is
refused while a Flip is pending. SHADOW_CHECK answers 16 bytes: a set that passes makes the shadow CHECKED, one that
fails gives its code. FLIP that is taken makes the shadow PENDING and answers its instant; a cancel makes it CHECKED
again; a refused one changes nothing, one refused by the admission bound sets ADMIT_REJ and ADMIT_BOUND; FORCE with a
start-only difference selects the slot and restarts. At its instant, and not before, a pending set becomes the active
one and the selector names it. SET_READ answers the words of either slot. FW_WRITE keeps the key table's bytes, or
erases a firmware slot at offset 0 and programs it; it is refused outside Bulb mode for the running or selected slot.
FW_VERIFY answers CRC, VERSION and length of a valid image, CHECK_FAILED for another, BAD_ENTRY for a key table that
breaks R416. FW_SELECT writes the selector for a valid image. BULB_CLEAR in Bulb mode commits a record of no failures
and restarts, elsewhere it is refused. KEY_PROVISION stores a key only where none of its kind is stored, and a host
key sets the counter of R315 to 0; KEY_ERASE erases one in Bulb mode alone. Where the rules leave a point open, the
model's reading of it is in notes/assumptions/29.md. -/
def Obligations.CommandsConfigureTheModule : Prop :=
  ∀ (s : State) (n : Fin 8) (rest : List Nat) (p : Bytes),
    let v := s.popped rest
    (∀ len, Front s n rest 0x0301 p → p.length = 12 + len → field p 0 4 = 0 → field p 4 4 = len → len % 32 = 0 → field p 8 4 = 0 →
      (s.isPending = false → ∃ u : State, exec .shadowWrite s = .next (longBegun u n 0 []) ∧ u.cfg.shadow = .writing len ∧
        SlotHolds v u (setBase (1 - s.cfg.active)) 0x200000 (p.drop 12) ∧ RegsBut [] v u) ∧
      (s.isPending = true → exec .shadowWrite s = .next (v.respond n 3 []))) ∧
    (Front s n rest 0x0302 [] → s.isPending = false → s.mbx.long = none →
      let r := v.checkSlot (1 - s.cfg.active)
      (r.2.1.code = 0 → ∃ (u : State) (d : Bytes), exec .shadowCheck s = .next (u.respond n 0 d) ∧ u.cfg = { r.1.cfg with shadow := .checked } ∧ d.length = 16 ∧
        field d 0 4 = field r.2.2 12 4 ∧ field d 4 1 = b2n (startDiff r.1.cfg.secs (setSecs r.2.2)).isNone) ∧
      (r.2.1.code ≠ 0 → ∃ (u : State) (d : Bytes), exec .shadowCheck s = .next (u.respond n r.2.1.code d) ∧ u.cfg = { r.1.cfg with shadow := .writing v.shadowNext } ∧
        d.length = 16)) ∧
    (Front s n rest 0x0303 p → p.length = 16 → field p 12 4 = 0 → s.mbx.long = none →
      (∀ o, v.flipOf (cmdFlags (s.box n).cmd) p = .take o → ∃ u : State, exec .flip s = .next (u.respond n 0 (bytesOf 8 o.f)) ∧
        u.cfg = { s.cfg with shadow := .pending o } ∧
        (s.holds = true → u.mir.flip = some (some o)) ∧ RegsBut [] v u ∧ MemSame v u) ∧
      (v.flipOf (cmdFlags (s.box n).cmd) p = .cancel → ∃ u : State, exec .flip s = .next (u.respond n 0 []) ∧
        u.cfg = { s.cfg with shadow := .checked } ∧ RegsBut [] v u ∧ MemSame v u) ∧
      (v.flipOf (cmdFlags (s.box n).cmd) p = .refused none → exec .flip s = .next (v.respond n 3 [])) ∧
      (∀ b, v.flipOf (cmdFlags (s.box n).cmd) p = .refused (some b) → ∃ u : State, exec .flip s = .next (u.respond n 3 []) ∧ u.cfg = s.cfg ∧
        u.rd HLM_ERR_ADMIT_REJ = 1 ∧ u.rd HLM_ADMIT_BOUND = min b (2 ^ 20 - 1) ∧
        RegsBut (HLM_ERR_ADMIT_REJ :: HLM_ADMIT_BOUND :: logFields) v u) ∧
      (v.flipOf (cmdFlags (s.box n).cmd) p = .bad → exec .flip s = .next (v.respond n 5 [])) ∧
      (v.flipOf (cmdFlags (s.box n).cmd) p = .restart → ∃ t, exec .flip s = .next t ∧ t.live = false ∧ t.pwr.src = 5 ∧ t.start.phase = .idle ∧
        (t.cfg.selX, t.cfg.selY) = selWrite s.cfg.selX s.cfg.selY (1 - s.cfg.active))) ∧
    (s.live = true →
      (∀ o, s.cfg.shadow = .pending o → s.now < o.f → exec .flipInstant s = .next s) ∧
      (∀ o, s.cfg.shadow = .pending o → o.f ≤ s.now → ∃ t, exec .flipInstant s = .next t ∧ t.cfg.active = 1 - s.cfg.active ∧ t.cfg.shadow = .checked ∧
        t.cfg.secs = setSecs (s.slotBytes (1 - s.cfg.active)) ∧
        (t.cfg.selX, t.cfg.selY) = selWrite s.cfg.selX s.cfg.selY (1 - s.cfg.active)) ∧
      ((∀ o, s.cfg.shadow ≠ .pending o) → exec .flipInstant s = .next s)) ∧
    (∀ (k : Nat) (ds : List Bytes), Front s n rest 0x0304 p → p.length = 12 → field p 0 1 ≤ 1 → field p 1 3 = 0 → field p 4 4 % 32 = 0 →
      field p 8 4 = 32 * k → s.mbx.long = none → ds.length = k →
      (∀ i < k, inFlash (setBase (if field p 0 1 = 0 then s.cfg.active else 1 - s.cfg.active) + field p 4 4 + 32 * i) = true) →
      (∀ i < k, WordReads s ((setBase (if field p 0 1 = 0 then s.cfg.active else 1 - s.cfg.active) + field p 4 4) / 32 + i) (ds.getD i [])) →
      exec .setRead s = .next (v.respond n 0 ds.flatten)) ∧
    (∀ len, Front s n rest 0x0401 p → p.length = 16 + len → field p 8 4 = len → len % 32 = 0 → field p 1 3 = 0 → field p 4 4 = 0 → field p 12 4 = 0 →
      (field p 0 1 = 2 → s.rd MBX_START_SLOT_RUN ≠ 2 → v.fwSelected ≠ 2 → ∃ u : State, exec .fwWrite s = .next (longBegun u n 0 []) ∧ u.cfg.ktBuf = p.drop 16 ∧
        u = { v with cfg := u.cfg }) ∧
      (field p 0 1 ≤ 1 → s.start.phase = .bulb ∨ (field p 0 1 ≠ s.rd MBX_START_SLOT_RUN ∧ field p 0 1 ≠ v.fwSelected) →
        ∃ u : State, exec .fwWrite s = .next (longBegun u n 0 []) ∧ SlotHolds v u (fwBase (field p 0 1)) 0x600000 (p.drop 16) ∧ RegsBut [] v u) ∧
      (s.start.phase ≠ .bulb → field p 0 1 = s.rd MBX_START_SLOT_RUN ∨ field p 0 1 = v.fwSelected →
        exec .fwWrite s = .next (v.respond n 3 []))) ∧
    (Front s n rest 0x0402 p → p.length = 4 → field p 1 3 = 0 → s.mbx.long = none →
      (field p 0 1 = 2 → keyTableOk s.cfg.ktBuf = true → ∃ d, exec .fwVerify s =
        .next (({ v with free := s.free + 2 }).respond n 0 d) ∧ d.length = 16 ∧ field d 12 4 = s.cfg.ktBuf.length % 2 ^ 32) ∧
      (field p 0 1 = 2 → keyTableOk s.cfg.ktBuf = false → exec .fwVerify s = .next (v.respond n 5 [])) ∧
      (∀ u crc ver len, field p 0 1 ≤ 1 → v.fwCheck (field p 0 1) = (u, some (crc, ver, len)) →
        exec .fwVerify s = .next (u.respond n 0 (bytesOf 4 crc ++ ver ++ bytesOf 4 len))) ∧
      (∀ u, field p 0 1 ≤ 1 → v.fwCheck (field p 0 1) = (u, none) → exec .fwVerify s = .next (u.respond n 2 []))) ∧
    (Front s n rest 0x0403 p → p.length = 4 → field p 1 3 = 0 → field p 0 1 ≤ 1 →
      (∀ u x, v.fwCheck (field p 0 1) = (u, some x) → ∃ t, exec .fwSelect s = .next (longBegun t n 0 []) ∧
        (t.start.fwX, t.start.fwY) = selWrite u.start.fwX u.start.fwY (field p 0 1) ∧ t.rd MBX_START_SLOT_SEL = field p 0 1 ∧
        RegsBut [MBX_START_SLOT_SEL] u t ∧ MemSame u t) ∧
      (∀ u, v.fwCheck (field p 0 1) = (u, none) → exec .fwSelect s = .next (longBegun u n 2 []))) ∧
    (Front s n rest 0x0404 [] →
      (s.start.phase = .bulb → ∃ t, exec .bulbClear s = .next t ∧ t.live = false ∧ t.start.phase = .idle ∧ t.startRec.failCnt = 0 ∧
        t.startRec.reason = 0 ∧ t.mbx.sent = (v.respond n 0 []).mbx.sent) ∧
      (s.start.phase ≠ .bulb → exec .bulbClear s = .next (v.respond n 3 []))) ∧
    (Front s n rest 0x0501 p → p.length = 20 → field p 0 1 ≤ 1 → field p 1 3 = 0 →
      (keyOf s (field p 0 1) = none → ∃ u : State, exec .keyProvision s = .next (longBegun u n 0 []) ∧ keyOf u (field p 0 1) = some (p.drop 4) ∧
        keyOf u (1 - field p 0 1) = keyOf s (1 - field p 0 1) ∧ u.mbx.ethCtr = (if field p 0 1 = 1 then 0 else s.mbx.ethCtr) ∧
        u.rd (keyFlag (field p 0 1)) = 1 ∧ RegsBut [keyFlag (field p 0 1)] v u ∧ u = { v.like u with mbx := u.mbx }) ∧
      ((keyOf s (field p 0 1)).isSome = true → exec .keyProvision s = .next (v.respond n 3 []))) ∧
    (Front s n rest 0x0502 p → p.length = 4 → field p 0 1 ≤ 1 → field p 1 3 = 0 →
      (s.start.phase = .bulb → ∃ u : State, exec .keyErase s = .next (longBegun u n 0 []) ∧ keyOf u (field p 0 1) = none ∧
        keyOf u (1 - field p 0 1) = keyOf s (1 - field p 0 1) ∧ u.rd (keyFlag (field p 0 1)) = 0 ∧
        RegsBut [keyFlag (field p 0 1)] v u ∧ u = { v.like u with mbx := u.mbx }) ∧
      (s.start.phase ≠ .bulb → exec .keyErase s = .next (v.respond n 3 [])))

/-- The value has ones only in the register's fields. -/
def OnlyFields (l : RegLoc) (x : Nat) : Prop := x &&& l.flds.foldl (fun m f => m ||| (2 ^ f.width - 1) <<< l.pos f) 0 = x

/-- The cells whose restored interval does not meet the running one (R100). -/
def cellsApart (s : State) (p b : Bytes) : Nat :=
  let h : Rat := ((s.now - field p 0 8 : Nat) : Rat) / 1000000000 / 3600
  ((List.range 48).filter fun k => (s.cse.cells.getD k CseCell.init).apart (((field p (8 + 4 * k) 2 : Nat) : Rat) / 100)
    (min 50 (((field p (10 + 4 * k) 2 : Nat) : Rat) / 100 + (s.rd CSE_ERR_CFG_I_GAP : Nat) / 10 * h / (recCell b k).1 * 100))).length

/-- The registers that a restore or a declaration changes. -/
def restoreFields : List Fld := [CSE_STATUS_STATE, CSE_STATUS_SEG_DOUBT, CSE_ERR_SOC_JUMP, CSE_ERR_REC_NONE]

/-- The SEQ that a record would be committed with (R102). -/
def nextSeq (s : State) (i : Nat) : Nat := (match s.learned i with | some r => r.1 | none => 0) + 1

/-- Mailbox commands of the groups 0x06, 0x07, 0x08 and 0x0B. HLM_SETPOINT, HLM_JOYSTICK and HLM_MODE write their register
whole and answer by its outcome. CSE_RESTORE is refused outside UNRESTORED whatever its parameters; there it answers
BAD_ENTRY for another length or a SLOT of 32,768 or more, CHECK_FAILED for a bad record, STATE_REFUSED for another
module's, STATE_REFUSED with SEG_DOUBT where eight cells or more lie apart, and else takes every cell's values and
enters RUN. CSE_SERVICE with DECISION 2 declares the module's own UNRESTORED segment new; another DECISION than 1 and
2 is BAD_ENTRY; any other is refused without TOKEN, without a passed challenge, within MIN_COMMIT or without a module
at the SLOT, and else answers OK and the segment is decided. CSE_WAKE ends HIBERNATE. CSE_COMMIT is refused without
TOKEN, BAD_ENTRY for a SLOT not kept, and else commits under the next SEQ and answers it. FUS_PUSH puts a good sample
in the ring and is refused in a role without the engine. CAN_BUSOFF_RETURN starts a controller's recovery from bus-
off, and sets CMD_REJ elsewhere. Where the rules leave a point open, the model's reading of it is in
notes/assumptions/28.md. -/
def Obligations.CommandsDriveTheEngines : Prop :=
  ∀ (s : State) (n : Fin 8) (rest : List Nat) (p : Bytes),
    let v := s.popped rest
    (∀ l, findReg 0x40060040 = some l → Front s n rest 0x0601 p → p.length = 16 → OnlyFields l (field p 0 16) →
      exec .hlmSetpoint s = .next ((v.blockWrite .mbox l (field p 0 16)).1.respond n (writeStatus (v.blockWrite .mbox l (field p 0 16)).2) [])) ∧
    (∀ l, findReg 0x40060050 = some l → Front s n rest 0x0602 p → p.length = 8 → OnlyFields l (field p 0 8) →
      exec .hlmJoystick s = .next ((v.blockWrite .mbox l (field p 0 8)).1.respond n (writeStatus (v.blockWrite .mbox l (field p 0 8)).2) [])) ∧
    (∀ l, findReg HLM_MODE_REQ_MODE.addr = some l → Front s n rest 0x0603 p → p.length = 4 → OnlyFields l (field p 0 4) →
      exec .hlmMode s = .next ((v.blockWrite .mbox l (field p 0 4)).1.respond n (writeStatus (v.blockWrite .mbox l (field p 0 4)).2) [])) ∧
    (Front s n rest 0x0701 p → s.rd CSE_STATUS_STATE ≠ 2 → exec .cseRestore s = .next (v.respond n 3 [])) ∧
    (Front s n rest 0x0701 p → s.rd CSE_STATUS_STATE = 2 →
      (p.length ≠ 596 → exec .cseRestore s = .next (v.respond n 5 [])) ∧
      (p.length = 596 →
        let w := if recCorrected (p.drop 200) then v.cmdLog 2 7 0 0x0701 0 else v
        (recOfParams (p.drop 200) = none → exec .cseRestore s = .next (w.respond n 2 [])) ∧
        (∀ b, recOfParams (p.drop 200) = some b →
          (recordOk b = false → exec .cseRestore s = .next (w.respond n 2 [])) ∧
          (recordOk b = true → recUid b ≠ Config.uid.toNat → exec .cseRestore s = .next (w.respond n 3 [])) ∧
          (recordOk b = true → recUid b = Config.uid.toNat → 32768 ≤ recSlot b → exec .cseRestore s = .next (w.respond n 5 [])) ∧
          (recordOk b = true → recUid b = Config.uid.toNat → recSlot b < 32768 →
            (8 ≤ cellsApart s p b → exec .cseRestore s = .next ((w.wr CSE_STATUS_SEG_DOUBT 1).respond n 3 [])) ∧
            (cellsApart s p b < 8 → ∃ u : State, exec .cseRestore s = .next (u.respond n 0 []) ∧ u.rd CSE_STATUS_STATE = 3 ∧ u.rd CSE_STATUS_SEG_DOUBT = 0 ∧
              (∀ k c, k < 48 → u.cse.cells[k]? = some c → (c.cap, c.r0, c.tau, c.uc) = recCell b k) ∧
              RegsBut (restoreFields ++ logFields) v u ∧ u = { v.like u with cse := u.cse }))))) ∧
    (Front s n rest 0x0702 p → p.length = 8 → field p 5 3 = 0 →
      (field p 4 1 = 2 → s.declarable (field p 0 4) = true → ∃ u : State, exec .cseService s = .next (u.respond n 0 []) ∧
        u.rd CSE_STATUS_STATE = 3 ∧ u.rd CSE_STATUS_SEG_DOUBT = 0 ∧ RegsBut restoreFields v u ∧ u = { v.like u with cse := u.cse }) ∧
      (field p 4 1 ≠ 1 → field p 4 1 ≠ 2 → exec .cseService s = .next (v.respond n 5 [])) ∧
      (field p 4 1 = 1 ∨ field p 4 1 = 2 ∧ s.declarable (field p 0 4) = false →
        (s.holds = false ∨ field p 0 4 ∉ s.zfb.passed ∨ v.commitDue (field p 0 4) = false ∨ s.nodeAt (field p 0 4) = none →
          exec .cseService s = .next (v.respond n 3 [])) ∧
        (∀ i x, s.holds = true → field p 0 4 ∈ s.zfb.passed → v.commitDue (field p 0 4) = true → s.nodeAt (field p 0 4) = some x →
          v.recIndex (field p 0 4) = some i → ∃ u : State, exec .cseService s = .next (u.respond n 0 []) ∧ field p 0 4 ∉ u.zfb.passed))) ∧
    (Front s n rest 0x0703 [] →
      (s.rd CSE_STATUS_STATE = 4 → ∃ u : State, exec .cseWake s = .next (u.respond n 0 []) ∧ Woken v u) ∧
      (s.rd CSE_STATUS_STATE ≠ 4 → exec .cseWake s = .next (v.respond n 0 []))) ∧
    (Front s n rest 0x0704 p → p.length = 4 →
      (s.holds = false → exec .cseCommit s = .next (v.respond n 3 [])) ∧
      (s.holds = true → v.recIndex (field p 0 4) = none → exec .cseCommit s = .next (v.respond n 5 [])) ∧
      (∀ i, s.holds = true → v.recIndex (field p 0 4) = some i →
        (v.commitDue (field p 0 4) = false → exec .cseCommit s = .next (v.respond n 3 [])) ∧
        (v.commitDue (field p 0 4) = true → ∃ u : State, exec .cseCommit s = .next (longBegun u n 0 (bytesOf 4 (nextSeq v i))) ∧
          u.free = s.free + 192))) ∧
    (Front s n rest 0x0801 p → p.length = 64 →
      (SampleOk v (v.fusSample p) → ∃ u : State, exec .fusPush s = .next (u.respond n 0 []) ∧ u.fus.ring = s.fus.ring ++ [v.fusSample p] ∧
        RegsBut countFields v u ∧ u = { v.like u with fus := u.fus, pmc := u.pmc }) ∧
      (s.engineRole = false → exec .fusPush s = .next (v.respond n 3 []))) ∧
    (∀ k : Fin 4, Front s n rest 0x0B01 p → p.length = 4 → field p 0 1 = k → field p 1 3 = 0 →
      (s.rd (CAN_STATUS_STATE k) = 4 → ∃ u : State, exec .canBusoffReturn s = .next (u.respond n 0 []) ∧ u.rd (CAN_STATUS_STATE k) = 5 ∧
        u.rd (CAN_STATUS_RECOV k) = 0 ∧ RegsBut [CAN_STATUS_STATE k, CAN_STATUS_RECOV k] v u ∧ u = v.like u) ∧
      (s.rd (CAN_STATUS_STATE k) ≠ 4 → exec .canBusoffReturn s = .next ((v.wr (CAN_ERR_CMD_REJ k) 1).respond n 3 [])))

/-- TASK_CONTROL with an operation and an index stands at the head of the order. -/
def TaskFront (s : State) (n : Fin 8) (rest : List Nat) (op k : Nat) : Prop :=
  ∃ p, Front s n rest 0x0A01 p ∧ p.length = 4 ∧ field p 0 1 = op ∧ field p 1 1 = k ∧ field p 2 2 = 0

/-- The operation is carried out: OK, and the runtime has moved from s to u. -/
def TaskDone (c : Instr) (s v : State) (n : Fin 8) (fs : List Fld) (P : State → Prop) : Prop :=
  ∃ u : State, exec c s = .next (u.respond n 0 []) ∧ P u ∧ RegsBut (fs ++ crtShown ++ logFields) v u ∧ u = { v.like u with crt := u.crt }

/-- The operation is turned away: CMD_REJ and STATE_REFUSED. -/
def TaskRefused (c : Instr) (s v : State) (n : Fin 8) : Prop := exec c s = .next ((v.wr CRT_ERR_CMD_REJ 1).respond n 3 [])

/-- Task k has moved to a state. -/
def taskIn (k : Fin 32) (st : Nat) (u : State) : Prop := u.rd (CRT_TASK_STAT_STATE k) = st

/-- HOLD, STEP and RESUME are open to the task (R343). -/
def Debuggable (s : State) (k : Fin 32) : Prop := s.rd CRT_CTRL_DEBUG_EN ≠ 0 ∧ ∃ d, s.desc k = some d ∧ d.holdOk = true

/-- Mailbox commands of the group 0x0A. TASK_CONTROL: RUN starts a stopped controller with an image, STOP stops a running
one, RESET takes FAULT to STOPPED; TASK_RUN takes a STOPPED task to RUN, TASK_STOP a RUN task to STOPPED; with
DEBUG_EN and HOLD_OK, HOLD takes a RUN task to HOLD, STEP lets one instance of a held task run, RESUME takes it to
RUN; STN_ACK takes a READY station to ONLINE; TRIGGER is the event of a task whose source it is. Each answers OK;
where its condition fails it sets CMD_REJ and answers STATE_REFUSED; an unknown operation is BAD_ENTRY. FORCE_SET
answers STATE_REFUSED on a STANDBY and for a further force beyond 256; else it forces an input or output signal and
answers OK, and BAD_ENTRY for a signal that cannot be forced; FORCE_CLEAR takes one force or all away; each accepted
one is entered in the fault log. Where the rules leave a point open, the model's reading of it is in
notes/assumptions/24.md. -/
def Obligations.CommandsControlTheRuntime : Prop :=
  ∀ (s : State) (n : Fin 8) (rest : List Nat),
    let v := s.popped rest
    (TaskFront s n rest 0x01 0 →
      (s.crtOn = true → s.rd CRT_STATUS_STATE = 0 → s.rd CRT_STATUS_IMAGE_OK ≠ 0 →
        TaskDone .taskControlRun s v n [] fun u => u.rd CRT_STATUS_STATE = 1 ∧ u.rd CRT_CTRL_RUN = 1) ∧
      (s.crtOn = false ∨ s.rd CRT_STATUS_STATE ≠ 0 ∨ s.rd CRT_STATUS_IMAGE_OK = 0 → TaskRefused .taskControlRun s v n) ∧
      exec .taskControlStop s = .next s) ∧
    (∀ p, Front s n rest 0x0A01 p → p.length = 4 → field p 0 1 ∉ taskOps → exec .taskControlRun s = .next (v.respond n 5 [])) ∧
    (TaskFront s n rest 0x02 0 →
      (s.rd CRT_STATUS_STATE = 1 → s.rd CRT_CTRL_STOP_SAFE = 0 →
        TaskDone .taskControlStop s v n [] fun u => u.rd CRT_STATUS_STATE = 0 ∧ u.rd CRT_CTRL_RUN = 0) ∧
      (s.rd CRT_STATUS_STATE = 1 → RuntimeBound s → ∃ u : State, exec .taskControlStop s = .next (u.respond n 0 []) ∧ u.rd CRT_STATUS_STATE = 0) ∧
      (s.rd CRT_STATUS_STATE ≠ 1 → TaskRefused .taskControlStop s v n)) ∧
    (TaskFront s n rest 0x03 0 →
      (s.rd CRT_STATUS_STATE = 2 → TaskDone .taskControlReset s v n [] fun u => u.rd CRT_STATUS_STATE = 0) ∧
      (s.rd CRT_STATUS_STATE ≠ 2 → TaskRefused .taskControlReset s v n)) ∧
    (∀ k : Fin 32, let st := s.rd (CRT_TASK_STAT_STATE k)
      (TaskFront s n rest 0x10 k →
        (st = 2 → TaskDone .taskRun s v n [CRT_TASK_STAT_STATE k] (taskIn k 1)) ∧ (st ≠ 2 → TaskRefused .taskRun s v n)) ∧
      (TaskFront s n rest 0x11 k →
        (st = 1 → s.rd CRT_CTRL_STOP_SAFE = 0 → TaskDone .taskStop s v n [CRT_TASK_STAT_STATE k, CRT_TASK_STAT_LATCHED k] (taskIn k 2)) ∧
        (st = 1 → RuntimeBound s → ∃ u : State, exec .taskStop s = .next (u.respond n 0 []) ∧ taskIn k 2 u) ∧
        (st ≠ 1 → TaskRefused .taskStop s v n)) ∧
      (TaskFront s n rest 0x12 k →
        (Debuggable s k → st = 1 → TaskDone .taskHold s v n [CRT_TASK_STAT_STATE k, CRT_TASK_STAT_LATCHED k] (taskIn k 3)) ∧
        (¬ Debuggable s k ∨ st ≠ 1 → TaskRefused .taskHold s v n)) ∧
      (∀ x, TaskFront s n rest 0x13 k → s.crt.tasks[k.val]? = some x →
        (Debuggable s k → st = 3 → TaskDone .taskStep s v n [] fun u => u.ctask k = { x with step := true }) ∧
        (¬ Debuggable s k ∨ st ≠ 3 → TaskRefused .taskStep s v n)) ∧
      (TaskFront s n rest 0x14 k →
        (Debuggable s k → st = 3 → TaskDone .taskResume s v n [CRT_TASK_STAT_STATE k] (taskIn k 1)) ∧
        (¬ Debuggable s k ∨ st ≠ 3 → TaskRefused .taskResume s v n)) ∧
      (TaskFront s n rest 0x21 k →
        (∀ d, s.desc k = some d → d.kind = 1 → d.evt = 6 →
          ∃ u : State, exec (.eventRelease k) { v with crt := { v.crt with evts := k.val :: v.crt.evts } } = .next u ∧ exec .taskTrigger s = .next (u.respond n 0 [])) ∧
        ((∀ d, s.desc k = some d → d.kind ≠ 1 ∨ d.evt ≠ 6) → TaskRefused .taskTrigger s v n))) ∧
    (∀ k : Fin 64, TaskFront s n rest 0x20 k →
      (s.rd (CRT_STN_STAT_STATE k) = 3 → TaskDone .stnAck s v n [CRT_STN_STAT_STATE k] fun u => u.rd (CRT_STN_STAT_STATE k) = 1) ∧
      (s.rd (CRT_STN_STAT_STATE k) ≠ 3 → TaskRefused .stnAck s v n)) ∧
    (∀ p, Front s n rest 0x0A02 p → p.length = 16 → field p 4 4 = 0 → s.isPending = false →
      (s.start.role = .standby ∨ 256 ≤ s.crt.forces.length ∧ s.forceOf (field p 0 4) = none → exec .forceSet s = .next (v.respond n 3 [])) ∧
      (s.start.role ≠ .standby → s.crt.forces.length < 256 ∨ s.forceOf (field p 0 4) ≠ none →
        (s.sig (field p 0 4) = none → exec .forceSet s = .next (v.respond n 5 [])) ∧
        (∀ g, s.sig (field p 0 4) = some g →
          (g.cls ≠ 1 → g.cls ≠ 2 → exec .forceSet s = .next (v.respond n 5 [])) ∧
          (g.cls = 1 ∨ g.cls = 2 →
            (s.log.staged.length < 4000 → ∃ (u : State) (x : Staged), exec .forceSet s = .next (u.respond n 0 []) ∧ x ∈ u.log.staged ∧ x.e.source = 12 ∧ x.e.code = 0xCA) ∧
            TaskDone .forceSet s v n [] fun u => u.forceOf (field p 0 4) = some (normVal g.typ (field p 8 8)) ∧
              (∀ id, id ≠ field p 0 4 → u.forceOf id = s.forceOf id) ∧ u.rd CRT_STATUS_FORCED = 1)))) ∧
    (∀ p, Front s n rest 0x0A03 p → p.length = 8 → field p 4 4 = 0 →
      (field p 0 4 = 0xFFFFFFFF → TaskDone .forceClear s v n [] fun u => u.crt.forces = [] ∧ u.rd CRT_STATUS_FORCED = 0) ∧
      (field p 0 4 ≠ 0xFFFFFFFF →
        (∀ g, s.sig (field p 0 4) = some g → TaskDone .forceClear s v n [] fun u => u.forceOf (field p 0 4) = none ∧
          ∀ id, id ≠ field p 0 4 → u.forceOf id = s.forceOf id) ∧
        (s.sig (field p 0 4) = none → exec .forceClear s = .next (v.respond n 5 []))))

/-- The rows of R317 with an opcode of their own. -/
def ownOpcode : List (Instr × Nat) :=
  [(.identify, 0x0001), (.statusCommand, 0x0002), (.restartCommand, 0x0003), (.faultLogRead, 0x0004), (.regRead, 0x0101),
   (.regWrite, 0x0102), (.memRead, 0x0201), (.memWrite, 0x0202), (.shadowWrite, 0x0301), (.shadowCheck, 0x0302), (.flip, 0x0303),
   (.setRead, 0x0304), (.fwWrite, 0x0401), (.fwVerify, 0x0402), (.fwSelect, 0x0403), (.bulbClear, 0x0404), (.keyProvision, 0x0501),
   (.keyErase, 0x0502), (.hlmSetpoint, 0x0601), (.hlmJoystick, 0x0602), (.hlmMode, 0x0603), (.cseRestore, 0x0701), (.cseService, 0x0702),
   (.cseWake, 0x0703), (.cseCommit, 0x0704), (.fusPush, 0x0801), (.rollStart, 0x0901), (.routeRead, 0x0902), (.forceSet, 0x0A02),
   (.forceClear, 0x0A03), (.canBusoffReturn, 0x0B01)]

/-- The operations of TASK_CONTROL. -/
def taskRows : List (Instr × Nat) :=
  [Instr.taskControlRun, .taskControlStop, .taskControlReset, .taskRun, .taskStop, .taskHold, .taskStep, .taskResume, .stnAck,
   .taskTrigger].map fun c => (c, 0x0A01)

/-- A command runs only at the head of the order, and is refused where R311 bars it. For every command of R317: where the
order of acceptance is empty, or another opcode stands at its head, its row changes nothing. Where it stands at the
head and R311 bars it, for its path, for Bulb mode or because a long command runs, it is answered STATE_REFUSED and
has no other effect. A reader whose header has a reserved bit set is answered BAD_ENTRY or STATE_REFUSED with no other
effect. In Bulb mode every opcode outside the groups 0x00, 0x01, 0x02, 0x04, 0x05 and SET_READ is barred; a key
command is barred off the host bus; a long command is barred while one runs. Where the rules leave a point open, the
model's reading of it is in notes/assumptions/28.md. -/
def Obligations.CommandsRunOnlyInTheirTurn : Prop :=
  (∀ c op, (c, op) ∈ ownOpcode ++ taskRows → ∀ s : State, (s.mbx.order = [] → exec c s = .next s) ∧
    ∀ n rest, s.mbx.order = n :: rest → cmdOp (s.box n).cmd ≠ op → exec c s = .next s) ∧
  (∀ c op, (c, op) ∈ ownOpcode → ∀ (s : State) (n : Nat) (rest : List Nat), s.live = true → s.mbx.order = n :: rest → cmdOp (s.box n).cmd = op →
    s.barred op (s.box n).src = true → exec c s = .next ((s.popped rest).respond n 3 [])) ∧
  (∀ c op, (c, op) ∈ ownOpcode → c ∈ [Instr.identify, .statusCommand, .restartCommand, .faultLogRead, .regRead, .memRead, .routeRead, .cseWake] →
    ∀ (s : State) (n : Nat) (rest : List Nat), s.live = true → s.mbx.order = n :: rest → cmdOp (s.box n).cmd = op →
    cmdReserved (s.box n).cmd = true → ∃ k, (k = 3 ∨ k = 5) ∧ exec c s = .next ((s.popped rest).respond n k [])) ∧
  (∀ (s : State) (op : Nat) (src : Source),
    (s.start.phase = .bulb → op / 256 ∉ [0, 1, 2, 4, 5] → op ≠ 0x0304 → s.barred op src = true) ∧
    (op / 256 = 5 → src ≠ .host → s.barred op src = true) ∧
    (op ∈ longOps → s.mbx.long ≠ none → s.barred op src = true) ∧
    (s.start.phase ≠ .bulb → op / 256 ≠ 5 → op ∉ longOps → s.barred op src = false))

/-- The voltages in mV that a value of CFE_CELL_LIM gives OV_THR and UV_THR. -/
def ovMilli (v : Nat) : Nat := 2000 + 10 * bits v 0 9
def uvMilli (v : Nat) : Nat := 500 + 10 * bits v 16 9

/-- A write that would bring UV_THR to OV_THR or above is not applied and sets CFG_REJ. For every requester and every
value whose UV_THR, 0.500 V and 10 mV a step, is equal to or greater than its OV_THR, 2.000 V and 10 mV a step: a
register write of CFE_CELL_LIM answers a next state in which CFE_ERR.CFG_REJ is set and nothing else has changed, so
both thresholds stay; so does the front end's write command, and so does REG_WRITE over a mailbox, which answers
BAD_ENTRY. -/
def Obligations.CellLimitsKeepTheirOrder : Prop :=
  ∀ (v : BitVec 32) (s : State), s.live = true → ovMilli v.toNat ≤ uvMilli v.toNat →
    let t := s.wr CFE_ERR_CFG_REJ 1
    t.rd CFE_ERR_CFG_REJ = 1 ∧ t.rd CFE_CELL_LIM_OV_THR = s.rd CFE_CELL_LIM_OV_THR ∧ t.rd CFE_CELL_LIM_UV_THR = s.rd CFE_CELL_LIM_UV_THR ∧
    (∀ who : Requester, exec (.registerWrite who 0x40000028 v) s = .next t) ∧ exec (.hvWrite 0 v) s = .next t ∧
    ∀ (n : Fin 8) (rest : List Nat) (p : Bytes), Front s n rest 0x0102 p → p = bytesOf 8 0x40000028 ++ bytesOf 2 1 ++ bytesOf 2 0 ++ bytesOf 4 v.toNat →
      exec .regWrite s = .next (((s.popped rest).wr CFE_ERR_CFG_REJ 1).respond n 5 [])

/-- The value would change the channel's PRN, SPACING or DISC. -/
def ChangesCode (s : State) (n : Fin 24) (v : Nat) : Prop :=
  bits v 0 6 ≠ s.rd (GNB_CH_CFG_PRN n) ∨ bits v 8 7 ≠ s.rd (GNB_CH_CFG_SPACING n) ∨ bits v 16 2 ≠ s.rd (GNB_CH_CFG_DISC n)

/-- The value is one that the channel's fields can take: PRN up to 32, SPACING 5 to 100, and DISC 0, or 1 or 2 on a path channel, with
opposite path offsets for 1 (R112). -/
def CodeInRange (s : State) (n : Fin 24) (v : Nat) : Prop :=
  bits v 0 6 ≤ 32 ∧ 5 ≤ bits v 8 7 ∧ bits v 8 7 ≤ 100 ∧ (bits v 16 2 = 0 ∨ (20 ≤ n.val ∧ (bits v 16 2 = 2 ∨
    (bits v 16 2 = 1 ∧ s.rdS (GNB_PC_OFF_OFF (n.val - 20) 0) = -(s.rdS (GNB_PC_OFF_OFF (n.val - 20) 1))))))

/-- PRN, SPACING and DISC of an enabled channel do not change. For every channel with EN = 1, every requester and every
value that would change its PRN, SPACING or DISC: a register write of GNB_CHn_CFG answers a next state in which
GNB_ERR.CFG_REJ is set and nothing else has changed; and REG_WRITE of such a value over a mailbox answers
STATE_REFUSED, with CFG_REJ set and nothing else changed. With EN = 0 such a write of values that the fields can take
is applied. -/
def Obligations.EnabledChannelsKeepTheirCode : Prop :=
  ∀ (n : Fin 24) (v : BitVec 32) (s : State), s.live = true → ChangesCode s n v.toNat →
    (s.rd (GNB_CH_CFG_EN n) ≠ 0 →
      (∀ who : Requester, exec (.registerWrite who (BitVec.ofNat 64 (0x40030100 + 4 * n.val)) v) s = .next (s.wr GNB_ERR_CFG_REJ 1)) ∧
      ∀ (m : Fin 8) (rest : List Nat) (p : Bytes), Front s m rest 0x0102 p →
        p = bytesOf 8 (0x40030100 + 4 * n.val) ++ bytesOf 2 1 ++ bytesOf 2 0 ++ bytesOf 4 v.toNat →
        exec .regWrite s = .next (((s.popped rest).wr GNB_ERR_CFG_REJ 1).respond m 3 [])) ∧
    (s.rd (GNB_CH_CFG_EN n) = 0 → CodeInRange s n v.toNat → ∀ who : Requester,
      ∃ t, exec (.registerWrite who (BitVec.ofNat 64 (0x40030100 + 4 * n.val)) v) s = .next t ∧ t.rd (GNB_CH_CFG_PRN n) = bits v.toNat 0 6 ∧
        t.rd (GNB_CH_CFG_SPACING n) = bits v.toNat 8 7 ∧ t.rd (GNB_CH_CFG_DISC n) = bits v.toNat 16 2)

/-- The low w bits of n in reverse order. -/
def reflected (w n : Nat) : Nat := (List.range w).foldl (fun r k => 2 * r + (n >>> k) % 2) 0

/-- The CRC-32 of R306 as its parameters give it: a register of 32 bits shifted most significant bit first over reflected
bytes, and reflected at the end. -/
def crcOfR306 (bs : Bytes) : Nat :=
  reflected 32 (bs.foldl (fun r b => (List.range 8).foldl (fun r _ => if r.testBit 31 then (2 * r) % 2 ^ 32 ^^^ 0x04C11DB7 else 2 * r)
    (r ^^^ (reflected 8 b.toNat * 2 ^ 24))) 0xFFFFFFFF) ^^^ 0xFFFFFFFF

/-- The bytes that CHECK runs over: the header with CHECK 0, then len bytes. -/
def checkedBytes (c : Bytes) (len : Nat) : Bytes := slice c 0 8 ++ List.replicate 4 0 ++ slice c 12 4 ++ slice c 16 len

/-- CHECK of commands and responses is the CRC-32 of R306. A command's CHECK verifies exactly when it equals the CRC-32
with polynomial 0x04C11DB7, each byte and the result reflected, initial value and final XOR 0xFFFFFFFF, of the header
with CHECK 0 followed by LENGTH bytes of parameters; a response carries the same CRC over its header with CHECK 0 and
its data. Two commands that agree in their header and their first LENGTH bytes have the same verdict, whatever
follows. -/
def Obligations.CheckIsTheCrc32OfR306 : Prop :=
  (∀ c : Bytes, cmdCheckOk c = true ↔ field c 8 4 = crcOfR306 (checkedBytes c (field c 4 2))) ∧
  (∀ c d : Bytes, (∀ i < 16 + cmdLen c, c.getD i 0 = d.getD i 0) → cmdCheckOk c = cmdCheckOk d) ∧
  (∀ (op seq status flags t : Nat) (data : Bytes), data.length < 2 ^ 16 →
    let r := mkResp op seq status flags t data
    field r 4 2 = data.length ∧ r.drop 16 = data ∧ field r 8 4 = crcOfR306 (checkedBytes r (field r 4 2)))
end

