-- ==== Sys2Proof/Laws/Keeps.lean ====
section
/-!
SUPPORT. Laws/Keeps.lean: what every shared operation keeps: the canonical form of memory and of the register file, the
queue and the clock; and it never gives a number of a free value back.
-/
namespace Sys2Proof.Machine

/-- Before a start has completed, and in Bulb mode, the role is MONITOR (R15). -/
abbrev RoleOk (s : State) : Prop := s.start.phase = .running ∨ s.start.role = .monitor

/-- From a state that runs in a role: the role stands, or a STANDBY becomes active, or the module is held in reset, its
start not begun (R16). -/
abbrev RoleStep (s t : State) : Prop :=
  s.start.phase = .running →
    (t.start.phase = .running ∧ (t.start.role = s.start.role ∨
      (s.start.role = .standby ∧ (t.start.role = .coordinator ∨ t.start.role = .dominoHalf)))) ∨ t.start.phase = .idle

/-- From s to t: memory and registers stay canonical, the queue and the tick count stand, no free value comes twice, and
the role moves as R15 and R16 say. -/
structure Keeps (s t : State) : Prop where
  mem     : Memory.wf s = true → Memory.wf t = true
  regs    : aSorted s.regs = true → aSorted t.regs = true
  pending : t.pending = s.pending
  ticks   : t.ticks = s.ticks
  free    : s.free ≤ t.free
  role    : RoleOk s → RoleOk t
  move    : RoleStep s t

theorem Keeps.refl (s : State) : Keeps s s := ⟨id, id, rfl, rfl, Nat.le_refl _, id, fun e => .inl ⟨e, .inl rfl⟩⟩

/-- Fields that none of these facts is about may change in any way, and free values may be drawn. -/
theorem Keeps.upd {s0 s : State} (h : Keeps s0 s) {fr : Nat} (hf : s.free ≤ fr) {start}
    (hs : start.role = s.start.role ∧ start.phase = s.start.phase)
    {wide reads pwr log pmc ptu prd mir mbx cfg cfe sch cse gnb fus slv hlm lpe zfb crt fio can saf} :
    Keeps s0 (State.mk s.regs wide s.mem s.chk s.ticks fr reads pwr start log pmc ptu prd mir mbx cfg cfe sch cse gnb fus slv
      hlm lpe zfb crt fio can saf s.pending) := by
  refine ⟨h.mem, h.regs, h.pending, h.ticks, Nat.le_trans h.free hf, fun e => ?_, fun e => ?_⟩
  · have := h.role e; simpa only [RoleOk, hs.1, hs.2] using this
  · have := h.move e; simpa only [hs.1, hs.2] using this

/-- The same where no free value is drawn and the start's state stands. -/
theorem Keeps.field {s0 s : State} (h : Keeps s0 s)
    {wide reads pwr log pmc ptu prd mir mbx cfg cfe sch cse gnb fus slv hlm lpe zfb crt fio can saf} :
    Keeps s0 (State.mk s.regs wide s.mem s.chk s.ticks s.free reads pwr s.start log pmc ptu prd mir mbx cfg cfe sch cse gnb fus
      slv hlm lpe zfb crt fio can saf s.pending) := Keeps.upd h (Nat.le_refl _) ⟨rfl, rfl⟩

/-- While a start is under way the role and the phase may change too. -/
theorem Keeps.updStart {s0 s : State} (hn : s0.start.phase ≠ .running) (h : Keeps s0 s) {start}
    (hr : start.phase = .running ∨ start.role = .monitor) : Keeps s0 { s with start := start } :=
  ⟨h.mem, h.regs, h.pending, h.ticks, h.free, fun _ => hr, fun e => absurd e hn⟩

/-- A state that waits inside a start was not reached from one that ran. -/
theorem Keeps.starting {s0 s : State} (h : Keeps s0 s) (h1 : s.start.phase ≠ .running) (h2 : s.start.phase ≠ .idle) :
    s0.start.phase ≠ .running := fun e => (h.move e).elim (fun a => h1 a.1) h2

theorem Keeps.ofPair {α : Type} {s0 t : State} {p : State × α} {x : α} (e : p = (t, x)) (h : Keeps s0 p.1) : Keeps s0 t := by
  rw [e] at h; exact h

theorem Keeps.idle {s0 s : State} (h : Keeps s0 s) : Keeps s0 (id s) := h

theorem Keeps.ite {s0 a b : State} {c : Prop} [Decidable c] (ha : c → Keeps s0 a) (hb : ¬c → Keeps s0 b) :
    Keeps s0 (if c then a else b) := by split <;> simp_all

theorem Keeps.ite1 {α : Type} {s0 : State} {a b : State × α} {c : Prop} [Decidable c] (ha : c → Keeps s0 a.1) (hb : ¬c → Keeps s0 b.1) :
    Keeps s0 (if c then a else b).1 := by split <;> simp_all

theorem Keeps.foldl {α : Type} {s0 s : State} {l : List α} {f : State → α → State} (h : Keeps s0 s)
    (hf : ∀ t x, Keeps s0 t → Keeps s0 (f t x)) : Keeps s0 (l.foldl f s) := by
  induction l generalizing s with
  | nil => exact h
  | cons x l ih => exact ih (hf s x h)

theorem Keeps.foldlP {α β : Type} {s0 : State} {a : State × β} {l : List α} {f : State × β → α → State × β} (h : Keeps s0 a.1)
    (hf : ∀ p x, Keeps s0 p.1 → Keeps s0 (f p x).1) : Keeps s0 (l.foldl f a).1 := by
  induction l generalizing a with
  | nil => exact h
  | cons x l ih => exact ih (hf a x h)

/-- What a command's answer keeps. -/
def OutKeeps (s : State) : Out → Prop
  | .next t => Keeps s t
  | _ => True

theorem OutKeeps.done {s0 s : State} (h : Keeps s0 s) : OutKeeps s0 (done s) := h

theorem OutKeeps.next {s0 s : State} (h : Keeps s0 s) : OutKeeps s0 (.next s) := h

theorem OutKeeps.ite {s0 : State} {a b : Out} {c : Prop} [Decidable c] (ha : c → OutKeeps s0 a) (hb : ¬c → OutKeeps s0 b) :
    OutKeeps s0 (if c then a else b) := by split <;> simp_all

/-! ### Sorted association lists -/

theorem aDel_all {β : Type} (p : Nat × β → Bool) (k : Nat) (l : List (Nat × β)) (h : l.all p = true) : (aDel k l).all p = true := by
  induction l with
  | nil => rfl
  | cons e l ih =>
    simp only [List.all_cons, Bool.and_eq_true] at h
    simp only [aDel]; split
    · exact ih h.2
    · simp [h.1, ih h.2]

theorem aIns_all {β : Type} (p : Nat × β → Bool) (k : Nat) (v : β) (l : List (Nat × β)) (h : l.all p = true) (hk : p (k, v) = true) :
    (aIns k v l).all p = true := by
  induction l with
  | nil => simp [aIns, hk]
  | cons e l ih =>
    simp only [aIns]; split
    · simp_all
    · simp only [List.all_cons, Bool.and_eq_true] at h ⊢
      exact ⟨h.1, ih h.2⟩

theorem aDel_sorted {β : Type} (k : Nat) (l : List (Nat × β)) (h : aSorted l = true) : aSorted (aDel k l) = true := by
  induction l with
  | nil => rfl
  | cons e l ih =>
    simp only [aSorted, Bool.and_eq_true] at h
    simp only [aDel]; split
    · exact ih h.2
    · simp only [aSorted, Bool.and_eq_true]
      exact ⟨aDel_all _ _ _ h.1, ih h.2⟩

theorem aDel_absent {β : Type} (k : Nat) (l : List (Nat × β)) : (aDel k l).all (fun e => e.1 ≠ k) = true := by
  induction l with
  | nil => rfl
  | cons e l ih =>
    simp only [aDel]; split
    · exact ih
    · rename_i hne
      simp only [List.all_cons, ih, Bool.and_true]
      simpa using hne

theorem aIns_sorted {β : Type} (k : Nat) (v : β) (l : List (Nat × β)) (h : aSorted l = true)
    (hk : l.all (fun e => e.1 ≠ k) = true) : aSorted (aIns k v l) = true := by
  induction l with
  | nil => rfl
  | cons e l ih =>
    simp only [aSorted, Bool.and_eq_true] at h
    simp only [List.all_cons, Bool.and_eq_true, ne_eq, decide_not, Bool.not_eq_true', decide_eq_false_iff_not] at hk
    simp only [aIns]; split
    · rename_i hlt
      simp only [aSorted, List.all_cons, Bool.and_eq_true, decide_eq_true_eq, hlt, true_and]
      refine ⟨?_, h⟩
      have := h.1
      rw [List.all_eq_true] at this ⊢
      intro x hx
      have := this x hx
      simp at this ⊢; omega
    · simp only [aSorted, Bool.and_eq_true]
      refine ⟨aIns_all _ _ _ _ h.1 ?_, ih h.2 ?_⟩
      · simp; omega
      · simpa using hk.2

theorem aSet_sorted {β : Type} [DecidableEq β] (d : β) (k : Nat) (v : β) (l : List (Nat × β)) (h : aSorted l = true) :
    aSorted (aSet d k v l) = true := by
  unfold aSet; split
  · exact aDel_sorted _ _ h
  · exact aIns_sorted _ _ _ (aDel_sorted _ _ h) (aDel_absent _ _)

theorem aSet_all {β : Type} [DecidableEq β] (p : Nat × β → Bool) (d : β) (k : Nat) (v : β) (l : List (Nat × β)) (h : l.all p = true)
    (hk : v ≠ d → p (k, v) = true) : (aSet d k v l).all p = true := by
  unfold aSet; split
  · exact aDel_all _ _ _ h
  · exact aIns_all _ _ _ _ (aDel_all _ _ _ h) (hk ‹_›)

theorem filter_sorted {β : Type} (p : Nat × β → Bool) (l : List (Nat × β)) (h : aSorted l = true) : aSorted (l.filter p) = true := by
  induction l with
  | nil => rfl
  | cons e l ih =>
    simp only [aSorted, Bool.and_eq_true] at h
    simp only [List.filter_cons]; split
    · simp only [aSorted, Bool.and_eq_true]
      refine ⟨?_, ih h.2⟩
      rw [List.all_eq_true] at *
      intro x hx
      exact h.1 x (List.mem_filter.mp hx).1
    · exact ih h.2

theorem filter_all {β : Type} (p q : Nat × β → Bool) (l : List (Nat × β)) (h : l.all q = true) : (l.filter p).all q = true := by
  rw [List.all_eq_true] at *
  intro x hx
  exact h x (List.mem_filter.mp hx).1

/-! ### The operations that touch registers and memory -/

theorem State.wr_keeps {s0 s : State} (h : Keeps s0 s) (f : Fld) (v : Nat) : Keeps s0 (s.wr f v) :=
  ⟨h.mem, fun e => aSet_sorted _ _ _ _ (h.regs e), h.pending, h.ticks, h.free, h.role, h.move⟩

theorem State.wrByte_keeps {s0 s : State} (h : Keeps s0 s) (a : Nat) (b : Byte) : Keeps s0 (s.wrByte a b) := by
  refine ⟨fun e => ?_, h.regs, h.pending, h.ticks, h.free, h.role, h.move⟩
  have := h.mem e
  simp only [Memory.wf, Bool.and_eq_true, State.wrByte] at this ⊢
  exact ⟨⟨⟨aSet_sorted _ _ _ _ this.1.1.1, aSet_all _ _ _ _ _ this.1.1.2 (by simp)⟩, this.1.2⟩, this.2⟩

theorem State.wrChk_keeps {s0 s : State} (h : Keeps s0 s) (a : Nat) (b : Byte) : Keeps s0 (s.wrChk a b) := by
  refine ⟨fun e => ?_, h.regs, h.pending, h.ticks, h.free, h.role, h.move⟩
  have := h.mem e
  simp only [Memory.wf, Bool.and_eq_true, State.wrChk] at this ⊢
  exact ⟨⟨this.1.1, aSet_sorted _ _ _ _ this.1.2⟩, aSet_all _ _ _ _ _ this.2 (by simp)⟩

theorem State.blank_keeps {s0 s : State} (h : Keeps s0 s) (lo hi : Nat) : Keeps s0 (s.blank lo hi) := by
  refine ⟨fun e => ?_, h.regs, h.pending, h.ticks, h.free, h.role, h.move⟩
  have := h.mem e
  simp only [Memory.wf, Bool.and_eq_true, State.blank] at this ⊢
  exact ⟨⟨⟨filter_sorted _ _ this.1.1.1, filter_all _ _ _ this.1.1.2⟩, filter_sorted _ _ this.1.2⟩, filter_all _ _ _ this.2⟩

end Sys2Proof.Machine
end

