-- ==== Sys2Proof/Laws/KOps.lean ====
section
/-!
SUPPORT. Laws/KOps.lean: what each operation of Machine/Ops.lean keeps (Laws/Keeps.lean).
-/
namespace Sys2Proof.Machine

theorem State.wrB_keeps {s0 s : State} (f : Fld) (b : Bool) (h : Keeps s0 s) : Keeps s0 (State.wrB s f b) := by
  unfold State.wrB
  with_reducible repeat' first
    | assumption | apply State.wr_keeps

theorem State.wrS_keeps {s0 s : State} (f : Fld) (i : Int) (h : Keeps s0 s) : Keeps s0 (State.wrS s f i) := by
  unfold State.wrS
  with_reducible repeat' first
    | assumption | apply State.wr_keeps

theorem State.satAdd_keeps {s0 s : State} (f : Fld) (n : Nat) (h : Keeps s0 s) : Keeps s0 (State.satAdd s f n) := by
  unfold State.satAdd
  with_reducible repeat' first
    | assumption | apply State.wr_keeps

theorem State.satInc_keeps {s0 s : State} (f : Fld) (h : Keeps s0 s) : Keeps s0 (State.satInc s f) := by
  unfold State.satInc
  with_reducible repeat' first
    | assumption | apply State.satAdd_keeps

theorem State.wrapInc_keeps {s0 s : State} (f : Fld) (h : Keeps s0 s) : Keeps s0 (State.wrapInc s f) := by
  unfold State.wrapInc
  with_reducible repeat' first
    | assumption | apply State.wr_keeps

theorem State.wrAll_keeps {s0 s : State} (l : List (Fld × Nat)) (h : Keeps s0 s) : Keeps s0 (State.wrAll s l) := by
  unfold State.wrAll
  with_reducible repeat' first
    | assumption | apply State.wr_keeps | refine Keeps.foldlP ?_ (fun _ _ _ => ?_) | refine Keeps.foldl ?_ (fun _ _ _ => ?_)
    | intro _

theorem State.wrBit_keeps {s0 s : State} (f : Fld) (k : Nat) (b : Bool) (h : Keeps s0 s) : Keeps s0 (State.wrBit s f k b) := by
  unfold State.wrBit
  with_reducible repeat' first
    | assumption | apply State.wr_keeps | refine Keeps.ite (fun _ => ?_) (fun _ => ?_) | split

theorem State.clearRow_keeps {s0 s : State} (r : RegRow) (h : Keeps s0 s) : Keeps s0 (State.clearRow s r) := by
  unfold State.clearRow
  with_reducible repeat' first
    | assumption | apply State.wr_keeps | refine Keeps.foldl ?_ (fun _ _ _ => ?_) | intro _

theorem State.clearRC_keeps {s0 s : State} (l : RegLoc) (p : Nat → Bool) (h : Keeps s0 s) : Keeps s0 (State.clearRC s l p) := by
  unfold State.clearRC
  with_reducible repeat' first
    | assumption | apply State.wr_keeps | refine Keeps.foldl ?_ (fun _ _ _ => ?_)
    | refine Keeps.ite (fun _ => ?_) (fun _ => ?_) | intro _

theorem State.wrField_keeps {s0 s : State} (f : Fld) (v : Nat) (h : Keeps s0 s) : Keeps s0 (State.wrField s f v) := by
  unfold State.wrField
  with_reducible repeat' first
    | assumption | apply State.wr_keeps | refine Keeps.ofPair (by assumption) ?_ | split

theorem State.wrReg_keeps {s0 s : State} (l : RegLoc) (v : Nat) (h : Keeps s0 s) : Keeps s0 (State.wrReg s l v) := by
  unfold State.wrReg
  with_reducible repeat' first
    | assumption | apply State.wrField_keeps | refine Keeps.foldl ?_ (fun _ _ _ => ?_) | intro _

theorem State.jointly_go_keeps {s0 s : State} {t : State} {parts : List (Fld × (State → State × Bool))} (h : Keeps s0 s) (ht : Keeps s0 t)
    (hp : ∀ p ∈ parts, ∀ t, Keeps s0 t → Keeps s0 (p.2 t).1) : Keeps s0 (State.jointly.go s t parts).1 := by
  induction parts generalizing t with
  | nil => exact ht
  | cons p l ih =>
    unfold State.jointly.go
    have h1 := hp p (by simp) t ht
    split
    · exact ih (Keeps.ofPair (by assumption) h1) fun q hq => hp q (by simp [hq])
    · exact State.wr_keeps h _ _

theorem State.jointly_keeps {s0 s : State} {parts : List (Fld × (State → State × Bool))} (h : Keeps s0 s)
    (hp : ∀ p ∈ parts, ∀ t, Keeps s0 t → Keeps s0 (p.2 t).1) : Keeps s0 (State.jointly s parts).1 :=
  State.jointly_go_keeps h h hp

theorem State.setNow_keeps {s0 s : State} (t : Int) (h : Keeps s0 s) : Keeps s0 (State.setNow s t) := by
  unfold State.setNow
  with_reducible repeat' first
    | assumption | apply State.wr_keeps

theorem whenLive_keeps {s0 s : State} {f : State → State} (h : Keeps s0 s) (hf : ∀ t, Keeps s0 t → Keeps s0 (f t)) : Keeps s0 (whenLive s f) := by
  unfold whenLive
  split
  · exact hf s h
  · exact h

theorem whenWorks_keeps {s0 s : State} {f : State → State} (h : Keeps s0 s) (hf : ∀ t, Keeps s0 t → Keeps s0 (f t)) : Keeps s0 (whenWorks s f) := by
  unfold whenWorks
  split
  · exact hf s h
  · exact h

theorem State.draw_keeps {s0 s : State} (h : Keeps s0 s) : Keeps s0 (State.draw s) := by
  unfold State.draw
  with_reducible repeat' first
    | assumption | exact Keeps.field h | refine Keeps.field ?_
    | refine Keeps.upd h (by first | exact Nat.le_refl _ | exact Nat.le_add_right _ _) (by exact ⟨rfl, rfl⟩)
    | refine Keeps.upd ?_ (by first | exact Nat.le_refl _ | exact Nat.le_add_right _ _) (by exact ⟨rfl, rfl⟩)

theorem State.stage_keeps {s0 s : State} (e : LogEntry) (h : Keeps s0 s) : Keeps s0 (State.stage s e) := by
  unfold State.stage
  with_reducible repeat' first
    | assumption | apply State.satInc_keeps | apply State.wr_keeps | refine Keeps.ite (fun _ => ?_) (fun _ => ?_)
    | extract_lets | exact Keeps.field h | refine Keeps.field ?_

theorem State.logEvent_keeps {s0 s : State} (source code inst status detail : Nat) (h : Keeps s0 s) : Keeps s0 (State.logEvent s source code inst status detail) := by
  unfold State.logEvent
  with_reducible repeat' first
    | assumption | apply State.stage_keeps | refine Keeps.ite (fun _ => ?_) (fun _ => ?_) | extract_lets | exact Keeps.field h
    | refine Keeps.field ?_

theorem State.set1_keeps {s0 s : State} (f : Fld) (h : Keeps s0 s) : Keeps s0 (State.set1 s f) := by
  unfold State.set1
  with_reducible repeat' first
    | assumption | apply State.wr_keeps

theorem State.errLog_keeps {s0 s : State} (f : Fld) (inst : Nat) (h : Keeps s0 s) : Keeps s0 (State.errLog s f inst) := by
  unfold State.errLog
  with_reducible repeat' first
    | assumption | apply State.logEvent_keeps | apply State.wr_keeps | extract_lets

theorem State.alarmLog_keeps {s0 s : State} (f : Fld) (k inst : Nat) (h : Keeps s0 s) : Keeps s0 (State.alarmLog s f k inst) := by
  unfold State.alarmLog
  with_reducible repeat' first
    | assumption | apply State.logEvent_keeps | apply State.wrBit_keeps | extract_lets

theorem State.stateLog_keeps {s0 s : State} (source idx inst old new data : Nat) (h : Keeps s0 s) : Keeps s0 (State.stateLog s source idx inst old new data) := by
  unfold State.stateLog
  with_reducible repeat' first
    | assumption | apply State.logEvent_keeps

theorem State.wrState_keeps {s0 s : State} (f : Fld) (idx inst new : Nat) (h : Keeps s0 s) : Keeps s0 (State.wrState s f idx inst new) := by
  unfold State.wrState
  with_reducible repeat' first
    | assumption | apply State.stateLog_keeps | apply State.wr_keeps | refine Keeps.ite (fun _ => ?_) (fun _ => ?_)
    | extract_lets

theorem State.cmdLog_keeps {s0 s : State} (source group status op src : Nat) (h : Keeps s0 s) : Keeps s0 (State.cmdLog s source group status op src) := by
  unfold State.cmdLog
  with_reducible repeat' first
    | assumption | apply State.logEvent_keeps

theorem State.pmcOverflow_keeps {s0 s : State} (n ev : Nat) (h : Keeps s0 s) : Keeps s0 (State.pmcOverflow s n ev) := by
  unfold State.pmcOverflow
  with_reducible repeat' first
    | assumption | apply State.wrBit_keeps | refine Keeps.ite (fun _ => ?_) (fun _ => ?_) | split | extract_lets
    | exact Keeps.field h | refine Keeps.field ?_

theorem State.pmcTurn_keeps {s0 s : State} (h : Keeps s0 s) : Keeps s0 (State.pmcTurn s) := by
  unfold State.pmcTurn
  with_reducible repeat' first
    | assumption | refine Keeps.ite (fun _ => ?_) (fun _ => ?_) | exact Keeps.field h | refine Keeps.field ?_ | intro _

theorem State.pmcStep_keeps {s0 s : State} (n ev k : Nat) (h : Keeps s0 s) : Keeps s0 (State.pmcStep s n ev k) := by
  unfold State.pmcStep
  with_reducible repeat' first
    | assumption | apply State.pmcOverflow_keeps | apply State.wr_keeps | refine Keeps.ite (fun _ => ?_) (fun _ => ?_) | split
    | extract_lets

theorem State.pmcAdd_keeps {s0 s : State} (n k : Nat) (h : Keeps s0 s) : Keeps s0 (State.pmcAdd s n k) := by
  unfold State.pmcAdd
  with_reducible repeat' first
    | assumption | apply State.pmcTurn_keeps | apply State.pmcStep_keeps | refine Keeps.ite (fun _ => ?_) (fun _ => ?_)
    | extract_lets

theorem State.pmcCount_keeps {s0 s : State} (n k : Nat) (h : Keeps s0 s) : Keeps s0 (State.pmcCount s n k) := by
  unfold State.pmcCount
  with_reducible repeat' first
    | assumption | apply State.pmcTurn_keeps | apply State.pmcAdd_keeps | refine Keeps.ite (fun _ => ?_) (fun _ => ?_) | split
    | extract_lets | exact Keeps.field h | refine Keeps.field ?_

theorem State.count_keeps {s0 s : State} (evt src k : Nat) (h : Keeps s0 s) : Keeps s0 (State.count s evt src k) := by
  unfold State.count
  with_reducible repeat' first
    | assumption | apply State.pmcCount_keeps | refine Keeps.foldl ?_ (fun _ _ _ => ?_)
    | refine Keeps.ite (fun _ => ?_) (fun _ => ?_) | intro _

theorem State.pmcWrite_keeps {s0 s : State} (n v : Nat) (h : Keeps s0 s) : Keeps s0 (State.pmcWrite s n v) := by
  unfold State.pmcWrite
  with_reducible repeat' first
    | assumption | apply State.pmcTurn_keeps | apply State.wr_keeps | split | extract_lets | exact Keeps.field h
    | refine Keeps.field ?_

theorem State.wrRaw_keeps {s0 s : State} (w : Nat) (v : WireWord) (h : Keeps s0 s) : Keeps s0 (State.wrRaw s w v) := by
  unfold State.wrRaw
  with_reducible repeat' first
    | assumption | apply State.wrByte_keeps | apply State.wrChk_keeps | refine Keeps.foldl ?_ (fun _ _ _ => ?_) | extract_lets
    | intro _

theorem State.wrWord_keeps {s0 s : State} (w : Nat) (data : Bytes) (h : Keeps s0 s) : Keeps s0 (State.wrWord s w data) := by
  unfold State.wrWord
  with_reducible repeat' first
    | assumption | apply State.wrRaw_keeps

theorem State.pipAddr_keeps {s0 s : State} (w sym : Nat) (uncorr : Bool) (h : Keeps s0 s) : Keeps s0 (State.pipAddr s w sym uncorr) := by
  unfold State.pipAddr
  with_reducible repeat' first
    | assumption | apply State.wrB_keeps | apply State.wr_keeps

theorem State.pipLog_keeps {s0 s : State} (f : Fld) (w sym : Nat) (h : Keeps s0 s) : Keeps s0 (State.pipLog s f w sym) := by
  unfold State.pipLog
  with_reducible repeat' first
    | assumption | apply State.logEvent_keeps | apply State.wr_keeps | extract_lets

theorem State.pipCorrected_keeps {s0 s : State} (w p : Nat) (v : WireWord) (h : Keeps s0 s) : Keeps s0 (State.pipCorrected s w p v) := by
  unfold State.pipCorrected
  with_reducible repeat' first
    | assumption | apply State.pipAddr_keeps | apply State.satInc_keeps | apply State.pipLog_keeps | apply State.count_keeps
    | apply State.wrRaw_keeps | refine Keeps.ite (fun _ => ?_) (fun _ => ?_) | extract_lets

theorem State.pipUncorr_keeps {s0 s : State} (w : Nat) (h : Keeps s0 s) : Keeps s0 (State.pipUncorr s w) := by
  unfold State.pipUncorr
  with_reducible repeat' first
    | assumption | apply State.pipAddr_keeps | apply State.satInc_keeps | apply State.pipLog_keeps | extract_lets

theorem State.readWord_keeps {s0 s : State} (w : Nat) (h : Keeps s0 s) : Keeps s0 (State.readWord s w).1 := by
  unfold State.readWord
  with_reducible repeat' first
    | assumption | apply State.pipCorrected_keeps | apply State.pipUncorr_keeps | refine Keeps.ofPair (by assumption) ?_
    | refine Keeps.ite (fun _ => ?_) (fun _ => ?_) | refine Keeps.ite1 (fun _ => ?_) (fun _ => ?_) | split | extract_lets
    | dsimp only

theorem State.readWords_keeps {s0 : State} (n : Nat) {s : State} (w : Nat) (h : Keeps s0 s) : Keeps s0 (State.readWords n s w).1 := by
  induction n generalizing s w with
  | zero => exact h
  | succ n ih =>
    unfold State.readWords
    have h1 := State.readWord_keeps w h
    split
    · exact Keeps.ofPair (by assumption) h1
    · rename_i t d e
      have h2 : Keeps s0 t := Keeps.ofPair e h1
      have h3 := ih (s := t) (w + 1) h2
      split <;> exact Keeps.ofPair (by assumption) h3

theorem State.wrWords_keeps {s0 : State} (n : Nat) {s : State} (w : Nat) (d : Bytes) (h : Keeps s0 s) : Keeps s0 (State.wrWords n s w d) := by
  induction n generalizing s w d with
  | zero => exact h
  | succ n ih => exact ih _ _ (State.wrWord_keeps w _ h)

theorem State.program_keeps {s0 s : State} (w : Nat) (data : Bytes) (h : Keeps s0 s) : Keeps s0 (State.program s w data) := by
  unfold State.program
  with_reducible repeat' first
    | assumption | apply State.wrWord_keeps | refine Keeps.ite (fun _ => ?_) (fun _ => ?_)

theorem State.programs_keeps {s0 : State} (n : Nat) {s : State} (w : Nat) (d : Bytes) (h : Keeps s0 s) : Keeps s0 (State.programs n s w d) := by
  induction n generalizing s w d with
  | zero => exact h
  | succ n ih => exact ih _ _ (State.program_keeps w _ h)

theorem State.busErr_keeps {s0 s : State} (a : Nat) (h : Keeps s0 s) : Keeps s0 (State.busErr s a) := by
  unfold State.busErr
  with_reducible repeat' first
    | assumption | apply State.logEvent_keeps | apply State.wr_keeps | extract_lets

theorem State.deliver_keeps {s0 s : State} (who : Requester) (a v : Nat) (h : Keeps s0 s) : Keeps s0 (State.deliver s who a v) := by
  unfold State.deliver
  with_reducible repeat' first
    | assumption | exact Keeps.field h | refine Keeps.field ?_ | intro _

theorem State.deliverNone_keeps {s0 s : State} (who : Requester) (h : Keeps s0 s) : Keeps s0 (State.deliverNone s who) := by
  unfold State.deliverNone
  with_reducible repeat' first
    | assumption | exact Keeps.field h | refine Keeps.field ?_ | intro _

end Sys2Proof.Machine
end

