-- ==== Sys2Proof/Laws/KTasks.lean ====
section
/-!
SUPPORT. Laws/KTasks.lean: what each operation of Machine/Tasks.lean keeps (Laws/Keeps.lean).
-/
namespace Sys2Proof.Machine

theorem State.modCrt_keeps {s0 s : State} (f : CrtState → CrtState) (h : Keeps s0 s) : Keeps s0 (State.modCrt s f) := by
  unfold State.modCrt
  with_reducible repeat' first
    | assumption | exact Keeps.field h | refine Keeps.field ?_

theorem State.modTask_keeps {s0 s : State} (t : Nat) (f : CrtTask → CrtTask) (h : Keeps s0 s) : Keeps s0 (State.modTask s t f) := by
  unfold State.modTask
  with_reducible repeat' first
    | assumption | apply State.modCrt_keeps | exact Keeps.field h | refine Keeps.field ?_ | intro _

theorem State.modStn_keeps {s0 s : State} (k : Nat) (f : CrtStn → CrtStn) (h : Keeps s0 s) : Keeps s0 (State.modStn s k f) := by
  unfold State.modStn
  with_reducible repeat' first
    | assumption | apply State.modCrt_keeps | exact Keeps.field h | refine Keeps.field ?_ | intro _

theorem State.putSig_keeps {s0 s : State} (g : Sig) (v q : Nat) (h : Keeps s0 s) : Keeps s0 (State.putSig s g v q) := by
  unfold State.putSig
  with_reducible repeat' first
    | assumption | apply State.modCrt_keeps | exact Keeps.field h | refine Keeps.field ?_ | intro _

theorem State.evtMark_keeps {s0 s : State} (src : TaskDesc → Bool) (h : Keeps s0 s) : Keeps s0 (State.evtMark s src) := by
  unfold State.evtMark
  with_reducible repeat' first
    | assumption | apply State.modCrt_keeps | refine Keeps.foldl ?_ (fun _ _ _ => ?_)
    | refine Keeps.ite (fun _ => ?_) (fun _ => ?_) | exact Keeps.field h | refine Keeps.field ?_ | intro _

theorem State.evtScan_keeps {s0 s : State} (h : Keeps s0 s) : Keeps s0 (State.evtScan s) := by
  unfold State.evtScan
  with_reducible repeat' first
    | assumption | apply State.modTask_keeps | apply State.evtMark_keeps | refine Keeps.ofPair (by assumption) ?_
    | refine Keeps.foldlP ?_ (fun _ _ _ => ?_) | refine Keeps.foldl ?_ (fun _ _ _ => ?_)
    | refine Keeps.ite (fun _ => ?_) (fun _ => ?_) | refine Keeps.ite1 (fun _ => ?_) (fun _ => ?_) | split | extract_lets
    | exact Keeps.field h | refine Keeps.field ?_ | intro _

end Sys2Proof.Machine
end

