-- ==== Sys2Proof/Laws/KCan.lean ====
section
/-!
SUPPORT. Laws/KCan.lean: what each operation of Machine/Can.lean keeps (Laws/Keeps.lean).
-/
namespace Sys2Proof.Machine

theorem State.modCan_keeps {s0 s : State} (n : Nat) (f : CanCtl → CanCtl) (h : Keeps s0 s) : Keeps s0 (State.modCan s n f) := by
  unfold State.modCan
  with_reducible repeat' first
    | assumption | exact Keeps.field h | refine Keeps.field ?_

theorem State.updPermit_keeps {s0 s : State} (h : Keeps s0 s) : Keeps s0 (State.updPermit s) := by
  unfold State.updPermit
  with_reducible repeat' first
    | assumption | apply State.wrB_keeps | refine Keeps.foldl ?_ (fun _ _ _ => ?_) | split | extract_lets | intro _

theorem State.canRelease_keeps {s0 s : State} (h : Keeps s0 s) : Keeps s0 (State.canRelease s) := by
  unfold State.canRelease
  with_reducible repeat' first
    | assumption | apply State.modCan_keeps | apply State.wrB_keeps | refine Keeps.foldl ?_ (fun _ _ _ => ?_)
    | exact Keeps.field h | refine Keeps.field ?_ | intro _

theorem State.canPend_keeps {s0 s : State} (n m : Nat) (h : Keeps s0 s) : Keeps s0 (State.canPend s n m) := by
  unfold State.canPend
  with_reducible repeat' first
    | assumption | apply State.modCan_keeps | apply State.wr_keeps | extract_lets | exact Keeps.field h
    | refine Keeps.field ?_ | intro _

theorem State.canLeave_keeps {s0 s : State} (n m st : Nat) (h : Keeps s0 s) : Keeps s0 (State.canLeave s n m st) := by
  unfold State.canLeave
  with_reducible repeat' first
    | assumption | apply State.modCan_keeps | apply State.wr_keeps | exact Keeps.field h | refine Keeps.field ?_ | intro _

theorem State.canMissed_keeps {s0 s : State} (n k : Nat) (h : Keeps s0 s) : Keeps s0 (State.canMissed s n k) := by
  unfold State.canMissed
  with_reducible repeat' first
    | assumption | apply State.satInc_keeps | apply State.errLog_keeps | apply State.modCan_keeps | extract_lets
    | exact Keeps.field h | refine Keeps.field ?_ | intro _

theorem State.canLevel_keeps {s0 s : State} (n : Nat) (h : Keeps s0 s) : Keeps s0 (State.canLevel s n) := by
  unfold State.canLevel
  with_reducible repeat' first
    | assumption | apply State.set1_keeps | apply State.wr_keeps | refine Keeps.ite (fun _ => ?_) (fun _ => ?_) | split
    | extract_lets

theorem State.canBusOff_keeps {s0 s : State} (n : Nat) (h : Keeps s0 s) : Keeps s0 (State.canBusOff s n) := by
  unfold State.canBusOff
  with_reducible repeat' first
    | assumption | apply State.canMissed_keeps | apply State.satInc_keeps | apply State.errLog_keeps
    | apply State.modCan_keeps | apply State.wr_keeps | refine Keeps.foldl ?_ (fun _ _ _ => ?_)
    | refine Keeps.ite (fun _ => ?_) (fun _ => ?_) | extract_lets | exact Keeps.field h | refine Keeps.field ?_ | intro _

theorem State.applyTiming_keeps {s0 s : State} (n : Nat) (h : Keeps s0 s) : Keeps s0 (State.applyTiming s n) := by
  unfold State.applyTiming
  with_reducible repeat' first
    | assumption | apply State.modCan_keeps | apply State.wr_keeps | refine Keeps.foldlP ?_ (fun _ _ _ => ?_)
    | refine Keeps.foldl ?_ (fun _ _ _ => ?_) | refine Keeps.ite (fun _ => ?_) (fun _ => ?_)
    | refine Keeps.ite1 (fun _ => ?_) (fun _ => ?_) | split | extract_lets | exact Keeps.field h | refine Keeps.field ?_
    | intro _

theorem State.canTimingWrite_keeps {s0 s : State} (n off v : Nat) (inFrame : Bool) (h : Keeps s0 s) : Keeps s0 (State.canTimingWrite s n off v inFrame).1 := by
  unfold State.canTimingWrite
  with_reducible repeat' first
    | assumption | apply State.applyTiming_keeps | apply State.modCan_keeps | apply State.set1_keeps | apply State.wr_keeps
    | refine Keeps.foldlP ?_ (fun _ _ _ => ?_) | refine Keeps.foldl ?_ (fun _ _ _ => ?_)
    | refine Keeps.ite (fun _ => ?_) (fun _ => ?_) | refine Keeps.ite1 (fun _ => ?_) (fun _ => ?_) | extract_lets
    | exact Keeps.field h | refine Keeps.field ?_ | intro _ | dsimp only

theorem execCanBitTimingWrite_keeps {s0 s : State} (n : Fin 4) (off v : Nat) (inFrame : Bool) (h : Keeps s0 s) : OutKeeps s0 (execCanBitTimingWrite n off v inFrame s) := by
  unfold execCanBitTimingWrite
  with_reducible repeat' first
    | assumption | apply OutKeeps.next | apply OutKeeps.done | apply State.canTimingWrite_keeps | apply whenLive_keeps
    | intro _

theorem execCanIntegrationDone_keeps {s0 s : State} (n : Fin 4) (h : Keeps s0 s) : OutKeeps s0 (execCanIntegrationDone n s) := by
  unfold execCanIntegrationDone
  with_reducible repeat' first
    | assumption | apply OutKeeps.next | apply OutKeeps.done | apply State.canLevel_keeps | apply State.wr_keeps
    | refine Keeps.ite (fun _ => ?_) (fun _ => ?_) | refine OutKeeps.ite (fun _ => ?_) (fun _ => ?_)

theorem State.canLoadSlots_keeps {s0 s : State} (n : Nat) (tab : Bytes) (h : Keeps s0 s) : Keeps s0 (State.canLoadSlots s n tab) := by
  unfold State.canLoadSlots
  with_reducible repeat' first
    | assumption | apply State.wrAll_keeps | refine Keeps.foldl ?_ (fun _ _ _ => ?_) | extract_lets | intro _

theorem State.canLoadLists_keeps {s0 s : State} (n : Nat) (sec : Bytes) (h : Keeps s0 s) : Keeps s0 (State.canLoadLists s n sec) := by
  unfold State.canLoadLists
  with_reducible repeat' first
    | assumption | apply State.wrAll_keeps | refine Keeps.foldl ?_ (fun _ _ _ => ?_) | extract_lets | intro _

theorem State.canApply_keeps {s0 s : State} (sec : Bytes) (h : Keeps s0 s) : Keeps s0 (State.canApply s sec) := by
  unfold State.canApply
  with_reducible repeat' first
    | assumption | apply State.canLoadSlots_keeps | apply State.canLoadLists_keeps | refine Keeps.foldl ?_ (fun _ _ _ => ?_)
    | intro _

theorem State.canFlip_keeps {s0 s : State} (sec : Bytes) (f : Nat) (h : Keeps s0 s) : Keeps s0 (State.canFlip s sec f) := by
  unfold State.canFlip
  with_reducible repeat' first
    | assumption | apply State.canLoadLists_keeps | refine Keeps.foldl ?_ (fun _ _ _ => ?_) | extract_lets
    | exact Keeps.field h | refine Keeps.field ?_ | intro _

theorem State.canTurn_keeps {s0 s : State} (n : Nat) (h : Keeps s0 s) : Keeps s0 (State.canTurn s n) := by
  unfold State.canTurn
  with_reducible repeat' first
    | assumption | apply State.canLoadSlots_keeps | refine Keeps.ofPair (by assumption) ?_
    | refine Keeps.ite (fun _ => ?_) (fun _ => ?_) | split | extract_lets | exact Keeps.field h | refine Keeps.field ?_

theorem execCanSlotOccurrence_keeps {s0 s : State} (n : Fin 4) (k : Fin 64) (h : Keeps s0 s) : OutKeeps s0 (execCanSlotOccurrence n k s) := by
  unfold execCanSlotOccurrence
  with_reducible repeat' first
    | assumption | apply OutKeeps.next | apply OutKeeps.done | apply State.canMissed_keeps | apply State.canPend_keeps
    | apply State.canTurn_keeps | apply State.modCan_keeps | apply whenWorks_keeps | apply State.wr_keeps
    | refine Keeps.ofPair (by assumption) ?_ | refine Keeps.ite (fun _ => ?_) (fun _ => ?_) | split | extract_lets
    | exact Keeps.field h | refine Keeps.field ?_ | intro _ | refine OutKeeps.ite (fun _ => ?_) (fun _ => ?_)

theorem execCanWindowEnd_keeps {s0 s : State} (n : Fin 4) (k : Fin 64) (started : Bool) (h : Keeps s0 s) : OutKeeps s0 (execCanWindowEnd n k started s) := by
  unfold execCanWindowEnd
  with_reducible repeat' first
    | assumption | apply OutKeeps.next | apply OutKeeps.done | apply State.canMissed_keeps | apply State.canLeave_keeps
    | refine Keeps.ofPair (by assumption) ?_ | refine Keeps.ite (fun _ => ?_) (fun _ => ?_) | split
    | refine OutKeeps.ite (fun _ => ?_) (fun _ => ?_)

theorem execCanArbitrationLost_keeps {s0 s : State} (n : Fin 4) (m : Fin 128) (h : Keeps s0 s) : OutKeeps s0 (execCanArbitrationLost n m s) := by
  unfold execCanArbitrationLost
  with_reducible repeat' first
    | assumption | apply OutKeeps.next | apply OutKeeps.done | apply State.canPend_keeps
    | refine Keeps.ite (fun _ => ?_) (fun _ => ?_) | refine OutKeeps.ite (fun _ => ?_) (fun _ => ?_)

theorem State.canFrameEnd_keeps {s0 s : State} (n : Nat) (h : Keeps s0 s) : Keeps s0 (State.canFrameEnd s n) := by
  unfold State.canFrameEnd
  with_reducible repeat' first
    | assumption | apply State.applyTiming_keeps

theorem execCanFrameComplete_keeps {s0 s : State} (n : Fin 4) (m : Fin 128) (sof : BitVec 32) (h : Keeps s0 s) : OutKeeps s0 (execCanFrameComplete n m sof s) := by
  unfold execCanFrameComplete
  with_reducible repeat' first
    | assumption | apply OutKeeps.next | apply OutKeeps.done | apply State.canFrameEnd_keeps | apply State.canLeave_keeps
    | apply State.canLevel_keeps | apply State.modCan_keeps | apply State.count_keeps | apply State.wr_keeps
    | refine Keeps.ite (fun _ => ?_) (fun _ => ?_) | split | extract_lets | exact Keeps.field h | refine Keeps.field ?_
    | intro _ | refine OutKeeps.ite (fun _ => ?_) (fun _ => ?_)

theorem execCanBusError_keeps {s0 s : State} (n : Fin 4) (kind : CanErr) (transmitting dominant : Bool) (h : Keeps s0 s) : OutKeeps s0 (execCanBusError n kind transmitting dominant s) := by
  unfold execCanBusError
  with_reducible repeat' first
    | assumption | apply OutKeeps.next | apply OutKeeps.done | apply State.canFrameEnd_keeps | apply State.canBusOff_keeps
    | apply State.canLevel_keeps | apply State.canPend_keeps | apply State.wr_keeps | refine Keeps.foldl ?_ (fun _ _ _ => ?_)
    | refine Keeps.ite (fun _ => ?_) (fun _ => ?_) | split | extract_lets | intro _
    | refine OutKeeps.ite (fun _ => ?_) (fun _ => ?_)

theorem State.canTel_keeps {s0 s : State} (n m : Nat) (h : Keeps s0 s) : Keeps s0 (State.canTel s n m) := by
  unfold State.canTel
  with_reducible repeat' first
    | assumption | refine Keeps.ite (fun _ => ?_) (fun _ => ?_) | exact Keeps.field h | refine Keeps.field ?_ | intro _

theorem State.canStore_keeps {s0 s : State} (n m : Nat) (f : CanFrame) (h : Keeps s0 s) : Keeps s0 (State.canStore s n m f) := by
  unfold State.canStore
  with_reducible repeat' first
    | assumption | apply State.evtMark_keeps | apply State.evtScan_keeps | apply State.satInc_keeps | apply State.modCan_keeps
    | apply State.canTel_keeps | apply State.wrAll_keeps | apply State.set1_keeps | apply State.wr_keeps
    | refine Keeps.foldl ?_ (fun _ _ _ => ?_) | refine Keeps.ite (fun _ => ?_) (fun _ => ?_) | extract_lets
    | exact Keeps.field h | refine Keeps.field ?_ | intro _

theorem execCanFrameReceive_keeps {s0 s : State} (n : Fin 4) (f : CanFrame) (h : Keeps s0 s) : OutKeeps s0 (execCanFrameReceive n f s) := by
  unfold execCanFrameReceive
  with_reducible repeat' first
    | assumption | apply OutKeeps.next | apply OutKeeps.done | apply State.canFrameEnd_keeps | apply State.canLevel_keeps
    | apply State.canStore_keeps | apply State.satInc_keeps | apply State.count_keeps | apply State.draw_keeps
    | apply State.set1_keeps | apply State.wr_keeps | refine Keeps.ofPair (by assumption) ?_
    | refine Keeps.ite (fun _ => ?_) (fun _ => ?_) | split | extract_lets | intro _
    | refine OutKeeps.ite (fun _ => ?_) (fun _ => ?_)

theorem State.canRequest_keeps {s0 s : State} (n m : Nat) (h : Keeps s0 s) : Keeps s0 (State.canRequest s n m).1 := by
  unfold State.canRequest
  with_reducible repeat' first
    | assumption | apply State.canPend_keeps | apply State.canTurn_keeps | apply State.set1_keeps
    | refine Keeps.ite (fun _ => ?_) (fun _ => ?_) | refine Keeps.ite1 (fun _ => ?_) (fun _ => ?_) | extract_lets | dsimp only

theorem execCanTxreq_keeps {s0 s : State} (n : Fin 4) (m : Fin 128) (h : Keeps s0 s) : OutKeeps s0 (execCanTxreq n m s) := by
  unfold execCanTxreq
  with_reducible repeat' first
    | assumption | apply OutKeeps.next | apply OutKeeps.done | apply State.canRequest_keeps | apply whenLive_keeps | intro _

theorem State.canRecover_keeps {s0 s : State} (n : Nat) (h : Keeps s0 s) : Keeps s0 (State.canRecover s n).1 := by
  unfold State.canRecover
  with_reducible repeat' first
    | assumption | apply State.set1_keeps | apply State.wr_keeps | refine Keeps.ite (fun _ => ?_) (fun _ => ?_)
    | refine Keeps.ite1 (fun _ => ?_) (fun _ => ?_) | dsimp only

theorem execCanRecover_keeps {s0 s : State} (n : Fin 4) (h : Keeps s0 s) : OutKeeps s0 (execCanRecover n s) := by
  unfold execCanRecover
  with_reducible repeat' first
    | assumption | apply OutKeeps.next | apply OutKeeps.done | apply State.canRecover_keeps | apply whenLive_keeps | intro _

theorem execCanRecoveryDone_keeps {s0 s : State} (n : Fin 4) (h : Keeps s0 s) : OutKeeps s0 (execCanRecoveryDone n s) := by
  unfold execCanRecoveryDone
  with_reducible repeat' first
    | assumption | apply OutKeeps.next | apply OutKeeps.done | apply State.canPend_keeps | apply State.wrAll_keeps
    | apply State.wr_keeps | refine Keeps.ofPair (by assumption) ?_ | refine Keeps.foldl ?_ (fun _ _ _ => ?_)
    | refine Keeps.ite (fun _ => ?_) (fun _ => ?_) | split | extract_lets | intro _
    | refine OutKeeps.ite (fun _ => ?_) (fun _ => ?_)

theorem State.canClear_keeps {s0 s : State} (n : Nat) (h : Keeps s0 s) : Keeps s0 (State.canClear s n) := by
  unfold State.canClear
  with_reducible repeat' first
    | assumption | apply State.canLeave_keeps | refine Keeps.foldl ?_ (fun _ _ _ => ?_)
    | refine Keeps.ite (fun _ => ?_) (fun _ => ?_) | intro _

theorem execCanTxClr_keeps {s0 s : State} (n : Fin 4) (h : Keeps s0 s) : OutKeeps s0 (execCanTxClr n s) := by
  unfold execCanTxClr
  with_reducible repeat' first
    | assumption | apply OutKeeps.next | apply OutKeeps.done | apply State.canClear_keeps | apply whenLive_keeps | intro _

theorem State.canEnable_keeps {s0 s : State} (n : Nat) (en : Bool) (h : Keeps s0 s) : Keeps s0 (State.canEnable s n en) := by
  unfold State.canEnable
  with_reducible repeat' first
    | assumption | apply State.modCan_keeps | apply State.wrB_keeps | apply State.wr_keeps
    | refine Keeps.ite (fun _ => ?_) (fun _ => ?_) | extract_lets | exact Keeps.field h | refine Keeps.field ?_ | intro _

theorem State.writeCan_keeps {s0 s : State} (l : RegLoc) (v : Nat) (h : Keeps s0 s) : Keeps s0 (State.writeCan s l v).1 := by
  unfold State.writeCan
  with_reducible repeat' first
    | assumption | apply State.canTimingWrite_keeps | apply State.canRequest_keeps | apply State.canRecover_keeps
    | apply State.updPermit_keeps | apply State.canEnable_keeps | apply State.canClear_keeps | apply State.wrReg_keeps
    | apply State.count_keeps | apply State.draw_keeps | apply State.set1_keeps | apply State.wrB_keeps
    | refine Keeps.ite (fun _ => ?_) (fun _ => ?_) | refine Keeps.ite1 (fun _ => ?_) (fun _ => ?_) | extract_lets | dsimp only

theorem State.canClkLoss_keeps {s0 s : State} (h : Keeps s0 s) : Keeps s0 (State.canClkLoss s) := by
  unfold State.canClkLoss
  with_reducible repeat' first
    | assumption | apply State.modCan_keeps | apply State.wr_keeps | refine Keeps.foldl ?_ (fun _ _ _ => ?_)
    | exact Keeps.field h | refine Keeps.field ?_ | intro _

theorem State.canClkBack_keeps {s0 s : State} (h : Keeps s0 s) : Keeps s0 (State.canClkBack s) := by
  unfold State.canClkBack
  with_reducible repeat' first
    | assumption | apply State.wr_keeps | refine Keeps.foldl ?_ (fun _ _ _ => ?_)
    | refine Keeps.ite (fun _ => ?_) (fun _ => ?_) | intro _

theorem State.canTakeover_keeps {s0 s : State} (h : Keeps s0 s) : Keeps s0 (State.canTakeover s) := by
  unfold State.canTakeover
  with_reducible repeat' first
    | assumption | apply State.canPend_keeps | apply State.modCan_keeps | refine Keeps.foldlP ?_ (fun _ _ _ => ?_)
    | refine Keeps.foldl ?_ (fun _ _ _ => ?_) | refine Keeps.ite (fun _ => ?_) (fun _ => ?_)
    | refine Keeps.ite1 (fun _ => ?_) (fun _ => ?_) | extract_lets | exact Keeps.field h | refine Keeps.field ?_ | intro _

end Sys2Proof.Machine
end

