-- ==== Sys2Proof/Laws/KSch.lean ====
section
/-!
SUPPORT. Laws/KSch.lean: what each operation of Machine/Sch.lean keeps (Laws/Keeps.lean).
-/
namespace Sys2Proof.Machine

theorem State.modSch_keeps {s0 s : State} (f : SchState → SchState) (h : Keeps s0 s) : Keeps s0 (State.modSch s f) := by
  unfold State.modSch
  with_reducible repeat' first
    | assumption | exact Keeps.field h | refine Keeps.field ?_

theorem State.respWrite_keeps {s0 s : State} (idx t : Nat) (h : Keeps s0 s) : Keeps s0 (State.respWrite s idx t) := by
  unfold State.respWrite
  with_reducible repeat' first
    | assumption | apply State.modSch_keeps | apply State.wr_keeps | exact Keeps.field h | refine Keeps.field ?_ | intro _

theorem State.respSwitch_keeps {s0 s : State} (k : Nat) (h : Keeps s0 s) : Keeps s0 (State.respSwitch s k) := by
  unfold State.respSwitch
  with_reducible repeat' first
    | assumption | apply State.modSch_keeps | apply State.wrAll_keeps | refine Keeps.ofPair (by assumption) ?_
    | refine Keeps.ite (fun _ => ?_) (fun _ => ?_) | split | exact Keeps.field h | refine Keeps.field ?_ | intro _

theorem execSchRespSelWrite_keeps {s0 s : State} (idx : Fin 16) (h : Keeps s0 s) : OutKeeps s0 (execSchRespSelWrite idx s) := by
  unfold execSchRespSelWrite
  with_reducible repeat' first
    | assumption | apply OutKeeps.next | apply OutKeeps.done | apply State.respWrite_keeps | apply whenLive_keeps | intro _

theorem State.sweepTurn_keeps {s0 s : State} (k : Nat) (h : Keeps s0 s) : Keeps s0 (State.sweepTurn s k) := by
  unfold State.sweepTurn
  with_reducible repeat' first
    | assumption | apply State.respSwitch_keeps | apply State.modSch_keeps | refine Keeps.ite (fun _ => ?_) (fun _ => ?_)
    | extract_lets | exact Keeps.field h | refine Keeps.field ?_ | intro _

theorem State.gridRun_keeps {s0 s : State} (t0 : Nat) (h : Keeps s0 s) : Keeps s0 (State.gridRun s t0) := by
  unfold State.gridRun
  with_reducible repeat' first
    | assumption | apply State.sweepTurn_keeps | refine Keeps.foldl ?_ (fun _ _ _ => ?_)
    | refine Keeps.ite (fun _ => ?_) (fun _ => ?_) | split | extract_lets | intro _

theorem State.schStep_keeps {s0 s : State} (t0 : Nat) (h : Keeps s0 s) : Keeps s0 (State.schStep s t0) := by
  unfold State.schStep
  with_reducible repeat' first
    | assumption | apply State.respSwitch_keeps | apply State.sweepTurn_keeps | apply State.modSch_keeps
    | apply State.set1_keeps | refine Keeps.ofPair (by assumption) ?_ | refine Keeps.ite (fun _ => ?_) (fun _ => ?_) | split
    | extract_lets | intro _

theorem State.gapRelease_keeps {s0 s : State} (h : Keeps s0 s) : Keeps s0 (State.gapRelease s) := by
  unfold State.gapRelease
  with_reducible repeat' first
    | assumption | apply State.wr_keeps | refine Keeps.ite (fun _ => ?_) (fun _ => ?_) | exact Keeps.field h
    | refine Keeps.field ?_

theorem State.schRun_keeps {s0 s : State} (run : Bool) (h : Keeps s0 s) : Keeps s0 (State.schRun s run) := by
  unfold State.schRun
  with_reducible repeat' first
    | assumption | apply State.gapRelease_keeps | apply State.wrB_keeps | refine Keeps.ite (fun _ => ?_) (fun _ => ?_)
    | extract_lets

theorem execSchRun_keeps {s0 s : State} (run : Bool) (h : Keeps s0 s) : OutKeeps s0 (execSchRun run s) := by
  unfold execSchRun
  with_reducible repeat' first
    | assumption | apply OutKeeps.next | apply OutKeeps.done | apply State.schRun_keeps | apply whenLive_keeps | intro _

theorem State.lockTurn_keeps {s0 s : State} (e : Option Rat) (h : Keeps s0 s) : Keeps s0 (State.lockTurn s e) := by
  unfold State.lockTurn
  with_reducible repeat' first
    | assumption | apply State.modSch_keeps | apply State.set1_keeps | apply State.wrB_keeps | apply State.wr_keeps
    | refine Keeps.ofPair (by assumption) ?_ | refine Keeps.ite (fun _ => ?_) (fun _ => ?_) | split | extract_lets
    | exact Keeps.field h | refine Keeps.field ?_ | intro _

theorem State.fastRestart_keeps {s0 s : State} (h : Keeps s0 s) : Keeps s0 (State.fastRestart s) := by
  unfold State.fastRestart
  with_reducible repeat' first
    | assumption | apply State.modSch_keeps | apply State.wr_keeps | refine Keeps.foldl ?_ (fun _ _ _ => ?_) | extract_lets
    | exact Keeps.field h | refine Keeps.field ?_ | intro _

theorem State.fastShow_keeps {s0 s : State} (h : Keeps s0 s) : Keeps s0 (State.fastShow s) := by
  unfold State.fastShow
  with_reducible repeat' first
    | assumption | apply State.wr_keeps | refine Keeps.ofPair (by assumption) ?_ | refine Keeps.foldl ?_ (fun _ _ _ => ?_)
    | split | extract_lets | intro _

theorem State.cseFrame_keeps {s0 s : State} (old : Nat) (a b : Rat) (act : Nat) (h : Keeps s0 s) : Keeps s0 (State.cseFrame s old a b act) := by
  unfold State.cseFrame
  with_reducible repeat' first
    | assumption | apply State.set1_keeps | refine Keeps.ofPair (by assumption) ?_ | refine Keeps.foldl ?_ (fun _ _ _ => ?_)
    | refine Keeps.ite (fun _ => ?_) (fun _ => ?_) | split | extract_lets | exact Keeps.field h | refine Keeps.field ?_
    | intro _

theorem State.schFrame_keeps {s0 s : State} (t : Rat) (seq act idx code : Nat) (mod : List Nat) (h : Keeps s0 s) : Keeps s0 (State.schFrame s t seq act idx code mod) := by
  unfold State.schFrame
  with_reducible repeat' first
    | assumption | apply State.fastRestart_keeps | apply State.lockTurn_keeps | apply State.fastShow_keeps
    | apply State.cseFrame_keeps | apply State.modSch_keeps | apply State.wrS_keeps | refine Keeps.ofPair (by assumption) ?_
    | refine Keeps.foldl ?_ (fun _ _ _ => ?_) | refine Keeps.ite (fun _ => ?_) (fun _ => ?_) | split | extract_lets
    | exact Keeps.field h | refine Keeps.field ?_ | intro _ | dsimp only

theorem execSweepPublish_keeps {s0 s : State} (h : Keeps s0 s) : OutKeeps s0 (execSweepPublish s) := by
  unfold execSweepPublish
  with_reducible repeat' first
    | assumption | apply OutKeeps.next | apply OutKeeps.done | apply State.satInc_keeps | apply State.set1_keeps
    | apply State.wr_keeps | refine Keeps.ofPair (by assumption) ?_ | refine Keeps.ite (fun _ => ?_) (fun _ => ?_) | split
    | extract_lets | exact Keeps.field h | refine Keeps.field ?_ | intro _ | refine OutKeeps.ite (fun _ => ?_) (fun _ => ?_)

theorem State.writeSch_keeps {s0 s : State} (l : RegLoc) (v : Nat) (h : Keeps s0 s) : Keeps s0 (State.writeSch s l v).1 := by
  unfold State.writeSch
  with_reducible repeat' first
    | assumption | apply State.respWrite_keeps | apply State.schRun_keeps | apply State.wrReg_keeps | apply State.set1_keeps
    | refine Keeps.ite (fun _ => ?_) (fun _ => ?_) | refine Keeps.ite1 (fun _ => ?_) (fun _ => ?_) | split | dsimp only

end Sys2Proof.Machine
end

