-- ==== Sys2Proof/Laws/KCfe.lean ====
section
/-!
SUPPORT. Laws/KCfe.lean: what each operation of Machine/Cfe.lean keeps (Laws/Keeps.lean).
-/
namespace Sys2Proof.Machine

theorem State.modCfe_keeps {s0 s : State} (f : CfeState → CfeState) (h : Keeps s0 s) : Keeps s0 (State.modCfe s f) := by
  unfold State.modCfe
  with_reducible repeat' first
    | assumption | exact Keeps.field h | refine Keeps.field ?_

theorem State.modFe_keeps {s0 s : State} (f : CfeFe → CfeFe) (h : Keeps s0 s) : Keeps s0 (State.modFe s f) := by
  unfold State.modFe
  with_reducible repeat' first
    | assumption | exact Keeps.field h | refine Keeps.field ?_

theorem State.updHv_keeps {s0 s : State} (h : Keeps s0 s) : Keeps s0 (State.updHv s) := by
  unfold State.updHv
  with_reducible repeat' first
    | assumption | apply State.wrB_keeps

theorem State.phaseNow_keeps {s0 s : State} (h : Keeps s0 s) : Keeps s0 (State.phaseNow s) := by
  unfold State.phaseNow
  with_reducible repeat' first
    | assumption | apply State.modCfe_keeps | exact Keeps.field h | refine Keeps.field ?_ | intro _

theorem State.cfeSync_keeps {s0 s : State} (h : Keeps s0 s) : Keeps s0 (State.cfeSync s) := by
  unfold State.cfeSync
  with_reducible repeat' first
    | assumption | apply State.modSch_keeps | apply State.modCfe_keeps | exact Keeps.field h | refine Keeps.field ?_ | intro _

theorem State.cfeSend_keeps {s0 s : State} (f : CfeDown) (h : Keeps s0 s) : Keeps s0 (State.cfeSend s f) := by
  unfold State.cfeSend
  with_reducible repeat' first
    | assumption | apply State.modCfe_keeps | exact Keeps.field h | refine Keeps.field ?_ | intro _

theorem execCfeDownlinkSend_keeps {s0 s : State} (h : Keeps s0 s) : OutKeeps s0 (execCfeDownlinkSend s) := by
  unfold execCfeDownlinkSend
  with_reducible repeat' first
    | assumption | apply OutKeeps.next | apply OutKeeps.done | apply State.cfeSend_keeps | apply State.modCfe_keeps
    | apply whenLive_keeps | refine Keeps.ofPair (by assumption) ?_ | refine Keeps.ite (fun _ => ?_) (fun _ => ?_) | split
    | extract_lets | exact Keeps.field h | refine Keeps.field ?_ | intro _ | dsimp only
    | refine OutKeeps.ite (fun _ => ?_) (fun _ => ?_)

theorem execHvResend_keeps {s0 s : State} (h : Keeps s0 s) : OutKeeps s0 (execHvResend s) := by
  unfold execHvResend
  with_reducible repeat' first
    | assumption | apply OutKeeps.next | apply OutKeeps.done | apply State.modCfe_keeps | apply whenLive_keeps
    | exact Keeps.field h | refine Keeps.field ?_ | intro _

theorem State.hvWrite_keeps {s0 s : State} (l : RegLoc) (v : Nat) (h : Keeps s0 s) : Keeps s0 (State.hvWrite s l v).1 := by
  unfold State.hvWrite
  with_reducible repeat' first
    | assumption | apply State.modCfe_keeps | apply State.wrReg_keeps | apply State.updHv_keeps | apply State.set1_keeps
    | refine Keeps.ite (fun _ => ?_) (fun _ => ?_) | refine Keeps.ite1 (fun _ => ?_) (fun _ => ?_) | split | extract_lets
    | exact Keeps.field h | refine Keeps.field ?_ | intro _ | dsimp only

theorem execHvWrite_keeps {s0 s : State} (r : Fin 3) (v : BitVec 32) (h : Keeps s0 s) : OutKeeps s0 (execHvWrite r v s) := by
  unfold execHvWrite
  with_reducible repeat' first
    | assumption | apply OutKeeps.next | apply OutKeeps.done | apply State.hvWrite_keeps | apply whenLive_keeps
    | refine Keeps.ofPair (by assumption) ?_ | split | intro _

theorem State.cfeEnable_keeps {s0 s : State} (b : Bool) (h : Keeps s0 s) : Keeps s0 (State.cfeEnable s b) := by
  unfold State.cfeEnable
  with_reducible repeat' first
    | assumption | apply State.cfeSync_keeps | apply State.modCfe_keeps | apply State.wrB_keeps
    | refine Keeps.ite (fun _ => ?_) (fun _ => ?_) | extract_lets | exact Keeps.field h | refine Keeps.field ?_ | intro _

theorem execCfeEnable_keeps {s0 s : State} (on : Bool) (h : Keeps s0 s) : OutKeeps s0 (execCfeEnable on s) := by
  unfold execCfeEnable
  with_reducible repeat' first
    | assumption | apply OutKeeps.next | apply OutKeeps.done | apply State.cfeEnable_keeps | apply whenLive_keeps | intro _

theorem State.cfeStateCmd_keeps {s0 s : State} (op : Nat) (h : Keeps s0 s) : Keeps s0 (State.cfeStateCmd s op).1 := by
  unfold State.cfeStateCmd
  with_reducible repeat' first
    | assumption | apply State.modCfe_keeps | apply State.set1_keeps | refine Keeps.ite (fun _ => ?_) (fun _ => ?_)
    | refine Keeps.ite1 (fun _ => ?_) (fun _ => ?_) | exact Keeps.field h | refine Keeps.field ?_ | intro _ | dsimp only

theorem execSnowEnter_keeps {s0 s : State} (h : Keeps s0 s) : OutKeeps s0 (execSnowEnter s) := by
  unfold execSnowEnter
  with_reducible repeat' first
    | assumption | apply OutKeeps.next | apply OutKeeps.done | apply State.cfeStateCmd_keeps | apply whenLive_keeps | intro _

theorem execHibEnter_keeps {s0 s : State} (h : Keeps s0 s) : OutKeeps s0 (execHibEnter s) := by
  unfold execHibEnter
  with_reducible repeat' first
    | assumption | apply OutKeeps.next | apply OutKeeps.done | apply State.cfeStateCmd_keeps | apply whenLive_keeps | intro _

theorem State.balReq_keeps {s0 s : State} (req : Nat) (h : Keeps s0 s) : Keeps s0 (State.balReq s req) := by
  unfold State.balReq
  with_reducible repeat' first
    | assumption | apply State.modFe_keeps | apply State.wr_keeps | exact Keeps.field h | refine Keeps.field ?_ | intro _

theorem execBalReqWrite_keeps {s0 s : State} (req : BitVec 48) (h : Keeps s0 s) : OutKeeps s0 (execBalReqWrite req s) := by
  unfold execBalReqWrite
  with_reducible repeat' first
    | assumption | apply OutKeeps.next | apply OutKeeps.done | apply State.balReq_keeps | apply whenLive_keeps | intro _

theorem execBalLeaseExpiry_keeps {s0 s : State} (h : Keeps s0 s) : OutKeeps s0 (execBalLeaseExpiry s) := by
  unfold execBalLeaseExpiry
  with_reducible repeat' first
    | assumption | apply OutKeeps.next | apply OutKeeps.done | apply State.wr_keeps | apply whenLive_keeps | intro _

theorem execBalPhaseChange_keeps {s0 s : State} (h : Keeps s0 s) : OutKeeps s0 (execBalPhaseChange s) := by
  unfold execBalPhaseChange
  with_reducible repeat' first
    | assumption | apply OutKeeps.next | apply OutKeeps.done | apply State.modCfe_keeps | apply whenLive_keeps
    | exact Keeps.field h | refine Keeps.field ?_ | intro _

theorem execMeasPauseOpen_keeps {s0 s : State} (sweep : BitVec 32) (h : Keeps s0 s) : OutKeeps s0 (execMeasPauseOpen sweep s) := by
  unfold execMeasPauseOpen
  with_reducible repeat' first
    | assumption | apply OutKeeps.next | apply OutKeeps.done | apply State.gapRelease_keeps | apply State.modCfe_keeps
    | apply whenWorks_keeps | refine Keeps.ite (fun _ => ?_) (fun _ => ?_) | extract_lets | exact Keeps.field h
    | refine Keeps.field ?_ | intro _ | refine OutKeeps.ite (fun _ => ?_) (fun _ => ?_)

theorem execMeasPauseClose_keeps {s0 s : State} (h : Keeps s0 s) : OutKeeps s0 (execMeasPauseClose s) := by
  unfold execMeasPauseClose
  with_reducible repeat' first
    | assumption | apply OutKeeps.next | apply OutKeeps.done | apply State.modCfe_keeps | apply State.wrB_keeps
    | apply whenWorks_keeps | refine Keeps.ofPair (by assumption) ?_ | refine Keeps.ite (fun _ => ?_) (fun _ => ?_) | split
    | extract_lets | exact Keeps.field h | refine Keeps.field ?_ | intro _ | refine OutKeeps.ite (fun _ => ?_) (fun _ => ?_)

theorem State.takeFlags_keeps {s0 s : State} (f : Fld) (idx new : Nat) (h : Keeps s0 s) : Keeps s0 (State.takeFlags s f idx new) := by
  unfold State.takeFlags
  with_reducible repeat' first
    | assumption | apply State.stateLog_keeps | apply State.wr_keeps | refine Keeps.foldl ?_ (fun _ _ _ => ?_)
    | refine Keeps.ite (fun _ => ?_) (fun _ => ?_) | extract_lets | intro _

theorem State.hvConfirm_keeps {s0 s : State} (f : CfeUp) (h : Keeps s0 s) : Keeps s0 (State.hvConfirm s f) := by
  unfold State.hvConfirm
  with_reducible repeat' first
    | assumption | apply State.modCfe_keeps | apply State.updHv_keeps | apply State.set1_keeps
    | refine Keeps.ofPair (by assumption) ?_ | refine Keeps.ite (fun _ => ?_) (fun _ => ?_) | split | extract_lets
    | exact Keeps.field h | refine Keeps.field ?_ | intro _

theorem State.cfeEcho_keeps {s0 s : State} (echo : Nat) (t : Int) (h : Keeps s0 s) : Keeps s0 (State.cfeEcho s echo t) := by
  unfold State.cfeEcho
  with_reducible repeat' first
    | assumption | apply State.cfeSync_keeps | apply State.modCfe_keeps | apply State.updHv_keeps
    | refine Keeps.ite (fun _ => ?_) (fun _ => ?_) | exact Keeps.field h | refine Keeps.field ?_ | intro _

theorem State.cfeReports_keeps {s0 s : State} (f : CfeStat) (h : Keeps s0 s) : Keeps s0 (State.cfeReports s f) := by
  unfold State.cfeReports
  with_reducible repeat' first
    | assumption | apply State.satAdd_keeps | apply State.errLog_keeps | apply State.set1_keeps | apply State.wr_keeps
    | refine Keeps.ofPair (by assumption) ?_ | refine Keeps.foldl ?_ (fun _ _ _ => ?_)
    | refine Keeps.ite (fun _ => ?_) (fun _ => ?_) | split | extract_lets | intro _

theorem execCfeUplinkReceive_keeps {s0 s : State} (f : CfeUp) (t : BitVec 32) (h : Keeps s0 s) : OutKeeps s0 (execCfeUplinkReceive f t s) := by
  unfold execCfeUplinkReceive
  with_reducible repeat' first
    | assumption | apply OutKeeps.next | apply OutKeeps.done | apply State.cfeReports_keeps | apply State.cfeEnable_keeps
    | apply State.takeFlags_keeps | apply State.hvConfirm_keeps | apply State.schFrame_keeps | apply State.cfeEcho_keeps
    | apply State.satInc_keeps | apply State.modCfe_keeps | apply State.wrAll_keeps | apply State.set1_keeps
    | apply whenLive_keeps | refine Keeps.ite (fun _ => ?_) (fun _ => ?_) | split | extract_lets | exact Keeps.field h
    | refine Keeps.field ?_ | intro _ | refine OutKeeps.ite (fun _ => ?_) (fun _ => ?_)

theorem execCfeLinkLost_keeps {s0 s : State} (h : Keeps s0 s) : OutKeeps s0 (execCfeLinkLost s) := by
  unfold execCfeLinkLost
  with_reducible repeat' first
    | assumption | apply OutKeeps.next | apply OutKeeps.done | apply State.cfeSync_keeps | apply State.errLog_keeps
    | apply State.modSch_keeps | apply State.wr_keeps | apply whenLive_keeps | refine Keeps.ite (fun _ => ?_) (fun _ => ?_)
    | extract_lets | exact Keeps.field h | refine Keeps.field ?_ | intro _ | refine OutKeeps.ite (fun _ => ?_) (fun _ => ?_)

theorem State.writeCfe_keeps {s0 s : State} (l : RegLoc) (v : Nat) (h : Keeps s0 s) : Keeps s0 (State.writeCfe s l v).1 := by
  unfold State.writeCfe
  with_reducible repeat' first
    | assumption | apply State.cfeStateCmd_keeps | apply State.gapRelease_keeps | apply State.cfeEnable_keeps
    | apply State.phaseNow_keeps | apply State.hvWrite_keeps | apply State.modCfe_keeps | apply State.balReq_keeps
    | apply State.wrReg_keeps | apply State.set1_keeps | refine Keeps.ofPair (by assumption) ?_
    | refine Keeps.ite (fun _ => ?_) (fun _ => ?_) | refine Keeps.ite1 (fun _ => ?_) (fun _ => ?_) | split | extract_lets
    | exact Keeps.field h | refine Keeps.field ?_ | intro _ | dsimp only

theorem State.cfeStep_keeps {s0 s : State} (d : Int) (h : Keeps s0 s) : Keeps s0 (State.cfeStep s d) := by
  unfold State.cfeStep
  with_reducible repeat' first
    | assumption | apply State.phaseNow_keeps | apply State.modCfe_keeps | exact Keeps.field h | refine Keeps.field ?_
    | intro _

theorem State.feDiscard_keeps {s0 s : State} (h : Keeps s0 s) : Keeps s0 (State.feDiscard s) := by
  unfold State.feDiscard
  with_reducible repeat' first
    | assumption | apply State.modFe_keeps | refine Keeps.ite (fun _ => ?_) (fun _ => ?_) | split | exact Keeps.field h
    | refine Keeps.field ?_ | intro _

theorem State.feSend_keeps {s0 s : State} (aux : Nat) (mod : List Nat) (h : Keeps s0 s) : Keeps s0 (State.feSend s aux mod) := by
  unfold State.feSend
  with_reducible repeat' first
    | assumption | exact Keeps.field h | refine Keeps.field ?_

theorem State.feLast_keeps {s0 s : State} (h : Keeps s0 s) : Keeps s0 (State.feLast s) := by
  unfold State.feLast
  with_reducible repeat' first
    | assumption | apply State.feSend_keeps | refine Keeps.ite (fun _ => ?_) (fun _ => ?_) | split | extract_lets
    | exact Keeps.field h | refine Keeps.field ?_
    | refine Keeps.upd h (by first | exact Nat.le_refl _ | exact Nat.le_add_right _ _) (by exact ⟨rfl, rfl⟩)
    | refine Keeps.upd ?_ (by first | exact Nat.le_refl _ | exact Nat.le_add_right _ _) (by exact ⟨rfl, rfl⟩) | intro _

theorem execCfeCommandFrame_keeps {s0 s : State} (f : CfeDown) (h : Keeps s0 s) : OutKeeps s0 (execCfeCommandFrame f s) := by
  unfold execCfeCommandFrame
  with_reducible repeat' first
    | assumption | apply OutKeeps.next | apply OutKeeps.done | apply State.feDiscard_keeps | apply State.feLast_keeps
    | apply State.modFe_keeps | refine Keeps.ite (fun _ => ?_) (fun _ => ?_) | split | extract_lets | exact Keeps.field h
    | refine Keeps.field ?_ | intro _ | refine OutKeeps.ite (fun _ => ?_) (fun _ => ?_)

theorem execCfeSyncFrame_keeps {s0 s : State} (f : CfeDown) (h : Keeps s0 s) : OutKeeps s0 (execCfeSyncFrame f s) := by
  unfold execCfeSyncFrame
  with_reducible repeat' first
    | assumption | apply OutKeeps.next | apply OutKeeps.done | apply State.feDiscard_keeps | apply State.modFe_keeps
    | refine Keeps.ite (fun _ => ?_) (fun _ => ?_) | split | exact Keeps.field h | refine Keeps.field ?_ | intro _
    | refine OutKeeps.ite (fun _ => ?_) (fun _ => ?_)

theorem execCfeUplinkSend_keeps {s0 s : State} (aux : BitVec 16) (mod : List (BitVec 64)) (h : Keeps s0 s) : OutKeeps s0 (execCfeUplinkSend aux mod s) := by
  unfold execCfeUplinkSend
  with_reducible repeat' first
    | assumption | apply OutKeeps.next | apply OutKeeps.done | apply State.feSend_keeps
    | refine Keeps.ite (fun _ => ?_) (fun _ => ?_) | split | refine OutKeeps.ite (fun _ => ?_) (fun _ => ?_)

theorem execCfeSilence_keeps {s0 s : State} (h : Keeps s0 s) : OutKeeps s0 (execCfeSilence s) := by
  unfold execCfeSilence
  with_reducible repeat' first
    | assumption | apply OutKeeps.next | apply OutKeeps.done | apply State.modFe_keeps
    | refine Keeps.ite (fun _ => ?_) (fun _ => ?_) | intro _ | refine OutKeeps.ite (fun _ => ?_) (fun _ => ?_)

theorem execStackRise_keeps {s0 s : State} (h : Keeps s0 s) : OutKeeps s0 (execStackRise s) := by
  unfold execStackRise
  with_reducible repeat' first
    | assumption | apply OutKeeps.next | apply OutKeeps.done | apply State.modFe_keeps
    | refine Keeps.ite (fun _ => ?_) (fun _ => ?_) | exact Keeps.field h | refine Keeps.field ?_ | intro _
    | refine OutKeeps.ite (fun _ => ?_) (fun _ => ?_)

theorem execStackFall_keeps {s0 s : State} (h : Keeps s0 s) : OutKeeps s0 (execStackFall s) := by
  unfold execStackFall
  with_reducible repeat' first
    | assumption | apply OutKeeps.next | apply OutKeeps.done | apply State.modFe_keeps | intro _

theorem execSnowdropAuto_keeps {s0 s : State} (h : Keeps s0 s) : OutKeeps s0 (execSnowdropAuto s) := by
  unfold execSnowdropAuto
  with_reducible repeat' first
    | assumption | apply OutKeeps.next | apply OutKeeps.done | apply State.feLast_keeps | apply State.modFe_keeps
    | refine Keeps.ite (fun _ => ?_) (fun _ => ?_) | exact Keeps.field h | refine Keeps.field ?_ | intro _
    | refine OutKeeps.ite (fun _ => ?_) (fun _ => ?_)

theorem execSnowdropCheck_keeps {s0 s : State} (cells : List Int) (codes : List Nat) (h : Keeps s0 s) : OutKeeps s0 (execSnowdropCheck cells codes s) := by
  unfold execSnowdropCheck
  with_reducible repeat' first
    | assumption | apply OutKeeps.next | apply OutKeeps.done | apply State.modFe_keeps
    | refine Keeps.ite (fun _ => ?_) (fun _ => ?_) | split | extract_lets | exact Keeps.field h | refine Keeps.field ?_
    | intro _ | refine OutKeeps.ite (fun _ => ?_) (fun _ => ?_)

theorem execShuntWake_keeps {s0 s : State} (h : Keeps s0 s) : OutKeeps s0 (execShuntWake s) := by
  unfold execShuntWake
  with_reducible repeat' first
    | assumption | apply OutKeeps.next | apply OutKeeps.done | apply State.modFe_keeps
    | refine Keeps.ite (fun _ => ?_) (fun _ => ?_) | split | intro _ | refine OutKeeps.ite (fun _ => ?_) (fun _ => ?_)

theorem execCellComparatorChange_keeps {s0 s : State} (ch : Fin 48) (uv on : Bool) (h : Keeps s0 s) : OutKeeps s0 (execCellComparatorChange ch uv on s) := by
  unfold execCellComparatorChange
  with_reducible repeat' first
    | assumption | apply OutKeeps.next | apply OutKeeps.done | apply State.modFe_keeps
    | refine Keeps.ite (fun _ => ?_) (fun _ => ?_) | exact Keeps.field h | refine Keeps.field ?_ | intro _
    | refine OutKeeps.ite (fun _ => ?_) (fun _ => ?_)

theorem execOtFlagChange_keeps {s0 s : State} (n : Fin 16) (on : Bool) (h : Keeps s0 s) : OutKeeps s0 (execOtFlagChange n on s) := by
  unfold execOtFlagChange
  with_reducible repeat' first
    | assumption | apply OutKeeps.next | apply OutKeeps.done | apply State.modFe_keeps
    | refine Keeps.ite (fun _ => ?_) (fun _ => ?_) | split | exact Keeps.field h | refine Keeps.field ?_ | intro _
    | refine OutKeeps.ite (fun _ => ?_) (fun _ => ?_)

theorem execSwitchOvercurrent_keeps {s0 s : State} (ch : Fin 48) (h : Keeps s0 s) : OutKeeps s0 (execSwitchOvercurrent ch s) := by
  unfold execSwitchOvercurrent
  with_reducible repeat' first
    | assumption | apply OutKeeps.next | apply OutKeeps.done | apply State.modFe_keeps
    | refine Keeps.ite (fun _ => ?_) (fun _ => ?_) | exact Keeps.field h | refine Keeps.field ?_ | intro _
    | refine OutKeeps.ite (fun _ => ?_) (fun _ => ?_)

theorem execDieHotChange_keeps {s0 s : State} (hot : Bool) (h : Keeps s0 s) : OutKeeps s0 (execDieHotChange hot s) := by
  unfold execDieHotChange
  with_reducible repeat' first
    | assumption | apply OutKeeps.next | apply OutKeeps.done | apply State.modFe_keeps
    | refine Keeps.ite (fun _ => ?_) (fun _ => ?_) | exact Keeps.field h | refine Keeps.field ?_ | intro _
    | refine OutKeeps.ite (fun _ => ?_) (fun _ => ?_)

end Sys2Proof.Machine
end

