-- ==== Sys2Proof/Laws/KLog.lean ====
section
/-!
SUPPORT. Laws/KLog.lean: what each operation of Machine/Log.lean keeps (Laws/Keeps.lean).
-/
namespace Sys2Proof.Machine

theorem State.erase_keeps {s0 s : State} (lo hi : Nat) (h : Keeps s0 s) : Keeps s0 (State.erase s lo hi) := by
  unfold State.erase
  with_reducible repeat' first
    | assumption | apply State.blank_keeps | refine Keeps.ite (fun _ => ?_) (fun _ => ?_) | extract_lets | exact Keeps.field h
    | refine Keeps.field ?_
    | refine Keeps.upd h (by first | exact Nat.le_refl _ | exact Nat.le_add_right _ _) (by exact ⟨rfl, rfl⟩)
    | refine Keeps.upd ?_ (by first | exact Nat.le_refl _ | exact Nat.le_add_right _ _) (by exact ⟨rfl, rfl⟩)

theorem State.logFlash_keeps {s0 s : State} (e : LogEntry) (h : Keeps s0 s) : Keeps s0 (State.logFlash s e) := by
  unfold State.logFlash
  with_reducible repeat' first
    | assumption | apply State.program_keeps | apply State.erase_keeps | refine Keeps.ite (fun _ => ?_) (fun _ => ?_)
    | extract_lets

theorem State.logScan_keeps {s0 s : State} (h : Keeps s0 s) : Keeps s0 (State.logScan s) := by
  unfold State.logScan
  with_reducible repeat' first
    | assumption | apply State.wr_keeps | refine Keeps.ofPair (by assumption) ?_ | refine Keeps.foldl ?_ (fun _ _ _ => ?_)
    | refine Keeps.ite (fun _ => ?_) (fun _ => ?_) | split | extract_lets | intro _

theorem execFaultLogMergeExpiry_keeps {s0 s : State} (h : Keeps s0 s) : OutKeeps s0 (execFaultLogMergeExpiry s) := by
  unfold execFaultLogMergeExpiry
  with_reducible repeat' first
    | assumption | apply OutKeeps.next | apply OutKeeps.done | refine Keeps.ite (fun _ => ?_) (fun _ => ?_)
    | exact Keeps.field h | refine Keeps.field ?_ | intro _ | refine OutKeeps.ite (fun _ => ?_) (fun _ => ?_)

theorem execFaultLogFlashWrite_keeps {s0 s : State} (h : Keeps s0 s) : OutKeeps s0 (execFaultLogFlashWrite s) := by
  unfold execFaultLogFlashWrite
  with_reducible repeat' first
    | assumption | apply OutKeeps.next | apply OutKeeps.done | apply State.logFlash_keeps | apply State.wr_keeps
    | refine Keeps.ofPair (by assumption) ?_ | refine Keeps.ite (fun _ => ?_) (fun _ => ?_) | split | extract_lets
    | exact Keeps.field h | refine Keeps.field ?_ | refine OutKeeps.ite (fun _ => ?_) (fun _ => ?_)

end Sys2Proof.Machine
end

