-- ==== Sys2Proof/Laws/KMirror.lean ====
section
/-!
SUPPORT. Laws/KMirror.lean: what each operation of Machine/Mirror.lean keeps (Laws/Keeps.lean).
-/
namespace Sys2Proof.Machine

theorem State.mirPush_keeps {s0 s : State} (f : MirFrame) (h : Keeps s0 s) : Keeps s0 (State.mirPush s f) := by
  unfold State.mirPush
  with_reducible repeat' first
    | assumption | exact Keeps.field h | refine Keeps.field ?_

theorem State.deltaWord_keeps {s0 s : State} (kind region offset : Nat) (w : WireWord) (h : Keeps s0 s) : Keeps s0 (State.deltaWord s kind region offset w) := by
  unfold State.deltaWord
  with_reducible repeat' first
    | assumption | apply State.mirPush_keeps | apply State.count_keeps | apply State.set1_keeps
    | refine Keeps.ite (fun _ => ?_) (fun _ => ?_) | extract_lets | exact Keeps.field h | refine Keeps.field ?_

theorem State.capture_keeps {s0 s : State} (w : Nat) (h : Keeps s0 s) : Keeps s0 (State.capture s w) := by
  unfold State.capture
  with_reducible repeat' first
    | assumption | apply State.deltaWord_keeps | apply State.satInc_keeps | apply State.count_keeps
    | refine Keeps.ofPair (by assumption) ?_ | refine Keeps.ite (fun _ => ?_) (fun _ => ?_) | split | extract_lets

theorem State.putWord_keeps {s0 s : State} (w : Nat) (data : Bytes) (h : Keeps s0 s) : Keeps s0 (State.putWord s w data) := by
  unfold State.putWord
  with_reducible repeat' first
    | assumption | apply State.capture_keeps | apply State.wrWord_keeps | apply State.count_keeps
    | refine Keeps.ite (fun _ => ?_) (fun _ => ?_)

theorem State.putWords_keeps {s0 : State} (n : Nat) {s : State} (w : Nat) (d : Bytes) (h : Keeps s0 s) : Keeps s0 (State.putWords n s w d) := by
  induction n generalizing s w d with
  | zero => unfold State.putWords; exact h
  | succ n ih =>
    unfold State.putWords
    with_reducible repeat' first
      | assumption | apply ih | apply State.putWord_keeps | split | extract_lets | dsimp only

theorem State.getWord_keeps {s0 s : State} (w : Nat) (h : Keeps s0 s) : Keeps s0 (State.getWord s w).1 := by
  unfold State.getWord
  with_reducible repeat' first
    | assumption | apply State.readWord_keeps | apply State.count_keeps | refine Keeps.ite (fun _ => ?_) (fun _ => ?_)
    | refine Keeps.ite1 (fun _ => ?_) (fun _ => ?_) | extract_lets | dsimp only

theorem State.getWords_keeps {s0 : State} (n : Nat) {s : State} (w : Nat) (h : Keeps s0 s) : Keeps s0 (State.getWords n s w).1 := by
  induction n generalizing s w with
  | zero => unfold State.getWords; exact h
  | succ n ih =>
    unfold State.getWords
    with_reducible repeat' first
      | assumption | apply ih | apply State.getWord_keeps | refine Keeps.ofPair (by assumption) ?_ | split | extract_lets
      | dsimp only

end Sys2Proof.Machine
end

