-- ==== Sys2Proof/Laws/KToken.lean ====
section
/-!
SUPPORT. Laws/KToken.lean: what each operation of Machine/Token.lean keeps (Laws/Keeps.lean).
-/
namespace Sys2Proof.Machine

theorem State.updTake_keeps {s0 s : State} (h : Keeps s0 s) : Keeps s0 (State.updTake s) := by
  unfold State.updTake
  with_reducible repeat' first
    | assumption | apply State.wrB_keeps

theorem State.sendBlock_keeps {s0 s : State} (lane : Lane) (take : Bool) (h : Keeps s0 s) : Keeps s0 (State.sendBlock s lane take) := by
  unfold State.sendBlock
  with_reducible repeat' first
    | assumption | refine Keeps.ofPair (by assumption) ?_ | split | exact Keeps.field h | refine Keeps.field ?_

theorem State.sendBlocks_keeps {s0 s : State} (h : Keeps s0 s) : Keeps s0 (State.sendBlocks s) := by
  unfold State.sendBlocks
  with_reducible repeat' first
    | assumption | apply State.sendBlock_keeps

theorem State.endCidFrames_keeps {s0 s : State} (h : Keeps s0 s) : Keeps s0 (State.endCidFrames s) := by
  unfold State.endCidFrames
  with_reducible repeat' first
    | assumption | refine Keeps.ite (fun _ => ?_) (fun _ => ?_) | exact Keeps.field h | refine Keeps.field ?_ | intro _

theorem State.release_keeps {s0 s : State} (cause check : Nat) (h : Keeps s0 s) : Keeps s0 (State.release s cause check) := by
  unfold State.release
  with_reducible repeat' first
    | assumption | apply State.endCidFrames_keeps | apply State.canRelease_keeps | apply State.sendBlocks_keeps
    | apply State.updPermit_keeps | apply State.wrState_keeps | apply State.wrAll_keeps | apply State.wrB_keeps
    | refine Keeps.ite (fun _ => ?_) (fun _ => ?_) | extract_lets | exact Keeps.field h | refine Keeps.field ?_
    | refine Keeps.upd h (by first | exact Nat.le_refl _ | exact Nat.le_add_right _ _) (by exact ⟨rfl, rfl⟩)
    | refine Keeps.upd ?_ (by first | exact Nat.le_refl _ | exact Nat.le_add_right _ _) (by exact ⟨rfl, rfl⟩)

theorem State.checkFail_keeps {s0 s : State} (c : Nat) (h : Keeps s0 s) : Keeps s0 (State.checkFail s c) := by
  unfold State.checkFail
  with_reducible repeat' first
    | assumption | apply State.release_keeps | refine Keeps.ite (fun _ => ?_) (fun _ => ?_)

theorem State.keepRegs_sorted (s : State) (fs : List Fld) : aSorted (s.keepRegs fs) = true := by
  have key : ∀ (fs : List Fld) (l : List (Nat × Nat)), aSorted l = true →
      aSorted (fs.foldl (fun l f => aSet f.rst f.key (s.rd f) l) l) = true := by
    intro fs
    induction fs with
    | nil => exact fun _ h => h
    | cons f fs ih => exact fun l h => ih _ (aSet_sorted _ _ _ _ h)
  exact key fs [] rfl

theorem State.enterReset_keeps {s0 s : State} (src : Nat) (ptuRuns thermal : Bool) (h : Keeps s0 s) :
    Keeps s0 (State.enterReset s src ptuRuns thermal) := by
  refine ⟨fun e => ?_, fun _ => State.keepRegs_sorted s _, h.pending, h.ticks, h.free, fun _ => .inr rfl, fun _ => .inr rfl⟩
  have := h.mem e
  simp only [Memory.wf, Bool.and_eq_true, State.enterReset] at this ⊢
  exact ⟨⟨⟨filter_sorted _ _ this.1.1.1, filter_all _ _ _ this.1.1.2⟩, filter_sorted _ _ this.1.2⟩, filter_all _ _ _ this.2⟩


theorem State.released_keeps {s0 s : State} (h : Keeps s0 s) : Keeps s0 (State.released s) := by
  unfold State.released
  with_reducible repeat' first
    | assumption | exact Keeps.field h | refine Keeps.field ?_
    | refine Keeps.upd h (by first | exact Nat.le_refl _ | exact Nat.le_add_right _ _) (by exact ⟨rfl, rfl⟩)
    | refine Keeps.upd ?_ (by first | exact Nat.le_refl _ | exact Nat.le_add_right _ _) (by exact ⟨rfl, rfl⟩)

end Sys2Proof.Machine
end

