-- ==== Sys2Proof/Laws/KFabric.lean ====
section
/-!
SUPPORT. Laws/KFabric.lean: what each operation of Machine/Fabric.lean keeps (Laws/Keeps.lean).
-/
namespace Sys2Proof.Machine

theorem State.modZfb_keeps {s0 s : State} (f : ZfbState → ZfbState) (h : Keeps s0 s) : Keeps s0 (State.modZfb s f) := by
  unfold State.modZfb
  with_reducible repeat' first
    | assumption | exact Keeps.field h | refine Keeps.field ?_

theorem State.modZport_keeps {s0 s : State} (p : Nat) (f : ZPort → ZPort) (h : Keeps s0 s) : Keeps s0 (State.modZport s p f) := by
  unfold State.modZport
  with_reducible repeat' first
    | assumption | exact Keeps.field h | refine Keeps.field ?_

theorem State.zDisc_keeps {s0 s : State} (p : Nat) (h : Keeps s0 s) : Keeps s0 (State.zDisc s p) := by
  unfold State.zDisc
  with_reducible repeat' first
    | assumption | apply State.count_keeps

theorem State.enqueue_keeps {s0 s : State} (p : Nat) (f : ZFrame) (h : Keeps s0 s) : Keeps s0 (State.enqueue s p f) := by
  unfold State.enqueue
  with_reducible repeat' first
    | assumption | apply State.modZport_keeps | apply State.satInc_keeps | apply State.zDisc_keeps | apply State.set1_keeps
    | refine Keeps.foldl ?_ (fun _ _ _ => ?_) | refine Keeps.ite (fun _ => ?_) (fun _ => ?_) | extract_lets
    | exact Keeps.field h | refine Keeps.field ?_ | intro _

theorem State.noRoute_keeps {s0 s : State} (p : Nat) (h : Keeps s0 s) : Keeps s0 (State.noRoute s p) := by
  unfold State.noRoute
  with_reducible repeat' first
    | assumption | apply State.zDisc_keeps | apply State.set1_keeps

theorem State.wrapOut_keeps {s0 s : State} (p alt : Nat) (f : ZFrame) (h : Keeps s0 s) : Keeps s0 (State.wrapOut s p alt f) := by
  unfold State.wrapOut
  with_reducible repeat' first
    | assumption | apply State.enqueue_keeps | apply State.noRoute_keeps | apply State.set1_keeps | apply State.wrB_keeps
    | refine Keeps.ite (fun _ => ?_) (fun _ => ?_) | exact Keeps.field h | refine Keeps.field ?_

theorem State.egress_keeps {s0 s : State} (p : Nat) (f : ZFrame) (h : Keeps s0 s) : Keeps s0 (State.egress s p f) := by
  unfold State.egress
  with_reducible repeat' first
    | assumption | apply State.enqueue_keeps | apply State.noRoute_keeps | apply State.wrapOut_keeps
    | refine Keeps.ite (fun _ => ?_) (fun _ => ?_)

theorem State.forwardId_keeps {s0 s : State} (f : ZFrame) (h : Keeps s0 s) : Keeps s0 (State.forwardId s f) := by
  unfold State.forwardId
  with_reducible repeat' first
    | assumption | apply State.noRoute_keeps | apply State.wrapOut_keeps | apply State.satInc_keeps | apply State.egress_keeps
    | refine Keeps.ofPair (by assumption) ?_ | refine Keeps.ite (fun _ => ?_) (fun _ => ?_) | split | extract_lets

theorem State.forwardAll_keeps {s0 s : State} (arr : Option Nat) (f : ZFrame) (h : Keeps s0 s) : Keeps s0 (State.forwardAll s arr f) := by
  unfold State.forwardAll
  with_reducible repeat' first
    | assumption | apply State.egress_keeps | refine Keeps.foldl ?_ (fun _ _ _ => ?_)
    | refine Keeps.ite (fun _ => ?_) (fun _ => ?_) | intro _

theorem State.hdrDrop_keeps {s0 s : State} (p : Nat) (f : Fld) (h : Keeps s0 s) : Keeps s0 (State.hdrDrop s p f) := by
  unfold State.hdrDrop
  with_reducible repeat' first
    | assumption | apply State.satInc_keeps | apply State.zDisc_keeps | apply State.set1_keeps

theorem State.rxRing_keeps {s0 s : State} (p : Nat) (f : ZFrame) (h : Keeps s0 s) : Keeps s0 (State.rxRing s p f) := by
  unfold State.rxRing
  with_reducible repeat' first
    | assumption | apply State.putWords_keeps | apply State.putWord_keeps | apply State.satInc_keeps | apply State.zDisc_keeps
    | apply State.wr_keeps | refine Keeps.ite (fun _ => ?_) (fun _ => ?_) | extract_lets | intro _

theorem State.logReversed_keeps {s0 s : State} (f : ZFrame) (h : Keeps s0 s) : Keeps s0 (State.logReversed s f) := by
  unfold State.logReversed
  with_reducible repeat' first
    | assumption | apply State.logEvent_keeps | extract_lets

theorem State.deliver1_keeps {s0 s : State} (p : Nat) (f : ZFrame) (h : Keeps s0 s) : Keeps s0 (State.deliver1 s p f) := by
  unfold State.deliver1
  with_reducible repeat' first
    | assumption | apply State.logReversed_keeps | apply State.evtMark_keeps | apply State.hdrDrop_keeps
    | apply State.satInc_keeps | apply State.modZfb_keeps | apply State.rxRing_keeps | apply State.zDisc_keeps
    | refine Keeps.ite (fun _ => ?_) (fun _ => ?_) | split | extract_lets | exact Keeps.field h | refine Keeps.field ?_
    | intro _

theorem State.deliverOk_keeps {s0 s : State} (p : Nat) (f : ZFrame) (h : Keeps s0 s) : Keeps s0 (State.deliverOk s p f) := by
  unfold State.deliverOk
  with_reducible repeat' first
    | assumption | apply State.deliver1_keeps | refine Keeps.ite (fun _ => ?_) (fun _ => ?_)

theorem State.toHalf_keeps {s0 s : State} (p : Nat) (f : ZFrame) (h : Keeps s0 s) : Keeps s0 (State.toHalf s p f) := by
  unfold State.toHalf
  with_reducible repeat' first
    | assumption | exact Keeps.field h | refine Keeps.field ?_

theorem State.deliverHalf_keeps {s0 s : State} (p : Nat) (f : ZFrame) (h : Keeps s0 s) : Keeps s0 (State.deliverHalf s p f) := by
  unfold State.deliverHalf
  with_reducible repeat' first
    | assumption | apply State.deliverOk_keeps | apply State.toHalf_keeps | refine Keeps.ite (fun _ => ?_) (fun _ => ?_)
    | split

theorem State.groupOn_keeps {s0 s : State} (p : Nat) (f : ZFrame) (h : Keeps s0 s) : Keeps s0 (State.groupOn s p f) := by
  unfold State.groupOn
  with_reducible repeat' first
    | assumption | apply State.egress_keeps | refine Keeps.foldl ?_ (fun _ _ _ => ?_)
    | refine Keeps.ite (fun _ => ?_) (fun _ => ?_) | split | extract_lets | intro _

theorem State.seenCast_keeps {s0 s : State} (f : ZFrame) (h : Keeps s0 s) : Keeps s0 (State.seenCast s f) := by
  unfold State.seenCast
  with_reducible repeat' first
    | assumption | apply State.modZfb_keeps | exact Keeps.field h | refine Keeps.field ?_ | intro _

theorem State.sendFrame_keeps {s0 s : State} (asCid : Bool) (f : ZFrame) (h : Keeps s0 s) : Keeps s0 (State.sendFrame s asCid f) := by
  unfold State.sendFrame
  with_reducible repeat' first
    | assumption | apply State.deliverHalf_keeps | apply State.forwardAll_keeps | apply State.forwardId_keeps
    | apply State.seenCast_keeps | apply State.groupOn_keeps | apply State.modZfb_keeps
    | refine Keeps.ite (fun _ => ?_) (fun _ => ?_) | extract_lets | exact Keeps.field h | refine Keeps.field ?_ | intro _

theorem State.sendPort_keeps {s0 s : State} (p : Nat) (asCid : Bool) (f : ZFrame) (h : Keeps s0 s) : Keeps s0 (State.sendPort s p asCid f) := by
  unfold State.sendPort
  with_reducible repeat' first
    | assumption | apply State.egress_keeps | extract_lets | exact Keeps.field h | refine Keeps.field ?_ | intro _

theorem State.sendEvent_keeps {s0 s : State} (type port : Nat) (h : Keeps s0 s) : Keeps s0 (State.sendEvent s type port) := by
  unfold State.sendEvent
  with_reducible repeat' first
    | assumption | apply State.sendFrame_keeps | refine Keeps.ite (fun _ => ?_) (fun _ => ?_) | extract_lets

end Sys2Proof.Machine
end

