-- ==== Sys2Proof/Laws/KPtu.lean ====
section
/-!
SUPPORT. Laws/KPtu.lean: what each operation of Machine/Ptu.lean keeps (Laws/Keeps.lean).
-/
namespace Sys2Proof.Machine

theorem State.gnbPps_keeps {s0 s : State} (h : Keeps s0 s) : Keeps s0 (State.gnbPps s) := by
  unfold State.gnbPps
  with_reducible repeat' first
    | assumption | apply State.wrAll_keeps | refine Keeps.ite (fun _ => ?_) (fun _ => ?_)

theorem execNs32Wrap_keeps {s0 s : State} (h : Keeps s0 s) : OutKeeps s0 (execNs32Wrap s) := by
  unfold execNs32Wrap
  with_reducible repeat' first
    | assumption | apply OutKeeps.next | apply OutKeeps.done | apply State.wrapInc_keeps | apply State.gridRun_keeps
    | apply State.wr_keeps

theorem State.stepRecord_keeps {s0 s : State} (delta : Int) (t : Nat) (h : Keeps s0 s) : Keeps s0 (State.stepRecord s delta t) := by
  unfold State.stepRecord
  with_reducible repeat' first
    | assumption | apply State.errLog_keeps | apply State.wrS_keeps | apply State.wr_keeps | extract_lets

theorem State.gnbStep_keeps {s0 s : State} (d : Int) (h : Keeps s0 s) : Keeps s0 (State.gnbStep s d) := by
  unfold State.gnbStep
  with_reducible repeat' first
    | assumption | apply State.wr_keeps | refine Keeps.ite (fun _ => ?_) (fun _ => ?_)
    | refine Keeps.ite1 (fun _ => ?_) (fun _ => ?_) | extract_lets | exact Keeps.field h | refine Keeps.field ?_ | intro _

theorem State.fusTimeStep_keeps {s0 s : State} (d : Int) (h : Keeps s0 s) : Keeps s0 (State.fusTimeStep s d) := by
  unfold State.fusTimeStep
  with_reducible repeat' first
    | assumption | extract_lets | exact Keeps.field h | refine Keeps.field ?_ | intro _

theorem State.timeStep_keeps {s0 s : State} (t0 : Nat) (h : Keeps s0 s) : Keeps s0 (State.timeStep s t0) := by
  unfold State.timeStep
  with_reducible repeat' first
    | assumption | apply State.fusTimeStep_keeps | apply State.schStep_keeps | apply State.cfeStep_keeps
    | apply State.gnbStep_keeps | extract_lets | exact Keeps.field h | refine Keeps.field ?_

theorem State.loadTime_keeps {s0 s : State} (t : Int) (h : Keeps s0 s) : Keeps s0 (State.loadTime s t) := by
  unfold State.loadTime
  with_reducible repeat' first
    | assumption | apply State.timeStep_keeps | apply State.setNow_keeps | extract_lets | exact Keeps.field h
    | refine Keeps.field ?_ | intro _

theorem State.setRate_keeps {s0 s : State} (f : Rat) (h : Keeps s0 s) : Keeps s0 (State.setRate s f) := by
  unfold State.setRate
  with_reducible repeat' first
    | assumption | apply State.wr_keeps | extract_lets | exact Keeps.field h | refine Keeps.field ?_

theorem State.servo_keeps {s0 s : State} (r : Rat) (h : Keeps s0 s) : Keeps s0 (State.servo s r) := by
  unfold State.servo
  with_reducible repeat' first
    | assumption | apply State.setRate_keeps | extract_lets | exact Keeps.field h | refine Keeps.field ?_

theorem State.slew_keeps {s0 s : State} (r : Rat) (h : Keeps s0 s) : Keeps s0 (State.slew s r) := by
  unfold State.slew
  with_reducible repeat' first
    | assumption | apply State.setRate_keeps | extract_lets | exact Keeps.field h | refine Keeps.field ?_

theorem State.ptuTo_keeps {s0 s : State} (st : Nat) (h : Keeps s0 s) : Keeps s0 (State.ptuTo s st) := by
  unfold State.ptuTo
  with_reducible repeat' first
    | assumption | apply State.wr_keeps

theorem State.stepNotice_keeps {s0 s : State} (p : PtuStep) (h : Keeps s0 s) : Keeps s0 (State.stepNotice s p) := by
  unfold State.stepNotice
  with_reducible repeat' first
    | assumption | apply State.sendFrame_keeps | refine Keeps.ite (fun _ => ?_) (fun _ => ?_) | extract_lets

theorem State.toStepPend_keeps {s0 s : State} (p : PtuStep) (h : Keeps s0 s) : Keeps s0 (State.toStepPend s p) := by
  unfold State.toStepPend
  with_reducible repeat' first
    | assumption | apply State.ptuTo_keeps | extract_lets | exact Keeps.field h | refine Keeps.field ?_

theorem State.schedStep_keeps {s0 s : State} (e : Rat) (h : Keeps s0 s) : Keeps s0 (State.schedStep s e) := by
  unfold State.schedStep
  with_reducible repeat' first
    | assumption | apply State.stepNotice_keeps | apply State.toStepPend_keeps | extract_lets

theorem State.recordOff_keeps {s0 s : State} (e : Rat) (t : Nat) (h : Keeps s0 s) : Keeps s0 (State.recordOff s e t) := by
  unfold State.recordOff
  with_reducible repeat' first
    | assumption | apply State.wrS_keeps | apply State.wr_keeps

theorem State.leaveFree_keeps {s0 s : State} (base load : Int) (h : Keeps s0 s) : Keeps s0 (State.leaveFree s base load) := by
  unfold State.leaveFree
  with_reducible repeat' first
    | assumption | apply State.stepRecord_keeps | apply State.loadTime_keeps | apply State.ptuTo_keeps | apply State.wr_keeps
    | refine Keeps.ite (fun _ => ?_) (fun _ => ?_) | split | extract_lets | exact Keeps.field h | refine Keeps.field ?_

theorem State.offSeen_keeps {s0 s : State} (h : Keeps s0 s) : Keeps s0 (State.offSeen s) := by
  unfold State.offSeen
  with_reducible repeat' first
    | assumption | exact Keeps.field h | refine Keeps.field ?_

theorem State.slewOffset_keeps {s0 s : State} (e r : Rat) (h : Keeps s0 s) : Keeps s0 (State.slewOffset s e r) := by
  unfold State.slewOffset
  with_reducible repeat' first
    | assumption | apply State.ptuTo_keeps | apply State.slew_keeps | refine Keeps.ite (fun _ => ?_) (fun _ => ?_)
    | extract_lets | exact Keeps.field h | refine Keeps.field ?_

theorem State.offset_keeps {s0 s : State} (e : Rat) (t : Nat) (base load : Int) (h : Keeps s0 s) : Keeps s0 (State.offset s e t base load) := by
  unfold State.offset
  with_reducible repeat' first
    | assumption | apply State.slewOffset_keeps | apply State.schedStep_keeps | apply State.recordOff_keeps
    | apply State.leaveFree_keeps | apply State.offSeen_keeps | apply State.errLog_keeps | apply State.servo_keeps
    | apply State.ptuTo_keeps | apply State.slew_keeps | refine Keeps.ofPair (by assumption) ?_
    | refine Keeps.ite (fun _ => ?_) (fun _ => ?_) | split | extract_lets | exact Keeps.field h | refine Keeps.field ?_
    | intro _

theorem execHoldoverEntry_keeps {s0 s : State} (h : Keeps s0 s) : OutKeeps s0 (execHoldoverEntry s) := by
  unfold execHoldoverEntry
  with_reducible repeat' first
    | assumption | apply OutKeeps.next | apply OutKeeps.done | apply State.setRate_keeps | apply State.errLog_keeps
    | apply State.ptuTo_keeps | apply State.wr_keeps | refine Keeps.ite (fun _ => ?_) (fun _ => ?_) | split | extract_lets
    | exact Keeps.field h | refine Keeps.field ?_ | refine OutKeeps.ite (fun _ => ?_) (fun _ => ?_)

theorem execStepNotice_keeps {s0 s : State} (delta : BitVec 32) (tb : BitVec 64) (h : Keeps s0 s) : OutKeeps s0 (execStepNotice delta tb s) := by
  unfold execStepNotice
  with_reducible repeat' first
    | assumption | apply OutKeeps.next | apply OutKeeps.done | apply State.toStepPend_keeps | apply whenLive_keeps
    | refine Keeps.ite (fun _ => ?_) (fun _ => ?_) | split | intro _ | refine OutKeeps.ite (fun _ => ?_) (fun _ => ?_)

theorem State.ppsMark_keeps {s0 s : State} (h : Keeps s0 s) : Keeps s0 (State.ppsMark s) := by
  unfold State.ppsMark
  with_reducible repeat' first
    | assumption | refine Keeps.ite (fun _ => ?_) (fun _ => ?_) | exact Keeps.field h | refine Keeps.field ?_

theorem State.applyStep_keeps {s0 s : State} (p : PtuStep) (h : Keeps s0 s) : Keeps s0 (State.applyStep s p) := by
  unfold State.applyStep
  with_reducible repeat' first
    | assumption | apply State.stepRecord_keeps | apply State.loadTime_keeps | apply State.ppsMark_keeps
    | apply State.ptuTo_keeps | refine Keeps.ite (fun _ => ?_) (fun _ => ?_) | extract_lets | exact Keeps.field h
    | refine Keeps.field ?_

theorem execStepApply_keeps {s0 s : State} (h : Keeps s0 s) : OutKeeps s0 (execStepApply s) := by
  unfold execStepApply
  with_reducible repeat' first
    | assumption | apply OutKeeps.next | apply OutKeeps.done | apply State.applyStep_keeps
    | refine Keeps.ofPair (by assumption) ?_ | refine Keeps.ite (fun _ => ?_) (fun _ => ?_) | split
    | refine OutKeeps.ite (fun _ => ?_) (fun _ => ?_)

theorem execRefclkLoss_keeps {s0 s : State} (h : Keeps s0 s) : OutKeeps s0 (execRefclkLoss s) := by
  unfold execRefclkLoss
  with_reducible repeat' first
    | assumption | apply OutKeeps.next | apply OutKeeps.done | apply State.canClkLoss_keeps | apply State.checkFail_keeps
    | apply State.errLog_keeps | apply State.ptuTo_keeps | apply State.wrB_keeps
    | refine Keeps.ite (fun _ => ?_) (fun _ => ?_) | extract_lets | exact Keeps.field h | refine Keeps.field ?_
    | refine OutKeeps.ite (fun _ => ?_) (fun _ => ?_)

theorem State.refclkBack_keeps {s0 s : State} (h : Keeps s0 s) : Keeps s0 (State.refclkBack s) := by
  unfold State.refclkBack
  with_reducible repeat' first
    | assumption | apply State.canClkBack_keeps | apply State.wrB_keeps | extract_lets | exact Keeps.field h
    | refine Keeps.field ?_

theorem State.timeSend_keeps {s0 s : State} (p aux : Nat) (words : List WireWord) (h : Keeps s0 s) : Keeps s0 (State.timeSend s p aux words) := by
  unfold State.timeSend
  with_reducible repeat' first
    | assumption | apply State.sendPort_keeps | refine Keeps.ite (fun _ => ?_) (fun _ => ?_)

theorem State.timeLaneSend_keeps {s0 s : State} (lane : Lane) (words : List WireWord) (h : Keeps s0 s) : Keeps s0 (State.timeLaneSend s lane words) := by
  unfold State.timeLaneSend
  with_reducible repeat' first
    | assumption | apply State.mirPush_keeps | refine Keeps.ofPair (by assumption) ?_ | split | exact Keeps.field h
    | refine Keeps.field ?_

theorem execSyncExchangeStart_keeps {s0 s : State} (t1 : BitVec 34) (h : Keeps s0 s) : OutKeeps s0 (execSyncExchangeStart t1 s) := by
  unfold execSyncExchangeStart
  with_reducible repeat' first
    | assumption | apply OutKeeps.next | apply OutKeeps.done | apply State.timeLaneSend_keeps | apply State.timeSend_keeps
    | apply whenLive_keeps | refine Keeps.ite (fun _ => ?_) (fun _ => ?_) | extract_lets | exact Keeps.field h
    | refine Keeps.field ?_ | intro _ | refine OutKeeps.ite (fun _ => ?_) (fun _ => ?_)

theorem execDelayReq_keeps {s0 s : State} (port : Fin 6) (t2 t3 : BitVec 34) (h : Keeps s0 s) : OutKeeps s0 (execDelayReq port t2 t3 s) := by
  unfold execDelayReq
  with_reducible repeat' first
    | assumption | apply OutKeeps.next | apply OutKeeps.done | apply State.timeLaneSend_keeps | apply State.timeSend_keeps
    | apply whenLive_keeps | refine Keeps.ite (fun _ => ?_) (fun _ => ?_) | extract_lets | intro _
    | refine OutKeeps.ite (fun _ => ?_) (fun _ => ?_)

theorem State.exchangeMiss_keeps {s0 s : State} (h : Keeps s0 s) : Keeps s0 (State.exchangeMiss s) := by
  unfold State.exchangeMiss
  with_reducible repeat' first
    | assumption | apply State.wrB_keeps | exact Keeps.field h | refine Keeps.field ?_

theorem execExchangeMissing_keeps {s0 s : State} (h : Keeps s0 s) : OutKeeps s0 (execExchangeMissing s) := by
  unfold execExchangeMissing
  with_reducible repeat' first
    | assumption | apply OutKeeps.next | apply OutKeeps.done | apply State.exchangeMiss_keeps | apply whenLive_keeps | intro _

theorem State.exchanged_keeps {s0 s : State} (port : Fin 6) (d2 : Int) (e : Rat) (t : Nat) (loc : Int) (h : Keeps s0 s) : Keeps s0 (State.exchanged s port d2 e t loc) := by
  unfold State.exchanged
  with_reducible repeat' first
    | assumption | apply State.phaseNow_keeps | apply State.offset_keeps | apply State.set1_keeps | apply State.wrB_keeps
    | apply State.wr_keeps | refine Keeps.foldlP ?_ (fun _ _ _ => ?_) | refine Keeps.foldl ?_ (fun _ _ _ => ?_)
    | refine Keeps.ite (fun _ => ?_) (fun _ => ?_) | refine Keeps.ite1 (fun _ => ?_) (fun _ => ?_) | extract_lets
    | exact Keeps.field h | refine Keeps.field ?_ | intro _

theorem execDelayResp_keeps {s0 s : State} (port : Fin 6) (t2 t3 t4 : BitVec 34) (epoch : BitVec 32) (pstate : Fin 5) (valid : Bool) (depth : Nat) (h : Keeps s0 s) : OutKeeps s0 (execDelayResp port t2 t3 t4 epoch pstate valid depth s) := by
  unfold execDelayResp
  with_reducible repeat' first
    | assumption | apply OutKeeps.next | apply OutKeeps.done | apply State.exchangeMiss_keeps | apply State.exchanged_keeps
    | apply State.wr_keeps | apply whenLive_keeps | refine Keeps.ofPair (by assumption) ?_
    | refine Keeps.ite (fun _ => ?_) (fun _ => ?_) | split | extract_lets | intro _
    | refine OutKeeps.ite (fun _ => ?_) (fun _ => ?_)

theorem State.hostOffset_keeps {s0 s : State} (off t : Nat) (h : Keeps s0 s) : Keeps s0 (State.hostOffset s off t).1 := by
  unfold State.hostOffset
  with_reducible repeat' first
    | assumption | apply State.offset_keeps | apply State.set1_keeps | refine Keeps.ite (fun _ => ?_) (fun _ => ?_)
    | refine Keeps.ite1 (fun _ => ?_) (fun _ => ?_) | extract_lets | dsimp only

theorem execPtuOffsetIn_keeps {s0 s : State} (off t : BitVec 32) (h : Keeps s0 s) : OutKeeps s0 (execPtuOffsetIn off t s) := by
  unfold execPtuOffsetIn
  with_reducible repeat' first
    | assumption | apply OutKeeps.next | apply OutKeeps.done | apply State.hostOffset_keeps | apply whenLive_keeps | intro _

theorem execPpsInEdge_keeps {s0 s : State} (falling : Bool) (t : BitVec 32) (h : Keeps s0 s) : OutKeeps s0 (execPpsInEdge falling t s) := by
  unfold execPpsInEdge
  with_reducible repeat' first
    | assumption | apply OutKeeps.next | apply OutKeeps.done | apply State.wrapInc_keeps | apply State.offset_keeps
    | apply State.wr_keeps | apply whenLive_keeps | refine Keeps.ite (fun _ => ?_) (fun _ => ?_) | extract_lets | intro _
    | refine OutKeeps.ite (fun _ => ?_) (fun _ => ?_)

theorem execSecondBoundary_keeps {s0 s : State} (h : Keeps s0 s) : OutKeeps s0 (execSecondBoundary s) := by
  unfold execSecondBoundary
  with_reducible repeat' first
    | assumption | apply OutKeeps.next | apply OutKeeps.done | apply State.ppsMark_keeps | apply State.satInc_keeps
    | refine Keeps.ite (fun _ => ?_) (fun _ => ?_) | extract_lets | refine OutKeeps.ite (fun _ => ?_) (fun _ => ?_)

theorem State.rebase_keeps {s0 s : State} (h : Keeps s0 s) : Keeps s0 (State.rebase s).1 := by
  unfold State.rebase
  with_reducible repeat' first
    | assumption | apply State.set1_keeps | apply State.wr_keeps | refine Keeps.ite (fun _ => ?_) (fun _ => ?_)
    | refine Keeps.ite1 (fun _ => ?_) (fun _ => ?_) | split | dsimp only

theorem execRebase_keeps {s0 s : State} (h : Keeps s0 s) : OutKeeps s0 (execRebase s) := by
  unfold execRebase
  with_reducible repeat' first
    | assumption | apply OutKeeps.next | apply OutKeeps.done | apply State.rebase_keeps | apply whenLive_keeps | intro _

theorem State.tsqShow_keeps {s0 s : State} (p : Nat) (h : Keeps s0 s) : Keeps s0 (State.tsqShow s p) := by
  unfold State.tsqShow
  with_reducible repeat' first
    | assumption | apply State.wrAll_keeps | extract_lets

theorem State.tsqPush_keeps {s0 s : State} (p t id : Nat) (h : Keeps s0 s) : Keeps s0 (State.tsqPush s p t id) := by
  unfold State.tsqPush
  dsimp only
  exact Keeps.ite (fun _ => State.tsqShow_keeps p (Keeps.upd h (Nat.le_refl _) (by exact ⟨rfl, rfl⟩))) (fun _ => State.wrBit_keeps _ _ _ h)

theorem State.tsqPop_keeps {s0 s : State} (mask : Nat) (h : Keeps s0 s) : Keeps s0 (State.tsqPop s mask) := by
  unfold State.tsqPop
  with_reducible repeat' first
    | assumption | apply State.tsqShow_keeps | refine Keeps.foldl ?_ (fun _ _ _ => ?_)
    | refine Keeps.ite (fun _ => ?_) (fun _ => ?_) | exact Keeps.field h | refine Keeps.field ?_ | intro _

theorem execTsqPop_keeps {s0 s : State} (mask : BitVec 6) (h : Keeps s0 s) : OutKeeps s0 (execTsqPop mask s) := by
  unfold execTsqPop
  with_reducible repeat' first
    | assumption | apply OutKeeps.next | apply OutKeeps.done | apply State.tsqPop_keeps | apply whenLive_keeps | intro _

theorem State.srcTaken_keeps {s0 s : State} (old : Nat) (h : Keeps s0 s) : Keeps s0 (State.srcTaken s old) := by
  unfold State.srcTaken
  with_reducible repeat' first
    | assumption | apply State.wr_keeps | refine Keeps.ite (fun _ => ?_) (fun _ => ?_) | extract_lets | exact Keeps.field h
    | refine Keeps.field ?_

theorem State.writePtu_keeps {s0 s : State} (l : RegLoc) (v : Nat) (h : Keeps s0 s) : Keeps s0 (State.writePtu s l v).1 := by
  unfold State.writePtu
  with_reducible repeat' first
    | assumption | apply State.hostOffset_keeps | apply State.phaseNow_keeps | apply State.srcTaken_keeps
    | apply State.rebase_keeps | apply State.tsqPop_keeps | apply State.wrReg_keeps | apply State.set1_keeps
    | refine Keeps.ite (fun _ => ?_) (fun _ => ?_) | refine Keeps.ite1 (fun _ => ?_) (fun _ => ?_) | extract_lets
    | exact Keeps.field h | refine Keeps.field ?_ | dsimp only

end Sys2Proof.Machine
end

