-- ==== Sys2Proof/Laws/KMbx.lean ====
section
/-!
SUPPORT. Laws/KMbx.lean: what each operation of Machine/Mbx.lean keeps (Laws/Keeps.lean).
-/
namespace Sys2Proof.Machine

theorem State.modBox_keeps {s0 s : State} (n : Nat) (f : Mailbox → Mailbox) (h : Keeps s0 s) : Keeps s0 (State.modBox s n f) := by
  unfold State.modBox
  with_reducible repeat' first
    | assumption | exact Keeps.field h | refine Keeps.field ?_

theorem State.mbxShow_keeps {s0 s : State} (h : Keeps s0 s) : Keeps s0 (State.mbxShow s) := by
  unfold State.mbxShow
  with_reducible repeat' first
    | assumption | apply State.wr_keeps | refine Keeps.foldl ?_ (fun _ _ _ => ?_)
    | refine Keeps.ite (fun _ => ?_) (fun _ => ?_) | intro _

theorem State.mbxCount_keeps {s0 s : State} (status : Nat) (h : Keeps s0 s) : Keeps s0 (State.mbxCount s status) := by
  unfold State.mbxCount
  with_reducible repeat' first
    | assumption | apply State.satInc_keeps | refine Keeps.ite (fun _ => ?_) (fun _ => ?_)

theorem State.sendResp_keeps {s0 s : State} (n : Nat) (dst : Source) (ctr : Nat) (tagged : Bool) (resp : Bytes) (h : Keeps s0 s) : Keeps s0 (State.sendResp s n dst ctr tagged resp) := by
  unfold State.sendResp
  with_reducible repeat' first
    | assumption | apply State.sendFrame_keeps | refine Keeps.ofPair (by assumption) ?_ | split | extract_lets
    | exact Keeps.field h | refine Keeps.field ?_

theorem State.ethCheckLog_keeps {s0 s : State} (src : Source) (op status : Nat) (h : Keeps s0 s) : Keeps s0 (State.ethCheckLog s src op status) := by
  unfold State.ethCheckLog
  with_reducible repeat' first
    | assumption | apply State.cmdLog_keeps | refine Keeps.ofPair (by assumption) ?_
    | refine Keeps.ite (fun _ => ?_) (fun _ => ?_) | split

theorem State.mbxFinish_keeps {s0 s : State} (n : Nat) (resp : Bytes) (store tagged : Bool) (h : Keeps s0 s) : Keeps s0 (State.mbxFinish s n resp store tagged) := by
  unfold State.mbxFinish
  with_reducible repeat' first
    | assumption | apply State.sendResp_keeps | apply State.mbxShow_keeps | apply State.modBox_keeps | apply State.wrBit_keeps
    | refine Keeps.ite (fun _ => ?_) (fun _ => ?_) | extract_lets | exact Keeps.field h | refine Keeps.field ?_ | intro _

theorem State.respond_keeps {s0 s : State} (n status : Nat) (data : Bytes) (h : Keeps s0 s) : Keeps s0 (State.respond s n status data) := by
  unfold State.respond
  with_reducible repeat' first
    | assumption | apply State.ethCheckLog_keeps | apply State.mbxFinish_keeps | apply State.mbxCount_keeps
    | apply State.cmdLog_keeps | refine Keeps.ite (fun _ => ?_) (fun _ => ?_) | extract_lets

theorem State.turnAway_keeps {s0 s : State} (n : Nat) (src : Source) (ctr : Nat) (tagged : Bool) (c : Bytes) (len status : Nat) (h : Keeps s0 s) : Keeps s0 (State.turnAway s n src ctr tagged c len status) := by
  unfold State.turnAway
  with_reducible repeat' first
    | assumption | apply State.ethCheckLog_keeps | apply State.mbxCount_keeps | apply State.sendResp_keeps
    | refine Keeps.ite (fun _ => ?_) (fun _ => ?_) | extract_lets

theorem State.mbxFreeze_keeps {s0 s : State} (n : Nat) (src : Source) (ctr : Nat) (c : Bytes) (len : Nat) (h : Keeps s0 s) : Keeps s0 (State.mbxFreeze s n src ctr c len) := by
  unfold State.mbxFreeze
  with_reducible repeat' first
    | assumption | apply State.mbxShow_keeps | apply State.modBox_keeps | exact Keeps.field h | refine Keeps.field ?_
    | intro _

theorem State.mbxAccept_keeps {s0 s : State} (n : Nat) (src : Source) (ctr : Nat) (c : Bytes) (len : Nat) (authOk : Bool) (h : Keeps s0 s) : Keeps s0 (State.mbxAccept s n src ctr c len authOk) := by
  unfold State.mbxAccept
  have h1 := State.mbxFreeze_keeps n src ctr c len h
  dsimp only
  split
  · exact State.mbxFinish_keeps _ _ _ _ (State.ethCheckLog_keeps _ _ _ (State.mbxCount_keeps _ h1))
  · exact State.mbxFinish_keeps _ _ _ _ h1
  · exact Keeps.upd h1 (Nat.le_refl _) (by exact ⟨rfl, rfl⟩)

theorem State.mbxArrive_keeps {s0 s : State} (n path : Nat) (src : Source) (ctr : Nat) (c : Bytes) (authOk : Bool) (h : Keeps s0 s) : Keeps s0 (State.mbxArrive s n path src ctr c authOk) := by
  unfold State.mbxArrive
  with_reducible repeat' first
    | assumption | apply State.mbxAccept_keeps | apply State.turnAway_keeps | refine Keeps.ofPair (by assumption) ?_
    | refine Keeps.ite (fun _ => ?_) (fun _ => ?_) | split

theorem State.ring_keeps {s0 s : State} (n : Nat) (h : Keeps s0 s) : Keeps s0 (State.ring s n) := by
  unfold State.ring
  with_reducible repeat' first
    | assumption | apply State.mbxAccept_keeps | apply State.mbxCount_keeps | apply State.satInc_keeps
    | apply State.set1_keeps | refine Keeps.ite (fun _ => ?_) (fun _ => ?_) | extract_lets

theorem State.doorbell_keeps {s0 s : State} (mask : Nat) (h : Keeps s0 s) : Keeps s0 (State.doorbell s mask) := by
  unfold State.doorbell
  with_reducible repeat' first
    | assumption | apply State.ring_keeps | refine Keeps.foldl ?_ (fun _ _ _ => ?_)
    | refine Keeps.ite (fun _ => ?_) (fun _ => ?_) | intro _

theorem State.mbxAck_keeps {s0 s : State} (mask : Nat) (h : Keeps s0 s) : Keeps s0 (State.mbxAck s mask) := by
  unfold State.mbxAck
  with_reducible repeat' first
    | assumption | apply State.mbxShow_keeps | apply State.modBox_keeps | refine Keeps.foldl ?_ (fun _ _ _ => ?_)
    | refine Keeps.ite (fun _ => ?_) (fun _ => ?_) | exact Keeps.field h | refine Keeps.field ?_ | intro _

theorem State.mbxPath_keeps {s0 s : State} (who : Requester) (v : Nat) (h : Keeps s0 s) : Keeps s0 (State.mbxPath s who v).1 := by
  unfold State.mbxPath
  with_reducible repeat' first
    | assumption | apply State.mbxShow_keeps | apply State.set1_keeps | apply State.wr_keeps
    | refine Keeps.foldlP ?_ (fun _ _ _ => ?_) | refine Keeps.foldl ?_ (fun _ _ _ => ?_)
    | refine Keeps.ite (fun _ => ?_) (fun _ => ?_) | refine Keeps.ite1 (fun _ => ?_) (fun _ => ?_) | extract_lets | intro _
    | dsimp only

theorem State.writeMbx_keeps {s0 s : State} (who : Requester) (l : RegLoc) (v : Nat) (h : Keeps s0 s) : Keeps s0 (State.writeMbx s who l v).1 := by
  unfold State.writeMbx
  with_reducible repeat' first
    | assumption | apply State.doorbell_keeps | apply State.mbxPath_keeps | apply State.mbxAck_keeps | apply State.wrReg_keeps
    | apply State.set1_keeps | refine Keeps.ite (fun _ => ?_) (fun _ => ?_) | refine Keeps.ite1 (fun _ => ?_) (fun _ => ?_)
    | extract_lets | dsimp only

theorem execDoorbell_keeps {s0 s : State} (mask : BitVec 8) (h : Keeps s0 s) : OutKeeps s0 (execDoorbell mask s) := by
  unfold execDoorbell
  with_reducible repeat' first
    | assumption | apply OutKeeps.next | apply OutKeeps.done | apply State.doorbell_keeps | apply whenLive_keeps | intro _

theorem execMbxAck_keeps {s0 s : State} (mask : BitVec 8) (h : Keeps s0 s) : OutKeeps s0 (execMbxAck mask s) := by
  unfold execMbxAck
  with_reducible repeat' first
    | assumption | apply OutKeeps.next | apply OutKeeps.done | apply State.mbxAck_keeps | apply whenLive_keeps | intro _

theorem execHostBufferWrite_keeps {s0 s : State} (word : Fin 512) (v : BitVec 16) (h : Keeps s0 s) : OutKeeps s0 (execHostBufferWrite word v s) := by
  unfold execHostBufferWrite
  with_reducible repeat' first
    | assumption | apply OutKeeps.next | apply OutKeeps.done | apply State.modBox_keeps | apply State.set1_keeps
    | apply whenLive_keeps | refine Keeps.ite (fun _ => ?_) (fun _ => ?_) | extract_lets | exact Keeps.field h
    | refine Keeps.field ?_ | intro _ | refine OutKeeps.ite (fun _ => ?_) (fun _ => ?_)

theorem execMbxPathWrite_keeps {s0 s : State} (v : BitVec 16) (h : Keeps s0 s) : OutKeeps s0 (execMbxPathWrite v s) := by
  unfold execMbxPathWrite
  with_reducible repeat' first
    | assumption | apply OutKeeps.next | apply OutKeeps.done | apply State.mbxPath_keeps | apply whenLive_keeps | intro _

theorem execMailboxFrameReceive_keeps {s0 s : State} (h : Keeps s0 s) : OutKeeps s0 (execMailboxFrameReceive s) := by
  unfold execMailboxFrameReceive
  with_reducible repeat' first
    | assumption | apply OutKeeps.next | apply OutKeeps.done | apply State.mbxArrive_keeps | apply State.turnAway_keeps
    | apply whenLive_keeps | refine Keeps.ofPair (by assumption) ?_ | refine Keeps.ite (fun _ => ?_) (fun _ => ?_) | split
    | extract_lets | exact Keeps.field h | refine Keeps.field ?_ | intro _ | refine OutKeeps.ite (fun _ => ?_) (fun _ => ?_)

theorem execEthernetDatagram_keeps {s0 s : State} (addr : BitVec 128) (port : BitVec 16) (b : Bytes) (h : Keeps s0 s) : OutKeeps s0 (execEthernetDatagram addr port b s) := by
  unfold execEthernetDatagram
  with_reducible repeat' first
    | assumption | apply OutKeeps.next | apply OutKeeps.done | apply State.mbxArrive_keeps | apply State.satInc_keeps
    | apply whenLive_keeps | refine Keeps.ite (fun _ => ?_) (fun _ => ?_) | split | extract_lets | exact Keeps.field h
    | refine Keeps.field ?_ | intro _ | refine OutKeeps.ite (fun _ => ?_) (fun _ => ?_)

theorem execInternalCommand_keeps {s0 s : State} (n : Fin 8) (c : Bytes) (h : Keeps s0 s) : OutKeeps s0 (execInternalCommand n c s) := by
  unfold execInternalCommand
  with_reducible repeat' first
    | assumption | apply OutKeeps.next | apply OutKeeps.done | apply State.mbxArrive_keeps | apply whenLive_keeps | intro _

theorem execLongCommandComplete_keeps {s0 s : State} (h : Keeps s0 s) : OutKeeps s0 (execLongCommandComplete s) := by
  unfold execLongCommandComplete
  with_reducible repeat' first
    | assumption | apply OutKeeps.next | apply OutKeeps.done | apply State.respond_keeps | apply State.wr_keeps
    | apply whenLive_keeps | refine Keeps.ofPair (by assumption) ?_ | split | extract_lets | exact Keeps.field h
    | refine Keeps.field ?_ | intro _

theorem execHostEthernetFrame_keeps {s0 s : State} (event : Bool) (t : BitVec 32) (h : Keeps s0 s) : OutKeeps s0 (execHostEthernetFrame event t s) := by
  unfold execHostEthernetFrame
  with_reducible repeat' first
    | assumption | apply OutKeeps.next | apply OutKeeps.done | apply whenLive_keeps
    | refine Keeps.ite (fun _ => ?_) (fun _ => ?_) | exact Keeps.field h | refine Keeps.field ?_ | intro _
    | refine OutKeeps.ite (fun _ => ?_) (fun _ => ?_)

theorem State.runCmd_keeps {s0 s : State} {op : Nat} {mine : Bytes → Bool} {refuse : State → Nat → Bytes → Bool} {bad : State → Bytes → Bool} {run : State → Nat → Bytes → CmdOut} (h : Keeps s0 s)
    (hrun : ∀ t n p, Keeps s0 t → Keeps s0 (run t n p).st) (hfin : ∀ t n p u, Keeps s0 u → Keeps s0 ((run t n p).fin u)) :
    Keeps s0 (State.runCmd s op mine refuse bad run) := by
  unfold State.runCmd
  split
  · rename_i n rest _
    dsimp only
    split
    · have h1 : Keeps s0 { s with mbx := { s.mbx with order := rest } } := Keeps.upd h (Nat.le_refl _) (by exact ⟨rfl, rfl⟩)
      split
      · exact State.respond_keeps _ _ _ h1
      · split
        · exact State.respond_keeps _ _ _ h1
        · have h2 := hrun _ n (cmdParams (s.box n).cmd) h1
          split
          · exact State.respond_keeps _ _ _ h1
          · split
            · exact State.wr_keeps (State.wr_keeps (Keeps.upd h2 (Nat.le_refl _) (by exact ⟨rfl, rfl⟩)) _ _) _ _
            · exact hfin _ _ _ _ (State.respond_keeps _ _ _ h2)
    · exact h
  · exact h

theorem Keeps.ended {s0 : State} {r : State × Nat} (h : Keeps s0 r.1) : Keeps s0 (ended r).st := h
theorem Keeps.ended_fin {s0 u : State} {r : State × Nat} (h : Keeps s0 u) : Keeps s0 ((Machine.ended r).fin u) := h

theorem Keeps.endedB {s0 : State} {r : State × Bool} (h : Keeps s0 r.1) : Keeps s0 (endedB r).st := h
theorem Keeps.endedB_fin {s0 u : State} {r : State × Bool} (h : Keeps s0 u) : Keeps s0 ((Machine.endedB r).fin u) := h

theorem Keeps.endedW {s0 : State} {r : State × WRes} (h : Keeps s0 r.1) : Keeps s0 (endedW r).st := h
theorem Keeps.endedW_fin {s0 u : State} {r : State × WRes} (h : Keeps s0 u) : Keeps s0 ((Machine.endedW r).fin u) := h

end Sys2Proof.Machine
end

