-- ==== Sys2Proof/Laws/KPmc.lean ====
section
/-!
SUPPORT. Laws/KPmc.lean: what each operation of Machine/Pmc.lean keeps (Laws/Keeps.lean).
-/
namespace Sys2Proof.Machine

theorem execPmcCounterWrap_keeps {s0 s : State} (n : Fin 32) (k : Nat) (h : Keeps s0 s) : OutKeeps s0 (execPmcCounterWrap n k s) := by
  unfold execPmcCounterWrap
  with_reducible repeat' first
    | assumption | apply OutKeeps.next | apply OutKeeps.done | apply State.pmcCount_keeps | apply whenLive_keeps
    | refine Keeps.ite (fun _ => ?_) (fun _ => ?_) | split | intro _ | refine OutKeeps.ite (fun _ => ?_) (fun _ => ?_)

theorem execPmcCntWrite_keeps {s0 s : State} (n : Fin 32) (v : BitVec 32) (h : Keeps s0 s) : OutKeeps s0 (execPmcCntWrite n v s) := by
  unfold execPmcCntWrite
  with_reducible repeat' first
    | assumption | apply OutKeeps.next | apply OutKeeps.done | apply State.pmcWrite_keeps | apply whenLive_keeps | intro _

theorem State.snapshot_keeps {s0 s : State} (periodic manual : Bool) (h : Keeps s0 s) : Keeps s0 (State.snapshot s periodic manual) := by
  unfold State.snapshot
  with_reducible repeat' first
    | assumption | apply State.putWords_keeps | apply State.satInc_keeps | apply State.busErr_keeps | apply State.set1_keeps
    | apply State.wr_keeps | refine Keeps.foldl ?_ (fun _ _ _ => ?_) | refine Keeps.ite (fun _ => ?_) (fun _ => ?_)
    | extract_lets | exact Keeps.field h | refine Keeps.field ?_ | intro _

theorem State.freeze_keeps {s0 s : State} (h : Keeps s0 s) : Keeps s0 (State.freeze s).1 := by
  unfold State.freeze
  with_reducible repeat' first
    | assumption | apply State.snapshot_keeps | apply State.set1_keeps | refine Keeps.ite (fun _ => ?_) (fun _ => ?_)
    | refine Keeps.ite1 (fun _ => ?_) (fun _ => ?_) | dsimp only

theorem execPmcFreeze_keeps {s0 s : State} (h : Keeps s0 s) : OutKeeps s0 (execPmcFreeze s) := by
  unfold execPmcFreeze
  with_reducible repeat' first
    | assumption | apply OutKeeps.next | apply OutKeeps.done | apply State.freeze_keeps | apply whenLive_keeps | intro _

theorem execPeriodicSnapshot_keeps {s0 s : State} (manual : Bool) (h : Keeps s0 s) : OutKeeps s0 (execPeriodicSnapshot manual s) := by
  unfold execPeriodicSnapshot
  with_reducible repeat' first
    | assumption | apply OutKeeps.next | apply OutKeeps.done | apply State.snapshot_keeps | apply State.freeze_keeps
    | apply State.set1_keeps | apply whenLive_keeps | refine Keeps.ite (fun _ => ?_) (fun _ => ?_)
    | refine Keeps.ite1 (fun _ => ?_) (fun _ => ?_) | intro _ | refine OutKeeps.ite (fun _ => ?_) (fun _ => ?_)

theorem State.writePmc_keeps {s0 s : State} (l : RegLoc) (v : Nat) (h : Keeps s0 s) : Keeps s0 (State.writePmc s l v).1 := by
  unfold State.writePmc
  with_reducible repeat' first
    | assumption | apply State.pmcWrite_keeps | apply State.freeze_keeps | apply State.wrReg_keeps | apply State.set1_keeps
    | refine Keeps.ite (fun _ => ?_) (fun _ => ?_) | refine Keeps.ite1 (fun _ => ?_) (fun _ => ?_) | split | extract_lets
    | dsimp only

end Sys2Proof.Machine
end

