-- ==== Sys2Proof/Laws/KMem.lean ====
section
/-!
SUPPORT. Laws/KMem.lean: what each operation of Machine/Mem.lean keeps (Laws/Keeps.lean).
-/
namespace Sys2Proof.Machine

theorem State.codePip_keeps {s0 s : State} (w : Nat) (code : Bool) (h : Keeps s0 s) : Keeps s0 (State.codePip s w code) := by
  unfold State.codePip
  with_reducible repeat' first
    | assumption | apply State.checkFail_keeps | refine Keeps.ite (fun _ => ?_) (fun _ => ?_) | split

theorem State.storeWord_keeps {s0 s : State} (w a : Nat) (data : Bytes) (h : Keeps s0 s) : Keeps s0 (State.storeWord s w a data).1 := by
  unfold State.storeWord
  with_reducible repeat' first
    | assumption | apply State.putWord_keeps | apply State.getWord_keeps | apply State.codePip_keeps
    | refine Keeps.ofPair (by assumption) ?_ | refine Keeps.ite (fun _ => ?_) (fun _ => ?_)
    | refine Keeps.ite1 (fun _ => ?_) (fun _ => ?_) | split | dsimp only

theorem State.storeWords_keeps {s0 : State} (n : Nat) {s : State} (w a : Nat) (data : Bytes) (h : Keeps s0 s) : Keeps s0 (State.storeWords n s w a data) := by
  induction n generalizing s w a data with
  | zero => unfold State.storeWords; exact h
  | succ n ih =>
    unfold State.storeWords
    with_reducible repeat' first
      | assumption | apply ih | apply State.storeWord_keeps | apply State.busErr_keeps
      | refine Keeps.ofPair (by assumption) ?_ | refine Keeps.ite (fun _ => ?_) (fun _ => ?_)
      | refine Keeps.ite1 (fun _ => ?_) (fun _ => ?_) | split | extract_lets | dsimp only

theorem execMemoryStore_keeps {s0 s : State} (addr : BitVec 64) (data : Bytes) (h : Keeps s0 s) : OutKeeps s0 (execMemoryStore addr data s) := by
  unfold execMemoryStore
  with_reducible repeat' first
    | assumption | apply OutKeeps.next | apply OutKeeps.done | apply State.storeWords_keeps | apply whenLive_keeps
    | refine Keeps.ite (fun _ => ?_) (fun _ => ?_) | extract_lets | intro _ | refine OutKeeps.ite (fun _ => ?_) (fun _ => ?_)

theorem State.procWord_keeps {s0 s : State} (w : Nat) (h : Keeps s0 s) : Keeps s0 (State.procWord s w).1 := by
  unfold State.procWord
  with_reducible repeat' first
    | assumption | apply State.readWord_keeps | refine Keeps.ite (fun _ => ?_) (fun _ => ?_)
    | refine Keeps.ite1 (fun _ => ?_) (fun _ => ?_) | dsimp only

theorem State.procWords_keeps {s0 : State} (n : Nat) {s : State} (w : Nat) (code : Bool) (h : Keeps s0 s) : Keeps s0 (State.procWords n s w code).1 := by
  induction n generalizing s w code with
  | zero => unfold State.procWords; exact h
  | succ n ih =>
    unfold State.procWords
    with_reducible repeat' first
      | assumption | apply ih | apply State.procWord_keeps | apply State.codePip_keeps
      | refine Keeps.ofPair (by assumption) ?_ | split | extract_lets | dsimp only

theorem State.loadBytes_keeps {s0 s : State} (a len : Nat) (code : Bool) (h : Keeps s0 s) : Keeps s0 (State.loadBytes s a len code).1 := by
  unfold State.loadBytes
  with_reducible repeat' first
    | assumption | apply State.procWords_keeps | refine Keeps.ofPair (by assumption) ?_ | split | dsimp only

theorem execMemoryRead_keeps {s0 s : State} (who : Requester) (addr : BitVec 64) (len : Fin 64) (code : Bool) (h : Keeps s0 s) : OutKeeps s0 (execMemoryRead who addr len code s) := by
  unfold execMemoryRead
  with_reducible repeat' first
    | assumption | apply OutKeeps.next | apply OutKeeps.done | apply State.deliverNone_keeps | apply State.loadBytes_keeps
    | apply State.deliver_keeps | apply State.busErr_keeps | apply whenLive_keeps | refine Keeps.ofPair (by assumption) ?_
    | refine Keeps.ite (fun _ => ?_) (fun _ => ?_) | split | extract_lets | intro _
    | refine OutKeeps.ite (fun _ => ?_) (fun _ => ?_)

theorem execBusErrorAccess_keeps {s0 s : State} (who : Agent) (addr : BitVec 64) (h : Keeps s0 s) : OutKeeps s0 (execBusErrorAccess who addr s) := by
  unfold execBusErrorAccess
  with_reducible repeat' first
    | assumption | apply OutKeeps.next | apply OutKeeps.done | apply State.deliverNone_keeps | apply State.busErr_keeps
    | apply whenLive_keeps | refine Keeps.ofPair (by assumption) ?_ | refine Keeps.ite (fun _ => ?_) (fun _ => ?_) | split
    | extract_lets | intro _ | refine OutKeeps.ite (fun _ => ?_) (fun _ => ?_)

theorem State.scrub_keeps {s0 s : State} (w : Nat) (code : Bool) (h : Keeps s0 s) : Keeps s0 (State.scrub s w code) := by
  unfold State.scrub
  with_reducible repeat' first
    | assumption | apply State.readWord_keeps | apply State.codePip_keeps | refine Keeps.ofPair (by assumption) ?_
    | refine Keeps.ite (fun _ => ?_) (fun _ => ?_) | split

theorem State.scrubOn_keeps {s0 s : State} (i : Nat) (h : Keeps s0 s) : Keeps s0 (State.scrubOn s i) := by
  unfold State.scrubOn
  with_reducible repeat' first
    | assumption | apply State.wrapInc_keeps | refine Keeps.ite (fun _ => ?_) (fun _ => ?_) | extract_lets
    | exact Keeps.field h | refine Keeps.field ?_

theorem State.scrubStep_keeps {s0 s : State} (i : Nat) (code : Bool) (h : Keeps s0 s) : Keeps s0 (State.scrubStep s i code) := by
  unfold State.scrubStep
  with_reducible repeat' first
    | assumption | apply State.scrubOn_keeps | apply State.scrub_keeps | refine Keeps.ite (fun _ => ?_) (fun _ => ?_)

theorem execScrubRead_keeps {s0 s : State} (dram : Bool) (code : Bool) (h : Keeps s0 s) : OutKeeps s0 (execScrubRead dram code s) := by
  unfold execScrubRead
  with_reducible repeat' first
    | assumption | apply OutKeeps.next | apply OutKeeps.done | apply State.scrubStep_keeps | apply whenLive_keeps | intro _

theorem execFlashScrub_keeps {s0 s : State} (h : Keeps s0 s) : OutKeeps s0 (execFlashScrub s) := by
  unfold execFlashScrub
  with_reducible repeat' first
    | assumption | apply OutKeeps.next | apply OutKeeps.done | apply State.scrubStep_keeps | apply whenLive_keeps | intro _

end Sys2Proof.Machine
end

