-- ==== Sys2Proof/Laws/KGnb.lean ====
section
/-!
SUPPORT. Laws/KGnb.lean: what each operation of Machine/Gnb.lean keeps (Laws/Keeps.lean).
-/
namespace Sys2Proof.Machine

theorem State.modGnb_keeps {s0 s : State} (f : GnbState → GnbState) (h : Keeps s0 s) : Keeps s0 (State.modGnb s f) := by
  unfold State.modGnb
  with_reducible repeat' first
    | assumption | exact Keeps.field h | refine Keeps.field ?_

theorem State.modGchan_keeps {s0 s : State} (n : Nat) (f : GnbChan → GnbChan) (h : Keeps s0 s) : Keeps s0 (State.modGchan s n f) := by
  unfold State.modGchan
  with_reducible repeat' first
    | assumption | apply State.modGnb_keeps | exact Keeps.field h | refine Keeps.field ?_ | intro _

theorem whenGnbUnit_keeps {s0 s : State} (f : State → State) (h : Keeps s0 s) (hf : ∀ t, Keeps s0 t → Keeps s0 (f t)) : Keeps s0 (whenGnbUnit s f) := by
  unfold whenGnbUnit
  with_reducible repeat' first
    | assumption | apply hf | apply whenLive_keeps | refine Keeps.ite (fun _ => ?_) (fun _ => ?_) | intro _

theorem State.gServe_keeps {s0 s : State} (h : Keeps s0 s) : Keeps s0 (State.gServe s) := by
  unfold State.gServe
  with_reducible repeat' first
    | assumption | apply State.modGnb_keeps | refine Keeps.ofPair (by assumption) ?_
    | refine Keeps.ite (fun _ => ?_) (fun _ => ?_) | split | exact Keeps.field h | refine Keeps.field ?_ | intro _

theorem State.gTo_keeps {s0 s : State} (n st : Nat) (h : Keeps s0 s) : Keeps s0 (State.gTo s n st) := by
  unfold State.gTo
  with_reducible repeat' first
    | assumption | apply State.stateLog_keeps | apply State.gServe_keeps | apply State.wr_keeps
    | refine Keeps.ite (fun _ => ?_) (fun _ => ?_) | extract_lets

theorem State.gEnter_keeps {s0 s : State} (n : Nat) (h : Keeps s0 s) : Keeps s0 (State.gEnter s n) := by
  unfold State.gEnter
  with_reducible repeat' first
    | assumption | apply State.modGchan_keeps | apply State.gTo_keeps | refine Keeps.ite (fun _ => ?_) (fun _ => ?_)
    | extract_lets | exact Keeps.field h | refine Keeps.field ?_ | intro _

theorem State.gIdle_keeps {s0 s : State} (n : Nat) (h : Keeps s0 s) : Keeps s0 (State.gIdle s n) := by
  unfold State.gIdle
  with_reducible repeat' first
    | assumption | apply State.modGchan_keeps | apply State.gTo_keeps | intro _

theorem State.gAgain_keeps {s0 s : State} (n : Nat) (hint : Int) (h : Keeps s0 s) : Keeps s0 (State.gAgain s n hint) := by
  unfold State.gAgain
  with_reducible repeat' first
    | assumption | apply State.modGchan_keeps | apply State.gTo_keeps | exact Keeps.field h | refine Keeps.field ?_ | intro _

theorem State.gSearchAll_keeps {s0 s : State} (h : Keeps s0 s) : Keeps s0 (State.gSearchAll s) := by
  unfold State.gSearchAll
  with_reducible repeat' first
    | assumption | apply State.gAgain_keeps | refine Keeps.foldl ?_ (fun _ _ _ => ?_)
    | refine Keeps.ite (fun _ => ?_) (fun _ => ?_) | intro _

theorem State.gnbRun_keeps {s0 s : State} (run : Bool) (h : Keeps s0 s) : Keeps s0 (State.gnbRun s run) := by
  unfold State.gnbRun
  with_reducible repeat' first
    | assumption | apply State.modGnb_keeps | apply State.gEnter_keeps | apply State.gIdle_keeps | apply State.wrB_keeps
    | refine Keeps.foldl ?_ (fun _ _ _ => ?_) | refine Keeps.ite (fun _ => ?_) (fun _ => ?_) | extract_lets
    | exact Keeps.field h | refine Keeps.field ?_ | intro _

theorem execGnbRun_keeps {s0 s : State} (run : Bool) (h : Keeps s0 s) : OutKeeps s0 (execGnbRun run s) := by
  unfold execGnbRun
  with_reducible repeat' first
    | assumption | apply OutKeeps.next | apply OutKeeps.done | apply State.gnbRun_keeps | apply State.set1_keeps
    | apply whenLive_keeps | refine Keeps.ite (fun _ => ?_) (fun _ => ?_) | intro _
    | refine OutKeeps.ite (fun _ => ?_) (fun _ => ?_)

theorem whenGnb_keeps {s0 s : State} (f : State → State) (h : Keeps s0 s) (hf : ∀ t, Keeps s0 t → Keeps s0 (f t)) : Keeps s0 (whenGnb s f) := by
  unfold whenGnb
  with_reducible repeat' first
    | assumption | apply hf | apply whenLive_keeps | refine Keeps.ite (fun _ => ?_) (fun _ => ?_) | intro _

theorem execGnssClkLoss_keeps {s0 s : State} (h : Keeps s0 s) : OutKeeps s0 (execGnssClkLoss s) := by
  unfold execGnssClkLoss
  with_reducible repeat' first
    | assumption | apply OutKeeps.next | apply OutKeeps.done | apply State.gSearchAll_keeps | apply State.modGnb_keeps
    | apply State.wrAll_keeps | apply whenGnbUnit_keeps | apply State.set1_keeps | exact Keeps.field h | refine Keeps.field ?_
    | intro _

theorem execGnssClkReturn_keeps {s0 s : State} (h : Keeps s0 s) : OutKeeps s0 (execGnssClkReturn s) := by
  unfold execGnssClkReturn
  with_reducible repeat' first
    | assumption | apply OutKeeps.next | apply OutKeeps.done | apply whenGnbUnit_keeps | apply State.wr_keeps | intro _

theorem execInputOverflow_keeps {s0 s : State} (h : Keeps s0 s) : OutKeeps s0 (execInputOverflow s) := by
  unfold execInputOverflow
  with_reducible repeat' first
    | assumption | apply OutKeeps.next | apply OutKeeps.done | apply State.gSearchAll_keeps | apply State.set1_keeps
    | apply whenGnb_keeps | intro _

theorem State.gEnable_keeps {s0 s : State} (n : Nat) (en : Bool) (h : Keeps s0 s) : Keeps s0 (State.gEnable s n en) := by
  unfold State.gEnable
  with_reducible repeat' first
    | assumption | apply State.gEnter_keeps | apply State.gIdle_keeps | apply State.wrB_keeps
    | refine Keeps.ite (fun _ => ?_) (fun _ => ?_) | extract_lets

theorem execGnbChannelEnable_keeps {s0 s : State} (n : Fin 24) (en : Bool) (h : Keeps s0 s) : OutKeeps s0 (execGnbChannelEnable n en s) := by
  unfold execGnbChannelEnable
  with_reducible repeat' first
    | assumption | apply OutKeeps.next | apply OutKeeps.done | apply State.gEnable_keeps | apply whenLive_keeps | intro _

theorem execSearchComplete_keeps {s0 s : State} (n : Fin 24) (dwells : Fin 4) (bin : Int) (cell : Fin 2046) (h : Keeps s0 s) : OutKeeps s0 (execSearchComplete n dwells bin cell s) := by
  unfold execSearchComplete
  with_reducible repeat' first
    | assumption | apply OutKeeps.next | apply OutKeeps.done | apply State.modGchan_keeps | apply State.satInc_keeps
    | apply State.modGnb_keeps | apply State.gTo_keeps | apply whenGnb_keeps | refine Keeps.ite (fun _ => ?_) (fun _ => ?_)
    | extract_lets | exact Keeps.field h | refine Keeps.field ?_ | intro _ | refine OutKeeps.ite (fun _ => ?_) (fun _ => ?_)

theorem execPullInLock_keeps {s0 s : State} (n : Fin 24) (h : Keeps s0 s) : OutKeeps s0 (execPullInLock n s) := by
  unfold execPullInLock
  with_reducible repeat' first
    | assumption | apply OutKeeps.next | apply OutKeeps.done | apply State.modGchan_keeps | apply State.gTo_keeps
    | apply whenGnb_keeps | refine Keeps.ite (fun _ => ?_) (fun _ => ?_) | exact Keeps.field h | refine Keeps.field ?_
    | intro _ | refine OutKeeps.ite (fun _ => ?_) (fun _ => ?_)

theorem execPullInTimeout_keeps {s0 s : State} (n : Fin 24) (h : Keeps s0 s) : OutKeeps s0 (execPullInTimeout n s) := by
  unfold execPullInTimeout
  with_reducible repeat' first
    | assumption | apply OutKeeps.next | apply OutKeeps.done | apply State.gAgain_keeps | apply whenGnb_keeps
    | refine Keeps.ite (fun _ => ?_) (fun _ => ?_) | intro _ | refine OutKeeps.ite (fun _ => ?_) (fun _ => ?_)

theorem execBitSync_keeps {s0 s : State} (n : Fin 24) (h : Keeps s0 s) : OutKeeps s0 (execBitSync n s) := by
  unfold execBitSync
  with_reducible repeat' first
    | assumption | apply OutKeeps.next | apply OutKeeps.done | apply State.modGchan_keeps | apply State.gTo_keeps
    | apply whenGnb_keeps | refine Keeps.ite (fun _ => ?_) (fun _ => ?_) | exact Keeps.field h | refine Keeps.field ?_
    | intro _ | refine OutKeeps.ite (fun _ => ?_) (fun _ => ?_)

theorem execCycleSlip_keeps {s0 s : State} (n : Fin 24) (h : Keeps s0 s) : OutKeeps s0 (execCycleSlip n s) := by
  unfold execCycleSlip
  with_reducible repeat' first
    | assumption | apply OutKeeps.next | apply OutKeeps.done | apply State.modGchan_keeps | apply State.wrapInc_keeps
    | apply State.errLog_keeps | apply whenGnb_keeps | refine Keeps.ite (fun _ => ?_) (fun _ => ?_) | exact Keeps.field h
    | refine Keeps.field ?_ | intro _ | refine OutKeeps.ite (fun _ => ?_) (fun _ => ?_)

theorem execSignalLoss_keeps {s0 s : State} (n : Fin 24) (h : Keeps s0 s) : OutKeeps s0 (execSignalLoss n s) := by
  unfold execSignalLoss
  with_reducible repeat' first
    | assumption | apply OutKeeps.next | apply OutKeeps.done | apply State.gAgain_keeps | apply whenGnb_keeps
    | refine Keeps.ite (fun _ => ?_) (fun _ => ?_) | intro _ | refine OutKeeps.ite (fun _ => ?_) (fun _ => ?_)

theorem execNavParityLoss_keeps {s0 s : State} (n : Fin 24) (h : Keeps s0 s) : OutKeeps s0 (execNavParityLoss n s) := by
  unfold execNavParityLoss
  with_reducible repeat' first
    | assumption | apply OutKeeps.next | apply OutKeeps.done | apply State.modGchan_keeps | apply State.gTo_keeps
    | apply whenGnb_keeps | refine Keeps.ite (fun _ => ?_) (fun _ => ?_) | exact Keeps.field h | refine Keeps.field ?_
    | intro _ | refine OutKeeps.ite (fun _ => ?_) (fun _ => ?_)

theorem execFrameSync_keeps {s0 s : State} (n : Fin 24) (back : Fin 300) (h : Keeps s0 s) : OutKeeps s0 (execFrameSync n back s) := by
  unfold execFrameSync
  with_reducible repeat' first
    | assumption | apply OutKeeps.next | apply OutKeeps.done | apply State.modGchan_keeps | apply State.gTo_keeps
    | apply whenGnb_keeps | refine Keeps.ite (fun _ => ?_) (fun _ => ?_) | extract_lets | exact Keeps.field h
    | refine Keeps.field ?_ | intro _ | refine OutKeeps.ite (fun _ => ?_) (fun _ => ?_)

theorem execNavWord_keeps {s0 s : State} (n : Fin 24) (w : BitVec 30) (t : BitVec 32) (h : Keeps s0 s) : OutKeeps s0 (execNavWord n w t s) := by
  unfold execNavWord
  with_reducible repeat' first
    | assumption | apply OutKeeps.next | apply OutKeeps.done | apply State.modGchan_keeps | apply State.satInc_keeps
    | apply State.wrAll_keeps | apply State.set1_keeps | apply whenGnb_keeps | refine Keeps.ite (fun _ => ?_) (fun _ => ?_)
    | extract_lets | exact Keeps.field h | refine Keeps.field ?_ | intro _ | refine OutKeeps.ite (fun _ => ?_) (fun _ => ?_)

theorem State.gDump_keeps {s0 s : State} (m : Nat) (l : List (Int × Int)) (t : Int) (h : Keeps s0 s) : Keeps s0 (State.gDump s m l t) := by
  unfold State.gDump
  with_reducible repeat' first
    | assumption | apply State.modGchan_keeps | apply State.wrapInc_keeps | apply State.wrS_keeps | apply State.wr_keeps
    | refine Keeps.foldlP ?_ (fun _ _ _ => ?_) | refine Keeps.foldl ?_ (fun _ _ _ => ?_)
    | refine Keeps.ite (fun _ => ?_) (fun _ => ?_) | refine Keeps.ite1 (fun _ => ?_) (fun _ => ?_) | extract_lets
    | exact Keeps.field h | refine Keeps.field ?_ | intro _

theorem State.gBlock_keeps {s0 s : State} (xs : List (Int × Int)) (n : Nat) (h : Keeps s0 s) : Keeps s0 (State.gBlock s xs n) := by
  unfold State.gBlock
  with_reducible repeat' first
    | assumption | apply State.modGchan_keeps | apply State.gDump_keeps | refine Keeps.foldlP ?_ (fun _ _ _ => ?_)
    | refine Keeps.foldl ?_ (fun _ _ _ => ?_) | refine Keeps.ite (fun _ => ?_) (fun _ => ?_)
    | refine Keeps.ite1 (fun _ => ?_) (fun _ => ?_) | extract_lets | intro _

theorem execCorrelatorMs_keeps {s0 s : State} (samples : List (BitVec 4)) (t : BitVec 32) (h : Keeps s0 s) : OutKeeps s0 (execCorrelatorMs samples t s) := by
  unfold execCorrelatorMs
  with_reducible repeat' first
    | assumption | apply OutKeeps.next | apply OutKeeps.done | apply State.modGnb_keeps | apply State.gBlock_keeps
    | apply whenGnb_keeps | refine Keeps.foldlP ?_ (fun _ _ _ => ?_) | refine Keeps.foldl ?_ (fun _ _ _ => ?_)
    | refine Keeps.ite (fun _ => ?_) (fun _ => ?_) | refine Keeps.ite1 (fun _ => ?_) (fun _ => ?_) | split | extract_lets
    | exact Keeps.field h | refine Keeps.field ?_ | intro _ | refine OutKeeps.ite (fun _ => ?_) (fun _ => ?_)

theorem State.gErrTake_keeps {s0 s : State} (m : Nat) (e : Int) (h : Keeps s0 s) : Keeps s0 (State.gErrTake s m e) := by
  unfold State.gErrTake
  with_reducible repeat' first
    | assumption | apply State.modGchan_keeps | extract_lets | exact Keeps.field h | refine Keeps.field ?_ | intro _

theorem State.gErrIn_keeps {s0 s : State} (m v : Nat) (h : Keeps s0 s) : Keeps s0 (State.gErrIn s m v) := by
  unfold State.gErrIn
  with_reducible repeat' first
    | assumption | apply State.gErrTake_keeps | refine Keeps.ite (fun _ => ?_) (fun _ => ?_)

theorem execFirmwareErrorDeadline_keeps {s0 s : State} (m : Fin 4) (h : Keeps s0 s) : OutKeeps s0 (execFirmwareErrorDeadline m s) := by
  unfold execFirmwareErrorDeadline
  with_reducible repeat' first
    | assumption | apply OutKeeps.next | apply OutKeeps.done | apply State.gErrTake_keeps | apply State.satInc_keeps
    | apply whenGnb_keeps | refine Keeps.ite (fun _ => ?_) (fun _ => ?_) | intro _
    | refine OutKeeps.ite (fun _ => ?_) (fun _ => ?_)

theorem State.gEpochEnd_keeps {s0 s : State} (h : Keeps s0 s) : Keeps s0 (State.gEpochEnd s) := by
  unfold State.gEpochEnd
  with_reducible repeat' first
    | assumption | apply State.modGnb_keeps | apply State.wr_keeps | refine Keeps.ofPair (by assumption) ?_
    | refine Keeps.ite (fun _ => ?_) (fun _ => ?_) | split | extract_lets | exact Keeps.field h | refine Keeps.field ?_
    | intro _

theorem execMeasurementLatch_keeps {s0 s : State} (cn0 : List (Fin 24 × Nat)) (h : Keeps s0 s) : OutKeeps s0 (execMeasurementLatch cn0 s) := by
  unfold execMeasurementLatch
  with_reducible repeat' first
    | assumption | apply OutKeeps.next | apply OutKeeps.done | apply State.gEpochEnd_keeps | apply State.modGchan_keeps
    | apply State.errLog_keeps | apply State.modGnb_keeps | apply State.wrB_keeps | apply State.wr_keeps | apply whenGnb_keeps
    | refine Keeps.ofPair (by assumption) ?_ | refine Keeps.foldlP ?_ (fun _ _ _ => ?_)
    | refine Keeps.foldl ?_ (fun _ _ _ => ?_) | refine Keeps.ite (fun _ => ?_) (fun _ => ?_)
    | refine Keeps.ite1 (fun _ => ?_) (fun _ => ?_) | split | extract_lets | exact Keeps.field h | refine Keeps.field ?_
    | intro _ | refine OutKeeps.ite (fun _ => ?_) (fun _ => ?_)

theorem State.gShow_keeps {s0 s : State} (e : GnbEpoch) (h : Keeps s0 s) : Keeps s0 (State.gShow s e) := by
  unfold State.gShow
  with_reducible repeat' first
    | assumption | apply State.wrAll_keeps | apply State.wr_keeps | refine Keeps.foldl ?_ (fun _ _ _ => ?_) | extract_lets
    | intro _

theorem State.gSetEpoch_keeps {s0 s : State} (e : GnbEpoch) (h : Keeps s0 s) : Keeps s0 (State.gSetEpoch s e) := by
  unfold State.gSetEpoch
  with_reducible repeat' first
    | assumption | apply State.modGnb_keeps | apply State.gShow_keeps | refine Keeps.ite (fun _ => ?_) (fun _ => ?_)
    | extract_lets | exact Keeps.field h | refine Keeps.field ?_ | intro _

theorem State.gSendPartner_keeps {s0 s : State} (e : GnbEpoch) (h : Keeps s0 s) : Keeps s0 (State.gSendPartner s e) := by
  unfold State.gSendPartner
  with_reducible repeat' first
    | assumption | apply State.mirPush_keeps | extract_lets

theorem execMeasurementPublish_keeps {s0 s : State} (h : Keeps s0 s) : OutKeeps s0 (execMeasurementPublish s) := by
  unfold execMeasurementPublish
  with_reducible repeat' first
    | assumption | apply OutKeeps.next | apply OutKeeps.done | apply State.gSendPartner_keeps | apply State.gSetEpoch_keeps
    | apply whenGnb_keeps | refine Keeps.ofPair (by assumption) ?_ | refine Keeps.ite (fun _ => ?_) (fun _ => ?_) | split
    | extract_lets | exact Keeps.field h | refine Keeps.field ?_ | intro _ | refine OutKeeps.ite (fun _ => ?_) (fun _ => ?_)

theorem State.gJump_keeps {s0 s : State} (m b : Rat) (resOk : Bool) (h : Keeps s0 s) : Keeps s0 (State.gJump s m b resOk).1 := by
  unfold State.gJump
  with_reducible repeat' first
    | assumption | apply State.modGnb_keeps | refine Keeps.ofPair (by assumption) ?_
    | refine Keeps.ite (fun _ => ?_) (fun _ => ?_) | refine Keeps.ite1 (fun _ => ?_) (fun _ => ?_) | split | extract_lets
    | exact Keeps.field h | refine Keeps.field ?_ | intro _ | dsimp only

theorem State.gPartner_keeps {s0 s : State} (h : Keeps s0 s) : Keeps s0 (State.gPartner s) := by
  unfold State.gPartner
  with_reducible repeat' first
    | assumption | apply State.gSetEpoch_keeps | apply State.errLog_keeps | apply State.wrB_keeps
    | refine Keeps.ofPair (by assumption) ?_ | refine Keeps.ite (fun _ => ?_) (fun _ => ?_) | split | extract_lets
    | exact Keeps.field h | refine Keeps.field ?_ | intro _

theorem State.gDeliver_keeps {s0 s : State} (m : Nat) (gps : Rat) (h : Keeps s0 s) : Keeps s0 (State.gDeliver s m gps) := by
  unfold State.gDeliver
  with_reducible repeat' first
    | assumption | apply State.offset_keeps | apply State.wr_keeps | refine Keeps.ite (fun _ => ?_) (fun _ => ?_)
    | extract_lets

theorem State.gTsol_keeps {s0 s : State} (m : Nat) (gps : Rat) (h : Keeps s0 s) : Keeps s0 (State.gTsol s m gps) := by
  unfold State.gTsol
  with_reducible repeat' first
    | assumption | apply State.wrAll_keeps | extract_lets

theorem execTimeSolution_keeps {s0 s : State} (week : BitVec 10) (sats : List GnbSat) (h : Keeps s0 s) : OutKeeps s0 (execTimeSolution week sats s) := by
  unfold execTimeSolution
  with_reducible repeat' first
    | assumption | apply OutKeeps.next | apply OutKeeps.done | apply State.gSetEpoch_keeps | apply State.gPartner_keeps
    | apply State.gDeliver_keeps | apply State.errLog_keeps | apply State.wrAll_keeps | apply State.gJump_keeps
    | apply State.gTsol_keeps | apply whenGnb_keeps | refine Keeps.ofPair (by assumption) ?_
    | refine Keeps.ite (fun _ => ?_) (fun _ => ?_) | refine Keeps.ite1 (fun _ => ?_) (fun _ => ?_) | split | extract_lets
    | exact Keeps.field h | refine Keeps.field ?_ | intro _ | refine OutKeeps.ite (fun _ => ?_) (fun _ => ?_)

theorem execGnssPartnerFrame_keeps {s0 s : State} (sweep : BitVec 32) (off : Rat) (prs : List (Nat × Nat)) (h : Keeps s0 s) : OutKeeps s0 (execGnssPartnerFrame sweep off prs s) := by
  unfold execGnssPartnerFrame
  with_reducible repeat' first
    | assumption | apply OutKeeps.next | apply OutKeeps.done | apply State.gPartner_keeps | apply State.modGnb_keeps
    | apply State.wr_keeps | apply whenGnb_keeps | refine Keeps.ofPair (by assumption) ?_
    | refine Keeps.ite (fun _ => ?_) (fun _ => ?_) | split | extract_lets | exact Keeps.field h | refine Keeps.field ?_
    | intro _ | refine OutKeeps.ite (fun _ => ?_) (fun _ => ?_)

theorem State.writeGnb_keeps {s0 s : State} (l : RegLoc) (v : Nat) (h : Keeps s0 s) : Keeps s0 (State.writeGnb s l v).1 := by
  unfold State.writeGnb
  with_reducible repeat' first
    | assumption | apply State.modGchan_keeps | apply State.gEnter_keeps | apply State.gnbRun_keeps | apply State.gErrIn_keeps
    | apply State.wrReg_keeps | apply State.gIdle_keeps | apply State.set1_keeps | apply State.wr_keeps
    | refine Keeps.ite (fun _ => ?_) (fun _ => ?_) | refine Keeps.ite1 (fun _ => ?_) (fun _ => ?_) | split | extract_lets
    | exact Keeps.field h | refine Keeps.field ?_ | intro _ | dsimp only

end Sys2Proof.Machine
end

