-- ==== Sys2Proof/Laws/KZfb.lean ====
section
/-!
SUPPORT. Laws/KZfb.lean: what each operation of Machine/Zfb.lean keeps (Laws/Keeps.lean).
-/
namespace Sys2Proof.Machine

theorem State.recallOne_keeps {s0 s : State} (id : Nat) (h : Keeps s0 s) : Keeps s0 (State.recallOne s id) := by
  unfold State.recallOne
  with_reducible repeat' first
    | assumption | apply State.sendFrame_keeps | apply State.satInc_keeps | apply State.modZfb_keeps
    | refine Keeps.ite (fun _ => ?_) (fun _ => ?_) | refine Keeps.ite1 (fun _ => ?_) (fun _ => ?_) | extract_lets
    | exact Keeps.field h | refine Keeps.field ?_ | intro _

theorem State.recallAll_keeps {s0 s : State} (h : Keeps s0 s) : Keeps s0 (State.recallAll s) := by
  unfold State.recallAll
  with_reducible repeat' first
    | assumption | apply State.recallOne_keeps | refine Keeps.foldlP ?_ (fun _ _ _ => ?_)
    | refine Keeps.foldl ?_ (fun _ _ _ => ?_) | intro _

theorem execRecallIssue_keeps {s0 s : State} (sweep : BitVec 32) (h : Keeps s0 s) : OutKeeps s0 (execRecallIssue sweep s) := by
  unfold execRecallIssue
  with_reducible repeat' first
    | assumption | apply OutKeeps.next | apply OutKeeps.done | apply State.recallOne_keeps | apply whenLive_keeps
    | refine Keeps.ite (fun _ => ?_) (fun _ => ?_) | extract_lets | intro _ | refine OutKeeps.ite (fun _ => ?_) (fun _ => ?_)

theorem execRecallRepeat_keeps {s0 s : State} (sweep : BitVec 32) (h : Keeps s0 s) : OutKeeps s0 (execRecallRepeat sweep s) := by
  unfold execRecallRepeat
  with_reducible repeat' first
    | assumption | apply OutKeeps.next | apply OutKeeps.done | apply State.recallOne_keeps | apply whenLive_keeps
    | refine Keeps.ofPair (by assumption) ?_ | refine Keeps.ite (fun _ => ?_) (fun _ => ?_) | split | intro _
    | refine OutKeeps.ite (fun _ => ?_) (fun _ => ?_)

theorem State.sendNotice_keeps {s0 s : State} (port : Nat) (h : Keeps s0 s) : Keeps s0 (State.sendNotice s port) := by
  unfold State.sendNotice
  with_reducible repeat' first
    | assumption | apply State.sendPort_keeps | refine Keeps.ite (fun _ => ?_) (fun _ => ?_) | extract_lets
    | exact Keeps.field h | refine Keeps.field ?_

theorem State.reverse_keeps {s0 s : State} (h : Keeps s0 s) : Keeps s0 (State.reverse s) := by
  unfold State.reverse
  with_reducible repeat' first
    | assumption | apply State.sendEvent_keeps | apply State.wrB_keeps

theorem State.protect_keeps {s0 s : State} (p : Nat) (h : Keeps s0 s) : Keeps s0 (State.protect s p) := by
  unfold State.protect
  with_reducible repeat' first
    | assumption | apply State.sendNotice_keeps | apply State.reverse_keeps | apply State.errLog_keeps
    | apply State.modZfb_keeps | apply State.wrB_keeps | refine Keeps.ite (fun _ => ?_) (fun _ => ?_) | split | extract_lets
    | exact Keeps.field h | refine Keeps.field ?_ | intro _

theorem State.rollAbort_keeps {s0 s : State} (h : Keeps s0 s) : Keeps s0 (State.rollAbort s) := by
  unfold State.rollAbort
  with_reducible repeat' first
    | assumption | apply State.modZfb_keeps | apply State.wrAll_keeps | refine Keeps.ofPair (by assumption) ?_ | split
    | extract_lets | exact Keeps.field h | refine Keeps.field ?_ | intro _

theorem State.portEvent_keeps {s0 s : State} (h : Keeps s0 s) : Keeps s0 (State.portEvent s) := by
  unfold State.portEvent
  with_reducible repeat' first
    | assumption | apply State.recallAll_keeps | apply State.rollAbort_keeps

theorem execPortBlockLock_keeps {s0 s : State} (p : Fin 4) (h : Keeps s0 s) : OutKeeps s0 (execPortBlockLock p s) := by
  unfold execPortBlockLock
  with_reducible repeat' first
    | assumption | apply OutKeeps.next | apply OutKeeps.done | apply State.sendEvent_keeps | apply State.rollAbort_keeps
    | apply State.wr_keeps | apply whenLive_keeps | refine Keeps.ite (fun _ => ?_) (fun _ => ?_) | intro _
    | refine OutKeeps.ite (fun _ => ?_) (fun _ => ?_)

theorem State.portOut_keeps {s0 s : State} (p st : Nat) (h : Keeps s0 s) : Keeps s0 (State.portOut s p st) := by
  unfold State.portOut
  with_reducible repeat' first
    | assumption | apply State.portEvent_keeps | apply State.modZport_keeps | apply State.protect_keeps
    | apply State.egress_keeps | apply State.wr_keeps | refine Keeps.foldl ?_ (fun _ _ _ => ?_) | extract_lets | intro _

theorem execPortLinkLoss_keeps {s0 s : State} (p : Fin 4) (h : Keeps s0 s) : OutKeeps s0 (execPortLinkLoss p s) := by
  unfold execPortLinkLoss
  with_reducible repeat' first
    | assumption | apply OutKeeps.next | apply OutKeeps.done | apply State.sendEvent_keeps | apply State.portOut_keeps
    | apply State.satInc_keeps | apply whenLive_keeps | refine Keeps.ite (fun _ => ?_) (fun _ => ?_) | split | extract_lets
    | intro _ | refine OutKeeps.ite (fun _ => ?_) (fun _ => ?_)

theorem execGuardTrip_keeps {s0 s : State} (p : Fin 4) (long : Bool) (kib bad : Nat) (h : Keeps s0 s) : OutKeeps s0 (execGuardTrip p long kib bad s) := by
  unfold execGuardTrip
  with_reducible repeat' first
    | assumption | apply OutKeeps.next | apply OutKeeps.done | apply State.sendEvent_keeps | apply State.portOut_keeps
    | apply State.errLog_keeps | apply whenLive_keeps | refine Keeps.ite (fun _ => ?_) (fun _ => ?_) | split | extract_lets
    | intro _ | refine OutKeeps.ite (fun _ => ?_) (fun _ => ?_)

theorem execGuardHoldExpiry_keeps {s0 s : State} (p : Fin 4) (h : Keeps s0 s) : OutKeeps s0 (execGuardHoldExpiry p s) := by
  unfold execGuardHoldExpiry
  with_reducible repeat' first
    | assumption | apply OutKeeps.next | apply OutKeeps.done | apply State.satInc_keeps | apply State.wr_keeps
    | apply whenLive_keeps | refine Keeps.ite (fun _ => ?_) (fun _ => ?_) | intro _
    | refine OutKeeps.ite (fun _ => ?_) (fun _ => ?_)

theorem execReversalNotice_keeps {s0 s : State} (h : Keeps s0 s) : OutKeeps s0 (execReversalNotice s) := by
  unfold execReversalNotice
  with_reducible repeat' first
    | assumption | apply OutKeeps.next | apply OutKeeps.done | apply State.sendPort_keeps | apply State.reverse_keeps
    | apply State.modZfb_keeps | apply State.set1_keeps | apply whenLive_keeps | refine Keeps.ofPair (by assumption) ?_
    | refine Keeps.ite (fun _ => ?_) (fun _ => ?_) | split | extract_lets | exact Keeps.field h | refine Keeps.field ?_
    | intro _ | refine OutKeeps.ite (fun _ => ?_) (fun _ => ?_)

theorem State.txTail_keeps {s0 s : State} (t : Nat) (h : Keeps s0 s) : Keeps s0 (State.txTail s t).1 := by
  unfold State.txTail
  with_reducible repeat' first
    | assumption | apply State.set1_keeps | apply State.wr_keeps | refine Keeps.ite (fun _ => ?_) (fun _ => ?_)
    | refine Keeps.ite1 (fun _ => ?_) (fun _ => ?_) | dsimp only

theorem execTxRingSubmit_keeps {s0 s : State} (tail : Fin 64) (h : Keeps s0 s) : OutKeeps s0 (execTxRingSubmit tail s) := by
  unfold execTxRingSubmit
  with_reducible repeat' first
    | assumption | apply OutKeeps.next | apply OutKeeps.done | apply State.txTail_keeps | apply whenLive_keeps | intro _

theorem execRxRingHead_keeps {s0 s : State} (head : Fin 64) (h : Keeps s0 s) : OutKeeps s0 (execRxRingHead head s) := by
  unfold execRxRingHead
  with_reducible repeat' first
    | assumption | apply OutKeeps.next | apply OutKeeps.done | apply State.wr_keeps | apply whenLive_keeps | intro _

theorem State.descWords_keeps {s0 : State} (n : Nat) {s : State} (w : Nat) (h : Keeps s0 s) : Keeps s0 (State.descWords n s w).1 := by
  induction n generalizing s w with
  | zero => unfold State.descWords; exact h
  | succ n ih =>
    unfold State.descWords
    with_reducible repeat' first
      | assumption | apply ih | apply State.getWord_keeps | refine Keeps.ofPair (by assumption) ?_ | split | extract_lets
      | dsimp only

theorem State.takeDesc_keeps {s0 s : State} (h : Keeps s0 s) : Keeps s0 (State.takeDesc s) := by
  unfold State.takeDesc
  with_reducible repeat' first
    | assumption | apply State.sendFrame_keeps | apply State.descWords_keeps | apply State.getWords_keeps
    | apply State.wr_keeps | refine Keeps.ofPair (by assumption) ?_ | refine Keeps.ite (fun _ => ?_) (fun _ => ?_) | split
    | extract_lets

theorem State.takeDescs_keeps {s0 : State} (n : Nat) {s : State} (h : Keeps s0 s) : Keeps s0 (State.takeDescs n s ) := by
  induction n generalizing s  with
  | zero => unfold State.takeDescs; exact h
  | succ n ih =>
    unfold State.takeDescs
    with_reducible repeat' first
      | assumption | apply ih | apply State.takeDesc_keeps | split | extract_lets | dsimp only

theorem State.pathOut_keeps {s0 s : State} (q : Nat) (f : ZFrame) (h : Keeps s0 s) : Keeps s0 (State.pathOut s q f) := by
  unfold State.pathOut
  with_reducible repeat' first
    | assumption | apply State.enqueue_keeps | apply State.noRoute_keeps | refine Keeps.ite (fun _ => ?_) (fun _ => ?_)

theorem State.pathFrame_keeps {s0 s : State} (p : Nat) (f : ZFrame) (h : Keeps s0 s) : Keeps s0 (State.pathFrame s p f) := by
  unfold State.pathFrame
  with_reducible repeat' first
    | assumption | apply State.deliverOk_keeps | apply State.pathOut_keeps | refine Keeps.ofPair (by assumption) ?_
    | refine Keeps.ite (fun _ => ?_) (fun _ => ?_) | extract_lets | exact Keeps.field h | refine Keeps.field ?_ | dsimp only

theorem State.wrapped_keeps {s0 s : State} (p : Nat) (f : ZFrame) (h : Keeps s0 s) : Keeps s0 (State.wrapped s p f) := by
  unfold State.wrapped
  with_reducible repeat' first
    | assumption | apply State.deliverHalf_keeps | apply State.deliverOk_keeps | apply State.seenCast_keeps
    | apply State.noRoute_keeps | apply State.groupOn_keeps | apply State.egress_keeps
    | refine Keeps.ofPair (by assumption) ?_ | refine Keeps.foldl ?_ (fun _ _ _ => ?_)
    | refine Keeps.ite (fun _ => ?_) (fun _ => ?_) | split | extract_lets | exact Keeps.field h | refine Keeps.field ?_
    | intro _

theorem State.routed_keeps {s0 s : State} (p : Nat) (f : ZFrame) (h : Keeps s0 s) : Keeps s0 (State.routed s p f) := by
  unfold State.routed
  with_reducible repeat' first
    | assumption | apply State.deliverHalf_keeps | apply State.forwardAll_keeps | apply State.forwardId_keeps
    | apply State.deliverOk_keeps | apply State.seenCast_keeps | apply State.groupOn_keeps
    | refine Keeps.ite (fun _ => ?_) (fun _ => ?_)

theorem State.accept_keeps {s0 s : State} (p : Nat) (f : ZFrame) (h : Keeps s0 s) : Keeps s0 (State.accept s p f) := by
  unfold State.accept
  with_reducible repeat' first
    | assumption | apply State.deliverOk_keeps | apply State.pathFrame_keeps | apply State.wrapped_keeps
    | apply State.routed_keeps | refine Keeps.ite (fun _ => ?_) (fun _ => ?_)

theorem execFrameReceive_keeps {s0 s : State} (p : Fin 4) (hdr : WireWord) (words : List WireWord) (ends : Bool) (h : Keeps s0 s) : OutKeeps s0 (execFrameReceive p hdr words ends s) := by
  unfold execFrameReceive
  with_reducible repeat' first
    | assumption | apply OutKeeps.next | apply OutKeeps.done | apply State.hdrDrop_keeps | apply State.satInc_keeps
    | apply State.accept_keeps | apply State.set1_keeps | apply whenLive_keeps | refine Keeps.ofPair (by assumption) ?_
    | refine Keeps.ite (fun _ => ?_) (fun _ => ?_) | split | extract_lets | exact Keeps.field h | refine Keeps.field ?_
    | intro _ | dsimp only | refine OutKeeps.ite (fun _ => ?_) (fun _ => ?_)

theorem State.txNext_keeps {s0 : State} (n : Nat) {s : State} (p : Nat) (h : Keeps s0 s) : Keeps s0 (State.txNext n s p) := by
  induction n generalizing s p with
  | zero => unfold State.txNext; exact h
  | succ n ih =>
    unfold State.txNext
    with_reducible repeat' first
      | assumption | apply ih | apply State.modZport_keeps | apply State.tsqPush_keeps | apply State.egress_keeps
      | apply State.count_keeps | apply State.zDisc_keeps | apply State.set1_keeps | refine Keeps.ofPair (by assumption) ?_
      | refine Keeps.ite (fun _ => ?_) (fun _ => ?_) | refine Keeps.ite1 (fun _ => ?_) (fun _ => ?_) | split | extract_lets
      | dsimp only

theorem execFrameTransmitStart_keeps {s0 s : State} (p : Fin 4) (h : Keeps s0 s) : OutKeeps s0 (execFrameTransmitStart p s) := by
  unfold execFrameTransmitStart
  with_reducible repeat' first
    | assumption | apply OutKeeps.next | apply OutKeeps.done | apply State.takeDescs_keeps | apply State.txNext_keeps
    | apply whenLive_keeps | refine Keeps.ite (fun _ => ?_) (fun _ => ?_) | extract_lets | intro _
    | refine OutKeeps.ite (fun _ => ?_) (fun _ => ?_)

theorem State.takeEvent_keeps {s0 s : State} (type : Nat) (k : State → Nat → Nat → State) (h : Keeps s0 s) (hf : ∀ t a b, Keeps s0 t → Keeps s0 (k t a b)) : Keeps s0 (State.takeEvent s type k) := by
  unfold State.takeEvent
  with_reducible repeat' first
    | assumption | apply hf | apply State.logEvent_keeps | apply State.modZfb_keeps | refine Keeps.ofPair (by assumption) ?_
    | refine Keeps.ite (fun _ => ?_) (fun _ => ?_) | split | extract_lets | exact Keeps.field h | refine Keeps.field ?_
    | intro _

theorem execEventGuardTrip_keeps {s0 s : State} (h : Keeps s0 s) : OutKeeps s0 (execEventGuardTrip s) := by
  unfold execEventGuardTrip
  with_reducible repeat' first
    | assumption | apply OutKeeps.next | apply OutKeeps.done | apply State.portEvent_keeps | apply State.takeEvent_keeps
    | apply whenLive_keeps | intro _

theorem execEventNewNode_keeps {s0 s : State} (h : Keeps s0 s) : OutKeeps s0 (execEventNewNode s) := by
  unfold execEventNewNode
  with_reducible repeat' first
    | assumption | apply OutKeeps.next | apply OutKeeps.done | apply State.takeEvent_keeps | apply whenLive_keeps | intro _

theorem State.endpointWrite_keeps {s0 s : State} (e src i id r : Nat) (cse : Option Nat) (h : Keeps s0 s) : Keeps s0 (State.endpointWrite s e src i id r cse) := by
  unfold State.endpointWrite
  with_reducible repeat' first
    | assumption | apply State.putWord_keeps | apply State.satInc_keeps | refine Keeps.ofPair (by assumption) ?_
    | refine Keeps.ite (fun _ => ?_) (fun _ => ?_) | split | extract_lets

theorem State.endpointFrame_keeps {s0 s : State} (src id : Nat) (b : Bytes) (late : Bool) (h : Keeps s0 s) :
    Keeps s0 (State.endpointFrame s src id b late) := by
  unfold State.endpointFrame
  dsimp only
  refine Keeps.foldl (Keeps.ite (fun _ => Keeps.upd h (Nat.le_refl _) (by exact ⟨rfl, rfl⟩)) (fun _ => h)) (fun t x ht => ?_)
  split
  · exact State.endpointWrite_keeps _ _ _ _ _ _ ht
  · exact ht

theorem execRecallReceive_keeps {s0 s : State} (h : Keeps s0 s) : OutKeeps s0 (execRecallReceive s) := by
  unfold execRecallReceive
  with_reducible repeat' first
    | assumption | apply OutKeeps.next | apply OutKeeps.done | apply State.sendFrame_keeps | apply State.satInc_keeps
    | apply State.modZfb_keeps | apply whenLive_keeps | refine Keeps.ofPair (by assumption) ?_
    | refine Keeps.foldl ?_ (fun _ _ _ => ?_) | refine Keeps.ite (fun _ => ?_) (fun _ => ?_) | split | extract_lets
    | exact Keeps.field h | refine Keeps.field ?_ | intro _ | refine OutKeeps.ite (fun _ => ?_) (fun _ => ?_)

theorem State.applyItem_keeps {s0 s : State} (src : Nat) (i : CmdItem) (h : Keeps s0 s) : Keeps s0 (State.applyItem s src i) := by
  unfold State.applyItem
  with_reducible repeat' first
    | assumption | apply State.modZfb_keeps | refine Keeps.ite (fun _ => ?_) (fun _ => ?_) | exact Keeps.field h
    | refine Keeps.field ?_ | intro _

theorem State.takeItem_keeps {s0 s : State} (src : Nat) (i : CmdItem) (h : Keeps s0 s) : Keeps s0 (State.takeItem s src i) := by
  unfold State.takeItem
  with_reducible repeat' first
    | assumption | apply State.applyItem_keeps | apply State.modZfb_keeps | refine Keeps.ite (fun _ => ?_) (fun _ => ?_)
    | split | exact Keeps.field h | refine Keeps.field ?_ | intro _

theorem execCommandFrameReceive_keeps {s0 s : State} (h : Keeps s0 s) : OutKeeps s0 (execCommandFrameReceive s) := by
  unfold execCommandFrameReceive
  with_reducible repeat' first
    | assumption | apply OutKeeps.next | apply OutKeeps.done | apply State.takeItem_keeps | apply State.modZfb_keeps
    | apply whenLive_keeps | refine Keeps.ofPair (by assumption) ?_ | refine Keeps.foldl ?_ (fun _ _ _ => ?_)
    | refine Keeps.ite (fun _ => ?_) (fun _ => ?_) | split | extract_lets | exact Keeps.field h | refine Keeps.field ?_
    | intro _ | refine OutKeeps.ite (fun _ => ?_) (fun _ => ?_)

theorem execCommandItemEffect_keeps {s0 s : State} (h : Keeps s0 s) : OutKeeps s0 (execCommandItemEffect s) := by
  unfold execCommandItemEffect
  with_reducible repeat' first
    | assumption | apply OutKeeps.next | apply OutKeeps.done | apply State.applyItem_keeps | apply State.modZfb_keeps
    | apply State.erase_keeps | apply whenLive_keeps | refine Keeps.ofPair (by assumption) ?_
    | refine Keeps.ite (fun _ => ?_) (fun _ => ?_) | refine Keeps.ite1 (fun _ => ?_) (fun _ => ?_) | split
    | exact Keeps.field h | refine Keeps.field ?_ | intro _ | refine OutKeeps.ite (fun _ => ?_) (fun _ => ?_)

theorem State.takeHanded_keeps {s0 s : State} (op : Nat) (h : Keeps s0 s) : Keeps s0 (State.takeHanded s op).1 := by
  unfold State.takeHanded
  with_reducible repeat' first
    | assumption | apply State.modZfb_keeps | apply State.erase_keeps | refine Keeps.ofPair (by assumption) ?_ | split
    | exact Keeps.field h | refine Keeps.field ?_ | intro _ | dsimp only

end Sys2Proof.Machine
end

