-- ==== Sys2Proof/Laws/KFus.lean ====
section
/-!
SUPPORT. Laws/KFus.lean: what each operation of Machine/Fus.lean keeps (Laws/Keeps.lean).
-/
namespace Sys2Proof.Machine

theorem State.modFus_keeps {s0 s : State} (f : FusState → FusState) (h : Keeps s0 s) : Keeps s0 (State.modFus s f) := by
  unfold State.modFus
  with_reducible repeat' first
    | assumption | exact Keeps.field h | refine Keeps.field ?_

theorem State.modFslot_keeps {s0 s : State} (i : Nat) (f : FusSlot → FusSlot) (h : Keeps s0 s) : Keeps s0 (State.modFslot s i f) := by
  unfold State.modFslot
  with_reducible repeat' first
    | assumption | apply State.modFus_keeps | exact Keeps.field h | refine Keeps.field ?_ | intro _

theorem State.modFgroup_keeps {s0 s : State} (g : Nat) (f : FusGroup → FusGroup) (h : Keeps s0 s) : Keeps s0 (State.modFgroup s g f) := by
  unfold State.modFgroup
  with_reducible repeat' first
    | assumption | apply State.modFus_keeps | exact Keeps.field h | refine Keeps.field ?_ | intro _

theorem State.modFtrack_keeps {s0 s : State} (n : Nat) (f : FusTrack → FusTrack) (h : Keeps s0 s) : Keeps s0 (State.modFtrack s n f) := by
  unfold State.modFtrack
  with_reducible repeat' first
    | assumption | apply State.modFus_keeps | exact Keeps.field h | refine Keeps.field ?_ | intro _

theorem State.fusLive_keeps {s0 s : State} (h : Keeps s0 s) : Keeps s0 (State.fusLive s) := by
  unfold State.fusLive
  with_reducible repeat' first
    | assumption | apply State.wrAll_keeps | intro _

theorem State.trackZero_keeps {s0 s : State} (n : Nat) (h : Keeps s0 s) : Keeps s0 (State.trackZero s n) := by
  unfold State.trackZero
  with_reducible repeat' first
    | assumption | apply State.wrAll_keeps

theorem State.fusRun_keeps {s0 s : State} (run : Bool) (h : Keeps s0 s) : Keeps s0 (State.fusRun s run) := by
  unfold State.fusRun
  with_reducible repeat' first
    | assumption | apply State.trackZero_keeps | apply State.fusLive_keeps | apply State.modFus_keeps | apply State.wrB_keeps
    | refine Keeps.foldl ?_ (fun _ _ _ => ?_) | refine Keeps.ite (fun _ => ?_) (fun _ => ?_) | extract_lets
    | exact Keeps.field h | refine Keeps.field ?_ | intro _

theorem execFusRun_keeps {s0 s : State} (run : Bool) (h : Keeps s0 s) : OutKeeps s0 (execFusRun run s) := by
  unfold execFusRun
  with_reducible repeat' first
    | assumption | apply OutKeeps.next | apply OutKeeps.done | apply State.fusRun_keeps | apply State.set1_keeps
    | apply whenLive_keeps | refine Keeps.ite (fun _ => ?_) (fun _ => ?_) | intro _
    | refine OutKeeps.ite (fun _ => ?_) (fun _ => ?_)

theorem execFusRefEnable_keeps {s0 s : State} (i : Fin 34) (en : Bool) (h : Keeps s0 s) : OutKeeps s0 (execFusRefEnable i en s) := by
  unfold execFusRefEnable
  with_reducible repeat' first
    | assumption | apply OutKeeps.next | apply OutKeeps.done | apply State.wrB_keeps | apply whenLive_keeps | intro _

theorem State.fusRej_keeps {s0 s : State} (h : Keeps s0 s) : Keeps s0 (State.fusRej s) := by
  unfold State.fusRej
  with_reducible repeat' first
    | assumption | apply State.satInc_keeps

theorem State.fusCommit_keeps {s0 s : State} (b : Bytes) (late : Bool) (h : Keeps s0 s) : Keeps s0 (State.fusCommit s b late).1 := by
  unfold State.fusCommit
  with_reducible repeat' first
    | assumption | apply State.satInc_keeps | apply State.modFus_keeps | apply State.fusRej_keeps | apply State.count_keeps
    | apply State.set1_keeps | apply State.ring_keeps | refine Keeps.ite (fun _ => ?_) (fun _ => ?_)
    | refine Keeps.ite1 (fun _ => ?_) (fun _ => ?_) | split | extract_lets | exact Keeps.field h | refine Keeps.field ?_
    | intro _ | dsimp only

theorem execFusSampleCommit_keeps {s0 s : State} (h : Keeps s0 s) : OutKeeps s0 (execFusSampleCommit s) := by
  unfold execFusSampleCommit
  with_reducible repeat' first
    | assumption | apply OutKeeps.next | apply OutKeeps.done | apply State.fusCommit_keeps | apply State.modZfb_keeps
    | apply whenLive_keeps | refine Keeps.ofPair (by assumption) ?_ | refine Keeps.foldlP ?_ (fun _ _ _ => ?_)
    | refine Keeps.foldl ?_ (fun _ _ _ => ?_) | refine Keeps.ite (fun _ => ?_) (fun _ => ?_)
    | refine Keeps.ite1 (fun _ => ?_) (fun _ => ?_) | split | extract_lets | exact Keeps.field h | refine Keeps.field ?_
    | intro _ | refine OutKeeps.ite (fun _ => ?_) (fun _ => ?_)

theorem State.fusMark_keeps {s0 s : State} (x : FusSample) (how : Nat) (h : Keeps s0 s) : Keeps s0 (State.fusMark s x how) := by
  unfold State.fusMark
  with_reducible repeat' first
    | assumption | apply State.modFus_keeps | apply State.ring_keeps | refine Keeps.ite (fun _ => ?_) (fun _ => ?_)
    | exact Keeps.field h | refine Keeps.field ?_ | intro _

theorem State.fusPush_keeps {s0 s : State} (j t : Int) (e : Vec × Mat) (h : Keeps s0 s) : Keeps s0 (State.fusPush s j t e) := by
  unfold State.fusPush
  with_reducible repeat' first
    | assumption | apply State.modFus_keeps | exact Keeps.field h | refine Keeps.field ?_ | intro _

theorem State.fusFill_keeps {s0 s : State} (j : Int) (h : Keeps s0 s) : Keeps s0 (State.fusFill s j) := by
  unfold State.fusFill
  with_reducible repeat' first
    | assumption | apply State.fusPush_keeps | refine Keeps.ofPair (by assumption) ?_
    | refine Keeps.foldl ?_ (fun _ _ _ => ?_) | split | extract_lets | intro _

theorem State.fusPairs_keeps {s0 s : State} (g : Nat) (votes : List (Nat × Rat × Rat)) (av : List FusSample) (h : Keeps s0 s) : Keeps s0 (State.fusPairs s g votes av) := by
  unfold State.fusPairs
  with_reducible repeat' first
    | assumption | apply State.modFus_keeps | refine Keeps.foldlP ?_ (fun _ _ _ => ?_)
    | refine Keeps.foldl ?_ (fun _ _ _ => ?_) | refine Keeps.ite (fun _ => ?_) (fun _ => ?_)
    | refine Keeps.ite1 (fun _ => ?_) (fun _ => ?_) | extract_lets | exact Keeps.field h | refine Keeps.field ?_ | intro _

theorem State.fusContra_keeps {s0 s : State} (g : Nat) (si : Int) (h : Keeps s0 s) : Keeps s0 (State.fusContra s g si) := by
  unfold State.fusContra
  with_reducible repeat' first
    | assumption | apply State.modFgroup_keeps | apply State.alarmLog_keeps | apply State.stateLog_keeps
    | refine Keeps.ofPair (by assumption) ?_ | split | extract_lets | exact Keeps.field h | refine Keeps.field ?_ | intro _

theorem State.fusCoast_keeps {s0 s : State} (g n : Nat) (si : Int) (av : List FusSample) (h : Keeps s0 s) : Keeps s0 (State.fusCoast s g n si av) := by
  unfold State.fusCoast
  with_reducible repeat' first
    | assumption | apply State.modFgroup_keeps | apply State.alarmLog_keeps | apply State.stateLog_keeps
    | apply State.modFslot_keeps | refine Keeps.foldl ?_ (fun _ _ _ => ?_) | refine Keeps.ite (fun _ => ?_) (fun _ => ?_)
    | split | extract_lets | exact Keeps.field h | refine Keeps.field ?_ | intro _

theorem State.fusRef_keeps {s0 s : State} (i : Nat) (beyond : Bool) (h : Keeps s0 s) : Keeps s0 (State.fusRef s i beyond) := by
  unfold State.fusRef
  with_reducible repeat' first
    | assumption | apply State.alarmLog_keeps | apply State.modFslot_keeps | refine Keeps.ite (fun _ => ?_) (fun _ => ?_)
    | extract_lets | exact Keeps.field h | refine Keeps.field ?_ | intro _

theorem State.fusNoTarget_keeps {s0 s : State} (h : Keeps s0 s) : Keeps s0 (State.fusNoTarget s) := by
  unfold State.fusNoTarget
  with_reducible repeat' first
    | assumption | apply State.modFgroup_keeps | exact Keeps.field h | refine Keeps.field ?_ | intro _

theorem State.fusGroup_keeps {s0 s : State} (g : Nat) (w0 : Vec) (si : Int) (h : Keeps s0 s) : Keeps s0 (State.fusGroup s g w0 si).1 := by
  unfold State.fusGroup
  with_reducible repeat' first
    | assumption | apply State.fusNoTarget_keeps | apply State.modFgroup_keeps | apply State.fusContra_keeps
    | apply State.stateLog_keeps | apply State.modFslot_keeps | apply State.fusPairs_keeps | apply State.fusCoast_keeps
    | apply State.fusRef_keeps | refine Keeps.ofPair (by assumption) ?_ | refine Keeps.foldlP ?_ (fun _ _ _ => ?_)
    | refine Keeps.foldl ?_ (fun _ _ _ => ?_) | refine Keeps.ite (fun _ => ?_) (fun _ => ?_)
    | refine Keeps.ite1 (fun _ => ?_) (fun _ => ?_) | split | extract_lets | exact Keeps.field h | refine Keeps.field ?_
    | intro _ | dsimp only

theorem State.fusCarried_keeps {s0 s : State} (b : FusBallot) (h : Keeps s0 s) : Keeps s0 (State.fusCarried s b) := by
  unfold State.fusCarried
  with_reducible repeat' first
    | assumption | apply State.modFus_keeps | refine Keeps.ite (fun _ => ?_) (fun _ => ?_)
    | refine Keeps.ite1 (fun _ => ?_) (fun _ => ?_) | split | extract_lets | exact Keeps.field h | refine Keeps.field ?_
    | intro _

theorem State.fusLatest_keeps {s0 s : State} (l : List FusSample) (h : Keeps s0 s) : Keeps s0 (State.fusLatest s l) := by
  unfold State.fusLatest
  with_reducible repeat' first
    | assumption | apply State.modFslot_keeps | refine Keeps.ofPair (by assumption) ?_
    | refine Keeps.foldl ?_ (fun _ _ _ => ?_) | refine Keeps.ite (fun _ => ?_) (fun _ => ?_) | split | extract_lets
    | exact Keeps.field h | refine Keeps.field ?_ | intro _

theorem State.trackPredict_keeps {s0 s : State} (si : Int) (h : Keeps s0 s) : Keeps s0 (State.trackPredict s si) := by
  unfold State.trackPredict
  with_reducible repeat' first
    | assumption | apply State.modFtrack_keeps | refine Keeps.foldl ?_ (fun _ _ _ => ?_)
    | refine Keeps.ite (fun _ => ?_) (fun _ => ?_) | split | extract_lets | intro _

theorem State.trackShow_keeps {s0 s : State} (n : Nat) (h : Keeps s0 s) : Keeps s0 (State.trackShow s n) := by
  unfold State.trackShow
  with_reducible repeat' first
    | assumption | apply State.wrAll_keeps | refine Keeps.ite (fun _ => ?_) (fun _ => ?_) | extract_lets

theorem State.trackFree_keeps {s0 s : State} (n : Nat) (h : Keeps s0 s) : Keeps s0 (State.trackFree s n) := by
  unfold State.trackFree
  with_reducible repeat' first
    | assumption | apply State.modFtrack_keeps | apply State.trackZero_keeps | intro _

theorem State.trackNew_keeps {s0 s : State} (si : Int) (r : FusRel) (h : Keeps s0 s) : Keeps s0 (State.trackNew s si r).1 := by
  unfold State.trackNew
  with_reducible repeat' first
    | assumption | apply State.modFtrack_keeps | apply State.fusRej_keeps | apply State.wrAll_keeps | apply State.set1_keeps
    | refine Keeps.ofPair (by assumption) ?_ | split | extract_lets | exact Keeps.field h | refine Keeps.field ?_ | intro _
    | dsimp only

theorem State.slotTrack_keeps {s0 s : State} (r : FusRel) (n : Option Nat) (late : Bool) (h : Keeps s0 s) : Keeps s0 (State.slotTrack s r n late) := by
  unfold State.slotTrack
  with_reducible repeat' first
    | assumption | apply State.modFslot_keeps | refine Keeps.ofPair (by assumption) ?_
    | refine Keeps.ite (fun _ => ?_) (fun _ => ?_) | split | extract_lets | exact Keeps.field h | refine Keeps.field ?_
    | intro _

theorem State.assocOne_keeps {s0 : State} (si j : Int) (cand : List (FusRel × Option (Nat × Rat))) {a : FusAssoc}
    (e : FusRel × Option (Nat × Rat)) (h : Keeps s0 a.st) : Keeps s0 (State.assocOne si j cand a e).st := by
  unfold State.assocOne
  have h1 := State.trackNew_keeps si e.1 h
  have h2 := fun n (b : Bool) => State.slotTrack_keeps e.1 n b h
  have h3 := fun n (b : Bool) => State.slotTrack_keeps e.1 n b h1
  extract_lets s r late beaten give q begin'
  have hg : ∀ n, Keeps s0 (give n).st := fun n => h2 (some n) late
  have hb : Keeps s0 (begin' ()).st := h3 _ late
  repeat' first | exact h | exact hg _ | exact hb | split

theorem State.fusAssoc_keeps {s0 s : State} (si j : Int) (l : List FusRel) (h : Keeps s0 s) : Keeps s0 (State.fusAssoc s si j l).st := by
  have key : ∀ (cand l : List (FusRel × Option (Nat × Rat))) (a : FusAssoc), Keeps s0 a.st →
      Keeps s0 (l.foldl (State.assocOne si j cand) a).st := by
    intro cand l
    induction l with
    | nil => exact fun _ h => h
    | cons e l ih => exact fun a h => ih _ (State.assocOne_keeps si j cand e h)
  exact key _ _ _ h

theorem State.trackHit_keeps {s0 s : State} (n : Nat) (t : Int) (h : Keeps s0 s) : Keeps s0 (State.trackHit s n t) := by
  unfold State.trackHit
  with_reducible repeat' first
    | assumption | apply State.modFtrack_keeps | apply State.wrAll_keeps | apply State.wr_keeps
    | refine Keeps.ite (fun _ => ?_) (fun _ => ?_) | extract_lets | exact Keeps.field h | refine Keeps.field ?_ | intro _

theorem State.trackApply_keeps {s0 s : State} (si : Int) (r : FusRel) (n : Nat) (h : Keeps s0 s) : Keeps s0 (State.trackApply s si r n) := by
  unfold State.trackApply
  with_reducible repeat' first
    | assumption | apply State.modFtrack_keeps | refine Keeps.ite (fun _ => ?_) (fun _ => ?_) | intro _

theorem State.trackStep_keeps {s0 s : State} (n : Nat) (si : Int) (hit : Bool) (h : Keeps s0 s) : Keeps s0 (State.trackStep s n si hit) := by
  unfold State.trackStep
  with_reducible repeat' first
    | assumption | apply State.modFtrack_keeps | apply State.trackShow_keeps | apply State.trackFree_keeps
    | apply State.alarmLog_keeps | apply State.wr_keeps | refine Keeps.ofPair (by assumption) ?_
    | refine Keeps.ite (fun _ => ?_) (fun _ => ?_) | split | extract_lets | exact Keeps.field h | refine Keeps.field ?_
    | intro _

theorem State.fusApply_keeps {s0 s : State} (x : FusSample) (b : FusBallot) (a : FusAcc) (h : Keeps s0 s) : Keeps s0 (State.fusApply s x b a).1 := by
  unfold State.fusApply
  with_reducible repeat' first
    | assumption | apply State.modFgroup_keeps | apply State.alarmLog_keeps | apply State.fusMark_keeps
    | refine Keeps.ite (fun _ => ?_) (fun _ => ?_) | refine Keeps.ite1 (fun _ => ?_) (fun _ => ?_) | split | extract_lets
    | exact Keeps.field h | refine Keeps.field ?_ | intro _ | dsimp only

theorem State.fusVessel_keeps {s0 s : State} (l : List FusSample) (bs : List FusBallot) (a : FusAcc) (h : Keeps s0 s) : Keeps s0 (State.fusVessel s l bs a).1 := by
  unfold State.fusVessel
  with_reducible repeat' first
    | assumption | apply State.fusApply_keeps | apply State.fusMark_keeps | refine Keeps.foldlP ?_ (fun _ _ _ => ?_)
    | refine Keeps.foldl ?_ (fun _ _ _ => ?_) | refine Keeps.ite (fun _ => ?_) (fun _ => ?_)
    | refine Keeps.ite1 (fun _ => ?_) (fun _ => ?_) | extract_lets | intro _ | dsimp only

theorem State.fusRedo_keeps {s0 s : State} (j : Int) (h : Keeps s0 s) : Keeps s0 (State.fusRedo s j) := by
  unfold State.fusRedo
  with_reducible repeat' first
    | assumption | apply State.reverse_keeps | apply State.modFus_keeps | apply State.ring_keeps
    | refine Keeps.ofPair (by assumption) ?_ | refine Keeps.foldlP ?_ (fun _ _ _ => ?_)
    | refine Keeps.foldl ?_ (fun _ _ _ => ?_) | refine Keeps.ite (fun _ => ?_) (fun _ => ?_)
    | refine Keeps.ite1 (fun _ => ?_) (fun _ => ?_) | split | extract_lets | exact Keeps.field h | refine Keeps.field ?_
    | intro _

theorem State.fusLateNo_keeps {s0 s : State} (x : FusSample) (h : Keeps s0 s) : Keeps s0 (State.fusLateNo s x) := by
  unfold State.fusLateNo
  with_reducible repeat' first
    | assumption | apply State.fusMark_keeps | apply State.fusRej_keeps | apply State.set1_keeps
    | refine Keeps.ite (fun _ => ?_) (fun _ => ?_) | split | extract_lets

theorem State.fusLate_keeps {s0 : State} {q : State × FusAcc} (x : FusSample) (h : Keeps s0 q.1) : Keeps s0 (State.fusLate q x).1 := by
  unfold State.fusLate
  extract_lets
  split
  · exact h
  split
  · exact State.fusRedo_keeps _ (State.satInc_keeps _ (State.fusMark_keeps _ _ h))
  · exact State.fusLateNo_keeps _ h

theorem State.fusTarget_keeps {s0 : State} (si j : Int) (b : FusBallot) {q : State × FusAcc} (e : FusRel × Nat) (h : Keeps s0 q.1) :
    Keeps s0 (State.fusTarget si j b q e).1 := by
  unfold State.fusTarget
  have h1 := State.trackApply_keeps si e.1 e.2 h
  extract_lets s x n des gr hh kk src v k sg far r t u
  split
  · split
    · exact State.satInc_keeps _ (State.fusMark_keeps _ _ h1)
    · exact State.fusLateNo_keeps _ h
  split
  · exact State.fusMark_keeps _ _ h
  have ht : Keeps s0 t := by
    dsimp only [t]
    split
    · exact State.alarmLog_keeps _ _ _ (State.modFtrack_keeps _ _ h)
    · exact h1
  have hu : Keeps s0 u := by
    dsimp only [u]
    split
    · exact State.modFgroup_keeps _ _ ht
    · exact ht
  exact State.fusMark_keeps _ _ hu

theorem State.fusLogRefs_keeps {s0 s : State} (old : List FusSlot) (si : Int) (h : Keeps s0 s) : Keeps s0 (State.fusLogRefs s old si) := by
  unfold State.fusLogRefs
  with_reducible repeat' first
    | assumption | apply State.logEvent_keeps | refine Keeps.foldl ?_ (fun _ _ _ => ?_)
    | refine Keeps.ite (fun _ => ?_) (fun _ => ?_) | extract_lets | intro _

theorem State.fusStat_keeps {s0 s : State} (i : Nat) (si : Int) (av beyond : List Nat) (h : Keeps s0 s) : Keeps s0 (State.fusStat s i si av beyond) := by
  unfold State.fusStat
  with_reducible repeat' first
    | assumption | apply State.wrAll_keeps | refine Keeps.ofPair (by assumption) ?_
    | refine Keeps.ite (fun _ => ?_) (fun _ => ?_) | split | extract_lets

theorem State.fusTidy_keeps {s0 s : State} (j : Int) (gone : List FusSample) (h : Keeps s0 s) : Keeps s0 (State.fusTidy s j gone) := by
  unfold State.fusTidy
  with_reducible repeat' first
    | assumption | apply State.satAdd_keeps | apply State.modFus_keeps | apply State.set1_keeps | apply State.ring_keeps
    | refine Keeps.ite (fun _ => ?_) (fun _ => ?_) | split | extract_lets | exact Keeps.field h | refine Keeps.field ?_
    | intro _

theorem State.fusBallots_keeps {s0 s : State} (d : FusDue) (w0 : Vec) (j si : Int) (h : Keeps s0 s) : Keeps s0 (State.fusBallots s d w0 j si).1 := by
  unfold State.fusBallots
  with_reducible repeat' first
    | assumption | apply State.trackPredict_keeps | apply State.fusCarried_keeps | apply State.fusLatest_keeps
    | apply State.fusGroup_keeps | apply State.fusAssoc_keeps | refine Keeps.foldlP ?_ (fun _ _ _ => ?_)
    | refine Keeps.foldl ?_ (fun _ _ _ => ?_) | extract_lets | intro _ | dsimp only

theorem State.fusTracks_keeps {s0 s : State} (as : FusAssoc) (b : FusBallot) (j si : Int) (a : FusAcc) (h : Keeps s0 s) : Keeps s0 (State.fusTracks s as b j si a).1 := by
  unfold State.fusTracks
  with_reducible repeat' first
    | assumption | apply State.trackStep_keeps | apply State.fusTarget_keeps | apply State.trackHit_keeps
    | refine Keeps.foldlP ?_ (fun _ _ _ => ?_) | apply State.fusTarget_keeps | refine Keeps.foldl ?_ (fun _ _ _ => ?_)
    | extract_lets | intro _ | dsimp only

theorem State.fusCycle_keeps {s0 s : State} (k : Nat) (h : Keeps s0 s) : Keeps s0 (State.fusCycle s k) := by
  unfold State.fusCycle
  with_reducible repeat' first
    | assumption | apply State.fusLogRefs_keeps | apply State.fusBallots_keeps | apply State.fusVessel_keeps
    | apply State.fusTracks_keeps | apply State.fusLive_keeps | apply State.fusMark_keeps | apply State.fusPush_keeps
    | apply State.fusFill_keeps | apply State.fusLate_keeps | apply State.fusStat_keeps | apply State.fusTidy_keeps
    | apply State.modFus_keeps | refine Keeps.foldlP ?_ (fun _ _ _ => ?_) | apply State.fusLate_keeps
    | refine Keeps.foldl ?_ (fun _ _ _ => ?_) | extract_lets | exact Keeps.field h | refine Keeps.field ?_ | intro _

theorem execFusUpdate_keeps {s0 s : State} (h : Keeps s0 s) : OutKeeps s0 (execFusUpdate s) := by
  unfold execFusUpdate
  with_reducible repeat' first
    | assumption | apply OutKeeps.next | apply OutKeeps.done | apply State.fusCycle_keeps | apply whenLive_keeps
    | refine Keeps.ofPair (by assumption) ?_ | refine Keeps.ite (fun _ => ?_) (fun _ => ?_) | split | intro _
    | refine OutKeeps.ite (fun _ => ?_) (fun _ => ?_)

theorem State.fusShow_keeps {s0 s : State} (k : Nat) (b : Bytes) (h : Keeps s0 s) : Keeps s0 (State.fusShow s k b) := by
  unfold State.fusShow
  with_reducible repeat' first
    | assumption | apply State.fusLive_keeps | apply State.modFus_keeps | apply State.wrAll_keeps | apply State.wr_keeps
    | refine Keeps.foldl ?_ (fun _ _ _ => ?_) | extract_lets | exact Keeps.field h | refine Keeps.field ?_ | intro _

theorem State.fusOverrun_keeps {s0 s : State} (k : Nat) (h : Keeps s0 s) : Keeps s0 (State.fusOverrun s k) := by
  unfold State.fusOverrun
  with_reducible repeat' first
    | assumption | apply State.trackPredict_keeps | apply State.trackShow_keeps | apply State.fusPush_keeps
    | apply State.fusFill_keeps | apply State.fusShow_keeps | apply State.set1_keeps
    | refine Keeps.foldlP ?_ (fun _ _ _ => ?_) | refine Keeps.foldl ?_ (fun _ _ _ => ?_) | extract_lets | intro _

theorem execFusPublish_keeps {s0 s : State} (h : Keeps s0 s) : OutKeeps s0 (execFusPublish s) := by
  unfold execFusPublish
  with_reducible repeat' first
    | assumption | apply OutKeeps.next | apply OutKeeps.done | apply State.fusOverrun_keeps | apply State.fusShow_keeps
    | apply whenLive_keeps | refine Keeps.ofPair (by assumption) ?_ | refine Keeps.ite (fun _ => ?_) (fun _ => ?_) | split
    | intro _ | refine OutKeeps.ite (fun _ => ?_) (fun _ => ?_)

theorem State.writeFus_keeps {s0 s : State} (l : RegLoc) (v : Nat) (h : Keeps s0 s) : Keeps s0 (State.writeFus s l v).1 := by
  unfold State.writeFus
  with_reducible repeat' first
    | assumption | apply State.fusCommit_keeps | apply State.fusRun_keeps | apply State.wrReg_keeps | apply State.set1_keeps
    | refine Keeps.ofPair (by assumption) ?_ | refine Keeps.ite (fun _ => ?_) (fun _ => ?_)
    | refine Keeps.ite1 (fun _ => ?_) (fun _ => ?_) | split | extract_lets | dsimp only

end Sys2Proof.Machine
end

