-- ==== Sys2Proof/Laws/KSlv.lean ====
section
/-!
SUPPORT. Laws/KSlv.lean: what each operation of Machine/Slv.lean keeps (Laws/Keeps.lean).
-/
namespace Sys2Proof.Machine

theorem State.modSlv_keeps {s0 s : State} (f : SlvState → SlvState) (h : Keeps s0 s) : Keeps s0 (State.modSlv s f) := by
  unfold State.modSlv
  with_reducible repeat' first
    | assumption | exact Keeps.field h | refine Keeps.field ?_

theorem State.modSslot_keeps {s0 s : State} (n : Nat) (f : SlvSlot → SlvSlot) (h : Keeps s0 s) : Keeps s0 (State.modSslot s n f) := by
  unfold State.modSslot
  with_reducible repeat' first
    | assumption | apply State.modSlv_keeps | exact Keeps.field h | refine Keeps.field ?_ | intro _

theorem State.slvShow_keeps {s0 s : State} (h : Keeps s0 s) : Keeps s0 (State.slvShow s) := by
  unfold State.slvShow
  with_reducible repeat' first
    | assumption | apply State.wrAll_keeps | refine Keeps.ofPair (by assumption) ?_ | refine Keeps.foldl ?_ (fun _ _ _ => ?_)
    | split | extract_lets | intro _

theorem State.slvStore_keeps {s0 s : State} (a : Nat) (b : Bytes) (h : Keeps s0 s) : Keeps s0 (State.slvStore s a b) := by
  unfold State.slvStore
  with_reducible repeat' first
    | assumption | apply State.storeWords_keeps | apply State.busErr_keeps | refine Keeps.ite (fun _ => ?_) (fun _ => ?_)
    | split | extract_lets

theorem State.slvCount_keeps {s0 s : State} (q : SlvReq) (r : SlvRes) (h : Keeps s0 s) : Keeps s0 (State.slvCount s q r) := by
  unfold State.slvCount
  with_reducible repeat' first
    | assumption | apply State.logEvent_keeps | apply State.satInc_keeps | apply State.set1_keeps
    | refine Keeps.ite (fun _ => ?_) (fun _ => ?_) | split | extract_lets

theorem State.slvPost_keeps {s0 s : State} (q : SlvReq) (r : SlvRes) (h : Keeps s0 s) : Keeps s0 (State.slvPost s q r) := by
  unfold State.slvPost
  with_reducible repeat' first
    | assumption | apply State.slvStore_keeps | apply State.slvCount_keeps

theorem State.slvLeave_keeps {s0 s : State} (n : Nat) (h : Keeps s0 s) : Keeps s0 (State.slvLeave s n) := by
  unfold State.slvLeave
  with_reducible repeat' first
    | assumption | apply State.wr_keeps | refine Keeps.ofPair (by assumption) ?_
    | refine Keeps.ite (fun _ => ?_) (fun _ => ?_) | split | extract_lets

theorem State.slvPrior_keeps {s0 s : State} (q : SlvReq) (h : Keeps s0 s) : Keeps s0 (State.slvPrior s q).1 := by
  unfold State.slvPrior
  with_reducible repeat' first
    | assumption | apply State.slvStore_keeps | refine Keeps.ite (fun _ => ?_) (fun _ => ?_)
    | refine Keeps.ite1 (fun _ => ?_) (fun _ => ?_) | extract_lets | intro _ | dsimp only

theorem State.slvEndPrior_keeps {s0 s : State} (r : SlvRun) (o : Nat) (h : Keeps s0 s) : Keeps s0 (State.slvEndPrior s r o) := by
  unfold State.slvEndPrior
  with_reducible repeat' first
    | assumption | apply State.slvPrior_keeps | apply State.slvPost_keeps | extract_lets

theorem State.slvEndIter_keeps {s0 s : State} (r : SlvRun) (o iter : Nat) (cut : Bool) (h : Keeps s0 s) : Keeps s0 (State.slvEndIter s r o iter cut) := by
  unfold State.slvEndIter
  with_reducible repeat' first
    | assumption | apply State.modSslot_keeps | apply State.slvStore_keeps | apply State.slvPost_keeps | apply State.wr_keeps
    | refine Keeps.ite (fun _ => ?_) (fun _ => ?_) | refine Keeps.ite1 (fun _ => ?_) (fun _ => ?_) | extract_lets
    | exact Keeps.field h | refine Keeps.field ?_ | intro _

theorem State.slvFree_keeps {s0 s : State} (n : Nat) (h : Keeps s0 s) : Keeps s0 (State.slvFree s n) := by
  unfold State.slvFree
  with_reducible repeat' first
    | assumption | apply State.slvLeave_keeps | apply State.slvShow_keeps | apply State.modSlv_keeps | apply State.draw_keeps
    | exact Keeps.field h | refine Keeps.field ?_ | intro _

theorem State.slvTake_keeps {s0 s : State} (h : Keeps s0 s) : Keeps s0 (State.slvTake s) := by
  unfold State.slvTake
  with_reducible repeat' first
    | assumption | apply State.getWords_keeps | apply State.released_keeps | apply State.wrapInc_keeps
    | apply State.release_keeps | apply State.slvPost_keeps | apply State.modSlv_keeps | apply State.wr_keeps
    | refine Keeps.ofPair (by assumption) ?_ | refine Keeps.ite (fun _ => ?_) (fun _ => ?_) | split | extract_lets
    | exact Keeps.field h | refine Keeps.field ?_ | intro _

theorem State.slvPreempt_keeps {s0 s : State} (h : Keeps s0 s) : Keeps s0 (State.slvPreempt s) := by
  unfold State.slvPreempt
  with_reducible repeat' first
    | assumption | apply State.slvShow_keeps | apply State.modSlv_keeps | refine Keeps.ofPair (by assumption) ?_
    | refine Keeps.ite (fun _ => ?_) (fun _ => ?_) | split | exact Keeps.field h | refine Keeps.field ?_ | intro _

theorem State.slvTakeAll_keeps {s0 s : State} (h : Keeps s0 s) : Keeps s0 (State.slvTakeAll s) := by
  unfold State.slvTakeAll
  with_reducible repeat' first
    | assumption | apply State.slvPreempt_keeps | apply State.slvShow_keeps | apply State.slvTake_keeps
    | refine Keeps.foldl ?_ (fun _ _ _ => ?_) | refine Keeps.ite (fun _ => ?_) (fun _ => ?_) | intro _

theorem State.slvSubmit_keeps {s0 s : State} (tail : Nat) (h : Keeps s0 s) : Keeps s0 (State.slvSubmit s tail).1 := by
  unfold State.slvSubmit
  with_reducible repeat' first
    | assumption | apply State.slvTakeAll_keeps | apply State.set1_keeps | apply State.wr_keeps
    | refine Keeps.ite (fun _ => ?_) (fun _ => ?_) | refine Keeps.ite1 (fun _ => ?_) (fun _ => ?_) | extract_lets | dsimp only

theorem execSlvRingSubmit_keeps {s0 s : State} (tail : Fin 32) (h : Keeps s0 s) : OutKeeps s0 (execSlvRingSubmit tail s) := by
  unfold execSlvRingSubmit
  with_reducible repeat' first
    | assumption | apply OutKeeps.next | apply OutKeeps.done | apply State.slvSubmit_keeps | apply whenLive_keeps | intro _

theorem execSlvRequestRelease_keeps {s0 s : State} (num : Nat) (h : Keeps s0 s) : OutKeeps s0 (execSlvRequestRelease num s) := by
  unfold execSlvRequestRelease
  with_reducible repeat' first
    | assumption | apply OutKeeps.next | apply OutKeeps.done | apply State.slvPreempt_keeps | apply State.release_keeps
    | apply State.modSlv_keeps | apply whenLive_keeps | refine Keeps.ite (fun _ => ?_) (fun _ => ?_) | exact Keeps.field h
    | refine Keeps.field ?_ | intro _ | refine OutKeeps.ite (fun _ => ?_) (fun _ => ?_)

theorem State.slvCheck_keeps {s0 s : State} (q : SlvReq) (h : Keeps s0 s) : Keeps s0 (State.slvCheck s q).1 := by
  unfold State.slvCheck
  with_reducible repeat' first
    | assumption | apply State.getWords_keeps | refine Keeps.ofPair (by assumption) ?_
    | refine Keeps.ite (fun _ => ?_) (fun _ => ?_) | refine Keeps.ite1 (fun _ => ?_) (fun _ => ?_) | split | extract_lets
    | dsimp only

theorem State.slvSlotRegs_keeps {s0 s : State} (n st : Nat) (x : SlvSlot) (sig foot : Nat) (h : Keeps s0 s) : Keeps s0 (State.slvSlotRegs s n st x sig foot) := by
  unfold State.slvSlotRegs
  with_reducible repeat' first
    | assumption | apply State.wrAll_keeps

theorem State.slvSendLoad_keeps {s0 s : State} (slot : Nat) (b : Bytes) (h : Keeps s0 s) : Keeps s0 (State.slvSendLoad s slot b) := by
  unfold State.slvSendLoad
  with_reducible repeat' first
    | assumption | apply State.mirPush_keeps | refine Keeps.foldl ?_ (fun _ _ _ => ?_) | extract_lets | exact Keeps.field h
    | refine Keeps.field ?_ | intro _

theorem State.slvLoaded_keeps {s0 s : State} (q : SlvReq) (h : Keeps s0 s) : Keeps s0 (State.slvLoaded s q) := by
  unfold State.slvLoaded
  with_reducible repeat' first
    | assumption | apply State.slvShow_keeps | apply State.slvPost_keeps | apply State.wr_keeps

theorem State.slvPick_keeps {s0 s t : State} {op : Nat} {q : SlvReq} (e : s.slvPick op = some (t, q)) (h : Keeps s0 s) : Keeps s0 t := by
  unfold State.slvPick at e
  split at e
  · split at e
    · split at e
      · simp only [Option.some.injEq, Prod.mk.injEq] at e
        rw [← e.1]; exact State.modSlv_keeps _ h
      · cases e
    · cases e
  · cases e

theorem State.slvEmpty_keeps {s0 s : State} (n : Nat) (h : Keeps s0 s) : Keeps s0 (State.slvEmpty s n) := by
  unfold State.slvEmpty
  with_reducible repeat' first
    | assumption | apply State.slvSlotRegs_keeps | apply State.modSslot_keeps | exact Keeps.field h | refine Keeps.field ?_
    | intro _

theorem execSlvLoad_keeps {s0 s : State} (h : Keeps s0 s) : OutKeeps s0 (execSlvLoad s) := by
  unfold execSlvLoad
  with_reducible repeat' first
    | assumption | apply OutKeeps.next | apply OutKeeps.done | apply State.slvSlotRegs_keeps | apply State.slvSendLoad_keeps
    | apply State.slvLoaded_keeps | apply State.modSslot_keeps | apply State.slvCheck_keeps | apply State.slvEmpty_keeps
    | apply State.slvShow_keeps | apply State.slvPost_keeps | apply State.modSlv_keeps | apply whenLive_keeps
    | refine Keeps.ofPair (by assumption) ?_ | refine State.slvPick_keeps (by assumption) ?_
    | refine Keeps.ite (fun _ => ?_) (fun _ => ?_) | split | extract_lets | exact Keeps.field h | refine Keeps.field ?_
    | intro _ | refine OutKeeps.ite (fun _ => ?_) (fun _ => ?_)

theorem State.slvConfirm_keeps {s0 s : State} (slot : Nat) (h : Keeps s0 s) : Keeps s0 (State.slvConfirm s slot) := by
  unfold State.slvConfirm
  with_reducible repeat' first
    | assumption | apply State.slvLoaded_keeps | apply State.modSlv_keeps | apply State.erase_keeps
    | refine Keeps.ofPair (by assumption) ?_ | split | exact Keeps.field h | refine Keeps.field ?_ | intro _

theorem execSlvClear_keeps {s0 s : State} (h : Keeps s0 s) : OutKeeps s0 (execSlvClear s) := by
  unfold execSlvClear
  with_reducible repeat' first
    | assumption | apply OutKeeps.next | apply OutKeeps.done | apply State.slvSlotRegs_keeps | apply State.modSslot_keeps
    | apply State.slvShow_keeps | apply State.slvPost_keeps | apply State.wrAll_keeps | apply whenLive_keeps
    | refine Keeps.ofPair (by assumption) ?_ | refine State.slvPick_keeps (by assumption) ?_
    | refine Keeps.ite (fun _ => ?_) (fun _ => ?_) | split | extract_lets | intro _
    | refine OutKeeps.ite (fun _ => ?_) (fun _ => ?_)

theorem State.slvGo_keeps {s0 s : State} (r : SlvRun) (h : Keeps s0 s) : Keeps s0 (State.slvGo s r) := by
  unfold State.slvGo
  with_reducible repeat' first
    | assumption | apply State.slvEndIter_keeps | apply State.slvShow_keeps | apply State.slvFree_keeps
    | apply State.modSlv_keeps | refine Keeps.ite (fun _ => ?_) (fun _ => ?_) | exact Keeps.field h | refine Keeps.field ?_
    | intro _

theorem execSlvSolve_keeps {s0 s : State} (h : Keeps s0 s) : OutKeeps s0 (execSlvSolve s) := by
  unfold execSlvSolve
  with_reducible repeat' first
    | assumption | apply OutKeeps.next | apply OutKeeps.done | apply State.slvEndPrior_keeps | apply State.loadBytes_keeps
    | apply State.slvLeave_keeps | apply State.slvEmpty_keeps | apply State.slvShow_keeps | apply State.slvPost_keeps
    | apply State.modSlv_keeps | apply State.erase_keeps | apply State.slvGo_keeps | apply State.draw_keeps
    | apply whenLive_keeps | refine Keeps.ofPair (by assumption) ?_ | refine Keeps.ite (fun _ => ?_) (fun _ => ?_) | split
    | extract_lets | exact Keeps.field h | refine Keeps.field ?_ | intro _ | refine OutKeeps.ite (fun _ => ?_) (fun _ => ?_)

theorem State.slvDead_keeps {s0 s : State} (r : SlvRun) (phaseS : Bool) (h : Keeps s0 s) : Keeps s0 (State.slvDead s r phaseS) := by
  unfold State.slvDead
  with_reducible repeat' first
    | assumption | apply State.slvEndPrior_keeps | apply State.slvEndIter_keeps | refine Keeps.ite (fun _ => ?_) (fun _ => ?_)
    | split

theorem State.slvData_keeps {s0 s : State} (r : SlvRun) (pip : Fin 3) (f : State → State) (h : Keeps s0 s) (hf : ∀ t, Keeps s0 t → Keeps s0 (f t)) : Keeps s0 (State.slvData s r pip f) := by
  unfold State.slvData
  with_reducible repeat' first
    | assumption | apply hf | apply State.slvEndPrior_keeps | apply State.slvEmpty_keeps | apply State.slvFree_keeps
    | apply State.errLog_keeps | refine Keeps.ite (fun _ => ?_) (fun _ => ?_)

theorem execSlvSetupComplete_keeps {s0 s : State} (pip : Fin 3) (h : Keeps s0 s) : OutKeeps s0 (execSlvSetupComplete pip s) := by
  unfold execSlvSetupComplete
  with_reducible repeat' first
    | assumption | apply OutKeeps.next | apply OutKeeps.done | apply State.slvPreempt_keeps | apply State.modSslot_keeps
    | apply State.slvFree_keeps | apply State.slvDead_keeps | apply State.slvData_keeps | apply State.modSlv_keeps
    | apply whenLive_keeps | refine Keeps.ofPair (by assumption) ?_ | refine Keeps.ite (fun _ => ?_) (fun _ => ?_) | split
    | extract_lets | exact Keeps.field h | refine Keeps.field ?_ | intro _ | refine OutKeeps.ite (fun _ => ?_) (fun _ => ?_)

theorem execSlvIterationComplete_keeps {s0 s : State} (dur : Nat) (pip : Fin 3) (h : Keeps s0 s) : OutKeeps s0 (execSlvIterationComplete dur pip s) := by
  unfold execSlvIterationComplete
  with_reducible repeat' first
    | assumption | apply OutKeeps.next | apply OutKeeps.done | apply State.slvEndPrior_keeps | apply State.slvEndIter_keeps
    | apply State.slvPreempt_keeps | apply State.slvFree_keeps | apply State.slvDead_keeps | apply State.slvData_keeps
    | apply State.modSlv_keeps | apply State.slvGo_keeps | apply whenLive_keeps | refine Keeps.ofPair (by assumption) ?_
    | refine Keeps.ite (fun _ => ?_) (fun _ => ?_) | split | extract_lets | exact Keeps.field h | refine Keeps.field ?_
    | intro _ | refine OutKeeps.ite (fun _ => ?_) (fun _ => ?_)

theorem execSlvSolveComplete_keeps {s0 s : State} (pip : Fin 3) (h : Keeps s0 s) : OutKeeps s0 (execSlvSolveComplete pip s) := by
  unfold execSlvSolveComplete
  with_reducible repeat' first
    | assumption | apply OutKeeps.next | apply OutKeeps.done | apply State.slvEndPrior_keeps | apply State.slvEndIter_keeps
    | apply State.slvFree_keeps | apply State.slvDead_keeps | apply State.slvData_keeps | apply whenLive_keeps
    | refine Keeps.ofPair (by assumption) ?_ | refine Keeps.ite (fun _ => ?_) (fun _ => ?_) | split | extract_lets | intro _
    | refine OutKeeps.ite (fun _ => ?_) (fun _ => ?_)

theorem execSlvDeadline_keeps {s0 s : State} (num : Nat) (phaseS : Bool) (begun : Fin 5) (h : Keeps s0 s) : OutKeeps s0 (execSlvDeadline num phaseS begun s) := by
  unfold execSlvDeadline
  with_reducible repeat' first
    | assumption | apply OutKeeps.next | apply OutKeeps.done | apply State.slvEndPrior_keeps | apply State.slvLeave_keeps
    | apply State.slvShow_keeps | apply State.slvFree_keeps | apply State.slvDead_keeps | apply State.modSlv_keeps
    | apply State.erase_keeps | apply State.draw_keeps | apply whenLive_keeps | refine Keeps.ofPair (by assumption) ?_ | split
    | extract_lets | exact Keeps.field h | refine Keeps.field ?_ | intro _

theorem State.slvTakeover_keeps {s0 s : State} (h : Keeps s0 s) : Keeps s0 (State.slvTakeover s) := by
  unfold State.slvTakeover
  with_reducible repeat' first
    | assumption | apply State.slvShow_keeps | apply State.modSlv_keeps | apply State.wr_keeps
    | refine Keeps.foldl ?_ (fun _ _ _ => ?_) | refine Keeps.ite (fun _ => ?_) (fun _ => ?_) | split | extract_lets
    | exact Keeps.field h | refine Keeps.field ?_ | intro _

theorem State.writeSlv_keeps {s0 s : State} (l : RegLoc) (v : Nat) (h : Keeps s0 s) : Keeps s0 (State.writeSlv s l v).1 := by
  unfold State.writeSlv
  with_reducible repeat' first
    | assumption | apply State.slvTakeAll_keeps | apply State.slvSubmit_keeps | apply State.wrReg_keeps
    | apply State.set1_keeps | refine Keeps.ite (fun _ => ?_) (fun _ => ?_) | refine Keeps.ite1 (fun _ => ?_) (fun _ => ?_)
    | split | extract_lets | dsimp only

end Sys2Proof.Machine
end

