-- ==== Sys2Proof/Laws/KHlm.lean ====
section
/-!
SUPPORT. Laws/KHlm.lean: what each operation of Machine/Hlm.lean keeps (Laws/Keeps.lean).
-/
namespace Sys2Proof.Machine

theorem State.modHlm_keeps {s0 s : State} (f : HlmState → HlmState) (h : Keeps s0 s) : Keeps s0 (State.modHlm s f) := by
  unfold State.modHlm
  with_reducible repeat' first
    | assumption | exact Keeps.field h | refine Keeps.field ?_

theorem State.refStep_keeps {s0 s : State} (h : Keeps s0 s) : Keeps s0 (State.refStep s) := by
  unfold State.refStep
  with_reducible repeat' first
    | assumption | apply State.modHlm_keeps | refine Keeps.ite (fun _ => ?_) (fun _ => ?_) | extract_lets
    | exact Keeps.field h | refine Keeps.field ?_ | intro _

theorem State.refEnter_keeps {s0 s : State} (keepHdg : Bool) (h : Keeps s0 s) : Keeps s0 (State.refEnter s keepHdg) := by
  unfold State.refEnter
  with_reducible repeat' first
    | assumption | apply State.modHlm_keeps | refine Keeps.ite (fun _ => ?_) (fun _ => ?_) | exact Keeps.field h
    | refine Keeps.field ?_ | intro _

theorem State.windTerm_keeps {s0 s : State} (h : Keeps s0 s) : Keeps s0 (State.windTerm s).1 := by
  unfold State.windTerm
  with_reducible repeat' first
    | assumption | apply State.modHlm_keeps | refine Keeps.ite (fun _ => ?_) (fun _ => ?_)
    | refine Keeps.ite1 (fun _ => ?_) (fun _ => ?_) | extract_lets | exact Keeps.field h | refine Keeps.field ?_ | intro _
    | dsimp only

theorem State.hAlarm_keeps {s0 s : State} (f : Fld) (h : Keeps s0 s) : Keeps s0 (State.hAlarm s f) := by
  unfold State.hAlarm
  with_reducible repeat' first
    | assumption | apply State.alarmLog_keeps | refine Keeps.ite (fun _ => ?_) (fun _ => ?_)

theorem State.setMode_keeps {s0 s : State} (m : Nat) (h : Keeps s0 s) : Keeps s0 (State.setMode s m) := by
  unfold State.setMode
  with_reducible repeat' first
    | assumption | apply State.wrState_keeps

theorem State.modeRequest_keeps {s0 s : State} (m : Nat) (h : Keeps s0 s) : Keeps s0 (State.modeRequest s m).1 := by
  unfold State.modeRequest
  with_reducible repeat' first
    | assumption | apply State.modHlm_keeps | apply State.set1_keeps | refine Keeps.ite (fun _ => ?_) (fun _ => ?_)
    | refine Keeps.ite1 (fun _ => ?_) (fun _ => ?_) | exact Keeps.field h | refine Keeps.field ?_ | intro _ | dsimp only

theorem State.updClass_keeps {s0 s : State} (h : Keeps s0 s) : Keeps s0 (State.updClass s) := by
  unfold State.updClass
  with_reducible repeat' first
    | assumption | apply State.wrState_keeps | apply State.wrB_keeps | refine Keeps.ite (fun _ => ?_) (fun _ => ?_)
    | extract_lets

theorem State.lower_keeps {s0 s : State} (n : Nat) (h : Keeps s0 s) : Keeps s0 (State.lower s n) := by
  unfold State.lower
  with_reducible repeat' first
    | assumption | apply State.updClass_keeps | apply State.satAdd_keeps | apply State.modHlm_keeps | apply State.hAlarm_keeps
    | refine Keeps.ite (fun _ => ?_) (fun _ => ?_) | exact Keeps.field h | refine Keeps.field ?_ | intro _

theorem State.hlmRestore_keeps {s0 s : State} (h : Keeps s0 s) : Keeps s0 (State.hlmRestore s).1 := by
  unfold State.hlmRestore
  with_reducible repeat' first
    | assumption | apply State.updClass_keeps | apply State.modHlm_keeps | apply State.set1_keeps | apply State.wr_keeps
    | refine Keeps.ite (fun _ => ?_) (fun _ => ?_) | refine Keeps.ite1 (fun _ => ?_) (fun _ => ?_) | split
    | exact Keeps.field h | refine Keeps.field ?_ | intro _ | dsimp only

theorem State.enterFollow_keeps {s0 s : State} (h : Keeps s0 s) : Keeps s0 (State.enterFollow s) := by
  unfold State.enterFollow
  with_reducible repeat' first
    | assumption | apply State.modHlm_keeps | exact Keeps.field h | refine Keeps.field ?_ | intro _

theorem State.enterMode_keeps {s0 s : State} (m : Nat) (h : Keeps s0 s) : Keeps s0 (State.enterMode s m) := by
  unfold State.enterMode
  with_reducible repeat' first
    | assumption | apply State.enterFollow_keeps | apply State.refEnter_keeps | apply State.setMode_keeps
    | refine Keeps.ofPair (by assumption) ?_ | split | extract_lets

theorem State.validity_keeps {s0 s : State} (h : Keeps s0 s) : Keeps s0 (State.validity s) := by
  unfold State.validity
  with_reducible repeat' first
    | assumption | apply State.refEnter_keeps | apply State.setMode_keeps | apply State.modHlm_keeps
    | apply State.hAlarm_keeps | refine Keeps.ite (fun _ => ?_) (fun _ => ?_) | extract_lets | exact Keeps.field h
    | refine Keeps.field ?_ | intro _

theorem State.takeMode_keeps {s0 s : State} (h : Keeps s0 s) : Keeps s0 (State.takeMode s) := by
  unfold State.takeMode
  with_reducible repeat' first
    | assumption | apply State.enterMode_keeps | apply State.modHlm_keeps | apply State.set1_keeps
    | refine Keeps.ofPair (by assumption) ?_ | refine Keeps.ite (fun _ => ?_) (fun _ => ?_) | split | extract_lets
    | exact Keeps.field h | refine Keeps.field ?_ | intro _

theorem State.takeTarget_keeps {s0 s : State} (h : Keeps s0 s) : Keeps s0 (State.takeTarget s) := by
  unfold State.takeTarget
  with_reducible repeat' first
    | assumption | apply State.modHlm_keeps | refine Keeps.ite (fun _ => ?_) (fun _ => ?_) | extract_lets
    | exact Keeps.field h | refine Keeps.field ?_ | intro _

theorem State.contradictions_keeps {s0 s : State} (h : Keeps s0 s) : Keeps s0 (State.contradictions s) := by
  unfold State.contradictions
  with_reducible repeat' first
    | assumption | apply State.modHlm_keeps | apply State.lower_keeps | extract_lets | exact Keeps.field h
    | refine Keeps.field ?_ | intro _

theorem State.strCycle_keeps {s0 s : State} (k : Nat) (rep : Option (Rat × Rat)) (h : Keeps s0 s) : Keeps s0 (State.strCycle s k rep) := by
  unfold State.strCycle
  with_reducible repeat' first
    | assumption | apply State.modHlm_keeps | apply State.set1_keeps | refine Keeps.ofPair (by assumption) ?_
    | refine Keeps.ite (fun _ => ?_) (fun _ => ?_) | refine Keeps.ite1 (fun _ => ?_) (fun _ => ?_) | split | extract_lets
    | exact Keeps.field h | refine Keeps.field ?_ | intro _

theorem State.takeInputs_keeps {s0 s : State} (h : Keeps s0 s) : Keeps s0 (State.takeInputs s) := by
  unfold State.takeInputs
  with_reducible repeat' first
    | assumption | apply State.modHlm_keeps | exact Keeps.field h | refine Keeps.field ?_ | intro _

theorem State.restRun_keeps {s0 s : State} (h : Keeps s0 s) : Keeps s0 (State.restRun s) := by
  unfold State.restRun
  with_reducible repeat' first
    | assumption | apply State.modHlm_keeps | refine Keeps.ofPair (by assumption) ?_ | refine Keeps.foldl ?_ (fun _ _ _ => ?_)
    | refine Keeps.ite (fun _ => ?_) (fun _ => ?_) | split | extract_lets | exact Keeps.field h | refine Keeps.field ?_
    | intro _

theorem State.grantOne_keeps {s0 s : State} (h : Keeps s0 s) : Keeps s0 (State.grantOne s) := by
  unfold State.grantOne
  with_reducible repeat' first
    | assumption | apply State.modHlm_keeps | refine Keeps.ofPair (by assumption) ?_
    | refine Keeps.foldlP ?_ (fun _ _ _ => ?_) | refine Keeps.foldl ?_ (fun _ _ _ => ?_)
    | refine Keeps.ite (fun _ => ?_) (fun _ => ?_) | refine Keeps.ite1 (fun _ => ?_) (fun _ => ?_) | split | extract_lets
    | exact Keeps.field h | refine Keeps.field ?_ | intro _

theorem State.restCycle_keeps {s0 s : State} (h : Keeps s0 s) : Keeps s0 (State.restCycle s) := by
  unfold State.restCycle
  with_reducible repeat' first
    | assumption | apply State.grantOne_keeps | apply State.restRun_keeps | apply State.modHlm_keeps | apply State.wr_keeps
    | refine Keeps.foldlP ?_ (fun _ _ _ => ?_) | refine Keeps.foldl ?_ (fun _ _ _ => ?_)
    | refine Keeps.ite (fun _ => ?_) (fun _ => ?_) | refine Keeps.ite1 (fun _ => ?_) (fun _ => ?_) | extract_lets
    | exact Keeps.field h | refine Keeps.field ?_ | intro _

theorem State.hlmPut_keeps {s0 s : State} (a : Nat) (b : Bytes) (h : Keeps s0 s) : Keeps s0 (State.hlmPut s a b) := by
  unfold State.hlmPut
  with_reducible repeat' first
    | assumption | apply State.putWords_keeps

theorem State.slvEnter_keeps {s0 s : State} (q : SlvReq) (h : Keeps s0 s) : Keeps s0 (State.slvEnter s q) := by
  unfold State.slvEnter
  with_reducible repeat' first
    | assumption | apply State.slvShow_keeps | apply State.slvPost_keeps | apply State.modSlv_keeps | apply State.wr_keeps
    | refine Keeps.ite (fun _ => ?_) (fun _ => ?_) | split | extract_lets | exact Keeps.field h | refine Keeps.field ?_
    | intro _

theorem State.hlmLoad_keeps {s0 s : State} (h : Keeps s0 s) : Keeps s0 (State.hlmLoad s) := by
  unfold State.hlmLoad
  with_reducible repeat' first
    | assumption | apply State.slvEnter_keeps | apply State.modHlm_keeps | apply State.hlmPut_keeps | apply State.wr_keeps
    | extract_lets | exact Keeps.field h | refine Keeps.field ?_ | intro _

theorem State.hlmSolve_keeps {s0 s : State} (ck : Nat) (h : Keeps s0 s) : Keeps s0 (State.hlmSolve s ck) := by
  unfold State.hlmSolve
  with_reducible repeat' first
    | assumption | apply State.slvEnter_keeps | apply State.modHlm_keeps | apply State.hlmPut_keeps | extract_lets
    | exact Keeps.field h | refine Keeps.field ?_ | intro _

theorem State.hlmRun_keeps {s0 s : State} (run : Bool) (h : Keeps s0 s) : Keeps s0 (State.hlmRun s run).1 := by
  unfold State.hlmRun
  with_reducible repeat' first
    | assumption | apply State.hlmLoad_keeps | apply State.errLog_keeps | apply State.modHlm_keeps | apply State.set1_keeps
    | apply State.wr_keeps | refine Keeps.ite (fun _ => ?_) (fun _ => ?_) | refine Keeps.ite1 (fun _ => ?_) (fun _ => ?_)
    | extract_lets | exact Keeps.field h | refine Keeps.field ?_ | intro _ | dsimp only

theorem execHlmRun_keeps {s0 s : State} (run : Bool) (h : Keeps s0 s) : OutKeeps s0 (execHlmRun run s) := by
  unfold execHlmRun
  with_reducible repeat' first
    | assumption | apply OutKeeps.next | apply OutKeeps.done | apply State.hlmRun_keeps | apply whenLive_keeps | intro _

theorem State.transitEnd_keeps {s0 s : State} (h : Keeps s0 s) : Keeps s0 (State.transitEnd s) := by
  unfold State.transitEnd
  with_reducible repeat' first
    | assumption | apply State.modHlm_keeps | apply State.wr_keeps | refine Keeps.ofPair (by assumption) ?_
    | refine Keeps.ite (fun _ => ?_) (fun _ => ?_) | split | extract_lets | exact Keeps.field h | refine Keeps.field ?_
    | intro _

theorem State.hlmLaw_keeps {s0 s : State} (remote : List (Nat × Rat × Rat)) (ck : Nat) (h : Keeps s0 s) : Keeps s0 (State.hlmLaw s remote ck) := by
  unfold State.hlmLaw
  with_reducible repeat' first
    | assumption | apply State.contradictions_keeps | apply State.takeTarget_keeps | apply State.takeInputs_keeps
    | apply State.transitEnd_keeps | apply State.restCycle_keeps | apply State.windTerm_keeps | apply State.updClass_keeps
    | apply State.validity_keeps | apply State.takeMode_keeps | apply State.strCycle_keeps | apply State.hlmSolve_keeps
    | apply State.refStep_keeps | apply State.modHlm_keeps | apply State.hAlarm_keeps | apply State.wr_keeps
    | refine Keeps.ofPair (by assumption) ?_ | refine Keeps.foldlP ?_ (fun _ _ _ => ?_)
    | refine Keeps.foldl ?_ (fun _ _ _ => ?_) | refine Keeps.ite (fun _ => ?_) (fun _ => ?_)
    | refine Keeps.ite1 (fun _ => ?_) (fun _ => ?_) | split | extract_lets | exact Keeps.field h | refine Keeps.field ?_
    | intro _

theorem execHlmLawStart_keeps {s0 s : State} (remote : List (Nat × Rat × Rat)) (h : Keeps s0 s) : OutKeeps s0 (execHlmLawStart remote s) := by
  unfold execHlmLawStart
  with_reducible repeat' first
    | assumption | apply OutKeeps.next | apply OutKeeps.done | apply State.hlmLaw_keeps | apply whenLive_keeps
    | refine Keeps.ite (fun _ => ?_) (fun _ => ?_) | split | extract_lets | intro _
    | refine OutKeeps.ite (fun _ => ?_) (fun _ => ?_)

theorem State.clipAll_keeps {s0 s : State} (h : Keeps s0 s) : Keeps s0 (State.clipAll s) := by
  unfold State.clipAll
  with_reducible repeat' first
    | assumption | apply State.modHlm_keeps | refine Keeps.ite (fun _ => ?_) (fun _ => ?_)
    | refine Keeps.ite1 (fun _ => ?_) (fun _ => ?_) | extract_lets | exact Keeps.field h | refine Keeps.field ?_ | intro _

theorem State.slacks_keeps {s0 s : State} (h : Keeps s0 s) : Keeps s0 (State.slacks s) := by
  unfold State.slacks
  with_reducible repeat' first
    | assumption | apply State.modHlm_keeps | apply State.hAlarm_keeps | refine Keeps.ite (fun _ => ?_) (fun _ => ?_)
    | extract_lets | exact Keeps.field h | refine Keeps.field ?_ | intro _

theorem State.transits_keeps {s0 s : State} (h : Keeps s0 s) : Keeps s0 (State.transits s) := by
  unfold State.transits
  with_reducible repeat' first
    | assumption | apply State.modHlm_keeps | apply State.slew_keeps | apply State.wr_keeps
    | refine Keeps.ofPair (by assumption) ?_ | refine Keeps.ite (fun _ => ?_) (fun _ => ?_)
    | refine Keeps.ite1 (fun _ => ?_) (fun _ => ?_) | split | extract_lets | exact Keeps.field h | refine Keeps.field ?_
    | intro _

theorem State.transitMove_keeps {s0 s : State} (h : Keeps s0 s) : Keeps s0 (State.transitMove s) := by
  unfold State.transitMove
  with_reducible repeat' first
    | assumption | apply State.modHlm_keeps | apply State.slew_keeps | refine Keeps.ofPair (by assumption) ?_
    | refine Keeps.ite (fun _ => ?_) (fun _ => ?_) | split | extract_lets | exact Keeps.field h | refine Keeps.field ?_
    | intro _

theorem State.newCommands_keeps {s0 s : State} (h : Keeps s0 s) : Keeps s0 (State.newCommands s) := by
  unfold State.newCommands
  with_reducible repeat' first
    | assumption | apply State.transits_keeps | apply State.modHlm_keeps | apply State.slacks_keeps
    | refine Keeps.ite (fun _ => ?_) (fun _ => ?_) | refine Keeps.ite1 (fun _ => ?_) (fun _ => ?_) | extract_lets
    | exact Keeps.field h | refine Keeps.field ?_ | intro _

theorem State.fallback_keeps {s0 s : State} (o : Nat) (h : Keeps s0 s) : Keeps s0 (State.fallback s o) := by
  unfold State.fallback
  with_reducible repeat' first
    | assumption | apply State.hlmLoad_keeps | apply State.satInc_keeps | apply State.modHlm_keeps | apply State.hAlarm_keeps
    | apply State.lower_keeps | apply State.set1_keeps | refine Keeps.ite (fun _ => ?_) (fun _ => ?_) | extract_lets
    | exact Keeps.field h | refine Keeps.field ?_ | intro _

theorem execHlmQpResult_keeps {s0 s : State} (h : Keeps s0 s) : OutKeeps s0 (execHlmQpResult s) := by
  unfold execHlmQpResult
  with_reducible repeat' first
    | assumption | apply OutKeeps.next | apply OutKeeps.done | apply State.transitMove_keeps | apply State.newCommands_keeps
    | apply State.fallback_keeps | apply State.clipAll_keeps | apply State.satInc_keeps | apply State.modHlm_keeps
    | apply whenLive_keeps | refine Keeps.ite (fun _ => ?_) (fun _ => ?_) | split | extract_lets | exact Keeps.field h
    | refine Keeps.field ?_ | intro _ | refine OutKeeps.ite (fun _ => ?_) (fun _ => ?_)

theorem State.writeOut_keeps {s0 s : State} (h : Keeps s0 s) : Keeps s0 (State.writeOut s) := by
  unfold State.writeOut
  with_reducible repeat' first
    | assumption | apply State.wrAll_keeps | apply State.wr_keeps | refine Keeps.foldl ?_ (fun _ _ _ => ?_)
    | refine Keeps.ite (fun _ => ?_) (fun _ => ?_) | split | extract_lets | intro _

theorem State.sendPower_keeps {s0 s : State} (dom dst k eff : Nat) (w : Rat) (h : Keeps s0 s) : Keeps s0 (State.sendPower s dom dst k eff w) := by
  unfold State.sendPower
  with_reducible repeat' first
    | assumption | apply State.sendFrame_keeps | apply State.modZfb_keeps | extract_lets | exact Keeps.field h
    | refine Keeps.field ?_ | intro _

theorem State.sendString_keeps {s0 s : State} (k : Nat) (h : Keeps s0 s) : Keeps s0 (State.sendString s k) := by
  unfold State.sendString
  with_reducible repeat' first
    | assumption | apply State.sendPower_keeps | refine Keeps.ite (fun _ => ?_) (fun _ => ?_) | extract_lets

theorem State.dispatchOwn_keeps {s0 s : State} (total : Rat) (eff : Nat) (h : Keeps s0 s) : Keeps s0 (State.dispatchOwn s total eff) := by
  unfold State.dispatchOwn
  with_reducible repeat' first
    | assumption | apply State.sendFrame_keeps | apply State.sendPower_keeps | apply State.strCycle_keeps
    | refine Keeps.foldlP ?_ (fun _ _ _ => ?_) | refine Keeps.foldl ?_ (fun _ _ _ => ?_) | extract_lets | intro _

theorem State.hlmCan_keeps {s0 s : State} (ck : Nat) (h : Keeps s0 s) : Keeps s0 (State.hlmCan s ck) := by
  unfold State.hlmCan
  with_reducible repeat' first
    | assumption | apply State.wr_keeps | refine Keeps.foldlP ?_ (fun _ _ _ => ?_) | refine Keeps.foldl ?_ (fun _ _ _ => ?_)
    | refine Keeps.ite (fun _ => ?_) (fun _ => ?_) | refine Keeps.ite1 (fun _ => ?_) (fun _ => ?_) | intro _

theorem State.hlmPublish_keeps {s0 s : State} (ck : Nat) (h : Keeps s0 s) : Keeps s0 (State.hlmPublish s ck) := by
  unfold State.hlmPublish
  with_reducible repeat' first
    | assumption | apply State.sendString_keeps | apply State.writeOut_keeps | apply State.clipAll_keeps
    | apply State.modHlm_keeps | apply State.hlmCan_keeps | refine Keeps.foldl ?_ (fun _ _ _ => ?_)
    | refine Keeps.ite (fun _ => ?_) (fun _ => ?_) | split | extract_lets | exact Keeps.field h | refine Keeps.field ?_
    | intro _

theorem execHlmCommandPublish_keeps {s0 s : State} (h : Keeps s0 s) : OutKeeps s0 (execHlmCommandPublish s) := by
  unfold execHlmCommandPublish
  with_reducible repeat' first
    | assumption | apply OutKeeps.next | apply OutKeeps.done | apply State.hlmPublish_keeps | apply whenLive_keeps
    | refine Keeps.ofPair (by assumption) ?_ | refine Keeps.ite (fun _ => ?_) (fun _ => ?_) | split | intro _
    | refine OutKeeps.ite (fun _ => ?_) (fun _ => ?_)

theorem State.hlmHold_keeps {s0 s : State} (ck : Nat) (h : Keeps s0 s) : Keeps s0 (State.hlmHold s ck) := by
  unfold State.hlmHold
  with_reducible repeat' first
    | assumption | apply State.modHlm_keeps | apply State.wr_keeps | refine Keeps.ofPair (by assumption) ?_ | split
    | exact Keeps.field h | refine Keeps.field ?_ | intro _

theorem State.hlmTakeover_keeps {s0 s : State} (h : Keeps s0 s) : Keeps s0 (State.hlmTakeover s) := by
  unfold State.hlmTakeover
  with_reducible repeat' first
    | assumption | apply State.hlmHold_keeps | refine Keeps.ofPair (by assumption) ?_
    | refine Keeps.ite (fun _ => ?_) (fun _ => ?_) | split

theorem execHlmModeSet_keeps {s0 s : State} (mode : Fin 8) (h : Keeps s0 s) : OutKeeps s0 (execHlmModeSet mode s) := by
  unfold execHlmModeSet
  with_reducible repeat' first
    | assumption | apply OutKeeps.next | apply OutKeeps.done | apply State.modeRequest_keeps | apply whenLive_keeps | intro _

theorem execHlmRestore_keeps {s0 s : State} (h : Keeps s0 s) : OutKeeps s0 (execHlmRestore s) := by
  unfold execHlmRestore
  with_reducible repeat' first
    | assumption | apply OutKeeps.next | apply OutKeeps.done | apply State.hlmRestore_keeps | apply whenLive_keeps | intro _

theorem State.modeReqWrite_keeps {s0 s : State} (m : Nat) (set restore : Bool) (h : Keeps s0 s) : Keeps s0 (State.modeReqWrite s m set restore).1 := by
  unfold State.modeReqWrite
  with_reducible repeat' first
    | assumption | apply State.modeRequest_keeps | apply State.hlmRestore_keeps | apply State.modHlm_keeps
    | apply State.set1_keeps | refine Keeps.ite (fun _ => ?_) (fun _ => ?_) | refine Keeps.ite1 (fun _ => ?_) (fun _ => ?_)
    | split | extract_lets | exact Keeps.field h | refine Keeps.field ?_ | intro _ | dsimp only

theorem State.hlmCtrl_keeps {s0 s : State} (v : Nat) (h : Keeps s0 s) : Keeps s0 (State.hlmCtrl s v).1 := by
  unfold State.hlmCtrl
  with_reducible repeat' first
    | assumption | apply State.hlmRun_keeps | apply State.wrAll_keeps | refine Keeps.ofPair (by assumption) ?_
    | refine Keeps.ite (fun _ => ?_) (fun _ => ?_) | refine Keeps.ite1 (fun _ => ?_) (fun _ => ?_) | split | extract_lets
    | dsimp only

theorem State.writeHlm_keeps {s0 s : State} (l : RegLoc) (v : Nat) (h : Keeps s0 s) : Keeps s0 (State.writeHlm s l v).1 := by
  unfold State.writeHlm
  with_reducible repeat' first
    | assumption | apply State.modeReqWrite_keeps | apply State.hlmCtrl_keeps | apply State.modHlm_keeps
    | apply State.wrReg_keeps | apply State.set1_keeps | refine Keeps.ite (fun _ => ?_) (fun _ => ?_)
    | refine Keeps.ite1 (fun _ => ?_) (fun _ => ?_) | split | extract_lets | exact Keeps.field h | refine Keeps.field ?_
    | intro _ | dsimp only

end Sys2Proof.Machine
end

