-- ==== Sys2Proof/Laws/KLpe.lean ====
section
/-!
SUPPORT. Laws/KLpe.lean: what each operation of Machine/Lpe.lean keeps (Laws/Keeps.lean).
-/
namespace Sys2Proof.Machine

theorem State.modLp_keeps {s0 s : State} (n : Nat) (f : LpeLoop → LpeLoop) (h : Keeps s0 s) : Keeps s0 (State.modLp s n f) := by
  unfold State.modLp
  with_reducible repeat' first
    | assumption | exact Keeps.field h | refine Keeps.field ?_

theorem State.lpeShow_keeps {s0 s : State} (h : Keeps s0 s) : Keeps s0 (State.lpeShow s) := by
  unfold State.lpeShow
  with_reducible repeat' first
    | assumption | apply State.wrAll_keeps | refine Keeps.foldl ?_ (fun _ _ _ => ?_) | extract_lets | intro _

theorem State.setLoop_keeps {s0 s : State} (n st : Nat) (h : Keeps s0 s) : Keeps s0 (State.setLoop s n st) := by
  unfold State.setLoop
  with_reducible repeat' first
    | assumption | apply State.wrState_keeps

theorem State.coefSwap_keeps {s0 s : State} (n : Nat) (c : List Nat) (h : Keeps s0 s) : Keeps s0 (State.coefSwap s n c) := by
  unfold State.coefSwap
  with_reducible repeat' first
    | assumption | apply State.wr_keeps | refine Keeps.foldl ?_ (fun _ _ _ => ?_) | intro _

theorem State.takeEn_keeps {s0 s : State} (n : Nat) (h : Keeps s0 s) : Keeps s0 (State.takeEn s n) := by
  unfold State.takeEn
  with_reducible repeat' first
    | assumption | apply State.setLoop_keeps | apply State.wrAll_keeps | apply State.modLp_keeps
    | refine Keeps.ite (fun _ => ?_) (fun _ => ?_) | extract_lets | exact Keeps.field h | refine Keeps.field ?_ | intro _

theorem State.takeSwap_keeps {s0 s : State} (n : Nat) (h : Keeps s0 s) : Keeps s0 (State.takeSwap s n) := by
  unfold State.takeSwap
  with_reducible repeat' first
    | assumption | apply State.coefSwap_keeps | apply State.modLp_keeps | apply State.wr_keeps
    | refine Keeps.ite (fun _ => ?_) (fun _ => ?_) | extract_lets | exact Keeps.field h | refine Keeps.field ?_ | intro _

theorem State.takeCmd_keeps {s0 s : State} (n : Nat) (h : Keeps s0 s) : Keeps s0 (State.takeCmd s n) := by
  unfold State.takeCmd
  with_reducible repeat' first
    | assumption | apply State.setLoop_keeps | apply State.modLp_keeps | refine Keeps.ofPair (by assumption) ?_
    | refine Keeps.ite (fun _ => ?_) (fun _ => ?_) | split | extract_lets | exact Keeps.field h | refine Keeps.field ?_
    | intro _

theorem State.supFault_keeps {s0 s : State} (n : Nat) (bad : Bool) (h : Keeps s0 s) : Keeps s0 (State.supFault s n bad) := by
  unfold State.supFault
  with_reducible repeat' first
    | assumption | apply State.evtMark_keeps | apply State.setLoop_keeps | apply State.satInc_keeps | apply State.errLog_keeps
    | apply State.modLp_keeps | apply State.wr_keeps | refine Keeps.ite (fun _ => ?_) (fun _ => ?_) | extract_lets
    | exact Keeps.field h | refine Keeps.field ?_ | intro _

theorem State.loopRun_keeps {s0 s : State} (n : Nat) (h : Keeps s0 s) : Keeps s0 (State.loopRun s n) := by
  unfold State.loopRun
  with_reducible repeat' first
    | assumption | apply State.supFault_keeps | apply State.wrAll_keeps | apply State.wrBit_keeps | apply State.modLp_keeps
    | apply State.wrB_keeps | apply State.wrS_keeps | apply State.wr_keeps | refine Keeps.ite (fun _ => ?_) (fun _ => ?_)
    | refine Keeps.ite1 (fun _ => ?_) (fun _ => ?_) | split | extract_lets | exact Keeps.field h | refine Keeps.field ?_
    | intro _

theorem execLoopSample_keeps {s0 s : State} (h : Keeps s0 s) : OutKeeps s0 (execLoopSample s) := by
  unfold execLoopSample
  with_reducible repeat' first
    | assumption | apply OutKeeps.next | apply OutKeeps.done | apply State.takeSwap_keeps | apply State.lpeShow_keeps
    | apply State.takeCmd_keeps | apply State.loopRun_keeps | apply State.takeEn_keeps | apply State.count_keeps
    | apply State.modLp_keeps | apply whenLive_keeps | refine Keeps.foldl ?_ (fun _ _ _ => ?_)
    | refine Keeps.ite (fun _ => ?_) (fun _ => ?_) | split | extract_lets | exact Keeps.field h | refine Keeps.field ?_
    | intro _ | refine OutKeeps.ite (fun _ => ?_) (fun _ => ?_)

theorem State.publishLoop_keeps {s0 s : State} (n : Nat) (h : Keeps s0 s) : Keeps s0 (State.publishLoop s n) := by
  unfold State.publishLoop
  with_reducible repeat' first
    | assumption | apply State.wrAll_keeps | apply State.modLp_keeps | refine Keeps.ofPair (by assumption) ?_ | split
    | extract_lets | exact Keeps.field h | refine Keeps.field ?_ | intro _

theorem State.loopOverrun_keeps {s0 s : State} (n : Nat) (h : Keeps s0 s) : Keeps s0 (State.loopOverrun s n) := by
  unfold State.loopOverrun
  with_reducible repeat' first
    | assumption | apply State.satInc_keeps | apply State.errLog_keeps | apply State.modLp_keeps | apply State.wr_keeps
    | extract_lets | exact Keeps.field h | refine Keeps.field ?_ | intro _

theorem execLoopPublish_keeps {s0 s : State} (ovr : BitVec 64) (h : Keeps s0 s) : OutKeeps s0 (execLoopPublish ovr s) := by
  unfold execLoopPublish
  with_reducible repeat' first
    | assumption | apply OutKeeps.next | apply OutKeeps.done | apply State.publishLoop_keeps | apply State.loopOverrun_keeps
    | apply State.modLp_keeps | apply whenLive_keeps | refine Keeps.foldl ?_ (fun _ _ _ => ?_)
    | refine Keeps.ite (fun _ => ?_) (fun _ => ?_) | split | extract_lets | exact Keeps.field h | refine Keeps.field ?_
    | intro _ | refine OutKeeps.ite (fun _ => ?_) (fun _ => ?_)

theorem State.loopEn_keeps {s0 s : State} (n : Nat) (en : Bool) (h : Keeps s0 s) : Keeps s0 (State.loopEn s n en).1 := by
  unfold State.loopEn
  with_reducible repeat' first
    | assumption | apply State.lpeShow_keeps | apply State.modLp_keeps | apply State.set1_keeps | apply State.wr_keeps
    | refine Keeps.ite (fun _ => ?_) (fun _ => ?_) | refine Keeps.ite1 (fun _ => ?_) (fun _ => ?_) | split | extract_lets
    | exact Keeps.field h | refine Keeps.field ?_ | intro _ | dsimp only

theorem execLoopEnWrite_keeps {s0 s : State} (n : Fin 64) (en : Bool) (h : Keeps s0 s) : OutKeeps s0 (execLoopEnWrite n en s) := by
  unfold execLoopEnWrite
  with_reducible repeat' first
    | assumption | apply OutKeeps.next | apply OutKeeps.done | apply State.loopEn_keeps | apply whenLive_keeps | intro _

theorem State.loopOpenClose_keeps {s0 s : State} (n : Nat) (close : Bool) (h : Keeps s0 s) : Keeps s0 (State.loopOpenClose s n close).1 := by
  unfold State.loopOpenClose
  with_reducible repeat' first
    | assumption | apply State.modLp_keeps | apply State.set1_keeps | refine Keeps.ite (fun _ => ?_) (fun _ => ?_)
    | refine Keeps.ite1 (fun _ => ?_) (fun _ => ?_) | split | exact Keeps.field h | refine Keeps.field ?_ | intro _
    | dsimp only

theorem execLoopOpen_keeps {s0 s : State} (n : Fin 64) (h : Keeps s0 s) : OutKeeps s0 (execLoopOpen n s) := by
  unfold execLoopOpen
  with_reducible repeat' first
    | assumption | apply OutKeeps.next | apply OutKeeps.done | apply State.loopOpenClose_keeps | apply whenLive_keeps
    | intro _

theorem execLoopClose_keeps {s0 s : State} (n : Fin 64) (h : Keeps s0 s) : OutKeeps s0 (execLoopClose n s) := by
  unfold execLoopClose
  with_reducible repeat' first
    | assumption | apply OutKeeps.next | apply OutKeeps.done | apply State.loopOpenClose_keeps | apply whenLive_keeps
    | intro _

theorem State.loopCommit_keeps {s0 s : State} (n : Nat) (h : Keeps s0 s) : Keeps s0 (State.loopCommit s n) := by
  unfold State.loopCommit
  with_reducible repeat' first
    | assumption | apply State.coefSwap_keeps | apply State.modLp_keeps | apply State.wr_keeps
    | refine Keeps.ite (fun _ => ?_) (fun _ => ?_) | exact Keeps.field h | refine Keeps.field ?_ | intro _

theorem execLoopCommit_keeps {s0 s : State} (n : Fin 64) (h : Keeps s0 s) : OutKeeps s0 (execLoopCommit n s) := by
  unfold execLoopCommit
  with_reducible repeat' first
    | assumption | apply OutKeeps.next | apply OutKeeps.done | apply State.loopCommit_keeps | apply whenLive_keeps | intro _

theorem State.loopClear_keeps {s0 s : State} (n : Nat) (h : Keeps s0 s) : Keeps s0 (State.loopClear s n).1 := by
  unfold State.loopClear
  with_reducible repeat' first
    | assumption | apply State.modLp_keeps | apply State.set1_keeps | refine Keeps.ite (fun _ => ?_) (fun _ => ?_)
    | refine Keeps.ite1 (fun _ => ?_) (fun _ => ?_) | exact Keeps.field h | refine Keeps.field ?_ | intro _ | dsimp only

theorem execLoopClear_keeps {s0 s : State} (n : Fin 64) (h : Keeps s0 s) : OutKeeps s0 (execLoopClear n s) := by
  unfold execLoopClear
  with_reducible repeat' first
    | assumption | apply OutKeeps.next | apply OutKeeps.done | apply State.loopClear_keeps | apply whenLive_keeps | intro _

theorem State.lpeTakeover_keeps {s0 s : State} (h : Keeps s0 s) : Keeps s0 (State.lpeTakeover s) := by
  unfold State.lpeTakeover
  with_reducible repeat' first
    | assumption | apply State.modLp_keeps | refine Keeps.foldl ?_ (fun _ _ _ => ?_)
    | refine Keeps.ite (fun _ => ?_) (fun _ => ?_) | exact Keeps.field h | refine Keeps.field ?_ | intro _

theorem State.loopCfg_keeps {s0 s : State} (l : RegLoc) (v : Nat) (h : Keeps s0 s) : Keeps s0 (State.loopCfg s l v).1 := by
  unfold State.loopCfg
  with_reducible repeat' first
    | assumption | apply State.wrField_keeps | apply State.loopEn_keeps | apply State.set1_keeps
    | refine Keeps.ofPair (by assumption) ?_ | refine Keeps.foldlP ?_ (fun _ _ _ => ?_)
    | refine Keeps.foldl ?_ (fun _ _ _ => ?_) | refine Keeps.ite (fun _ => ?_) (fun _ => ?_)
    | refine Keeps.ite1 (fun _ => ?_) (fun _ => ?_) | split | extract_lets | intro _ | dsimp only

theorem State.lpeCtrl_keeps {s0 s : State} (l : RegLoc) (v : Nat) (h : Keeps s0 s) : Keeps s0 (State.lpeCtrl s l v) := by
  unfold State.lpeCtrl
  with_reducible repeat' first
    | assumption | apply State.wrReg_keeps | refine Keeps.ite (fun _ => ?_) (fun _ => ?_) | exact Keeps.field h
    | refine Keeps.field ?_

theorem State.writeLpe_keeps {s0 s : State} (l : RegLoc) (v : Nat) (h : Keeps s0 s) : Keeps s0 (State.writeLpe s l v).1 := by
  unfold State.writeLpe
  with_reducible repeat' first
    | assumption | apply State.loopOpenClose_keeps | apply State.loopCommit_keeps | apply State.loopClear_keeps
    | apply State.jointly_keeps | apply State.lpeShow_keeps | apply State.loopCfg_keeps | apply State.lpeCtrl_keeps
    | apply State.wrReg_keeps | apply State.modLp_keeps | apply State.set1_keeps
    | refine State.jointly_keeps (by assumption) ?_ | refine List.forall_mem_cons.mpr ⟨?_, ?_⟩ | exact List.forall_mem_nil _
    | refine Keeps.ite (fun _ => ?_) (fun _ => ?_) | refine Keeps.ite1 (fun _ => ?_) (fun _ => ?_) | split | extract_lets
    | exact Keeps.field h | refine Keeps.field ?_ | intro _ | dsimp only

end Sys2Proof.Machine
end

