-- ==== Sys2Proof/Laws/KLearned.lean ====
section
/-!
SUPPORT. Laws/KLearned.lean: what each operation of Machine/Learned.lean keeps (Laws/Keeps.lean).
-/
namespace Sys2Proof.Machine

theorem State.programRecord_keeps {s0 s : State} (i : Nat) (b : Bytes) (h : Keeps s0 s) : Keeps s0 (State.programRecord s i b) := by
  unfold State.programRecord
  with_reducible repeat' first
    | assumption | apply State.programs_keeps | apply State.program_keeps | apply State.blank_keeps
    | refine Keeps.ite (fun _ => ?_) (fun _ => ?_) | extract_lets | intro _

theorem State.commitRecord_keeps {s0 s : State} (i : Nat) (b : Bytes) (h : Keeps s0 s) : Keeps s0 (State.commitRecord s i b) := by
  unfold State.commitRecord
  with_reducible repeat' first
    | assumption | apply State.programRecord_keeps | refine Keeps.ite (fun _ => ?_) (fun _ => ?_) | extract_lets
    | exact Keeps.field h | refine Keeps.field ?_

theorem State.learnedRead_keeps {s0 s : State} (i : Nat) (h : Keeps s0 s) : Keeps s0 (State.learnedRead s i) := by
  unfold State.learnedRead
  with_reducible repeat' first
    | assumption | apply State.readWords_keeps | extract_lets

end Sys2Proof.Machine
end

