-- ==== Sys2Proof/Laws/KRoll.lean ====
section
/-!
SUPPORT. Laws/KRoll.lean: what each operation of Machine/Roll.lean keeps (Laws/Keeps.lean).
-/
namespace Sys2Proof.Machine

theorem randomBytes_keeps {s0 s : State} (n : Nat) (h : Keeps s0 s) : Keeps s0 (randomBytes s n).1 := by
  unfold randomBytes
  with_reducible repeat' first
    | assumption | exact Keeps.field h | refine Keeps.field ?_
    | refine Keeps.upd h (by first | exact Nat.le_refl _ | exact Nat.le_add_right _ _) (by exact ⟨rfl, rfl⟩)
    | refine Keeps.upd ?_ (by first | exact Nat.le_refl _ | exact Nat.le_add_right _ _) (by exact ⟨rfl, rfl⟩) | intro _
    | dsimp only

theorem State.rollSend_keeps {s0 s : State} (asCid : Bool) (type : Nat) (path : List Nat) (body : Bytes) (h : Keeps s0 s) : Keeps s0 (State.rollSend s asCid type path body) := by
  unfold State.rollSend
  with_reducible repeat' first
    | assumption | apply State.pathOut_keeps | apply State.modZfb_keeps | refine Keeps.ofPair (by assumption) ?_ | split
    | extract_lets | exact Keeps.field h | refine Keeps.field ?_ | intro _

theorem State.takeRoll_keeps {s0 s : State} (type : Nat) (h : Keeps s0 s) : Keeps s0 (State.takeRoll s type).1 := by
  unfold State.takeRoll
  with_reducible repeat' first
    | assumption | apply State.reverse_keeps | apply State.modZfb_keeps | refine Keeps.ofPair (by assumption) ?_
    | refine Keeps.ite (fun _ => ?_) (fun _ => ?_) | refine Keeps.ite1 (fun _ => ?_) (fun _ => ?_) | split | extract_lets
    | exact Keeps.field h | refine Keeps.field ?_ | intro _ | dsimp only

theorem State.fromAny_keeps {s0 s : State} (type : Nat) (k : State → RollIn → State) (h : Keeps s0 s) (hf : ∀ t m, Keeps s0 t → Keeps s0 (k t m)) : Keeps s0 (State.fromAny s type k) := by
  unfold State.fromAny
  with_reducible repeat' first
    | assumption | apply hf | apply State.takeRoll_keeps | refine Keeps.ofPair (by assumption) ?_
    | refine Keeps.ite (fun _ => ?_) (fun _ => ?_) | split

theorem State.fromCoord_keeps {s0 s : State} (type : Nat) (k : State → RollIn → State) (h : Keeps s0 s) (hf : ∀ t m, Keeps s0 t → Keeps s0 (k t m)) : Keeps s0 (State.fromCoord s type k) := by
  unfold State.fromCoord
  with_reducible repeat' first
    | assumption | apply hf | apply State.fromAny_keeps | refine Keeps.ite (fun _ => ?_) (fun _ => ?_) | intro _

theorem State.rollAck_keeps {s0 s : State} (m : RollIn) (type status : Nat) (h : Keeps s0 s) : Keeps s0 (State.rollAck s m type status) := by
  unfold State.rollAck
  with_reducible repeat' first
    | assumption | apply State.rollSend_keeps

theorem State.authFail_keeps {s0 s : State} (port : Nat) (h : Keeps s0 s) : Keeps s0 (State.authFail s port) := by
  unfold State.authFail
  with_reducible repeat' first
    | assumption | apply State.logEvent_keeps | apply State.satInc_keeps | apply State.set1_keeps | extract_lets

theorem execRollProbe_keeps {s0 s : State} (h : Keeps s0 s) : OutKeeps s0 (execRollProbe s) := by
  unfold execRollProbe
  with_reducible repeat' first
    | assumption | apply OutKeeps.next | apply OutKeeps.done | apply State.rollSend_keeps | apply State.fromAny_keeps
    | apply State.modZfb_keeps | apply randomBytes_keeps | apply whenLive_keeps | refine Keeps.ofPair (by assumption) ?_
    | refine Keeps.ite (fun _ => ?_) (fun _ => ?_) | split | extract_lets | exact Keeps.field h | refine Keeps.field ?_
    | intro _ | dsimp only | refine OutKeeps.ite (fun _ => ?_) (fun _ => ?_)

theorem State.answerChal_keeps {s0 s : State} (p : RollPend) (own : Bool) (m : RollIn) (h : Keeps s0 s) : Keeps s0 (State.answerChal s p own m) := by
  unfold State.answerChal
  with_reducible repeat' first
    | assumption | apply State.rollSend_keeps | apply State.authFail_keeps | apply State.modZfb_keeps
    | refine Keeps.ofPair (by assumption) ?_ | refine Keeps.ite (fun _ => ?_) (fun _ => ?_) | split | extract_lets
    | exact Keeps.field h | refine Keeps.field ?_ | intro _

theorem execAuthChal_keeps {s0 s : State} (h : Keeps s0 s) : OutKeeps s0 (execAuthChal s) := by
  unfold execAuthChal
  with_reducible repeat' first
    | assumption | apply OutKeeps.next | apply OutKeeps.done | apply State.answerChal_keeps | apply State.fromAny_keeps
    | apply whenLive_keeps | refine Keeps.ofPair (by assumption) ?_ | refine Keeps.ite (fun _ => ?_) (fun _ => ?_) | split
    | extract_lets | intro _ | refine OutKeeps.ite (fun _ => ?_) (fun _ => ?_)

theorem execRollAssign_keeps {s0 s : State} (h : Keeps s0 s) : OutKeeps s0 (execRollAssign s) := by
  unfold execRollAssign
  with_reducible repeat' first
    | assumption | apply OutKeeps.next | apply OutKeeps.done | apply State.fromCoord_keeps | apply State.rollAck_keeps
    | apply State.modZfb_keeps | apply whenLive_keeps | refine Keeps.ofPair (by assumption) ?_
    | refine Keeps.ite (fun _ => ?_) (fun _ => ?_) | split | extract_lets | exact Keeps.field h | refine Keeps.field ?_
    | intro _ | refine OutKeeps.ite (fun _ => ?_) (fun _ => ?_)

theorem execRollTable_keeps {s0 s : State} (h : Keeps s0 s) : OutKeeps s0 (execRollTable s) := by
  unfold execRollTable
  with_reducible repeat' first
    | assumption | apply OutKeeps.next | apply OutKeeps.done | apply State.fromCoord_keeps | apply State.rollAck_keeps
    | apply State.modZfb_keeps | apply State.set1_keeps | apply whenLive_keeps | refine Keeps.ofPair (by assumption) ?_
    | refine Keeps.ite (fun _ => ?_) (fun _ => ?_) | split | extract_lets | exact Keeps.field h | refine Keeps.field ?_
    | intro _ | dsimp only | refine OutKeeps.ite (fun _ => ?_) (fun _ => ?_)

theorem State.openPort_keeps {s0 s : State} (p : Nat) (h : Keeps s0 s) : Keeps s0 (State.openPort s p) := by
  unfold State.openPort
  with_reducible repeat' first
    | assumption | apply State.wr_keeps | refine Keeps.ite (fun _ => ?_) (fun _ => ?_)

theorem execPortOpen_keeps {s0 s : State} (h : Keeps s0 s) : OutKeeps s0 (execPortOpen s) := by
  unfold execPortOpen
  with_reducible repeat' first
    | assumption | apply OutKeeps.next | apply OutKeeps.done | apply State.fromCoord_keeps | apply State.openPort_keeps
    | apply State.rollAck_keeps | apply whenLive_keeps | intro _

theorem State.rollDone_keeps {s0 s : State} (arr : Option Nat) (body : Bytes) (h : Keeps s0 s) : Keeps s0 (State.rollDone s arr body) := by
  unfold State.rollDone
  with_reducible repeat' first
    | assumption | apply State.rollSend_keeps | apply State.modZfb_keeps | refine Keeps.ofPair (by assumption) ?_
    | refine Keeps.foldl ?_ (fun _ _ _ => ?_) | refine Keeps.ite (fun _ => ?_) (fun _ => ?_) | split | extract_lets
    | exact Keeps.field h | refine Keeps.field ?_ | intro _

theorem execRollDone_keeps {s0 s : State} (h : Keeps s0 s) : OutKeeps s0 (execRollDone s) := by
  unfold execRollDone
  with_reducible repeat' first
    | assumption | apply OutKeeps.next | apply OutKeeps.done | apply State.fromCoord_keeps | apply State.rollDone_keeps
    | apply whenLive_keeps | intro _

theorem State.applyTable_keeps {s0 s : State} (p : RollPend) (h : Keeps s0 s) : Keeps s0 (State.applyTable s p) := by
  unfold State.applyTable
  with_reducible repeat' first
    | assumption | apply State.wrAll_keeps | refine Keeps.foldlP ?_ (fun _ _ _ => ?_)
    | refine Keeps.foldl ?_ (fun _ _ _ => ?_) | extract_lets | intro _

theorem execRollActivation_keeps {s0 s : State} (h : Keeps s0 s) : OutKeeps s0 (execRollActivation s) := by
  unfold execRollActivation
  with_reducible repeat' first
    | assumption | apply OutKeeps.next | apply OutKeeps.done | apply State.applyTable_keeps | apply State.modZfb_keeps
    | apply State.wrAll_keeps | apply State.wr_keeps | apply whenLive_keeps | refine Keeps.ofPair (by assumption) ?_
    | refine Keeps.foldl ?_ (fun _ _ _ => ?_) | refine Keeps.ite (fun _ => ?_) (fun _ => ?_) | split | extract_lets
    | exact Keeps.field h | refine Keeps.field ?_ | intro _ | refine OutKeeps.ite (fun _ => ?_) (fun _ => ?_)

theorem State.rollEnd_keeps {s0 s : State} (outcome : Nat) (h : Keeps s0 s) : Keeps s0 (State.rollEnd s outcome) := by
  unfold State.rollEnd
  with_reducible repeat' first
    | assumption | apply State.modZfb_keeps | apply State.wrAll_keeps | extract_lets | exact Keeps.field h
    | refine Keeps.field ?_ | intro _

theorem State.toNode_keeps {s0 s : State} (r : RollRun) (k type : Nat) (body : Bytes) (h : Keeps s0 s) : Keeps s0 (State.toNode s r k type body) := by
  unfold State.toNode
  with_reducible repeat' first
    | assumption | apply State.rollSend_keeps

theorem State.sendProbe_keeps {s0 s : State} (gen : Nat) (path : List Nat) (h : Keeps s0 s) : Keeps s0 (State.sendProbe s gen path) := by
  unfold State.sendProbe
  with_reducible repeat' first
    | assumption | apply State.rollSend_keeps

theorem State.sendTables_keeps {s0 s : State} (r : RollRun) (k : Nat) (h : Keeps s0 s) : Keeps s0 (State.sendTables s r k).1 := by
  unfold State.sendTables
  with_reducible repeat' first
    | assumption | apply State.openPort_keeps | apply State.modZfb_keeps | apply State.toNode_keeps
    | refine Keeps.foldlP ?_ (fun _ _ _ => ?_) | refine Keeps.foldl ?_ (fun _ _ _ => ?_)
    | refine Keeps.ite (fun _ => ?_) (fun _ => ?_) | refine Keeps.ite1 (fun _ => ?_) (fun _ => ?_) | extract_lets
    | exact Keeps.field h | refine Keeps.field ?_ | intro _ | dsimp only

theorem State.rollFlood_keeps {s0 s : State} (r : RollRun) (h : Keeps s0 s) : Keeps s0 (State.rollFlood s r) := by
  unfold State.rollFlood
  with_reducible repeat' first
    | assumption | apply State.rollDone_keeps | apply State.modZfb_keeps | apply State.draw_keeps | extract_lets
    | exact Keeps.field h | refine Keeps.field ?_ | intro _

theorem State.rollTables_keeps {s0 s : State} (r : RollRun) (h : Keeps s0 s) : Keeps s0 (State.rollTables s r) := by
  unfold State.rollTables
  with_reducible repeat' first
    | assumption | apply State.sendTables_keeps | apply State.rollFlood_keeps | apply State.rollEnd_keeps
    | apply State.modZfb_keeps | refine Keeps.ofPair (by assumption) ?_ | refine Keeps.foldlP ?_ (fun _ _ _ => ?_)
    | refine Keeps.foldl ?_ (fun _ _ _ => ?_) | refine Keeps.ite (fun _ => ?_) (fun _ => ?_)
    | refine Keeps.ite1 (fun _ => ?_) (fun _ => ?_) | extract_lets | exact Keeps.field h | refine Keeps.field ?_
    | refine Keeps.upd h (by first | exact Nat.le_refl _ | exact Nat.le_add_right _ _) (by exact ⟨rfl, rfl⟩)
    | refine Keeps.upd ?_ (by first | exact Nat.le_refl _ | exact Nat.le_add_right _ _) (by exact ⟨rfl, rfl⟩) | intro _
    | dsimp only

theorem State.rollNext_keeps {s0 s : State} (r : RollRun) (h : Keeps s0 s) : Keeps s0 (State.rollNext s r) := by
  unfold State.rollNext
  with_reducible repeat' first
    | assumption | apply State.rollTables_keeps | apply State.sendProbe_keeps | apply State.modZfb_keeps
    | refine Keeps.ofPair (by assumption) ?_ | split | extract_lets | exact Keeps.field h | refine Keeps.field ?_ | intro _

theorem State.rollStart_keeps {s0 s : State} (h : Keeps s0 s) : Keeps s0 (State.rollStart s).1 := by
  unfold State.rollStart
  with_reducible repeat' first
    | assumption | apply State.sendProbe_keeps | apply State.rollSend_keeps | apply State.rollNext_keeps
    | apply State.modZfb_keeps | apply State.wr_keeps | refine Keeps.foldlP ?_ (fun _ _ _ => ?_)
    | refine Keeps.foldl ?_ (fun _ _ _ => ?_) | refine Keeps.ite (fun _ => ?_) (fun _ => ?_)
    | refine Keeps.ite1 (fun _ => ?_) (fun _ => ?_) | split | extract_lets | exact Keeps.field h | refine Keeps.field ?_
    | intro _ | dsimp only

theorem execZfbRollStart_keeps {s0 s : State} (h : Keeps s0 s) : OutKeeps s0 (execZfbRollStart s) := by
  unfold execZfbRollStart
  with_reducible repeat' first
    | assumption | apply OutKeeps.next | apply OutKeeps.done | apply State.rollStart_keeps | apply whenLive_keeps | intro _

theorem execRollCallRestart_keeps {s0 s : State} (h : Keeps s0 s) : OutKeeps s0 (execRollCallRestart s) := by
  unfold execRollCallRestart
  with_reducible repeat' first
    | assumption | apply OutKeeps.next | apply OutKeeps.done | apply State.rollStart_keeps | apply whenLive_keeps
    | refine Keeps.ofPair (by assumption) ?_ | refine Keeps.ite (fun _ => ?_) (fun _ => ?_)
    | refine Keeps.ite1 (fun _ => ?_) (fun _ => ?_) | split | intro _ | refine OutKeeps.ite (fun _ => ?_) (fun _ => ?_)

theorem State.rollFail_keeps {s0 s : State} (r : RollRun) (h : Keeps s0 s) : Keeps s0 (State.rollFail s r) := by
  unfold State.rollFail
  with_reducible repeat' first
    | assumption | apply State.sendProbe_keeps | apply State.authFail_keeps | apply State.rollNext_keeps
    | apply State.modZfb_keeps | refine Keeps.ofPair (by assumption) ?_ | refine Keeps.ite (fun _ => ?_) (fun _ => ?_) | split
    | extract_lets | exact Keeps.field h | refine Keeps.field ?_ | intro _

theorem State.challenge_keeps {s0 s : State} (path : List Nat) (pr : Present) (gen offer : Nat) (h : Keeps s0 s) : Keeps s0 (State.challenge s path pr gen offer).1 := by
  unfold State.challenge
  with_reducible repeat' first
    | assumption | apply State.rollSend_keeps | apply randomBytes_keeps | refine Keeps.ofPair (by assumption) ?_ | split
    | extract_lets | dsimp only

theorem State.drawChal_keeps {s0 s : State} (slot : Nat) (h : Keeps s0 s) : Keeps s0 (State.drawChal s slot) := by
  unfold State.drawChal
  with_reducible repeat' first
    | assumption | apply State.modZfb_keeps | apply randomBytes_keeps | refine Keeps.ofPair (by assumption) ?_ | split
    | exact Keeps.field h | refine Keeps.field ?_ | intro _

theorem State.markReplaced_keeps {s0 s : State} (id : Nat) (uid : BitVec 64) (h : Keeps s0 s) : Keeps s0 (State.markReplaced s id uid) := by
  unfold State.markReplaced
  with_reducible repeat' first
    | assumption | apply State.drawChal_keeps | apply State.modZfb_keeps | refine Keeps.ofPair (by assumption) ?_
    | refine Keeps.ite (fun _ => ?_) (fun _ => ?_) | split | extract_lets | exact Keeps.field h | refine Keeps.field ?_
    | intro _

theorem State.rollPresent_keeps {s0 s : State} (r : RollRun) (pr : Present) (h : Keeps s0 s) : Keeps s0 (State.rollPresent s r pr) := by
  unfold State.rollPresent
  with_reducible repeat' first
    | assumption | apply State.markReplaced_keeps | apply State.challenge_keeps | apply State.rollNext_keeps
    | apply State.rollFail_keeps | apply State.rollEnd_keeps | apply State.modZfb_keeps
    | refine Keeps.ofPair (by assumption) ?_ | refine Keeps.ite (fun _ => ?_) (fun _ => ?_) | split | extract_lets
    | exact Keeps.field h | refine Keeps.field ?_ | intro _

theorem State.rejoinPresent_keeps {s0 s : State} (id port : Nat) (path : List Nat) (pr : Present) (h : Keeps s0 s) : Keeps s0 (State.rejoinPresent s id port path pr) := by
  unfold State.rejoinPresent
  extract_lets uid offer
  clear_value offer
  cases offer with
  | none => exact State.sendEvent_keeps _ _ (State.modZfb_keeps _ h)
  | some o =>
    have h1 := State.challenge_keeps path pr (s.rd ZFB_STATUS_GEN) o h
    dsimp only
    split
    · exact State.modZfb_keeps _ (Keeps.ofPair (by assumption) h1)
    · exact State.modZfb_keeps _ (State.authFail_keeps _ (Keeps.ofPair (by assumption) h1))

theorem execRollPresent_keeps {s0 s : State} (h : Keeps s0 s) : OutKeeps s0 (execRollPresent s) := by
  unfold execRollPresent
  with_reducible repeat' first
    | assumption | apply OutKeeps.next | apply OutKeeps.done | apply State.rejoinPresent_keeps | apply State.rollPresent_keeps
    | apply State.takeRoll_keeps | apply State.modZfb_keeps | apply whenLive_keeps | refine Keeps.ofPair (by assumption) ?_
    | refine Keeps.ite (fun _ => ?_) (fun _ => ?_) | split | extract_lets | exact Keeps.field h | refine Keeps.field ?_
    | intro _ | refine OutKeeps.ite (fun _ => ?_) (fun _ => ?_)

theorem State.rollAnswer_keeps {s0 s : State} (r : RollRun) (a : RollAuth) (proof : Bytes) (h : Keeps s0 s) : Keeps s0 (State.rollAnswer s r a proof) := by
  unfold State.rollAnswer
  with_reducible repeat' first
    | assumption | apply State.rollSend_keeps | apply State.rollNext_keeps | apply State.rollFail_keeps
    | apply State.draw_keeps | refine Keeps.ofPair (by assumption) ?_ | refine Keeps.ite (fun _ => ?_) (fun _ => ?_) | split
    | extract_lets | exact Keeps.field h | refine Keeps.field ?_

theorem State.giveId_keeps {s0 s : State} (e : RollNode) (path : List Nat) (h : Keeps s0 s) : Keeps s0 (State.giveId s e path) := by
  unfold State.giveId
  with_reducible repeat' first
    | assumption | apply State.rollSend_keeps | refine Keeps.foldl ?_ (fun _ _ _ => ?_) | extract_lets | intro _

theorem State.rejoinAnswer_keeps {s0 s : State} (a : RollAuth) (id port : Nat) (path : List Nat) (proof : Bytes) (h : Keeps s0 s) : Keeps s0 (State.rejoinAnswer s a id port path proof) := by
  unfold State.rejoinAnswer
  with_reducible repeat' first
    | assumption | apply State.markReplaced_keeps | apply State.rollSend_keeps | apply State.authFail_keeps
    | apply State.openPort_keeps | apply State.modZfb_keeps | apply State.giveId_keeps
    | refine Keeps.ofPair (by assumption) ?_ | refine Keeps.ite (fun _ => ?_) (fun _ => ?_) | split | extract_lets
    | exact Keeps.field h | refine Keeps.field ?_ | intro _

theorem execAuthAnswer_keeps {s0 s : State} (h : Keeps s0 s) : OutKeeps s0 (execAuthAnswer s) := by
  unfold execAuthAnswer
  with_reducible repeat' first
    | assumption | apply OutKeeps.next | apply OutKeeps.done | apply State.rejoinAnswer_keeps | apply State.rollAnswer_keeps
    | apply State.takeRoll_keeps | apply whenLive_keeps | refine Keeps.ofPair (by assumption) ?_
    | refine Keeps.ite (fun _ => ?_) (fun _ => ?_) | split | intro _ | refine OutKeeps.ite (fun _ => ?_) (fun _ => ?_)

theorem execAuthDeny_keeps {s0 s : State} (h : Keeps s0 s) : OutKeeps s0 (execAuthDeny s) := by
  unfold execAuthDeny
  with_reducible repeat' first
    | assumption | apply OutKeeps.next | apply OutKeeps.done | apply State.takeRoll_keeps | apply State.authFail_keeps
    | apply State.rollFail_keeps | apply State.modZfb_keeps | apply whenLive_keeps | refine Keeps.ofPair (by assumption) ?_
    | refine Keeps.ite (fun _ => ?_) (fun _ => ?_) | split | exact Keeps.field h | refine Keeps.field ?_ | intro _
    | refine OutKeeps.ite (fun _ => ?_) (fun _ => ?_)

theorem execProbeTimeout_keeps {s0 s : State} (h : Keeps s0 s) : OutKeeps s0 (execProbeTimeout s) := by
  unfold execProbeTimeout
  with_reducible repeat' first
    | assumption | apply OutKeeps.next | apply OutKeeps.done | apply State.sendProbe_keeps | apply State.rollNext_keeps
    | apply State.modZfb_keeps | apply whenLive_keeps | refine Keeps.ofPair (by assumption) ?_
    | refine Keeps.ite (fun _ => ?_) (fun _ => ?_) | split | extract_lets | exact Keeps.field h | refine Keeps.field ?_
    | intro _ | refine OutKeeps.ite (fun _ => ?_) (fun _ => ?_)

theorem execRollAck_keeps {s0 s : State} (h : Keeps s0 s) : OutKeeps s0 (execRollAck s) := by
  unfold execRollAck
  with_reducible repeat' first
    | assumption | apply OutKeeps.next | apply OutKeeps.done | apply State.rollFlood_keeps | apply State.takeRoll_keeps
    | apply State.rollEnd_keeps | apply State.modZfb_keeps | apply State.erase_keeps | apply whenLive_keeps
    | refine Keeps.ofPair (by assumption) ?_ | refine Keeps.ite (fun _ => ?_) (fun _ => ?_) | split | extract_lets
    | exact Keeps.field h | refine Keeps.field ?_ | intro _ | refine OutKeeps.ite (fun _ => ?_) (fun _ => ?_)

theorem execEventLinkUp_keeps {s0 s : State} (h : Keeps s0 s) : OutKeeps s0 (execEventLinkUp s) := by
  unfold execEventLinkUp
  with_reducible repeat' first
    | assumption | apply OutKeeps.next | apply OutKeeps.done | apply State.rollAbort_keeps | apply State.takeEvent_keeps
    | apply State.sendProbe_keeps | apply State.modZfb_keeps | apply whenLive_keeps
    | refine Keeps.ite (fun _ => ?_) (fun _ => ?_) | extract_lets | exact Keeps.field h | refine Keeps.field ?_ | intro _
    | refine OutKeeps.ite (fun _ => ?_) (fun _ => ?_)

theorem State.writeZfb_keeps {s0 s : State} (l : RegLoc) (v : Nat) (h : Keeps s0 s) : Keeps s0 (State.writeZfb s l v).1 := by
  unfold State.writeZfb
  with_reducible repeat' first
    | assumption | apply State.rollStart_keeps | apply State.txTail_keeps | apply State.wrReg_keeps | apply State.set1_keeps
    | apply State.wr_keeps | refine Keeps.ofPair (by assumption) ?_ | refine Keeps.ite (fun _ => ?_) (fun _ => ?_)
    | refine Keeps.ite1 (fun _ => ?_) (fun _ => ?_) | split | extract_lets | intro _ | dsimp only

end Sys2Proof.Machine
end

