-- ==== Sys2Proof/Laws/KCrt.lean ====
section
/-!
SUPPORT. Laws/KCrt.lean: what each operation of Machine/Crt.lean keeps (Laws/Keeps.lean).
-/
namespace Sys2Proof.Machine

theorem State.crtShow_keeps {s0 s : State} (h : Keeps s0 s) : Keeps s0 (State.crtShow s) := by
  unfold State.crtShow
  with_reducible repeat' first
    | assumption | apply State.wrAll_keeps | refine Keeps.ite (fun _ => ?_) (fun _ => ?_) | extract_lets | intro _

theorem State.setCrt_keeps {s0 s : State} (st : Nat) (h : Keeps s0 s) : Keeps s0 (State.setCrt s st) := by
  unfold State.setCrt
  with_reducible repeat' first
    | assumption | apply State.wrState_keeps | apply State.crtShow_keeps

theorem State.crtApply_keeps {s0 s : State} (h : Keeps s0 s) : Keeps s0 (State.crtApply s) := by
  unfold State.crtApply
  with_reducible repeat' first
    | assumption | apply State.crtShow_keeps | apply State.wrAll_keeps | refine Keeps.ofPair (by assumption) ?_
    | refine Keeps.foldl ?_ (fun _ _ _ => ?_) | refine Keeps.ite (fun _ => ?_) (fun _ => ?_) | split | extract_lets
    | exact Keeps.field h | refine Keeps.field ?_ | intro _

theorem State.stnAck_keeps {s0 s : State} (k : Nat) (h : Keeps s0 s) : Keeps s0 (State.stnAck s k).1 := by
  unfold State.stnAck
  with_reducible repeat' first
    | assumption | apply State.wrState_keeps | apply State.modStn_keeps | refine Keeps.ite (fun _ => ?_) (fun _ => ?_)
    | refine Keeps.ite1 (fun _ => ?_) (fun _ => ?_) | exact Keeps.field h | refine Keeps.field ?_ | intro _ | dsimp only

theorem State.stnLose_keeps {s0 s : State} (k : Nat) (h : Keeps s0 s) : Keeps s0 (State.stnLose s k) := by
  unfold State.stnLose
  with_reducible repeat' first
    | assumption | apply State.wrState_keeps | apply State.modStn_keeps | apply State.set1_keeps
    | refine Keeps.ite (fun _ => ?_) (fun _ => ?_) | extract_lets | exact Keeps.field h | refine Keeps.field ?_ | intro _

theorem State.putCan_keeps {s0 s : State} (g : Sig) (v : Nat) (h : Keeps s0 s) : Keeps s0 (State.putCan s g v) := by
  unfold State.putCan
  with_reducible repeat' first
    | assumption | apply State.wr_keeps | refine Keeps.foldlP ?_ (fun _ _ _ => ?_) | refine Keeps.foldl ?_ (fun _ _ _ => ?_)
    | extract_lets | intro _

theorem State.driveSig_keeps {s0 s : State} (g : Sig) (v : Nat) (h : Keeps s0 s) : Keeps s0 (State.driveSig s g v) := by
  unfold State.driveSig
  with_reducible repeat' first
    | assumption | apply State.sendFrame_keeps | apply State.modStn_keeps | apply State.modZfb_keeps
    | apply State.stnAck_keeps | apply State.putCan_keeps | apply State.wrAll_keeps | refine Keeps.ofPair (by assumption) ?_
    | refine Keeps.ite (fun _ => ?_) (fun _ => ?_) | refine Keeps.ite1 (fun _ => ?_) (fun _ => ?_) | split | extract_lets
    | exact Keeps.field h | refine Keeps.field ?_ | intro _

theorem State.safeSig_keeps {s0 s : State} (g : Sig) (h : Keeps s0 s) : Keeps s0 (State.safeSig s g) := by
  unfold State.safeSig
  with_reducible repeat' first
    | assumption | apply State.driveSig_keeps | apply State.putSig_keeps | apply State.set1_keeps
    | refine Keeps.ite (fun _ => ?_) (fun _ => ?_) | extract_lets

theorem State.sendStn_keeps {s0 s : State} (dst typ flags cycle at32 : Nat) (vals : List Nat) (h : Keeps s0 s) : Keeps s0 (State.sendStn s dst typ flags cycle at32 vals) := by
  unfold State.sendStn
  with_reducible repeat' first
    | assumption | apply State.sendFrame_keeps | extract_lets

theorem State.stnOutput_keeps {s0 s : State} (k : Nat) (d : StnDesc) (safe : Bool) (h : Keeps s0 s) : Keeps s0 (State.stnOutput s k d safe) := by
  unfold State.stnOutput
  with_reducible repeat' first
    | assumption | apply State.sendStn_keeps | apply State.modStn_keeps | extract_lets | exact Keeps.field h
    | refine Keeps.field ?_ | intro _

theorem State.stnOutputs_keeps {s0 s : State} (t : Nat) (h : Keeps s0 s) : Keeps s0 (State.stnOutputs s t) := by
  unfold State.stnOutputs
  with_reducible repeat' first
    | assumption | apply State.stnOutput_keeps | apply State.satInc_keeps | apply State.modStn_keeps | apply State.set1_keeps
    | refine Keeps.ofPair (by assumption) ?_ | refine Keeps.foldlP ?_ (fun _ _ _ => ?_)
    | refine Keeps.foldl ?_ (fun _ _ _ => ?_) | refine Keeps.ite (fun _ => ?_) (fun _ => ?_)
    | refine Keeps.ite1 (fun _ => ?_) (fun _ => ?_) | split | extract_lets | exact Keeps.field h | refine Keeps.field ?_
    | intro _

theorem State.releaseTask_keeps {s0 s : State} (t : Nat) (d : TaskDesc) (j r : Nat) (h : Keeps s0 s) : Keeps s0 (State.releaseTask s t d j r) := by
  unfold State.releaseTask
  with_reducible repeat' first
    | assumption | apply State.wrapInc_keeps | apply State.modTask_keeps | apply State.count_keeps | extract_lets
    | exact Keeps.field h | refine Keeps.field ?_ | intro _

theorem State.releaseLast_keeps {s0 s : State} (t : Nat) (d : TaskDesc) (h : Keeps s0 s) : Keeps s0 (State.releaseLast s t d) := by
  unfold State.releaseLast
  cases s.cycleOf d with
  | none => exact h
  | some j => exact Keeps.ite (fun _ => State.releaseTask_keeps _ _ _ _ h) fun _ => h

theorem execTaskRelease_keeps {s0 s : State} (t : Fin 32) (h : Keeps s0 s) : OutKeeps s0 (execTaskRelease t s) := by
  unfold execTaskRelease
  with_reducible repeat' first
    | assumption | apply OutKeeps.next | apply OutKeeps.done | apply State.releaseLast_keeps | apply whenLive_keeps
    | refine Keeps.ofPair (by assumption) ?_ | split | intro _

theorem State.taskEvent_keeps {s0 s : State} (t : Nat) (d : TaskDesc) (h : Keeps s0 s) : Keeps s0 (State.taskEvent s t d) := by
  unfold State.taskEvent
  with_reducible repeat' first
    | assumption | apply State.releaseTask_keeps | apply State.satInc_keeps | apply State.set1_keeps | apply State.wr_keeps
    | refine Keeps.ite (fun _ => ?_) (fun _ => ?_)

theorem execEventRelease_keeps {s0 s : State} (t : Fin 32) (h : Keeps s0 s) : OutKeeps s0 (execEventRelease t s) := by
  unfold execEventRelease
  with_reducible repeat' first
    | assumption | apply OutKeeps.next | apply OutKeeps.done | apply State.taskEvent_keeps | apply State.modCrt_keeps
    | apply State.erase_keeps | apply whenLive_keeps | refine Keeps.ofPair (by assumption) ?_
    | refine Keeps.ite (fun _ => ?_) (fun _ => ?_) | split | exact Keeps.field h | refine Keeps.field ?_ | intro _
    | refine OutKeeps.ite (fun _ => ?_) (fun _ => ?_)

theorem State.latchedRelease_keeps {s0 s : State} (t : Nat) (h : Keeps s0 s) : Keeps s0 (State.latchedRelease s t) := by
  unfold State.latchedRelease
  with_reducible repeat' first
    | assumption | apply State.releaseTask_keeps | apply State.wr_keeps | refine Keeps.ofPair (by assumption) ?_
    | refine Keeps.ite (fun _ => ?_) (fun _ => ?_) | split

theorem execLatchedEventRelease_keeps {s0 s : State} (t : Fin 32) (h : Keeps s0 s) : OutKeeps s0 (execLatchedEventRelease t s) := by
  unfold execLatchedEventRelease
  with_reducible repeat' first
    | assumption | apply OutKeeps.next | apply OutKeeps.done | apply State.latchedRelease_keeps | apply whenLive_keeps
    | intro _

theorem State.stnCopy_keeps {s0 s : State} (t : Nat) (h : Keeps s0 s) : Keeps s0 (State.stnCopy s t) := by
  unfold State.stnCopy
  with_reducible repeat' first
    | assumption | apply State.stnLose_keeps | apply State.wr_keeps | refine Keeps.foldlP ?_ (fun _ _ _ => ?_)
    | refine Keeps.foldl ?_ (fun _ _ _ => ?_) | refine Keeps.ite (fun _ => ?_) (fun _ => ?_)
    | refine Keeps.ite1 (fun _ => ?_) (fun _ => ?_) | extract_lets | intro _

theorem execInputCopy_keeps {s0 s : State} (t : Fin 32) (h : Keeps s0 s) : OutKeeps s0 (execInputCopy t s) := by
  unfold execInputCopy
  with_reducible repeat' first
    | assumption | apply OutKeeps.next | apply OutKeeps.done | apply State.modTask_keeps | apply State.evtScan_keeps
    | apply State.stnCopy_keeps | apply State.modCrt_keeps | apply State.putSig_keeps | apply State.wr_keeps
    | apply whenLive_keeps | refine Keeps.ofPair (by assumption) ?_ | refine Keeps.foldlP ?_ (fun _ _ _ => ?_)
    | refine Keeps.foldl ?_ (fun _ _ _ => ?_) | refine Keeps.ite (fun _ => ?_) (fun _ => ?_)
    | refine Keeps.ite1 (fun _ => ?_) (fun _ => ?_) | split | extract_lets | exact Keeps.field h | refine Keeps.field ?_
    | intro _ | refine OutKeeps.ite (fun _ => ?_) (fun _ => ?_)

theorem execInstanceComplete_keeps {s0 s : State} (t : Fin 32) (outs : List (BitVec 64)) (ints : List (BitVec 32 × BitVec 64)) (h : Keeps s0 s) : OutKeeps s0 (execInstanceComplete t outs ints s) := by
  unfold execInstanceComplete
  with_reducible repeat' first
    | assumption | apply OutKeeps.next | apply OutKeeps.done | apply State.latchedRelease_keeps | apply State.modTask_keeps
    | apply State.putSig_keeps | apply State.wr_keeps | apply whenLive_keeps | refine Keeps.ofPair (by assumption) ?_
    | refine Keeps.foldlP ?_ (fun _ _ _ => ?_) | refine Keeps.foldl ?_ (fun _ _ _ => ?_)
    | refine Keeps.ite (fun _ => ?_) (fun _ => ?_) | refine Keeps.ite1 (fun _ => ?_) (fun _ => ?_) | split | extract_lets
    | exact Keeps.field h | refine Keeps.field ?_ | intro _ | refine OutKeeps.ite (fun _ => ?_) (fun _ => ?_)

theorem State.allSafe_keeps {s0 s : State} (h : Keeps s0 s) : Keeps s0 (State.allSafe s) := by
  unfold State.allSafe
  with_reducible repeat' first
    | assumption | apply State.stnOutput_keeps | apply State.safeSig_keeps | refine Keeps.foldlP ?_ (fun _ _ _ => ?_)
    | refine Keeps.foldl ?_ (fun _ _ _ => ?_) | refine Keeps.ite (fun _ => ?_) (fun _ => ?_)
    | refine Keeps.ite1 (fun _ => ?_) (fun _ => ?_) | extract_lets | intro _

theorem State.overrun_keeps {s0 s : State} (t o : Nat) (h : Keeps s0 s) : Keeps s0 (State.overrun s t o) := by
  unfold State.overrun
  with_reducible repeat' first
    | assumption | apply State.release_keeps | apply State.allSafe_keeps | apply State.satInc_keeps | apply State.errLog_keeps
    | apply State.modCrt_keeps | apply State.setCrt_keeps | apply State.wrAll_keeps
    | refine Keeps.ite (fun _ => ?_) (fun _ => ?_) | extract_lets | exact Keeps.field h | refine Keeps.field ?_ | intro _

theorem State.outSig_keeps {s0 s : State} (safe : Bool) (id v : Nat) (h : Keeps s0 s) : Keeps s0 (State.outSig s safe id v) := by
  unfold State.outSig
  with_reducible repeat' first
    | assumption | apply State.driveSig_keeps | apply State.safeSig_keeps | apply State.putSig_keeps
    | refine Keeps.ofPair (by assumption) ?_ | refine Keeps.ite (fun _ => ?_) (fun _ => ?_) | split | extract_lets

theorem execOutputInstant_keeps {s0 s : State} (t : Fin 32) (h : Keeps s0 s) : OutKeeps s0 (execOutputInstant t s) := by
  unfold execOutputInstant
  with_reducible repeat' first
    | assumption | apply OutKeeps.next | apply OutKeeps.done | apply State.stnOutputs_keeps | apply State.modTask_keeps
    | apply State.overrun_keeps | apply State.outSig_keeps | apply whenLive_keeps | refine Keeps.ofPair (by assumption) ?_
    | refine Keeps.foldlP ?_ (fun _ _ _ => ?_) | refine Keeps.foldl ?_ (fun _ _ _ => ?_)
    | refine Keeps.ite (fun _ => ?_) (fun _ => ?_) | refine Keeps.ite1 (fun _ => ?_) (fun _ => ?_) | split | extract_lets
    | exact Keeps.field h | refine Keeps.field ?_ | intro _ | refine OutKeeps.ite (fun _ => ?_) (fun _ => ?_)

theorem State.crtRej_keeps {s0 s : State} (h : Keeps s0 s) : Keeps s0 (State.crtRej s).1 := by
  unfold State.crtRej
  with_reducible repeat' first
    | assumption | apply State.set1_keeps | dsimp only

theorem State.crtRun_keeps {s0 s : State} (h : Keeps s0 s) : Keeps s0 (State.crtRun s).1 := by
  unfold State.crtRun
  with_reducible repeat' first
    | assumption | apply State.evtScan_keeps | apply State.modCrt_keeps | apply State.setCrt_keeps | apply State.crtRej_keeps
    | refine Keeps.ite (fun _ => ?_) (fun _ => ?_) | refine Keeps.ite1 (fun _ => ?_) (fun _ => ?_) | extract_lets
    | exact Keeps.field h | refine Keeps.field ?_
    | refine Keeps.upd h (by first | exact Nat.le_refl _ | exact Nat.le_add_right _ _) (by exact ⟨rfl, rfl⟩)
    | refine Keeps.upd ?_ (by first | exact Nat.le_refl _ | exact Nat.le_add_right _ _) (by exact ⟨rfl, rfl⟩) | intro _
    | dsimp only

theorem State.crtStop_keeps {s0 s : State} (h : Keeps s0 s) : Keeps s0 (State.crtStop s).1 := by
  unfold State.crtStop
  with_reducible repeat' first
    | assumption | apply State.safeSig_keeps | apply State.setCrt_keeps | apply State.crtRej_keeps
    | refine Keeps.foldlP ?_ (fun _ _ _ => ?_) | refine Keeps.foldl ?_ (fun _ _ _ => ?_)
    | refine Keeps.ite (fun _ => ?_) (fun _ => ?_) | refine Keeps.ite1 (fun _ => ?_) (fun _ => ?_) | extract_lets | intro _
    | dsimp only

theorem State.crtReset_keeps {s0 s : State} (h : Keeps s0 s) : Keeps s0 (State.crtReset s).1 := by
  unfold State.crtReset
  with_reducible repeat' first
    | assumption | apply State.setCrt_keeps | apply State.crtRej_keeps | refine Keeps.ite (fun _ => ?_) (fun _ => ?_)
    | refine Keeps.ite1 (fun _ => ?_) (fun _ => ?_) | dsimp only

theorem State.setTask_keeps {s0 s : State} (t st : Nat) (h : Keeps s0 s) : Keeps s0 (State.setTask s t st) := by
  unfold State.setTask
  with_reducible repeat' first
    | assumption | apply State.wrState_keeps | apply State.crtShow_keeps | apply State.wr_keeps
    | refine Keeps.ite (fun _ => ?_) (fun _ => ?_) | extract_lets

theorem State.taskRun_keeps {s0 s : State} (t : Nat) (h : Keeps s0 s) : Keeps s0 (State.taskRun s t).1 := by
  unfold State.taskRun
  with_reducible repeat' first
    | assumption | apply State.setTask_keeps | apply State.crtRej_keeps | refine Keeps.ite (fun _ => ?_) (fun _ => ?_)
    | refine Keeps.ite1 (fun _ => ?_) (fun _ => ?_) | dsimp only

theorem State.taskStop_keeps {s0 s : State} (t : Nat) (h : Keeps s0 s) : Keeps s0 (State.taskStop s t).1 := by
  unfold State.taskStop
  with_reducible repeat' first
    | assumption | apply State.safeSig_keeps | apply State.setTask_keeps | apply State.crtRej_keeps
    | refine Keeps.ofPair (by assumption) ?_ | refine Keeps.foldlP ?_ (fun _ _ _ => ?_)
    | refine Keeps.foldl ?_ (fun _ _ _ => ?_) | refine Keeps.ite (fun _ => ?_) (fun _ => ?_)
    | refine Keeps.ite1 (fun _ => ?_) (fun _ => ?_) | split | extract_lets | intro _ | dsimp only

theorem State.taskHoldOp_keeps {s0 s : State} (t : Nat) (h : Keeps s0 s) : Keeps s0 (State.taskHoldOp s t).1 := by
  unfold State.taskHoldOp
  with_reducible repeat' first
    | assumption | apply State.setTask_keeps | apply State.crtRej_keeps | refine Keeps.ite (fun _ => ?_) (fun _ => ?_)
    | refine Keeps.ite1 (fun _ => ?_) (fun _ => ?_) | dsimp only

theorem State.taskStepOp_keeps {s0 s : State} (t : Nat) (h : Keeps s0 s) : Keeps s0 (State.taskStepOp s t).1 := by
  unfold State.taskStepOp
  with_reducible repeat' first
    | assumption | apply State.modTask_keeps | apply State.crtRej_keeps | refine Keeps.ite (fun _ => ?_) (fun _ => ?_)
    | refine Keeps.ite1 (fun _ => ?_) (fun _ => ?_) | exact Keeps.field h | refine Keeps.field ?_ | intro _ | dsimp only

theorem State.taskResumeOp_keeps {s0 s : State} (t : Nat) (h : Keeps s0 s) : Keeps s0 (State.taskResumeOp s t).1 := by
  unfold State.taskResumeOp
  with_reducible repeat' first
    | assumption | apply State.setTask_keeps | apply State.crtRej_keeps | refine Keeps.ite (fun _ => ?_) (fun _ => ?_)
    | refine Keeps.ite1 (fun _ => ?_) (fun _ => ?_) | dsimp only

theorem State.taskTriggerOp_keeps {s0 s : State} (t : Nat) (h : Keeps s0 s) : Keeps s0 (State.taskTriggerOp s t).1 := by
  unfold State.taskTriggerOp
  with_reducible repeat' first
    | assumption | apply State.taskEvent_keeps | apply State.crtRej_keeps | refine Keeps.ofPair (by assumption) ?_
    | refine Keeps.ite (fun _ => ?_) (fun _ => ?_) | refine Keeps.ite1 (fun _ => ?_) (fun _ => ?_) | split | dsimp only

theorem State.stnAckOp_keeps {s0 s : State} (k : Nat) (h : Keeps s0 s) : Keeps s0 (State.stnAckOp s k).1 := by
  unfold State.stnAckOp
  with_reducible repeat' first
    | assumption | apply State.evtScan_keeps | apply State.stnAck_keeps | apply State.crtRej_keeps
    | refine Keeps.ofPair (by assumption) ?_ | split | dsimp only

theorem State.stnAckMask_keeps {s0 s : State} (v : Nat) (h : Keeps s0 s) : Keeps s0 (State.stnAckMask s v).1 := by
  refine State.jointly_keeps h fun p hp t ht => ?_
  obtain ⟨k, _, rfl⟩ := List.mem_map.1 hp
  dsimp only
  split
  · exact State.stnAckOp_keeps k ht
  · exact ht

theorem execCrtRunWrite_keeps {s0 s : State} (run : Bool) (h : Keeps s0 s) : OutKeeps s0 (execCrtRunWrite run s) := by
  unfold execCrtRunWrite
  with_reducible repeat' first
    | assumption | apply OutKeeps.next | apply OutKeeps.done | apply State.crtStop_keeps | apply State.crtRun_keeps
    | apply whenLive_keeps | refine Keeps.ite (fun _ => ?_) (fun _ => ?_) | refine Keeps.ite1 (fun _ => ?_) (fun _ => ?_)
    | intro _ | refine OutKeeps.ite (fun _ => ?_) (fun _ => ?_)

theorem execCrtResetWrite_keeps {s0 s : State} (h : Keeps s0 s) : OutKeeps s0 (execCrtResetWrite s) := by
  unfold execCrtResetWrite
  with_reducible repeat' first
    | assumption | apply OutKeeps.next | apply OutKeeps.done | apply State.crtReset_keeps | apply whenLive_keeps | intro _

theorem execCrtStnAckWrite_keeps {s0 s : State} (mask : BitVec 64) (h : Keeps s0 s) : OutKeeps s0 (execCrtStnAckWrite mask s) := by
  unfold execCrtStnAckWrite
  with_reducible repeat' first
    | assumption | apply OutKeeps.next | apply OutKeeps.done | apply State.stnAckMask_keeps | apply whenLive_keeps | intro _

theorem State.forceLog_keeps {s0 s : State} (op src id : Nat) (h : Keeps s0 s) : Keeps s0 (State.forceLog s op src id) := by
  unfold State.forceLog
  with_reducible repeat' first
    | assumption | apply State.logEvent_keeps

theorem State.forceSet_keeps {s0 s : State} (id value src : Nat) (h : Keeps s0 s) : Keeps s0 (State.forceSet s id value src).1 := by
  unfold State.forceSet
  with_reducible repeat' first
    | assumption | apply State.forceLog_keeps | apply State.crtShow_keeps | apply State.modCrt_keeps
    | refine Keeps.ofPair (by assumption) ?_ | refine Keeps.ite (fun _ => ?_) (fun _ => ?_)
    | refine Keeps.ite1 (fun _ => ?_) (fun _ => ?_) | split | extract_lets | exact Keeps.field h | refine Keeps.field ?_
    | intro _ | dsimp only

theorem State.forceClear_keeps {s0 s : State} (id src : Nat) (h : Keeps s0 s) : Keeps s0 (State.forceClear s id src).1 := by
  unfold State.forceClear
  with_reducible repeat' first
    | assumption | apply State.forceLog_keeps | apply State.crtShow_keeps | apply State.modCrt_keeps
    | refine Keeps.ofPair (by assumption) ?_ | refine Keeps.ite (fun _ => ?_) (fun _ => ?_)
    | refine Keeps.ite1 (fun _ => ?_) (fun _ => ?_) | split | exact Keeps.field h | refine Keeps.field ?_ | intro _
    | dsimp only

theorem execPowerSetpoint_keeps {s0 s : State} (h : Keeps s0 s) : OutKeeps s0 (execPowerSetpoint s) := by
  unfold execPowerSetpoint
  with_reducible repeat' first
    | assumption | apply OutKeeps.next | apply OutKeeps.done | apply State.dispatchOwn_keeps | apply State.takeHanded_keeps
    | apply State.modCrt_keeps | apply whenLive_keeps | refine Keeps.ofPair (by assumption) ?_
    | refine Keeps.foldl ?_ (fun _ _ _ => ?_) | refine Keeps.ite (fun _ => ?_) (fun _ => ?_) | split | extract_lets
    | exact Keeps.field h | refine Keeps.field ?_ | intro _ | refine OutKeeps.ite (fun _ => ?_) (fun _ => ?_)

theorem execSignalWrite_keeps {s0 s : State} (h : Keeps s0 s) : OutKeeps s0 (execSignalWrite s) := by
  unfold execSignalWrite
  with_reducible repeat' first
    | assumption | apply OutKeeps.next | apply OutKeeps.done | apply State.takeHanded_keeps | apply State.evtScan_keeps
    | apply State.satInc_keeps | apply State.modCrt_keeps | apply State.set1_keeps | apply whenLive_keeps
    | refine Keeps.ofPair (by assumption) ?_ | refine Keeps.ite (fun _ => ?_) (fun _ => ?_) | split | exact Keeps.field h
    | refine Keeps.field ?_ | intro _ | refine OutKeeps.ite (fun _ => ?_) (fun _ => ?_)

theorem execStationInputSend_keeps {s0 s : State} (cycle rj : BitVec 32) (h : Keeps s0 s) : OutKeeps s0 (execStationInputSend cycle rj s) := by
  unfold execStationInputSend
  with_reducible repeat' first
    | assumption | apply OutKeeps.next | apply OutKeeps.done | apply State.sendStn_keeps | apply whenLive_keeps
    | refine Keeps.ofPair (by assumption) ?_ | refine Keeps.foldlP ?_ (fun _ _ _ => ?_)
    | refine Keeps.foldl ?_ (fun _ _ _ => ?_) | refine Keeps.ite (fun _ => ?_) (fun _ => ?_)
    | refine Keeps.ite1 (fun _ => ?_) (fun _ => ?_) | split | extract_lets | intro _
    | refine OutKeeps.ite (fun _ => ?_) (fun _ => ?_)

theorem State.takeStn_keeps {s0 s : State} (typ : Nat) (h : Keeps s0 s) : Keeps s0 (State.takeStn s typ).1 := by
  unfold State.takeStn
  with_reducible repeat' first
    | assumption | apply State.satInc_keeps | apply State.modZfb_keeps | refine Keeps.ofPair (by assumption) ?_
    | refine Keeps.ite (fun _ => ?_) (fun _ => ?_) | refine Keeps.ite1 (fun _ => ?_) (fun _ => ?_) | split | extract_lets
    | exact Keeps.field h | refine Keeps.field ?_ | intro _ | dsimp only

theorem execStationInputFrame_keeps {s0 s : State} (h : Keeps s0 s) : OutKeeps s0 (execStationInputFrame s) := by
  unfold execStationInputFrame
  with_reducible repeat' first
    | assumption | apply OutKeeps.next | apply OutKeeps.done | apply State.wrState_keeps | apply State.evtScan_keeps
    | apply State.stnLose_keeps | apply State.takeStn_keeps | apply State.modStn_keeps | apply State.wrB_keeps
    | apply State.wr_keeps | apply whenLive_keeps | refine Keeps.ofPair (by assumption) ?_
    | refine Keeps.ite (fun _ => ?_) (fun _ => ?_) | refine Keeps.ite1 (fun _ => ?_) (fun _ => ?_) | split | extract_lets
    | exact Keeps.field h | refine Keeps.field ?_ | intro _ | refine OutKeeps.ite (fun _ => ?_) (fun _ => ?_)

theorem execStationOutputFrame_keeps {s0 s : State} (h : Keeps s0 s) : OutKeeps s0 (execStationOutputFrame s) := by
  unfold execStationOutputFrame
  with_reducible repeat' first
    | assumption | apply OutKeeps.next | apply OutKeeps.done | apply State.takeStn_keeps | apply State.modCrt_keeps
    | apply whenLive_keeps | refine Keeps.ofPair (by assumption) ?_ | refine Keeps.ite (fun _ => ?_) (fun _ => ?_) | split
    | exact Keeps.field h | refine Keeps.field ?_ | intro _ | refine OutKeeps.ite (fun _ => ?_) (fun _ => ?_)

theorem execStationApply_keeps {s0 s : State} (h : Keeps s0 s) : OutKeeps s0 (execStationApply s) := by
  unfold execStationApply
  with_reducible repeat' first
    | assumption | apply OutKeeps.next | apply OutKeeps.done | apply State.driveSig_keeps | apply State.safeSig_keeps
    | apply State.modCrt_keeps | apply State.putSig_keeps | apply whenLive_keeps | refine Keeps.ofPair (by assumption) ?_
    | refine Keeps.foldl ?_ (fun _ _ _ => ?_) | refine Keeps.ite (fun _ => ?_) (fun _ => ?_) | split | extract_lets
    | exact Keeps.field h | refine Keeps.field ?_ | intro _ | refine OutKeeps.ite (fun _ => ?_) (fun _ => ?_)

theorem execEventLinkDown_keeps {s0 s : State} (h : Keeps s0 s) : OutKeeps s0 (execEventLinkDown s) := by
  unfold execEventLinkDown
  with_reducible repeat' first
    | assumption | apply OutKeeps.next | apply OutKeeps.done | apply State.takeEvent_keeps | apply State.evtScan_keeps
    | apply State.stnLose_keeps | apply whenLive_keeps | refine Keeps.foldlP ?_ (fun _ _ _ => ?_)
    | refine Keeps.foldl ?_ (fun _ _ _ => ?_) | refine Keeps.ite (fun _ => ?_) (fun _ => ?_)
    | refine Keeps.ite1 (fun _ => ?_) (fun _ => ?_) | intro _ | refine OutKeeps.ite (fun _ => ?_) (fun _ => ?_)

theorem State.crtTakeover_keeps {s0 s : State} (h : Keeps s0 s) : Keeps s0 (State.crtTakeover s) := by
  unfold State.crtTakeover
  with_reducible repeat' first
    | assumption | apply State.modCrt_keeps | exact Keeps.field h | refine Keeps.field ?_
    | refine Keeps.upd h (by first | exact Nat.le_refl _ | exact Nat.le_add_right _ _) (by exact ⟨rfl, rfl⟩)
    | refine Keeps.upd ?_ (by first | exact Nat.le_refl _ | exact Nat.le_add_right _ _) (by exact ⟨rfl, rfl⟩) | intro _

theorem State.writeCrt_keeps {s0 s : State} (l : RegLoc) (v : Nat) (h : Keeps s0 s) : Keeps s0 (State.writeCrt s l v).1 := by
  unfold State.writeCrt
  with_reducible repeat' first
    | assumption | apply State.stnAckMask_keeps | apply State.crtReset_keeps | apply State.jointly_keeps
    | apply State.crtStop_keeps | apply State.crtRun_keeps | apply State.wrAll_keeps | apply State.wrReg_keeps
    | apply State.set1_keeps | refine State.jointly_keeps (by assumption) ?_ | refine List.forall_mem_cons.mpr ⟨?_, ?_⟩
    | exact List.forall_mem_nil _ | refine Keeps.ite (fun _ => ?_) (fun _ => ?_)
    | refine Keeps.ite1 (fun _ => ?_) (fun _ => ?_) | split | extract_lets | intro _ | dsimp only

end Sys2Proof.Machine
end

