-- ==== Sys2Proof/Laws/KFio.lean ====
section
/-!
SUPPORT. Laws/KFio.lean: what each operation of Machine/Fio.lean keeps (Laws/Keeps.lean).
-/
namespace Sys2Proof.Machine

theorem State.modFio_keeps {s0 s : State} (f : FioState → FioState) (h : Keeps s0 s) : Keeps s0 (State.modFio s f) := by
  unfold State.modFio
  with_reducible repeat' first
    | assumption | exact Keeps.field h | refine Keeps.field ?_

theorem State.modField_keeps {s0 s : State} (f : FieldSide → FieldSide) (h : Keeps s0 s) : Keeps s0 (State.modField s f) := by
  unfold State.modField
  with_reducible repeat' first
    | assumption | exact Keeps.field h | refine Keeps.field ?_

theorem State.updFioPend_keeps {s0 s : State} (h : Keeps s0 s) : Keeps s0 (State.updFioPend s) := by
  unfold State.updFioPend
  with_reducible repeat' first
    | assumption | apply State.wrB_keeps

theorem State.fioSync_keeps {s0 s : State} (h : Keeps s0 s) : Keeps s0 (State.fioSync s) := by
  unfold State.fioSync
  with_reducible repeat' first
    | assumption | apply State.modFio_keeps | exact Keeps.field h | refine Keeps.field ?_ | intro _

theorem execFioDownlinkSend_keeps {s0 s : State} (h : Keeps s0 s) : OutKeeps s0 (execFioDownlinkSend s) := by
  unfold execFioDownlinkSend
  with_reducible repeat' first
    | assumption | apply OutKeeps.next | apply OutKeeps.done | apply State.fioSync_keeps | apply State.modFio_keeps
    | apply whenLive_keeps | refine Keeps.ofPair (by assumption) ?_ | refine Keeps.ite (fun _ => ?_) (fun _ => ?_) | split
    | extract_lets | exact Keeps.field h | refine Keeps.field ?_ | intro _ | dsimp only
    | refine OutKeeps.ite (fun _ => ?_) (fun _ => ?_)

theorem execFieldHeldResend_keeps {s0 s : State} (h : Keeps s0 s) : OutKeeps s0 (execFieldHeldResend s) := by
  unfold execFieldHeldResend
  with_reducible repeat' first
    | assumption | apply OutKeeps.next | apply OutKeeps.done | apply State.modFio_keeps | apply whenLive_keeps
    | exact Keeps.field h | refine Keeps.field ?_ | intro _

theorem State.fioHeldWrite_keeps {s0 s : State} (l : RegLoc) (v : Nat) (h : Keeps s0 s) : Keeps s0 (State.fioHeldWrite s l v).1 := by
  unfold State.fioHeldWrite
  with_reducible repeat' first
    | assumption | apply State.updFioPend_keeps | apply State.modFio_keeps | apply State.wrReg_keeps | apply State.set1_keeps
    | refine Keeps.ite (fun _ => ?_) (fun _ => ?_) | refine Keeps.ite1 (fun _ => ?_) (fun _ => ?_) | extract_lets
    | exact Keeps.field h | refine Keeps.field ?_ | intro _ | dsimp only

theorem execFieldHeldWrite_keeps {s0 s : State} (r : Fin 33) (v : BitVec 32) (h : Keeps s0 s) : OutKeeps s0 (execFieldHeldWrite r v s) := by
  unfold execFieldHeldWrite
  with_reducible repeat' first
    | assumption | apply OutKeeps.next | apply OutKeeps.done | apply State.fioHeldWrite_keeps | apply whenLive_keeps
    | refine Keeps.ofPair (by assumption) ?_ | split | intro _

theorem State.fioEnable_keeps {s0 s : State} (b : Bool) (h : Keeps s0 s) : Keeps s0 (State.fioEnable s b) := by
  unfold State.fioEnable
  with_reducible repeat' first
    | assumption | apply State.fioSync_keeps | apply State.modFio_keeps | apply State.wrB_keeps
    | refine Keeps.ite (fun _ => ?_) (fun _ => ?_) | extract_lets | exact Keeps.field h | refine Keeps.field ?_ | intro _

theorem execFioEnable_keeps {s0 s : State} (on : Bool) (h : Keeps s0 s) : OutKeeps s0 (execFioEnable on s) := by
  unfold execFioEnable
  with_reducible repeat' first
    | assumption | apply OutKeeps.next | apply OutKeeps.done | apply State.fioEnable_keeps | apply whenLive_keeps | intro _

theorem State.fioOutWrite_keeps {s0 s : State} (v : Nat) (h : Keeps s0 s) : Keeps s0 (State.fioOutWrite s v) := by
  unfold State.fioOutWrite
  with_reducible repeat' first
    | assumption | apply State.set1_keeps | apply State.wr_keeps | refine Keeps.ite (fun _ => ?_) (fun _ => ?_) | split
    | extract_lets

theorem State.takeFaults_keeps {s0 s : State} (f : Fld) (idx new : Nat) (h : Keeps s0 s) : Keeps s0 (State.takeFaults s f idx new) := by
  unfold State.takeFaults
  with_reducible repeat' first
    | assumption | apply State.stateLog_keeps | apply State.wr_keeps | refine Keeps.foldl ?_ (fun _ _ _ => ?_)
    | refine Keeps.ite (fun _ => ?_) (fun _ => ?_) | extract_lets | intro _

theorem State.takeEdges_keeps {s0 s : State} (f : FioUp) (h : Keeps s0 s) : Keeps s0 (State.takeEdges s f) := by
  unfold State.takeEdges
  with_reducible repeat' first
    | assumption | apply State.wrAll_keeps | refine Keeps.foldl ?_ (fun _ _ _ => ?_)
    | refine Keeps.ite (fun _ => ?_) (fun _ => ?_) | extract_lets | intro _

theorem State.fioConfirm_keeps {s0 s : State} (f : FioUp) (h : Keeps s0 s) : Keeps s0 (State.fioConfirm s f) := by
  unfold State.fioConfirm
  with_reducible repeat' first
    | assumption | apply State.updFioPend_keeps | apply State.modFio_keeps | apply State.set1_keeps
    | refine Keeps.ofPair (by assumption) ?_ | refine Keeps.ite (fun _ => ?_) (fun _ => ?_) | split | extract_lets
    | exact Keeps.field h | refine Keeps.field ?_ | intro _

theorem State.fioEcho_keeps {s0 s : State} (f : FioUp) (h : Keeps s0 s) : Keeps s0 (State.fioEcho s f) := by
  unfold State.fioEcho
  with_reducible repeat' first
    | assumption | apply State.updFioPend_keeps | apply State.modFio_keeps | refine Keeps.ite (fun _ => ?_) (fun _ => ?_)
    | extract_lets | exact Keeps.field h | refine Keeps.field ?_ | intro _

theorem State.discRelease_keeps {s0 s : State} (old new : Nat) (h : Keeps s0 s) : Keeps s0 (State.discRelease s old new) := by
  unfold State.discRelease
  with_reducible repeat' first
    | assumption | apply State.release_keeps | refine Keeps.ite (fun _ => ?_) (fun _ => ?_) | intro _

theorem execFioUplinkReceive_keeps {s0 s : State} (f : FioUp) (h : Keeps s0 s) : OutKeeps s0 (execFioUplinkReceive f s) := by
  unfold execFioUplinkReceive
  with_reducible repeat' first
    | assumption | apply OutKeeps.next | apply OutKeeps.done | apply State.discRelease_keeps | apply State.takeFaults_keeps
    | apply State.fioConfirm_keeps | apply State.takeEdges_keeps | apply State.stateLog_keeps | apply State.evtScan_keeps
    | apply State.fioEcho_keeps | apply State.satAdd_keeps | apply State.satInc_keeps | apply State.errLog_keeps
    | apply State.modFio_keeps | apply State.wrAll_keeps | apply State.set1_keeps | apply whenLive_keeps
    | refine Keeps.ite (fun _ => ?_) (fun _ => ?_) | extract_lets | exact Keeps.field h | refine Keeps.field ?_ | intro _
    | refine OutKeeps.ite (fun _ => ?_) (fun _ => ?_)

theorem execFioLinkLost_keeps {s0 s : State} (h : Keeps s0 s) : OutKeeps s0 (execFioLinkLost s) := by
  unfold execFioLinkLost
  with_reducible repeat' first
    | assumption | apply OutKeeps.next | apply OutKeeps.done | apply State.fioSync_keeps | apply State.errLog_keeps
    | apply State.modFio_keeps | apply State.wr_keeps | apply whenLive_keeps | refine Keeps.ite (fun _ => ?_) (fun _ => ?_)
    | extract_lets | exact Keeps.field h | refine Keeps.field ?_ | intro _ | refine OutKeeps.ite (fun _ => ?_) (fun _ => ?_)

theorem State.writeFio_keeps {s0 s : State} (l : RegLoc) (v : Nat) (h : Keeps s0 s) : Keeps s0 (State.writeFio s l v).1 := by
  unfold State.writeFio
  with_reducible repeat' first
    | assumption | apply State.fioHeldWrite_keeps | apply State.fioOutWrite_keeps | apply State.fioEnable_keeps
    | apply State.wrReg_keeps | refine Keeps.ite (fun _ => ?_) (fun _ => ?_) | refine Keeps.ite1 (fun _ => ?_) (fun _ => ?_)
    | dsimp only

theorem execFioCommandFrame_keeps {s0 s : State} (d : FioDown) (rb : BitVec 16) (h : Keeps s0 s) : OutKeeps s0 (execFioCommandFrame d rb s) := by
  unfold execFioCommandFrame
  with_reducible repeat' first
    | assumption | apply OutKeeps.next | apply OutKeeps.done | apply State.modField_keeps
    | refine Keeps.ite (fun _ => ?_) (fun _ => ?_) | extract_lets | exact Keeps.field h | refine Keeps.field ?_ | intro _
    | refine OutKeeps.ite (fun _ => ?_) (fun _ => ?_)

theorem execFioSyncFrame_keeps {s0 s : State} (d : FioDown) (rb : BitVec 16) (h : Keeps s0 s) : OutKeeps s0 (execFioSyncFrame d rb s) := by
  unfold execFioSyncFrame
  with_reducible repeat' first
    | assumption | apply OutKeeps.next | apply OutKeeps.done | apply State.modField_keeps
    | refine Keeps.ite (fun _ => ?_) (fun _ => ?_) | split | extract_lets | exact Keeps.field h | refine Keeps.field ?_
    | intro _ | refine OutKeeps.ite (fun _ => ?_) (fun _ => ?_)

theorem execFioUplinkSend_keeps {s0 s : State} (h : Keeps s0 s) : OutKeeps s0 (execFioUplinkSend s) := by
  unfold execFioUplinkSend
  with_reducible repeat' first
    | assumption | apply OutKeeps.next | apply OutKeeps.done | apply State.modField_keeps | apply State.modFio_keeps
    | refine Keeps.ofPair (by assumption) ?_ | split | extract_lets | exact Keeps.field h | refine Keeps.field ?_ | intro _

theorem execFioSilence_keeps {s0 s : State} (h : Keeps s0 s) : OutKeeps s0 (execFioSilence s) := by
  unfold execFioSilence
  with_reducible repeat' first
    | assumption | apply OutKeeps.next | apply OutKeeps.done | apply State.modField_keeps
    | refine Keeps.ite (fun _ => ?_) (fun _ => ?_) | exact Keeps.field h | refine Keeps.field ?_ | intro _
    | refine OutKeeps.ite (fun _ => ?_) (fun _ => ?_)

theorem execFieldSupplyLow_keeps {s0 s : State} (h : Keeps s0 s) : OutKeeps s0 (execFieldSupplyLow s) := by
  unfold execFieldSupplyLow
  with_reducible repeat' first
    | assumption | apply OutKeeps.next | apply OutKeeps.done | apply State.modField_keeps | exact Keeps.field h
    | refine Keeps.field ?_ | intro _

theorem execFieldSupplyGood_keeps {s0 s : State} (h : Keeps s0 s) : OutKeeps s0 (execFieldSupplyGood s) := by
  unfold execFieldSupplyGood
  with_reducible repeat' first
    | assumption | apply OutKeeps.next | apply OutKeeps.done | apply State.modField_keeps
    | refine Keeps.ite (fun _ => ?_) (fun _ => ?_) | exact Keeps.field h | refine Keeps.field ?_ | intro _
    | refine OutKeeps.ite (fun _ => ?_) (fun _ => ?_)

theorem execFieldPor_keeps {s0 s : State} (h : Keeps s0 s) : OutKeeps s0 (execFieldPor s) := by
  unfold execFieldPor
  with_reducible repeat' first
    | assumption | apply OutKeeps.next | apply OutKeeps.done | apply State.modField_keeps | apply State.wr_keeps
    | extract_lets | exact Keeps.field h | refine Keeps.field ?_ | intro _

theorem execFieldSupplyRise_keeps {s0 s : State} (h : Keeps s0 s) : OutKeeps s0 (execFieldSupplyRise s) := by
  unfold execFieldSupplyRise
  with_reducible repeat' first
    | assumption | apply OutKeeps.next | apply OutKeeps.done | apply State.modField_keeps | apply State.wr_keeps
    | refine Keeps.ite (fun _ => ?_) (fun _ => ?_) | exact Keeps.field h | refine Keeps.field ?_ | intro _
    | refine OutKeeps.ite (fun _ => ?_) (fun _ => ?_)

theorem execInputDebounceChange_keeps {s0 s : State} (n : Fin 16) (raw : Bool) (h : Keeps s0 s) : OutKeeps s0 (execInputDebounceChange n raw s) := by
  unfold execInputDebounceChange
  with_reducible repeat' first
    | assumption | apply OutKeeps.next | apply OutKeeps.done | apply State.modField_keeps
    | refine Keeps.ite (fun _ => ?_) (fun _ => ?_) | split | extract_lets | exact Keeps.field h | refine Keeps.field ?_
    | intro _ | refine OutKeeps.ite (fun _ => ?_) (fun _ => ?_)

theorem execOutputOverload_keeps {s0 s : State} (n : Fin 16) (h : Keeps s0 s) : OutKeeps s0 (execOutputOverload n s) := by
  unfold execOutputOverload
  with_reducible repeat' first
    | assumption | apply OutKeeps.next | apply OutKeeps.done | apply State.modField_keeps | apply State.offSeen_keeps
    | refine Keeps.ite (fun _ => ?_) (fun _ => ?_) | split | exact Keeps.field h | refine Keeps.field ?_ | intro _
    | refine OutKeeps.ite (fun _ => ?_) (fun _ => ?_)

theorem execOutputOverTemp_keeps {s0 s : State} (n : Fin 16) (h : Keeps s0 s) : OutKeeps s0 (execOutputOverTemp n s) := by
  unfold execOutputOverTemp
  with_reducible repeat' first
    | assumption | apply OutKeeps.next | apply OutKeeps.done | apply State.modField_keeps | apply State.offSeen_keeps
    | refine Keeps.ite (fun _ => ?_) (fun _ => ?_) | split | exact Keeps.field h | refine Keeps.field ?_ | intro _
    | refine OutKeeps.ite (fun _ => ?_) (fun _ => ?_)

theorem execOutputRetry_keeps {s0 s : State} (n : Fin 16) (holds : Bool) (h : Keeps s0 s) : OutKeeps s0 (execOutputRetry n holds s) := by
  unfold execOutputRetry
  with_reducible repeat' first
    | assumption | apply OutKeeps.next | apply OutKeeps.done | apply State.modField_keeps
    | refine Keeps.ite (fun _ => ?_) (fun _ => ?_) | extract_lets | exact Keeps.field h | refine Keeps.field ?_ | intro _
    | refine OutKeeps.ite (fun _ => ?_) (fun _ => ?_)

theorem execOpenWire_keeps {s0 s : State} (n : Fin 16) (on : Bool) (h : Keeps s0 s) : OutKeeps s0 (execOpenWire n on s) := by
  unfold execOpenWire
  with_reducible repeat' first
    | assumption | apply OutKeeps.next | apply OutKeeps.done | apply State.modField_keeps
    | refine Keeps.ite (fun _ => ?_) (fun _ => ?_) | exact Keeps.field h | refine Keeps.field ?_ | intro _
    | refine OutKeeps.ite (fun _ => ?_) (fun _ => ?_)

theorem execDiscrepancy_keeps {s0 s : State} (n : Fin 16) (on : Bool) (h : Keeps s0 s) : OutKeeps s0 (execDiscrepancy n on s) := by
  unfold execDiscrepancy
  with_reducible repeat' first
    | assumption | apply OutKeeps.next | apply OutKeeps.done | apply State.modField_keeps
    | refine Keeps.ite (fun _ => ?_) (fun _ => ?_) | split | exact Keeps.field h | refine Keeps.field ?_ | intro _
    | refine OutKeeps.ite (fun _ => ?_) (fun _ => ?_)

end Sys2Proof.Machine
end

