-- ==== Sys2Proof/Laws/KSaf.lean ====
section
/-!
SUPPORT. Laws/KSaf.lean: what each operation of Machine/Saf.lean keeps (Laws/Keeps.lean).
-/
namespace Sys2Proof.Machine

theorem State.modSaf_keeps {s0 s : State} (f : SafState → SafState) (h : Keeps s0 s) : Keeps s0 (State.modSaf s f) := by
  unfold State.modSaf
  with_reducible repeat' first
    | assumption | exact Keeps.field h | refine Keeps.field ?_

theorem State.modLane_keeps {s0 s : State} (k : Nat) (f : SafLane → SafLane) (h : Keeps s0 s) : Keeps s0 (State.modLane s k f) := by
  unfold State.modLane
  with_reducible repeat' first
    | assumption | apply State.modSaf_keeps | exact Keeps.field h | refine Keeps.field ?_ | intro _

theorem State.safApply_keeps {s0 s : State} (b : Bytes) (h : Keeps s0 s) : Keeps s0 (State.safApply s b) := by
  unfold State.safApply
  with_reducible repeat' first
    | assumption | apply State.modSaf_keeps | apply State.set1_keeps | apply State.wrB_keeps | apply State.wr_keeps
    | refine Keeps.ofPair (by assumption) ?_ | refine Keeps.foldl ?_ (fun _ _ _ => ?_)
    | refine Keeps.ite (fun _ => ?_) (fun _ => ?_) | split | extract_lets | exact Keeps.field h | refine Keeps.field ?_
    | intro _

theorem State.safField_keeps {s0 s : State} (f : Fld) (idx v : Nat) (off : Bool) (h : Keeps s0 s) : Keeps s0 (State.safField s f idx v off) := by
  unfold State.safField
  with_reducible repeat' first
    | assumption | apply State.stateLog_keeps | apply State.wr_keeps | refine Keeps.foldl ?_ (fun _ _ _ => ?_)
    | refine Keeps.ite (fun _ => ?_) (fun _ => ?_) | split | extract_lets | intro _

theorem State.safFlags_keeps {s0 s : State} (k errs alarms : Nat) (h : Keeps s0 s) : Keeps s0 (State.safFlags s k errs alarms) := by
  unfold State.safFlags
  with_reducible repeat' first
    | assumption | apply State.alarmLog_keeps | apply State.errLog_keeps | apply State.set1_keeps
    | refine Keeps.foldl ?_ (fun _ _ _ => ?_) | refine Keeps.ite (fun _ => ?_) (fun _ => ?_) | extract_lets
    | exact Keeps.field h | refine Keeps.field ?_ | intro _

theorem State.safReport_keeps {s0 s : State} (k : Nat) (h : Keeps s0 s) : Keeps s0 (State.safReport s k) := by
  unfold State.safReport
  with_reducible repeat' first
    | assumption | apply State.safField_keeps | apply State.safFlags_keeps | apply State.modLane_keeps
    | apply State.satAdd_keeps | apply State.wrB_keeps | apply State.wr_keeps | refine Keeps.ite (fun _ => ?_) (fun _ => ?_)
    | extract_lets | exact Keeps.field h | refine Keeps.field ?_ | intro _

theorem execSafDownlinkSend_keeps {s0 s : State} (h : Keeps s0 s) : OutKeeps s0 (execSafDownlinkSend s) := by
  unfold execSafDownlinkSend
  with_reducible repeat' first
    | assumption | apply OutKeeps.next | apply OutKeeps.done | apply State.modSaf_keeps | apply State.wrB_keeps
    | apply whenLive_keeps | extract_lets | exact Keeps.field h | refine Keeps.field ?_ | intro _

theorem execSafLaneFrame_keeps {s0 s : State} (k : Fin 2) (f : SafDown) (h : Keeps s0 s) : OutKeeps s0 (execSafLaneFrame k f s) := by
  unfold execSafLaneFrame
  with_reducible repeat' first
    | assumption | apply OutKeeps.next | apply OutKeeps.done | apply State.safReport_keeps | apply State.modLane_keeps
    | refine Keeps.ofPair (by assumption) ?_ | refine Keeps.foldl ?_ (fun _ _ _ => ?_)
    | refine Keeps.ite (fun _ => ?_) (fun _ => ?_) | split | extract_lets | exact Keeps.field h | refine Keeps.field ?_
    | intro _ | refine OutKeeps.ite (fun _ => ?_) (fun _ => ?_)

theorem execSafUplinkReceive_keeps {s0 s : State} (k : Fin 2) (valid : Bool) (h : Keeps s0 s) : OutKeeps s0 (execSafUplinkReceive k valid s) := by
  unfold execSafUplinkReceive
  with_reducible repeat' first
    | assumption | apply OutKeeps.next | apply OutKeeps.done | apply State.safReport_keeps | apply State.modLane_keeps
    | apply State.modSaf_keeps | apply State.wrB_keeps | apply whenLive_keeps | refine Keeps.ite (fun _ => ?_) (fun _ => ?_)
    | exact Keeps.field h | refine Keeps.field ?_ | intro _ | refine OutKeeps.ite (fun _ => ?_) (fun _ => ?_)

theorem execSafLaneSilent_keeps {s0 s : State} (k : Fin 2) (h : Keeps s0 s) : OutKeeps s0 (execSafLaneSilent k s) := by
  unfold execSafLaneSilent
  with_reducible repeat' first
    | assumption | apply OutKeeps.next | apply OutKeeps.done | apply State.set1_keeps | apply State.wrB_keeps
    | apply whenLive_keeps | refine Keeps.ite (fun _ => ?_) (fun _ => ?_) | intro _
    | refine OutKeeps.ite (fun _ => ?_) (fun _ => ?_)

theorem State.setLane_keeps {s0 s : State} (k : Nat) (l : SafLane) (h : Keeps s0 s) : Keeps s0 (State.setLane s k l) := by
  unfold State.setLane
  with_reducible repeat' first
    | assumption | apply State.modLane_keeps | apply State.modSaf_keeps | refine Keeps.foldl ?_ (fun _ _ _ => ?_)
    | refine Keeps.ite (fun _ => ?_) (fun _ => ?_) | extract_lets | exact Keeps.field h | refine Keeps.field ?_ | intro _

theorem State.laneDiff_keeps {s0 s : State} (h : Keeps s0 s) : Keeps s0 (State.laneDiff s) := by
  unfold State.laneDiff
  with_reducible repeat' first
    | assumption | apply State.safReport_keeps | apply State.setLane_keeps | apply State.modSaf_keeps
    | refine Keeps.foldl ?_ (fun _ _ _ => ?_) | split | extract_lets | exact Keeps.field h | refine Keeps.field ?_ | intro _

theorem State.exchange_keeps {s0 s : State} (k : Nat) (h : Keeps s0 s) : Keeps s0 (State.exchange s k) := by
  unfold State.exchange
  with_reducible repeat' first
    | assumption | apply State.laneDiff_keeps | apply State.modLane_keeps | apply State.modSaf_keeps
    | refine Keeps.ofPair (by assumption) ?_ | refine Keeps.ite (fun _ => ?_) (fun _ => ?_) | split | extract_lets
    | exact Keeps.field h | refine Keeps.field ?_ | intro _

theorem execLaneCycle_keeps {s0 s : State} (k : Fin 2) (h : Keeps s0 s) : OutKeeps s0 (execLaneCycle k s) := by
  unfold execLaneCycle
  with_reducible repeat' first
    | assumption | apply OutKeeps.next | apply OutKeeps.done | apply State.safReport_keeps | apply State.exchange_keeps
    | apply State.setLane_keeps | refine Keeps.ite (fun _ => ?_) (fun _ => ?_) | extract_lets | exact Keeps.field h
    | refine Keeps.field ?_ | refine OutKeeps.ite (fun _ => ?_) (fun _ => ?_)

theorem execLaneSample_keeps {s0 s : State} (k : Fin 2) (levels : BitVec 8) (pins : SafPins) (h : Keeps s0 s) : OutKeeps s0 (execLaneSample k levels pins s) := by
  unfold execLaneSample
  with_reducible repeat' first
    | assumption | apply OutKeeps.next | apply OutKeeps.done | apply State.modLane_keeps
    | refine Keeps.foldl ?_ (fun _ _ _ => ?_) | refine Keeps.ite (fun _ => ?_) (fun _ => ?_) | split | extract_lets
    | exact Keeps.field h | refine Keeps.field ?_ | intro _ | refine OutKeeps.ite (fun _ => ?_) (fun _ => ?_)

theorem execSafRefreshSilence_keeps {s0 s : State} (k : Fin 2) (h : Keeps s0 s) : OutKeeps s0 (execSafRefreshSilence k s) := by
  unfold execSafRefreshSilence
  with_reducible repeat' first
    | assumption | apply OutKeeps.next | apply OutKeeps.done | apply State.safReport_keeps | apply State.setLane_keeps
    | refine Keeps.ite (fun _ => ?_) (fun _ => ?_) | extract_lets | exact Keeps.field h | refine Keeps.field ?_ | intro _
    | refine OutKeeps.ite (fun _ => ?_) (fun _ => ?_)

theorem execInputPairDiscrepancy_keeps {s0 s : State} (k : Fin 2) (p : Fin 4) (h : Keeps s0 s) : OutKeeps s0 (execInputPairDiscrepancy k p s) := by
  unfold execInputPairDiscrepancy
  with_reducible repeat' first
    | assumption | apply OutKeeps.next | apply OutKeeps.done | apply State.safReport_keeps | apply State.modLane_keeps
    | refine Keeps.ite (fun _ => ?_) (fun _ => ?_) | split | extract_lets | exact Keeps.field h | refine Keeps.field ?_
    | intro _ | refine OutKeeps.ite (fun _ => ?_) (fun _ => ?_)

theorem execFunctionSourceDiscrepancy_keeps {s0 s : State} (k : Fin 2) (n : Fin 8) (h : Keeps s0 s) : OutKeeps s0 (execFunctionSourceDiscrepancy k n s) := by
  unfold execFunctionSourceDiscrepancy
  with_reducible repeat' first
    | assumption | apply OutKeeps.next | apply OutKeeps.done | apply State.safReport_keeps | apply State.modLane_keeps
    | refine Keeps.ite (fun _ => ?_) (fun _ => ?_) | extract_lets | intro _ | refine OutKeeps.ite (fun _ => ?_) (fun _ => ?_)

theorem execTelegramTimeout_keeps {s0 s : State} (k : Fin 2) (m : Fin 13) (h : Keeps s0 s) : OutKeeps s0 (execTelegramTimeout k m s) := by
  unfold execTelegramTimeout
  with_reducible repeat' first
    | assumption | apply OutKeeps.next | apply OutKeeps.done | apply State.safReport_keeps | apply State.modLane_keeps
    | refine Keeps.foldl ?_ (fun _ _ _ => ?_) | refine Keeps.ite (fun _ => ?_) (fun _ => ?_) | split | extract_lets
    | exact Keeps.field h | refine Keeps.field ?_ | intro _ | refine OutKeeps.ite (fun _ => ?_) (fun _ => ?_)

theorem execTestPulseStart_keeps {s0 s : State} (q : Fin 2) (h : Keeps s0 s) : OutKeeps s0 (execTestPulseStart q s) := by
  unfold execTestPulseStart
  with_reducible repeat' first
    | assumption | apply OutKeeps.next | apply OutKeeps.done | apply State.modSaf_keeps
    | refine Keeps.ite (fun _ => ?_) (fun _ => ?_) | extract_lets | exact Keeps.field h | refine Keeps.field ?_ | intro _
    | refine OutKeeps.ite (fun _ => ?_) (fun _ => ?_)

theorem State.endWait_keeps {s0 s : State} (q : Nat) (h : Keeps s0 s) : Keeps s0 (State.endWait s q) := by
  unfold State.endWait
  with_reducible repeat' first
    | assumption | apply State.safReport_keeps | apply State.modLane_keeps | refine Keeps.foldl ?_ (fun _ _ _ => ?_)
    | refine Keeps.ite (fun _ => ?_) (fun _ => ?_) | exact Keeps.field h | refine Keeps.field ?_ | intro _

theorem execTestPulseEnd_keeps {s0 s : State} (q : Fin 2) (mv : Nat) (h : Keeps s0 s) : OutKeeps s0 (execTestPulseEnd q mv s) := by
  unfold execTestPulseEnd
  with_reducible repeat' first
    | assumption | apply OutKeeps.next | apply OutKeeps.done | apply State.safReport_keeps | apply State.modLane_keeps
    | apply State.setLane_keeps | apply State.endWait_keeps | apply State.modSaf_keeps | apply State.wrBit_keeps
    | refine Keeps.ofPair (by assumption) ?_ | refine Keeps.foldl ?_ (fun _ _ _ => ?_)
    | refine Keeps.ite (fun _ => ?_) (fun _ => ?_) | split | extract_lets | exact Keeps.field h | refine Keeps.field ?_
    | intro _ | refine OutKeeps.ite (fun _ => ?_) (fun _ => ?_)

theorem execTestPulseOverdue_keeps {s0 s : State} (q : Fin 2) (m : Bool) (h : Keeps s0 s) : OutKeeps s0 (execTestPulseOverdue q m s) := by
  unfold execTestPulseOverdue
  with_reducible repeat' first
    | assumption | apply OutKeeps.next | apply OutKeeps.done | apply State.safReport_keeps | apply State.modLane_keeps
    | apply State.modSaf_keeps | refine Keeps.ite (fun _ => ?_) (fun _ => ?_) | split | exact Keeps.field h
    | refine Keeps.field ?_ | intro _ | refine OutKeeps.ite (fun _ => ?_) (fun _ => ?_)

theorem execTelegramArrival_keeps {s0 s : State} (record : Option (Fin 4 × Fin 128)) (h : Keeps s0 s) : OutKeeps s0 (execTelegramArrival record s) := by
  unfold execTelegramArrival
  with_reducible repeat' first
    | assumption | apply OutKeeps.next | apply OutKeeps.done | apply State.modSaf_keeps | apply whenLive_keeps
    | refine Keeps.ofPair (by assumption) ?_ | refine Keeps.ite (fun _ => ?_) (fun _ => ?_)
    | refine Keeps.ite1 (fun _ => ?_) (fun _ => ?_) | split | extract_lets | exact Keeps.field h | refine Keeps.field ?_
    | intro _ | refine OutKeeps.ite (fun _ => ?_) (fun _ => ?_)

theorem execVoteSend_keeps {s0 s : State} (partner : BitVec 18) (h : Keeps s0 s) : OutKeeps s0 (execVoteSend partner s) := by
  unfold execVoteSend
  with_reducible repeat' first
    | assumption | apply OutKeeps.next | apply OutKeeps.done | apply State.sendFrame_keeps | apply State.modSaf_keeps
    | apply whenLive_keeps | refine Keeps.ite (fun _ => ?_) (fun _ => ?_) | extract_lets | exact Keeps.field h
    | refine Keeps.field ?_ | intro _ | refine OutKeeps.ite (fun _ => ?_) (fun _ => ?_)

theorem State.safReset_keeps {s0 s : State} (v : Nat) (h : Keeps s0 s) : Keeps s0 (State.safReset s v).1 := by
  unfold State.safReset
  with_reducible repeat' first
    | assumption | apply State.logEvent_keeps | apply State.modSaf_keeps | apply State.set1_keeps
    | refine Keeps.ite (fun _ => ?_) (fun _ => ?_) | refine Keeps.ite1 (fun _ => ?_) (fun _ => ?_) | split | extract_lets
    | exact Keeps.field h | refine Keeps.field ?_ | intro _ | dsimp only

theorem execSafReset_keeps {s0 s : State} (v : BitVec 2) (h : Keeps s0 s) : OutKeeps s0 (execSafReset v s) := by
  unfold execSafReset
  with_reducible repeat' first
    | assumption | apply OutKeeps.next | apply OutKeeps.done | apply State.safReset_keeps | apply whenLive_keeps | intro _

theorem execSafReqWrite_keeps {s0 s : State} (v : BitVec 2) (h : Keeps s0 s) : OutKeeps s0 (execSafReqWrite v s) := by
  unfold execSafReqWrite
  with_reducible repeat' first
    | assumption | apply OutKeeps.next | apply OutKeeps.done | apply State.wr_keeps | apply whenLive_keeps | intro _

theorem State.writeSaf_keeps {s0 s : State} (l : RegLoc) (v : Nat) (h : Keeps s0 s) : Keeps s0 (State.writeSaf s l v).1 := by
  unfold State.writeSaf
  with_reducible repeat' first
    | assumption | apply State.safReset_keeps | apply State.wrReg_keeps | refine Keeps.ite (fun _ => ?_) (fun _ => ?_)
    | refine Keeps.ite1 (fun _ => ?_) (fun _ => ?_) | dsimp only

end Sys2Proof.Machine
end

