-- ==== Sys2Proof/Laws/KRole.lean ====
section
/-!
SUPPORT. Laws/KRole.lean: what each operation of Machine/Role.lean keeps (Laws/Keeps.lean).
-/
namespace Sys2Proof.Machine

theorem State.commitRec_keeps {s0 s : State} (failCnt reason slot : Nat) (h : Keeps s0 s) : Keeps s0 (State.commitRec s failCnt reason slot) := by
  unfold State.commitRec
  with_reducible repeat' first
    | assumption | refine Keeps.ofPair (by assumption) ?_ | refine Keeps.ite (fun _ => ?_) (fun _ => ?_) | split
    | extract_lets | exact Keeps.field h | refine Keeps.field ?_
    | refine Keeps.upd h (by first | exact Nat.le_refl _ | exact Nat.le_add_right _ _) (by exact ⟨rfl, rfl⟩)
    | refine Keeps.upd ?_ (by first | exact Nat.le_refl _ | exact Nat.le_add_right _ _) (by exact ⟨rfl, rfl⟩)

theorem State.dlPush_keeps {s0 s : State} (m : DominoMsg) (h : Keeps s0 s) : Keeps s0 (State.dlPush s m) := by
  unfold State.dlPush
  with_reducible repeat' first
    | assumption | exact Keeps.field h | refine Keeps.field ?_

theorem State.identOn_keeps {s0 s : State} (lane : Lane) (h : Keeps s0 s) : Keeps s0 (State.identOn s lane) := by
  unfold State.identOn
  with_reducible repeat' first
    | assumption | apply State.mirPush_keeps | apply State.dlPush_keeps | refine Keeps.ofPair (by assumption) ?_
    | refine Keeps.ite (fun _ => ?_) (fun _ => ?_) | split

theorem State.sendIdent_keeps {s0 s : State} (h : Keeps s0 s) : Keeps s0 (State.sendIdent s) := by
  unfold State.sendIdent
  with_reducible repeat' first
    | assumption | apply State.identOn_keeps

theorem State.resync_keeps {s0 s : State} (h : Keeps s0 s) : Keeps s0 (State.resync s) := by
  unfold State.resync
  apply State.updTake_keeps
  have h1 : Keeps s0 (if s.prd.mlUp then s.wrState PRD_STATUS_ML_STATE 5 0 2 else s) :=
    Keeps.ite (fun _ => State.wrState_keeps _ _ _ _ h) (fun _ => h)
  generalize (if s.prd.mlUp = true then s.wrState PRD_STATUS_ML_STATE 5 0 2 else s) = u at h1 ⊢
  have h2 : Keeps s0 { u with mir := { u.mir with pass := u.passFirst, passDone := u.passFirst.isNone, wantSync := true } } :=
    Keeps.upd h1 (Nat.le_refl _) (by exact ⟨rfl, rfl⟩)
  refine Keeps.ite (fun _ => State.mirPush_keeps _ (Keeps.upd h2 (Nat.le_refl _) (by exact ⟨rfl, rfl⟩))) (fun _ => h2)

theorem State.startDone_keeps {s0 s : State} (role : Role) (h : Keeps s0 s) (hn : s0.start.phase ≠ .running) : Keeps s0 (State.startDone s role) := by
  unfold State.startDone
  have h0 := Keeps.updStart hn h (start := { s.start with phase := .running, role := role }) (.inl rfl)
  with_reducible repeat' first
    | assumption | apply State.canClkBack_keeps | apply State.sendBlocks_keeps | apply State.slvTakeAll_keeps
    | apply State.updPermit_keeps | apply State.commitRec_keeps | apply State.updTake_keeps | apply State.gEnter_keeps
    | apply State.crtRun_keeps | apply State.resync_keeps | apply State.wr_keeps | refine Keeps.foldlP ?_ (fun _ _ _ => ?_)
    | refine Keeps.foldl ?_ (fun _ _ _ => ?_) | refine Keeps.ite (fun _ => ?_) (fun _ => ?_)
    | refine Keeps.ite1 (fun _ => ?_) (fun _ => ?_) | extract_lets | exact Keeps.field h | refine Keeps.field ?_
    | refine Keeps.upd h (by first | exact Nat.le_refl _ | exact Nat.le_add_right _ _) (by exact ⟨rfl, rfl⟩)
    | refine Keeps.upd ?_ (by first | exact Nat.le_refl _ | exact Nat.le_add_right _ _) (by exact ⟨rfl, rfl⟩) | intro _

theorem State.startFail_keeps {s0 s : State} (reason : Nat) (h : Keeps s0 s) : Keeps s0 (State.startFail s reason) := by
  unfold State.startFail
  with_reducible repeat' first
    | assumption | apply State.enterReset_keeps | apply State.commitRec_keeps | apply State.logFlash_keeps
    | apply State.wrapInc_keeps | extract_lets

theorem State.contendCheck_keeps {s0 s : State} (h : Keeps s0 s) : Keeps s0 (State.contendCheck s) := by
  unfold State.contendCheck
  refine Keeps.ite (fun c => ?_) (fun _ => h)
  simp only [Bool.and_eq_true, decide_eq_true_eq] at c
  have hn := h.starting (by simp [c.1.1.1]) (by simp [c.1.1.1])
  exact Keeps.ite (fun _ => State.startDone_keeps _ h hn) (fun _ => State.startFail_keeps _ h)

theorem State.enterContend_keeps {s0 s : State} (h : Keeps s0 s) (hn : s0.start.phase ≠ .running) : Keeps s0 (State.enterContend s) := by
  unfold State.enterContend
  have h0 := Keeps.updStart hn h (start := { s.start with phase := .contend, role := .monitor }) (.inr rfl)
  with_reducible repeat' first
    | assumption | apply State.contendCheck_keeps | apply State.startFail_keeps | apply State.updTake_keeps
    | apply State.wrB_keeps | refine Keeps.ofPair (by assumption) ?_ | refine Keeps.ite (fun _ => ?_) (fun _ => ?_) | split
    | extract_lets | exact Keeps.field h | refine Keeps.field ?_
    | refine Keeps.upd h (by first | exact Nat.le_refl _ | exact Nat.le_add_right _ _) (by exact ⟨rfl, rfl⟩)
    | refine Keeps.upd ?_ (by first | exact Nat.le_refl _ | exact Nat.le_add_right _ _) (by exact ⟨rfl, rfl⟩)

theorem State.discardDelta_keeps {s0 s : State} (h : Keeps s0 s) : Keeps s0 (State.discardDelta s) := by
  unfold State.discardDelta
  with_reducible repeat' first
    | assumption | apply State.satInc_keeps | apply State.errLog_keeps | extract_lets | exact Keeps.field h
    | refine Keeps.field ?_

theorem State.takeover_keeps {s0 s : State} (h : Keeps s0 s) (hb : s.isStandby = true) : Keeps s0 (State.takeover s) := by
  simp only [State.isStandby, Bool.and_eq_true, decide_eq_true_eq] at hb
  have hm : ∀ r, r = Role.coordinator ∨ r = .dominoHalf →
      Keeps s0 { s with start := { s.start with phase := .running, role := r } } := by
    intro r hr
    refine ⟨h.mem, h.regs, h.pending, h.ticks, h.free, fun _ => .inl rfl, fun e => .inl ⟨rfl, .inr ⟨?_, hr⟩⟩⟩
    rcases h.move e with ⟨_, a | ⟨a, _⟩⟩ | a
    · exact a ▸ hb.2
    · exact a
    · exact absurd (hb.1.symm.trans a) (by decide)
  unfold State.takeover
  have h1 := hm (if s.domino then .dominoHalf else .coordinator) (by split <;> simp)
  dsimp only
  apply State.crtTakeover_keeps
  apply State.lpeTakeover_keeps
  apply State.hlmTakeover_keeps
  apply State.slvTakeover_keeps
  apply State.canTakeover_keeps
  apply State.updPermit_keeps
  refine Keeps.upd ?_ (Nat.le_refl _) (by exact ⟨rfl, rfl⟩)
  exact Keeps.ite (fun _ => h1) (fun _ => State.discardDelta_keeps h1)

theorem State.tokenPaths_keeps {s0 s : State} (drive : Nat) (h : Keeps s0 s) : Keeps s0 (State.tokenPaths s drive) := by
  unfold State.tokenPaths
  with_reducible repeat' first
    | assumption | apply State.srcTaken_keeps | apply State.wrState_keeps | apply State.wrB_keeps | apply State.wr_keeps
    | refine Keeps.ofPair (by assumption) ?_ | refine Keeps.ite (fun _ => ?_) (fun _ => ?_) | split | extract_lets
    | exact Keeps.field h | refine Keeps.field ?_

theorem State.takeRole_keeps {s0 s : State} (h : Keeps s0 s) : Keeps s0 (State.takeRole s) := by
  unfold State.takeRole
  refine Keeps.ite (fun c => ?_) (fun _ => Keeps.ite (fun c => State.takeover_keeps h c) (fun _ => h))
  exact State.startDone_keeps _ h (h.starting (by simp [c]) (by simp [c]))

theorem State.tokenTaken_keeps {s0 s : State} (drive : Nat) (h : Keeps s0 s) : Keeps s0 (State.tokenTaken s drive) := by
  unfold State.tokenTaken
  with_reducible repeat' first
    | assumption | apply State.sendBlocks_keeps | apply State.tokenPaths_keeps | apply State.updPermit_keeps
    | apply State.updClass_keeps | apply State.takeRole_keeps | apply State.updTake_keeps

end Sys2Proof.Machine
end

