-- ==== Sys2Proof/Laws/KMirrored.lean ====
section
/-!
SUPPORT. Laws/KMirrored.lean: what each operation of Machine/Mirrored.lean keeps (Laws/Keeps.lean).
-/
namespace Sys2Proof.Machine

theorem State.enterImage_keeps {s0 s : State} (m : MirImage) (h : Keeps s0 s) : Keeps s0 (State.enterImage s m) := by
  unfold State.enterImage
  with_reducible repeat' first
    | assumption | apply State.programRecord_keeps | apply State.wr_keeps | refine Keeps.foldlP ?_ (fun _ _ _ => ?_)
    | refine Keeps.foldl ?_ (fun _ _ _ => ?_) | extract_lets | exact Keeps.field h | refine Keeps.field ?_ | intro _

end Sys2Proof.Machine
end

