-- ==== Sys2Proof/Laws/KPrd.lean ====
section
/-!
SUPPORT. Laws/KPrd.lean: what each operation of Machine/Prd.lean keeps (Laws/Keeps.lean).
-/
namespace Sys2Proof.Machine

theorem execTokenCountChange_keeps {s0 s : State} (cnt : Fin 5) (h : Keeps s0 s) : OutKeeps s0 (execTokenCountChange cnt s) := by
  unfold execTokenCountChange
  with_reducible repeat' first
    | assumption | apply OutKeeps.next | apply OutKeeps.done | apply State.contendCheck_keeps | apply State.wrState_keeps
    | apply State.satInc_keeps | apply State.errLog_keeps | apply State.wr_keeps | apply whenLive_keeps
    | refine Keeps.ite (fun _ => ?_) (fun _ => ?_) | extract_lets | exact Keeps.field h | refine Keeps.field ?_ | intro _
    | refine OutKeeps.ite (fun _ => ?_) (fun _ => ?_)

theorem State.assertToken_keeps {s0 s : State} (h : Keeps s0 s) : Keeps s0 (State.assertToken s) := by
  unfold State.assertToken
  with_reducible repeat' first
    | assumption | apply State.wrState_keeps | apply State.wr_keeps | extract_lets | exact Keeps.field h
    | refine Keeps.field ?_

theorem execTokenAssert_keeps {s0 s : State} (h : Keeps s0 s) : OutKeeps s0 (execTokenAssert s) := by
  unfold execTokenAssert
  with_reducible repeat' first
    | assumption | apply OutKeeps.next | apply OutKeeps.done | apply State.assertToken_keeps | apply State.sendBlock_keeps
    | apply whenLive_keeps | refine Keeps.ite (fun _ => ?_) (fun _ => ?_) | split | extract_lets | intro _
    | refine OutKeeps.ite (fun _ => ?_) (fun _ => ?_)

theorem State.dominoTake_keeps {s0 s : State} (h : Keeps s0 s) : Keeps s0 (State.dominoTake s) := by
  unfold State.dominoTake
  with_reducible repeat' first
    | assumption | apply State.assertToken_keeps | refine Keeps.ite (fun _ => ?_) (fun _ => ?_) | split

theorem execDominoTake_keeps {s0 s : State} (h : Keeps s0 s) : OutKeeps s0 (execDominoTake s) := by
  unfold execDominoTake
  with_reducible repeat' first
    | assumption | apply OutKeeps.next | apply OutKeeps.done | apply State.dominoTake_keeps | apply whenLive_keeps

theorem execTokenConfirm_keeps {s0 s : State} (drive : Fin 1001) (h : Keeps s0 s) : OutKeeps s0 (execTokenConfirm drive s) := by
  unfold execTokenConfirm
  with_reducible repeat' first
    | assumption | apply OutKeeps.next | apply OutKeeps.done | apply State.tokenTaken_keeps | apply whenLive_keeps
    | refine Keeps.ite (fun _ => ?_) (fun _ => ?_) | intro _ | refine OutKeeps.ite (fun _ => ?_) (fun _ => ?_)

theorem execTokenConfirmTimeout_keeps {s0 s : State} (h : Keeps s0 s) : OutKeeps s0 (execTokenConfirmTimeout s) := by
  unfold execTokenConfirmTimeout
  with_reducible repeat' first
    | assumption | apply OutKeeps.next | apply OutKeeps.done | apply State.startFail_keeps | apply State.wrState_keeps
    | apply State.set1_keeps | apply whenLive_keeps | refine Keeps.ite (fun _ => ?_) (fun _ => ?_) | extract_lets
    | exact Keeps.field h | refine Keeps.field ?_ | intro _ | refine OutKeeps.ite (fun _ => ?_) (fun _ => ?_)

theorem execTokenLineFault_keeps {s0 s : State} (h : Keeps s0 s) : OutKeeps s0 (execTokenLineFault s) := by
  unfold execTokenLineFault
  with_reducible repeat' first
    | assumption | apply OutKeeps.next | apply OutKeeps.done | apply State.set1_keeps | apply whenLive_keeps
    | refine Keeps.ite (fun _ => ?_) (fun _ => ?_) | intro _ | refine OutKeeps.ite (fun _ => ?_) (fun _ => ?_)

theorem execVetoDetect_keeps {s0 s : State} (h : Keeps s0 s) : OutKeeps s0 (execVetoDetect s) := by
  unfold execVetoDetect
  with_reducible repeat' first
    | assumption | apply OutKeeps.next | apply OutKeeps.done | apply State.set1_keeps | apply whenLive_keeps
    | refine Keeps.ofPair (by assumption) ?_ | refine Keeps.ite (fun _ => ?_) (fun _ => ?_) | split | extract_lets | intro _
    | refine OutKeeps.ite (fun _ => ?_) (fun _ => ?_)

theorem State.prdRelease_keeps {s0 s : State} (h : Keeps s0 s) : Keeps s0 (State.prdRelease s).1 := by
  unfold State.prdRelease
  with_reducible repeat' first
    | assumption | apply State.release_keeps | apply State.set1_keeps | refine Keeps.ite (fun _ => ?_) (fun _ => ?_)
    | refine Keeps.ite1 (fun _ => ?_) (fun _ => ?_) | dsimp only

theorem execPrdRelease_keeps {s0 s : State} (h : Keeps s0 s) : OutKeeps s0 (execPrdRelease s) := by
  unfold execPrdRelease
  with_reducible repeat' first
    | assumption | apply OutKeeps.next | apply OutKeeps.done | apply State.prdRelease_keeps | apply whenLive_keeps | intro _

theorem State.kick_keeps {s0 s : State} (src : Nat) (h : Keeps s0 s) : Keeps s0 (State.kick s src) := by
  unfold State.kick
  with_reducible repeat' first
    | assumption | refine Keeps.ite (fun _ => ?_) (fun _ => ?_) | split | extract_lets | exact Keeps.field h
    | refine Keeps.field ?_

theorem execWatchdogKick_keeps {s0 s : State} (src : Fin 9) (h : Keeps s0 s) : OutKeeps s0 (execWatchdogKick src s) := by
  unfold execWatchdogKick
  with_reducible repeat' first
    | assumption | apply OutKeeps.next | apply OutKeeps.done | apply State.kick_keeps | apply whenLive_keeps | intro _

theorem execWatchdogExpiry_keeps {s0 s : State} (h : Keeps s0 s) : OutKeeps s0 (execWatchdogExpiry s) := by
  unfold execWatchdogExpiry
  with_reducible repeat' first
    | assumption | apply OutKeeps.next | apply OutKeeps.done | apply State.updTake_keeps | apply State.release_keeps
    | apply State.wrB_keeps | apply whenLive_keeps | refine Keeps.ite (fun _ => ?_) (fun _ => ?_) | intro _
    | refine OutKeeps.ite (fun _ => ?_) (fun _ => ?_)

theorem State.wdtWrite_keeps {s0 s : State} (v : Nat) (h : Keeps s0 s) : Keeps s0 (State.wdtWrite s v).1 := by
  unfold State.wdtWrite
  with_reducible repeat' first
    | assumption | apply State.wrAll_keeps | apply State.set1_keeps | refine Keeps.ite (fun _ => ?_) (fun _ => ?_)
    | refine Keeps.ite1 (fun _ => ?_) (fun _ => ?_) | extract_lets | exact Keeps.field h | refine Keeps.field ?_ | dsimp only

theorem execPrdWdtWrite_keeps {s0 s : State} (v : BitVec 32) (h : Keeps s0 s) : OutKeeps s0 (execPrdWdtWrite v s) := by
  unfold execPrdWdtWrite
  with_reducible repeat' first
    | assumption | apply OutKeeps.next | apply OutKeeps.done | apply State.wdtWrite_keeps | apply whenLive_keeps | intro _

theorem State.hbTick_keeps {s0 s : State} (h : Keeps s0 s) : Keeps s0 (State.hbTick s) := by
  unfold State.hbTick
  with_reducible repeat' first
    | assumption | exact Keeps.field h | refine Keeps.field ?_

theorem execHeartbeatTick_keeps {s0 s : State} (h : Keeps s0 s) : OutKeeps s0 (execHeartbeatTick s) := by
  unfold execHeartbeatTick
  with_reducible repeat' first
    | assumption | apply OutKeeps.next | apply OutKeeps.done | apply State.hbTick_keeps | apply whenLive_keeps

theorem State.hbLost_keeps {s0 s : State} (h : Keeps s0 s) : Keeps s0 (State.hbLost s) := by
  unfold State.hbLost
  with_reducible repeat' first
    | assumption | apply State.updClass_keeps | apply State.satInc_keeps | apply State.errLog_keeps | apply State.wrB_keeps
    | refine Keeps.ite (fun _ => ?_) (fun _ => ?_)

theorem execHeartbeatLoss_keeps {s0 s : State} (h : Keeps s0 s) : OutKeeps s0 (execHeartbeatLoss s) := by
  unfold execHeartbeatLoss
  with_reducible repeat' first
    | assumption | apply OutKeeps.next | apply OutKeeps.done | apply State.hbTick_keeps | apply State.hbLost_keeps
    | apply whenLive_keeps | refine Keeps.ite (fun _ => ?_) (fun _ => ?_) | intro _
    | refine OutKeeps.ite (fun _ => ?_) (fun _ => ?_)

theorem execStatusBlockSend_keeps {s0 s : State} (lane : Lane) (h : Keeps s0 s) : OutKeeps s0 (execStatusBlockSend lane s) := by
  unfold execStatusBlockSend
  with_reducible repeat' first
    | assumption | apply OutKeeps.next | apply OutKeeps.done | apply State.sendBlock_keeps | apply whenLive_keeps
    | refine Keeps.ite (fun _ => ?_) (fun _ => ?_) | intro _ | refine OutKeeps.ite (fun _ => ?_) (fun _ => ?_)

theorem State.blockML_keeps {s0 s : State} (b : StatusBlock) (h : Keeps s0 s) : Keeps s0 (State.blockML s b) := by
  unfold State.blockML
  with_reducible repeat' first
    | assumption | apply State.contendCheck_keeps | apply State.updClass_keeps | apply State.updTake_keeps
    | apply State.hbTick_keeps | apply State.wrB_keeps | refine Keeps.ofPair (by assumption) ?_
    | refine Keeps.ite (fun _ => ?_) (fun _ => ?_) | split | extract_lets | exact Keeps.field h | refine Keeps.field ?_

theorem State.blockDL_keeps {s0 s : State} (b : StatusBlock) (h : Keeps s0 s) : Keeps s0 (State.blockDL s b) := by
  unfold State.blockDL
  apply State.updTake_keeps
  have h1 : Keeps s0 { s with prd := { s.prd with partDL := some b } } := Keeps.upd h (Nat.le_refl _) (by exact ⟨rfl, rfl⟩)
  generalize ({ s with prd := { s.prd with partDL := some b } } : State) = u at h1 ⊢
  have h2 : Keeps s0 (if b.take then u.dominoTake else u) := Keeps.ite (fun _ => State.dominoTake_keeps h1) (fun _ => h1)
  generalize (if b.take = true then u.dominoTake else u) = v at h2 ⊢
  have h3 : Keeps s0 (if v.holds && v.domino then
      if b.hold then { v with prd := { v.prd with dlHeld := true } }
      else if v.prd.dlHeld || v.prd.confTick + tick1us ≤ v.ticks then v.release 4 0 else v else v) :=
    Keeps.ite (fun _ => Keeps.ite (fun _ => Keeps.upd h2 (Nat.le_refl _) (by exact ⟨rfl, rfl⟩))
      (fun _ => Keeps.ite (fun _ => State.release_keeps _ _ h2) (fun _ => h2))) (fun _ => h2)
  dsimp only
  generalize (ite ((v.holds && v.domino) = true) _ _ : State) = w at h3 ⊢
  refine Keeps.ite (fun c => ?_) (fun _ => h3)
  simp only [Bool.and_eq_true, decide_eq_true_eq] at c
  exact State.startDone_keeps _ h3 (h3.starting (by simp [c.1.1.2]) (by simp [c.1.1.2]))

theorem execStatusBlockReceive_keeps {s0 s : State} (lane : Lane) (b : StatusBlock) (h : Keeps s0 s) : OutKeeps s0 (execStatusBlockReceive lane b s) := by
  unfold execStatusBlockReceive
  with_reducible repeat' first
    | assumption | apply OutKeeps.next | apply OutKeeps.done | apply State.blockML_keeps | apply State.blockDL_keeps
    | apply whenLive_keeps | refine Keeps.ofPair (by assumption) ?_ | refine Keeps.ite (fun _ => ?_) (fun _ => ?_) | split
    | intro _ | refine OutKeeps.ite (fun _ => ?_) (fun _ => ?_)

theorem State.step7_keeps {s0 s : State} (h : Keeps s0 s) : Keeps s0 (State.step7 s) := by
  unfold State.step7
  refine Keeps.ite (fun c => ?_) (fun _ => h)
  simp only [Bool.and_eq_true, decide_eq_true_eq] at c
  exact State.enterContend_keeps h (h.starting (by simp [c.1]) (by simp [c.1]))

theorem execLaneTrained_keeps {s0 s : State} (lane : Lane) (h : Keeps s0 s) : OutKeeps s0 (execLaneTrained lane s) := by
  unfold execLaneTrained
  with_reducible repeat' first
    | assumption | apply OutKeeps.next | apply OutKeeps.done | apply State.wrState_keeps | apply State.updTake_keeps
    | apply State.identOn_keeps | apply State.resync_keeps | apply State.step7_keeps | apply State.set1_keeps
    | apply State.wrB_keeps | apply whenLive_keeps | refine Keeps.ofPair (by assumption) ?_
    | refine Keeps.ite (fun _ => ?_) (fun _ => ?_) | split | extract_lets | exact Keeps.field h | refine Keeps.field ?_
    | intro _ | refine OutKeeps.ite (fun _ => ?_) (fun _ => ?_)

theorem State.mlDown_keeps {s0 s : State} (h : Keeps s0 s) : Keeps s0 (State.mlDown s) := by
  unfold State.mlDown
  with_reducible repeat' first
    | assumption | apply State.slvConfirm_keeps | apply State.updClass_keeps | apply State.wrState_keeps
    | apply State.updTake_keeps | apply State.hbLost_keeps | apply State.wrAll_keeps | apply State.set1_keeps
    | refine Keeps.foldl ?_ (fun _ _ _ => ?_) | refine Keeps.ite (fun _ => ?_) (fun _ => ?_) | extract_lets
    | exact Keeps.field h | refine Keeps.field ?_ | intro _

theorem State.dlDown_keeps {s0 s : State} (h : Keeps s0 s) : Keeps s0 (State.dlDown s) := by
  unfold State.dlDown
  with_reducible repeat' first
    | assumption | apply State.startFail_keeps | apply State.wrState_keeps | apply State.updTake_keeps
    | apply State.release_keeps | apply State.set1_keeps | refine Keeps.ite (fun _ => ?_) (fun _ => ?_) | extract_lets
    | exact Keeps.field h | refine Keeps.field ?_

theorem execLaneDown_keeps {s0 s : State} (lane : Lane) (h : Keeps s0 s) : OutKeeps s0 (execLaneDown lane s) := by
  unfold execLaneDown
  with_reducible repeat' first
    | assumption | apply OutKeeps.next | apply OutKeeps.done | apply State.mlDown_keeps | apply State.dlDown_keeps
    | apply whenLive_keeps | refine Keeps.ofPair (by assumption) ?_ | split | intro _

theorem State.prdCommit_keeps {s0 s : State} (ci : Nat) (h : Keeps s0 s) : Keeps s0 (State.prdCommit s ci).1 := by
  unfold State.prdCommit
  with_reducible repeat' first
    | assumption | apply State.mirPush_keeps | apply State.count_keeps | apply State.set1_keeps | apply State.wr_keeps
    | refine Keeps.ite (fun _ => ?_) (fun _ => ?_) | refine Keeps.ite1 (fun _ => ?_) (fun _ => ?_) | split | extract_lets
    | exact Keeps.field h | refine Keeps.field ?_ | dsimp only

theorem execPrdCommit_keeps {s0 s : State} (ci : BitVec 32) (h : Keeps s0 s) : OutKeeps s0 (execPrdCommit ci s) := by
  unfold execPrdCommit
  with_reducible repeat' first
    | assumption | apply OutKeeps.next | apply OutKeeps.done | apply State.prdCommit_keeps | apply whenLive_keeps | intro _

theorem State.mirIn_keeps {s0 s : State} (kind : Nat) (f : MirFrame) (act : State → State) (h : Keeps s0 s) (hf : ∀ t, Keeps s0 t → Keeps s0 (act t)) : Keeps s0 (State.mirIn s kind f act) := by
  unfold State.mirIn
  with_reducible repeat' first
    | assumption | apply hf | apply State.satInc_keeps | refine Keeps.ite (fun _ => ?_) (fun _ => ?_) | split

theorem State.passStep_keeps {s0 s : State} (n o : Nat) (h : Keeps s0 s) : Keeps s0 (State.passStep s n o) := by
  unfold State.passStep
  with_reducible repeat' first
    | assumption | refine Keeps.ite (fun _ => ?_) (fun _ => ?_) | extract_lets | exact Keeps.field h | refine Keeps.field ?_

theorem State.mirTake_keeps {s0 s : State} (page pass : Bool) (f : MirFrame) (h : Keeps s0 s) : Keeps s0 (State.mirTake s page pass f) := by
  unfold State.mirTake
  with_reducible repeat' first
    | assumption | apply State.passStep_keeps | apply State.offset_keeps | refine Keeps.foldlP ?_ (fun _ _ _ => ?_)
    | refine Keeps.foldl ?_ (fun _ _ _ => ?_) | refine Keeps.ite (fun _ => ?_) (fun _ => ?_)
    | refine Keeps.ite1 (fun _ => ?_) (fun _ => ?_) | split | extract_lets | exact Keeps.field h | refine Keeps.field ?_
    | intro _

theorem execDeltaFrame_keeps {s0 s : State} (f : MirFrame) (h : Keeps s0 s) : OutKeeps s0 (execDeltaFrame f s) := by
  unfold execDeltaFrame
  with_reducible repeat' first
    | assumption | apply OutKeeps.next | apply OutKeeps.done | apply State.mirTake_keeps | apply State.mirIn_keeps
    | apply whenLive_keeps | intro _

theorem execCmdpageFrame_keeps {s0 s : State} (f : MirFrame) (h : Keeps s0 s) : OutKeeps s0 (execCmdpageFrame f s) := by
  unfold execCmdpageFrame
  with_reducible repeat' first
    | assumption | apply OutKeeps.next | apply OutKeeps.done | apply State.mirTake_keeps | apply State.mirIn_keeps
    | apply whenLive_keeps | intro _

theorem execBulkFrame_keeps {s0 s : State} (f : MirFrame) (h : Keeps s0 s) : OutKeeps s0 (execBulkFrame f s) := by
  unfold execBulkFrame
  with_reducible repeat' first
    | assumption | apply OutKeeps.next | apply OutKeeps.done | apply State.mirTake_keeps | apply State.mirIn_keeps
    | apply whenLive_keeps | intro _

theorem State.applyWords_keeps {s0 s : State} (l : List CapWord) (h : Keeps s0 s) : Keeps s0 (State.applyWords s l) := by
  unfold State.applyWords
  with_reducible repeat' first
    | assumption | apply State.wrWord_keeps | apply State.offset_keeps | refine Keeps.foldl ?_ (fun _ _ _ => ?_)
    | refine Keeps.ite (fun _ => ?_) (fun _ => ?_) | intro _

theorem State.applyLoad_keeps {s0 s : State} (slot : Nat) (h : Keeps s0 s) : Keeps s0 (State.applyLoad s slot) := by
  unfold State.applyLoad
  with_reducible repeat' first
    | assumption | apply State.slvSlotRegs_keeps | apply State.modSslot_keeps | apply State.offset_keeps
    | refine Keeps.ofPair (by assumption) ?_ | split | extract_lets | intro _

theorem State.flipJournal_keeps {s0 s : State} (o : Option FlipOrder) (h : Keeps s0 s) : Keeps s0 (State.flipJournal s o) := by
  unfold State.flipJournal
  with_reducible repeat' first
    | assumption | refine Keeps.ite (fun _ => ?_) (fun _ => ?_) | exact Keeps.field h | refine Keeps.field ?_

theorem State.flipOrder_keeps {s0 s : State} (o : Option FlipOrder) (h : Keeps s0 s) : Keeps s0 (State.flipOrder s o) := by
  unfold State.flipOrder
  with_reducible repeat' first
    | assumption | apply State.flipJournal_keeps | refine Keeps.ofPair (by assumption) ?_
    | refine Keeps.ite (fun _ => ?_) (fun _ => ?_) | split | extract_lets | exact Keeps.field h | refine Keeps.field ?_

theorem execCommitFrame_keeps {s0 s : State} (f : MirFrame) (img : Option MirImage) (h : Keeps s0 s) : OutKeeps s0 (execCommitFrame f img s) := by
  unfold execCommitFrame
  with_reducible repeat' first
    | assumption | apply OutKeeps.next | apply OutKeeps.done | apply State.discardDelta_keeps | apply State.enterImage_keeps
    | apply State.applyWords_keeps | apply State.applyLoad_keeps | apply State.flipOrder_keeps | apply State.wrState_keeps
    | apply State.updTake_keeps | apply State.resync_keeps | apply State.count_keeps | apply State.mirIn_keeps
    | apply State.wr_keeps | apply whenLive_keeps | refine Keeps.ofPair (by assumption) ?_
    | refine Keeps.foldl ?_ (fun _ _ _ => ?_) | refine Keeps.ite (fun _ => ?_) (fun _ => ?_) | split | extract_lets
    | exact Keeps.field h | refine Keeps.field ?_ | intro _ | refine OutKeeps.ite (fun _ => ?_) (fun _ => ?_)

theorem State.bulkWord_keeps {s0 s : State} (h : Keeps s0 s) : Keeps s0 (State.bulkWord s) := by
  unfold State.bulkWord
  with_reducible repeat' first
    | assumption | apply State.deltaWord_keeps | apply State.getWord_keeps | apply State.codePip_keeps
    | refine Keeps.ofPair (by assumption) ?_ | refine Keeps.ite (fun _ => ?_) (fun _ => ?_) | split | extract_lets
    | exact Keeps.field h | refine Keeps.field ?_

theorem execBulkSend_keeps {s0 s : State} (h : Keeps s0 s) : OutKeeps s0 (execBulkSend s) := by
  unfold execBulkSend
  with_reducible repeat' first
    | assumption | apply OutKeeps.next | apply OutKeeps.done | apply State.bulkWord_keeps | apply whenLive_keeps
    | refine Keeps.ite (fun _ => ?_) (fun _ => ?_) | intro _ | refine OutKeeps.ite (fun _ => ?_) (fun _ => ?_)

theorem execLoadFrame_keeps {s0 s : State} (f : MirFrame) (h : Keeps s0 s) : OutKeeps s0 (execLoadFrame f s) := by
  unfold execLoadFrame
  with_reducible repeat' first
    | assumption | apply OutKeeps.next | apply OutKeeps.done | apply State.mirPush_keeps | apply State.offset_keeps
    | apply State.mirIn_keeps | apply whenLive_keeps | refine Keeps.ite (fun _ => ?_) (fun _ => ?_)
    | refine Keeps.ite1 (fun _ => ?_) (fun _ => ?_) | extract_lets | exact Keeps.field h | refine Keeps.field ?_ | intro _
    | refine OutKeeps.ite (fun _ => ?_) (fun _ => ?_)

theorem execLoadConfirmFrame_keeps {s0 s : State} (f : MirFrame) (h : Keeps s0 s) : OutKeeps s0 (execLoadConfirmFrame f s) := by
  unfold execLoadConfirmFrame
  with_reducible repeat' first
    | assumption | apply OutKeeps.next | apply OutKeeps.done | apply State.slvConfirm_keeps | apply State.mirIn_keeps
    | apply whenLive_keeps | exact Keeps.field h | refine Keeps.field ?_ | intro _

theorem State.identML_keeps {s0 s : State} (active shadow : Nat) (h : Keeps s0 s) : Keeps s0 (State.identML s active shadow) := by
  unfold State.identML
  with_reducible repeat' first
    | assumption | apply State.wrState_keeps | apply State.updTake_keeps | apply State.resync_keeps | apply State.set1_keeps
    | refine Keeps.ite (fun _ => ?_) (fun _ => ?_) | extract_lets | exact Keeps.field h | refine Keeps.field ?_

theorem execIdentFrame_keeps {s0 s : State} (lane : Lane) (f : MirFrame) (h : Keeps s0 s) : OutKeeps s0 (execIdentFrame lane f s) := by
  unfold execIdentFrame
  with_reducible repeat' first
    | assumption | apply OutKeeps.next | apply OutKeeps.done | apply State.identML_keeps | apply State.mirIn_keeps
    | apply whenLive_keeps | refine Keeps.ofPair (by assumption) ?_ | refine Keeps.ite (fun _ => ?_) (fun _ => ?_) | split
    | extract_lets | exact Keeps.field h | refine Keeps.field ?_ | intro _ | refine OutKeeps.ite (fun _ => ?_) (fun _ => ?_)

theorem execSyncReqFrame_keeps {s0 s : State} (f : MirFrame) (h : Keeps s0 s) : OutKeeps s0 (execSyncReqFrame f s) := by
  unfold execSyncReqFrame
  with_reducible repeat' first
    | assumption | apply OutKeeps.next | apply OutKeeps.done | apply State.mirIn_keeps | apply whenLive_keeps
    | refine Keeps.ofPair (by assumption) ?_ | refine Keeps.ite (fun _ => ?_) (fun _ => ?_) | split | extract_lets
    | exact Keeps.field h | refine Keeps.field ?_ | intro _ | refine OutKeeps.ite (fun _ => ?_) (fun _ => ?_)

theorem State.prdSyncReq_keeps {s0 s : State} (h : Keeps s0 s) : Keeps s0 (State.prdSyncReq s).1 := by
  unfold State.prdSyncReq
  with_reducible repeat' first
    | assumption | apply State.resync_keeps | apply State.set1_keeps | refine Keeps.ite (fun _ => ?_) (fun _ => ?_)
    | refine Keeps.ite1 (fun _ => ?_) (fun _ => ?_) | dsimp only

theorem execPrdSyncReq_keeps {s0 s : State} (h : Keeps s0 s) : OutKeeps s0 (execPrdSyncReq s) := by
  unfold execPrdSyncReq
  with_reducible repeat' first
    | assumption | apply OutKeeps.next | apply OutKeeps.done | apply State.prdSyncReq_keeps | apply whenLive_keeps | intro _

theorem execMirrorLaneTransmit_keeps {s0 s : State} (lane : Lane) (h : Keeps s0 s) : OutKeeps s0 (execMirrorLaneTransmit lane s) := by
  unfold execMirrorLaneTransmit
  with_reducible repeat' first
    | assumption | apply OutKeeps.next | apply OutKeeps.done | apply whenLive_keeps | refine Keeps.ofPair (by assumption) ?_
    | refine Keeps.ite (fun _ => ?_) (fun _ => ?_) | split | exact Keeps.field h | refine Keeps.field ?_ | intro _
    | refine OutKeeps.ite (fun _ => ?_) (fun _ => ?_)

theorem execDominoLaneFrame_keeps {s0 s : State} (m : DominoMsg) (h : Keeps s0 s) : OutKeeps s0 (execDominoLaneFrame m s) := by
  unfold execDominoLaneFrame
  with_reducible repeat' first
    | assumption | apply OutKeeps.next | apply OutKeeps.done | apply State.deliverOk_keeps | apply State.rollStart_keeps
    | apply State.flipOrder_keeps | apply whenLive_keeps | refine Keeps.ofPair (by assumption) ?_
    | refine Keeps.ite (fun _ => ?_) (fun _ => ?_) | refine Keeps.ite1 (fun _ => ?_) (fun _ => ?_) | split
    | exact Keeps.field h | refine Keeps.field ?_ | intro _ | refine OutKeeps.ite (fun _ => ?_) (fun _ => ?_)

theorem State.writePrd_keeps {s0 s : State} (who : Requester) (l : RegLoc) (v : Nat) (h : Keeps s0 s) : Keeps s0 (State.writePrd s who l v).1 := by
  unfold State.writePrd
  with_reducible repeat' first
    | assumption | apply State.prdRelease_keeps | apply State.prdSyncReq_keeps | apply State.prdCommit_keeps
    | apply State.wdtWrite_keeps | apply State.jointly_keeps | apply State.hbTick_keeps | apply State.mlDown_keeps
    | apply State.dlDown_keeps | apply State.wrReg_keeps | apply State.set1_keeps | apply State.kick_keeps
    | apply State.wr_keeps | refine Keeps.ofPair (by assumption) ?_ | refine State.jointly_keeps (by assumption) ?_
    | refine List.forall_mem_cons.mpr ⟨?_, ?_⟩ | exact List.forall_mem_nil _ | refine Keeps.ite (fun _ => ?_) (fun _ => ?_)
    | refine Keeps.ite1 (fun _ => ?_) (fun _ => ?_) | split | extract_lets | intro _ | dsimp only

end Sys2Proof.Machine
end

