-- ==== Sys2Proof/Laws/KCse.lean ====
section
/-!
SUPPORT. Laws/KCse.lean: what each operation of Machine/Cse.lean keeps (Laws/Keeps.lean).
-/
namespace Sys2Proof.Machine

theorem State.modCse_keeps {s0 s : State} (f : CseState → CseState) (h : Keeps s0 s) : Keeps s0 (State.modCse s f) := by
  unfold State.modCse
  with_reducible repeat' first
    | assumption | exact Keeps.field h | refine Keeps.field ?_

theorem State.modCells_keeps {s0 s : State} (f : Nat → CseCell → CseCell) (h : Keeps s0 s) : Keeps s0 (State.modCells s f) := by
  unfold State.modCells
  with_reducible repeat' first
    | assumption | apply State.modCse_keeps | exact Keeps.field h | refine Keeps.field ?_ | intro _

theorem State.cseLasting_keeps {s0 s : State} (h : Keeps s0 s) : Keeps s0 (State.cseLasting s) := by
  unfold State.cseLasting
  with_reducible repeat' first
    | assumption | apply State.modCse_keeps | apply State.set1_keeps | refine Keeps.ofPair (by assumption) ?_
    | refine Keeps.ite (fun _ => ?_) (fun _ => ?_) | split | extract_lets | exact Keeps.field h | refine Keeps.field ?_
    | intro _

theorem State.cseCount_keeps {s0 s : State} (x : CseIn) (h : Keeps s0 s) : Keeps s0 (State.cseCount s x) := by
  unfold State.cseCount
  with_reducible repeat' first
    | assumption | apply State.modCells_keeps | extract_lets | exact Keeps.field h | refine Keeps.field ?_ | intro _

theorem State.cseFirst_keeps {s0 s : State} (x : CseIn) (h : Keeps s0 s) : Keeps s0 (State.cseFirst s x) := by
  unfold State.cseFirst
  with_reducible repeat' first
    | assumption | apply State.modCells_keeps | apply State.wr_keeps | refine Keeps.ite (fun _ => ?_) (fun _ => ?_)
    | extract_lets | exact Keeps.field h | refine Keeps.field ?_ | intro _

theorem State.cseAfterWake_keeps {s0 s : State} (x : CseIn) (h : Keeps s0 s) : Keeps s0 (State.cseAfterWake s x) := by
  unfold State.cseAfterWake
  with_reducible repeat' first
    | assumption | apply State.modCells_keeps | apply State.modCse_keeps | refine Keeps.ite (fun _ => ?_) (fun _ => ?_)
    | extract_lets | exact Keeps.field h | refine Keeps.field ?_ | intro _

theorem State.cseAnchors_keeps {s0 s : State} (x : CseIn) (est : Nat → Bool) (h : Keeps s0 s) : Keeps s0 (State.cseAnchors s x est) := by
  unfold State.cseAnchors
  with_reducible repeat' first
    | assumption | apply State.modCse_keeps | apply State.set1_keeps | refine Keeps.ite (fun _ => ?_) (fun _ => ?_)
    | refine Keeps.ite1 (fun _ => ?_) (fun _ => ?_) | extract_lets | exact Keeps.field h | refine Keeps.field ?_ | intro _

theorem State.cseWindow_keeps {s0 s : State} (x : CseIn) (w : List RlxSample) (len : Rat) (h : Keeps s0 s) : Keeps s0 (State.cseWindow s x w len) := by
  unfold State.cseWindow
  with_reducible repeat' first
    | assumption | apply State.cseAnchors_keeps | apply State.modCells_keeps | apply State.satInc_keeps
    | refine Keeps.ofPair (by assumption) ?_ | refine Keeps.ite (fun _ => ?_) (fun _ => ?_) | split | extract_lets
    | exact Keeps.field h | refine Keeps.field ?_ | intro _

theorem State.cseFullRest_keeps {s0 s : State} (x : CseIn) (h : Keeps s0 s) : Keeps s0 (State.cseFullRest s x) := by
  unfold State.cseFullRest
  with_reducible repeat' first
    | assumption | apply State.cseAnchors_keeps | apply State.modCells_keeps | refine Keeps.ite (fun _ => ?_) (fun _ => ?_)
    | intro _

theorem State.cseRest_keeps {s0 s : State} (x : CseIn) (h : Keeps s0 s) : Keeps s0 (State.cseRest s x) := by
  unfold State.cseRest
  with_reducible repeat' first
    | assumption | apply State.cseFullRest_keeps | apply State.cseWindow_keeps | apply State.satInc_keeps
    | apply State.modCse_keeps | refine Keeps.ofPair (by assumption) ?_ | refine Keeps.ite (fun _ => ?_) (fun _ => ?_) | split
    | extract_lets | exact Keeps.field h | refine Keeps.field ?_ | intro _

theorem State.cseQuiet_keeps {s0 s : State} (x : CseIn) (h : Keeps s0 s) : Keeps s0 (State.cseQuiet s x) := by
  unfold State.cseQuiet
  with_reducible repeat' first
    | assumption | apply State.modCse_keeps | refine Keeps.ite (fun _ => ?_) (fun _ => ?_) | extract_lets
    | exact Keeps.field h | refine Keeps.field ?_ | intro _

theorem State.cseR0_keeps {s0 s : State} (x : CseIn) (h : Keeps s0 s) : Keeps s0 (State.cseR0 s x) := by
  unfold State.cseR0
  with_reducible repeat' first
    | assumption | apply State.modCells_keeps | refine Keeps.ite (fun _ => ?_) (fun _ => ?_) | extract_lets
    | exact Keeps.field h | refine Keeps.field ?_ | intro _

theorem State.cseEnds_keeps {s0 s : State} (x : CseIn) (h : Keeps s0 s) : Keeps s0 (State.cseEnds s x) := by
  unfold State.cseEnds
  with_reducible repeat' first
    | assumption | apply State.modCells_keeps | refine Keeps.ite (fun _ => ?_) (fun _ => ?_)
    | refine Keeps.ite1 (fun _ => ?_) (fun _ => ?_) | extract_lets | exact Keeps.field h | refine Keeps.field ?_ | intro _

theorem State.cseStarved_keeps {s0 s : State} (h : Keeps s0 s) : Keeps s0 (State.cseStarved s) := by
  unfold State.cseStarved
  with_reducible repeat' first
    | assumption | apply State.logEvent_keeps | apply State.modCells_keeps | refine Keeps.foldl ?_ (fun _ _ _ => ?_)
    | refine Keeps.ite (fun _ => ?_) (fun _ => ?_) | extract_lets | exact Keeps.field h | refine Keeps.field ?_ | intro _

theorem State.cseEntry_keeps {s0 s : State} (k soc u cap r0 temp ic id flags : Nat) (h : Keeps s0 s) : Keeps s0 (State.cseEntry s k soc u cap r0 temp ic id flags) := by
  unfold State.cseEntry
  with_reducible repeat' first
    | assumption | apply State.wrAll_keeps

theorem State.cseModule_keeps {s0 s : State} (x : CseIn) (h : Keeps s0 s) : Keeps s0 (State.cseModule s x) := by
  unfold State.cseModule
  with_reducible repeat' first
    | assumption | apply State.cseEntry_keeps | apply State.wrAll_keeps | apply State.set1_keeps
    | refine Keeps.foldlP ?_ (fun _ _ _ => ?_) | refine Keeps.foldl ?_ (fun _ _ _ => ?_)
    | refine Keeps.ite (fun _ => ?_) (fun _ => ?_) | refine Keeps.ite1 (fun _ => ?_) (fun _ => ?_) | split | extract_lets
    | intro _

theorem State.cseUpdate_keeps {s0 s : State} (h : Keeps s0 s) : Keeps s0 (State.cseUpdate s) := by
  unfold State.cseUpdate
  with_reducible repeat' first
    | assumption | apply State.cseAfterWake_keeps | apply State.cseLasting_keeps | apply State.cseStarved_keeps
    | apply State.cseModule_keeps | apply State.modCells_keeps | apply State.cseCount_keeps | apply State.cseFirst_keeps
    | apply State.cseQuiet_keeps | apply State.cseRest_keeps | apply State.cseEnds_keeps | apply State.modCse_keeps
    | apply State.cseR0_keeps | refine Keeps.ite (fun _ => ?_) (fun _ => ?_) | extract_lets | exact Keeps.field h
    | refine Keeps.field ?_ | intro _

theorem execCseUpdate_keeps {s0 s : State} (h : Keeps s0 s) : OutKeeps s0 (execCseUpdate s) := by
  unfold execCseUpdate
  with_reducible repeat' first
    | assumption | apply OutKeeps.next | apply OutKeeps.done | apply State.cseUpdate_keeps | apply State.modCse_keeps
    | refine Keeps.ite (fun _ => ?_) (fun _ => ?_) | refine OutKeeps.ite (fun _ => ?_) (fun _ => ?_)

theorem State.cseDark_keeps {s0 s : State} (h : Keeps s0 s) : Keeps s0 (State.cseDark s) := by
  unfold State.cseDark
  with_reducible repeat' first
    | assumption | apply State.modCells_keeps | apply State.wrAll_keeps | refine Keeps.foldl ?_ (fun _ _ _ => ?_) | split
    | extract_lets | exact Keeps.field h | refine Keeps.field ?_ | intro _

theorem State.cseRun_keeps {s0 s : State} (run : Bool) (h : Keeps s0 s) : Keeps s0 (State.cseRun s run) := by
  unfold State.cseRun
  with_reducible repeat' first
    | assumption | apply State.cseDark_keeps | apply State.modCse_keeps | apply State.set1_keeps | apply State.wrB_keeps
    | apply State.wr_keeps | refine Keeps.ite (fun _ => ?_) (fun _ => ?_) | extract_lets | exact Keeps.field h
    | refine Keeps.field ?_ | intro _

theorem execCseRun_keeps {s0 s : State} (run : Bool) (h : Keeps s0 s) : OutKeeps s0 (execCseRun run s) := by
  unfold execCseRun
  with_reducible repeat' first
    | assumption | apply OutKeeps.next | apply OutKeeps.done | apply State.cseRun_keeps | apply whenLive_keeps | intro _

theorem execHibernateEntry_keeps {s0 s : State} (h : Keeps s0 s) : OutKeeps s0 (execHibernateEntry s) := by
  unfold execHibernateEntry
  with_reducible repeat' first
    | assumption | apply OutKeeps.next | apply OutKeeps.done | apply State.cfeStateCmd_keeps | apply State.cseDark_keeps
    | apply State.modCse_keeps | apply State.wr_keeps | apply whenLive_keeps | refine Keeps.ite (fun _ => ?_) (fun _ => ?_)
    | refine Keeps.ite1 (fun _ => ?_) (fun _ => ?_) | extract_lets | exact Keeps.field h | refine Keeps.field ?_ | intro _
    | refine OutKeeps.ite (fun _ => ?_) (fun _ => ?_)

theorem State.cseWake_keeps {s0 s : State} (h : Keeps s0 s) : Keeps s0 (State.cseWake s) := by
  unfold State.cseWake
  with_reducible repeat' first
    | assumption | apply State.cfeEnable_keeps | apply State.modCells_keeps | apply State.modCse_keeps
    | apply State.set1_keeps | apply State.wr_keeps | refine Keeps.ite (fun _ => ?_) (fun _ => ?_) | extract_lets
    | exact Keeps.field h | refine Keeps.field ?_ | intro _

theorem execEngineWake_keeps {s0 s : State} (h : Keeps s0 s) : OutKeeps s0 (execEngineWake s) := by
  unfold execEngineWake
  with_reducible repeat' first
    | assumption | apply OutKeeps.next | apply OutKeeps.done | apply State.cseWake_keeps | apply whenLive_keeps

theorem execCseWakeNow_keeps {s0 s : State} (h : Keeps s0 s) : OutKeeps s0 (execCseWakeNow s) := by
  unfold execCseWakeNow
  with_reducible repeat' first
    | assumption | apply OutKeeps.next | apply OutKeeps.done | apply State.cseWake_keeps | apply whenLive_keeps

theorem execWakeItem_keeps {s0 s : State} (h : Keeps s0 s) : OutKeeps s0 (execWakeItem s) := by
  unfold execWakeItem
  with_reducible repeat' first
    | assumption | apply OutKeeps.next | apply OutKeeps.done | apply State.takeHanded_keeps | apply State.cseWake_keeps
    | apply whenLive_keeps | refine Keeps.ofPair (by assumption) ?_ | split | intro _

theorem State.writeCse_keeps {s0 s : State} (l : RegLoc) (v : Nat) (h : Keeps s0 s) : Keeps s0 (State.writeCse s l v).1 := by
  unfold State.writeCse
  with_reducible repeat' first
    | assumption | apply State.cseWake_keeps | apply State.cseRun_keeps | apply State.wrReg_keeps | apply State.set1_keeps
    | refine Keeps.ite (fun _ => ?_) (fun _ => ?_) | refine Keeps.ite1 (fun _ => ?_) (fun _ => ?_) | split | extract_lets
    | dsimp only

theorem execSweepFrameSend_keeps {s0 s : State} (h : Keeps s0 s) : OutKeeps s0 (execSweepFrameSend s) := by
  unfold execSweepFrameSend
  with_reducible repeat' first
    | assumption | apply OutKeeps.next | apply OutKeeps.done | apply State.sendFrame_keeps | apply State.modZfb_keeps
    | apply whenWorks_keeps | refine Keeps.ofPair (by assumption) ?_ | refine Keeps.ite (fun _ => ?_) (fun _ => ?_) | split
    | extract_lets | exact Keeps.field h | refine Keeps.field ?_ | intro _ | refine OutKeeps.ite (fun _ => ?_) (fun _ => ?_)

theorem State.cseRestore_keeps {s0 s : State} (p : Bytes) (h : Keeps s0 s) : Keeps s0 (State.cseRestore s p).1 := by
  unfold State.cseRestore
  with_reducible repeat' first
    | assumption | apply State.modCells_keeps | apply State.cmdLog_keeps | apply State.set1_keeps | apply State.wr_keeps
    | refine Keeps.ofPair (by assumption) ?_ | refine Keeps.ite (fun _ => ?_) (fun _ => ?_)
    | refine Keeps.ite1 (fun _ => ?_) (fun _ => ?_) | split | extract_lets | exact Keeps.field h | refine Keeps.field ?_
    | intro _ | dsimp only

theorem State.cseDeclareNew_keeps {s0 s : State} (h : Keeps s0 s) : Keeps s0 (State.cseDeclareNew s) := by
  unfold State.cseDeclareNew
  with_reducible repeat' first
    | assumption | apply State.modCells_keeps | apply State.wr_keeps | intro _

theorem State.cseConfirm_keeps {s0 s : State} (h : Keeps s0 s) : Keeps s0 (State.cseConfirm s) := by
  unfold State.cseConfirm
  with_reducible repeat' first
    | assumption | apply State.modCells_keeps | apply State.wr_keeps | exact Keeps.field h | refine Keeps.field ?_ | intro _

theorem State.commitSlot_keeps {s0 s : State} (slot : Nat) (h : Keeps s0 s) : Keeps s0 (State.commitSlot s slot).1 := by
  unfold State.commitSlot
  with_reducible repeat' first
    | assumption | apply State.commitRecord_keeps | apply State.learnedRead_keeps | apply State.cseConfirm_keeps
    | refine Keeps.ofPair (by assumption) ?_ | refine Keeps.ite (fun _ => ?_) (fun _ => ?_)
    | refine Keeps.ite1 (fun _ => ?_) (fun _ => ?_) | split | extract_lets | exact Keeps.field h | refine Keeps.field ?_
    | refine Keeps.upd h (by first | exact Nat.le_refl _ | exact Nat.le_add_right _ _) (by exact ⟨rfl, rfl⟩)
    | refine Keeps.upd ?_ (by first | exact Nat.le_refl _ | exact Nat.le_add_right _ _) (by exact ⟨rfl, rfl⟩) | dsimp only

theorem execLearnedRecordCommit_keeps {s0 s : State} (slot : Nat) (h : Keeps s0 s) : OutKeeps s0 (execLearnedRecordCommit slot s) := by
  unfold execLearnedRecordCommit
  with_reducible repeat' first
    | assumption | apply OutKeeps.next | apply OutKeeps.done | apply State.cseConfirm_keeps | apply State.commitSlot_keeps
    | apply whenWorks_keeps | refine Keeps.ite (fun _ => ?_) (fun _ => ?_) | refine Keeps.ite1 (fun _ => ?_) (fun _ => ?_)
    | intro _ | refine OutKeeps.ite (fun _ => ?_) (fun _ => ?_)

theorem State.sendRestore_keeps {s0 s : State} (slot node : Nat) (h : Keeps s0 s) : Keeps s0 (State.sendRestore s slot node) := by
  unfold State.sendRestore
  with_reducible repeat' first
    | assumption | apply State.learnedRead_keeps | apply State.cseRestore_keeps | apply State.sendFrame_keeps
    | apply State.modZfb_keeps | refine Keeps.ofPair (by assumption) ?_ | refine Keeps.ite (fun _ => ?_) (fun _ => ?_)
    | refine Keeps.ite1 (fun _ => ?_) (fun _ => ?_) | split | extract_lets | exact Keeps.field h | refine Keeps.field ?_
    | intro _

theorem State.watchModule_keeps {s0 s : State} (slot node flags : Nat) (h : Keeps s0 s) : Keeps s0 (State.watchModule s slot node flags) := by
  unfold State.watchModule
  with_reducible repeat' first
    | assumption | apply State.sendRestore_keeps | apply State.drawChal_keeps | apply State.modZfb_keeps
    | refine Keeps.ite (fun _ => ?_) (fun _ => ?_) | split | exact Keeps.field h | refine Keeps.field ?_ | intro _

theorem execSweepFrameReceive_keeps {s0 s : State} (h : Keeps s0 s) : OutKeeps s0 (execSweepFrameReceive s) := by
  unfold execSweepFrameReceive
  with_reducible repeat' first
    | assumption | apply OutKeeps.next | apply OutKeeps.done | apply State.endpointFrame_keeps | apply State.watchModule_keeps
    | apply State.modZfb_keeps | apply State.set1_keeps | apply whenLive_keeps | refine Keeps.ofPair (by assumption) ?_
    | refine Keeps.ite (fun _ => ?_) (fun _ => ?_) | split | extract_lets | exact Keeps.field h | refine Keeps.field ?_
    | intro _ | refine OutKeeps.ite (fun _ => ?_) (fun _ => ?_)

theorem execReplacementChallenge_keeps {s0 s : State} (m : ReplMsg) (h : Keeps s0 s) : OutKeeps s0 (execReplacementChallenge m s) := by
  unfold execReplacementChallenge
  with_reducible repeat' first
    | assumption | apply OutKeeps.next | apply OutKeeps.done | apply State.challenge_keeps | apply State.logEvent_keeps
    | apply State.drawChal_keeps | apply State.errLog_keeps | apply State.modZfb_keeps | apply State.modCse_keeps
    | apply whenLive_keeps | refine Keeps.ofPair (by assumption) ?_ | refine Keeps.ite (fun _ => ?_) (fun _ => ?_) | split
    | extract_lets | exact Keeps.field h | refine Keeps.field ?_ | intro _ | refine OutKeeps.ite (fun _ => ?_) (fun _ => ?_)

theorem State.cseService_keeps {s0 s : State} (slot decision : Nat) (h : Keeps s0 s) : Keeps s0 (State.cseService s slot decision).1 := by
  unfold State.cseService
  with_reducible repeat' first
    | assumption | apply State.cseDeclareNew_keeps | apply State.commitRecord_keeps | apply State.learnedRead_keeps
    | apply State.sendRestore_keeps | apply State.modZfb_keeps | refine Keeps.ofPair (by assumption) ?_
    | refine Keeps.ite (fun _ => ?_) (fun _ => ?_) | refine Keeps.ite1 (fun _ => ?_) (fun _ => ?_) | split | extract_lets
    | exact Keeps.field h | refine Keeps.field ?_ | intro _ | dsimp only

end Sys2Proof.Machine
end

