-- ==== Sys2Proof/Laws/KRegs.lean ====
section
/-!
SUPPORT. Laws/KRegs.lean: what each operation of Machine/Regs.lean keeps (Laws/Keeps.lean).
-/
namespace Sys2Proof.Machine

theorem State.blockWrite_keeps {s0 s : State} (who : Requester) (l : RegLoc) (v : Nat) (h : Keeps s0 s) : Keeps s0 (State.blockWrite s who l v).1 := by
  unfold State.blockWrite
  with_reducible repeat' first
    | assumption | apply State.writeCan_keeps | apply State.writeSch_keeps | apply State.phaseNow_keeps
    | apply State.writeCfe_keeps | apply State.writePtu_keeps | apply State.writeMbx_keeps | apply State.writePmc_keeps
    | apply State.writeGnb_keeps | apply State.writeFus_keeps | apply State.writeSlv_keeps | apply State.writeHlm_keeps
    | apply State.writeLpe_keeps | apply State.writeZfb_keeps | apply State.writeCrt_keeps | apply State.writeFio_keeps
    | apply State.writeSaf_keeps | apply State.writePrd_keeps | apply State.writeCse_keeps
    | refine Keeps.ofPair (by assumption) ?_ | refine Keeps.ite (fun _ => ?_) (fun _ => ?_)
    | refine Keeps.ite1 (fun _ => ?_) (fun _ => ?_) | split | extract_lets | dsimp only

theorem State.setWide_keeps {s0 s : State} (w : WideSlot) (h : Keeps s0 s) : Keeps s0 (State.setWide s w) := by
  unfold State.setWide
  with_reducible repeat' first
    | assumption | refine Keeps.ite (fun _ => ?_) (fun _ => ?_) | exact Keeps.field h | refine Keeps.field ?_ | intro _

theorem State.chainRead_keeps {s0 s : State} (who : Requester) (l : RegLoc) (h : Keeps s0 s) : Keeps s0 (State.chainRead s who l).1 := by
  unfold State.chainRead
  with_reducible repeat' first
    | assumption | apply State.setWide_keeps | refine Keeps.ofPair (by assumption) ?_
    | refine Keeps.ite (fun _ => ?_) (fun _ => ?_) | refine Keeps.ite1 (fun _ => ?_) (fun _ => ?_) | split | extract_lets
    | exact Keeps.field h | refine Keeps.field ?_ | dsimp only

theorem State.regRead_keeps {s0 s : State} (who : Requester) (a : Nat) (h : Keeps s0 s) : Keeps s0 (State.regRead s who a).1 := by
  unfold State.regRead
  with_reducible repeat' first
    | assumption | apply State.chainRead_keeps | apply State.clearRC_keeps | apply State.setWide_keeps
    | refine Keeps.ofPair (by assumption) ?_ | refine Keeps.ite (fun _ => ?_) (fun _ => ?_)
    | refine Keeps.ite1 (fun _ => ?_) (fun _ => ?_) | split | extract_lets | exact Keeps.field h | refine Keeps.field ?_
    | intro _ | dsimp only

theorem State.regWrite_keeps {s0 s : State} (who : Requester) (a v : Nat) (h : Keeps s0 s) : Keeps s0 (State.regWrite s who a v).1 := by
  unfold State.regWrite
  split
  · exact h
  · split
    · exact State.blockWrite_keeps _ _ _ h
    · dsimp only
      split
      · exact State.setWide_keeps _ h
      · exact State.blockWrite_keeps _ _ _ (State.setWide_keeps _ h)

theorem atReg_keeps {s0 s : State} (a : BitVec 64) (f : State → State) (h : Keeps s0 s) (hf : ∀ t, Keeps s0 t → Keeps s0 (f t)) : Keeps s0 (atReg a s f) := by
  unfold atReg
  with_reducible repeat' first
    | assumption | apply hf | apply State.busErr_keeps | refine Keeps.ite (fun _ => ?_) (fun _ => ?_)

theorem State.procRead_keeps {s0 s : State} (who : Requester) (a : BitVec 64) (h : Keeps s0 s) : Keeps s0 (State.procRead s who a) := by
  unfold State.procRead
  with_reducible repeat' first
    | assumption | apply State.deliverNone_keeps | apply State.deliver_keeps | apply State.regRead_keeps
    | apply State.busErr_keeps | refine Keeps.ofPair (by assumption) ?_ | refine Keeps.ite (fun _ => ?_) (fun _ => ?_) | split

theorem execRegisterWrite_keeps {s0 s : State} (who : Requester) (addr : BitVec 64) (v : BitVec 32) (h : Keeps s0 s) : OutKeeps s0 (execRegisterWrite who addr v s) := by
  unfold execRegisterWrite
  with_reducible repeat' first
    | assumption | apply OutKeeps.next | apply OutKeeps.done | apply State.regWrite_keeps | apply whenLive_keeps
    | apply atReg_keeps | intro _

theorem execReadClear_keeps {s0 s : State} (who : Requester) (addr : BitVec 64) (h : Keeps s0 s) : OutKeeps s0 (execReadClear who addr s) := by
  unfold execReadClear
  with_reducible repeat' first
    | assumption | apply OutKeeps.next | apply OutKeeps.done | apply State.procRead_keeps | apply whenLive_keeps | intro _

theorem onWide_keeps {s0 s : State} (a : BitVec 64) (p : RegLoc → Bool) (f : State → State) (h : Keeps s0 s) (hf : ∀ t, Keeps s0 t → Keeps s0 (f t)) : Keeps s0 (onWide a p s f) := by
  unfold onWide
  with_reducible repeat' first
    | assumption | apply hf | refine Keeps.ofPair (by assumption) ?_ | refine Keeps.ite (fun _ => ?_) (fun _ => ?_) | split

theorem execWideRegLowRead_keeps {s0 s : State} (who : Requester) (addr : BitVec 64) (h : Keeps s0 s) : OutKeeps s0 (execWideRegLowRead who addr s) := by
  unfold execWideRegLowRead
  with_reducible repeat' first
    | assumption | apply OutKeeps.next | apply OutKeeps.done | apply State.procRead_keeps | apply whenLive_keeps
    | apply onWide_keeps | intro _

theorem execWideRegHighRead_keeps {s0 s : State} (who : Requester) (addr : BitVec 64) (h : Keeps s0 s) : OutKeeps s0 (execWideRegHighRead who addr s) := by
  unfold execWideRegHighRead
  with_reducible repeat' first
    | assumption | apply OutKeeps.next | apply OutKeeps.done | apply State.procRead_keeps | apply whenLive_keeps
    | apply onWide_keeps | intro _

theorem execWideRegLowerWrite_keeps {s0 s : State} (who : Requester) (addr : BitVec 64) (v : BitVec 32) (h : Keeps s0 s) : OutKeeps s0 (execWideRegLowerWrite who addr v s) := by
  unfold execWideRegLowerWrite
  with_reducible repeat' first
    | assumption | apply OutKeeps.next | apply OutKeeps.done | apply State.regWrite_keeps | apply whenLive_keeps
    | apply onWide_keeps | intro _

theorem execWideRegCommitWrite_keeps {s0 s : State} (who : Requester) (addr : BitVec 64) (v : BitVec 32) (h : Keeps s0 s) : OutKeeps s0 (execWideRegCommitWrite who addr v s) := by
  unfold execWideRegCommitWrite
  with_reducible repeat' first
    | assumption | apply OutKeeps.next | apply OutKeeps.done | apply State.regWrite_keeps | apply whenLive_keeps
    | apply onWide_keeps | intro _

theorem execFusInPush_keeps {s0 s : State} (who : Requester) (v : BitVec 32) (h : Keeps s0 s) : OutKeeps s0 (execFusInPush who v s) := by
  unfold execFusInPush
  with_reducible repeat' first
    | assumption | apply OutKeeps.next | apply OutKeeps.done | apply State.regWrite_keeps | apply whenLive_keeps | intro _

theorem State.regReads_keeps {s0 : State} (n : Nat) {s : State} (a : Nat) (h : Keeps s0 s) : Keeps s0 (State.regReads n s a).1 := by
  induction n generalizing s a with
  | zero => unfold State.regReads; exact h
  | succ n ih =>
    unfold State.regReads
    with_reducible repeat' first
      | assumption | apply ih | apply State.regRead_keeps | refine Keeps.ofPair (by assumption) ?_ | split | extract_lets
      | dsimp only

theorem State.regWrites_keeps {s0 : State} (n : Nat) {s : State} (a : Nat) (d : Bytes) (r : WRes) (h : Keeps s0 s) :
    Keeps s0 (State.regWrites n s a d r).1 := by
  induction n generalizing s a d r with
  | zero => exact h
  | succ n ih =>
    unfold State.regWrites
    split
    rename_i e
    exact ih _ _ _ (Keeps.ofPair e (State.regWrite_keeps _ _ _ h))

theorem execRegRead_keeps {s0 s : State} (h : Keeps s0 s) : OutKeeps s0 (execRegRead s) := by
  unfold execRegRead
  with_reducible repeat' first
    | assumption | apply OutKeeps.next | apply OutKeeps.done | apply State.regReads_keeps | apply State.runCmd_keeps
    | apply whenLive_keeps | refine Keeps.ofPair (by assumption) ?_ | intro _ | dsimp only | apply Keeps.idle
    | apply Keeps.endedW | apply Keeps.endedB | apply Keeps.ended | apply Keeps.readOut | apply Keeps.endedW_fin
    | apply Keeps.endedB_fin | apply Keeps.ended_fin | apply Keeps.readOut_fin | split | dsimp only | split | intro _

theorem execRegWrite_keeps {s0 s : State} (h : Keeps s0 s) : OutKeeps s0 (execRegWrite s) := by
  unfold execRegWrite
  with_reducible repeat' first
    | assumption | apply OutKeeps.next | apply OutKeeps.done | apply State.regWrites_keeps | apply State.runCmd_keeps
    | apply whenLive_keeps | apply endedW_keeps | intro _ | dsimp only | apply Keeps.idle | apply Keeps.endedW
    | apply Keeps.endedB | apply Keeps.ended | apply Keeps.readOut | apply Keeps.endedW_fin | apply Keeps.endedB_fin
    | apply Keeps.ended_fin | apply Keeps.readOut_fin | split | dsimp only | split | intro _

end Sys2Proof.Machine
end

