-- ==== Sys2Proof/Laws/KCfg.lean ====
section
/-!
SUPPORT. Laws/KCfg.lean: what each operation of Machine/Cfg.lean keeps (Laws/Keeps.lean).
-/
namespace Sys2Proof.Machine

theorem State.recWrite_keeps {s0 s : State} (r : RegRec) (h : Keeps s0 s) : Keeps s0 (State.recWrite s r).1 := by
  unfold State.recWrite
  with_reducible repeat' first
    | assumption | apply State.blockWrite_keeps | refine Keeps.ofPair (by assumption) ?_ | split | dsimp only

theorem State.recRun_keeps {s0 s : State} (r : RegRec) (h : Keeps s0 s) : Keeps s0 (State.recRun s r) := by
  unfold State.recRun
  with_reducible repeat' first
    | assumption | apply State.blockWrite_keeps | refine Keeps.ofPair (by assumption) ?_
    | refine Keeps.ite (fun _ => ?_) (fun _ => ?_) | refine Keeps.ite1 (fun _ => ?_) (fun _ => ?_) | split | extract_lets
    | exact Keeps.field h | refine Keeps.field ?_

theorem State.checkSlot_keeps {s0 s : State} (slot : Nat) (h : Keeps s0 s) : Keeps s0 (State.checkSlot s slot).1 := by
  unfold State.checkSlot
  with_reducible repeat' first
    | assumption | apply State.readWords_keeps | refine Keeps.ofPair (by assumption) ?_
    | refine Keeps.ite (fun _ => ?_) (fun _ => ?_) | refine Keeps.ite1 (fun _ => ?_) (fun _ => ?_) | split | extract_lets
    | dsimp only

theorem State.applySet_keeps {s0 s : State} (b : Bytes) (h : Keeps s0 s) : Keeps s0 (State.applySet s b) := by
  unfold State.applySet
  with_reducible repeat' first
    | assumption | apply State.canApply_keeps | apply State.crtApply_keeps | apply State.safApply_keeps
    | apply State.recWrite_keeps | apply State.recRun_keeps | apply State.wrAll_keeps | refine Keeps.ofPair (by assumption) ?_
    | refine Keeps.foldlP ?_ (fun _ _ _ => ?_) | refine Keeps.foldl ?_ (fun _ _ _ => ?_) | split | extract_lets
    | exact Keeps.field h | refine Keeps.field ?_
    | refine Keeps.upd h (by first | exact Nat.le_refl _ | exact Nat.le_add_right _ _) (by exact ⟨rfl, rfl⟩)
    | refine Keeps.upd ?_ (by first | exact Nat.le_refl _ | exact Nat.le_add_right _ _) (by exact ⟨rfl, rfl⟩) | intro _

theorem State.flipReg_keeps {s0 s : State} (l : RegLoc) (v : Nat) (h : Keeps s0 s) : Keeps s0 (State.flipReg s l v) := by
  unfold State.flipReg
  with_reducible repeat' first
    | assumption | apply State.blockWrite_keeps | apply State.wrReg_keeps | refine Keeps.ite (fun _ => ?_) (fun _ => ?_)
    | refine Keeps.ite1 (fun _ => ?_) (fun _ => ?_) | extract_lets

theorem State.flipAt_keeps {s0 s : State} (f : Nat) (h : Keeps s0 s) : Keeps s0 (State.flipAt s f) := by
  unfold State.flipAt
  with_reducible repeat' first
    | assumption | apply State.loopCommit_keeps | apply State.sendIdent_keeps | apply State.crtApply_keeps
    | apply State.safApply_keeps | apply State.canFlip_keeps | apply State.updTake_keeps | apply State.hlmLoad_keeps
    | apply State.hlmHold_keeps | apply State.flipReg_keeps | apply State.modCrt_keeps | apply State.resync_keeps
    | refine Keeps.ofPair (by assumption) ?_ | refine Keeps.foldlP ?_ (fun _ _ _ => ?_)
    | refine Keeps.foldl ?_ (fun _ _ _ => ?_) | refine Keeps.ite (fun _ => ?_) (fun _ => ?_)
    | refine Keeps.ite1 (fun _ => ?_) (fun _ => ?_) | split | extract_lets | exact Keeps.field h | refine Keeps.field ?_
    | refine Keeps.upd h (by first | exact Nat.le_refl _ | exact Nat.le_add_right _ _) (by exact ⟨rfl, rfl⟩)
    | refine Keeps.upd ?_ (by first | exact Nat.le_refl _ | exact Nat.le_add_right _ _) (by exact ⟨rfl, rfl⟩) | intro _

theorem execFlipInstant_keeps {s0 s : State} (h : Keeps s0 s) : OutKeeps s0 (execFlipInstant s) := by
  unfold execFlipInstant
  with_reducible repeat' first
    | assumption | apply OutKeeps.next | apply OutKeeps.done | apply State.flipAt_keeps | apply whenLive_keeps
    | refine Keeps.ofPair (by assumption) ?_ | refine Keeps.ite (fun _ => ?_) (fun _ => ?_) | split | intro _
    | refine OutKeeps.ite (fun _ => ?_) (fun _ => ?_)

end Sys2Proof.Machine
end

