-- ==== Sys2Proof/Laws/KCmd.lean ====
section
/-!
SUPPORT. Laws/KCmd.lean: what each operation of Machine/Cmd.lean keeps (Laws/Keeps.lean).
-/
namespace Sys2Proof.Machine

theorem execIdentify_keeps {s0 s : State} (h : Keeps s0 s) : OutKeeps s0 (execIdentify s) := by
  unfold execIdentify
  with_reducible repeat' first
    | assumption | apply OutKeeps.next | apply OutKeeps.done | apply State.runCmd_keeps | apply whenLive_keeps | intro _
    | dsimp only | apply Keeps.idle | apply Keeps.endedW | apply Keeps.endedB | apply Keeps.ended | apply Keeps.readOut
    | apply Keeps.endedW_fin | apply Keeps.endedB_fin | apply Keeps.ended_fin | apply Keeps.readOut_fin | split | dsimp only
    | intro _

theorem execStatusCommand_keeps {s0 s : State} (h : Keeps s0 s) : OutKeeps s0 (execStatusCommand s) := by
  unfold execStatusCommand
  with_reducible repeat' first
    | assumption | apply OutKeeps.next | apply OutKeeps.done | apply State.runCmd_keeps | apply whenLive_keeps | intro _
    | dsimp only | apply Keeps.idle | apply Keeps.endedW | apply Keeps.endedB | apply Keeps.ended | apply Keeps.readOut
    | apply Keeps.endedW_fin | apply Keeps.endedB_fin | apply Keeps.ended_fin | apply Keeps.readOut_fin | split | dsimp only
    | refine Keeps.ite (fun _ => ?_) (fun _ => ?_) | extract_lets | intro _ | refine OutKeeps.ite (fun _ => ?_) (fun _ => ?_)

theorem State.restart5_keeps {s0 s : State} (h : Keeps s0 s) : Keeps s0 (State.restart5 s) := by
  unfold State.restart5
  with_reducible repeat' first
    | assumption | apply State.enterReset_keeps | apply State.logFlash_keeps | apply State.release_keeps
    | refine Keeps.ofPair (by assumption) ?_ | refine Keeps.ite (fun _ => ?_) (fun _ => ?_) | split | extract_lets

theorem execRestartCommand_keeps {s0 s : State} (h : Keeps s0 s) : OutKeeps s0 (execRestartCommand s) := by
  unfold execRestartCommand
  with_reducible repeat' first
    | assumption | apply OutKeeps.next | apply OutKeeps.done | apply State.restart5_keeps | apply State.runCmd_keeps
    | apply whenLive_keeps | intro _ | dsimp only | apply Keeps.idle | apply Keeps.endedW | apply Keeps.endedB
    | apply Keeps.ended | apply Keeps.readOut | apply Keeps.endedW_fin | apply Keeps.endedB_fin | apply Keeps.ended_fin
    | apply Keeps.readOut_fin | split | dsimp only | intro _

theorem execFaultLogRead_keeps {s0 s : State} (h : Keeps s0 s) : OutKeeps s0 (execFaultLogRead s) := by
  unfold execFaultLogRead
  with_reducible repeat' first
    | assumption | apply OutKeeps.next | apply OutKeeps.done | apply State.runCmd_keeps | apply whenLive_keeps | intro _
    | dsimp only | apply Keeps.idle | apply Keeps.endedW | apply Keeps.endedB | apply Keeps.ended | apply Keeps.readOut
    | apply Keeps.endedW_fin | apply Keeps.endedB_fin | apply Keeps.ended_fin | apply Keeps.readOut_fin | split | dsimp only
    | intro _

theorem State.cmdRead_keeps {s0 : State} (n : Nat) {s : State} (w : Nat) (h : Keeps s0 s) : Keeps s0 (State.cmdRead n s w).1 := by
  induction n generalizing s w with
  | zero => unfold State.cmdRead; exact h
  | succ n ih =>
    unfold State.cmdRead
    have hr : Keeps s0 (if inFlash (32 * w) && s.rdRaw w = erasedWord then (s, some erasedWord.data) else s.getWord w).1 :=
      Keeps.ite1 (fun _ => h) (fun _ => State.getWord_keeps _ h)
    dsimp only
    generalize (if (inFlash (32 * w) && decide (s.rdRaw w = erasedWord)) = true then (s, some erasedWord.data) else s.getWord w) = r at hr ⊢
    obtain ⟨t, _ | d⟩ := r
    · exact Keeps.ite (fun _ => hr) (fun _ => State.codePip_keeps _ _ hr)
    · have hi := ih (s := t) (w + 1) hr
      dsimp only
      generalize State.cmdRead n t (w + 1) = q at hi ⊢
      obtain ⟨u, _ | e⟩ := q <;> exact hi

theorem Keeps.readOut {s0 : State} {r : State × Option Bytes} (h : Keeps s0 r.1) : Keeps s0 (readOut r).st := by
  obtain ⟨s, _ | d⟩ := r <;> exact h
theorem Keeps.readOut_fin {s0 u : State} {r : State × Option Bytes} (h : Keeps s0 u) : Keeps s0 ((Machine.readOut r).fin u) := by
  obtain ⟨s, _ | d⟩ := r <;> exact h

theorem execMemRead_keeps {s0 s : State} (h : Keeps s0 s) : OutKeeps s0 (execMemRead s) := by
  unfold execMemRead
  with_reducible repeat' first
    | assumption | apply OutKeeps.next | apply OutKeeps.done | apply State.cmdRead_keeps | apply State.runCmd_keeps
    | apply whenLive_keeps | apply readOut_keeps | intro _ | dsimp only | apply Keeps.idle | apply Keeps.endedW
    | apply Keeps.endedB | apply Keeps.ended | apply Keeps.readOut | apply Keeps.endedW_fin | apply Keeps.endedB_fin
    | apply Keeps.ended_fin | apply Keeps.readOut_fin | split | dsimp only | split | intro _

theorem execMemWrite_keeps {s0 s : State} (h : Keeps s0 s) : OutKeeps s0 (execMemWrite s) := by
  unfold execMemWrite
  with_reducible repeat' first
    | assumption | apply OutKeeps.next | apply OutKeeps.done | apply State.putWords_keeps | apply State.runCmd_keeps
    | apply whenLive_keeps | intro _ | dsimp only | apply Keeps.idle | apply Keeps.endedW | apply Keeps.endedB
    | apply Keeps.ended | apply Keeps.readOut | apply Keeps.endedW_fin | apply Keeps.endedB_fin | apply Keeps.ended_fin
    | apply Keeps.readOut_fin | split | dsimp only | split | intro _

theorem execShadowWrite_keeps {s0 s : State} (h : Keeps s0 s) : OutKeeps s0 (execShadowWrite s) := by
  unfold execShadowWrite
  with_reducible repeat' first
    | assumption | apply OutKeeps.next | apply OutKeeps.done | apply State.programs_keeps | apply State.runCmd_keeps
    | apply State.erase_keeps | apply whenLive_keeps | intro _ | dsimp only | apply Keeps.idle | apply Keeps.endedW
    | apply Keeps.endedB | apply Keeps.ended | apply Keeps.readOut | apply Keeps.endedW_fin | apply Keeps.endedB_fin
    | apply Keeps.ended_fin | apply Keeps.readOut_fin | split | dsimp only | refine Keeps.ite (fun _ => ?_) (fun _ => ?_)
    | split | extract_lets | exact Keeps.field h | refine Keeps.field ?_ | intro _
    | refine OutKeeps.ite (fun _ => ?_) (fun _ => ?_)

theorem State.checkData_keeps {s0 s : State} (r : ChkRes) (b : Bytes) (h : Keeps s0 s) : Keeps s0 (State.checkData s r b).1 := by
  unfold State.checkData
  with_reducible repeat' first
    | assumption | apply State.draw_keeps | refine Keeps.ofPair (by assumption) ?_
    | refine Keeps.ite (fun _ => ?_) (fun _ => ?_) | refine Keeps.ite1 (fun _ => ?_) (fun _ => ?_) | split | extract_lets
    | dsimp only

theorem execShadowCheck_keeps {s0 s : State} (h : Keeps s0 s) : OutKeeps s0 (execShadowCheck s) := by
  unfold execShadowCheck
  with_reducible repeat' first
    | assumption | apply OutKeeps.next | apply OutKeeps.done | apply State.sendIdent_keeps | apply State.checkSlot_keeps
    | apply State.checkData_keeps | apply State.runCmd_keeps | apply whenLive_keeps | refine Keeps.ofPair (by assumption) ?_
    | intro _ | dsimp only | apply Keeps.idle | apply Keeps.endedW | apply Keeps.endedB | apply Keeps.ended
    | apply Keeps.readOut | apply Keeps.endedW_fin | apply Keeps.endedB_fin | apply Keeps.ended_fin | apply Keeps.readOut_fin
    | split | dsimp only | refine Keeps.ite (fun _ => ?_) (fun _ => ?_) | split | exact Keeps.field h | refine Keeps.field ?_
    | intro _ | refine OutKeeps.ite (fun _ => ?_) (fun _ => ?_)

theorem State.takeOrder_keeps {s0 s : State} (o : Option FlipOrder) (h : Keeps s0 s) : Keeps s0 (State.takeOrder s o) := by
  unfold State.takeOrder
  with_reducible repeat' first
    | assumption | apply State.flipJournal_keeps | apply State.dlPush_keeps | refine Keeps.ofPair (by assumption) ?_
    | refine Keeps.ite (fun _ => ?_) (fun _ => ?_) | split | extract_lets | exact Keeps.field h | refine Keeps.field ?_

theorem execFlip_keeps {s0 s : State} (h : Keeps s0 s) : OutKeeps s0 (execFlip s) := by
  unfold execFlip
  with_reducible repeat' first
    | assumption | apply OutKeeps.next | apply OutKeeps.done | apply State.takeOrder_keeps | apply State.restart5_keeps
    | apply State.errLog_keeps | apply State.runCmd_keeps | apply State.wr_keeps | apply whenLive_keeps
    | refine Keeps.ofPair (by assumption) ?_ | intro _ | dsimp only | apply Keeps.idle | apply Keeps.endedW
    | apply Keeps.endedB | apply Keeps.ended | apply Keeps.readOut | apply Keeps.endedW_fin | apply Keeps.endedB_fin
    | apply Keeps.ended_fin | apply Keeps.readOut_fin | split | dsimp only | split | extract_lets | exact Keeps.field h
    | refine Keeps.field ?_ | intro _

theorem execSetRead_keeps {s0 s : State} (h : Keeps s0 s) : OutKeeps s0 (execSetRead s) := by
  unfold execSetRead
  with_reducible repeat' first
    | assumption | apply OutKeeps.next | apply OutKeeps.done | apply State.cmdRead_keeps | apply State.runCmd_keeps
    | apply whenLive_keeps | apply readOut_keeps | intro _ | dsimp only | apply Keeps.idle | apply Keeps.endedW
    | apply Keeps.endedB | apply Keeps.ended | apply Keeps.readOut | apply Keeps.endedW_fin | apply Keeps.endedB_fin
    | apply Keeps.ended_fin | apply Keeps.readOut_fin | split | dsimp only | refine Keeps.ite (fun _ => ?_) (fun _ => ?_)
    | split | extract_lets | intro _ | refine OutKeeps.ite (fun _ => ?_) (fun _ => ?_)

theorem State.fwCheck_keeps {s0 s : State} (slot : Nat) (h : Keeps s0 s) : Keeps s0 (State.fwCheck s slot).1 := by
  unfold State.fwCheck
  with_reducible repeat' first
    | assumption | apply State.readWords_keeps | refine Keeps.ofPair (by assumption) ?_
    | refine Keeps.ite (fun _ => ?_) (fun _ => ?_) | refine Keeps.ite1 (fun _ => ?_) (fun _ => ?_) | split | extract_lets
    | intro _ | dsimp only

theorem execFwWrite_keeps {s0 s : State} (h : Keeps s0 s) : OutKeeps s0 (execFwWrite s) := by
  unfold execFwWrite
  with_reducible repeat' first
    | assumption | apply OutKeeps.next | apply OutKeeps.done | apply State.programs_keeps | apply State.runCmd_keeps
    | apply State.erase_keeps | apply whenLive_keeps | intro _ | dsimp only | apply Keeps.idle | apply Keeps.endedW
    | apply Keeps.endedB | apply Keeps.ended | apply Keeps.readOut | apply Keeps.endedW_fin | apply Keeps.endedB_fin
    | apply Keeps.ended_fin | apply Keeps.readOut_fin | split | dsimp only | refine Keeps.ite (fun _ => ?_) (fun _ => ?_)
    | split | extract_lets | exact Keeps.field h | refine Keeps.field ?_ | intro _
    | refine OutKeeps.ite (fun _ => ?_) (fun _ => ?_)

theorem execFwVerify_keeps {s0 s : State} (h : Keeps s0 s) : OutKeeps s0 (execFwVerify s) := by
  unfold execFwVerify
  with_reducible repeat' first
    | assumption | apply OutKeeps.next | apply OutKeeps.done | apply State.fwCheck_keeps | apply State.runCmd_keeps
    | apply whenLive_keeps | refine Keeps.ofPair (by assumption) ?_ | intro _ | dsimp only | apply Keeps.idle
    | apply Keeps.endedW | apply Keeps.endedB | apply Keeps.ended | apply Keeps.readOut | apply Keeps.endedW_fin
    | apply Keeps.endedB_fin | apply Keeps.ended_fin | apply Keeps.readOut_fin | split | dsimp only
    | refine Keeps.ite (fun _ => ?_) (fun _ => ?_) | split | exact Keeps.field h | refine Keeps.field ?_
    | refine Keeps.upd h (by first | exact Nat.le_refl _ | exact Nat.le_add_right _ _) (by exact ⟨rfl, rfl⟩)
    | refine Keeps.upd ?_ (by first | exact Nat.le_refl _ | exact Nat.le_add_right _ _) (by exact ⟨rfl, rfl⟩) | intro _
    | refine OutKeeps.ite (fun _ => ?_) (fun _ => ?_)

theorem execFwSelect_keeps {s0 s : State} (h : Keeps s0 s) : OutKeeps s0 (execFwSelect s) := by
  unfold execFwSelect
  with_reducible repeat' first
    | assumption | apply OutKeeps.next | apply OutKeeps.done | apply State.programs_keeps | apply State.fwCheck_keeps
    | apply State.runCmd_keeps | apply State.erase_keeps | apply State.wr_keeps | apply whenLive_keeps
    | refine Keeps.ofPair (by assumption) ?_ | intro _ | dsimp only | apply Keeps.idle | apply Keeps.endedW
    | apply Keeps.endedB | apply Keeps.ended | apply Keeps.readOut | apply Keeps.endedW_fin | apply Keeps.endedB_fin
    | apply Keeps.ended_fin | apply Keeps.readOut_fin | split | dsimp only | refine Keeps.ite (fun _ => ?_) (fun _ => ?_)
    | refine Keeps.ite1 (fun _ => ?_) (fun _ => ?_) | split | extract_lets | exact Keeps.field h | refine Keeps.field ?_
    | refine Keeps.upd h (by first | exact Nat.le_refl _ | exact Nat.le_add_right _ _) (by exact ⟨rfl, rfl⟩)
    | refine Keeps.upd ?_ (by first | exact Nat.le_refl _ | exact Nat.le_add_right _ _) (by exact ⟨rfl, rfl⟩) | intro _
    | refine OutKeeps.ite (fun _ => ?_) (fun _ => ?_)

theorem execBulbClear_keeps {s0 s : State} (h : Keeps s0 s) : OutKeeps s0 (execBulbClear s) := by
  unfold execBulbClear
  with_reducible repeat' first
    | assumption | apply OutKeeps.next | apply OutKeeps.done | apply State.commitRec_keeps | apply State.restart5_keeps
    | apply State.runCmd_keeps | apply whenLive_keeps | intro _ | dsimp only | apply Keeps.idle | apply Keeps.endedW
    | apply Keeps.endedB | apply Keeps.ended | apply Keeps.readOut | apply Keeps.endedW_fin | apply Keeps.endedB_fin
    | apply Keeps.ended_fin | apply Keeps.readOut_fin | split | dsimp only | intro _

theorem State.setKey_keeps {s0 s : State} (kind : Nat) (k : Option Bytes) (h : Keeps s0 s) : Keeps s0 (State.setKey s kind k) := by
  unfold State.setKey
  with_reducible repeat' first
    | assumption | apply State.wrB_keeps | refine Keeps.ite (fun _ => ?_) (fun _ => ?_) | exact Keeps.field h
    | refine Keeps.field ?_

theorem execKeyProvision_keeps {s0 s : State} (h : Keeps s0 s) : OutKeeps s0 (execKeyProvision s) := by
  unfold execKeyProvision
  with_reducible repeat' first
    | assumption | apply OutKeeps.next | apply OutKeeps.done | apply State.runCmd_keeps | apply State.setKey_keeps
    | apply whenLive_keeps | intro _ | dsimp only | apply Keeps.idle | apply Keeps.endedW | apply Keeps.endedB
    | apply Keeps.ended | apply Keeps.readOut | apply Keeps.endedW_fin | apply Keeps.endedB_fin | apply Keeps.ended_fin
    | apply Keeps.readOut_fin | split | dsimp only | refine Keeps.ite (fun _ => ?_) (fun _ => ?_) | split | extract_lets
    | exact Keeps.field h | refine Keeps.field ?_ | intro _ | refine OutKeeps.ite (fun _ => ?_) (fun _ => ?_)

theorem execKeyErase_keeps {s0 s : State} (h : Keeps s0 s) : OutKeeps s0 (execKeyErase s) := by
  unfold execKeyErase
  with_reducible repeat' first
    | assumption | apply OutKeeps.next | apply OutKeeps.done | apply State.runCmd_keeps | apply State.setKey_keeps
    | apply whenLive_keeps | intro _ | dsimp only | apply Keeps.idle | apply Keeps.endedW | apply Keeps.endedB
    | apply Keeps.ended | apply Keeps.readOut | apply Keeps.endedW_fin | apply Keeps.endedB_fin | apply Keeps.ended_fin
    | apply Keeps.readOut_fin | split | dsimp only | split | intro _

theorem State.regCmd_keeps {s0 s : State} (op a k : Nat) (h : Keeps s0 s) : Keeps s0 (State.regCmd s op a k) := by
  unfold State.regCmd
  with_reducible repeat' first
    | assumption | apply State.blockWrite_keeps | apply State.runCmd_keeps | apply endedW_keeps
    | refine Keeps.ofPair (by assumption) ?_ | intro _ | dsimp only | apply Keeps.idle | apply Keeps.endedW
    | apply Keeps.endedB | apply Keeps.ended | apply Keeps.readOut | apply Keeps.endedW_fin | apply Keeps.endedB_fin
    | apply Keeps.ended_fin | apply Keeps.readOut_fin | split | dsimp only | refine Keeps.foldl ?_ (fun _ _ _ => ?_) | split
    | intro _

theorem execHlmSetpoint_keeps {s0 s : State} (h : Keeps s0 s) : OutKeeps s0 (execHlmSetpoint s) := by
  unfold execHlmSetpoint
  with_reducible repeat' first
    | assumption | apply OutKeeps.next | apply OutKeeps.done | apply State.regCmd_keeps | apply whenLive_keeps | intro _

theorem execHlmJoystick_keeps {s0 s : State} (h : Keeps s0 s) : OutKeeps s0 (execHlmJoystick s) := by
  unfold execHlmJoystick
  with_reducible repeat' first
    | assumption | apply OutKeeps.next | apply OutKeeps.done | apply State.regCmd_keeps | apply whenLive_keeps | intro _

theorem execHlmMode_keeps {s0 s : State} (h : Keeps s0 s) : OutKeeps s0 (execHlmMode s) := by
  unfold execHlmMode
  with_reducible repeat' first
    | assumption | apply OutKeeps.next | apply OutKeeps.done | apply State.regCmd_keeps | apply whenLive_keeps | intro _

theorem execCseRestore_keeps {s0 s : State} (h : Keeps s0 s) : OutKeeps s0 (execCseRestore s) := by
  unfold execCseRestore
  with_reducible repeat' first
    | assumption | apply OutKeeps.next | apply OutKeeps.done | apply State.cseRestore_keeps | apply State.runCmd_keeps
    | apply whenLive_keeps | apply ended_keeps | intro _ | dsimp only | apply Keeps.idle | apply Keeps.endedW
    | apply Keeps.endedB | apply Keeps.ended | apply Keeps.readOut | apply Keeps.endedW_fin | apply Keeps.endedB_fin
    | apply Keeps.ended_fin | apply Keeps.readOut_fin | split | dsimp only | intro _

theorem execCseService_keeps {s0 s : State} (h : Keeps s0 s) : OutKeeps s0 (execCseService s) := by
  unfold execCseService
  with_reducible repeat' first
    | assumption | apply OutKeeps.next | apply OutKeeps.done | apply State.cseService_keeps | apply State.runCmd_keeps
    | apply whenLive_keeps | apply ended_keeps | intro _ | dsimp only | apply Keeps.idle | apply Keeps.endedW
    | apply Keeps.endedB | apply Keeps.ended | apply Keeps.readOut | apply Keeps.endedW_fin | apply Keeps.endedB_fin
    | apply Keeps.ended_fin | apply Keeps.readOut_fin | split | dsimp only | split | intro _

theorem execCseWake_keeps {s0 s : State} (h : Keeps s0 s) : OutKeeps s0 (execCseWake s) := by
  unfold execCseWake
  with_reducible repeat' first
    | assumption | apply OutKeeps.next | apply OutKeeps.done | apply State.cseWake_keeps | apply State.runCmd_keeps
    | apply whenLive_keeps | intro _ | dsimp only | apply Keeps.idle | apply Keeps.endedW | apply Keeps.endedB
    | apply Keeps.ended | apply Keeps.readOut | apply Keeps.endedW_fin | apply Keeps.endedB_fin | apply Keeps.ended_fin
    | apply Keeps.readOut_fin | split | dsimp only | intro _

theorem execCseCommit_keeps {s0 s : State} (h : Keeps s0 s) : OutKeeps s0 (execCseCommit s) := by
  unfold execCseCommit
  with_reducible repeat' first
    | assumption | apply OutKeeps.next | apply OutKeeps.done | apply State.commitSlot_keeps | apply State.runCmd_keeps
    | apply whenLive_keeps | refine Keeps.ofPair (by assumption) ?_ | intro _ | dsimp only | apply Keeps.idle
    | apply Keeps.endedW | apply Keeps.endedB | apply Keeps.ended | apply Keeps.readOut | apply Keeps.endedW_fin
    | apply Keeps.endedB_fin | apply Keeps.ended_fin | apply Keeps.readOut_fin | split | dsimp only | split | intro _

theorem execFusPush_keeps {s0 s : State} (h : Keeps s0 s) : OutKeeps s0 (execFusPush s) := by
  unfold execFusPush
  with_reducible repeat' first
    | assumption | apply OutKeeps.next | apply OutKeeps.done | apply State.fusCommit_keeps | apply State.runCmd_keeps
    | apply whenLive_keeps | refine Keeps.ofPair (by assumption) ?_ | intro _ | dsimp only | apply Keeps.idle
    | apply Keeps.endedW | apply Keeps.endedB | apply Keeps.ended | apply Keeps.readOut | apply Keeps.endedW_fin
    | apply Keeps.endedB_fin | apply Keeps.ended_fin | apply Keeps.readOut_fin | split | dsimp only
    | refine Keeps.ite (fun _ => ?_) (fun _ => ?_) | split | intro _ | refine OutKeeps.ite (fun _ => ?_) (fun _ => ?_)

theorem execRollStart_keeps {s0 s : State} (h : Keeps s0 s) : OutKeeps s0 (execRollStart s) := by
  unfold execRollStart
  with_reducible repeat' first
    | assumption | apply OutKeeps.next | apply OutKeeps.done | apply State.rollStart_keeps | apply State.runCmd_keeps
    | apply whenLive_keeps | apply endedW_keeps | intro _ | dsimp only | apply Keeps.idle | apply Keeps.endedW
    | apply Keeps.endedB | apply Keeps.ended | apply Keeps.readOut | apply Keeps.endedW_fin | apply Keeps.endedB_fin
    | apply Keeps.ended_fin | apply Keeps.readOut_fin | split | dsimp only | intro _

theorem execRouteRead_keeps {s0 s : State} (h : Keeps s0 s) : OutKeeps s0 (execRouteRead s) := by
  unfold execRouteRead
  with_reducible repeat' first
    | assumption | apply OutKeeps.next | apply OutKeeps.done | apply State.runCmd_keeps | apply whenLive_keeps | intro _
    | dsimp only | apply Keeps.idle | apply Keeps.endedW | apply Keeps.endedB | apply Keeps.ended | apply Keeps.readOut
    | apply Keeps.endedW_fin | apply Keeps.endedB_fin | apply Keeps.ended_fin | apply Keeps.readOut_fin | split | dsimp only
    | split | intro _

theorem State.taskCmd_keeps {s0 s : State} (mine : Bytes → Bool) (f : State → Nat → State × Bool) (h : Keeps s0 s) (hf : ∀ t a, Keeps s0 t → Keeps s0 (f t a).1) : Keeps s0 (State.taskCmd s mine f) := by
  unfold State.taskCmd
  with_reducible repeat' first
    | assumption | apply hf | apply State.runCmd_keeps | apply endedB_keeps | intro _ | dsimp only | apply Keeps.idle
    | apply Keeps.endedW | apply Keeps.endedB | apply Keeps.ended | apply Keeps.readOut | apply Keeps.endedW_fin
    | apply Keeps.endedB_fin | apply Keeps.ended_fin | apply Keeps.readOut_fin | split | dsimp only
    | refine Keeps.ite (fun _ => ?_) (fun _ => ?_) | split | intro _

theorem execTaskControlRun_keeps {s0 s : State} (h : Keeps s0 s) : OutKeeps s0 (execTaskControlRun s) := by
  unfold execTaskControlRun
  with_reducible repeat' first
    | assumption | apply OutKeeps.next | apply OutKeeps.done | apply State.taskCmd_keeps | apply State.crtRun_keeps
    | apply whenLive_keeps | intro _ | dsimp only | apply Keeps.idle | apply Keeps.endedW | apply Keeps.endedB
    | apply Keeps.ended | apply Keeps.readOut | apply Keeps.endedW_fin | apply Keeps.endedB_fin | apply Keeps.ended_fin
    | apply Keeps.readOut_fin | split | dsimp only | split | intro _

theorem execTaskControlStop_keeps {s0 s : State} (h : Keeps s0 s) : OutKeeps s0 (execTaskControlStop s) := by
  unfold execTaskControlStop
  with_reducible repeat' first
    | assumption | apply OutKeeps.next | apply OutKeeps.done | apply State.crtStop_keeps | apply State.taskCmd_keeps
    | apply whenLive_keeps | intro _ | dsimp only | apply Keeps.idle | apply Keeps.endedW | apply Keeps.endedB
    | apply Keeps.ended | apply Keeps.readOut | apply Keeps.endedW_fin | apply Keeps.endedB_fin | apply Keeps.ended_fin
    | apply Keeps.readOut_fin | split | dsimp only | intro _

theorem execTaskControlReset_keeps {s0 s : State} (h : Keeps s0 s) : OutKeeps s0 (execTaskControlReset s) := by
  unfold execTaskControlReset
  with_reducible repeat' first
    | assumption | apply OutKeeps.next | apply OutKeeps.done | apply State.crtReset_keeps | apply State.taskCmd_keeps
    | apply whenLive_keeps | intro _ | dsimp only | apply Keeps.idle | apply Keeps.endedW | apply Keeps.endedB
    | apply Keeps.ended | apply Keeps.readOut | apply Keeps.endedW_fin | apply Keeps.endedB_fin | apply Keeps.ended_fin
    | apply Keeps.readOut_fin | split | dsimp only | intro _

theorem execTaskRun_keeps {s0 s : State} (h : Keeps s0 s) : OutKeeps s0 (execTaskRun s) := by
  unfold execTaskRun
  with_reducible repeat' first
    | assumption | apply OutKeeps.next | apply OutKeeps.done | apply State.taskRun_keeps | apply State.taskCmd_keeps
    | apply whenLive_keeps | intro _ | dsimp only | apply Keeps.idle | apply Keeps.endedW | apply Keeps.endedB
    | apply Keeps.ended | apply Keeps.readOut | apply Keeps.endedW_fin | apply Keeps.endedB_fin | apply Keeps.ended_fin
    | apply Keeps.readOut_fin | split | dsimp only | intro _

theorem execTaskStop_keeps {s0 s : State} (h : Keeps s0 s) : OutKeeps s0 (execTaskStop s) := by
  unfold execTaskStop
  with_reducible repeat' first
    | assumption | apply OutKeeps.next | apply OutKeeps.done | apply State.taskStop_keeps | apply State.taskCmd_keeps
    | apply whenLive_keeps | intro _ | dsimp only | apply Keeps.idle | apply Keeps.endedW | apply Keeps.endedB
    | apply Keeps.ended | apply Keeps.readOut | apply Keeps.endedW_fin | apply Keeps.endedB_fin | apply Keeps.ended_fin
    | apply Keeps.readOut_fin | split | dsimp only | intro _

theorem execTaskHold_keeps {s0 s : State} (h : Keeps s0 s) : OutKeeps s0 (execTaskHold s) := by
  unfold execTaskHold
  with_reducible repeat' first
    | assumption | apply OutKeeps.next | apply OutKeeps.done | apply State.taskHoldOp_keeps | apply State.taskCmd_keeps
    | apply whenLive_keeps | intro _ | dsimp only | apply Keeps.idle | apply Keeps.endedW | apply Keeps.endedB
    | apply Keeps.ended | apply Keeps.readOut | apply Keeps.endedW_fin | apply Keeps.endedB_fin | apply Keeps.ended_fin
    | apply Keeps.readOut_fin | split | dsimp only | intro _

theorem execTaskStep_keeps {s0 s : State} (h : Keeps s0 s) : OutKeeps s0 (execTaskStep s) := by
  unfold execTaskStep
  with_reducible repeat' first
    | assumption | apply OutKeeps.next | apply OutKeeps.done | apply State.taskStepOp_keeps | apply State.taskCmd_keeps
    | apply whenLive_keeps | intro _ | dsimp only | apply Keeps.idle | apply Keeps.endedW | apply Keeps.endedB
    | apply Keeps.ended | apply Keeps.readOut | apply Keeps.endedW_fin | apply Keeps.endedB_fin | apply Keeps.ended_fin
    | apply Keeps.readOut_fin | split | dsimp only | intro _

theorem execTaskResume_keeps {s0 s : State} (h : Keeps s0 s) : OutKeeps s0 (execTaskResume s) := by
  unfold execTaskResume
  with_reducible repeat' first
    | assumption | apply OutKeeps.next | apply OutKeeps.done | apply State.taskResumeOp_keeps | apply State.taskCmd_keeps
    | apply whenLive_keeps | intro _ | dsimp only | apply Keeps.idle | apply Keeps.endedW | apply Keeps.endedB
    | apply Keeps.ended | apply Keeps.readOut | apply Keeps.endedW_fin | apply Keeps.endedB_fin | apply Keeps.ended_fin
    | apply Keeps.readOut_fin | split | dsimp only | intro _

theorem execStnAck_keeps {s0 s : State} (h : Keeps s0 s) : OutKeeps s0 (execStnAck s) := by
  unfold execStnAck
  with_reducible repeat' first
    | assumption | apply OutKeeps.next | apply OutKeeps.done | apply State.stnAckOp_keeps | apply State.taskCmd_keeps
    | apply whenLive_keeps | intro _ | dsimp only | apply Keeps.idle | apply Keeps.endedW | apply Keeps.endedB
    | apply Keeps.ended | apply Keeps.readOut | apply Keeps.endedW_fin | apply Keeps.endedB_fin | apply Keeps.ended_fin
    | apply Keeps.readOut_fin | split | dsimp only | intro _

theorem execTaskTrigger_keeps {s0 s : State} (h : Keeps s0 s) : OutKeeps s0 (execTaskTrigger s) := by
  unfold execTaskTrigger
  with_reducible repeat' first
    | assumption | apply OutKeeps.next | apply OutKeeps.done | apply State.taskTriggerOp_keeps | apply State.taskCmd_keeps
    | apply whenLive_keeps | intro _ | dsimp only | apply Keeps.idle | apply Keeps.endedW | apply Keeps.endedB
    | apply Keeps.ended | apply Keeps.readOut | apply Keeps.endedW_fin | apply Keeps.endedB_fin | apply Keeps.ended_fin
    | apply Keeps.readOut_fin | split | dsimp only | intro _

theorem execForceSet_keeps {s0 s : State} (h : Keeps s0 s) : OutKeeps s0 (execForceSet s) := by
  unfold execForceSet
  with_reducible repeat' first
    | assumption | apply OutKeeps.next | apply OutKeeps.done | apply State.forceSet_keeps | apply State.runCmd_keeps
    | apply whenLive_keeps | apply ended_keeps | intro _ | dsimp only | apply Keeps.idle | apply Keeps.endedW
    | apply Keeps.endedB | apply Keeps.ended | apply Keeps.readOut | apply Keeps.endedW_fin | apply Keeps.endedB_fin
    | apply Keeps.ended_fin | apply Keeps.readOut_fin | split | dsimp only | split | intro _

theorem execForceClear_keeps {s0 s : State} (h : Keeps s0 s) : OutKeeps s0 (execForceClear s) := by
  unfold execForceClear
  with_reducible repeat' first
    | assumption | apply OutKeeps.next | apply OutKeeps.done | apply State.forceClear_keeps | apply State.runCmd_keeps
    | apply whenLive_keeps | apply ended_keeps | intro _ | dsimp only | apply Keeps.idle | apply Keeps.endedW
    | apply Keeps.endedB | apply Keeps.ended | apply Keeps.readOut | apply Keeps.endedW_fin | apply Keeps.endedB_fin
    | apply Keeps.ended_fin | apply Keeps.readOut_fin | split | dsimp only | split | intro _

theorem execCanBusoffReturn_keeps {s0 s : State} (h : Keeps s0 s) : OutKeeps s0 (execCanBusoffReturn s) := by
  unfold execCanBusoffReturn
  with_reducible repeat' first
    | assumption | apply OutKeeps.next | apply OutKeeps.done | apply State.canRecover_keeps | apply State.runCmd_keeps
    | apply whenLive_keeps | apply endedW_keeps | intro _ | dsimp only | apply Keeps.idle | apply Keeps.endedW
    | apply Keeps.endedB | apply Keeps.ended | apply Keeps.readOut | apply Keeps.endedW_fin | apply Keeps.endedB_fin
    | apply Keeps.ended_fin | apply Keeps.readOut_fin | split | dsimp only | split | intro _

end Sys2Proof.Machine
end

