-- ==== Sys2Proof/Laws/KPower.lean ====
section
/-!
SUPPORT. Laws/KPower.lean: what each operation of Machine/Power.lean keeps (Laws/Keeps.lean).
-/
namespace Sys2Proof.Machine

theorem execPowerOnReset_keeps {s0 s : State} (h : Keeps s0 s) : OutKeeps s0 (execPowerOnReset s) := by
  have r := State.enterReset_keeps 0 false false h
  exact ⟨r.mem, fun _ => State.keepRegs_sorted _ _, r.pending, r.ticks, r.free, fun _ => .inr rfl, fun _ => .inr rfl⟩


theorem execResetPin_keeps {s0 s : State} (high : Bool) (h : Keeps s0 s) : OutKeeps s0 (execResetPin high s) := by
  unfold execResetPin
  with_reducible repeat' first
    | assumption | apply OutKeeps.next | apply OutKeeps.done | apply State.enterReset_keeps
    | refine Keeps.ite (fun _ => ?_) (fun _ => ?_) | extract_lets | exact Keeps.field h | refine Keeps.field ?_
    | refine OutKeeps.ite (fun _ => ?_) (fun _ => ?_)

theorem execBrownOut_keeps {s0 s : State} (high inTime collapse : Bool) (h : Keeps s0 s) : OutKeeps s0 (execBrownOut high inTime collapse s) := by
  unfold execBrownOut
  with_reducible repeat' first
    | assumption | apply OutKeeps.next | apply OutKeeps.done | apply State.enterReset_keeps | apply State.logFlash_keeps
    | apply State.wrapInc_keeps | apply State.release_keeps | apply State.wrAll_keeps
    | refine Keeps.ite (fun _ => ?_) (fun _ => ?_) | extract_lets | exact Keeps.field h | refine Keeps.field ?_
    | refine Keeps.upd h (by first | exact Nat.le_refl _ | exact Nat.le_add_right _ _) (by exact ⟨rfl, rfl⟩)
    | refine Keeps.upd ?_ (by first | exact Nat.le_refl _ | exact Nat.le_add_right _ _) (by exact ⟨rfl, rfl⟩)
    | refine OutKeeps.ite (fun _ => ?_) (fun _ => ?_)

theorem execRailOutOfWindow_keeps {s0 s : State} (rail : Fin 5) (h : Keeps s0 s) : OutKeeps s0 (execRailOutOfWindow rail s) := by
  unfold execRailOutOfWindow
  with_reducible repeat' first
    | assumption | apply OutKeeps.next | apply OutKeeps.done | apply State.enterReset_keeps | apply State.checkFail_keeps
    | apply State.wr_keeps | extract_lets

theorem execRailsQualified_keeps {s0 s : State} (vin : BitVec 10) (h : Keeps s0 s) : OutKeeps s0 (execRailsQualified vin s) := by
  unfold execRailsQualified
  with_reducible repeat' first
    | assumption | apply OutKeeps.next | apply OutKeeps.done | apply State.released_keeps | apply State.wr_keeps
    | refine Keeps.ofPair (by assumption) ?_ | refine Keeps.ite (fun _ => ?_) (fun _ => ?_) | split | extract_lets
    | refine OutKeeps.ite (fun _ => ?_) (fun _ => ?_)

theorem State.junction_keeps {s0 s : State} (tj : BitVec 9) (h : Keeps s0 s) : Keeps s0 (State.junction s tj) := by
  unfold State.junction
  with_reducible repeat' first
    | assumption | apply State.wr_keeps

theorem execJunctionHot_keeps {s0 s : State} (tj : BitVec 9) (h : Keeps s0 s) : OutKeeps s0 (execJunctionHot tj s) := by
  unfold execJunctionHot
  with_reducible repeat' first
    | assumption | apply OutKeeps.next | apply OutKeeps.done | apply State.junction_keeps | apply State.errLog_keeps
    | apply State.set1_keeps | refine Keeps.ite (fun _ => ?_) (fun _ => ?_) | split | extract_lets | exact Keeps.field h
    | refine Keeps.field ?_ | refine OutKeeps.ite (fun _ => ?_) (fun _ => ?_)

theorem execTempCheckFail_keeps {s0 s : State} (tj : BitVec 9) (h : Keeps s0 s) : OutKeeps s0 (execTempCheckFail tj s) := by
  unfold execTempCheckFail
  with_reducible repeat' first
    | assumption | apply OutKeeps.next | apply OutKeeps.done | apply State.enterReset_keeps | apply State.checkFail_keeps
    | apply State.junction_keeps | apply State.set1_keeps | refine Keeps.ite (fun _ => ?_) (fun _ => ?_) | extract_lets
    | refine OutKeeps.ite (fun _ => ?_) (fun _ => ?_)

theorem execJunctionCool_keeps {s0 s : State} (tj : BitVec 9) (h : Keeps s0 s) : OutKeeps s0 (execJunctionCool tj s) := by
  unfold execJunctionCool
  with_reducible repeat' first
    | assumption | apply OutKeeps.next | apply OutKeeps.done | apply State.released_keeps | apply State.junction_keeps
    | refine Keeps.ite (fun _ => ?_) (fun _ => ?_) | extract_lets | exact Keeps.field h | refine Keeps.field ?_
    | refine OutKeeps.ite (fun _ => ?_) (fun _ => ?_)

theorem execRestartAfterRelease_keeps {s0 s : State} (h : Keeps s0 s) : OutKeeps s0 (execRestartAfterRelease s) := by
  unfold execRestartAfterRelease
  with_reducible repeat' first
    | assumption | apply OutKeeps.next | apply OutKeeps.done | apply State.enterReset_keeps | apply State.released_keeps
    | refine Keeps.ofPair (by assumption) ?_ | refine Keeps.ite (fun _ => ?_) (fun _ => ?_) | split
    | refine OutKeeps.ite (fun _ => ?_) (fun _ => ?_)

end Sys2Proof.Machine
end

