-- ==== Sys2Proof/Laws/KStart.lean ====
section
/-!
SUPPORT. Laws/KStart.lean: what each operation of Machine/Start.lean keeps (Laws/Keeps.lean).
-/
namespace Sys2Proof.Machine

theorem State.clearMem_keeps {s0 s : State} (lo hi : Nat) (bad : List (Nat × Option (Fin 36))) (h : Keeps s0 s) : Keeps s0 (State.clearMem s lo hi bad).1 := by
  unfold State.clearMem
  with_reducible repeat' first
    | assumption | apply State.pipCorrected_keeps | apply State.pipUncorr_keeps | apply State.blank_keeps
    | refine Keeps.ofPair (by assumption) ?_ | refine Keeps.foldlP ?_ (fun _ _ _ => ?_)
    | refine Keeps.foldl ?_ (fun _ _ _ => ?_) | split | extract_lets | intro _ | dsimp only

theorem State.startRecords_keeps {s0 s : State} (h : Keeps s0 s) : Keeps s0 (State.startRecords s) := by
  unfold State.startRecords
  with_reducible repeat' first
    | assumption | apply State.commitRec_keeps | apply State.wrAll_keeps | refine Keeps.ofPair (by assumption) ?_ | split
    | extract_lets | exact Keeps.field h | refine Keeps.field ?_
    | refine Keeps.upd h (by first | exact Nat.le_refl _ | exact Nat.le_add_right _ _) (by exact ⟨rfl, rfl⟩)
    | refine Keeps.upd ?_ (by first | exact Nat.le_refl _ | exact Nat.le_add_right _ _) (by exact ⟨rfl, rfl⟩)

theorem State.startLog_keeps {s0 s : State} (h : Keeps s0 s) : Keeps s0 (State.startLog s) := by
  unfold State.startLog
  with_reducible repeat' first
    | assumption | apply State.logScan_keeps | apply State.errLog_keeps | apply State.stage_keeps
    | refine Keeps.ofPair (by assumption) ?_ | refine Keeps.ite (fun _ => ?_) (fun _ => ?_) | split | extract_lets
    | exact Keeps.field h | refine Keeps.field ?_
    | refine Keeps.upd h (by first | exact Nat.le_refl _ | exact Nat.le_add_right _ _) (by exact ⟨rfl, rfl⟩)
    | refine Keeps.upd ?_ (by first | exact Nat.le_refl _ | exact Nat.le_add_right _ _) (by exact ⟨rfl, rfl⟩)

theorem State.bulbSet_keeps {s0 s : State} (h : Keeps s0 s) : Keeps s0 (State.bulbSet s) := by
  unfold State.bulbSet
  with_reducible repeat' first
    | assumption | apply State.checkSlot_keeps | apply State.wrReg_keeps | apply State.wr_keeps
    | refine Keeps.ofPair (by assumption) ?_ | refine Keeps.ite (fun _ => ?_) (fun _ => ?_)
    | refine Keeps.ite1 (fun _ => ?_) (fun _ => ?_) | split | extract_lets | exact Keeps.field h | refine Keeps.field ?_
    | refine Keeps.upd h (by first | exact Nat.le_refl _ | exact Nat.le_add_right _ _) (by exact ⟨rfl, rfl⟩)
    | refine Keeps.upd ?_ (by first | exact Nat.le_refl _ | exact Nat.le_add_right _ _) (by exact ⟨rfl, rfl⟩) | intro _

theorem State.enterBulb_keeps {s0 s : State} (h : Keeps s0 s) (hn : s0.start.phase ≠ .running) : Keeps s0 (State.enterBulb s) := by
  unfold State.enterBulb
  have h0 := Keeps.updStart hn h (start := { s.start with phase := .bulb, role := .monitor }) (.inr rfl)
  with_reducible repeat' first
    | assumption | apply State.updPermit_keeps | apply State.cfeEnable_keeps | apply State.fioEnable_keeps
    | apply State.stateLog_keeps | apply State.mbxShow_keeps | apply State.bulbSet_keeps | apply State.wrAll_keeps
    | apply State.wr_keeps | extract_lets | exact Keeps.field h | refine Keeps.field ?_
    | refine Keeps.upd h (by first | exact Nat.le_refl _ | exact Nat.le_add_right _ _) (by exact ⟨rfl, rfl⟩)
    | refine Keeps.upd ?_ (by first | exact Nat.le_refl _ | exact Nat.le_add_right _ _) (by exact ⟨rfl, rfl⟩)

theorem State.startLanes_keeps {s0 s : State} (h : Keeps s0 s) (hn : s0.start.phase ≠ .running) : Keeps s0 (State.startLanes s) := by
  unfold State.startLanes
  refine Keeps.ite (fun _ => ?_) (fun _ => State.startFail_keeps _ h)
  apply State.step7_keeps
  apply State.wr_keeps
  exact Keeps.updStart hn (State.wr_keeps (State.wrB_keeps _ _ h) _ _) (.inr rfl)

theorem State.startBlocks_keeps {s0 s : State} (h : Keeps s0 s) (hn : s0.start.phase ≠ .running) : Keeps s0 (State.startBlocks s) := by
  unfold State.startBlocks
  with_reducible repeat' first
    | assumption | apply State.startLanes_keeps | apply State.cfeEnable_keeps | apply State.startDone_keeps
    | apply State.wr_keeps | refine Keeps.ite (fun _ => ?_) (fun _ => ?_) | extract_lets

theorem State.startClock_keeps {s0 s : State} (h : Keeps s0 s) (hn : s0.start.phase ≠ .running) : Keeps s0 (State.startClock s) := by
  unfold State.startClock
  have h0 := Keeps.updStart hn h (start := { s.start with phase := .waitRefclk, role := .monitor, stepTick := s.ticks }) (.inr rfl)
  with_reducible repeat' first
    | assumption | apply State.startBlocks_keeps | refine Keeps.ite (fun _ => ?_) (fun _ => ?_) | exact Keeps.field h
    | refine Keeps.field ?_
    | refine Keeps.upd h (by first | exact Nat.le_refl _ | exact Nat.le_add_right _ _) (by exact ⟨rfl, rfl⟩)
    | refine Keeps.upd ?_ (by first | exact Nat.le_refl _ | exact Nat.le_add_right _ _) (by exact ⟨rfl, rfl⟩)

theorem State.startShadow_keeps {s0 s : State} (h : Keeps s0 s) : Keeps s0 (State.startShadow s) := by
  unfold State.startShadow
  with_reducible repeat' first
    | assumption | apply State.checkSlot_keeps | refine Keeps.ofPair (by assumption) ?_
    | refine Keeps.ite (fun _ => ?_) (fun _ => ?_) | split | exact Keeps.field h | refine Keeps.field ?_

theorem State.startSets_keeps {s0 s : State} (h : Keeps s0 s) (hn : s0.start.phase ≠ .running) : Keeps s0 (State.startSets s) := by
  unfold State.startSets
  with_reducible repeat' first
    | assumption | apply State.startShadow_keeps | apply State.startClock_keeps | apply State.startFail_keeps
    | apply State.checkSlot_keeps | apply State.applySet_keeps | apply State.mbxShow_keeps
    | refine Keeps.ofPair (by assumption) ?_ | refine Keeps.ite (fun _ => ?_) (fun _ => ?_) | split | extract_lets
    | exact Keeps.field h | refine Keeps.field ?_

theorem State.startBegin_keeps {s0 s : State} (bad : List (Nat × Option (Fin 36))) (h : Keeps s0 s) (hn : s0.start.phase ≠ .running) : Keeps s0 (State.startBegin s bad) := by
  unfold State.startBegin
  with_reducible repeat' first
    | assumption | apply State.startRecords_keeps | apply State.startFail_keeps | apply State.enterBulb_keeps
    | apply State.startSets_keeps | apply State.clearMem_keeps | apply State.startLog_keeps | apply State.fwCheck_keeps
    | apply State.wr_keeps | refine Keeps.ofPair (by assumption) ?_ | refine Keeps.ite (fun _ => ?_) (fun _ => ?_) | split
    | extract_lets

theorem execStartSequence_keeps {s : State} (straps : BitVec 16) (bad : List (Nat × Option (Fin 36))) :
    OutKeeps s (execStartSequence straps bad s) := by
  unfold execStartSequence
  refine OutKeeps.done ?_
  dsimp only
  refine Keeps.ite (fun c => ?_) (fun _ => Keeps.refl s)
  simp only [Bool.and_eq_true, decide_eq_true_eq] at c
  have hn : s.start.phase ≠ .running := by simp [c.1]
  exact State.startBegin_keeps _ (Keeps.upd (State.released_keeps (Keeps.refl s)) (Nat.le_refl _) (by exact ⟨rfl, rfl⟩)) hn

theorem execRefclkWaitTimeout_keeps {s0 s : State} (h : Keeps s0 s) : OutKeeps s0 (execRefclkWaitTimeout s) := by
  unfold execRefclkWaitTimeout
  with_reducible repeat' first
    | assumption | apply OutKeeps.next | apply OutKeeps.done | apply State.startFail_keeps | apply whenLive_keeps
    | refine Keeps.ite (fun _ => ?_) (fun _ => ?_) | intro _ | refine OutKeeps.ite (fun _ => ?_) (fun _ => ?_)

theorem execRefclkReturn_keeps {s0 s : State} (h : Keeps s0 s) : OutKeeps s0 (execRefclkReturn s) := by
  unfold execRefclkReturn
  refine OutKeeps.done (Keeps.ite (fun _ => h) (fun _ => ?_))
  have h1 := State.refclkBack_keeps h
  refine Keeps.ite (fun c => ?_) (fun _ => h1)
  simp only [Bool.and_eq_true, decide_eq_true_eq] at c
  exact State.startBlocks_keeps h1 (h1.starting (by simp [c.2]) (by simp [c.2]))

theorem execLaneTrainTimeout_keeps {s0 s : State} (h : Keeps s0 s) : OutKeeps s0 (execLaneTrainTimeout s) := by
  refine OutKeeps.done (whenLive_keeps h fun t ht => Keeps.ite (fun c => ?_) (fun _ => ht))
  simp only [Bool.and_eq_true, decide_eq_true_eq] at c
  exact State.enterContend_keeps ht (ht.starting (by simp [c.1]) (by simp [c.1]))

theorem execStartWatchdogExpiry_keeps {s0 s : State} (h : Keeps s0 s) : OutKeeps s0 (execStartWatchdogExpiry s) := by
  unfold execStartWatchdogExpiry
  with_reducible repeat' first
    | assumption | apply OutKeeps.next | apply OutKeeps.done | apply State.enterReset_keeps | apply State.logFlash_keeps
    | apply State.wrapInc_keeps | apply whenLive_keeps | refine Keeps.ite (fun _ => ?_) (fun _ => ?_) | split | extract_lets
    | exact Keeps.field h | refine Keeps.field ?_
    | refine Keeps.upd h (by first | exact Nat.le_refl _ | exact Nat.le_add_right _ _) (by exact ⟨rfl, rfl⟩)
    | refine Keeps.upd ?_ (by first | exact Nat.le_refl _ | exact Nat.le_add_right _ _) (by exact ⟨rfl, rfl⟩) | intro _
    | refine OutKeeps.ite (fun _ => ?_) (fun _ => ?_)

end Sys2Proof.Machine
end

