-- ==== Sys2Proof/Laws/State.lean ====
section
/-!
SUPPORT. Laws/State.lean: what the updates of State leave alone, field by field, and reading a register field or a byte
after it, or another, was written.
-/
namespace Sys2Proof.Machine

/-! ### Association lists -/

theorem aGet_aDel_self {β : Type} (k : Nat) (l : List (Nat × β)) : aGet k (aDel k l) = none := by
  induction l with
  | nil => rfl
  | cons e l ih => simp only [aDel]; split <;> simp_all [aGet]

theorem aGet_aDel_ne {β : Type} {j k : Nat} (h : k ≠ j) (l : List (Nat × β)) : aGet k (aDel j l) = aGet k l := by
  induction l with
  | nil => rfl
  | cons e l ih =>
    simp only [aDel, aGet]; split
    · rw [ih, if_neg (by omega)]
    · simp only [aGet, ih]

theorem aGet_aIns_self {β : Type} (k : Nat) (v : β) (l : List (Nat × β)) (h : aGet k l = none) :
    aGet k (aIns k v l) = some v := by
  induction l with
  | nil => simp [aIns, aGet]
  | cons e l ih =>
    simp only [aGet] at h
    split at h
    · cases h
    · simp only [aIns]; split <;> simp_all [aGet]

theorem aGet_aIns_ne {β : Type} {j k : Nat} (h : k ≠ j) (v : β) (l : List (Nat × β)) : aGet k (aIns j v l) = aGet k l := by
  induction l with
  | nil => simp [aIns, aGet, Ne.symm h]
  | cons e l ih => simp only [aIns]; split <;> simp [aGet, Ne.symm h, ih]

/-- What is read under a key that was set. -/
theorem aGet_aSet_self {β : Type} [DecidableEq β] (d : β) (k : Nat) (v : β) (l : List (Nat × β)) :
    (aGet k (aSet d k v l)).getD d = v := by
  unfold aSet; split
  · simp [aGet_aDel_self, *]
  · rw [aGet_aIns_self _ _ _ (aGet_aDel_self _ _)]; rfl

/-- Another key is read as before. -/
theorem aGet_aSet_ne {β : Type} [DecidableEq β] {j k : Nat} (h : k ≠ j) (d : β) (v : β) (l : List (Nat × β)) :
    aGet k (aSet d j v l) = aGet k l := by
  unfold aSet; split
  · exact aGet_aDel_ne h _
  · rw [aGet_aIns_ne h, aGet_aDel_ne h]

/-! ### Register fields -/

@[simp] theorem State.rd_wr (s : State) (f : Fld) (v : Nat) : (s.wr f v).rd f = v % 2 ^ f.width :=
  aGet_aSet_self _ _ _ _

theorem State.rd_wr_ne (s : State) {f g : Fld} (h : g.key ≠ f.key) (v : Nat) : (s.wr f v).rd g = s.rd g := by
  simp only [State.rd, State.wr, aGet_aSet_ne h]

@[simp] theorem State.on_wrB (s : State) (f : Fld) (b : Bool) (h : 0 < f.width) : (s.wrB f b).on f = b := by
  have : 1 < 2 ^ f.width := Nat.one_lt_two_pow (by omega)
  cases b <;> simp [State.on, State.wrB, b2n, Nat.mod_eq_of_lt this]

/-- A field of a state reads as it stands whatever else than the register file changes. -/
@[simp] theorem State.rd_mk (s : State) (f : Fld) {wide mem chk ticks free reads pwr start log pmc ptu prd mir mbx cfg cfe sch cse
    gnb fus slv hlm lpe zfb crt fio can saf pending} :
    (State.mk s.regs wide mem chk ticks free reads pwr start log pmc ptu prd mir mbx cfg cfe sch cse gnb fus slv hlm lpe zfb crt
      fio can saf pending).rd f = s.rd f := rfl

/-! ### Bytes of memory -/

@[simp] theorem State.rdByte_wrByte (s : State) (a : Nat) (b : Byte) : (s.wrByte a b).rdByte a = b := aGet_aSet_self _ _ _ _

theorem State.rdByte_wrByte_ne (s : State) {a c : Nat} (h : c ≠ a) (b : Byte) : (s.wrByte a b).rdByte c = s.rdByte c := by
  simp only [State.rdByte, State.wrByte, aGet_aSet_ne h]

@[simp] theorem State.rdByte_wr (s : State) (f : Fld) (v a : Nat) : (s.wr f v).rdByte a = s.rdByte a := rfl

@[simp] theorem State.rdByte_mk (s : State) (a : Nat) {regs wide chk ticks free reads pwr start log pmc ptu prd mir mbx cfg cfe sch
    cse gnb fus slv hlm lpe zfb crt fio can saf pending} :
    (State.mk regs wide s.mem chk ticks free reads pwr start log pmc ptu prd mir mbx cfg cfe sch cse gnb fus slv hlm lpe zfb crt
      fio can saf pending).rdByte a = s.rdByte a := rfl

/-! ### Fields of State under each update -/

@[simp] theorem State.wr_wide (s : State) (f : Fld) (v : Nat) : (s.wr f v).wide = s.wide := rfl
@[simp] theorem State.wr_mem (s : State) (f : Fld) (v : Nat) : (s.wr f v).mem = s.mem := rfl
@[simp] theorem State.wr_chk (s : State) (f : Fld) (v : Nat) : (s.wr f v).chk = s.chk := rfl
@[simp] theorem State.wr_ticks (s : State) (f : Fld) (v : Nat) : (s.wr f v).ticks = s.ticks := rfl
@[simp] theorem State.wr_free (s : State) (f : Fld) (v : Nat) : (s.wr f v).free = s.free := rfl
@[simp] theorem State.wr_reads (s : State) (f : Fld) (v : Nat) : (s.wr f v).reads = s.reads := rfl
@[simp] theorem State.wr_pwr (s : State) (f : Fld) (v : Nat) : (s.wr f v).pwr = s.pwr := rfl
@[simp] theorem State.wr_start (s : State) (f : Fld) (v : Nat) : (s.wr f v).start = s.start := rfl
@[simp] theorem State.wr_log (s : State) (f : Fld) (v : Nat) : (s.wr f v).log = s.log := rfl
@[simp] theorem State.wr_pmc (s : State) (f : Fld) (v : Nat) : (s.wr f v).pmc = s.pmc := rfl
@[simp] theorem State.wr_ptu (s : State) (f : Fld) (v : Nat) : (s.wr f v).ptu = s.ptu := rfl
@[simp] theorem State.wr_prd (s : State) (f : Fld) (v : Nat) : (s.wr f v).prd = s.prd := rfl
@[simp] theorem State.wr_mir (s : State) (f : Fld) (v : Nat) : (s.wr f v).mir = s.mir := rfl
@[simp] theorem State.wr_mbx (s : State) (f : Fld) (v : Nat) : (s.wr f v).mbx = s.mbx := rfl
@[simp] theorem State.wr_cfg (s : State) (f : Fld) (v : Nat) : (s.wr f v).cfg = s.cfg := rfl
@[simp] theorem State.wr_cfe (s : State) (f : Fld) (v : Nat) : (s.wr f v).cfe = s.cfe := rfl
@[simp] theorem State.wr_sch (s : State) (f : Fld) (v : Nat) : (s.wr f v).sch = s.sch := rfl
@[simp] theorem State.wr_cse (s : State) (f : Fld) (v : Nat) : (s.wr f v).cse = s.cse := rfl
@[simp] theorem State.wr_gnb (s : State) (f : Fld) (v : Nat) : (s.wr f v).gnb = s.gnb := rfl
@[simp] theorem State.wr_fus (s : State) (f : Fld) (v : Nat) : (s.wr f v).fus = s.fus := rfl
@[simp] theorem State.wr_slv (s : State) (f : Fld) (v : Nat) : (s.wr f v).slv = s.slv := rfl
@[simp] theorem State.wr_hlm (s : State) (f : Fld) (v : Nat) : (s.wr f v).hlm = s.hlm := rfl
@[simp] theorem State.wr_lpe (s : State) (f : Fld) (v : Nat) : (s.wr f v).lpe = s.lpe := rfl
@[simp] theorem State.wr_zfb (s : State) (f : Fld) (v : Nat) : (s.wr f v).zfb = s.zfb := rfl
@[simp] theorem State.wr_crt (s : State) (f : Fld) (v : Nat) : (s.wr f v).crt = s.crt := rfl
@[simp] theorem State.wr_fio (s : State) (f : Fld) (v : Nat) : (s.wr f v).fio = s.fio := rfl
@[simp] theorem State.wr_can (s : State) (f : Fld) (v : Nat) : (s.wr f v).can = s.can := rfl
@[simp] theorem State.wr_saf (s : State) (f : Fld) (v : Nat) : (s.wr f v).saf = s.saf := rfl
@[simp] theorem State.wr_pending (s : State) (f : Fld) (v : Nat) : (s.wr f v).pending = s.pending := rfl

@[simp] theorem State.wrByte_regs (s : State) (a : Nat) (b : Byte) : (s.wrByte a b).regs = s.regs := rfl
@[simp] theorem State.wrByte_wide (s : State) (a : Nat) (b : Byte) : (s.wrByte a b).wide = s.wide := rfl
@[simp] theorem State.wrByte_chk (s : State) (a : Nat) (b : Byte) : (s.wrByte a b).chk = s.chk := rfl
@[simp] theorem State.wrByte_ticks (s : State) (a : Nat) (b : Byte) : (s.wrByte a b).ticks = s.ticks := rfl
@[simp] theorem State.wrByte_free (s : State) (a : Nat) (b : Byte) : (s.wrByte a b).free = s.free := rfl
@[simp] theorem State.wrByte_reads (s : State) (a : Nat) (b : Byte) : (s.wrByte a b).reads = s.reads := rfl
@[simp] theorem State.wrByte_pwr (s : State) (a : Nat) (b : Byte) : (s.wrByte a b).pwr = s.pwr := rfl
@[simp] theorem State.wrByte_start (s : State) (a : Nat) (b : Byte) : (s.wrByte a b).start = s.start := rfl
@[simp] theorem State.wrByte_log (s : State) (a : Nat) (b : Byte) : (s.wrByte a b).log = s.log := rfl
@[simp] theorem State.wrByte_pmc (s : State) (a : Nat) (b : Byte) : (s.wrByte a b).pmc = s.pmc := rfl
@[simp] theorem State.wrByte_ptu (s : State) (a : Nat) (b : Byte) : (s.wrByte a b).ptu = s.ptu := rfl
@[simp] theorem State.wrByte_prd (s : State) (a : Nat) (b : Byte) : (s.wrByte a b).prd = s.prd := rfl
@[simp] theorem State.wrByte_mir (s : State) (a : Nat) (b : Byte) : (s.wrByte a b).mir = s.mir := rfl
@[simp] theorem State.wrByte_mbx (s : State) (a : Nat) (b : Byte) : (s.wrByte a b).mbx = s.mbx := rfl
@[simp] theorem State.wrByte_cfg (s : State) (a : Nat) (b : Byte) : (s.wrByte a b).cfg = s.cfg := rfl
@[simp] theorem State.wrByte_cfe (s : State) (a : Nat) (b : Byte) : (s.wrByte a b).cfe = s.cfe := rfl
@[simp] theorem State.wrByte_sch (s : State) (a : Nat) (b : Byte) : (s.wrByte a b).sch = s.sch := rfl
@[simp] theorem State.wrByte_cse (s : State) (a : Nat) (b : Byte) : (s.wrByte a b).cse = s.cse := rfl
@[simp] theorem State.wrByte_gnb (s : State) (a : Nat) (b : Byte) : (s.wrByte a b).gnb = s.gnb := rfl
@[simp] theorem State.wrByte_fus (s : State) (a : Nat) (b : Byte) : (s.wrByte a b).fus = s.fus := rfl
@[simp] theorem State.wrByte_slv (s : State) (a : Nat) (b : Byte) : (s.wrByte a b).slv = s.slv := rfl
@[simp] theorem State.wrByte_hlm (s : State) (a : Nat) (b : Byte) : (s.wrByte a b).hlm = s.hlm := rfl
@[simp] theorem State.wrByte_lpe (s : State) (a : Nat) (b : Byte) : (s.wrByte a b).lpe = s.lpe := rfl
@[simp] theorem State.wrByte_zfb (s : State) (a : Nat) (b : Byte) : (s.wrByte a b).zfb = s.zfb := rfl
@[simp] theorem State.wrByte_crt (s : State) (a : Nat) (b : Byte) : (s.wrByte a b).crt = s.crt := rfl
@[simp] theorem State.wrByte_fio (s : State) (a : Nat) (b : Byte) : (s.wrByte a b).fio = s.fio := rfl
@[simp] theorem State.wrByte_can (s : State) (a : Nat) (b : Byte) : (s.wrByte a b).can = s.can := rfl
@[simp] theorem State.wrByte_saf (s : State) (a : Nat) (b : Byte) : (s.wrByte a b).saf = s.saf := rfl
@[simp] theorem State.wrByte_pending (s : State) (a : Nat) (b : Byte) : (s.wrByte a b).pending = s.pending := rfl

@[simp] theorem State.wrChk_regs (s : State) (k : Nat) (b : Byte) : (s.wrChk k b).regs = s.regs := rfl
@[simp] theorem State.wrChk_wide (s : State) (k : Nat) (b : Byte) : (s.wrChk k b).wide = s.wide := rfl
@[simp] theorem State.wrChk_mem (s : State) (k : Nat) (b : Byte) : (s.wrChk k b).mem = s.mem := rfl
@[simp] theorem State.wrChk_ticks (s : State) (k : Nat) (b : Byte) : (s.wrChk k b).ticks = s.ticks := rfl
@[simp] theorem State.wrChk_free (s : State) (k : Nat) (b : Byte) : (s.wrChk k b).free = s.free := rfl
@[simp] theorem State.wrChk_reads (s : State) (k : Nat) (b : Byte) : (s.wrChk k b).reads = s.reads := rfl
@[simp] theorem State.wrChk_pwr (s : State) (k : Nat) (b : Byte) : (s.wrChk k b).pwr = s.pwr := rfl
@[simp] theorem State.wrChk_start (s : State) (k : Nat) (b : Byte) : (s.wrChk k b).start = s.start := rfl
@[simp] theorem State.wrChk_log (s : State) (k : Nat) (b : Byte) : (s.wrChk k b).log = s.log := rfl
@[simp] theorem State.wrChk_pmc (s : State) (k : Nat) (b : Byte) : (s.wrChk k b).pmc = s.pmc := rfl
@[simp] theorem State.wrChk_ptu (s : State) (k : Nat) (b : Byte) : (s.wrChk k b).ptu = s.ptu := rfl
@[simp] theorem State.wrChk_prd (s : State) (k : Nat) (b : Byte) : (s.wrChk k b).prd = s.prd := rfl
@[simp] theorem State.wrChk_mir (s : State) (k : Nat) (b : Byte) : (s.wrChk k b).mir = s.mir := rfl
@[simp] theorem State.wrChk_mbx (s : State) (k : Nat) (b : Byte) : (s.wrChk k b).mbx = s.mbx := rfl
@[simp] theorem State.wrChk_cfg (s : State) (k : Nat) (b : Byte) : (s.wrChk k b).cfg = s.cfg := rfl
@[simp] theorem State.wrChk_cfe (s : State) (k : Nat) (b : Byte) : (s.wrChk k b).cfe = s.cfe := rfl
@[simp] theorem State.wrChk_sch (s : State) (k : Nat) (b : Byte) : (s.wrChk k b).sch = s.sch := rfl
@[simp] theorem State.wrChk_cse (s : State) (k : Nat) (b : Byte) : (s.wrChk k b).cse = s.cse := rfl
@[simp] theorem State.wrChk_gnb (s : State) (k : Nat) (b : Byte) : (s.wrChk k b).gnb = s.gnb := rfl
@[simp] theorem State.wrChk_fus (s : State) (k : Nat) (b : Byte) : (s.wrChk k b).fus = s.fus := rfl
@[simp] theorem State.wrChk_slv (s : State) (k : Nat) (b : Byte) : (s.wrChk k b).slv = s.slv := rfl
@[simp] theorem State.wrChk_hlm (s : State) (k : Nat) (b : Byte) : (s.wrChk k b).hlm = s.hlm := rfl
@[simp] theorem State.wrChk_lpe (s : State) (k : Nat) (b : Byte) : (s.wrChk k b).lpe = s.lpe := rfl
@[simp] theorem State.wrChk_zfb (s : State) (k : Nat) (b : Byte) : (s.wrChk k b).zfb = s.zfb := rfl
@[simp] theorem State.wrChk_crt (s : State) (k : Nat) (b : Byte) : (s.wrChk k b).crt = s.crt := rfl
@[simp] theorem State.wrChk_fio (s : State) (k : Nat) (b : Byte) : (s.wrChk k b).fio = s.fio := rfl
@[simp] theorem State.wrChk_can (s : State) (k : Nat) (b : Byte) : (s.wrChk k b).can = s.can := rfl
@[simp] theorem State.wrChk_saf (s : State) (k : Nat) (b : Byte) : (s.wrChk k b).saf = s.saf := rfl
@[simp] theorem State.wrChk_pending (s : State) (k : Nat) (b : Byte) : (s.wrChk k b).pending = s.pending := rfl

@[simp] theorem State.draw_regs (s : State) : s.draw.regs = s.regs := rfl
@[simp] theorem State.draw_wide (s : State) : s.draw.wide = s.wide := rfl
@[simp] theorem State.draw_mem (s : State) : s.draw.mem = s.mem := rfl
@[simp] theorem State.draw_chk (s : State) : s.draw.chk = s.chk := rfl
@[simp] theorem State.draw_ticks (s : State) : s.draw.ticks = s.ticks := rfl
@[simp] theorem State.draw_reads (s : State) : s.draw.reads = s.reads := rfl
@[simp] theorem State.draw_pwr (s : State) : s.draw.pwr = s.pwr := rfl
@[simp] theorem State.draw_start (s : State) : s.draw.start = s.start := rfl
@[simp] theorem State.draw_log (s : State) : s.draw.log = s.log := rfl
@[simp] theorem State.draw_pmc (s : State) : s.draw.pmc = s.pmc := rfl
@[simp] theorem State.draw_ptu (s : State) : s.draw.ptu = s.ptu := rfl
@[simp] theorem State.draw_prd (s : State) : s.draw.prd = s.prd := rfl
@[simp] theorem State.draw_mir (s : State) : s.draw.mir = s.mir := rfl
@[simp] theorem State.draw_mbx (s : State) : s.draw.mbx = s.mbx := rfl
@[simp] theorem State.draw_cfg (s : State) : s.draw.cfg = s.cfg := rfl
@[simp] theorem State.draw_cfe (s : State) : s.draw.cfe = s.cfe := rfl
@[simp] theorem State.draw_sch (s : State) : s.draw.sch = s.sch := rfl
@[simp] theorem State.draw_cse (s : State) : s.draw.cse = s.cse := rfl
@[simp] theorem State.draw_gnb (s : State) : s.draw.gnb = s.gnb := rfl
@[simp] theorem State.draw_fus (s : State) : s.draw.fus = s.fus := rfl
@[simp] theorem State.draw_slv (s : State) : s.draw.slv = s.slv := rfl
@[simp] theorem State.draw_hlm (s : State) : s.draw.hlm = s.hlm := rfl
@[simp] theorem State.draw_lpe (s : State) : s.draw.lpe = s.lpe := rfl
@[simp] theorem State.draw_zfb (s : State) : s.draw.zfb = s.zfb := rfl
@[simp] theorem State.draw_crt (s : State) : s.draw.crt = s.crt := rfl
@[simp] theorem State.draw_fio (s : State) : s.draw.fio = s.fio := rfl
@[simp] theorem State.draw_can (s : State) : s.draw.can = s.can := rfl
@[simp] theorem State.draw_saf (s : State) : s.draw.saf = s.saf := rfl
@[simp] theorem State.draw_pending (s : State) : s.draw.pending = s.pending := rfl

end Sys2Proof.Machine
end

