-- ==== Sys2Proof/Laws/Ops.lean ====
section
/-!
SUPPORT. Laws/Ops.lean: what the shared operations on registers and on the fault log change, and what they leave alone.
-/
namespace Sys2Proof.Machine

/-! ### Counters and flags -/

@[simp] theorem State.rd_set1 (s : State) (f : Fld) (h : 0 < f.width) : (s.set1 f).rd f = 1 := by
  simp [State.set1, Nat.mod_eq_of_lt (Nat.one_lt_two_pow (by omega : f.width ≠ 0))]

@[simp] theorem State.rd_wrB (s : State) (f : Fld) (b : Bool) (h : 0 < f.width) : (s.wrB f b).rd f = b2n b := by
  have : 1 < 2 ^ f.width := Nat.one_lt_two_pow (by omega)
  cases b <;> simp [State.wrB, b2n, Nat.mod_eq_of_lt this]

/-- A saturating counter goes up by one and stays at its greatest value. -/
theorem State.rd_satInc (s : State) (f : Fld) : (s.satInc f).rd f = min (s.rd f + 1) (2 ^ f.width - 1) := by
  have : 0 < 2 ^ f.width := Nat.two_pow_pos _
  simp only [State.satInc, State.satAdd, State.rd_wr]
  exact Nat.mod_eq_of_lt (by omega)

@[simp] theorem State.rd_wrapInc (s : State) (f : Fld) : (s.wrapInc f).rd f = (s.rd f + 1) % 2 ^ f.width := by
  simp [State.wrapInc]

/-! ### The fault log -/

/-- The register fields that an entry changes. -/
def logKeys : List Nat := [PMC_LOG_STAT_NEXT.key, PMC_LOG_STAT_STAGED.key, PMC_LOG_STAT_LOST_CNT.key]

/-- A field that entering an event leaves alone. -/
abbrev NotLog (f : Fld) : Prop := f.key ∉ logKeys

theorem State.stage_rd (s : State) (e : LogEntry) {f : Fld} (h : NotLog f) : (s.stage e).rd f = s.rd f := by
  simp only [NotLog, logKeys, List.mem_cons, List.not_mem_nil, or_false, not_or] at h
  unfold State.stage
  dsimp only
  split <;> simp only [State.satInc, State.satAdd, State.rd_wr_ne _ h.1, State.rd_wr_ne _ h.2.1, State.rd_wr_ne _ h.2.2,
    State.rd_mk]

/-- An entry changes no register field but those of PMC_LOG_STAT. -/
theorem State.logEvent_rd (s : State) (src code inst status detail : Nat) {f : Fld} (h : NotLog f) :
    (s.logEvent src code inst status detail).rd f = s.rd f := by
  unfold State.logEvent
  dsimp only
  split
  · rfl
  · exact State.stage_rd _ _ h

theorem State.errLog_rd_ne (s : State) (f : Fld) (inst : Nat) {g : Fld} (h : NotLog g) (hg : g.key ≠ f.key) :
    (s.errLog f inst).rd g = s.rd g := by
  simp only [State.errLog, State.logEvent_rd _ _ _ _ _ _ h, State.rd_wr_ne _ hg]

/-- An error flag reads 1 once it is raised. -/
theorem State.errLog_rd (s : State) (f : Fld) (inst : Nat) (h : NotLog f) (hw : 0 < f.width) : (s.errLog f inst).rd f = 1 := by
  simp only [State.errLog, State.logEvent_rd _ _ _ _ _ _ h, State.rd_wr]
  exact Nat.mod_eq_of_lt (Nat.one_lt_two_pow (by omega))

theorem State.stateLog_rd (s : State) (src idx inst old new data : Nat) {f : Fld} (h : NotLog f) :
    (s.stateLog src idx inst old new data).rd f = s.rd f := State.logEvent_rd _ _ _ _ _ _ h

theorem State.cmdLog_rd (s : State) (source group status op src : Nat) {f : Fld} (h : NotLog f) :
    (s.cmdLog source group status op src).rd f = s.rd f := State.logEvent_rd _ _ _ _ _ _ h

theorem State.wrState_rd (s : State) (f : Fld) (idx inst new : Nat) (h : NotLog f) :
    (s.wrState f idx inst new).rd f = new % 2 ^ f.width := by
  unfold State.wrState
  dsimp only
  split
  · simp
  · simp [State.stateLog_rd _ _ _ _ _ _ _ h]

theorem State.wrState_rd_ne (s : State) (f : Fld) (idx inst new : Nat) {g : Fld} (h : NotLog g) (hg : g.key ≠ f.key) :
    (s.wrState f idx inst new).rd g = s.rd g := by
  unfold State.wrState
  dsimp only
  split
  · exact State.rd_wr_ne _ hg _
  · rw [State.stateLog_rd _ _ _ _ _ _ _ h, State.rd_wr_ne _ hg]

theorem State.alarmLog_rd_ne (s : State) (f : Fld) (k inst : Nat) {g : Fld} (h : NotLog g) (hg : g.key ≠ f.key) :
    (s.alarmLog f k inst).rd g = s.rd g := by
  simp only [State.alarmLog, State.logEvent_rd _ _ _ _ _ _ h, State.wrBit, State.rd_wr_ne _ hg]

@[simp] theorem State.stage_wide (s : State) (e : LogEntry) : (s.stage e).wide = s.wide := by
  unfold State.stage; dsimp only; split <;> rfl
@[simp] theorem State.stage_mem (s : State) (e : LogEntry) : (s.stage e).mem = s.mem := by
  unfold State.stage; dsimp only; split <;> rfl
@[simp] theorem State.stage_chk (s : State) (e : LogEntry) : (s.stage e).chk = s.chk := by
  unfold State.stage; dsimp only; split <;> rfl
@[simp] theorem State.stage_ticks (s : State) (e : LogEntry) : (s.stage e).ticks = s.ticks := by
  unfold State.stage; dsimp only; split <;> rfl
@[simp] theorem State.stage_free (s : State) (e : LogEntry) : (s.stage e).free = s.free := by
  unfold State.stage; dsimp only; split <;> rfl
@[simp] theorem State.stage_reads (s : State) (e : LogEntry) : (s.stage e).reads = s.reads := by
  unfold State.stage; dsimp only; split <;> rfl
@[simp] theorem State.stage_pwr (s : State) (e : LogEntry) : (s.stage e).pwr = s.pwr := by
  unfold State.stage; dsimp only; split <;> rfl
@[simp] theorem State.stage_start (s : State) (e : LogEntry) : (s.stage e).start = s.start := by
  unfold State.stage; dsimp only; split <;> rfl
@[simp] theorem State.stage_pmc (s : State) (e : LogEntry) : (s.stage e).pmc = s.pmc := by
  unfold State.stage; dsimp only; split <;> rfl
@[simp] theorem State.stage_ptu (s : State) (e : LogEntry) : (s.stage e).ptu = s.ptu := by
  unfold State.stage; dsimp only; split <;> rfl
@[simp] theorem State.stage_prd (s : State) (e : LogEntry) : (s.stage e).prd = s.prd := by
  unfold State.stage; dsimp only; split <;> rfl
@[simp] theorem State.stage_mir (s : State) (e : LogEntry) : (s.stage e).mir = s.mir := by
  unfold State.stage; dsimp only; split <;> rfl
@[simp] theorem State.stage_mbx (s : State) (e : LogEntry) : (s.stage e).mbx = s.mbx := by
  unfold State.stage; dsimp only; split <;> rfl
@[simp] theorem State.stage_cfg (s : State) (e : LogEntry) : (s.stage e).cfg = s.cfg := by
  unfold State.stage; dsimp only; split <;> rfl
@[simp] theorem State.stage_cfe (s : State) (e : LogEntry) : (s.stage e).cfe = s.cfe := by
  unfold State.stage; dsimp only; split <;> rfl
@[simp] theorem State.stage_sch (s : State) (e : LogEntry) : (s.stage e).sch = s.sch := by
  unfold State.stage; dsimp only; split <;> rfl
@[simp] theorem State.stage_cse (s : State) (e : LogEntry) : (s.stage e).cse = s.cse := by
  unfold State.stage; dsimp only; split <;> rfl
@[simp] theorem State.stage_gnb (s : State) (e : LogEntry) : (s.stage e).gnb = s.gnb := by
  unfold State.stage; dsimp only; split <;> rfl
@[simp] theorem State.stage_fus (s : State) (e : LogEntry) : (s.stage e).fus = s.fus := by
  unfold State.stage; dsimp only; split <;> rfl
@[simp] theorem State.stage_slv (s : State) (e : LogEntry) : (s.stage e).slv = s.slv := by
  unfold State.stage; dsimp only; split <;> rfl
@[simp] theorem State.stage_hlm (s : State) (e : LogEntry) : (s.stage e).hlm = s.hlm := by
  unfold State.stage; dsimp only; split <;> rfl
@[simp] theorem State.stage_lpe (s : State) (e : LogEntry) : (s.stage e).lpe = s.lpe := by
  unfold State.stage; dsimp only; split <;> rfl
@[simp] theorem State.stage_zfb (s : State) (e : LogEntry) : (s.stage e).zfb = s.zfb := by
  unfold State.stage; dsimp only; split <;> rfl
@[simp] theorem State.stage_crt (s : State) (e : LogEntry) : (s.stage e).crt = s.crt := by
  unfold State.stage; dsimp only; split <;> rfl
@[simp] theorem State.stage_fio (s : State) (e : LogEntry) : (s.stage e).fio = s.fio := by
  unfold State.stage; dsimp only; split <;> rfl
@[simp] theorem State.stage_can (s : State) (e : LogEntry) : (s.stage e).can = s.can := by
  unfold State.stage; dsimp only; split <;> rfl
@[simp] theorem State.stage_saf (s : State) (e : LogEntry) : (s.stage e).saf = s.saf := by
  unfold State.stage; dsimp only; split <;> rfl
@[simp] theorem State.stage_pending (s : State) (e : LogEntry) : (s.stage e).pending = s.pending := by
  unfold State.stage; dsimp only; split <;> rfl

@[simp] theorem State.logEvent_wide (s : State) (src code inst status detail : Nat) : (s.logEvent src code inst status detail).wide = s.wide := by
  unfold State.logEvent; dsimp only; split
  · rfl
  · exact State.stage_wide _ _
@[simp] theorem State.logEvent_mem (s : State) (src code inst status detail : Nat) : (s.logEvent src code inst status detail).mem = s.mem := by
  unfold State.logEvent; dsimp only; split
  · rfl
  · exact State.stage_mem _ _
@[simp] theorem State.logEvent_chk (s : State) (src code inst status detail : Nat) : (s.logEvent src code inst status detail).chk = s.chk := by
  unfold State.logEvent; dsimp only; split
  · rfl
  · exact State.stage_chk _ _
@[simp] theorem State.logEvent_ticks (s : State) (src code inst status detail : Nat) : (s.logEvent src code inst status detail).ticks = s.ticks := by
  unfold State.logEvent; dsimp only; split
  · rfl
  · exact State.stage_ticks _ _
@[simp] theorem State.logEvent_free (s : State) (src code inst status detail : Nat) : (s.logEvent src code inst status detail).free = s.free := by
  unfold State.logEvent; dsimp only; split
  · rfl
  · exact State.stage_free _ _
@[simp] theorem State.logEvent_reads (s : State) (src code inst status detail : Nat) : (s.logEvent src code inst status detail).reads = s.reads := by
  unfold State.logEvent; dsimp only; split
  · rfl
  · exact State.stage_reads _ _
@[simp] theorem State.logEvent_pwr (s : State) (src code inst status detail : Nat) : (s.logEvent src code inst status detail).pwr = s.pwr := by
  unfold State.logEvent; dsimp only; split
  · rfl
  · exact State.stage_pwr _ _
@[simp] theorem State.logEvent_start (s : State) (src code inst status detail : Nat) : (s.logEvent src code inst status detail).start = s.start := by
  unfold State.logEvent; dsimp only; split
  · rfl
  · exact State.stage_start _ _
@[simp] theorem State.logEvent_pmc (s : State) (src code inst status detail : Nat) : (s.logEvent src code inst status detail).pmc = s.pmc := by
  unfold State.logEvent; dsimp only; split
  · rfl
  · exact State.stage_pmc _ _
@[simp] theorem State.logEvent_ptu (s : State) (src code inst status detail : Nat) : (s.logEvent src code inst status detail).ptu = s.ptu := by
  unfold State.logEvent; dsimp only; split
  · rfl
  · exact State.stage_ptu _ _
@[simp] theorem State.logEvent_prd (s : State) (src code inst status detail : Nat) : (s.logEvent src code inst status detail).prd = s.prd := by
  unfold State.logEvent; dsimp only; split
  · rfl
  · exact State.stage_prd _ _
@[simp] theorem State.logEvent_mir (s : State) (src code inst status detail : Nat) : (s.logEvent src code inst status detail).mir = s.mir := by
  unfold State.logEvent; dsimp only; split
  · rfl
  · exact State.stage_mir _ _
@[simp] theorem State.logEvent_mbx (s : State) (src code inst status detail : Nat) : (s.logEvent src code inst status detail).mbx = s.mbx := by
  unfold State.logEvent; dsimp only; split
  · rfl
  · exact State.stage_mbx _ _
@[simp] theorem State.logEvent_cfg (s : State) (src code inst status detail : Nat) : (s.logEvent src code inst status detail).cfg = s.cfg := by
  unfold State.logEvent; dsimp only; split
  · rfl
  · exact State.stage_cfg _ _
@[simp] theorem State.logEvent_cfe (s : State) (src code inst status detail : Nat) : (s.logEvent src code inst status detail).cfe = s.cfe := by
  unfold State.logEvent; dsimp only; split
  · rfl
  · exact State.stage_cfe _ _
@[simp] theorem State.logEvent_sch (s : State) (src code inst status detail : Nat) : (s.logEvent src code inst status detail).sch = s.sch := by
  unfold State.logEvent; dsimp only; split
  · rfl
  · exact State.stage_sch _ _
@[simp] theorem State.logEvent_cse (s : State) (src code inst status detail : Nat) : (s.logEvent src code inst status detail).cse = s.cse := by
  unfold State.logEvent; dsimp only; split
  · rfl
  · exact State.stage_cse _ _
@[simp] theorem State.logEvent_gnb (s : State) (src code inst status detail : Nat) : (s.logEvent src code inst status detail).gnb = s.gnb := by
  unfold State.logEvent; dsimp only; split
  · rfl
  · exact State.stage_gnb _ _
@[simp] theorem State.logEvent_fus (s : State) (src code inst status detail : Nat) : (s.logEvent src code inst status detail).fus = s.fus := by
  unfold State.logEvent; dsimp only; split
  · rfl
  · exact State.stage_fus _ _
@[simp] theorem State.logEvent_slv (s : State) (src code inst status detail : Nat) : (s.logEvent src code inst status detail).slv = s.slv := by
  unfold State.logEvent; dsimp only; split
  · rfl
  · exact State.stage_slv _ _
@[simp] theorem State.logEvent_hlm (s : State) (src code inst status detail : Nat) : (s.logEvent src code inst status detail).hlm = s.hlm := by
  unfold State.logEvent; dsimp only; split
  · rfl
  · exact State.stage_hlm _ _
@[simp] theorem State.logEvent_lpe (s : State) (src code inst status detail : Nat) : (s.logEvent src code inst status detail).lpe = s.lpe := by
  unfold State.logEvent; dsimp only; split
  · rfl
  · exact State.stage_lpe _ _
@[simp] theorem State.logEvent_zfb (s : State) (src code inst status detail : Nat) : (s.logEvent src code inst status detail).zfb = s.zfb := by
  unfold State.logEvent; dsimp only; split
  · rfl
  · exact State.stage_zfb _ _
@[simp] theorem State.logEvent_crt (s : State) (src code inst status detail : Nat) : (s.logEvent src code inst status detail).crt = s.crt := by
  unfold State.logEvent; dsimp only; split
  · rfl
  · exact State.stage_crt _ _
@[simp] theorem State.logEvent_fio (s : State) (src code inst status detail : Nat) : (s.logEvent src code inst status detail).fio = s.fio := by
  unfold State.logEvent; dsimp only; split
  · rfl
  · exact State.stage_fio _ _
@[simp] theorem State.logEvent_can (s : State) (src code inst status detail : Nat) : (s.logEvent src code inst status detail).can = s.can := by
  unfold State.logEvent; dsimp only; split
  · rfl
  · exact State.stage_can _ _
@[simp] theorem State.logEvent_saf (s : State) (src code inst status detail : Nat) : (s.logEvent src code inst status detail).saf = s.saf := by
  unfold State.logEvent; dsimp only; split
  · rfl
  · exact State.stage_saf _ _
@[simp] theorem State.logEvent_pending (s : State) (src code inst status detail : Nat) : (s.logEvent src code inst status detail).pending = s.pending := by
  unfold State.logEvent; dsimp only; split
  · rfl
  · exact State.stage_pending _ _

@[simp] theorem State.errLog_wide (s : State) (f : Fld) (inst : Nat) : (s.errLog f inst).wide = s.wide := by
  exact State.logEvent_wide _ _ _ _ _ _
@[simp] theorem State.errLog_mem (s : State) (f : Fld) (inst : Nat) : (s.errLog f inst).mem = s.mem := by
  exact State.logEvent_mem _ _ _ _ _ _
@[simp] theorem State.errLog_chk (s : State) (f : Fld) (inst : Nat) : (s.errLog f inst).chk = s.chk := by
  exact State.logEvent_chk _ _ _ _ _ _
@[simp] theorem State.errLog_ticks (s : State) (f : Fld) (inst : Nat) : (s.errLog f inst).ticks = s.ticks := by
  exact State.logEvent_ticks _ _ _ _ _ _
@[simp] theorem State.errLog_free (s : State) (f : Fld) (inst : Nat) : (s.errLog f inst).free = s.free := by
  exact State.logEvent_free _ _ _ _ _ _
@[simp] theorem State.errLog_reads (s : State) (f : Fld) (inst : Nat) : (s.errLog f inst).reads = s.reads := by
  exact State.logEvent_reads _ _ _ _ _ _
@[simp] theorem State.errLog_pwr (s : State) (f : Fld) (inst : Nat) : (s.errLog f inst).pwr = s.pwr := by
  exact State.logEvent_pwr _ _ _ _ _ _
@[simp] theorem State.errLog_start (s : State) (f : Fld) (inst : Nat) : (s.errLog f inst).start = s.start := by
  exact State.logEvent_start _ _ _ _ _ _
@[simp] theorem State.errLog_pmc (s : State) (f : Fld) (inst : Nat) : (s.errLog f inst).pmc = s.pmc := by
  exact State.logEvent_pmc _ _ _ _ _ _
@[simp] theorem State.errLog_ptu (s : State) (f : Fld) (inst : Nat) : (s.errLog f inst).ptu = s.ptu := by
  exact State.logEvent_ptu _ _ _ _ _ _
@[simp] theorem State.errLog_prd (s : State) (f : Fld) (inst : Nat) : (s.errLog f inst).prd = s.prd := by
  exact State.logEvent_prd _ _ _ _ _ _
@[simp] theorem State.errLog_mir (s : State) (f : Fld) (inst : Nat) : (s.errLog f inst).mir = s.mir := by
  exact State.logEvent_mir _ _ _ _ _ _
@[simp] theorem State.errLog_mbx (s : State) (f : Fld) (inst : Nat) : (s.errLog f inst).mbx = s.mbx := by
  exact State.logEvent_mbx _ _ _ _ _ _
@[simp] theorem State.errLog_cfg (s : State) (f : Fld) (inst : Nat) : (s.errLog f inst).cfg = s.cfg := by
  exact State.logEvent_cfg _ _ _ _ _ _
@[simp] theorem State.errLog_cfe (s : State) (f : Fld) (inst : Nat) : (s.errLog f inst).cfe = s.cfe := by
  exact State.logEvent_cfe _ _ _ _ _ _
@[simp] theorem State.errLog_sch (s : State) (f : Fld) (inst : Nat) : (s.errLog f inst).sch = s.sch := by
  exact State.logEvent_sch _ _ _ _ _ _
@[simp] theorem State.errLog_cse (s : State) (f : Fld) (inst : Nat) : (s.errLog f inst).cse = s.cse := by
  exact State.logEvent_cse _ _ _ _ _ _
@[simp] theorem State.errLog_gnb (s : State) (f : Fld) (inst : Nat) : (s.errLog f inst).gnb = s.gnb := by
  exact State.logEvent_gnb _ _ _ _ _ _
@[simp] theorem State.errLog_fus (s : State) (f : Fld) (inst : Nat) : (s.errLog f inst).fus = s.fus := by
  exact State.logEvent_fus _ _ _ _ _ _
@[simp] theorem State.errLog_slv (s : State) (f : Fld) (inst : Nat) : (s.errLog f inst).slv = s.slv := by
  exact State.logEvent_slv _ _ _ _ _ _
@[simp] theorem State.errLog_hlm (s : State) (f : Fld) (inst : Nat) : (s.errLog f inst).hlm = s.hlm := by
  exact State.logEvent_hlm _ _ _ _ _ _
@[simp] theorem State.errLog_lpe (s : State) (f : Fld) (inst : Nat) : (s.errLog f inst).lpe = s.lpe := by
  exact State.logEvent_lpe _ _ _ _ _ _
@[simp] theorem State.errLog_zfb (s : State) (f : Fld) (inst : Nat) : (s.errLog f inst).zfb = s.zfb := by
  exact State.logEvent_zfb _ _ _ _ _ _
@[simp] theorem State.errLog_crt (s : State) (f : Fld) (inst : Nat) : (s.errLog f inst).crt = s.crt := by
  exact State.logEvent_crt _ _ _ _ _ _
@[simp] theorem State.errLog_fio (s : State) (f : Fld) (inst : Nat) : (s.errLog f inst).fio = s.fio := by
  exact State.logEvent_fio _ _ _ _ _ _
@[simp] theorem State.errLog_can (s : State) (f : Fld) (inst : Nat) : (s.errLog f inst).can = s.can := by
  exact State.logEvent_can _ _ _ _ _ _
@[simp] theorem State.errLog_saf (s : State) (f : Fld) (inst : Nat) : (s.errLog f inst).saf = s.saf := by
  exact State.logEvent_saf _ _ _ _ _ _
@[simp] theorem State.errLog_pending (s : State) (f : Fld) (inst : Nat) : (s.errLog f inst).pending = s.pending := by
  exact State.logEvent_pending _ _ _ _ _ _

@[simp] theorem State.stateLog_wide (s : State) (src idx inst old new data : Nat) : (s.stateLog src idx inst old new data).wide = s.wide := by
  exact State.logEvent_wide _ _ _ _ _ _
@[simp] theorem State.stateLog_mem (s : State) (src idx inst old new data : Nat) : (s.stateLog src idx inst old new data).mem = s.mem := by
  exact State.logEvent_mem _ _ _ _ _ _
@[simp] theorem State.stateLog_chk (s : State) (src idx inst old new data : Nat) : (s.stateLog src idx inst old new data).chk = s.chk := by
  exact State.logEvent_chk _ _ _ _ _ _
@[simp] theorem State.stateLog_ticks (s : State) (src idx inst old new data : Nat) : (s.stateLog src idx inst old new data).ticks = s.ticks := by
  exact State.logEvent_ticks _ _ _ _ _ _
@[simp] theorem State.stateLog_free (s : State) (src idx inst old new data : Nat) : (s.stateLog src idx inst old new data).free = s.free := by
  exact State.logEvent_free _ _ _ _ _ _
@[simp] theorem State.stateLog_reads (s : State) (src idx inst old new data : Nat) : (s.stateLog src idx inst old new data).reads = s.reads := by
  exact State.logEvent_reads _ _ _ _ _ _
@[simp] theorem State.stateLog_pwr (s : State) (src idx inst old new data : Nat) : (s.stateLog src idx inst old new data).pwr = s.pwr := by
  exact State.logEvent_pwr _ _ _ _ _ _
@[simp] theorem State.stateLog_start (s : State) (src idx inst old new data : Nat) : (s.stateLog src idx inst old new data).start = s.start := by
  exact State.logEvent_start _ _ _ _ _ _
@[simp] theorem State.stateLog_pmc (s : State) (src idx inst old new data : Nat) : (s.stateLog src idx inst old new data).pmc = s.pmc := by
  exact State.logEvent_pmc _ _ _ _ _ _
@[simp] theorem State.stateLog_ptu (s : State) (src idx inst old new data : Nat) : (s.stateLog src idx inst old new data).ptu = s.ptu := by
  exact State.logEvent_ptu _ _ _ _ _ _
@[simp] theorem State.stateLog_prd (s : State) (src idx inst old new data : Nat) : (s.stateLog src idx inst old new data).prd = s.prd := by
  exact State.logEvent_prd _ _ _ _ _ _
@[simp] theorem State.stateLog_mir (s : State) (src idx inst old new data : Nat) : (s.stateLog src idx inst old new data).mir = s.mir := by
  exact State.logEvent_mir _ _ _ _ _ _
@[simp] theorem State.stateLog_mbx (s : State) (src idx inst old new data : Nat) : (s.stateLog src idx inst old new data).mbx = s.mbx := by
  exact State.logEvent_mbx _ _ _ _ _ _
@[simp] theorem State.stateLog_cfg (s : State) (src idx inst old new data : Nat) : (s.stateLog src idx inst old new data).cfg = s.cfg := by
  exact State.logEvent_cfg _ _ _ _ _ _
@[simp] theorem State.stateLog_cfe (s : State) (src idx inst old new data : Nat) : (s.stateLog src idx inst old new data).cfe = s.cfe := by
  exact State.logEvent_cfe _ _ _ _ _ _
@[simp] theorem State.stateLog_sch (s : State) (src idx inst old new data : Nat) : (s.stateLog src idx inst old new data).sch = s.sch := by
  exact State.logEvent_sch _ _ _ _ _ _
@[simp] theorem State.stateLog_cse (s : State) (src idx inst old new data : Nat) : (s.stateLog src idx inst old new data).cse = s.cse := by
  exact State.logEvent_cse _ _ _ _ _ _
@[simp] theorem State.stateLog_gnb (s : State) (src idx inst old new data : Nat) : (s.stateLog src idx inst old new data).gnb = s.gnb := by
  exact State.logEvent_gnb _ _ _ _ _ _
@[simp] theorem State.stateLog_fus (s : State) (src idx inst old new data : Nat) : (s.stateLog src idx inst old new data).fus = s.fus := by
  exact State.logEvent_fus _ _ _ _ _ _
@[simp] theorem State.stateLog_slv (s : State) (src idx inst old new data : Nat) : (s.stateLog src idx inst old new data).slv = s.slv := by
  exact State.logEvent_slv _ _ _ _ _ _
@[simp] theorem State.stateLog_hlm (s : State) (src idx inst old new data : Nat) : (s.stateLog src idx inst old new data).hlm = s.hlm := by
  exact State.logEvent_hlm _ _ _ _ _ _
@[simp] theorem State.stateLog_lpe (s : State) (src idx inst old new data : Nat) : (s.stateLog src idx inst old new data).lpe = s.lpe := by
  exact State.logEvent_lpe _ _ _ _ _ _
@[simp] theorem State.stateLog_zfb (s : State) (src idx inst old new data : Nat) : (s.stateLog src idx inst old new data).zfb = s.zfb := by
  exact State.logEvent_zfb _ _ _ _ _ _
@[simp] theorem State.stateLog_crt (s : State) (src idx inst old new data : Nat) : (s.stateLog src idx inst old new data).crt = s.crt := by
  exact State.logEvent_crt _ _ _ _ _ _
@[simp] theorem State.stateLog_fio (s : State) (src idx inst old new data : Nat) : (s.stateLog src idx inst old new data).fio = s.fio := by
  exact State.logEvent_fio _ _ _ _ _ _
@[simp] theorem State.stateLog_can (s : State) (src idx inst old new data : Nat) : (s.stateLog src idx inst old new data).can = s.can := by
  exact State.logEvent_can _ _ _ _ _ _
@[simp] theorem State.stateLog_saf (s : State) (src idx inst old new data : Nat) : (s.stateLog src idx inst old new data).saf = s.saf := by
  exact State.logEvent_saf _ _ _ _ _ _
@[simp] theorem State.stateLog_pending (s : State) (src idx inst old new data : Nat) : (s.stateLog src idx inst old new data).pending = s.pending := by
  exact State.logEvent_pending _ _ _ _ _ _

@[simp] theorem State.wrState_wide (s : State) (f : Fld) (idx inst new : Nat) : (s.wrState f idx inst new).wide = s.wide := by
  unfold State.wrState; dsimp only; split
  · rfl
  · exact State.stateLog_wide _ _ _ _ _ _ _
@[simp] theorem State.wrState_mem (s : State) (f : Fld) (idx inst new : Nat) : (s.wrState f idx inst new).mem = s.mem := by
  unfold State.wrState; dsimp only; split
  · rfl
  · exact State.stateLog_mem _ _ _ _ _ _ _
@[simp] theorem State.wrState_chk (s : State) (f : Fld) (idx inst new : Nat) : (s.wrState f idx inst new).chk = s.chk := by
  unfold State.wrState; dsimp only; split
  · rfl
  · exact State.stateLog_chk _ _ _ _ _ _ _
@[simp] theorem State.wrState_ticks (s : State) (f : Fld) (idx inst new : Nat) : (s.wrState f idx inst new).ticks = s.ticks := by
  unfold State.wrState; dsimp only; split
  · rfl
  · exact State.stateLog_ticks _ _ _ _ _ _ _
@[simp] theorem State.wrState_free (s : State) (f : Fld) (idx inst new : Nat) : (s.wrState f idx inst new).free = s.free := by
  unfold State.wrState; dsimp only; split
  · rfl
  · exact State.stateLog_free _ _ _ _ _ _ _
@[simp] theorem State.wrState_reads (s : State) (f : Fld) (idx inst new : Nat) : (s.wrState f idx inst new).reads = s.reads := by
  unfold State.wrState; dsimp only; split
  · rfl
  · exact State.stateLog_reads _ _ _ _ _ _ _
@[simp] theorem State.wrState_pwr (s : State) (f : Fld) (idx inst new : Nat) : (s.wrState f idx inst new).pwr = s.pwr := by
  unfold State.wrState; dsimp only; split
  · rfl
  · exact State.stateLog_pwr _ _ _ _ _ _ _
@[simp] theorem State.wrState_start (s : State) (f : Fld) (idx inst new : Nat) : (s.wrState f idx inst new).start = s.start := by
  unfold State.wrState; dsimp only; split
  · rfl
  · exact State.stateLog_start _ _ _ _ _ _ _
@[simp] theorem State.wrState_pmc (s : State) (f : Fld) (idx inst new : Nat) : (s.wrState f idx inst new).pmc = s.pmc := by
  unfold State.wrState; dsimp only; split
  · rfl
  · exact State.stateLog_pmc _ _ _ _ _ _ _
@[simp] theorem State.wrState_ptu (s : State) (f : Fld) (idx inst new : Nat) : (s.wrState f idx inst new).ptu = s.ptu := by
  unfold State.wrState; dsimp only; split
  · rfl
  · exact State.stateLog_ptu _ _ _ _ _ _ _
@[simp] theorem State.wrState_prd (s : State) (f : Fld) (idx inst new : Nat) : (s.wrState f idx inst new).prd = s.prd := by
  unfold State.wrState; dsimp only; split
  · rfl
  · exact State.stateLog_prd _ _ _ _ _ _ _
@[simp] theorem State.wrState_mir (s : State) (f : Fld) (idx inst new : Nat) : (s.wrState f idx inst new).mir = s.mir := by
  unfold State.wrState; dsimp only; split
  · rfl
  · exact State.stateLog_mir _ _ _ _ _ _ _
@[simp] theorem State.wrState_mbx (s : State) (f : Fld) (idx inst new : Nat) : (s.wrState f idx inst new).mbx = s.mbx := by
  unfold State.wrState; dsimp only; split
  · rfl
  · exact State.stateLog_mbx _ _ _ _ _ _ _
@[simp] theorem State.wrState_cfg (s : State) (f : Fld) (idx inst new : Nat) : (s.wrState f idx inst new).cfg = s.cfg := by
  unfold State.wrState; dsimp only; split
  · rfl
  · exact State.stateLog_cfg _ _ _ _ _ _ _
@[simp] theorem State.wrState_cfe (s : State) (f : Fld) (idx inst new : Nat) : (s.wrState f idx inst new).cfe = s.cfe := by
  unfold State.wrState; dsimp only; split
  · rfl
  · exact State.stateLog_cfe _ _ _ _ _ _ _
@[simp] theorem State.wrState_sch (s : State) (f : Fld) (idx inst new : Nat) : (s.wrState f idx inst new).sch = s.sch := by
  unfold State.wrState; dsimp only; split
  · rfl
  · exact State.stateLog_sch _ _ _ _ _ _ _
@[simp] theorem State.wrState_cse (s : State) (f : Fld) (idx inst new : Nat) : (s.wrState f idx inst new).cse = s.cse := by
  unfold State.wrState; dsimp only; split
  · rfl
  · exact State.stateLog_cse _ _ _ _ _ _ _
@[simp] theorem State.wrState_gnb (s : State) (f : Fld) (idx inst new : Nat) : (s.wrState f idx inst new).gnb = s.gnb := by
  unfold State.wrState; dsimp only; split
  · rfl
  · exact State.stateLog_gnb _ _ _ _ _ _ _
@[simp] theorem State.wrState_fus (s : State) (f : Fld) (idx inst new : Nat) : (s.wrState f idx inst new).fus = s.fus := by
  unfold State.wrState; dsimp only; split
  · rfl
  · exact State.stateLog_fus _ _ _ _ _ _ _
@[simp] theorem State.wrState_slv (s : State) (f : Fld) (idx inst new : Nat) : (s.wrState f idx inst new).slv = s.slv := by
  unfold State.wrState; dsimp only; split
  · rfl
  · exact State.stateLog_slv _ _ _ _ _ _ _
@[simp] theorem State.wrState_hlm (s : State) (f : Fld) (idx inst new : Nat) : (s.wrState f idx inst new).hlm = s.hlm := by
  unfold State.wrState; dsimp only; split
  · rfl
  · exact State.stateLog_hlm _ _ _ _ _ _ _
@[simp] theorem State.wrState_lpe (s : State) (f : Fld) (idx inst new : Nat) : (s.wrState f idx inst new).lpe = s.lpe := by
  unfold State.wrState; dsimp only; split
  · rfl
  · exact State.stateLog_lpe _ _ _ _ _ _ _
@[simp] theorem State.wrState_zfb (s : State) (f : Fld) (idx inst new : Nat) : (s.wrState f idx inst new).zfb = s.zfb := by
  unfold State.wrState; dsimp only; split
  · rfl
  · exact State.stateLog_zfb _ _ _ _ _ _ _
@[simp] theorem State.wrState_crt (s : State) (f : Fld) (idx inst new : Nat) : (s.wrState f idx inst new).crt = s.crt := by
  unfold State.wrState; dsimp only; split
  · rfl
  · exact State.stateLog_crt _ _ _ _ _ _ _
@[simp] theorem State.wrState_fio (s : State) (f : Fld) (idx inst new : Nat) : (s.wrState f idx inst new).fio = s.fio := by
  unfold State.wrState; dsimp only; split
  · rfl
  · exact State.stateLog_fio _ _ _ _ _ _ _
@[simp] theorem State.wrState_can (s : State) (f : Fld) (idx inst new : Nat) : (s.wrState f idx inst new).can = s.can := by
  unfold State.wrState; dsimp only; split
  · rfl
  · exact State.stateLog_can _ _ _ _ _ _ _
@[simp] theorem State.wrState_saf (s : State) (f : Fld) (idx inst new : Nat) : (s.wrState f idx inst new).saf = s.saf := by
  unfold State.wrState; dsimp only; split
  · rfl
  · exact State.stateLog_saf _ _ _ _ _ _ _
@[simp] theorem State.wrState_pending (s : State) (f : Fld) (idx inst new : Nat) : (s.wrState f idx inst new).pending = s.pending := by
  unfold State.wrState; dsimp only; split
  · rfl
  · exact State.stateLog_pending _ _ _ _ _ _ _

end Sys2Proof.Machine
end

