-- ==== Sys2Proof/Machine/Pins.lean ====
section
/-!
DEFINITION. Machine/Pins.lean: what the state shows at the module's output pins (R459, and the rules it refers to). A pin
that carries a bit stream shows here only whether it is idle.
-/
namespace Sys2Proof.Machine

/-- The output pins of J1 that hold a level (R459). -/
inductive OutPin where
  | ppsOut | wake | forceLed | canTx (n : Fin 4) | phyRstN | hbIrqN | dOut (n : Fin 16) | soP (q : Fin 2) | soM (q : Fin 2)
  deriving DecidableEq, Repr

/-- What a pin shows: a level, nothing driven (an open drain released, a switch off), 1 Hz, or a frame. -/
inductive PinShow where
  | low | high | off | flash | stream
  deriving DecidableEq, Repr

/-- What each output pin shows: low, recessive, released or off while the module is held in reset, but for the pins of the
front end and of the field side, which have supplies of their own (R459). -/
def State.pin (s : State) : OutPin → PinShow
  | .ppsOut => if s.live && s.ppsHigh then .high else .low
  | .wake => if s.cfe.fe.wake then .high else .off
  | .forceLed =>
    if s.live then (match s.forceLed with | .dark => .low | .steady => .high | .flash => .flash) else .low
  | .canTx n => if s.live && s.permit && (s.canCtl n).arb ≠ [] then .stream else .high
  | .phyRstN => if s.phyRst then .high else .low
  | .hbIrqN => if s.live && s.hbIrqLow then .low else .off
  | .dOut n => if s.fio.field.act.testBit n then .high else .off
  | .soP q => if s.safCmd 0 q then .high else .off
  | .soM q => if s.safCmd 1 q then .low else .off

end Sys2Proof.Machine
end

