-- ==== Sys2Proof/WellFormed.lean ====
section
/-!
DEFINITION. WellFormed.lean: which operands a command can carry. The types of Syntax.lean bound most of them; the checks
here bound the rest: words of 32 and 4 bytes, fields within their widths, lists of the lengths that the links and the
samples give.
-/
namespace Sys2Proof

/-- 32 data bytes and 4 check bytes (R408). -/
def WireWord.wf (w : WireWord) : Bool := w.data.length = 32 && w.chk.length = 4

/-- The heartbeat count of a status block (R285). -/
def StatusBlock.wf (b : StatusBlock) : Bool := b.hb < 2 ^ 16

/-- The header fields of R286 within their widths. -/
def MirHeader.wf (h : MirHeader) : Bool :=
  h.ver < 16 && h.kind < 16 && h.blocks < 32 && h.region < 16 && h.offset < 2 ^ 24 && h.ci < 2 ^ 32 && h.dseq < 2 ^ 16 &&
  h.count < 2 ^ 32

/-- At most 16 payload words on the mirror lane (R271). -/
def MirFrame.wf (f : MirFrame) : Bool := f.hdr.wf && f.words.all WireWord.wf && f.words.length ≤ 16

/-- At most 64 payload words on the Domino lane (R271). -/
def DominoMsg.wf : DominoMsg → Bool
  | .frame port f => port < 4 && f.words.all WireWord.wf && f.words.length ≤ 64
  | .flip (some o) => o.f < 2 ^ 64 && o.crc < 2 ^ 32
  | .flip none | .rollStart => true
  | .ident a b => a < 2 ^ 32 && b < 2 ^ 32
  | .columns words | .time words => words.all WireWord.wf && words.length ≤ 64

/-- R104: challenges of 16 bytes, answers of 32. -/
def ReplMsg.wf : ReplMsg → Bool
  | .challenge ch _ _ _ => ch.length = 16
  | .answer _ reply => reply.length = 32
  | .verdict _ => true

/-- R41. -/
def CfeDown.wf (f : CfeDown) : Bool :=
  f.sync < 256 && f.cnt < 2 ^ 16 && f.bal < 2 ^ 48 && f.op < 256 && f.addr < 256 && f.data < 2 ^ 32 && f.rsv < 256 && f.crc < 256

/-- R42: the states of R49, one flag a channel. -/
def CfeStat.wf (f : CfeStat) : Bool :=
  f.state ≤ 4 && f.ov < 2 ^ 48 && f.uv < 2 ^ 48 && f.ot < 2 ^ 16 && f.act < 2 ^ 48

/-- R42. -/
def CfeUp.wf (f : CfeUp) : Bool :=
  f.sync < 256 && f.seq < 256 && f.echo < 2 ^ 16 && f.word < 2 ^ 32 && f.stat.wf && f.auxIdx < 16 && f.aux < 2 ^ 16 && f.rsv < 16 &&
  f.mod.length = 49 && f.mod.all (· < 2 ^ 64) && f.crc < 256

/-- R359. -/
def FioDown.wf (f : FioDown) : Bool := f.seq < 256 && f.out < 2 ^ 16 && f.opcode < 256 && f.addr < 256 && f.data < 2 ^ 32

/-- R360: offsets and counts of 16 inputs. -/
def FioUp.wf (f : FioUp) : Bool :=
  f.seqEcho < 256 && f.inp < 2 ^ 16 && f.rb < 2 ^ 16 && f.ofs.length = 16 && f.nchg.length = 16

/-- R383: up to four telegrams of 16 bytes. -/
def SafDown.wf (f : SafDown) : Bool :=
  f.seq < 2 ^ 16 && f.req < 4 && f.reset < 4 && f.nTel < 8 && f.tels.length = 4 && f.tels.all fun t => t.length = 16

/-- R367: identifiers of 11 or 29 bits, at most 64 data bytes. -/
def CanFrame.wf (f : CanFrame) : Bool :=
  f.id < (if f.ide then 2 ^ 29 else 2 ^ 11) && f.dlc < 16 && f.data.length ≤ 64

/-- The operands of a command are ones that its sender can give. -/
def Instr.wf : Instr → Bool
  | .startSequence _ bad => bad.all (fun e => e.1 < 0x80000 || (0x800000 ≤ e.1 && e.1 < 0x1000000)) && decide (bad.map (·.1)).Nodup
  | .statusBlockReceive _ b => b.wf
  | .deltaFrame f => f.wf
  | .cmdpageFrame f => f.wf
  | .bulkFrame f => f.wf
  | .commitFrame f _ => f.wf
  | .loadFrame f => f.wf
  | .loadConfirmFrame f => f.wf
  | .identFrame _ f => f.wf
  | .syncReqFrame f => f.wf
  | .delayResp _ _ _ _ _ _ _ depth => depth < 256
  | .frameReceive _ hdr words _ => hdr.wf && words.all WireWord.wf && words.length ≤ 64
  | .cfeCommandFrame f => f.wf
  | .cfeSyncFrame f => f.wf
  | .cfeUplinkReceive f _ => f.wf
  | .cfeUplinkSend _ mod => mod.length = 49
  | .snowdropCheck cells codes => cells.length = 48 && codes.length = 16 && codes.all (· < 65536)
  | .replacementChallenge m => m.wf
  | .correlatorMs samples _ => 1 ≤ samples.length && samples.length ≤ 16368
  | .measurementLatch cn0 => decide (cn0.map Prod.fst).Nodup
  | .timeSolution _ sats => decide (sats.map (·.ch)).Nodup
  | .slvRequestRelease num => num < 65536
  | .slvDeadline num _ _ => num < 65536
  | .fioCommandFrame d _ => d.wf
  | .fioSyncFrame d _ => d.wf
  | .fioUplinkReceive f => f.wf
  | .canBitTimingWrite _ off v _ => (off = 0xC || off = 0x10 || off = 0x14) && v < 2 ^ 32
  | .canFrameReceive _ f => f.wf
  | .safLaneFrame _ f => f.wf
  | .laneSample _ _ pins => pins.p.length = 2 && pins.m.length = 2
  | .testPulseEnd _ mv => mv < 65536
  | .memoryStore _ data => 1 ≤ data.length && data.length ≤ 64
  | .memoryRead _ _ len _ => 1 ≤ len.val
  | .ethernetDatagram _ _ b => b.length ≤ 65535
  | .internalCommand _ c => c.length ≤ 1024
  | .learnedRecordCommit slot => slot < 0x100000
  | .dominoLaneFrame m => m.wf
  | .registerWrite _ _ _ | .readClear _ _ | .wideRegLowRead _ _ | .wideRegHighRead _ _ | .wideRegLowerWrite _ _ _
  | .wideRegCommitWrite _ _ _ | .powerOnReset | .resetPin _ | .brownOut _ _ _ | .railOutOfWindow _
  | .railsQualified _ | .junctionHot _ | .tempCheckFail _ | .junctionCool _ | .refclkWaitTimeout | .laneTrainTimeout
  | .startWatchdogExpiry | .restartAfterRelease | .tokenCountChange _ | .tokenAssert | .dominoTake | .tokenConfirm _
  | .tokenConfirmTimeout | .tokenLineFault | .vetoDetect | .prdRelease | .watchdogKick _ | .watchdogExpiry
  | .prdWdtWrite _ | .heartbeatTick | .heartbeatLoss | .statusBlockSend _ | .laneTrained _ | .laneDown _
  | .prdCommit _ | .bulkSend | .prdSyncReq | .gnssPartnerFrame _ _ _ | .ns32Wrap | .refclkLoss | .refclkReturn
  | .syncExchangeStart _ | .delayReq _ _ _ | .exchangeMissing | .ptuOffsetIn _ _ | .ppsInEdge _ _ | .holdoverEntry
  | .stepNotice _ _ | .stepApply | .secondBoundary | .rebase | .tsqPop _ | .portBlockLock _ | .portLinkLoss _
  | .guardTrip _ _ _ _ | .guardHoldExpiry _ | .frameTransmitStart _ | .txRingSubmit _ | .rxRingHead _ | .zfbRollStart
  | .rollProbe | .probeTimeout | .rollPresent | .authChal | .authAnswer | .authDeny | .rollAssign | .rollTable
  | .rollAck | .portOpen | .rollDone | .rollActivation | .eventLinkUp | .eventLinkDown | .eventGuardTrip
  | .eventNewNode | .reversalNotice | .sweepFrameSend | .sweepFrameReceive | .recallIssue _ | .recallRepeat _
  | .recallReceive | .commandFrameReceive | .powerSetpoint | .signalWrite | .wakeItem | .commandItemEffect
  | .cfeDownlinkSend | .cfeSilence | .cfeLinkLost | .hvWrite _ _ | .hvResend | .stackRise
  | .stackFall | .snowdropAuto | .cfeEnable _ | .snowEnter | .hibEnter | .shuntWake | .cellComparatorChange _ _ _
  | .otFlagChange _ _ | .balReqWrite _ | .balLeaseExpiry | .balPhaseChange | .switchOvercurrent _ | .dieHotChange _
  | .measPauseOpen _ | .measPauseClose | .schRun _ | .schRespSelWrite _ | .sweepPublish | .cseRun _ | .cseUpdate
  | .hibernateEntry | .engineWake | .cseWakeNow | .gnbRun _ | .gnssClkLoss | .gnssClkReturn | .inputOverflow
  | .gnbChannelEnable _ _ | .searchComplete _ _ _ _ | .pullInLock _ | .pullInTimeout _ | .bitSync _ | .frameSync _ _
  | .cycleSlip _ | .signalLoss _ | .navParityLoss _ | .navWord _ _ _ | .firmwareErrorDeadline _
  | .measurementPublish | .fusRun _ | .fusSampleCommit | .fusInPush _ _ | .fusRefEnable _ _
  | .fusUpdate | .fusPublish | .slvRingSubmit _ | .slvLoad | .slvSolve | .slvClear | .slvSetupComplete _
  | .slvIterationComplete _ _ | .hlmRun _ | .hlmLawStart _ | .hlmQpResult | .hlmCommandPublish
  | .hlmModeSet _ | .hlmRestore | .loopEnWrite _ _ | .loopSample | .loopPublish _ | .loopOpen _ | .loopClose _
  | .loopCommit _ | .loopClear _ | .taskRelease _ | .inputCopy _ | .instanceComplete _ _ _ | .outputInstant _
  | .eventRelease _ | .latchedEventRelease _ | .crtRunWrite _ | .crtResetWrite | .crtStnAckWrite _
  | .stationInputSend _ _ | .stationInputFrame | .stationOutputFrame | .stationApply | .fioEnable _
  | .fioDownlinkSend | .fioUplinkSend | .fioSilence | .fioLinkLost | .fieldHeldWrite _ _ | .fieldHeldResend
  | .fieldSupplyLow | .fieldSupplyGood | .fieldPor | .fieldSupplyRise | .inputDebounceChange _ _ | .outputOverload _
  | .outputOverTemp _ | .outputRetry _ _ | .openWire _ _ | .discrepancy _ _ | .canIntegrationDone _
  | .canSlotOccurrence _ _ | .canWindowEnd _ _ _ | .canArbitrationLost _ _ | .canFrameComplete _ _ _
  | .canBusError _ _ _ _ | .canTxreq _ _ | .canRecover _ | .canRecoveryDone _ | .canTxClr _ | .safDownlinkSend
  | .safUplinkReceive _ _ | .safRefreshSilence _ | .safLaneSilent _ | .laneCycle _ | .inputPairDiscrepancy _ _
  | .functionSourceDiscrepancy _ _ | .telegramArrival _ | .telegramTimeout _ _ | .voteSend _ | .testPulseStart _
  | .testPulseOverdue _ _ | .safReset _ | .safReqWrite _ | .busErrorAccess _ _ | .scrubRead _ _ | .flashScrub | .doorbell _ | .mbxAck _
  | .hostBufferWrite _ _ | .mbxPathWrite _ | .mailboxFrameReceive | .longCommandComplete | .identify | .statusCommand
  | .restartCommand | .faultLogRead | .regRead | .regWrite | .memRead | .memWrite | .shadowWrite | .shadowCheck
  | .flip | .flipInstant | .setRead | .fwWrite | .fwVerify | .fwSelect | .bulbClear | .keyProvision | .keyErase
  | .hlmSetpoint | .hlmJoystick | .hlmMode | .cseRestore | .cseService | .cseWake | .cseCommit | .fusPush
  | .rollStart | .routeRead | .taskControlRun | .taskControlStop | .taskControlReset | .taskRun | .taskStop
  | .taskHold | .taskStep | .taskResume | .stnAck | .taskTrigger | .forceSet | .forceClear | .canBusoffReturn
  | .pmcCounterWrap _ _ | .pmcCntWrite _ _ | .pmcFreeze | .periodicSnapshot _ | .faultLogMergeExpiry
  | .faultLogFlashWrite | .rollCallRestart | .slvSolveComplete _ | .mirrorLaneTransmit _
  | .hostEthernetFrame _ _ => true

end Sys2Proof
end

