-- ==== Sys2Proof/Tests/Slice0.lean ====
section
/-!
SUPPORT. Tests/Slice0.lean: ill-formed commands refused, values that the spec prints, single steps, and for every statement
with hypotheses a state and operands that meet them.
-/
section Slice0Tests
open Sys2Proof Sys2Proof.Machine
set_option Elab.async false

/-! ### WellFormed: a term for each check, which it refuses -/

def shortWord : WireWord := { data := [], chk := [] }
def zeroPip : WireWord := { data := List.replicate 32 0, chk := List.replicate 4 0 }
def okHdr : MirHeader := { ver := 1, kind := 0, blocks := 0, region := 0, offset := 0, ci := 0, dseq := 0, count := 0 }
def okDown : CfeDown := { sync := 0xA5, cnt := 0, bal := 0, op := 0, addr := 0, data := 0, rsv := 0, crc := 0 }
def okStat : CfeStat :=
  { state := 0, ov := 0, uv := 0, ot := 0, act := 0, dieHot := false, wake := false, rejects := 0, syncRej := false, adjRej := false,
    por := false, wakeSrc := 0, firstCh := none, rd := none }
def okUp : CfeUp :=
  { sync := 0xC3, seq := 0, echo := 0, word := 0, stat := okStat, auxIdx := 0, aux := 0, rsv := 0, mod := List.replicate 49 0, crc := 0 }
def okField : FioDown := { sync := false, seq := 0, out := 0, opcode := 0, addr := 0, data := 0, crc := 0 }
def okFieldUp : FioUp :=
  { seqEcho := 0, inp := 0, rb := 0, act := 0, ovl := 0, openW := 0, ot := 0, disc := 0, state := 0, fsOk := true, por := false, discN := 0,
    syncIn := false, rd := 0, chg := 0, ofs := List.replicate 16 0, nchg := List.replicate 16 0, crc := 0 }
def okLane : SafDown :=
  { seq := 0, req := 0, permit := false, reset := 0, take := false, nTel := 0, tels := List.replicate 4 (List.replicate 16 0), crc := 0 }
def okCan : CanFrame := { id := 0, ide := false, fdf := true, brs := false, esi := false, rtr := false, dlc := 0, data := [], sof := 0 }
def okBlock : StatusBlock := { take := false, hold := false, alive := true, third := true, pos := false, half := false, role := .standby, hb := 0 }

theorem test_wf_start : (Instr.startSequence 0 [(0x80000, none)]).wf = false ∧ (Instr.startSequence 0 [(1, none), (1, none)]).wf = false ∧
    (Instr.startSequence 0 [(1, none)]).wf = true := by decide
theorem test_wf_status_block : (Instr.statusBlockReceive .ml { okBlock with hb := 2 ^ 16 }).wf = false ∧
    (Instr.statusBlockReceive .ml okBlock).wf = true := by decide
theorem test_wf_mirror_header : (Instr.deltaFrame { hdr := { okHdr with ver := 16 }, words := [] }).wf = false ∧
    (Instr.cmdpageFrame { hdr := { okHdr with kind := 16 }, words := [] }).wf = false ∧
    (Instr.bulkFrame { hdr := { okHdr with blocks := 32 }, words := [] }).wf = false ∧
    (Instr.commitFrame { hdr := { okHdr with region := 16 }, words := [] } none).wf = false ∧
    (Instr.loadFrame { hdr := { okHdr with offset := 2 ^ 24 }, words := [] }).wf = false ∧
    (Instr.loadConfirmFrame { hdr := { okHdr with ci := 2 ^ 32 }, words := [] }).wf = false ∧
    (Instr.identFrame .ml { hdr := { okHdr with dseq := 2 ^ 16 }, words := [] }).wf = false ∧
    (Instr.syncReqFrame { hdr := { okHdr with count := 2 ^ 32 }, words := [] }).wf = false := by decide
theorem test_wf_mirror_words : (Instr.deltaFrame { hdr := okHdr, words := [shortWord] }).wf = false ∧
    (Instr.deltaFrame { hdr := okHdr, words := List.replicate 17 zeroPip }).wf = false ∧
    (Instr.deltaFrame { hdr := okHdr, words := List.replicate 16 zeroPip }).wf = true := by decide +kernel
theorem test_wf_domino : (Instr.dominoLaneFrame (.columns (List.replicate 65 zeroPip))).wf = false ∧
    (Instr.dominoLaneFrame (.time [shortWord])).wf = false ∧ (Instr.dominoLaneFrame (.flip (some { f := 2 ^ 64, crc := 0 }))).wf = false ∧
    (Instr.dominoLaneFrame (.ident (2 ^ 32) 0)).wf = false ∧ (Instr.dominoLaneFrame (.ident 0 0)).wf = true := by decide +kernel
theorem test_wf_fabric : (Instr.frameReceive 0 shortWord [] true).wf = false ∧ (Instr.frameReceive 0 zeroPip [shortWord] true).wf = false ∧
    (Instr.frameReceive 0 zeroPip (List.replicate 65 zeroPip) true).wf = false ∧ (Instr.delayResp 0 0 0 0 0 0 true 256).wf = false := by decide +kernel
theorem test_wf_front_end : (Instr.cfeCommandFrame { okDown with bal := 2 ^ 48 }).wf = false ∧ (Instr.cfeSyncFrame { okDown with op := 256 }).wf = false ∧
    (Instr.cfeUplinkReceive { okUp with stat := { okStat with ov := 2 ^ 48 } } 0).wf = false ∧
    (Instr.cfeUplinkReceive { okUp with mod := [] } 0).wf = false ∧ (Instr.cfeUplinkReceive okUp 0).wf = true ∧ (Instr.cfeUplinkSend 0 []).wf = false ∧ (Instr.snowdropCheck (List.replicate 47 0) (List.replicate 16 0)).wf = false ∧
    (Instr.snowdropCheck (List.replicate 48 0) (List.replicate 16 65536)).wf = false ∧
    (Instr.replacementChallenge (.challenge [] 0 0 0)).wf = false ∧ (Instr.replacementChallenge (.answer 0 [])).wf = false ∧ (Instr.learnedRecordCommit 0x100000).wf = false := by decide +kernel
theorem test_wf_engines : (Instr.correlatorMs [] 0).wf = false ∧
    (Instr.measurementLatch [(1, 0), (1, 5)]).wf = false ∧ (Instr.timeSolution 0 [⟨1, 0, 0, 0, 0⟩, ⟨1, 0, 0, 0, 0⟩]).wf = false ∧
    (Instr.slvRequestRelease 65536).wf = false ∧ (Instr.slvDeadline 65536 true 0).wf = false := by decide +kernel
theorem test_wf_field_and_safety : (Instr.fioCommandFrame { okField with out := 2 ^ 16 } 0).wf = false ∧
    (Instr.fioSyncFrame { okField with seq := 256 } 0).wf = false ∧ (Instr.fioUplinkReceive { okFieldUp with ofs := [] }).wf = false ∧
    (Instr.safLaneFrame 0 { okLane with tels := [[]] }).wf = false ∧ (Instr.safLaneFrame 0 { okLane with req := 4 }).wf = false ∧
    (Instr.laneSample 0 0 { p := [], m := [] }).wf = false ∧ (Instr.testPulseEnd 0 65536).wf = false := by decide +kernel
theorem test_wf_can : (Instr.canBitTimingWrite 0 0x18 0 false).wf = false ∧ (Instr.canBitTimingWrite 0 0xC (2 ^ 32) false).wf = false ∧
    (Instr.canFrameReceive 0 { okCan with id := 2 ^ 11 }).wf = false ∧ (Instr.canFrameReceive 0 { okCan with data := List.replicate 65 0 }).wf = false := by
  decide +kernel
theorem test_wf_memory : (Instr.memoryStore 0 []).wf = false ∧ (Instr.memoryStore 0 (List.replicate 65 0)).wf = false ∧
    (Instr.memoryRead .mbox 0 0 true).wf = false := by decide +kernel
theorem test_wf_mailbox (b : List Byte) : (65535 < b.length → (Instr.ethernetDatagram 0 0 b).wf = false) ∧
    (1024 < b.length → (Instr.internalCommand 0 b).wf = false) :=
  ⟨fun h => decide_eq_false (Nat.not_le.mpr h), fun h => decide_eq_false (Nat.not_le.mpr h)⟩

/-! ### Values that the spec prints -/

/-- The check value of the CRC-32 of R306 over the digits 1 to 9. -/
theorem test_crc32_check_value : crc32 (bytesOf 9 0x393837363534333231) = 0xCBF43926 := by decide +kernel

/-- R321: MBX_ID is 0x4848, and MBX_PATH gives MB0 to MB3 the host bus, MB4 and MB5 the fabric, MB6 Ethernet, MB7 internal. -/
theorem test_reset_mailboxes : State.reset.rd MBX_ID_ID = 0x4848 ∧
    (List.range 8).map (fun n => State.reset.rd (MBX_PATH_PATH n)) = [0, 0, 0, 0, 1, 1, 2, 3] := by decide

/-- The register tables: thresholds 4.25 V and 2.50 V, port 47,848. -/
theorem test_reset_registers : State.reset.rd CFE_CELL_LIM_OV_THR = 225 ∧ State.reset.rd CFE_CELL_LIM_UV_THR = 200 ∧
    State.reset.rd MBX_ETH_CFG_PORT = 47848 := by decide

/-! ### Queue and words -/

theorem test_queue_first_in_first_out : step (State.reset.setPending [.ppsInEdge false 0, .ns32Wrap]) = exec (.ppsInEdge false 0) (State.reset.setPending [.ns32Wrap]) := rfl
theorem test_no_row_has_bits : decodeTableWord 32 7 = none ∧ State.reset.withFetchWord 32 7 = State.reset := ⟨rfl, rfl⟩

/-! ### IdleStepIsOneTick -/

theorem witness_IdleStepIsOneTick : ∃ s : State, s.pending = [] ∧ s.rd PMC_CTRL_RUN = 0 := ⟨State.reset, by decide⟩

/-! ### EveryStepKeepsCanonicalForm -/

theorem witness_EveryStepKeepsCanonicalForm : ∃ s t : State, Canonical s ∧ step s = .next t :=
  ⟨State.reset, State.reset.tick, by decide, rfl⟩

/-! ### RoleIsMonitorBeforeStartAndInBulb -/

theorem witness_RoleIsMonitorBeforeStartAndInBulb : ∃ s t : State, RoleBeforeStart s ∧ step s = .next t :=
  ⟨State.reset, State.reset.tick, by decide, rfl⟩

/-! ### RoleChangesOnlyByTakeoverOrRestart -/

theorem witness_RoleChangesOnlyByTakeoverOrRestart : ∃ s t : State, s.start.phase = .running ∧ step s = .next t :=
  ⟨{ State.reset with start := { StartState.init with phase := .running, role := .standby } }, _, by decide, rfl⟩

/-! ### CommandsLeaveQueueAndClock -/

theorem witness_CommandsLeaveQueueAndClock : ∃ (c : Instr) (s t : State), exec c s = .next t :=
  ⟨.ns32Wrap, State.reset, _, rfl⟩

/-! ### PipEncodedWordReadsClean -/

theorem witness_PipEncodedWordReadsClean : ∃ d : Bytes, d.length = 32 := ⟨List.replicate 32 0, by decide +kernel⟩

/-! ### PipSingleWrongSymbolIsCorrected -/

theorem witness_PipSingleWrongSymbolIsCorrected : ∃ (d : Bytes) (i : Nat) (e : Byte), d.length = 32 ∧ i < 36 ∧ e ≠ 0 :=
  ⟨List.replicate 32 0, 35, 1, by decide +kernel⟩

/-! ### RegisterWritesFollowAccessTypes -/

theorem witness_RegisterWritesFollowAccessTypes :
    (∃ s : State, s.live = true ∧ s.rd PMC_CTRL_RUN = 0) ∧ (∃ s : State, s.live = true ∧ s.rd PMC_CTRL_RUN ≠ 0) ∧
    (∃ (a : BitVec 64) (s : State), s.live = true ∧ inRegs a.toNat = true ∧ a.toNat % 4 = 0 ∧ findReg a.toNat = none) ∧
    (∃ (a : BitVec 64) (s : State), s.live = true ∧ inRegs a.toNat = false) ∧
    (∃ (a : BitVec 64) (s : State), s.live = true ∧ inRegs a.toNat = true ∧ a.toNat % 4 ≠ 0) :=
  ⟨⟨State.reset, by decide +kernel⟩, ⟨State.reset.wr PMC_CTRL_RUN 1, by decide +kernel⟩, ⟨0x40100FFC, State.reset, by decide +kernel⟩,
    ⟨0x40110000, State.reset, by decide +kernel⟩, ⟨0x40000002, State.reset, by decide +kernel⟩⟩

/-! ### RegisterReadsDeliverAndClear -/

theorem witness_RegisterReadsDeliverAndClear :
    (∃ s : State, s.live = true ∧ s.rd PMC_LOG_STAT_NEXT < 2 ^ 32 ∧ s.rd PMC_LOG_STAT_STAGED < 2 ^ 13 ∧
      s.rd PMC_LOG_STAT_LOST_CNT < 2 ^ 16) ∧
    (∃ (who : Requester) (x : Nat) (s : State), s.live = true ∧ (s.wideOf who 0x40100020).latched = [(1, x)]) :=
  ⟨⟨State.reset, by decide +kernel⟩, ⟨.mgmt, 5, { State.reset with wide := [{ who := .mgmt, base := 0x40100020, latched := [(1, 5)], held := [] }] }, by decide +kernel⟩⟩

/-! ### WideWritesCommitWithTheHighestWord -/

theorem witness_WideWritesCommitWithTheHighestWord :
    ∃ (who : Requester) (x : Nat) (s : State), s.live = true ∧ (s.wideOf who 0x40100010).held = [(0, x)] ∧ x < 2 ^ 32 ∧
      x % 32 = 0 ∧ s.rd PMC_CTRL_DUMP_EN = 0 :=
  ⟨.mgmt, 0xFFFFFFE0, { State.reset with wide := [{ who := .mgmt, base := 0x40100010, latched := [], held := [(0, 0xFFFFFFE0)] }] }, by decide +kernel⟩

/-! ### MemoryAccessesStoreAndDeliver -/

theorem witness_MemoryAccessesStoreAndDeliver :
    (∃ s : State, s.live = true) ∧ (∃ (a : BitVec 64) (d : Bytes), d ≠ [] ∧ a.toNat + d.length ≤ 2 ^ 64 ∧ inSram a.toNat = false ∧ inDram a.toNat = false) ∧
    (∃ (s : State) (d : Bytes), s.live = true ∧ pipDecode (s.rdRaw 0x7FFFF) = .clean d) ∧
    (∃ s : State, s.live = true ∧ pipDecode (s.rdRaw 0) = .uncorr ∧ s.regionOf 0 = none) ∧
    (∃ a : BitVec 64, inKeys a.toNat = true ∧ inKeys (a.toNat + 63 - 1) = true) ∧
    (∃ (s : State) (a : BitVec 64), s.live = true ∧ mapped a.toNat = false) :=
  ⟨⟨State.reset, by decide +kernel⟩, ⟨0x01000000, [0], by decide +kernel⟩, ⟨State.reset, List.replicate 32 0, by decide +kernel⟩,
    ⟨{ State.reset with mem := [(0, 1), (1, 1)] }, by decide +kernel⟩, ⟨0x20010000, by decide +kernel⟩, ⟨State.reset, 0x01000000, by decide +kernel⟩⟩

/-! ### ScrubbingCorrectsAndCountsPasses -/

def noShip : State := { State.reset with start := { StartState.init with ship0 := false } }
def scrubAt (i n : Nat) (s : State) : State := { s with mbx := { s.mbx with scrubs := putAt s.mbx.scrubs i { next := n, due := 0 } } }
theorem witness_ScrubbingCorrectsAndCountsPasses :
    (∃ (s : State) (d : Bytes), s.live = true ∧ (s.scrubPos 0).due ≤ s.ticks ∧ (s.scrubPos 0).next + 1 ≠ scrubWords 0 ∧
      pipDecode (s.rdRaw (s.scrubNext 0)) = .clean d ∧ (s.scrubPos 0).next < scrubWords 0) ∧
    (∃ s : State, s.live = true ∧ (s.scrubPos 1).next = 0 ∧ s.ticks < (s.scrubPos 1).due) ∧
    (∃ (s : State) (v : WireWord) (p : Nat), s.live = true ∧ (s.scrubPos 0).next < 0x80000 ∧ (s.scrubPos 0).due ≤ s.ticks ∧
      s.rd PMC_CTRL_RUN = 0 ∧ pipDecode (s.rdRaw (s.scrubPos 0).next) = .corrected v p) ∧
    (∃ (s : State) (d : Bytes), s.live = true ∧ (s.scrubPos 0).next = 0x7FFFF ∧ pipDecode (s.rdRaw 0x7FFFF) = .clean d) ∧
    (∃ (s : State) (d : Bytes), s.live = true ∧ (s.scrubPos 2).next = 0xFFFFF ∧ pipDecode (s.rdRaw 0x10FFFFF) = .clean d ∧
      s.rdRaw 0x10FFFFF ≠ erasedWord) :=
  ⟨⟨State.reset, List.replicate 32 0, by decide +kernel⟩,
    ⟨{ State.reset with mbx := { MbxState.init with scrubs := List.replicate 3 { next := 0, due := 1 } } }, by decide +kernel⟩,
    ⟨{ State.reset with mem := [(0, 1)] }, { data := List.replicate 32 0, chk := List.replicate 4 0 }, 35, by decide +kernel⟩,
    ⟨scrubAt 0 0x7FFFF State.reset, List.replicate 32 0, by decide +kernel⟩,
    ⟨scrubAt 2 0xFFFFF (noShip.wrRaw 0x10FFFFF { data := List.replicate 32 0, chk := List.replicate 4 0 }), List.replicate 32 0, by decide +kernel⟩⟩

/-! ### FaultLogMergesAndDrains -/

def stagedOne : Staged :=
  { e := { index := 0, ns32 := 1, epoch := 0, source := 11, code := 6, status := 0xFF, timeValid := false, merged := false, deferred := false, inst := 0, rep := 0, detail := 0 }, tick := 0, closed := true }
theorem witness_FaultLogMergesAndDrains : (∃ (s : State) (x : Staged) (rest : List Staged), s.log.staged = x :: rest ∧ x.closed = true ∧
    s.logHour.length < 20000 ∧ x.e.index % logSize % logBlock ≠ logBlock - 256 ∧ s.rdRaw (logWord x.e.index) = erasedWord) ∧
    ∃ s : State, 20000 ≤ s.logHour.length :=
  ⟨⟨{ State.reset with log := { LogState.init with staged := [stagedOne] } }, stagedOne, [], rfl, by decide, by decide, by decide, by decide +kernel⟩,
    { State.reset with log := { LogState.init with hour := List.replicate 20000 0 } }, by
      show 20000 ≤ ((List.replicate 20000 0).filter fun t => decide (0 < t + hourTicks)).length
      rw [List.filter_replicate, if_pos (by decide)]; exact Nat.le_of_eq (List.length_replicate ..).symm⟩

/-! ### PerformanceCountersCountAndSnapshot -/

theorem witness_PerformanceCountersCountAndSnapshot :
    (∃ s : State, s.live = true ∧ s.rd PMC_CTRL_RUN ≠ 0 ∧ s.start.phase ≠ .bulb ∧ s.rd (PMC_SEL_EVT 31) = 1 ∧ s.chained 31 = false ∧
      s.rd (PMC_SEL_LEVEL 31) = 0 ∧ s.rd (PMC_SEL_SAMPLE 31) = 0 ∧ s.pmc.tick ≠ s.ticks + 1 ∧ 2 ^ 32 ≤ s.rd (PMC_CNT_VALUE 31) + 1) ∧
    (∃ s : State, s.pmc.tick = s.ticks + 1 ∧ s.pmc.wrote.testBit 31 = true ∧ s.rd (PMC_SEL_LEVEL 31) = 0 ∧ s.chained 31 = false) ∧
    (∃ s : State, s.live = true ∧ s.pmc.lastSnap = none ∧ s.rd PMC_CTRL_DUMP_EN = 0 ∧ s.pmc.tick ≠ s.ticks + 1) ∧
    (∃ s : State, s.live = true ∧ s.pmc.lastSnap = some 0 ∧ s.ticks ≤ 500) ∧
    (∃ s : State, s.live = true ∧ s.rd PMC_CTRL_DUMP_EN ≠ 0 ∧ s.start.phase ≠ .bulb ∧ s.perNow = true ∧ s.pmc.tick ≠ s.ticks + 1 ∧
      (s.rd PMC_DUMP_PTR_WR + 1) % s.rd PMC_DUMP_CFG_ENTRIES = s.rd PMC_DUMP_PTR_RD) :=
  ⟨⟨((State.reset.wr PMC_CTRL_RUN 1).wr (PMC_SEL_EVT 31) 1).wr (PMC_CNT_VALUE 31) 0xFFFFFFFF, by decide +kernel⟩,
    ⟨State.reset.pmcWrite 31 0, by decide +kernel⟩, ⟨State.reset, by decide +kernel⟩,
    ⟨{ State.reset with pmc := { PmcState.init with lastSnap := some 0 }, ticks := 500 }, by decide +kernel⟩,
    ⟨(State.reset.wr PMC_CTRL_DUMP_EN 1).wr PMC_DUMP_PTR_RD 1, by decide +kernel⟩⟩

/-! ### PowerAndResetsHoldTheModule -/

theorem witness_PowerAndResetsHoldTheModule :
    (∃ (tj : BitVec 9) (s : State), s.pwr.hot = false ∧ 115 ≤ tj.toInt) ∧ (∃ tj : BitVec 9, 135 ≤ tj.toInt) ∧
    (∃ (tj : BitVec 9) (s : State), s.pwr.held = some 3 ∧ s.pwr.thermal = true ∧ tj.toInt < 110) ∧
    (∃ (x : Nat) (s : State), s.pwr.restart = some x ∧ x + 250000 ≤ s.ticks ∧ s.live = true) ∧ (∃ s : State, s.holds = true) :=
  ⟨⟨115, State.reset, by decide +kernel⟩, ⟨135, by decide⟩,
    ⟨109, { State.reset with pwr := { PwrState.init with held := some 3, thermal := true } }, by decide +kernel⟩,
    ⟨7, { State.reset with pwr := { PwrState.init with restart := some 7 }, ticks := 250007 }, by decide +kernel⟩, ⟨State.reset.wr PRD_STATUS_GATE 2, by decide +kernel⟩⟩

/-! ### StartSequenceSteps -/

def atPhase (p : StartPhase) (setting : Nat) : State :=
  { State.reset with ticks := 10000000000, start := { StartState.init with phase := p, setting := setting } }
/-- A firmware image of 64 bytes with the CRC word c. -/
def fwImage (c : Nat) : Bytes := bytesOf 4 0x57465844 ++ bytesOf 4 1 ++ bytesOf 4 64 ++ bytesOf 4 c ++ List.replicate 48 0
def fwState : State :=
  let b := fwImage (crc32 (fwImage 0))
  (noShip.wrWord (fwBase 0 / 32) (b.take 32)).wrWord (fwBase 0 / 32 + 1) (b.drop 32)
theorem witness_StartSequenceSteps :
    (∃ (s : State) (b : Bytes), s.start.phase = .idle ∧ s.pwr.held = none ∧ s.start.failReg = none ∧
      s.start.deferred = none ∧ s.startRec.failCnt < 3 ∧ (s.fwCheck s.fwSelected).2.isSome = true ∧
      (s.checkSlot s.setSelected).2.1.code = 0 ∧ (s.checkSlot s.setSelected).2.2 = b ∧ field (secIn (setSecs b) 1) 0 1 = 0 ∧
      recsOf (secIn (setSecs b) 3) = [] ∧ aGet 8 (setSecs b) = none ∧ aGet 9 (setSecs b) = none) ∧
    (∃ s : State, s.start.phase = .idle ∧ s.pwr.held = none ∧ s.start.failReg = none ∧ s.startRec.failCnt = 3) ∧
    (∃ s : State, s.live = true ∧ s.start.phase = .waitRefclk ∧ s.start.stepTick + 250000000 ≤ s.ticks) ∧
    (∃ s : State, s.live = true ∧ s.start.phase ≠ .running ∧ s.start.phase ≠ .bulb ∧ s.start.relTick + 6750000000 ≤ s.ticks) ∧
    (∃ s : State, s.live = true ∧ s.start.phase = .waitLanes ∧ s.start.stepTick + 500000000 ≤ s.ticks ∧ s.start.setting = 1 ∧
      s.on PRD_STATUS_DL_UP = true) ∧
    (∃ s : State, s.live = true ∧ s.start.phase = .waitLanes ∧ s.start.stepTick + 500000000 ≤ s.ticks ∧ s.start.setting = 1 ∧
      s.on PRD_STATUS_DL_UP = false ∧ s.rd PRD_STATUS_TOKEN_CNT = 0 ∧ s.vetoClear = true) ∧
    (∃ s : State, s.live = true ∧ s.start.phase = .waitRefclk ∧ s.start.setting = 0 ∧ s.on PTU_STATUS_REFCLK_OK = false) ∧
    (∃ s : State, s.start.phase ≠ .waitRefclk ∧ s.on PTU_STATUS_REFCLK_OK = false) :=
  ⟨⟨fwState, (fwState.checkSlot fwState.setSelected).2.2, by decide +kernel⟩,
    ⟨{ State.reset with start := { StartState.init with recX := some { seq := 0, failCnt := 3, reason := 1, slot := 0 } } }, by decide +kernel⟩,
    ⟨atPhase .waitRefclk 0, by decide +kernel⟩, ⟨atPhase .contend 0, by decide +kernel⟩, ⟨(atPhase .waitLanes 1).wr PRD_STATUS_DL_UP 1, by decide +kernel⟩,
    ⟨atPhase .waitLanes 1, by decide +kernel⟩, ⟨atPhase .waitRefclk 0, by decide +kernel⟩, ⟨State.reset, by decide +kernel⟩⟩

/-! ### TokenIsTakenByTheCount -/

def block0 : StatusBlock := { take := false, hold := true, alive := true, third := true, pos := true, half := false, role := .coordinator, hb := 0 }
def running (r : Role) (setting half : Nat) : State :=
  { State.reset with ticks := 1000000, start := { StartState.init with phase := .running, role := r, setting := setting, half := half } }
theorem witness_TokenIsTakenByTheCount :
    (∃ s : State, s.live = true ∧ s.rd PRD_STATUS_GATE = 1 ∧ s.nExp < 2 ∧ s.on PRD_STATUS_POS = true ∧ s.start.phase ≠ .contend) ∧
    (∃ s : State, s.live = true ∧ s.rd PRD_STATUS_GATE ≠ 1 ∧ s.start.phase ≠ .contend) ∧
    (∃ s : State, s.live = true ∧ s.prdOn = true ∧ s.rd PRD_STATUS_GATE = 0 ∧ s.mayTake = true ∧ s.rd PRD_STATUS_TOKEN_CNT = 0 ∧
      s.cntFor 0 s.tq = true ∧ s.vetoClear = true ∧ s.half2 = false ∧ (s.domino = true → s.otherReady = true)) ∧
    (∃ s : State, s.live = true ∧ s.prdOn = true ∧ s.rd PRD_STATUS_GATE = 0 ∧ s.half2 = true ∧
      (s.start.phase = .contend ∨ s.isStandby = true)) ∧
    (∃ s : State, s.live = true ∧ s.rd PRD_STATUS_GATE = 1 ∧ s.rd PRD_STATUS_TOKEN_CNT = s.nExp ∧
      s.cntFor (s.prd.asrtTick + 50) 125 = true ∧ s.ticks ≤ s.prd.asrtTick + 1250 ∧ s.isStandby = true) ∧
    (∃ s : State, s.live = true ∧ s.rd PRD_STATUS_GATE = 1 ∧ s.start.phase ≠ .contend ∧ s.prd.asrtTick + 1250 ≤ s.ticks) ∧
    (∃ s : State, s.live = true ∧ s.holds = true ∧ s.rd PRD_STATUS_TOKEN_CNT ≠ s.nExp ∧ s.prd.wrongTick + 250 ≤ s.ticks) ∧
    (∃ (b : StatusBlock) (s : State), s.live = true ∧ s.isStandby = true ∧ s.rd PRD_STATUS_TOKEN_CNT = 0 ∧ s.prd.partML = some b ∧ b.hold = true ∧
      s.cntFor s.prd.holdTick 500 = true) :=
  ⟨⟨(State.reset.wr PRD_STATUS_GATE 1).wr PRD_STATUS_POS 1, by decide⟩, ⟨State.reset, by decide⟩,
    ⟨(atPhase .contend 1).wr PRD_CTRL_EN 1, by decide⟩, ⟨(running .standby 2 2).wr PRD_CTRL_EN 1, by decide⟩,
    ⟨{ ((running .standby 1 0).wr PRD_STATUS_GATE 1).wr PRD_STATUS_TOKEN_CNT 1 with prd := { PrdState.init with asrtTick := 999800 } }, by decide⟩,
    ⟨(running .standby 1 0).wr PRD_STATUS_GATE 1, by decide⟩, ⟨(running .coordinator 1 0).wr PRD_STATUS_GATE 2, by decide⟩,
    ⟨block0, { running .standby 1 0 with prd := { PrdState.init with partML := some block0 } }, by decide⟩⟩

/-! ### ReleaseOfTokenStopsTheUnit -/

theorem witness_ReleaseOfTokenStopsTheUnit :
    (∃ s : State, s.live = true ∧ s.holds = true ∧ s.rd PRD_WDT_EN ≠ 0 ∧ s.prd.wdtTick + 225 * s.rd PRD_WDT_WIN ≤ s.ticks ∧ s.start.role ≠ .monitor) ∧
    (∃ (v : BitVec 32) (s : State), s.live = true ∧ s.rd PRD_WDT_EN = 0 ∧ 8 ≤ bits v.toNat 4 12) ∧
    (∃ (v : BitVec 32) (s : State), s.live = true ∧ s.rd PRD_WDT_EN ≠ 0 ∧ bits v.toNat 0 1 ≠ s.rd PRD_WDT_EN) ∧
    (∃ s : State, s.live = true ∧ s.prd.lastKick.length = 9) ∧
    (∃ s : State, s.live = true ∧ s.rd PRD_STATUS_PART_HB_OK ≠ 0 ∧ s.prd.hbTick + 25000 * s.rd PRD_HB_HB_TO ≤ s.ticks) :=
  ⟨⟨((running .coordinator 1 0).wr PRD_STATUS_GATE 2).wr PRD_WDT_EN 1, by decide⟩, ⟨0x01FF0081, State.reset, by decide⟩,
    ⟨0, State.reset.wr PRD_WDT_EN 1, by decide⟩, ⟨State.reset, by decide⟩, ⟨{ State.reset.wr PRD_STATUS_PART_HB_OK 1 with ticks := 10000000 }, by decide⟩⟩

/-! ### PairLanesTrainAndCarryStatus -/

def partnered (b : StatusBlock) : State :=
  ({ running .standby 1 0 with prd := { PrdState.init with partML := some b, partDL := some b } }).wr PRD_CTRL_EN 1
theorem witness_PairLanesTrainAndCarryStatus :
    (∃ s : State, s.live = true ∧ s.prdOn = true ∧ s.start.phase ≠ .contend ∧ s.holds = false) ∧
    (∃ (b : StatusBlock) (s : State), s.live = true ∧ s.prdOn = true ∧ s.prd.partML = some b ∧ s.prd.mlUp = false ∧
      b.pos ≠ s.on PRD_STATUS_POS ∧ s.start.phase ≠ .waitLanes) ∧
    (∃ (b : StatusBlock) (s : State), s.live = true ∧ s.prdOn = true ∧ s.prd.partML = some b ∧ s.prd.mlUp = false ∧
      b.pos = s.on PRD_STATUS_POS) ∧
    (∃ (b : StatusBlock) (s : State), s.live = true ∧ s.prdOn = true ∧ s.prd.partDL = some b ∧ s.on PRD_STATUS_DL_UP = false ∧
      s.start.phase ≠ .waitLanes) ∧
    (∃ s : State, s.live = true ∧ s.prd.mlUp = true) ∧
    (∃ s : State, s.live = true ∧ s.on PRD_STATUS_DL_UP = true ∧ s.domino = false) :=
  ⟨⟨partnered block0, by decide⟩, ⟨block0, partnered block0, by decide⟩,
    ⟨{ block0 with pos := false }, partnered { block0 with pos := false }, by decide⟩, ⟨block0, partnered block0, by decide⟩,
    ⟨{ State.reset with prd := { PrdState.init with mlUp := true } }, by decide⟩, ⟨State.reset.wr PRD_STATUS_DL_UP 1, by decide⟩⟩

/-! ### MirrorCarriesWholeDeltas -/

def zeroWord : WireWord := pipEncode (List.replicate 32 0)
def mirTest (kind : Nat) (words : List WireWord) : MirFrame :=
  { hdr := { ver := 1, kind := kind, blocks := words.length, region := 15, offset := 0, ci := 7, dseq := 0, count := 1 }, words := words }
def mlUpState : State := { State.reset with prd := { PrdState.init with mlUp := true } }
theorem witness_MirrorCarriesWholeDeltas :
    (∃ s : State, s.live = true ∧ s.holds = true ∧ s.kickLate = false ∧ s.mir.ovf = false ∧ s.prd.mlUp = true) ∧
    (∃ s : State, s.live = true ∧ s.prd.mlUp = true ∧ s.holds = false) ∧
    (mirFrameOk 0 (mirTest 0 [zeroWord]) ∧ mirFrameOk 2 (mirTest 2 [zeroWord]) ∧ mirFrameOk 5 (mirTest 5 [])) ∧
    (∃ (f : MirFrame) (c : CapWord) (s : State), s.live = true ∧ s.prd.mlUp = true ∧ s.holds = false ∧ mirFrameOk 1 f ∧
      s.rd PRD_STATUS_ML_STATE ≠ 3 ∧ f.hdr.count = s.mir.recvd ∧ s.mir.bad = false ∧ s.mir.page = [] ∧ s.mir.journal = [c] ∧
      s.mir.loadDone = [] ∧ inRamWord (s.rd (PRD_MR_BASE c.region) + c.offset) = true) ∧
    (∃ (f : MirFrame) (s : State), s.live = true ∧ s.prd.mlUp = true ∧ s.holds = false ∧ mirFrameOk 1 f ∧ f.hdr.count ≠ s.mir.recvd) ∧
    (∃ (n o : Nat) (d : Bytes) (s : State), s.live = true ∧ s.holds = true ∧ s.prd.mlUp = true ∧ s.mir.bulk = some (n, o) ∧
      queueWords s.mir.queue < mirBulkWords ∧ s.rd PMC_CTRL_RUN = 0 ∧ pipDecode (s.rdRaw (s.rd (PRD_MR_BASE n) + o)) = .clean d ∧
      s.rd (PRD_MR_KIND n) = 1 ∧ s.rdRaw (s.rd (PRD_MR_BASE n) + o) ≠ erasedWord) ∧
    (∃ (f : MirFrame) (w : WireWord) (ws : List WireWord) (d : Bytes), mirFrameOk 6 f ∧ f.hdr.offset = 0 ∧ f.words = w :: ws ∧
      pipData w = some d ∧ d ≠ [] ∧ (mirWords f).2 = true ∧ ws.length = slvBodyWords d) ∧
    (∃ (f : MirFrame) (s : State), s.live = true ∧ s.prd.mlUp = true ∧ mirFrameOk 7 f ∧ s.slv.loads = []) ∧
    (∃ (f : MirFrame) (w : WireWord) (d : Bytes), mirFrameOk 8 f ∧ f.words = [w] ∧ pipData w = some d) ∧
    (∃ (f : MirFrame) (s : State), s.live = true ∧ s.prd.mlUp = true ∧ s.holds = true ∧ mirFrameOk 9 f) ∧
    (∃ s : State, s.live = true ∧ s.isStandby = true ∧ s.prd.mlUp = true) ∧
    (∃ (f : MirFrame) (q : List MirFrame) (s : State), s.live = true ∧ s.prd.mlUp = true ∧ s.mir.queue = f :: q) ∧
    (∃ (m : DominoMsg) (q : List DominoMsg) (s : State), s.live = true ∧ s.on PRD_STATUS_DL_UP = true ∧ s.mir.dlOut = m :: q) ∧
    (∃ s : State, s.live = true ∧ s.domino = true ∧ s.on PRD_STATUS_DL_UP = true) ∧
    (∃ (f : MirFrame) (m : MirImage) (s : State), s.live = true ∧ s.prd.mlUp = true ∧ s.holds = false ∧ mirFrameOk 1 f ∧
      s.rd PRD_STATUS_ML_STATE ≠ 3 ∧ f.hdr.count = s.mir.recvd ∧ s.mir.bad = false ∧ m.flip = none ∧ m.recs = []) ∧
    (∃ (x : FlipOrder) (s : State), s.live = true ∧ s.domino = true ∧ s.on PRD_STATUS_DL_UP = true ∧ s.half2 = true ∧ s.holds = false ∧
      s.cfg.shadow = .checked ∧ x.crc = s.shadowCrc) := by
  refine ⟨⟨mlUpState.wr PRD_STATUS_GATE 2, ?_⟩, ⟨mlUpState, ?_⟩, ?_,
    ⟨mirTest 1 [], ⟨15, 0, List.replicate 32 1⟩, { mlUpState with mir := { MirState.init with recvd := 1, journal := [⟨15, 0, List.replicate 32 1⟩] } }, ?_⟩,
    ⟨mirTest 1 [], mlUpState, ?_⟩,
    ⟨15, 0, List.replicate 32 0, ({ mlUpState with mir := { MirState.init with bulk := some (15, 0) } }.wr PRD_STATUS_GATE 2).wr (PRD_MR_KIND 15) 1, ?_⟩,
    ⟨mirTest 6 [zeroWord], zeroWord, [], List.replicate 32 0, ?_⟩, ⟨mirTest 7 [], mlUpState, ?_⟩, ⟨mirTest 8 [zeroWord], zeroWord, List.replicate 32 0, ?_⟩,
    ⟨mirTest 9 [], mlUpState.wr PRD_STATUS_GATE 2, ?_⟩,
    ⟨{ running .standby 1 0 with prd := { PrdState.init with mlUp := true } }, ?_⟩,
    ⟨mirTest 0 [], [], { mlUpState with mir := { MirState.init with queue := [mirTest 0 []] } }, ?_⟩,
    ⟨.ident 0 0, [], ({ State.reset with mir := { MirState.init with dlOut := [.ident 0 0] } }).wr PRD_STATUS_DL_UP 1, ?_⟩,
    ⟨(running .standby 2 1).wr PRD_STATUS_DL_UP 1, ?_⟩,
    ⟨{ mirTest 1 [] with hdr := { (mirTest 1 []).hdr with count := 0 } }, State.reset.mirImage, mlUpState, ?_⟩,
    ⟨{ f := 0, crc := noShip.setCrc 1 }, { ((running .standby 2 2).wr PRD_STATUS_DL_UP 1) with start := { (running .standby 2 2).start with ship0 := false }, cfg := { CfgState.init with shadow := .checked } }, ?_⟩⟩ <;> (try unfold mirFrameOk) <;> decide +kernel

/-! ### PlantTimeFollowsItsSources -/

theorem witness_PlantTimeFollowsItsSources :
    (∃ s : State, s.live = true ∧ s.ptu.intOsc = false ∧ s.holds = true ∧ (s.rd PRD_DIAG_EN_CHECK).testBit 3 = true) ∧
    (∃ s : State, s.live = true ∧ s.rd PTU_CTRL_SRC = 3 ∧ s.half2 = false) ∧
    (∃ s : State, s.live = true ∧ s.rd PTU_CTRL_SRC = 3 ∧ s.half2 = true) ∧
    (∃ (t1 : Nat) (s : State), s.live = true ∧ s.ptu.t1 = some (0, t1) ∧ s.ptu.delays = [] ∧
      s.ptu.needEpoch = false ∧ s.rd PTU_CTRL_SERVO_EN = 0 ∧ s.ptu.lastOff = none ∧
      absQ ((diffQ t1 0 - diffQ 0 0 : Int) / 8 - (s.rdS (PTU_PORT_ASYM 0) : Rat) / 10) ≤ 10 ^ 9) ∧
    (∃ s : State, s.live = true ∧ s.rd PTU_CTRL_SRC = 4 ∧ s.rd PTU_CTRL_SERVO_EN = 0 ∧ s.ptu.lastOff = none) ∧
    (∃ s : State, s.live = true ∧ s.rd PTU_CTRL_SRC ≠ 4 ∧ s.rd PTU_CTRL_SRC ≠ 5 ∧ s.rd PTU_PPS_CFG_PPS_IN_EN ≠ 0 ∧
      s.on PTU_PPS_CFG_PPS_IN_FALL = false) ∧
    (∃ s : State, s.live = true ∧ s.rd PTU_STATUS_STATE = 3 ∧ s.ptu.offTick + 2500000 * s.rd PTU_SYNC_CFG_HOLD_T ≤ s.ticks ∧
      s.rd PTU_CTRL_SRC = 2 ∧ s.stepDue = false ∧ s.rd PTU_STATUS_STATE ≠ 0 ∧ s.rd PTU_STATUS_STATE ≠ 4 ∧ s.rd PTU_STATUS_STATE ≠ 2) ∧
    (∃ (p : PtuStep) (s : State), s.rd PTU_STATUS_STATE = 4 ∧ s.ptu.step = some p ∧ p.tb ≤ s.now) ∧
    (∃ s : State, s.live = true ∧ s.rd PTU_STATUS_STATE = 2 ∧ s.ptu.tsq.length = 6) :=
  ⟨⟨({ State.reset with ptu := { PtuState.init with intOsc := false } }).wr PRD_STATUS_GATE 2, by decide⟩, ⟨State.reset.wr PTU_CTRL_SRC 3, by decide⟩, ⟨(running .dominoHalf 2 2).wr PTU_CTRL_SRC 3, by decide⟩,
    ⟨0, ({ State.reset with ptu := { PtuState.init with t1 := some (0, 0), needEpoch := false } }).wr PTU_CTRL_SRC 3, by decide +kernel⟩,
    ⟨State.reset.wr PTU_CTRL_SRC 4, by decide⟩, ⟨State.reset.wr PTU_PPS_CFG_PPS_IN_EN 1, by decide⟩,
    ⟨{ (State.reset.wr PTU_STATUS_STATE 3).wr PTU_CTRL_SRC 2 with ticks := 2500000000 }, by decide⟩,
    ⟨⟨-5, 0⟩, ({ State.reset with ptu := { PtuState.init with step := some ⟨-5, 0⟩ } }).wr PTU_STATUS_STATE 4, by decide⟩,
    ⟨State.reset.wr PTU_STATUS_STATE 2, by decide⟩⟩

/-! ### GnssChannelsFollowTheirStates -/

/-- A coordinator whose baseband runs, with channel 3 enabled for PRN 7 and in the given state. -/
def gnbAt (st : Nat) : State :=
  (((running .coordinator 1 0).wr GNB_CTRL_RUN 1).wr (GNB_CH_CFG_PRN 3) 7).wr (GNB_CH_STAT_STATE 3) st
/-- A word of 24 data bits d as sent after D29* and D30*. -/
def navWith (d29 d30 : Bool) (d : Nat) : Nat :=
  navData d30 (64 * d) + (List.range 6).foldl (fun a j =>
    2 * a + b2n ((navEqs.getD j (true, [])).2.foldl (fun x i => x ^^ navBit (64 * d) i)
      (if (navEqs.getD j (true, [])).1 then d29 else d30))) 0
/-- TLM and HOW of one subframe and the TLM of the next, eight words of zeros between. -/
def frameBits : Nat :=
  let tlm := navWith false false 0x8B0000
  tlm * 2 ^ 300 + navWith (bit tlm 1) (bit tlm 0) 0x000004 * 2 ^ 270 + tlm
theorem witness_GnssChannelsFollowTheirStates :
    (∃ s : State, s.live = true ∧ s.engineRole = true ∧ s.half2 = false ∧ s.gCadenceBad = false) ∧
    (∃ (n : Fin 24) (s : State), s.live = true ∧ s.gnbOn = true ∧ 1 ≤ s.rd (GNB_CH_CFG_PRN n) ∧ s.rd (GNB_CH_CFG_PRN n) ≤ 32 ∧ s.gst n = 0) ∧
    (∃ (n : Fin 24) (s : State), s.live = true ∧ s.gnbOn = true ∧ s.gnb.srch = some n.val ∧ s.gst n = 1) ∧
    (∃ (n : Fin 24) (back : Fin 300) (s : State), s.live = true ∧ s.gnbOn = true ∧ s.gst n = 4 ∧
      frameFound (s.gchan n).bits (s.gchan n).nbits back = true) ∧
    (∃ (n : Fin 24) (s : State), s.live = true ∧ s.gnbOn = true ∧ s.gst n = 5 ∧ 2 ≤ (s.gchan n).tlmBad) ∧
    (∀ st < 6, ∃ (n : Fin 24) (s : State), s.live = true ∧ s.gnbOn = true ∧ s.gst n = st) :=
  ⟨⟨running .coordinator 1 0, by decide⟩, ⟨3, gnbAt 0, by decide⟩,
    ⟨3, (gnbAt 1).modGnb fun g => { g with srch := some 3 }, by decide⟩,
    ⟨3, 0, (gnbAt 4).modGchan 3 fun c => { c with bits := frameBits, nbits := 332 }, by decide +kernel⟩,
    ⟨3, (gnbAt 5).modGchan 3 fun c => { c with tlmBad := 2 }, by decide⟩, fun st h => ⟨3, gnbAt st, by
    have : ∀ st < 6, (gnbAt st).live = true ∧ (gnbAt st).gnbOn = true ∧ (gnbAt st).gst 3 = st := by decide
    exact this st h⟩⟩

/-! ### GnssMeasuresAndSolvesTime -/

def epoch0 : GnbEpoch := { m := 0, sweep := 0, recs := [], integ := 1, uni := false, off := none, given := false, pub := false }
theorem witness_GnssMeasuresAndSolvesTime :
    (∃ (n : Fin 24) (wp : Fin 256) (s : State), s.live = true ∧ s.gnbOn = true ∧ (s.gst n = 4 ∨ s.gst n = 5) ∧ s.rd GNB_NAV_PTR_WR = wp ∧
      s.rd GNB_NAV_PTR_RD ≠ (wp + 1) % 256) ∧
    (∃ (n : Fin 24) (wp : Fin 256) (s : State), s.live = true ∧ s.gnbOn = true ∧ (s.gst n = 4 ∨ s.gst n = 5) ∧ s.rd GNB_NAV_PTR_WR = wp ∧
      s.rd GNB_NAV_PTR_RD = (wp + 1) % 256) ∧
    (∃ (m : Fin 4) (s : State), s.live = true ∧ s.gnbOn = true ∧ 2 ≤ s.gst (20 + m) ∧ (s.gchan (20 + m)).waiting = true) ∧
    (∃ (e : GnbEpoch) (s : State), s.live = true ∧ s.gnbOn = true ∧ s.gnb.epoch = some e ∧ s.prd.mlUp = false ∧
      s.gnb.partner = none ∧ 2 ≤ s.gnb.missed ∧ e.sweep = (0 : BitVec 32).toNat ∧ e.sweep ≠ (1 : BitVec 32).toNat ∧
      s.gSolve (gUsable e.recs []) = none) ∧
    (∃ (n : Fin 24) (s : State), s.live = true ∧ s.gnbOn = true ∧ s.on GNB_STATUS_CLK_OK = true ∧ 2 ≤ s.gst n) ∧
    (∃ s : State, s.live = true ∧ s.gnbOn = true ∧ s.gDueSweep = some 1) ∧ (∃ s : State, s.live = true ∧ s.gDueSweep = none) :=
  ⟨⟨3, 0, gnbAt 4, by decide⟩, ⟨3, 255, (gnbAt 5).wr GNB_NAV_PTR_WR 255, by decide⟩,
    ⟨0, ((gnbAt 4).wr (GNB_CH_STAT_STATE 20) 4).modGchan 20 fun c => { c with waiting := true }, by decide⟩,
    ⟨epoch0, (gnbAt 4).modGnb fun g => { g with epoch := some epoch0, missed := 2 }, by decide⟩,
    ⟨3, (gnbAt 4).wr GNB_STATUS_CLK_OK 1, by decide⟩,
    ⟨((gnbAt 4).wr PTU_TIME_NS32 (SCH_GRID_PERIOD_PERIOD.rst * 1000)).modGnb fun g => { g with nextK := some 1 }, by decide +kernel⟩,
    ⟨State.reset, by decide⟩⟩

/-! ### SweepsArePublishedOnTheGrid -/

/-- A MONITOR at 1 s of fabric time with sweep 3 in flight, its link out since the start. -/
def sweepWait : State :=
  ({ running .monitor 0 0 with sch := { SchState.init with flight := [{ k := 3, inst := 1000000, resp := 0 }], outages := [(0, none)] } }).wr
    PTU_TIME_NS32 1000000000
theorem witness_SweepsArePublishedOnTheGrid :
    (∃ s : State, s.live = true ∧ s.cfe.gap = false ∧ s.sweepDue = none) ∧ (∃ s : State, s.live = true ∧ s.cfe.gap = true) ∧
    (∃ (e : SchDue) (s : State), s.works = true ∧ s.sweepDue = some e ∧ (s.sch.facts e).out = true ∧ (s.sch.facts e).near = false) :=
  ⟨⟨State.reset, by decide⟩, ⟨{ State.reset with cfe := { CfeState.init with gap := true } }, by decide⟩,
    ⟨{ k := 3, inst := 1000000, resp := 0 }, sweepWait, by decide +kernel⟩⟩

/-! ### FusionTakesSamplesAndPublishes -/

/-- A sample of kind 0 for slot 0 at instant 0, all values zero. -/
def fusFrame : ZFrame := { hdr := { cls := 5, dst := 0, dstDom := 0, blocks := 2 }, words := [zeroWord, zeroWord] }
/-- A coordinator with TOKEN whose fusion runs with reference 0 enabled. -/
def fusAt (en : Nat) : State :=
  (((({ running .coordinator 1 0 with zfb := { ZfbState.init with deliv := some (0, fusFrame) }, fus := { FusState.init with k0 := some 0 } }.wr PTU_TIME_NS32 2000000000).wr FUS_CTRL_RUN 1).wr PRD_STATUS_GATE 2).wr (FUS_REF_CFG_EN 0) en)
theorem witness_FusionTakesSamplesAndPublishes :
    (∃ s : State, s.live = true ∧ s.rd FUS_CTRL_RUN = 0 ∧ s.fusTimeBad = false) ∧ (∃ s : State, s.live = true ∧ s.fusTimeBad = true) ∧
    (∃ (p : Nat) (f : ZFrame) (s : State), s.live = true ∧ s.zfb.deliv = some (p, f) ∧ f.hdr.cls = 5 ∧ f.words.length = 2 ∧
      SampleOk s (frameSample s f)) ∧
    (∃ (p : Nat) (f : ZFrame) (s : State), s.live = true ∧ s.zfb.deliv = some (p, f) ∧ f.hdr.cls = 5 ∧ f.words.length = 2 ∧
      s.engineRole = true ∧ s.rd (FUS_REF_CFG_EN (frameSample s f).slot) = 0) ∧
    (∃ (who : Requester) (v : BitVec 32) (s : State), s.live = true ∧ SampleOk s (s.fusSample (pushed s who v))) ∧
    (∃ (k c : Nat) (s : State), s.live = true ∧ s.fusOn = true ∧ s.fus.out = none ∧ s.fusDue (s.fusOff - 1000000) = some k ∧
      s.fus.next ≤ k ∧ s.fusDue s.fusOff = some c ∧ s.fus.next ≤ c) ∧
    (∃ (k c : Nat) (b : Bytes) (s : State), s.live = true ∧ s.fusOn = true ∧ s.fusDue s.fusOff = some c ∧ s.fus.out = some (k, b) ∧ k ≤ c) ∧
    (∃ (k c : Nat) (b : Bytes) (s : State), s.live = true ∧ s.fusOn = true ∧ s.fusDue s.fusOff = some c ∧ s.fus.out = some (k, b) ∧ c < k) ∧
    (∃ s : State, s.fusDue s.fusOff = none) :=
  ⟨⟨State.reset, by decide⟩, ⟨State.reset.wr FUS_CYCLE_CFG_PUB_OFF 0, by decide⟩, ⟨0, fusFrame, fusAt 1, by decide +kernel⟩, ⟨0, fusFrame, fusAt 0, by decide +kernel⟩,
    ⟨.mbox, 0, fusAt 1, by decide +kernel⟩, 
    ⟨((fusAt 1).fusDue ((fusAt 1).fusOff - 1000000)).getD 0, ((fusAt 1).fusDue (fusAt 1).fusOff).getD 0, fusAt 1, by decide +kernel⟩,
    ⟨0, ((fusAt 1).fusDue (fusAt 1).fusOff).getD 0, [], (fusAt 1).modFus fun f => { f with out := some (0, []) }, by decide +kernel⟩,
    ⟨1000000, ((fusAt 1).fusDue (fusAt 1).fusOff).getD 0, [], (fusAt 1).modFus fun f => { f with out := some (1000000, []) }, by decide +kernel⟩,
    ⟨State.reset, by decide +kernel⟩⟩

/-! ### CellFrontEndObeysFrames -/

def feAt (st : Nat) : State :=
  { State.reset with cfe := { CfeState.init with fe := { CfeFe.init with st := st, sw := 1, snow := 0x01001001, ntc := 0xFFFF0000 } } }
def goodDown (sync : Nat) : CfeDown :=
  cfeDownSeal { sync := sync, cnt := 1, bal := 5, op := 1, addr := 0x0A, data := 7, rsv := 0, crc := 0 }
theorem witness_CellFrontEndObeysFrames :
    (∃ (f : CfeDown) (s : State), s.cfe.fe.accepts f = true ∧ adjacent f.bal = false ∧ f.op < 0x10 ∧ s.cfe.fe.dieHot = false ∧ s.cfe.fe.ot = 0) ∧
    (∃ (f : CfeDown) (s : State), s.cfe.fe.accepts f = true ∧ 0x10 ≤ f.op) ∧
    (∃ (f : CfeDown) (s : State), s.cfe.fe.accepts f = false) ∧
    (∃ (f : CfeDown) (s : State), f.sync = 0x5A ∧ f.crc = cfeDownCrc f ∧ s.cfe.fe.st ≠ 0 ∧ s.cfe.fe.st ≠ 2) ∧
    (∃ s : State, s.cfe.fe.st = 2 ∧ bit s.cfe.fe.sw (0 : Fin 48) = true) ∧ (∃ s : State, s.cfe.fe.st = 0) ∧
    (∃ s : State, s.cfe.fe.st = 1 ∧ bit s.cfe.fe.snow 12 = true ∧ bit s.cfe.fe.ntc (16 + (15 : Fin 16)) = true) ∧
    (∃ (k : Nat) (cells : List Int) (s : State), s.cfe.fe.st = 3 ∧ k < 48 ∧ s.cfe.fe.ovMv < cells.getD k 0 ∧ bits s.cfe.fe.snow 24 8 ≠ 0) ∧
    (∃ s : State, s.cfe.fe.st = 4 ∧ bits s.cfe.fe.snow 24 8 ≠ 0) :=
  ⟨⟨goodDown 0xA5, feAt 2, by decide +kernel⟩,
    ⟨cfeDownSeal { goodDown 0xA5 with op := 0x11 }, feAt 2, by decide +kernel⟩, ⟨goodDown 0xA5, feAt 1, by decide +kernel⟩, ⟨goodDown 0x5A, feAt 3, by decide +kernel⟩,
    ⟨feAt 2, by decide⟩, ⟨feAt 0, by decide⟩, ⟨feAt 1, by decide⟩, ⟨0, [9000], feAt 3, by decide⟩, ⟨feAt 4, by decide⟩⟩

/-! ### CellLinkIsDrivenFromTheLogicSide -/

theorem cfeUpCrc_seal (f : CfeUp) : cfeUpCrc (cfeUpSeal f) = cfeUpCrc f := by
  unfold cfeUpCrc cfeUpSeal cfeUpNum; rfl
theorem goodUp_frame (fe : CfeFe) (aux : Nat) (mod : List Nat) : goodUp (fe.frame aux mod) = true := by
  unfold goodUp CfeFe.frame
  rw [cfeUpCrc_seal]
  exact (Bool.and_eq_true _ _).mpr ⟨decide_eq_true rfl, decide_eq_true rfl⟩
def upFrame : CfeUp := CfeFe.frame { CfeFe.init with st := 3, por := true } 7 (List.replicate 49 5)
theorem witness_CellLinkIsDrivenFromTheLogicSide :
    (∃ s : State, s.live = true ∧ s.rd CFE_CTRL_ENABLE = 0 ∧ s.rd CFE_STATUS_LINK = 0 ∧ s.rd CFE_STATUS_HV_STATE ≠ 2) ∧
    (∃ s : State, s.live = true ∧ s.rd CFE_CTRL_ENABLE ≠ 0 ∧ s.cfe.syncing = true) ∧
    (∃ (i d : Nat) (q : List (Nat × Nat)) (s : State), s.live = true ∧ s.rd CFE_CTRL_ENABLE ≠ 0 ∧ s.cfe.syncing = false ∧
      s.cfe.stateOp = none ∧ s.cfe.op = none ∧ s.cfe.queue = (i, d) :: q) ∧
    (∃ (o : HeldOp) (s : State), s.live = true ∧ s.cfe.op = some o) ∧
    (∃ s : State, s.live = true ∧ s.rd CFE_STATUS_LINK ≠ 0 ∧ s.rd CFE_STATUS_HV_STATE = 2) ∧
    (∃ f : CfeUp, goodUp f = true) ∧ (∃ f : CfeUp, goodUp f = false) ∧
    (∃ (k d : Nat) (s : State), s.works = true ∧ s.cfe.pause = some (k, d)) ∧
    (∃ (sweep : BitVec 32) (s : State), s.works = true ∧ s.pausesFor (s.sweepOfId sweep.toNat) = true ∧ s.rd CFE_MEAS_CFG_PAUSE_EN ≠ 0 ∧
      s.rd SCH_CTRL_RUN ≠ 0 ∧ s.chainOn = true) ∧
    (∃ (sweep : BitVec 32) (s : State), s.works = true ∧ s.pausesFor (s.sweepOfId sweep.toNat) = false) :=
  ⟨⟨State.reset, by decide⟩, ⟨({ State.reset with cfe := { CfeState.init with syncing := true } }).wr CFE_CTRL_ENABLE 1, by decide⟩,
    ⟨0x0A, 1, [], ({ State.reset with cfe := { CfeState.init with queue := [(0x0A, 1)] } }).wr CFE_CTRL_ENABLE 1, by decide⟩,
    ⟨⟨true, 0x0A, 1, none⟩, { State.reset with cfe := { CfeState.init with op := some ⟨true, 0x0A, 1, none⟩ } }, by decide⟩,
    ⟨((State.reset.wr CFE_STATUS_LINK 1).wr CFE_STATUS_HV_STATE 2).wr SCH_CTRL_RUN 1, by decide⟩, ⟨upFrame, goodUp_frame ..⟩,
    ⟨{ upFrame with sync := 0 }, by simp [goodUp]⟩,
    ⟨3, 100, { running .monitor 0 0 with cfe := { CfeState.init with pause := some (3, 100) } }, by decide⟩,
    ⟨1, (running .monitor 0 0).wr SCH_CTRL_RUN 1, by decide +kernel⟩, ⟨0, running .monitor 0 0, by decide +kernel⟩⟩

/-! ### CellStateEngineRunsAndSleeps -/

def wakeCmd : CmdItem := { op := 3, target := 0, effect := 0, value := 0, seq := 0, rsv := 0 }
theorem witness_CellStateEngineRunsAndSleeps :
    (∃ s : State, s.live = true ∧ s.rd CSE_CTRL_RUN = 0 ∧ cadenceOk (s.rd CSE_CTRL_DIV) (s.rd SCH_GRID_PERIOD_PERIOD) = true) ∧
    (∃ s : State, s.live = true ∧ s.rd CSE_CTRL_RUN = 0 ∧ cadenceOk (s.rd CSE_CTRL_DIV) (s.rd SCH_GRID_PERIOD_PERIOD) = false) ∧
    (∃ s : State, s.cseDue = true ∧ s.rd CSE_STATUS_STATE = 1 ∧ ∃ k < 48, recBad (s.recOf k) = false) ∧
    (∃ s : State, s.cseDue = true ∧ s.rd CSE_STATUS_STATE = 1 ∧ ∀ k < 48, recBad (s.recOf k) = true) ∧
    (∃ s : State, s.live = true ∧ s.rd CSE_CTRL_RUN ≠ 0 ∧ s.rd CSE_CTRL_HIB_EN ≠ 0 ∧ s.rd CSE_STATUS_STATE = 3 ∧ s.hibDue = true ∧
      s.rd CFE_STATUS_HV_STATE = 2) ∧
    (∃ (s : State) (e : Nat × CmdItem), s.live = true ∧ s.rd CSE_STATUS_STATE = 4 ∧ (s.zfb.handed.find? fun e => e.2.op = 3) = some e) ∧
    (∃ (key : Bytes) (s : State), s.live = true ∧ s.mbx.devKey = some key) ∧
    (∃ (slot : BitVec 20) (s : State), s.live = true ∧ s.holds = true ∧ s.undecided slot.toNat = true) :=
  ⟨⟨State.reset, by decide⟩, ⟨State.reset.wr SCH_GRID_PERIOD_PERIOD 1, by decide⟩,
    ⟨({ running .monitor 0 0 with cse := { CseState.init with since := 1 }, sch := { SchState.init with records := [0] } }).wr CSE_STATUS_STATE 1, by decide +kernel⟩,
    ⟨({ running .monitor 0 0 with cse := { CseState.init with since := 1 } }).wr CSE_STATUS_STATE 1, by decide +kernel⟩,
    ⟨(((({ State.reset with cse := { CseState.init with hibT := some 1000000 } }).wr CSE_CTRL_RUN 1).wr CSE_CTRL_HIB_EN 1).wr CSE_STATUS_STATE 3).wr CFE_STATUS_HV_STATE 2, by decide +kernel⟩,
    ⟨({ State.reset with zfb := { ZfbState.init with handed := [(0, wakeCmd)] } }).wr CSE_STATUS_STATE 4, (0, wakeCmd), by decide⟩,
    ⟨[], { State.reset with mbx := { MbxState.init with devKey := some [] } }, by decide⟩,
    ⟨0, ({ State.reset with zfb := { ZfbState.init with replaced := [0] } }).wr PRD_STATUS_GATE 2, by decide⟩⟩

/-! ### LearnedRecordsAreCommittedToTheOlderSlot -/

def learnedRec : Bytes := bytesOf 32 (1 + 1 <<< 132) ++ (List.replicate 288 0xFF : Bytes) ++ bytesOf 32 (1 + 0xA55AC33C <<< 32)
/-- A coordinator with TOKEN that keeps a record of SLOT 3, an old one. -/
def recordAt3 : State :=
  ((({ running .coordinator 1 0 with hlm := { HlmState.init with pay := [(3, 0, 32 <<< 32)] }, start := { (running .coordinator 1 0).start with ship0 := false } }.wr PRD_STATUS_GATE 2).wr CSE_STATUS_LRN_CHG 1).wr PTU_TIME_EPOCH 0xFFFFFFFF).wrWords 11 (learnedAt 3 0 / 32) learnedRec
theorem recordAt3_lrnChg : recordAt3.lrnChg 3 = true := by
  unfold State.lrnChg
  split <;> decide +kernel
theorem witness_LearnedRecordsAreCommittedToTheOlderSlot :
    (∃ (slot i : Nat) (r : Nat × Bytes) (s : State), s.works = true ∧ s.holds = true ∧ s.commitDue slot = true ∧ s.lrnChg slot = true ∧
      s.recIndex slot = some i ∧ s.learned i = some r ∧ s.learnedRead i = s) ∧
    (∃ s : State, s.works = true ∧ s.holds = false) ∧
    (∃ (slot : Nat) (s : State), s.recIndex slot = none) :=
  ⟨⟨3, 3, (1, learnedRec), recordAt3, by decide +kernel, by decide +kernel, by decide +kernel, recordAt3_lrnChg, by decide +kernel,
      by decide +kernel, by decide +kernel⟩, ⟨running .standby 1 0, by decide⟩, ⟨40000, State.reset, by decide⟩⟩

/-! ### SolverTakesLoadsAndSolves -/

def req0 (op deadline : Nat) : SlvReq :=
  { num := 7, op := op, slot := 15, wsSlot := 0, wsEn := false, prio := 0, tag := 0, release := 0, released := true, deadline := deadline,
    inAddr := 0, inCount := 0, outAddr := 0, resAddr := 0, damp := 0 }
/-- A coordinator with TOKEN whose solver runs, with the given queue and solve. -/
def slvAt (q : List SlvReq) (r : Option SlvRun) : State :=
  (({ running .coordinator 1 0 with slv := { SlvState.init with queue := q, run := r } }).wr SLV_CTRL_RUN 1).wr PRD_STATUS_GATE 2
def run0 (iter : Nat) (st : Option (List (Nat × Nat))) : SlvRun := { SlvRun.start (req0 0 1000) [] with iter := iter, staging := st }
def failed : LoadRes → Bool | .fail _ => true | .good .. => false
/-- A dense structure of one row: header VER 1, class 0, N 1. -/
def denseHdr : Bytes := bytesOf 32 (1 + 1 <<< 16)
def loadAt : State := (slvAt [req0 1 0] none).wrWord 0 denseHdr
theorem witness_goodLoad (h : Config.slvFoot [0, 1, 0, 0, 0, 0, 0] ≤ 1536) :
    Chosen loadAt (req0 1 0) 1 ∧ failed ((tookReq loadAt (req0 1 0)).slvCheck (req0 1 0)).2 = false := by
  refine ⟨by unfold Chosen; decide +kernel, ?_⟩
  have hg : State.getWords 1 (tookReq loadAt (req0 1 0)) ((req0 1 0).inAddr / 32) = (tookReq loadAt (req0 1 0), some denseHdr) := by
    decide +kernel
  have hf : (tookReq loadAt (req0 1 0)).slvFreeWs (req0 1 0).slot = 1536 := by decide +kernel
  unfold State.slvCheck
  dsimp only
  rw [hg]
  simp only
  have e1 : bits (natOf denseHdr) 8 3 = 0 := by decide +kernel
  have e2 : bit (natOf denseHdr) 11 = false := by decide +kernel
  have e3 : bits (natOf denseHdr) 16 17 = 1 := by decide +kernel
  have e4 : bits (natOf denseHdr) 64 21 = 0 := by decide +kernel
  have e5 : bits (natOf denseHdr) 96 32 = 0 := by decide +kernel
  have e6 : bits (natOf denseHdr) 160 16 = 0 := by decide +kernel
  have e7 : (tookReq loadAt (req0 1 0)).domino = false := by decide +kernel
  have e8 : slvSizesOk false 0 1 0 0 0 0 = true := by decide +kernel
  rw [e1, e2, e3, e4, e5, e6, e7, hf]
  simp only [e8, Nat.not_lt.mpr h, Bool.not_true, Bool.false_eq_true, if_false, decide_false, Bool.or_self]
  have hb : State.getWords (slvBodyWords denseHdr) (tookReq loadAt (req0 1 0)) ((req0 1 0).inAddr / 32 + 1)
      = (tookReq loadAt (req0 1 0), some []) := by decide +kernel
  rw [hb]
  simp only
  unfold State.slvCheckBody
  simp only [e1, e2, e3, e4, e5, e6]
  generalize Config.slvFoot _ = f
  rw [if_neg (by simp), if_neg (by decide +kernel)]
  rfl
/-- A solver whose slot 15 is READY, or BUSY. -/
def slvSt (st : Nat) (q : List SlvReq) (r : Option SlvRun) : State := (slvAt q r).wr (SLV_SLOT_STAT_STATE 15) st
def ready0 : State := (slvAt [] none).wr (SLV_SLOT_STAT_STATE 0) 2
def lowRun : SlvRun := { run0 0 none with req := { req0 0 9 with num := 3, slot := 2 } }
def highReq : SlvReq := { req0 0 9 with prio := 1 }
/-- The slot of the tests put in force. -/
def withSlot (s : State) (x : SlvSlot) : State := s.modSslot 15 fun _ => x
/-- A slot of class 0 whose one value is infinite: no pivot exceeds its tolerance. -/
def badSlot : SlvSlot := { SlvSlot.init with n := 1, vals := [(valKey 0 0 0, f64PosInf)] }
def qpSlot : SlvSlot := { SlvSlot.init with cls := 5 }
/-- Attempts that each stop end in a failure. -/
theorem tries_fail (m : SlvMat) (h : ∀ k, (m.stop k).isSome = true) : ∀ left k, (m.tries left k).2 = true
  | 0, k => h k
  | left + 1, k => by
    unfold SlvMat.tries
    cases e : m.stop k with
    | none => have := h k; simp [e] at this
    | some j =>
      dsimp only
      split
      · exact tries_fail m h left (k + 1)
      · rfl
theorem fails_bad (it : Nat) (hit : it = 0 ∨ it = 1) : ((withSlot (slvSt 3 [] (some (run0 it none))) badSlot).slvFac (run0 it none)).fail = true := by
  unfold State.slvFac SlvMat.factor
  dsimp only
  apply tries_fail
  intro k
  have hs : ∀ p : Nat, (!f64Finite p || f64Le p f64PosInf) = true := by
    intro p
    by_cases hf : f64Finite p = true
    · have hn : bits p 52 11 ≠ 0x7FF := by simpa [f64Finite] using hf
      have e1 : f64IsNaN p = false := by simp [f64IsNaN, hn]
      have e2 : f64IsInf p = false := by simp [f64IsInf, hn]
      have e3 : f64IsNaN f64PosInf = false := by decide +kernel
      have e4 : f64IsInf f64PosInf = true := by decide +kernel
      have e5 : bit f64PosInf 63 = false := by decide +kernel
      simp [f64Le, f64Lt, e1, e2, e3, e4, e5]
    · simp [hf]
  have key : ∀ (m : SlvMat), m.n = 1 → m.cls = 0 → f64Mul m.tol m.scale = f64PosInf → (m.stop k).isSome = true := by
    intro m h1 h2 h3
    have := hs (m.piv k 0)
    unfold SlvMat.stop SlvMat.tiny
    rw [h1, h2, h3]
    simp at this ⊢
    simpa [List.range_succ] using this
  obtain rfl | rfl := hit <;> apply key <;> decide +kernel
theorem iterates_on (h : ∀ k p, f64Le (Config.qpGap k p % 2 ^ 64) (pow2neg 0) = false) :
    let s := (withSlot (slvSt 3 [] (some (run0 1 none))) qpSlot).wrAll [(SLV_SLOT_CFG_GAP_EXP 15, 0), (SLV_SLOT_CFG_MAX_ITER 15, 2)]
    Solving s (run0 1 none) ∧ (s.slvFac (run0 1 none)).fail = false ∧ s.slvDue (run0 1 none).req = false ∧
      s.slvTest (iterated s (run0 1 none) 0) = none ∧ s.slv.queue = [] ∧ s.slv.paused = [] ∧
      16 * s.now + s.rd SLV_CTRL_GUARD * 0 ≤ 16 * (run0 1 none).req.deadline ∧
      16 * (run0 1 none).req.deadline < 16 * s.now + s.rd SLV_CTRL_GUARD * 10000 := by
  intro s
  refine ⟨by unfold Solving; decide +kernel, by decide +kernel, by decide +kernel, ?_, by decide +kernel, by decide +kernel,
    by decide +kernel, by decide +kernel⟩
  have hq : (iterated s (run0 1 none) 0).req = (run0 1 none).req := by decide +kernel
  have hl : (iterated s (run0 1 none) 0).resPs.length = 1 := by decide +kernel
  have hi : (iterated s (run0 1 none) 0).iter = 1 := by decide +kernel
  have hc : (s.sslot 15).cls = 5 := by decide +kernel
  have hg : s.rd (SLV_SLOT_CFG_GAP_EXP 15) = 0 := by decide +kernel
  have hm : s.rd (SLV_SLOT_CFG_MAX_ITER 15) = 2 := by decide +kernel
  unfold State.slvTest
  have hr : (run0 1 none).req.slot = 15 := rfl
  simp only [hq, hr, hl, hi, hg, hm, SlvSlot.gaps, hc, if_true, h]
  simp
theorem witness_SolverTakesLoadsAndSolves :
    (∃ (tail : Fin 32) (s : State), s.live = true ∧ 31 < (tail.val + 32 - s.rd SLV_RING_PTR_HEAD) % 32 + s.slvFlight) ∧
    (∃ (tail head : Fin 32) (s s' : State) (b : Bytes), s.live = true ∧ s.rd SLV_RING_PTR_HEAD = head ∧
      (tail.val + 32 - head.val) % 32 + s.slvFlight ≤ 31 ∧ s.slvOn = true ∧ tail = head + 1 ∧
      State.getWords 2 (atTail s tail) ((s.rd SLV_RING_BASE_ADDR + 64 * head) / 32) = (s', some b) ∧
      s'.slvReject (ringReq s b) b = 0 ∧ (ringReq s b).op = 0) ∧
    (∃ (s : State), s.live = true ∧ s.slvOn = true ∧ s.slv.run = none) ∧
    (∃ (num : Nat) (r : SlvRun) (q : SlvReq) (s : State), s.live = true ∧ s.slvOn = true ∧ s.slv.run = some r ∧
      (releasedReq s num).slvNext = some q ∧ r.req.prio < q.prio) ∧
    (∃ (q : SlvReq) (s : State), Chosen s q 1 ∧ failed ((tookReq s q).slvCheck q).2 = true) ∧ (∃ (q : SlvReq) (s : State), Chosen s q 2) ∧
    (∃ (q : SlvReq) (r : SlvRun) (s : State), s.live = true ∧ s.slvOn = true ∧ s.slv.run = none ∧ s.slvNext = some q ∧
      (s.slv.paused.find? fun r => r.req = q) = some r ∧ r.wait = false) ∧
    (∃ (q : SlvReq) (s : State), Chosen s q 0 ∧ (s.slv.paused.find? fun r => r.req = q) = none ∧ s.sst q.slot < 2) ∧
    (∃ (q : SlvReq) (s : State), Chosen s q 0 ∧ (s.slv.paused.find? fun r => r.req = q) = none ∧ 2 ≤ s.sst q.slot ∧ s.slvDue q = false ∧
      solveInput (tookReq s q) q = (tookReq s q, some []) ∧ solveVals s q [] = some []) ∧
    (∃ (q : SlvReq) (s : State), Chosen s q 0 ∧ (s.slv.paused.find? fun r => r.req = q) = none ∧ 2 ≤ s.sst q.slot ∧ s.slvDue q = true) ∧
    (∃ (r : SlvRun) (v : List (Nat × Nat)) (s : State), s.live = true ∧ s.slv.run = some r ∧ r.staging = some v ∧ r.req.slot < 16 ∧
      s.slvDue r.req = false ∧ s.slv.queue = [] ∧ s.slv.paused = [] ∧ s.slv.slots.length = 16 ∧ r.iter = 0) ∧
    (∃ (r : SlvRun) (s : State), s.live = true ∧ s.slv.run = some r ∧ r.staging = some [] ∧ r.req.slot < 16 ∧ s.slvDue r.req = true) ∧
    (∃ (r : SlvRun) (s : State), Solving s r ∧ 0 < r.iter ∧ (s.slvFac r).fail = true) ∧
    (∃ (r : SlvRun) (s : State), Solving s r ∧ 2 ≤ r.iter ∧ (s.slvFac r).fail = false ∧ s.slvDue r.req = true) ∧
    (∃ (r : SlvRun) (s : State), Solving s r ∧ 0 < r.iter ∧ (s.slvFac r).fail = false ∧ s.slvDue r.req = false ∧
      s.slvTest (iterated s r 0) = some 0 ∧ f64Le ((s.sslot r.req.slot).gaps (iterated s r 0)).1 (pow2neg (s.rd (SLV_SLOT_CFG_GAP_EXP r.req.slot))) = true) ∧
    (∃ (r : SlvRun) (s : State), Solving s r ∧ r.iter = 0 ∧ (s.slvFac r).fail = true) ∧
    (∃ (r : SlvRun) (s : State), Solving s r ∧ r.iter = 0 ∧ (s.slvFac r).fail = false ∧ s.slvDue r.req = true) ∧
    (∃ (r : SlvRun) (s : State), Solving s r ∧ r.iter = 0 ∧ (s.slvFac r).fail = false ∧ s.slvDue r.req = false) :=
  ⟨⟨31, slvAt [req0 0 0] none, by decide⟩,
    ⟨1, 0, ready0, (State.getWords 2 (atTail ready0 1) 0).1, List.replicate 64 0, by decide +kernel⟩, ⟨slvAt [] none, by decide⟩,
    ⟨7, lowRun, highReq, slvAt [{ highReq with released := false }] (some lowRun), by decide +kernel⟩,
    ⟨req0 1 0, ((slvAt [req0 1 0] none).wrChk 0 1).wrChk 1 1, by unfold Chosen; decide +kernel, by decide +kernel⟩,
    ⟨req0 2 0, slvAt [req0 2 0] none, by unfold Chosen; decide +kernel⟩,
    ⟨req0 0 9, { run0 0 none with req := req0 0 9 },
      { slvAt [] none with slv := { SlvState.init with paused := [{ run0 0 none with req := req0 0 9 }] } }, by decide +kernel⟩,
    ⟨req0 0 9, slvAt [req0 0 9] none, by unfold Chosen; decide +kernel⟩,
    ⟨req0 0 9, slvSt 3 [req0 0 9] none, by unfold Chosen; decide +kernel⟩, ⟨req0 0 0, slvSt 3 [req0 0 0] none, by unfold Chosen; decide +kernel⟩,
    ⟨run0 0 (some []), [], slvAt [] (some (run0 0 (some []))), by decide⟩,
    ⟨{ run0 0 (some []) with req := req0 0 0 }, slvAt [] (some { run0 0 (some []) with req := req0 0 0 }), by decide⟩,
    ⟨run0 1 none, withSlot (slvSt 3 [] (some (run0 1 none))) badSlot, by unfold Solving; decide +kernel, by decide, fails_bad 1 (.inr rfl)⟩,
    ⟨{ run0 2 none with req := req0 0 0 }, slvAt [] (some { run0 2 none with req := req0 0 0 }), by unfold Solving; decide +kernel⟩,
    ⟨run0 1 none, slvAt [] (some (run0 1 none)), by unfold Solving; decide +kernel⟩,
    ⟨run0 0 none, withSlot (slvSt 3 [] (some (run0 0 none))) badSlot, by unfold Solving; decide +kernel, by decide, fails_bad 0 (.inl rfl)⟩,
    ⟨{ run0 0 none with req := req0 0 0 }, slvAt [] (some { run0 0 none with req := req0 0 0 }), by unfold Solving; decide +kernel⟩,
    ⟨run0 0 none, slvAt [] (some (run0 0 none)), by unfold Solving; decide +kernel⟩⟩

/-! ### HelmRunsItsCycle -/

/-- A coordinator with TOKEN whose fusion and helm run, in a mode, with validity flags in FUS_OUT. -/
def hlmAt (mode flags : Nat) : State :=
  ((((({ running .coordinator 1 0 with fus := { FusState.init with k0 := some 0, next := 2 }, hlm := { HlmState.init with ck := some 0 } }).wr
    HLM_CTRL_RUN 1).wr FUS_CTRL_RUN 1).wr PRD_STATUS_GATE 2).wr HLM_STATUS_MODE mode).wr (FUS_OUT_W 4) flags
theorem hlmRes_dflt (i : Nat) (h : i < 32) : memDefault (hlmRes + i) = 0 := by
  have : Config.helmArea % 2 ^ 20 < 2 ^ 20 := Nat.mod_lt _ (by decide)
  have : inFlash (hlmRes + i) = false := by
    unfold inFlash hlmRes hlmBuf
    rw [decide_eq_false (by omega), Bool.false_and]
  simp [memDefault, this]
theorem hlmRes_zero (s : State) (h : s.mem = []) : s.peek hlmRes 32 = List.replicate 32 0 := by
  have : s.peek hlmRes 32 = (List.range 32).map fun _ => (0 : Byte) :=
    List.map_congr_left fun i hi => by simp [State.rdByte, h, aGet, hlmRes_dflt i (List.mem_range.1 hi)]
  rw [this]; rfl
theorem hlmRes_one (s : State) (h : s.mem = []) : (s.wrByte hlmRes 1).peek hlmRes 32 = 1 :: List.replicate 31 0 := by
  have : (s.wrByte hlmRes 1).peek hlmRes 32 = (List.range 32).map fun i => if i = 0 then (1 : Byte) else 0 :=
    List.map_congr_left fun i hi => by
      by_cases hz : i = 0
      · subst hz; simp
      · rw [State.rdByte_wrByte_ne _ (by omega)]; simp [State.rdByte, h, aGet, hlmRes_dflt i (List.mem_range.1 hi), hz]
  rw [this]; rfl
/-- A control instant has come whose law has not run. -/
def HlmInstant (s : State) : Prop :=
  s.fus.k0.isSome = true ∧ s.fus.next ≠ 0 ∧ s.hlmGrid ((s.fus.next : Int) - 1) = true ∧
    s.hlm.ck ≠ some (s.fusF ((s.fus.next : Int) - 1)).toNat
theorem witness_HelmRunsItsCycle :
    (∃ s : State, s.live = true ∧ s.timeNow = false) ∧
    (∃ s : State, s.live = true ∧ s.timeNow = true ∧ s.rd HLM_CTRL_RUN = 0 ∧
      (admitBound s).ceil ≤ (1000 * ((s.rd HLM_TIME_CFG_QP_DL : Int) - (s.rd HLM_TIME_CFG_QP_REL : Int)) : Int)) ∧
    (∃ s : State, s.live = true ∧ s.timeNow = true ∧
      (1000 * ((s.rd HLM_TIME_CFG_QP_DL : Int) - (s.rd HLM_TIME_CFG_QP_REL : Int)) : Int) < (admitBound s).ceil) ∧
    (∃ s : State, s.live = true ∧ s.hlmOn = true ∧ HlmInstant s ∧ s.hlm.modeReq = none ∧ s.fusFlag 1 = false ∧ 2 ≤ s.hmode) ∧
    (∃ s : State, s.live = true ∧ s.hlmOn = true ∧ HlmInstant s ∧ s.hlm.modeReq = none ∧ s.fusFlag 1 = true ∧
      s.fusFlag 0 = false ∧ 3 ≤ s.hmode) ∧
    (∃ s : State, s.live = true ∧ s.hlmOn = true ∧ HlmInstant s ∧ s.hlm.modeReq = none ∧ s.fusFlag 1 = true ∧
      s.fusFlag 0 = true ∧ s.fusFlag 4 = false ∧ s.hmode = 4) ∧
    (∃ s : State, s.live = true ∧ s.hlmOn = true ∧ HlmInstant s ∧ s.hlm.modeReq = none ∧ s.fusFlag 1 = true ∧
      s.fusFlag 0 = true ∧ s.fusFlag 4 = true) ∧
    (∃ (w : Nat) (s : State), s.live = true ∧ s.hlmOn = true ∧ w = natOf (s.peek hlmRes 32) ∧ s.hlm.tag = some (bits w 32 12) ∧
      usableOutcome (bits w 0 8) = true ∧ s.hlm.falls ≠ 2) ∧
    (∃ (w : Nat) (s : State), s.live = true ∧ s.hlmOn = true ∧ w = natOf (s.peek hlmRes 32) ∧ s.hlm.tag = some (bits w 32 12) ∧
      usableOutcome (bits w 0 8) = false ∧ s.hlm.falls = 2) ∧
    (∃ (ck : Nat) (s : State), s.live = true ∧ s.hlmOn = true ∧ s.hlm.ck = some ck ∧ s.hlm.pubCk ≠ some ck ∧
      ck + 1000 * s.rd HLM_TIME_CFG_CMD_OFF ≤ s.now) ∧
    (∃ (mode : Fin 8) (s : State), s.live = true ∧ s.modeOk mode = true ∧ s.hmode ≠ mode) ∧
    (∃ (mode : Fin 8) (s : State), s.live = true ∧ s.modeOk mode = false) ∧
    (∃ s : State, s.live = true ∧ (∀ g ∈ s.fus.groups, g.contra = false) ∧ s.rd HLM_ALARM_ALLOC_FAIL = 0) ∧
    (∃ s : State, s.live = true ∧ s.rd HLM_ALARM_ALLOC_FAIL ≠ 0) :=
  ⟨⟨State.reset.wr HLM_TIME_CFG_QP_REL 0, by decide +kernel⟩, ⟨State.reset, by decide +kernel⟩,
    ⟨State.reset.wr HLM_TIME_CFG_QP_REL 9000, by decide +kernel⟩, ⟨hlmAt 4 0, by unfold HlmInstant; decide +kernel⟩,
    ⟨hlmAt 4 2, by unfold HlmInstant; decide +kernel⟩, ⟨hlmAt 4 3, by unfold HlmInstant; decide +kernel⟩,
    ⟨hlmAt 4 19, by unfold HlmInstant; decide +kernel⟩,
    ⟨0, { hlmAt 4 0 with hlm := { (hlmAt 4 0).hlm with tag := some 0 } }, by decide, by decide, by rw [hlmRes_zero _ rfl]; decide, by decide,
      by decide, by decide⟩,
    ⟨1, ({ hlmAt 4 0 with hlm := { (hlmAt 4 0).hlm with tag := some 0, falls := 2 } }).wrByte hlmRes 1, by decide, by decide,
      by rw [hlmRes_one _ rfl]; decide, by decide, by decide, by decide⟩,
    ⟨0, (hlmAt 4 0).wr HLM_TIME_CFG_CMD_OFF 0, by decide +kernel⟩, ⟨1, State.reset, by decide⟩, ⟨7, State.reset, by decide⟩, ⟨State.reset, by decide⟩,
    ⟨State.reset.wr HLM_ALARM_ALLOC_FAIL 1, by decide⟩⟩

/-! ### LoopsSampleAndPublish -/

/-- A coordinator with TOKEN whose loop 3 is enabled in a state, with what the loop carries. -/
def lpeAt (st : Nat) (l : LpeLoop) : State :=
  (((({ running .coordinator 1 0 with lpe := { loops := [LpeLoop.init, LpeLoop.init, LpeLoop.init, l], tick := some 0 } }).wr LPE_CTRL_RUN 1).wr
    PRD_STATUS_GATE 2).wr (LPE_LOOP_CFG_EN 3) 1).wr (LPE_LOOP_STAT_STATE 3) st |>.wr PTU_TIME_NS32 500000
theorem witness_LoopsSampleAndPublish :
    (∃ (n : Fin 64) (s : State), s.live = true ∧ s.rd (LPE_LOOP_CFG_EN n) = 0 ∧ loopClash s n = true ∧
      loopSum s n + 200 ≤ 100 * s.rd LPE_CTRL_OUT_OFF) ∧
    (∃ (n : Fin 64) (s : State), s.live = true ∧ s.rd (LPE_LOOP_CFG_EN n) = 0 ∧ 
      100 * s.rd LPE_CTRL_OUT_OFF < loopSum s n + 200) ∧
    (∃ (n : Fin 64) (s : State), s.live = true ∧ s.rd (LPE_LOOP_CFG_EN n) = 0 ∧ loopClash s n = false ∧
      loopSum s n + 200 ≤ 100 * s.rd LPE_CTRL_OUT_OFF) ∧
    (∃ (n : Fin 64) (s : State), s.live = true ∧ s.rd (LPE_LOOP_CFG_EN n) ≠ 0) ∧
    (∀ st < 4, ∃ (n : Fin 64) (l : LpeLoop) (s : State), s.live = true ∧ s.lpe.loops[n.val]? = some l ∧ s.lst n = st) ∧
    (∃ (n : Fin 64) (l : LpeLoop) (i : Nat) (s : State), LoopRuns s n l 1 ∧ l.cmd = some (true, i) ∧ s.due i = true) ∧
    (∃ (n : Fin 64) (l : LpeLoop) (s : State), LoopRuns s n l 2 ∧ l.cmd = none ∧ l.hold = false ∧
      s.rdS (LPE_LOOP_LIM_UMIN n) ≤ s.rdS (LPE_LOOP_LIM_UMAX n)) ∧
    (∃ s : State, s.lpeOn = false) ∧ (∃ s : State, s.lpe.tick = some s.baseTick) ∧ (∃ s : State, s.loopOutDue = false) ∧
    (∃ (n : Fin 64) (k : Fin 1024) (u : Int) (q : Nat) (s : State), s.live = true ∧ s.lpeOn = true ∧ s.loopOutDue = true ∧ (s.lp n).sampled = true ∧
      (s.lp n).out = some (u, q) ∧ s.rd (LPE_LOOP_IO_OUT_IDX n) = k ∧ (∀ m, m ≠ n.val → (s.lp m).out = none)) :=
  ⟨⟨0, State.reset.wr (LPE_LOOP_CFG_EN 1) 1, by decide +kernel⟩, ⟨0, State.reset.wr LPE_CTRL_OUT_OFF 0, by decide +kernel⟩,
    ⟨0, State.reset, by decide +kernel⟩, ⟨3, lpeAt 1 LpeLoop.init, by decide⟩,
    fun st h => ⟨3, LpeLoop.init, lpeAt st LpeLoop.init, by
      have : ∀ st < 4, (lpeAt st LpeLoop.init).live = true ∧ (lpeAt st LpeLoop.init).lpe.loops[(3 : Fin 64).val]? = some LpeLoop.init ∧
        (lpeAt st LpeLoop.init).lst 3 = st := by decide
      exact this st h⟩,
    ⟨3, { LpeLoop.init with cmd := some (true, 0) }, 0, lpeAt 1 { LpeLoop.init with cmd := some (true, 0) }, by
      unfold LoopRuns; decide +kernel⟩,
    ⟨3, LpeLoop.init, lpeAt 2 LpeLoop.init, by unfold LoopRuns; decide +kernel⟩, ⟨State.reset, by decide⟩,
    ⟨{ State.reset with lpe := { loops := [], tick := some 0 } }, by decide +kernel⟩, ⟨State.reset, by decide⟩,
    ⟨3, 0, 5, 0, lpeAt 2 { LpeLoop.init with sampled := true, out := some (5, 0) }, by decide, by decide, by decide +kernel, by decide, by decide, by decide, by
      intro m hm
      match m with
      | 0 => rfl
      | 1 => rfl
      | 2 => rfl
      | 3 => exact absurd rfl hm
      | k + 4 => rfl⟩⟩

/-! ### FabricPortsCarryFrames -/

/-- A node in service with port 0 in a state, port 1 open as UP with a role, and the header number of a frame. -/
def fabAt (st : Nat) : State :=
  (((((State.reset.wr ZFB_CTRL_RUN 1).wr (ZFB_PORT_STATE 0) st).wr (ZFB_PORT_STATE 1) 2).wr ZFB_ROUTE_CFG_UP 1).wr (ZFB_PORT_ROLE 1) 1)
def zhdr (cls dst ttl : Nat) : ZHdr := { cls := cls, dst := dst, blocks := 0, ttl := ttl, ver := 1 }
def zword (h : ZHdr) : WireWord := pipEncode (bytesOf 32 (hdrNum h))
def zfrm (own : Bool) : ZFrame := { hdr := { zhdr 4 5 9 with src := State.reset.cid, coord := true }, words := [], own := own }
def queuedAt (f : ZFrame) : State :=
  { fabAt 2 with zfb := { ZfbState.init with ports := [{ q := [f], tx := none }, ZPort.init] } }
def badWord : WireWord := { data := List.replicate 32 1, chk := [7, 9, 200, 3] }
theorem witness_FabricPortsCarryFrames :
    (∀ st < 4, ∃ (p : Fin 4) (s : State), s.live = true ∧ s.on ZFB_CTRL_RUN = true ∧ s.rd (ZFB_PORT_STATE p) = st) ∧
    (∃ (p : Fin 4) (s : State), s.live = true ∧ s.rd (ZFB_PORT_STATE p) = 2 ∧ s.rd (ZFB_PORT_ROLE p) ≠ 0 ∧ p.val ≤ 1 ∧ s.on ZFB_STATUS_GROUP = false) ∧
    (∀ b : Bool, ∃ (p : Nat) (f : ZFrame) (s : State), s.live = true ∧ s.zfb.deliv = some (p, f) ∧ f.hdr.cls = 7 ∧ f.hdr.aux = 4 ∧
      f.hdr.dst = 0 ∧ s.terminal = b) ∧
    pipData badWord = none ∧
    (∃ d, pipData (zword (zhdr 9 0 9)) = some d ∧ 8 < (hdrOf (natOf d)).cls) ∧
    (∃ d, pipData (zword (zhdr 2 0 9)) = some d ∧ GoodHdr (hdrOf (natOf d)) ∧ (hdrOf (natOf d)).cls = 2 ∧ (hdrOf (natOf d)).dst = 0 ∧
      (hdrOf (natOf d)).blocks = 0 ∧ clsBlocksOk 2 0 = true ∧ passWords [] = ([], true)) ∧
    (∃ d z, pipData (zword (zhdr 4 5 9)) = some d ∧ GoodHdr (hdrOf (natOf d)) ∧ (hdrOf (natOf d)).dst = 5 ∧
      (hdrOf (natOf d)).blocks = 0 ∧ (hdrOf (natOf d)).wrap = false ∧ (fabAt 2).on ZFB_STATUS_ASSIGNED = false ∧
      (fabAt 2).on ZFB_STATUS_GROUP = false ∧ (fabAt 2).on ZFB_STATUS_REVERSED = false ∧ (fabAt 2).routePort 5 = some (1 : Fin 4).val ∧
      (fabAt 2).rd (ZFB_PORT_STATE 1) = 2 ∧ (fabAt 2).zfb.ports[(1 : Fin 4).val]? = some z ∧ z.q = []) ∧
    (∀ b : Bool, ∃ (p : Fin 4) (z : ZPort) (f : ZFrame) (s : State), s.live = true ∧ s.on ZFB_CTRL_RUN = true ∧
      s.rd ZFB_TX_PTR_HEAD = s.rd ZFB_TX_PTR_TAIL ∧ s.zfb.ports[p.val]? = some z ∧ bestOf z.q = some f ∧ f.own = b ∧
      s.rd (ZFB_PORT_STATE p) = 2 ∧ f.hdr.src = s.cid ∧ f.hdr.coord = true ∧ s.holds = false ∧ z.q = [f]) :=
  ⟨fun st h => ⟨0, fabAt st, by
      have : ∀ st < 4, (fabAt st).live = true ∧ (fabAt st).on ZFB_CTRL_RUN = true ∧ (fabAt st).rd (ZFB_PORT_STATE (0 : Fin 4)) = st := by decide
      exact this st h⟩,
    ⟨1, fabAt 0, by decide⟩,
    fun b => match b with
      | true => ⟨0, noticeFrame, { fabAt 2 with zfb := { ZfbState.init with deliv := some (0, noticeFrame) } }, by decide +kernel⟩
      | false => ⟨0, noticeFrame, { fabAt 0 with zfb := { ZfbState.init with deliv := some (0, noticeFrame) } }, by decide +kernel⟩,
    by decide +kernel,
    ⟨bytesOf 32 (hdrNum (zhdr 9 0 9)), by decide +kernel⟩,
    ⟨bytesOf 32 (hdrNum (zhdr 2 0 9)), by unfold GoodHdr; decide +kernel⟩,
    ⟨bytesOf 32 (hdrNum (zhdr 4 5 9)), ZPort.init, by decide +kernel, by unfold GoodHdr; decide +kernel, by decide +kernel, by decide +kernel, by decide +kernel, by decide, by decide, by decide,
      by decide +kernel, by decide, rfl, rfl⟩,
    fun b => match b with
      | true => ⟨0, _, zfrm true, queuedAt (zfrm true), by decide, by decide, by decide, rfl, by decide +kernel⟩
      | false => ⟨0, _, zfrm false, queuedAt (zfrm false), by decide, by decide, by decide, rfl, by decide +kernel⟩⟩

/-! ### SweepsRecallsAndItemsCrossTheFabric -/

/-- A node whose fabric state is z, a member of the group. -/
def memberWith (z : ZfbState) : State := ({ State.reset with zfb := z }).wr ZFB_STATUS_GROUP 1
def delivered (cls aux : Nat) (ws : List WireWord) : ZfbState :=
  { ZfbState.init with deliv := some (0, { hdr := { zhdr cls 7 9 with aux := aux, src := 5 }, words := ws }) }
def itemWord (op effect seq : Nat) : WireWord := pipEncode (bytesOf 32 (op + effect <<< 64 + seq <<< 192))
def recallFrom (lo n : Nat) : List WireWord := [pipEncode (bytesOf 32 (n <<< 36)), pipEncode (bytesOf 32 (lo + (lo + 2) <<< 32))]
def itemState (op effect seq : Nat) : State :=
  (memberWith { delivered 4 0 [itemWord op effect seq] with cmdSeq := [(5, 3)] }).wr PTU_TIME_NS32 1000
/-- A COMMAND frame of one item stands delivered at 1000 ns, from a sender whose last CMD_SEQ was 3. -/
abbrev ItemSeen (op effect seq : Nat) : Prop :=
  (itemState op effect seq).live = true ∧ (itemState op effect seq).now = 1000 ∧
    (itemState op effect seq).zfb.deliv.map (fun x => (x.2.hdr.cls, x.2.words)) = some (4, [itemWord op effect seq]) ∧
    (pipData (itemWord op effect seq)).map (fun d => itemOf (natOf d)) =
      some { op := op, target := 0, effect := effect, value := 0, seq := seq, rsv := 0 }
/-- The holder at 2 s, sweep 7 with a frame missing. -/
def recallAt (r : List (Nat × (Nat × Nat))) : State :=
  (((memberWith { ZfbState.init with
    map := [{ id := 9, uid := 0, parent := 0, pport := 0, up := 0, level := 1, path := [], front := true }], recalls := r }).wr
    PRD_STATUS_GATE 2).wr PTU_TIME_NS32 2000000000)
theorem witness_SweepsRecallsAndItemsCrossTheFabric :
    (∃ s : State, s.works = true ∧ s.on ZFB_STATUS_ASSIGNED = true ∧ s.on CFE_STATUS_PRESENT = true ∧
      s.sch.last ≠ none) ∧
    (∀ b : Bool, ∃ (p : Nat) (f : ZFrame) (s : State), s.live = true ∧ s.zfb.deliv = some (p, f) ∧ f.hdr.cls = 3 ∧
      s.on ZFB_STATUS_GROUP = true ∧ s.zfb.got.contains (f.hdr.src, f.hdr.tag) = b) ∧
    (∃ (id : BitVec 32) (s : State), s.live = true ∧ Recalls s id.toNat ∧ RecallDue s id.toNat) ∧
    (∃ (id : BitVec 32) (s : State), s.live = true ∧ Recalls s id.toNat ∧ RepeatDue s id.toNat) ∧
    (∃ (p : Nat) (f : ZFrame) (s : State), s.live = true ∧ s.zfb.deliv = some (p, f) ∧ f.hdr.cls = 7 ∧ f.hdr.aux = 5 ∧
      Named s (payBytes f)) ∧
    (∃ (p : Nat) (f : ZFrame) (s : State), s.live = true ∧ s.zfb.deliv = some (p, f) ∧ f.hdr.cls = 7 ∧ f.hdr.aux = 5 ∧
      ¬ Named s (payBytes f)) ∧
    ItemSeen 9 0 0 ∧ ItemSeen 1 0 0 ∧ ItemSeen 1 0 5 ∧ ItemSeen 1 500000 5 ∧
    (∃ (e : Nat × CmdItem) (s : State), s.live = true ∧ s.zfb.held = [e] ∧ e.2.effect ≤ s.now ∧ LaterItem s e.1 e.2) ∧
    (∀ aux, aux = 3 ∨ aux = 6 → ∃ (p : Nat) (f : ZFrame) (s : State), s.live = true ∧ s.zfb.deliv = some (p, f) ∧ f.hdr.cls = 7 ∧
      f.hdr.aux = aux ∧ s.on ZFB_STATUS_GROUP = true) :=
  ⟨⟨(({ running .coordinator 1 0 with sch := { State.reset.sch with last := some 0 } }).wr ZFB_STATUS_ASSIGNED 1).wr CFE_STATUS_PRESENT 1, by decide⟩,
    fun b => match b with
      | true => ⟨0, _, memberWith { delivered 3 0 [] with got := [(5, 0)] }, by decide, rfl, by decide⟩
      | false => ⟨0, _, memberWith (delivered 3 0 []), by decide, rfl, by decide⟩,
    ⟨7, recallAt [], by unfold Recalls RecallDue; decide +kernel⟩,
    ⟨7, recallAt [(7, (1, 0))], by decide +kernel, by unfold Recalls; decide +kernel, 1, 0, by decide +kernel⟩,
    ⟨0, _, memberWith (delivered 7 5 (recallFrom 0 1)), by decide, rfl, rfl, rfl, by
      unfold Named; decide +kernel⟩,
    ⟨0, _, memberWith (delivered 7 5 (recallFrom 1 1)), by decide, rfl, rfl, rfl, by
      unfold Named; decide +kernel⟩,
    by decide +kernel, by decide +kernel, by decide +kernel, by decide +kernel,
    ⟨(5, wakeCmd), memberWith { ZfbState.init with held := [(5, wakeCmd)] }, by decide, rfl, by decide, fun q h => by simp [memberWith, ZfbState.init, aGet] at h⟩,
    fun aux h => ⟨0, { hdr := { zhdr 7 7 9 with aux := aux, src := 5 }, words := [] }, memberWith (delivered 7 aux []), by
      rcases h with rfl | rfl
      · exact ⟨rfl, rfl, rfl, rfl, rfl⟩
      · exact ⟨rfl, rfl, rfl, rfl, rfl⟩⟩⟩

/-! ### RollCallGivesANodeItsTables -/

def pendOf : RollPend :=
  { gen := 0, coord := 0, cN := [], proven := true, id := some 9, dom := 0, up := 7, table := [(3, 2 ^ 38 + 5 + 5 <<< 20)], route := 0, rate := [], act := none }
/-- A node whose port 0 has brought a message of this type, one hop from the coordinator. -/
def msgAt (type : Nat) (coord : Bool) (body : Bytes) (p : RollPend) : State :=
  { fabAt 1 with zfb := { ZfbState.init with
      deliv := some (0, { hdr := { zhdr (rollCls type) 0 9 with coord := coord, aux := type }, words := pathWord [0] 1 :: payWords body })
      pend := some p } }
theorem msg_seen : ∀ type ∈ [1, 3, 6, 7, 9, 10], ∃ m, FromOwn (msgAt type true [0] pendOf) type m ∧ m.port = 0 ∧
    field m.body 0 2 = 0 ∧ field m.body 2 1 = 0 ∧ field m.body 0 1 % 4 = 0 ∧ (pendTable pendOf m.body).2 = 0 := by
  unfold FromOwn Msg
  intro type h
  have : ∀ type ∈ [1, 3, 6, 7, 9, 10], (msgAt type true [0] pendOf).live = true ∧
      ((msgAt type true [0] pendOf).takeRoll type).2.isSome = true ∧
      ∀ m ∈ ((msgAt type true [0] pendOf).takeRoll type).2, (m.coord = true ∧ m.dom = (msgAt type true [0] pendOf).rd ZFB_DOM_CFG_DOMAIN) ∧ m.port = 0 ∧ field m.body 0 2 = 0 ∧ field m.body 2 1 = 0 ∧
        field m.body 0 1 % 4 = 0 ∧ (pendTable pendOf m.body).2 = 0 := by decide +kernel
  obtain ⟨h1, h2, h3⟩ := this type h
  obtain ⟨m, hm⟩ := Option.isSome_iff_exists.mp h2
  exact ⟨m, ⟨⟨h1, hm⟩, (h3 m hm).1⟩, (h3 m hm).2⟩
theorem witness_RollCallGivesANodeItsTables :
    (∀ type ∈ [1, 3, 6, 7, 9, 10], (∃ m s, FromOwn s type m ∧ s.zfb.pend = some pendOf) ∧
      ((msgAt type false [] pendOf).live = true ∧ ((msgAt type false [] pendOf).takeRoll type).2.map RollIn.coord = some false)) ∧
    (msgAt 3 true [0] pendOf).genOld 0 = false ∧ (msgAt 3 true [0] pendOf).mbx.devKey = none ∧
    (((msgAt 3 true [0] pendOf).wr ZFB_STATUS_ASSIGNED 1).wr ZFB_STATUS_GEN 5).genOld 0 = true ∧
    (pendTable pendOf [0, 60, 5]).2 = 1 ∧
    (pendTable pendOf [1, 0, 1, 0, 0, 0, 0, 0, 0, 5, 0, 80, 0, 64, 0, 0, 0]).2 = 5 ∧
    (msgAt 10 true [0] pendOf).rd (ZFB_PORT_STATE 0) = 1 ∧
    (∃ (p : RollPend) (i : Nat) (s : State), s.live = true ∧ s.zfb.pend = some p ∧ p.act = some i ∧ i ≤ s.now ∧ (∀ e ∈ p.table, e.1 < 256) ∧
      p.table ≠ [] ∧ (p.table.map Prod.fst).Nodup) :=
  ⟨fun type h => ⟨let ⟨m, hm⟩ := msg_seen type h; ⟨m, _, hm.1, rfl⟩, by
      have : ∀ type ∈ [1, 3, 6, 7, 9, 10], (msgAt type false [] pendOf).live = true ∧
        ((msgAt type false [] pendOf).takeRoll type).2.map RollIn.coord = some false := by decide +kernel
      exact this type h⟩,
    by decide, by decide, by decide, by decide +kernel, by decide +kernel, by decide,
    ⟨_, 0, msgAt 1 true [] { pendOf with act := some 0 }, by decide, rfl, rfl, by decide +kernel, by decide⟩⟩

/-! ### TheCoordinatorRunsRollCall -/

def rnode (id : Nat) (uid : BitVec 64) : RollNode :=
  { id := id, uid := uid, parent := 0, pport := 2, up := 2, level := 1, path := [0], front := false }
def pres0 : Present := presentOf []
def rollAuth0 : RollAuth := { pres := pres0, offer := 5, cC := [] }
def run1 (ph : RollPhase) (auth : Option RollAuth) (tries : Nat) (uid : BitVec 64) : RollRun :=
  { gen := 1, phase := ph, nodes := [rnode 2 uid], links := [], todo := [(0, 0), (0, 1)], level := 0, tries := tries, fails := 0
    auth := auth, wait := [(0, 6)] }
/-- A holder with a run under way and a message delivered. -/
def runAt (type : Nat) (path : List Nat) (body : Bytes) (r : Option RollRun) : State :=
  { (fabAt 1).wr PRD_STATUS_GATE 2 with zfb := { ZfbState.init with
      deliv := some (0, { hdr := { zhdr (rollCls type) 0 9 with aux := type }, words := pathWord path path.length :: payWords body })
      run := r } }
def rejAt (n : Nat) : State := { State.reset with zfb := { ZfbState.init with rejoin := some (3, 1), rejTries := n } }
def upAt (r : Option RollRun) : State := (memberWith { delivered 7 2 [] with run := r }).wr PRD_STATUS_GATE 2
/-- The state with a key of zeros for UID 0. -/
def keyed (s : State) : State := s.wrWord (0x20020000 / 32) (List.replicate 32 0)
/-- A message of the type is seen with this type and status in its body. -/
abbrev Seen (s : State) (type : Nat) (back : List Nat) (a b : Nat) : Prop :=
  s.live = true ∧ (s.takeRoll type).2.isSome = true ∧ s.holds = true ∧
    ∀ m ∈ (s.takeRoll type).2, m.back = back ∧ field m.body 0 1 = a ∧ field m.body 1 1 = b
theorem msg_of_seen {s : State} {type a b : Nat} {back : List Nat} (h : Seen s type back a b) :
    ∃ m, Msg s type m ∧ m.back = back ∧ field m.body 0 1 = a ∧ field m.body 1 1 = b := by
  obtain ⟨m, hm⟩ := Option.isSome_iff_exists.mp h.2.1
  exact ⟨m, ⟨h.1, hm⟩, h.2.2.2 m hm⟩
/-- The key of zeros is found. -/
theorem keyOf_keyed (s : State) (h : pipData ((keyed s).rdRaw (0x20020000 / 32)) = some (List.replicate 32 0))
    (h' : (keyed s).rdRaw (0x20020000 / 32) ≠ erasedWord) : (keyed s).keyOf 0 = some (List.replicate 16 0) := by
  unfold State.keyOf
  rw [show (65536 : Nat) = 65535 + 1 from rfl, List.range_succ_eq_map, List.findSome?_cons]
  simp only [Nat.mul_zero, Nat.add_zero, h, h', if_false]
  rfl
theorem new_seen : ∀ m ∈ ((keyed (runAt 2 [0, 0] [] (some (run1 .probing none 0 1)))).takeRoll 2).2,
    ((run1 .probing none 0 1).nodes.find? fun e => e.uid = (presentOf m.body).uid) = none ∧
      (presentOf m.body).dom = (keyed (runAt 2 [0, 0] [] (some (run1 .probing none 0 1)))).rd ZFB_DOM_CFG_DOMAIN ∧ (presentOf m.body).role = 0 ∧
      (keyed (runAt 2 [0, 0] [] (some (run1 .probing none 0 1)))).keyOf (presentOf m.body).uid = some (List.replicate 16 0) := by
  intro m hm
  have h1 : ∀ m ∈ ((keyed (runAt 2 [0, 0] [] (some (run1 .probing none 0 1)))).takeRoll 2).2,
    ((run1 .probing none 0 1).nodes.find? fun e => e.uid = (presentOf m.body).uid) = none ∧
      (presentOf m.body).dom = (keyed (runAt 2 [0, 0] [] (some (run1 .probing none 0 1)))).rd ZFB_DOM_CFG_DOMAIN ∧ (presentOf m.body).role = 0 ∧
      (presentOf m.body).uid = 0 := by decide +kernel
  obtain ⟨a, b, c, d⟩ := h1 m hm
  exact ⟨a, b, c, by rw [d]; exact keyOf_keyed _ (by decide +kernel) (by decide +kernel)⟩
theorem shaRound_length (v : List W32) (kw : W32 × W32) : (shaRound v kw).length = 8 := rfl
theorem shaFold_length (l : List (W32 × W32)) (v : List W32) (h : v.length = 8) : (l.foldl shaRound v).length = 8 := by
  induction l generalizing v with
  | nil => exact h
  | cons x l ih => exact ih _ (shaRound_length v x)
theorem shaBlocks_length (n : Nat) (m : Bytes) (h : List W32) (hh : h.length = 8) : (shaBlocks n m h).length = 8 := by
  induction n generalizing m h with
  | zero => exact hh
  | succ n ih =>
    apply ih
    simp only [shaBlock, List.length_zipWith, shaFold_length _ _ hh, hh, Nat.min_self]
theorem be32_flat_length (l : List W32) : (l.flatMap be32Bytes).length = 4 * l.length := by
  induction l with
  | nil => rfl
  | cons x l ih => simp only [List.flatMap_cons, List.length_append, ih, List.length_cons, be32Bytes, List.length_nil]; omega
theorem sha256_length (m : Bytes) : (sha256 m).length = 32 := by
  simp only [sha256, be32_flat_length, shaBlocks_length _ _ _ (show shaInit.length = 8 from rfl)]
theorem hmac_length (k m : Bytes) : (hmac k m).length = 32 := sha256_length _
theorem slice_whole (b : Bytes) (h : b.length = 32) : slice b 0 32 = b := by
  apply List.ext_getElem
  · simp [slice, h]
  · intro i h1 h2
    simp [slice, List.getD, h2]
/-- A module from which an ANSWER of one word has come. -/
def answeredAt (w : WireWord) : State :=
  { keyed ((fabAt 1).wr PRD_STATUS_GATE 2) with zfb := { ZfbState.init with
      deliv := some (0, { hdr := { zhdr 1 0 9 with aux := 4 }, words := [pathWord [0, 0] 2, w] })
      run := some (run1 .probing (some rollAuth0) 0 1) } }
theorem answeredAt_path : pathOf (natOf ((pipData (pathWord [0, 0] 2)).getD [])) = ([0, 0], 2) := by decide +kernel
theorem answeredAt_msg (w : WireWord) (d : Bytes) (hp : pipData w = some d) :
    Msg (answeredAt w) 4 { port := 0, back := [0, 0], coord := false, dom := 0, body := d } := by
  have e : [w].flatMap (fun w => (pipData w).getD []) = d := by simp [hp]
  have h0 : pathOf (natOf ((([pathWord [0, 0] 2, w].head?).bind pipData).getD [])) = ([0, 0], 2) := by
    rw [List.head?_cons, Option.bind_some]; exact answeredAt_path
  refine ⟨rfl, ?_⟩
  unfold State.takeRoll
  have hd : (answeredAt w).zfb.deliv = some (0, { hdr := { zhdr 1 0 9 with aux := 4 }, words := [pathWord [0, 0] 2, w] }) := rfl
  rw [hd]
  dsimp only
  rw [if_pos (by rfl), h0]
  dsimp only [List.drop]
  rw [e]
  rfl
theorem keyOf_congr {s t : State} (h : ∀ w, s.rdRaw w = t.rdRaw w) (u : BitVec 64) : s.keyOf u = t.keyOf u := by
  simp only [State.keyOf, h]
theorem base_key : (keyed ((fabAt 1).wr PRD_STATUS_GATE 2)).keyOf 0 = some (List.replicate 16 0) :=
  keyOf_keyed _ (by decide +kernel) (by decide +kernel)
theorem answeredAt_key (w : WireWord) : (answeredAt w).keyOf 0 = some (List.replicate 16 0) :=
  (keyOf_congr (t := keyed ((fabAt 1).wr PRD_STATUS_GATE 2)) (fun _ => by simp only [State.rdRaw, State.rdByte, State.rdChk, State.shipped, answeredAt]; rfl) 0).trans
    base_key
theorem answeredAt_ok (w : WireWord) (b : Bytes) (h : b = hmac (List.replicate 16 0) (proofMsg 0x4A [] 0 Config.uid 0 1 5)) :
    (answeredAt w).answerOk rollAuth0 1 b = true := by
  unfold State.answerOk
  rw [show rollAuth0.pres.uid = 0 by decide +kernel, answeredAt_key]
  rw [show (answeredAt w).rd ZFB_DOM_CFG_DOMAIN = 0 from rfl]
  exact decide_eq_true h
theorem witness_goodAnswer (h : Obligations.PipEncodedWordReadsClean) :
    ∃ w m, Msg (answeredAt w) 4 m ∧ m.back = (run1 .probing (some rollAuth0) 0 1).front ∧ AskingAt (answeredAt w) (run1 .probing (some rollAuth0) 0 1) rollAuth0 (0, 0) [(0, 1)] ∧
      (answeredAt w).answerOk rollAuth0 1 (slice m.body 0 32) = true := by
  obtain ⟨d, hd⟩ : ∃ d, d = hmac (List.replicate 16 0) (proofMsg 0x4A [] 0 Config.uid 0 1 5) := ⟨_, rfl⟩
  have hl : d.length = 32 := hd ▸ hmac_length _ _
  exact ⟨pipEncode d, _, answeredAt_msg _ d (by unfold pipData; rw [h d hl]), rfl, ⟨rfl, rfl, rfl⟩,
    answeredAt_ok _ _ (by rw [slice_whole _ hl, hd])⟩
theorem witness_TheCoordinatorRunsRollCall :
    (∃ s : State, s.live = true ∧ s.holds = false ∧ s.zfb.again = none) ∧
    (∃ s : State, s.live = true ∧ s.holds = true ∧ s.zfb.run = none ∧ s.half2 = false ∧ s.zfb.again = some 0 ∧ 250000000 ≤ s.ticks) ∧ (∃ s : State, s.live = true ∧ s.holds = true ∧ s.zfb.run = none ∧ s.half2 = true) ∧
    (∃ r x y rest s, s.live = true ∧ ProbingAt s r x (y :: rest) ∧ r.tries < 2) ∧
    (∃ r x y rest s, s.live = true ∧ ProbingAt s r x (y :: rest) ∧ 2 ≤ r.tries) ∧
    (∀ n : Nat, ∃ (id port : Nat) (s : State), s.live = true ∧ s.zfb.run = none ∧ s.zfb.rejoin = some (id, port) ∧ s.zfb.rejTries = n) ∧
    (∃ (r : RollRun) (s : State), Seen s 2 [0, 0] 0 0 ∧ ProbingAt s r (0, 0) [(0, 1)] ∧ r.front = [0, 0] ∧ (∀ m ∈ (s.takeRoll 2).2, (r.nodes.find? fun e => e.uid = (presentOf m.body).uid) = none ∧
      (presentOf m.body).dom = s.rd ZFB_DOM_CFG_DOMAIN ∧ (presentOf m.body).role = 0 ∧ s.keyOf (presentOf m.body).uid = some (List.replicate 16 0)) ∧
      s.nextId r < s.cid + s.rd ZFB_DOM_CFG_ID_COUNT) ∧
    (∃ r : RollRun, Seen (runAt 2 [0, 0] [] (some r)) 2 [0, 0] 0 0 ∧ ProbingAt (runAt 2 [0, 0] [] (some r)) r (0, 0) [(0, 1)] ∧ r.nodes[0]? = some (rnode 2 0) ∧
      (r.nodes.find? fun e => e.uid = 0) = some (rnode 2 0)) ∧
    (∃ r a, Seen (runAt 5 [0, 0] [] (some r)) 5 [0, 0] 0 0 ∧ AskingAt (runAt 5 [0, 0] [] (some r)) r a (0, 0) [(0, 1)] ∧ r.front = [0, 0] ∧ r.fails < 2) ∧
    (∃ r a, Seen (runAt 4 [0, 0] [] (some r)) 4 [0, 0] 0 0 ∧ AskingAt (runAt 4 [0, 0] [] (some r)) r a (0, 0) [(0, 1)] ∧ r.front = [0, 0] ∧ r.fails < 2) ∧
    (∀ a b, (a, b) ∈ [(6, 5), (6, 0), (7, 0)] → ∃ r, Seen (runAt 8 [0] [BitVec.ofNat 8 a, BitVec.ofNat 8 b] (some r)) 8 [0] a b ∧ r.phase = .tables ∧
      (r.nodes.findIdx? fun e => e.path = [0]) = some 0 ∧ r.wait = [(0, 6)]) ∧
    (∀ r : Option RollRun, ∃ (p : Nat) (f : ZFrame) (s : State), s.live = true ∧ s.holds = true ∧ s.zfb.deliv = some (p, f) ∧ f.hdr.cls = 7 ∧ f.hdr.aux = 2 ∧
      s.on ZFB_STATUS_GROUP = true ∧ s.zfb.run = r) :=
  ⟨⟨State.reset, by decide⟩,
    ⟨({ State.reset with ticks := 250000000, zfb := { ZfbState.init with again := some 0 } }).wr PRD_STATUS_GATE 2, by decide⟩,
    ⟨({ running .coordinator 2 2 with zfb := ZfbState.init }).wr PRD_STATUS_GATE 2, by decide⟩,
    ⟨run1 .probing none 0 0, _, _, _, runAt 2 [0, 0] [] (some (run1 .probing none 0 0)), by decide, ⟨rfl, rfl, rfl, rfl⟩, by decide⟩,
    ⟨run1 .probing none 2 0, _, _, _, runAt 2 [0, 0] [] (some (run1 .probing none 2 0)), by decide, ⟨rfl, rfl, rfl, rfl⟩, by decide⟩,
    fun n => ⟨3, 1, rejAt n, rfl, rfl, rfl, rfl⟩,
    ⟨run1 .probing none 0 1, keyed (runAt 2 [0, 0] [] (some (run1 .probing none 0 1))), by decide +kernel, ⟨rfl, rfl, rfl, rfl⟩, rfl, new_seen, by decide +kernel⟩,
    ⟨run1 .probing none 0 0, by decide +kernel, ⟨rfl, rfl, rfl, rfl⟩, rfl, by decide⟩,
    ⟨run1 .probing (some rollAuth0) 0 0, rollAuth0, by decide +kernel, ⟨rfl, rfl, rfl⟩, rfl, by decide⟩,
    ⟨run1 .probing (some rollAuth0) 0 0, rollAuth0, by decide +kernel, ⟨rfl, rfl, rfl⟩, rfl, by decide⟩,
    fun a b h => ⟨run1 .tables none 0 0, by
      have : ∀ x ∈ [(6, 5), (6, 0), (7, 0)], Seen (runAt 8 [0] [BitVec.ofNat 8 x.1, BitVec.ofNat 8 x.2] (some (run1 .tables none 0 0))) 8 [0] x.1 x.2 ∧
        (run1 .tables none 0 0).phase = .tables ∧ ((run1 .tables none 0 0).nodes.findIdx? fun e => e.path = [0]) = some 0 ∧
        (run1 .tables none 0 0).wait = [(0, 6)] := by decide +kernel
      exact this (a, b) h⟩,
    fun r => ⟨0, _, upAt r, rfl, rfl, rfl, rfl, rfl, rfl, rfl⟩⟩

/-! ### TasksAreReleasedCopiedAndCompleted -/

/-- A TASKS section with one task: its kind, one output signal. -/
def tasksSec (kind : Nat) : Bytes :=
  [0, 0, 0, 0, 0, 1] ++ List.replicate 58 0 ++ ([0, BitVec.ofNat 8 kind] ++ List.replicate 36 0 ++ [1, 0, 128, 0, 0, 0] ++ List.replicate 20 0) ++ [7, 0, 0, 0]
/-- A SIGNALS section with one field output signal at channel 0, ID 7. -/
def sigSec : Bytes := [1] ++ List.replicate 31 0 ++ ([7, 0, 0, 0, 0, 2, 1, 0, 16] ++ List.replicate 23 0)
/-- A monitor whose one task, in a state of its own, is of a kind, with the controller in a state. -/
def crtAt (kind st latched : Nat) (x : CrtTask) : State :=
  (({ running .monitor 0 0 with
      cfg := { CfgState.init with secs := [(6, tasksSec kind), (7, sigSec)] }
      crt := { CrtState.init with tasks := [x] } }).wr CRT_STATUS_STATE st).wr (CRT_TASK_STAT_STATE 0) 1 |>.wr (CRT_TASK_STAT_LATCHED 0) latched
/-- The task of the section, released. -/
def busy (kind : Nat) : CrtTask := { CrtTask.init with d := some (taskDesc (tasksSec kind) 0), prog := true, rel := some 0 }
def evtAt (latched : Nat) (x : CrtTask) : State :=
  { crtAt 1 1 latched x with crt := { CrtState.init with tasks := [x], evts := [0] } }
abbrev TaskSeen (s : State) (kind : Nat) (x : CrtTask) : Prop :=
  s.live = true ∧ (s.desc 0).map TaskDesc.kind = some kind ∧ s.crt.tasks[0]? = some x
abbrev InstSeen (s : State) (kind : Nat) (x : CrtTask) : Prop :=
  s.live = true ∧ s.crt.tasks[0]? = some x ∧ x.d = some (taskDesc (tasksSec kind) 0) ∧
    s.instAt 0 (taskDesc (tasksSec kind) 0).inOff ≤ s.now ∧ s.instAt 0 (taskDesc (tasksSec kind) 0).outOff ≤ s.now
def ready1 : CrtTask := { busy 0 with prog := false, ready := true, out := [1] }
theorem witness_TasksAreReleasedCopiedAndCompleted :
    (TaskSeen (crtAt 0 1 0 CrtTask.init) 0 CrtTask.init ∧ ((crtAt 0 1 0 CrtTask.init).desc 0).all fun d =>
      (crtAt 0 1 0 CrtTask.init).cycleOf d = some 0 && (crtAt 0 1 0 CrtTask.init).releaseDue 0 d 0) ∧
    (TaskSeen (crtAt 0 1 0 (busy 0)) 0 (busy 0) ∧ ((crtAt 0 1 0 (busy 0)).desc 0).all fun d =>
      (crtAt 0 1 0 (busy 0)).cycleOf d = some 0 && !(crtAt 0 1 0 (busy 0)).releaseDue 0 d 0) ∧
    (∀ l < 2, TaskSeen (evtAt l CrtTask.init) 1 CrtTask.init ∧ (evtAt l CrtTask.init).rd (CRT_TASK_STAT_LATCHED 0) = l ∧
      (evtAt l CrtTask.init).crt.evts.contains 0 = true ∧
      ((evtAt l CrtTask.init).desc 0).all fun d => (evtAt l CrtTask.init).mayRelease 0 d && (evtAt l CrtTask.init).taskFree 0 &&
        (evtAt l CrtTask.init).sepOver 0 d) ∧
    (TaskSeen (evtAt 0 (busy 1)) 1 (busy 1) ∧ ((evtAt 0 (busy 1)).desc 0).all fun d =>
      (evtAt 0 (busy 1)).mayRelease 0 d && !(evtAt 0 (busy 1)).taskFree 0) ∧
    (InstSeen (crtAt 0 1 0 (busy 0)) 0 (busy 0) ∧ (busy 0).copied = false ∧ (crtAt 0 1 0 (busy 0)).stnDescs.length = 0) ∧
    (InstSeen (crtAt 0 1 0 { busy 0 with copied := true }) 0 { busy 0 with copied := true } ∧
      (crtAt 0 1 0 { busy 0 with copied := true }).coreRuns (taskDesc (tasksSec 0) 0).core = some 0) ∧
    ((crtAt 0 1 0 (busy 0)).rd CRT_STATUS_STATE = 1 ∧ (crtAt 0 1 0 (busy 0)).rd (CRT_TASK_STAT_STATE 0) = 1 ∧
      (crtAt 0 1 0 (busy 0)).rd CRT_CTRL_OVR_RELEASE = 0 ∧ (crtAt 0 1 0 (busy 0)).sigs.length = 1 ∧
      (crtAt 0 1 0 (busy 0)).sigs.all fun g => g.kind = 1) ∧
    (InstSeen (crtAt 0 0 0 (busy 0)) 0 (busy 0) ∧ (crtAt 0 0 0 (busy 0)).rd CRT_STATUS_STATE ≠ 1 ∧ (crtAt 0 0 0 (busy 0)).stopSafe 0 = false) ∧
    (InstSeen (crtAt 0 1 0 ready1) 0 ready1 ∧ (crtAt 0 1 0 ready1).stopSafe 0 = false ∧ (taskDesc (tasksSec 0) 0).outs = [7] ∧
      ((crtAt 0 1 0 ready1).sig 7).map (fun g => (g.id, g.cls, g.kind, g.bind)) = some (7, 2, 1, 16)) := by
  refine ⟨?_, ?_, ?_, ?_, ?_, ?_, ?_, ?_, ?_⟩ <;> decide +kernel

/-! ### TheRuntimeObeysItsCommandsAndStations -/

def itemOp (op target : Nat) : CmdItem := { op := op, target := target, effect := 0, value := 3, seq := 0, rsv := 0 }
/-- A SIGNALS section with one signal of ID 7, of a BIND_KIND and with FLAGS, and one station at node 5. -/
def sigSec1 (kind flags : Nat) : Bytes :=
  [1, 0, 0, 0, 1, 0, 0, 0, 5] ++ List.replicate 23 0 ++ ([7, 0, 0, 0, 0, 1, BitVec.ofNat 8 kind, BitVec.ofNat 8 flags] ++ List.replicate 24 0)
    ++ ([5] ++ List.replicate 15 0)
def crtWith (sec : Bytes) (c : CrtState) (z : ZfbState) : State :=
  { running .monitor 0 0 with cfg := { CfgState.init with secs := [(7, sec)] }, crt := c, zfb := z }
def stnFrame (typ flags : Nat) : ZfbState :=
  { ZfbState.init with deliv := some (0, { hdr := { zhdr 8 7 9 with aux := 0x10, src := 5 }, words := stnWords typ flags 3 0 [9] }) }
theorem witness_TheRuntimeObeysItsCommandsAndStations :
    (∃ s : State, s.live = true ∧ s.crtOn = true ∧ s.rd CRT_STATUS_STATE = 0 ∧ s.rd CRT_STATUS_IMAGE_OK ≠ 0) ∧
    (∀ st < 3, ∃ s : State, s.live = true ∧ s.rd CRT_STATUS_STATE = st ∧ RuntimeBound s) ∧
    (∃ (m : BitVec 64) (s : State) (k : Fin 64), s.live = true ∧ m.toNat.testBit k = true ∧ s.rd (CRT_STN_STAT_STATE k) ≠ 3) ∧
    (∃ (m : BitVec 64) (s : State), s.live = true ∧ m.toNat.testBit 63 = true ∧
      ∀ k : Fin 64, m.toNat.testBit k = true → s.rd (CRT_STN_STAT_STATE k) = 3) ∧
    (∀ op, op = 1 ∨ op = 2 → ∃ (src : Nat) (i : CmdItem) (s : State), s.live = true ∧ (s.zfb.handed.find? fun e => e.2.op = op) = some (src, i)) ∧
    (∃ (i : CmdItem) (s : State), s.live = true ∧ (s.zfb.handed.find? fun e => e.2.op = 2) = some (0, i) ∧
      (s.sig i.target).map Sig.kind = some 5) ∧
    (∃ s : State, s.live = true ∧ (s.exported false).length = 1 ∧ s.start.phase = .running ∧ s.on ZFB_STATUS_ASSIGNED = false ∧ s.on ZFB_STATUS_GROUP = false) ∧
    (∃ s : State, s.live = true ∧ (s.takeStn 1).2 = some (5, 4, 3, 0, [9]) ∧
      ((s.stnDescs.zipIdx.find? fun e => e.1.node = 5).map fun e => e.2) = some (0 : Fin 64).val ∧ s.crt.stns[0]? = some CrtStn.init) ∧
    (∃ s : State, s.live = true ∧ (s.takeStn 2).2 = some (5, 0, 3, 0, [9]) ∧ s.stnMaster = 5 ∧ s.crt.wdt = false) ∧
    (∃ s : State, s.live = true ∧ (s.takeStn 2).2 = some (5, 0, 3, 0, [9]) ∧ s.crt.wdt = true) ∧
    (∀ h : Option CrtHeld, ∃ s : State, s.live = true ∧ s.exported true ≠ [] ∧ s.crt.held = h ∧ s.ns32 = 0) ∧
    (∃ (p : Nat) (f : ZFrame) (s : State), s.live = true ∧ s.zfb.deliv = some (p, f) ∧ f.hdr.cls = 7 ∧ f.hdr.aux = 1 ∧
      s.on ZFB_STATUS_GROUP = true ∧ s.stnDescs.length ≤ 64 ∧ s.holds = true) :=
  ⟨⟨(running .monitor 0 0).wr CRT_STATUS_IMAGE_OK 1, by decide +kernel⟩,
    fun st h => ⟨State.reset.wr CRT_STATUS_STATE st, by
      have : ∀ st < 3, (State.reset.wr CRT_STATUS_STATE st).live = true ∧ (State.reset.wr CRT_STATUS_STATE st).rd CRT_STATUS_STATE = st ∧
        RuntimeBound (State.reset.wr CRT_STATUS_STATE st) := by unfold RuntimeBound; decide +kernel
      exact this st h⟩,
    ⟨1, State.reset, 0, by decide⟩, ⟨2 ^ 63, State.reset.wr (CRT_STN_STAT_STATE 63) 3, by decide +kernel⟩,
    fun op _ => ⟨0, itemOp op 7, crtWith (sigSec1 5 0) CrtState.init { ZfbState.init with handed := [(0, itemOp op 7)] }, rfl, by
      simp [crtWith, itemOp]⟩,
    ⟨itemOp 2 7, crtWith (sigSec1 5 0) CrtState.init { ZfbState.init with handed := [(0, itemOp 2 7)] }, by decide +kernel⟩,
    ⟨crtWith (sigSec1 1 1) CrtState.init ZfbState.init, by decide +kernel⟩,
    ⟨crtWith (sigSec1 1 1) CrtState.init (stnFrame 1 4), by decide +kernel⟩,
    ⟨crtWith (sigSec1 1 2) CrtState.init (stnFrame 2 0), by decide +kernel⟩,
    ⟨crtWith (sigSec1 1 2) { CrtState.init with wdt := true } (stnFrame 2 0), by decide +kernel⟩,
    fun h => ⟨crtWith (sigSec1 1 2) { CrtState.init with held := h } ZfbState.init, rfl, by
      have : ((crtWith (sigSec1 1 2) CrtState.init ZfbState.init).exported true).length ≠ 0 := by decide +kernel
      exact fun e => this (congrArg List.length e), rfl, rfl⟩,
    ⟨0, { hdr := { zhdr 7 7 9 with aux := 1, src := 5 }, words := [] }, (memberWith (delivered 7 1 [])).wr PRD_STATUS_GATE 2, by decide +kernel⟩⟩

/-! ### TheFieldSideFollowsItsFrames -/

def fieldAt (f : FieldSide) : State := { State.reset with fio := { FioState.init with field := f } }
/-- The same at 1 s. -/
def fieldAt' (f : FieldSide) : State := { fieldAt f with ticks := 250000000 }
def down0 (sync : Bool) (op : Nat) : FioDown :=
  { sync := sync, seq := 1, out := 3, opcode := op, addr := 4, data := 9, crc := fioDownCrc { sync := sync, seq := 1, out := 3, opcode := op, addr := 4, data := 9, crc := 0 } }
theorem witness_TheFieldSideFollowsItsFrames :
    (∀ op < 3, ∃ (d : FioDown) (s : State), s.fio.field.accepts d = true ∧ d.opcode = op ∧ d.addr ∈ fieldHeld) ∧
    (∃ (d : FioDown) (s : State), s.fio.field.accepts d = false) ∧
    (∀ st < 3, ∃ (d : FioDown) (s : State), d.sync = true ∧ d.crc = fioDownCrc d ∧ s.fio.field.st = st) ∧
    (∃ (a : FioUp) (s : State), s.fio.field.answer = some a) ∧
    (∀ st, st = 2 ∨ st = 1 → ∃ s : State, s.fio.field.st = st ∧
      s.fio.field.accTick + 250 * bits (s.fio.field.cfg 0x04) 0 9 ≤ s.ticks + 375) ∧
    (∃ s : State, s.fio.field.st = 2 ∧ s.ticks + 375 < s.fio.field.accTick + 250 * bits (s.fio.field.cfg 0x04) 0 9) ∧
    (∃ (n : Fin 16) (s : State), s.fio.field.act.testBit n = true ∧ s.fio.field.openEn n = true ∧ s.fio.field.st ≠ 0 ∧
      s.fio.field.actFor n 5000000 s.ticks = true ∧ s.fio.field.actFor n (s.fio.field.ovlT n) s.ticks = true ∧
      s.fio.field.actFor n (s.fio.field.rbT n) s.ticks = true ∧ s.fio.field.chgTick.getD n 0 + s.fio.field.debT n ≤ s.ticks) ∧
    (∃ (n : Fin 16) (s : State), s.fio.field.act.testBit n = true ∧ s.fio.field.openEn n = true ∧ s.fio.field.st ≠ 0 ∧
      s.fio.field.actFor n 5000000 s.ticks = false ∧ s.fio.field.actFor n (s.fio.field.ovlT n) s.ticks = false ∧
      s.fio.field.actFor n (s.fio.field.rbT n) s.ticks = false ∧ s.ticks < s.fio.field.chgTick.getD n 0 + s.fio.field.debT n) ∧
    (∃ (n : Fin 16) (s : State), s.fio.field.restart n = true ∧ RetryHeld s n) ∧
    (∃ (n : Fin 16) (s : State), s.fio.field.restart n = true ∧ ¬ RetryHeld s n) ∧
    (∃ (n : Fin 16) (s : State), s.fio.field.restart n = false ∧ s.fio.field.act.testBit n = false) :=
  ⟨fun op h => ⟨down0 false op, fieldAt { FieldSide.init with st := 2 }, by
      have : ∀ op < 3, (fieldAt { FieldSide.init with st := 2 }).fio.field.accepts (down0 false op) = true ∧ (down0 false op).opcode = op ∧
        (down0 false op).addr ∈ fieldHeld := by decide +kernel
      exact this op h⟩,
    ⟨down0 true 0, fieldAt FieldSide.init, by decide +kernel⟩,
    fun st _ => ⟨down0 true 0, fieldAt { FieldSide.init with st := st }, rfl, by decide +kernel, rfl⟩,
    ⟨_, fieldAt { FieldSide.init with answer := some (FieldSide.init.mkAnswer 0) }, rfl⟩,
    fun st h => ⟨fieldAt' { FieldSide.init with st := st }, rfl, by rcases h with rfl | rfl <;> decide +kernel⟩,
    ⟨fieldAt { FieldSide.init with st := 2, accTick := 1000 }, by decide +kernel⟩,
    ⟨3, fieldAt' { FieldSide.init with st := 2, act := 8 }, by decide +kernel⟩,
    ⟨3, fieldAt { FieldSide.init with st := 2, act := 8 }, by decide +kernel⟩,
    ⟨3, fieldAt' { FieldSide.init with held := [(0x23, 0x100)] }, by unfold RetryHeld; decide +kernel⟩,
    ⟨3, fieldAt { FieldSide.init with held := [(0x23, 0x101)] }, by unfold RetryHeld; decide +kernel⟩,
    ⟨3, fieldAt FieldSide.init, by decide +kernel⟩⟩

/-! ### TheLogicSideDrivesTheField -/

def upOk (disc : Nat) : FioUp :=
  { FieldSide.init.mkAnswer 0 with disc := disc, crc := fioUpCrc { FieldSide.init.mkAnswer 0 with disc := disc } }
def fioOn (c : FioState) : State := ({ State.reset with fio := c }).wr FIO_CTRL_ENABLE 1
theorem witness_TheLogicSideDrivesTheField :
    (∃ s : State, s.live = true ∧ s.rd FIO_CTRL_ENABLE = 0 ∧ s.rd FIO_STATUS_LINK = 0) ∧
    (∀ b c : Bool, ∀ m q, ∃ s : State, s.live = true ∧ s.rd FIO_CTRL_ENABLE ≠ 0 ∧ s.rd PRD_STATUS_GATE ≠ 3 ∧ s.fio.syncing = b ∧
      s.fio.answered = c ∧ s.fio.mism = m ∧ s.fio.op = none ∧ s.fio.queue = q) ∧
    (upOk 0).crc = fioUpCrc (upOk 0) ∧ { upOk 0 with crc := (upOk 0).crc + 1 }.crc ≠ fioUpCrc { upOk 0 with crc := (upOk 0).crc + 1 } ∧
    (∃ s : State, s.live = true ∧ ∀ n : Fin 16, s.rd (FIO_OUT_CFG_DISC_REL n) = 0) ∧
    (∃ s : State, s.live = true ∧ (upOk 4).crc = fioUpCrc (upOk 4) ∧ s.holds = true ∧ ∃ n : Fin 16, (upOk 4).disc.testBit n = true ∧
      (s.rd FIO_FAULT_DISC).testBit n = false ∧ s.rd (FIO_OUT_CFG_DISC_REL n) ≠ 0) ∧
    (∃ s : State, s.live = true ∧ s.rd FIO_STATUS_LINK ≠ 0 ∧ s.fio.upTick + 25000 ≤ s.ticks) ∧
    (∃ (o : HeldOp) (s : State), s.live = true ∧ s.fio.op = some o) ∧
    (∀ r : Fin 33, (findReg (0x400D0000 + 4 * fieldHeld.getD r 0x04)).isSome = true ∧
      (findReg (0x400D0000 + 4 * fieldHeld.getD r 0x04)).all (fun l => l.inRange (100 + 2 ^ 22) && !l.inRange 0) = true) :=
  ⟨⟨State.reset, by decide⟩,
    fun b c m q => ⟨fioOn { FioState.init with syncing := b, answered := c, mism := m, queue := q }, rfl, show (1 : Nat) ≠ 0 by decide, show (0 : Nat) ≠ 3 by decide, rfl, rfl, rfl, rfl, rfl⟩,
    by decide +kernel, by decide +kernel,
    ⟨State.reset, by decide +kernel⟩,
    ⟨(State.reset.wr PRD_STATUS_GATE 2).wr (FIO_OUT_CFG_DISC_REL 2) 1, by decide, by decide +kernel, by decide, 2, by decide +kernel⟩,
    ⟨{ State.reset with ticks := 25000 }.wr FIO_STATUS_LINK 1, by decide⟩,
    ⟨{ write := true, idx := 4, data := 0, cnt := some 1 }, fioOn { FioState.init with op := some { write := true, idx := 4, data := 0, cnt := some 1 } }, rfl, rfl⟩,
    by decide +kernel⟩

/-! ### EveryStepKeepsOutputsAsTheFieldStateAllows -/

theorem witness_EveryStepKeepsOutputsAsTheFieldStateAllows :
    ∃ s t : State, step s = .next t ∧ OutputsAllowed s :=
  ⟨{ State.reset with pending := [.fioSilence] }, _, rfl, rfl⟩

/-! ### OutputsAreOffAfterReset -/

theorem witness_OutputsAreOffAfterReset : State.reset.fio.field = FieldSide.init := rfl

/-! ### CanControllersFollowTheirStates -/

def canAt (st mon tec : Nat) : State :=
  ((State.reset.wr (CAN_STATUS_STATE 1) st).wr (CAN_STATUS_MONITOR 1) mon).wr (CAN_STATUS_TEC 1) tec
theorem witness_CanControllersFollowTheirStates :
    (∀ en < 2, ∃ (n : Fin 4) (off v : Nat) (c : CanCtl) (s : State), s.live = true ∧ off ∈ [0x0C, 0x10, 0x14] ∧ s.can.ctl[n.val]? = some c ∧
      timingOk off v = true ∧ s.rd (CAN_CTRL_EN n) = en ∧ c.timing = []) ∧
    timingOk 0x0C 0 = false ∧
    (∀ st < 6, ∃ (n : Fin 4) (s : State), s.live = true ∧ s.rd (CAN_STATUS_STATE n) = st) ∧
    (∀ mon < 2, ∃ (n : Fin 4) (s : State), OnBus s n ∧ s.rd (CAN_STATUS_STATE n) = 2 ∧ s.rd (CAN_STATUS_MONITOR n) = mon ∧
      s.rd (CAN_STATUS_TEC n) + 8 ≤ 255) ∧
    (∃ (n : Fin 4) (s : State), OnBus s n ∧ s.rd (CAN_STATUS_STATE n) = 2 ∧ s.rd (CAN_STATUS_MONITOR n) = 0 ∧
      255 < s.rd (CAN_STATUS_TEC n) + 8) :=
  ⟨fun en h => ⟨1, 0x0C, 2 ^ 5 + 2 ^ 13, _, State.reset.wr (CAN_CTRL_EN 1) en, rfl, by decide, rfl, by decide, by
      have : ∀ en < 2, (State.reset.wr (CAN_CTRL_EN 1) en).rd (CAN_CTRL_EN (1 : Fin 4)) = en := by decide
      exact this en h, rfl⟩,
    by decide,
    fun st h => ⟨1, canAt st 0 0, by
      have : ∀ st < 6, (canAt st 0 0).live = true ∧ (canAt st 0 0).rd (CAN_STATUS_STATE (1 : Fin 4)) = st := by decide
      exact this st h⟩,
    fun mon h => ⟨1, canAt 2 mon 0, by
      have : ∀ mon < 2, OnBus (canAt 2 mon 0) 1 ∧ (canAt 2 mon 0).rd (CAN_STATUS_STATE (1 : Fin 4)) = 2 ∧
        (canAt 2 mon 0).rd (CAN_STATUS_MONITOR (1 : Fin 4)) = mon ∧ (canAt 2 mon 0).rd (CAN_STATUS_TEC (1 : Fin 4)) + 8 ≤ 255 := by
        unfold OnBus; decide +kernel
      exact this mon h⟩,
    ⟨1, canAt 2 0 250, by unfold OnBus; decide +kernel⟩⟩

/-! ### CanRecordsAreSentAndReceived -/

/-- Controller 1 in a state, its slot 0 enabled in every row for record 2, with occurrences; filter 0 takes ID 5 to record 2. -/
def slotAt (st mon : Nat) (occ : List CanOcc) : State :=
  ((((((((((running .coordinator 2 1).wr (CAN_STATUS_STATE 1) st).wr (CAN_STATUS_MONITOR 1) mon).wr (CAN_SCHED_BASE_PER 1) 1000).wr (CAN_SLOT_EN 64) 1).wr
    (CAN_SLOT_MSG 64) 2).wr (CAN_SLOT_ROW_MASK 64) 65535).wr (CAN_FILT_TYPE 128) 2).wr (CAN_FILT_ID1 128) 5).wr (CAN_FILT_MSG 128) 2)
    |> fun s => s.modCan 1 fun c => { c with occ := occ }
def occ0 (ends : Nat) : CanOcc := { slot := 0, t := 0, msg := 2, ends := ends }
def rxFrame (id : Nat) (rtr : Bool) : CanFrame :=
  { id := id, ide := false, fdf := false, brs := false, esi := false, rtr := rtr, dlc := 1, data := [7], sof := 9 }
abbrev SlotSeen (s : State) (st mon : Nat) : Prop :=
  s.works = true ∧ s.rd (CAN_SLOT_MSG (slotIx 1 0)) = 2 ∧ s.can.newTab.getD 1 none = none ∧ s.slotLast 1 0 s.now = some 0 ∧
    s.rd (CAN_STATUS_STATE 1) = st ∧ s.rd (CAN_STATUS_MONITOR 1) = mon ∧ aGet 0 (s.canCtl 1).slotAt = none ∧ s.can.ctl[1]?.isSome = true
theorem witness_CanRecordsAreSentAndReceived :
    SlotSeen (slotAt 2 0 []) 2 0 ∧ SlotSeen (slotAt 4 0 []) 4 0 ∧ SlotSeen (slotAt 2 1 []) 2 1 ∧ SlotSeen (slotAt 0 0 []) 0 0 ∧
    (∃ s : State, s.works = true ∧ aGet 0 (s.canCtl 1).slotAt = some 0 ∧ s.slotLast 1 0 s.now = some 0) ∧
    (State.reset.slotLast 1 0 State.reset.now = none ∧ State.reset.rd (CAN_SLOT_MSG (slotIx 1 0)) = 0) ∧
    (∀ e < 2, (slotAt 2 0 [occ0 e]).can.ctl[1]?.map (fun c => c.occ.find? (·.slot = 0)) = some (some (occ0 e)) ∧ (slotAt 2 0 [occ0 e]).now = 0) ∧
    (slotAt 2 0 []).canMayTx 1 = true ∧ (slotAt 2 1 []).canMayTx 1 = false ∧ ((slotAt 2 0 []).canCtl 1).ahead = [] ∧
    ((slotAt 2 0 []).wr (CAN_REC_STATE 130) 1).rd (CAN_REC_STATE (recIx 1 2)) = 1 ∧
    (∃ s : State, s.live = true ∧ s.can.newTab.getD 1 none = none ∧ s.rd (CAN_REC_DIR (recIx 1 2)) = 1 ∧ s.rd (CAN_REC_STATE (recIx 1 2)) = 0 ∧
      s.slotOf 1 2 = none ∧ s.rd FIO_STATUS_OUT_PERMIT ≠ 0) ∧
    ((slotAt 2 0 []).rd (CAN_STATUS_STATE 1) = 2 ∧ ((List.range 128).find? fun e => (slotAt 2 0 []).filtMatch 1 e (rxFrame 5 false)) = some 0 ∧
      (slotAt 2 0 []).rd (CAN_FILT_MSG (recIx 1 0)) = 2 ∧ (slotAt 2 0 []).rd (CAN_FILT_REJECT (recIx 1 0)) = 0 ∧
      ((List.range 128).find? fun e => (slotAt 2 0 []).filtMatch 1 e (rxFrame 6 false)) = none) :=
  ⟨by decide +kernel, by decide +kernel, by decide +kernel, by decide +kernel,
    ⟨(slotAt 2 0 []).modCan 1 fun c => { c with slotAt := [(0, 0)] }, by decide +kernel⟩, by decide +kernel, by decide +kernel,
    by decide +kernel, by decide +kernel, by decide +kernel, by decide +kernel,
    ⟨(State.reset.wr (CAN_REC_DIR 130) 1).wr FIO_STATUS_OUT_PERMIT 1, by decide +kernel⟩, by decide +kernel⟩

/-! ### SafetyLanesTakeFramesAndSamples -/

/-- Lanes with supply; lane 1 of the spec is l. -/
def lanesAt (l : SafLane) : State :=
  { fieldAt { FieldSide.init with st := 2, fsOk := true } with ticks := 475000, saf := { SafState.init with lanes := [l, SafLane.init] } }
def sdown (nTel : Nat) (tels : List Bytes) : SafDown :=
  { seq := 1, req := 1, permit := true, reset := 0, take := false, nTel := nTel, tels := tels
    crc := safDownCrc { seq := 1, req := 1, permit := true, reset := 0, take := false, nTel := nTel, tels := tels, crc := 0 } }
/-- A SAFETY section whose source 0 is SRC_ID 5 under SEED 0, whose pairs and function are enabled. -/
def safSec : Bytes :=
  List.replicate 20 0 ++ [0x11, 0, 0x0C, 0] ++ List.replicate 12 0 ++ [3] ++ List.replicate 11 0 ++ [1, 0, 5, 0] ++
    List.replicate 188 0 ++ [1, 0x11, 0, 0] ++ List.replicate 124 0
def tel0 : Bytes := [5, 0, 1, 0, 0, 0, 0, 0, 0, 0, 0, 0] ++ bytesOf 4 (crcTel 0 [5, 0, 1, 0, 0, 0, 0, 0, 0, 0, 0, 0])
def withPar (s : State) : State := { s with saf := { s.saf with par := some safSec } }
theorem witness_SafetyLanesTakeFramesAndSamples :
    (∃ (k : Fin 2) (l : SafLane) (s : State), s.saf.lanes[k.val]? = some l ∧ s.lanesOn = false) ∧
    (∃ (k : Fin 2) (f : SafDown) (l : SafLane) (s : State), s.saf.lanes[k.val]? = some l ∧ s.lanesOn = true ∧ GoodFrame l f ∧ f.nTel = 0) ∧
    (∃ (k : Fin 2) (f : SafDown) (l : SafLane) (s : State), s.saf.lanes[k.val]? = some l ∧ s.lanesOn = true ∧ ¬ GoodFrame l f) ∧
    (∃ (k : Fin 2) (f : SafDown) (l : SafLane) (x : SafSrc) (s : State), s.saf.lanes[k.val]? = some l ∧ s.lanesOn = true ∧ GoodFrame l f ∧
      f.nTel = 1 ∧ f.tels = [tel0] ∧ l.src[(0 : Fin 12).val]? = some x ∧ FromSource s x 0 tel0) ∧
    ((lanesAt SafLane.init).saf.lanes[1]? = some SafLane.init ∧ (lanesAt SafLane.init).lanesOn = true ∧
      SafLane.init.sampT ≤ (lanesAt SafLane.init).ticks ∧ SafLane.init.refT + laneSpan (lanesAt SafLane.init).sxSil 100000 ≤ (lanesAt SafLane.init).ticks) :=
  ⟨⟨0, SafLane.init, State.reset, by decide +kernel⟩,
    ⟨0, sdown 0 [], SafLane.init, lanesAt SafLane.init, by decide +kernel, by decide +kernel, ⟨by decide +kernel, by decide +kernel, by intro q h; cases h⟩, rfl⟩,
    ⟨0, { sdown 0 [] with nTel := 5 }, SafLane.init, lanesAt SafLane.init, by decide +kernel, by decide +kernel, fun h => absurd h.2.1 (by decide +kernel)⟩,
    ⟨0, sdown 1 [tel0], SafLane.init, SafSrc.init, withPar (lanesAt SafLane.init), by decide +kernel, by decide +kernel, ⟨by decide +kernel, by decide +kernel, by intro q h; cases h⟩,
      rfl, rfl, rfl, by decide +kernel, by decide +kernel, by decide +kernel, by intro q h; cases h⟩,
    by decide +kernel⟩

/-! ### SafetyLanesEvaluateTheirTables -/

def laneSt (inSt : Nat) (full : Bool) (out : Nat) : SafLane :=
  { SafLane.init with ins := [⟨inSt, full, 2, 0⟩, SafIn.init, SafIn.init, SafIn.init], outs := [⟨out, 0, false⟩, SafOut.init], rise := 1, req := 1, src := List.replicate 13 { SafSrc.init with valid := true } }
def LaneSeen (s : State) (l : SafLane) (inSt out : Nat) : Bool :=
  decide (s.lanesOn = true) &&
    decide (s.saf.lanes[0]? = some l) &&
    decide ((s.safLane 1).word = none) &&
    decide (s.inEn 0 = true) &&
    decide (s.outEn 0 = true) &&
    decide (s.tpEn 0 = true) &&
    decide (s.fnType 0 = 1) &&
    decide (s.fnValid l 0 = true) &&
    decide ((l.ins[0]?).map SafIn.st = some inSt) &&
    decide (outAt l 0 = out) &&
    decide (l.fns[0]?.isSome = true) &&
    decide (s.saf.turn[0]?.isSome = true) &&
    decide (s.saf.due[0]?.isSome = true) &&
    decide (s.saf.pulse[0]? = some none) &&
    decide (s.saf.nextT = [0, 0, 0, 0] ∧ s.saf.doneT = [0, 0, 0, 0] ∧ laneSpan (s.outDiagInt 0) 60000000000 ≤ s.ticks) &&
    decide (laneSpan (s.inDisc 0) 1000000 ≤ s.ticks ∧ laneSpan (s.telTmo 0) 1000000 ≤ s.ticks ∧ laneSpan (s.telTmo 12) 1000000 ≤ s.ticks ∧ l.cycT ≤ s.ticks) &&
    decide (s.fio.field.fsOk = true)
def pulsing (moot : Bool) : State :=
  { lanesAt (laneSt 0 false 1) with saf := { (lanesAt (laneSt 0 false 1)).saf with pulse := [some { m := false, light := false, moot := moot, t := 0 }, none] } }
theorem witness_SafetyLanesEvaluateTheirTables :
    (∀ i < 3, ∀ o < 4, LaneSeen (withPar (lanesAt (laneSt i true o))) (laneSt i true o) i o) ∧
    (∀ x ∈ [(0, 0), (1, 1)], LaneSeen (withPar (lanesAt (laneSt x.1 false x.2))) (laneSt x.1 false x.2) x.1 x.2) ∧
    State.reset.lanesOn = false ∧
    (∃ s : State, s.lanesOn = true ∧ s.fnApart { SafLane.init with src := [⟨true, some 0, 0, 0, 0⟩, ⟨true, some 0, 5, 0, 0⟩] } 0 = true ∧ s.fnType 0 ≠ 0 ∧
      laneSpan (s.fnDisc 0) 10000000 ≤ s.ticks) ∧
    (∀ moot : Bool, (pulsing moot).saf.pulse[0]? = some (some { m := false, light := false, moot := moot, t := 0 }) ∧
      laneSpan ((pulsing moot).outPulseW 0) 10000 ≤ (pulsing moot).ticks) ∧
    (∃ s : State, s.lanesOn = true ∧ s.telKind 0 ≠ 0 ∧ (((s.saf.lanes[0]?).bind fun l => l.src[0]?).map SafSrc.valid) = some true) :=
  ⟨by decide +kernel, by decide +kernel, by decide, ⟨withPar (lanesAt SafLane.init), by decide +kernel⟩, fun m => ⟨rfl, by cases m <;> decide +kernel⟩,
    ⟨withPar (lanesAt (laneSt 0 false 0)), by decide +kernel⟩⟩

/-! ### OutputPairsTurnOnOnlyInALaneCycle -/

def withLight (s : State) : State :=
  { s with saf := { s.saf with pulse := [some { m := false, light := true, moot := false, t := 0 }, none] } }
theorem witness_OutputPairsTurnOnOnlyInALaneCycle :
    (∃ (s t : State) (k q : Fin 2), step s = .next t ∧ outAt (s.safLane k) q ≠ 1 ∧ outAt (t.safLane k) q = 1) ∧
    (∃ (s t : State) (k q : Fin 2), step s = .next t ∧ waitAt (s.safLane k) q = false ∧ waitAt (t.safLane k) q = true) := by
  refine ⟨⟨{ withPar (lanesAt { laneSt 0 false 0 with filt := 3 }) with pending := [.laneCycle 0] }, _, 0, 0, rfl, by decide, ?_⟩,
    ⟨{ withLight (withPar (lanesAt { laneSt 0 false 0 with filt := 3 })) with pending := [.laneCycle 0] }, _, 0, 0, rfl, by decide, ?_⟩⟩ <;>
  decide +kernel

/-! ### TheLogicSideServesTheSafetyLanes -/

theorem witness_TheLogicSideServesTheSafetyLanes :
    (∀ a : Bool, ∃ (k : Fin 2) (l : SafLane) (s : State), s.live = true ∧ s.saf.lanes[k.val]? = some l ∧ s.lanesOn = true ∧ l.answer = a) ∧
    (∃ (n : Fin 4) (m : Fin 128) (b : Bytes) (s : State), s.live = true ∧ s.saf.fresh.find? (fun e => e.1 = recIx n m) = some (recIx n m, b)) ∧
    (∀ k : Fin 2, (lanesAt SafLane.init).saf.upT[k.val]? = some 0 ∧ 250000 ≤ (lanesAt SafLane.init).ticks) ∧
    (∃ (v : BitVec 2) (s : State), s.live = true ∧ v ≠ 0 ∧ ∀ q : Fin 2, v.toNat.testBit q = true → s.resetAllowed q = true) ∧
    (∃ (p : Nat) (f : ZFrame) (w : WireWord) (d : Bytes) (rest : List WireWord) (s : State), s.live = true ∧ s.zfb.deliv = some (p, f) ∧
      f.hdr.cls = 8 ∧ f.hdr.aux % 256 = 0x11 ∧ f.words = w :: rest ∧ pipData w = some d) ∧
    (∀ b < 2, ∃ s : State, s.live = true ∧ s.rd SAF_MODE_PAIR_EN = b) ∧
    (∃ (v : BitVec 2) (s : State), s.live = true ∧ v.toNat.testBit 0 = true ∧ s.resetAllowed 0 = false) :=
  ⟨fun a => ⟨0, { SafLane.init with answer := a }, lanesAt { SafLane.init with answer := a }, rfl, rfl, rfl, rfl⟩,
    ⟨1, 3, [7], { State.reset with saf := { SafState.init with fresh := [(recIx 1 3, [7])] } }, by decide +kernel⟩,
    by decide +kernel,
    ⟨1, { lanesAt { laneSt 0 false 3 with req := 0 } with saf := { (lanesAt { laneSt 0 false 3 with req := 0 }).saf with lanes := [SafLane.init, { laneSt 0 false 3 with req := 0 }] } }, by decide +kernel⟩,
    ⟨0, { hdr := { zhdr 8 7 9 with aux := 0x11, src := 5 }, words := [payWord 0] }, payWord 0, List.replicate 32 0, [], memberWith (delivered 8 0x11 [payWord 0]), by decide +kernel⟩,
    fun b h => ⟨State.reset.wr SAF_MODE_PAIR_EN b, by
      have : ∀ b < 2, (State.reset.wr SAF_MODE_PAIR_EN b).live = true ∧ (State.reset.wr SAF_MODE_PAIR_EN b).rd SAF_MODE_PAIR_EN = b := by decide
      exact this b h⟩,
    ⟨1, State.reset, by decide +kernel⟩⟩

/-! ### MailboxesTakeCommands -/

/-- A command with its CHECK, for the witnesses. -/
def mkCmd (op seq flags : Nat) (p : Bytes) : Bytes :=
  let h (chk : Nat) : Bytes := bytesOf 2 op ++ bytesOf 2 seq ++ bytesOf 2 p.length ++ bytesOf 2 flags ++ bytesOf 4 chk ++ bytesOf 4 0
  h (crc32 (h 0 ++ p)) ++ p

def boxWith (st : Nat) (c : Bytes) (last : Option (Source × Nat × Bytes)) : Mailbox := { Mailbox.init with st := st, cmd := c, last := last }
def boxesAt (n : Nat) (b : Mailbox) : State :=
  { State.reset with mbx := { State.reset.mbx with boxes := State.reset.mbx.boxes.set n b } }
def idCmd : Bytes := mkCmd 1 5 1 []
def oddCmd : Bytes := mkCmd 0x0B77 5 1 []

theorem witness_ringsOfAHostMailbox :
    (∃ (n : Fin 8) (s : State), s.live = true ∧ s.rd (MBX_PATH_PATH n) ≠ 0) ∧
    (∃ (n : Fin 8) (b : Mailbox) (s : State), s.live = true ∧ s.mbx.boxes[n.val]? = some b ∧ s.rd (MBX_PATH_PATH n) = 0 ∧ b.st = 1) ∧
    (∃ (n : Fin 8) (b : Mailbox) (s : State), s.live = true ∧ s.mbx.boxes[n.val]? = some b ∧ s.rd (MBX_PATH_PATH n) = 0 ∧ b.st = 2) :=
  ⟨⟨4, State.reset, by decide⟩, ⟨0, _, boxesAt 0 (boxWith 1 [] none), by decide, rfl, by decide⟩,
    ⟨3, _, boxesAt 3 (boxWith 2 [] none), by decide, rfl, by decide⟩⟩

theorem witness_freshCommand : PassesSteps idCmd 1024 ∧ NoRepeat (boxWith 0 idCmd none) .host idCmd ∧ cmdOp idCmd ∈ knownOps :=
  ⟨by unfold PassesSteps LengthOk; decide +kernel, fun _ => by simp [boxWith], by decide +kernel⟩

theorem witness_failedCommands :
    FailsWith (boxWith 0 [] none) .host (List.replicate 16 0xFF) 1024 1 ∧ FailsWith (boxWith 0 [] none) .host (List.replicate 16 0) 1024 2 ∧
    FailsWith (boxWith 0 [] none) .host oddCmd 1024 4 ∧ FailsWith (boxWith 0 [] none) .internal [] ([] : Bytes).length 1 :=
  ⟨.inl ⟨rfl, by unfold LengthOk; decide +kernel⟩, .inr (.inl ⟨rfl, by unfold LengthOk; decide +kernel, by decide +kernel⟩),
    .inr (.inr ⟨rfl, by unfold PassesSteps LengthOk; decide +kernel, fun _ => by simp [boxWith], by decide +kernel⟩),
    .inl ⟨rfl, by unfold LengthOk; decide⟩⟩

theorem witness_repeatedCommand : ∃ (b : Mailbox) (r : Bytes), PassesSteps b.cmd 1024 ∧ b.last = some (.host, cmdSeq b.cmd, r) :=
  ⟨boxWith 0 idCmd (some (.host, cmdSeq idCmd, [])), [], witness_freshCommand.1, rfl⟩

theorem witness_bufferAndPaths :
    (∃ (b : Mailbox) (s : State), s.live = true ∧ s.mbx.boxes[s.rd MBX_PAGE_MB]? = some b ∧ b.st = 1) ∧
    (∃ (b : Mailbox) (s : State), s.live = true ∧ s.mbx.boxes[s.rd MBX_PAGE_MB]? = some b ∧ b.st ≠ 1) ∧
    (∃ (v : BitVec 16) (s : State), s.live = true ∧ ∃ n < 8, (s.box n).st ≠ 0 ∧ bits v.toNat (2 * n) 2 ≠ s.rd (MBX_PATH_PATH n)) ∧
    ∃ s : State, s.live = true ∧ ∀ n < 8, (s.box n).st = 0 :=
  ⟨⟨_, boxesAt 0 (boxWith 1 [] none), by decide, rfl, by decide⟩, ⟨_, State.reset, by decide, rfl, by decide⟩,
    ⟨0xFFFF, boxesAt 0 (boxWith 1 [] none), by decide⟩, ⟨State.reset, by decide⟩⟩

def frameCmd (dst n extra : Nat) : ZFrame :=
  { hdr := { zhdr 6 dst 3 with aux := n, src := 5, srcDom := 1 }, words := List.replicate extra (pipEncode idCmd) ++ [pipEncode (idCmd ++ bytesOf 16 0)], own := false }
def withFrame (f : ZFrame) (s : State) : State := { s with zfb := { s.zfb with deliv := some (0, f) } }

theorem witness_commandFrames :
    CommandFrame (withFrame (frameCmd 9 4 0) State.reset) (frameCmd 9 4 0) ∧ State.reset.rd (MBX_PATH_PATH 4) = 1 ∧
    State.reset.rd (MBX_PATH_PATH 0) ≠ 1 ∧ (frameCmd 9 4 0).hdr.dst ≠ (withFrame (frameCmd 9 4 0) State.reset).cid ∧
    (frameCmd 9 4 0).words.length ≤ 32 ∧ 32 < (frameCmd 9 4 32).words.length ∧
    PassesSteps (cmdBytes (frameCmd 9 4 0)) (cmdBytes (frameCmd 9 4 0)).length ∧ cmdOp (cmdBytes (frameCmd 9 4 0)) ∈ knownOps ∧
    NoRepeat (boxWith 0 [] none) (.fabric 5 1) (cmdBytes (frameCmd 9 4 0)) :=
  ⟨⟨⟨0, rfl⟩, by decide, by decide⟩, by decide, by decide, by decide +kernel, by decide +kernel, by decide +kernel,
    by unfold PassesSteps LengthOk; decide +kernel, by decide +kernel, fun _ => by simp [boxWith]⟩

theorem witness_cidFrame : ∃ (f : ZFrame) (s : State), s.live = true ∧ CommandFrame s f ∧ f.hdr.dst = s.cid ∧
    f.hdr.dst ≠ s.rd ZFB_ID_NODE_ID ∧ s.holds = false :=
  ⟨frameCmd State.reset.cid 4 0, withFrame (frameCmd State.reset.cid 4 0) State.reset, by decide, ⟨⟨0, rfl⟩, by decide, by decide⟩, by decide, by decide, by decide⟩

theorem witness_runningRepeat : ∃ (f : ZFrame) (b : Mailbox), b.st = 1 ∧ b.src = Source.fabric f.hdr.src f.hdr.srcDom ∧ b.seq = cmdSeq (cmdBytes f) :=
  ⟨frameCmd 9 4 0, { Mailbox.init with st := 1, src := .fabric 5 1, seq := cmdSeq (cmdBytes (frameCmd 9 4 0)) }, rfl, rfl, rfl⟩

def ethOn : State :=
  let s := State.reset.wr MBX_ETH_CFG_EN 1
  { s with mbx := { s.mbx with hostKey := some (bytesOf 16 77) } }
def dgram (tag : Bytes) (ctr : Nat) : Bytes := [0x01, 6, 0, 0] ++ bytesOf 4 ctr ++ tag ++ idCmd
def goodTag : Bytes := (hmac (bytesOf 16 77) (0x48 :: ([0x01, 6, 0, 0] ++ bytesOf 4 1 ++ idCmd))).take 16

theorem witness_datagrams :
    ethOn.live = true ∧ ethOn.rd MBX_ETH_CFG_EN ≠ 0 ∧ ethOn.rd (MBX_PATH_PATH 6) = 2 ∧ State.reset.rd MBX_ETH_CFG_EN = 0 ∧ (¬ ∃ n, RequestHead [] n) ∧
    RequestHead (dgram (bytesOf 16 0) 0) 6 ∧ ¬ Authentic ethOn (dgram (bytesOf 16 0) 0) ∧ LengthOk ((dgram (bytesOf 16 0) 0).drop 24) 16 :=
  ⟨by decide, by decide, by decide, by decide, by simp [RequestHead], by unfold RequestHead; decide +kernel, fun h => absurd h.2.1 (by decide +kernel),
    by unfold LengthOk; decide +kernel⟩

theorem slice_mid (a m z : Bytes) : slice (a ++ m ++ z) a.length m.length = m := by
  apply List.ext_getElem
  · simp [slice]
  · intro i h1 h2
    simp [slice, List.getD, List.getElem?_append_right, List.getElem?_append_left, h2]

theorem witness_authenticDatagram : RequestHead (dgram goodTag 1) 6 ∧ Authentic ethOn (dgram goodTag 1) := by
  have hl : goodTag.length = 16 := by simp [goodTag, hmac_length]
  have ht : (dgram goodTag 1).take 8 = [0x01, 6, 0, 0] ++ bytesOf 4 1 := rfl
  have hd : (dgram goodTag 1).drop 24 = idCmd := by
    have : dgram goodTag 1 = ([0x01, 6, 0, 0] ++ bytesOf 4 1 ++ goodTag) ++ idCmd := rfl
    rw [this, List.drop_append_of_le_length (by simp [hl, bytesOf])]
    simp [hl, bytesOf]
  refine ⟨⟨?_, rfl, rfl, rfl⟩, ⟨bytesOf 16 77, rfl, ?_⟩, by decide, by decide⟩
  · simp [dgram, hl, bytesOf]
  · rw [ht, hd]
    have : slice (dgram goodTag 1) 8 16 = goodTag := by
      have := slice_mid ([0x01, 6, 0, 0] ++ bytesOf 4 1) goodTag idCmd
      rwa [hl] at this
    rw [this]; rfl

/-! ### ResponsesEndCommands -/

theorem witness_endedCommand : ∃ (s : State) (n : Fin 8) (b : Mailbox), s.live = true ∧ s.mbx.long = some (n.val, 0, []) ∧
    s.mbx.boxes[n.val]? = some b :=
  ⟨{ State.reset with mbx := { State.reset.mbx with long := some (0, 0, []) } }, 0, _, by decide, rfl, rfl⟩

theorem witness_loggedCommand : ∃ (s : State) (b : Mailbox), s.mbx.boxes[0]? = some b ∧
    cmdOp b.cmd ∈ [0x0003, 0x0403, 0x0404, 0x0501, 0x0502] ∧ s.log.staged.length < 4000 ∧ b.src = .host ∧ s.mbx.long = none :=
  ⟨boxesAt 0 { boxWith 1 (mkCmd 3 1 0 []) none with src := .host }, _, rfl, by decide +kernel, by decide, rfl, rfl⟩

/-! ### CommandsReachTheModule -/

/-- A command as it stands in its mailbox once its CHECK has been judged: here without one. -/
def rawCmd (op seq flags : Nat) (p : Bytes) : Bytes :=
  bytesOf 2 op ++ bytesOf 2 seq ++ bytesOf 2 p.length ++ bytesOf 2 flags ++ bytesOf 8 0 ++ p

/-- A module that runs, with a command accepted in mailbox 0 from the host bus. -/
def accepted (s : State) (c : Bytes) : State :=
  { s with mbx := { s.mbx with boxes := s.mbx.boxes.set 0 { boxWith 1 c none with src := .host }, order := [0] } }

def frontB (s : State) (op : Nat) (p : Bytes) : Bool :=
  s.live && s.mbx.order == [0] && cmdOp (s.box 0).cmd == op && cmdParams (s.box 0).cmd == p && !s.barred op (s.box 0).src &&
    !cmdReserved (s.box 0).cmd

theorem front_of (s : State) (op : Nat) (p : Bytes) (h : frontB s op p = true) : Front s 0 [] op p := by
  simp only [frontB, Bool.and_eq_true, beq_iff_eq, Bool.not_eq_true'] at h
  obtain ⟨⟨⟨⟨⟨h1, h2⟩, h3⟩, h4⟩, h5⟩, h6⟩ := h
  exact ⟨h1, h2, h3, h4, h5, h6⟩

def mon : State := running .monitor 0 0
def coord : State := (running .coordinator 1 0).wr PRD_STATUS_GATE 2

theorem witness_simpleCommands :
    Front (accepted mon (rawCmd 1 1 0 [])) 0 [] 1 [] ∧ Front (accepted mon (rawCmd 1 1 0 [7])) 0 [] 1 [7] ∧
    Front (accepted mon (rawCmd 2 1 0 [])) 0 [] 2 [] ∧ Front (accepted mon (rawCmd 3 1 0 [])) 0 [] 3 [] ∧
    Front (accepted coord (rawCmd 3 1 2 [])) 0 [] 3 [] ∧ Front (accepted coord (rawCmd 3 1 0 [])) 0 [] 3 [] ∧
    Front (accepted mon (rawCmd 4 1 0 (bytesOf 4 0 ++ bytesOf 2 3))) 0 [] 4 (bytesOf 4 0 ++ bytesOf 2 3) :=
  ⟨front_of _ _ _ (by decide +kernel), front_of _ _ _ (by decide +kernel), front_of _ _ _ (by decide +kernel),
    front_of _ _ _ (by decide +kernel), front_of _ _ _ (by decide +kernel), front_of _ _ _ (by decide +kernel), front_of _ _ _ (by decide +kernel)⟩

theorem witness_restartCases : (accepted mon (rawCmd 3 1 0 [])).holds = false ∧ (accepted coord (rawCmd 3 1 0 [])).holds = true ∧
    forced (accepted coord (rawCmd 3 1 2 [])) 0 ∧ ¬ forced (accepted coord (rawCmd 3 1 0 [])) 0 ∧ coord.zfb.run = none :=
  ⟨by decide, by decide, by unfold forced; decide +kernel, by unfold forced; decide +kernel, by decide⟩

def regP (a : Nat) (d : Bytes) : Bytes := bytesOf 8 a ++ bytesOf 2 1 ++ bytesOf 2 0 ++ d

theorem witness_registerCommands :
    Front (accepted mon (rawCmd 0x101 1 0 (regP 0x400B0010 []))) 0 [] 0x101 (regP 0x400B0010 []) ∧
    Front (accepted mon (rawCmd 0x102 1 0 (regP 0x400B0010 (bytesOf 4 0)))) 0 [] 0x102 (regP 0x400B0010 (bytesOf 4 0)) ∧
    (∃ l, findReg (field (regP 0x400B0010 []) 0 8) = some l ∧ PlainReg l ∧ l.words = 1 ∧ l.word = 0) ∧
    findReg (field (regP 0x400B0FF0 []) 0 8) = none :=
  ⟨front_of _ _ _ (by decide +kernel), front_of _ _ _ (by decide +kernel),
    ⟨_, rfl, by unfold PlainReg; decide +kernel, by decide +kernel, by decide +kernel⟩, by decide +kernel⟩

def memP (a : Nat) (d : Bytes) : Bytes := bytesOf 8 a ++ bytesOf 4 32 ++ d

theorem witness_memoryCommands :
    Front (accepted mon (rawCmd 0x201 1 0 (memP 0 []))) 0 [] 0x201 (memP 0 []) ∧ memRun 0 (32 * 1) = true ∧ keyRun 0 (32 * 1) = false ∧
    WordReads (accepted mon (rawCmd 0x201 1 0 (memP 0 []))) 0 (bytesOf 32 0) ∧ keyRun 0x20010000 (32 * 1) = true ∧ inRegs 0x40000000 = true ∧
    Front (accepted mon (rawCmd 0x202 1 0 (memP 0 (bytesOf 36 0)))) 0 [] 0x202 (memP 0 (bytesOf 36 0)) ∧ inFlash 0 = false ∧ inFlash 0x20000000 = true :=
  ⟨front_of _ _ _ (by decide +kernel), by decide, by decide, by unfold WordReads; rw [if_neg (by decide)]; decide +kernel, by decide, by decide,
    front_of _ _ _ (by decide +kernel), by decide, by decide⟩

theorem witness_uncorrectableRead : ∃ s : State, s.live = true ∧ ¬ (inFlash 0 = true ∧ s.rdRaw (0 / 32) = erasedWord) ∧
    pipDecode (s.rdRaw (0 / 32)) = .uncorr :=
  ⟨mon.wrRaw 0 badWord, by decide +kernel, by simp [inFlash], by decide +kernel⟩

theorem witness_fabricCommands :
    Front (accepted coord (rawCmd 0x901 1 0 [])) 0 [] 0x901 [] ∧ Front (accepted mon (rawCmd 0x901 1 0 [])) 0 [] 0x901 [] ∧
    Front (accepted mon (rawCmd 0x902 1 0 [3, 63, 1, 0])) 0 [] 0x902 [3, 63, 1, 0] :=
  ⟨front_of _ _ _ (by decide +kernel), front_of _ _ _ (by decide +kernel), front_of _ _ _ (by decide +kernel)⟩

/-! ### CommandsConfigureTheModule -/

def setP : Bytes := bytesOf 4 0 ++ bytesOf 4 32 ++ bytesOf 4 0 ++ bytesOf 32 1
def bulbed : State := atPhase .bulb 0
def shadowed (x : ShadowState) (s : State) : State := { s with cfg := { s.cfg with shadow := x } }
def anOrder : FlipOrder := { f := 7, crc := 0 }

theorem witness_shadowCommands :
    Front (accepted mon (rawCmd 0x301 1 0 setP)) 0 [] 0x301 setP ∧
    (accepted mon (rawCmd 0x301 1 0 setP)).isPending = false ∧
    (∃ s : State, Front s 0 [] 0x301 setP ∧ s.isPending = true) ∧ Front (accepted mon (rawCmd 0x302 1 0 [])) 0 [] 0x302 [] ∧
    ((accepted mon (rawCmd 0x302 1 0 [])).popped []).isPending = false :=
  ⟨front_of _ _ _ (by decide +kernel), by decide, ⟨shadowed (.pending anOrder) (accepted mon (rawCmd 0x301 1 0 setP)), front_of _ _ _ (by decide +kernel), by decide⟩,
    front_of _ _ _ (by decide +kernel), by decide⟩

def flipP (f crc : Nat) : Bytes := bytesOf 8 f ++ bytesOf 4 crc ++ bytesOf 4 0

theorem witness_flipCommands :
    (∃ s : State, Front s 0 [] 0x303 (flipP 0 0) ∧ s.mbx.long = none ∧ (s.popped []).flipOf (cmdFlags (s.box 0).cmd) (flipP 0 0) = .refused none) ∧
    (∃ s : State, Front s 0 [] 0x303 (flipP 0 0) ∧ s.mbx.long = none ∧ (s.popped []).flipOf (cmdFlags (s.box 0).cmd) (flipP 0 0) = .cancel) ∧
    (∃ (s : State) (o : FlipOrder), s.live = true ∧ s.cfg.shadow = .pending o ∧ o.f ≤ s.now) ∧ (∃ (s : State) (o : FlipOrder), s.live = true ∧ s.cfg.shadow = .pending o ∧ s.now < o.f) ∧
    ∃ s : State, s.live = true ∧ ∀ o, s.cfg.shadow ≠ .pending o :=
  ⟨⟨accepted mon (rawCmd 0x303 1 0 (flipP 0 0)), front_of _ _ _ (by decide +kernel), rfl, rfl⟩,
    ⟨shadowed (.pending { f := 2 ^ 60, crc := 0 }) (accepted mon (rawCmd 0x303 1 0 (flipP 0 0))), front_of _ _ _ (by decide +kernel), rfl, rfl⟩,
    ⟨shadowed (.pending { f := 0, crc := 0 }) mon, _, by decide, rfl, by decide +kernel⟩, ⟨shadowed (.pending anOrder) mon, anOrder, by decide, rfl, by decide +kernel⟩, ⟨mon, by decide, by simp [mon, running, State.reset, CfgState.init]⟩⟩

def readP : Bytes := bytesOf 4 1 ++ bytesOf 4 0 ++ bytesOf 4 32

theorem witness_setRead : ∃ s : State, Front s 0 [] 0x304 readP ∧ s.mbx.long = none ∧
    inFlash (setBase (1 - s.cfg.active) + field readP 4 4 + 32 * 0) = true ∧ field readP 0 1 = 1 ∧
    WordReads s ((setBase (1 - s.cfg.active) + field readP 4 4) / 32 + 0) (List.replicate 32 0xFF) :=
  ⟨{ accepted mon (rawCmd 0x304 1 0 readP) with start := { mon.start with ship0 := false } }, front_of _ _ _ (by decide +kernel), rfl,
    by decide, by decide, by unfold WordReads; rw [if_pos (by decide +kernel)]⟩

def fwP (area : Nat) : Bytes := bytesOf 4 area ++ bytesOf 4 0 ++ bytesOf 4 32 ++ bytesOf 4 0 ++ bytesOf 32 1

theorem witness_firmwareCommands :
    Front (accepted mon (rawCmd 0x401 1 0 (fwP 2))) 0 [] 0x401 (fwP 2) ∧ Front (accepted bulbed (rawCmd 0x401 1 0 (fwP 0))) 0 [] 0x401 (fwP 0) ∧
    Front (accepted mon (rawCmd 0x401 1 0 (fwP 0))) 0 [] 0x401 (fwP 0) ∧ mon.rd MBX_START_SLOT_RUN = 0 ∧ mon.fwSelected = 0 ∧
    Front (accepted mon (rawCmd 0x402 1 0 (bytesOf 4 2))) 0 [] 0x402 (bytesOf 4 2) ∧ keyTableOk ([] : Bytes) = true ∧ keyTableOk (List.replicate 64 1) = false ∧
    Front (accepted mon (rawCmd 0x402 1 0 (bytesOf 4 0))) 0 [] 0x402 (bytesOf 4 0) ∧
    Front (accepted mon (rawCmd 0x403 1 0 (bytesOf 4 0))) 0 [] 0x403 (bytesOf 4 0) ∧ (∃ u x, mon.fwCheck 0 = (u, some x)) :=
  ⟨front_of _ _ _ (by decide +kernel), front_of _ _ _ (by decide +kernel), front_of _ _ _ (by decide +kernel), by decide, by decide,
    front_of _ _ _ (by decide +kernel), by decide, by decide +kernel, front_of _ _ _ (by decide +kernel), front_of _ _ _ (by decide +kernel), ⟨_, _, rfl⟩⟩

theorem witness_keyCommands :
    Front (accepted bulbed (rawCmd 0x404 1 0 [])) 0 [] 0x404 [] ∧ Front (accepted mon (rawCmd 0x404 1 0 [])) 0 [] 0x404 [] ∧
    Front (accepted mon (rawCmd 0x501 1 0 (bytesOf 4 1 ++ bytesOf 16 9))) 0 [] 0x501 (bytesOf 4 1 ++ bytesOf 16 9) ∧
    keyOf (accepted mon (rawCmd 0x501 1 0 (bytesOf 4 1 ++ bytesOf 16 9))) 1 = none ∧
    Front (accepted bulbed (rawCmd 0x502 1 0 (bytesOf 4 1))) 0 [] 0x502 (bytesOf 4 1) ∧ bulbed.start.phase = .bulb ∧ mon.start.phase ≠ .bulb :=
  ⟨front_of _ _ _ (by decide +kernel), front_of _ _ _ (by decide +kernel), front_of _ _ _ (by decide +kernel), by decide,
    front_of _ _ _ (by decide +kernel), by decide, by decide⟩

/-! ### CommandsDriveTheEngines -/

theorem witness_helmCommands :
    (∃ l, findReg 0x40060040 = some l ∧ OnlyFields l (field (bytesOf 16 0) 0 16)) ∧ (∃ l, findReg 0x40060050 = some l ∧ OnlyFields l (field (bytesOf 8 0) 0 8)) ∧
    (∃ l, findReg HLM_MODE_REQ_MODE.addr = some l ∧ OnlyFields l (field (bytesOf 4 0) 0 4)) ∧
    Front (accepted coord (rawCmd 0x601 1 0 (bytesOf 16 0))) 0 [] 0x601 (bytesOf 16 0) ∧
    Front (accepted coord (rawCmd 0x602 1 0 (bytesOf 8 0))) 0 [] 0x602 (bytesOf 8 0) ∧
    Front (accepted coord (rawCmd 0x603 1 0 (bytesOf 4 0))) 0 [] 0x603 (bytesOf 4 0) :=
  ⟨⟨_, rfl, by unfold OnlyFields; decide +kernel⟩, ⟨_, rfl, by unfold OnlyFields; decide +kernel⟩, ⟨_, rfl, by unfold OnlyFields; decide +kernel⟩,
    front_of _ _ _ (by decide +kernel), front_of _ _ _ (by decide +kernel), front_of _ _ _ (by decide +kernel)⟩

theorem rawCmd_params (op seq flags : Nat) (p : Bytes) (h : cmdLen (rawCmd op seq flags p) = p.length) :
    cmdParams (rawCmd op seq flags p) = p := by
  have := slice_mid (bytesOf 2 op ++ bytesOf 2 seq ++ bytesOf 2 p.length ++ bytesOf 2 flags ++ bytesOf 8 0) p []
  rw [List.append_nil] at this
  unfold cmdParams; rw [h]; exact this

theorem witness_engineCommands :
    Front (accepted mon (rawCmd 0x701 1 0 (List.replicate 596 0))) 0 [] 0x701 (List.replicate 596 0) ∧
    recOfParams ((List.replicate 596 0).drop 200) = some (List.replicate 352 0) ∧
    Front (accepted (mon.wr CSE_STATUS_STATE 2) (rawCmd 0x702 1 0 (bytesOf 4 7 ++ bytesOf 4 2))) 0 [] 0x702 (bytesOf 4 7 ++ bytesOf 4 2) ∧
    Front (accepted coord (rawCmd 0x702 1 0 (bytesOf 4 7 ++ bytesOf 4 1))) 0 [] 0x702 (bytesOf 4 7 ++ bytesOf 4 1) ∧
    Front (accepted (mon.wr CSE_STATUS_STATE 4) (rawCmd 0x703 1 0 [])) 0 [] 0x703 [] ∧
    Front (accepted coord (rawCmd 0x704 1 0 (bytesOf 4 0))) 0 [] 0x704 (bytesOf 4 0) ∧ coord.recIndex 0 = some 0 ∧
    Front (accepted mon (rawCmd 0x801 1 0 (bytesOf 64 0))) 0 [] 0x801 (bytesOf 64 0) ∧ mon.engineRole = false ∧
    Front (accepted (mon.wr (CAN_STATUS_STATE 3) 4) (rawCmd 0xB01 1 0 (bytesOf 4 3))) 0 [] 0xB01 (bytesOf 4 3) :=
  ⟨⟨by decide +kernel, rfl, by decide +kernel, rawCmd_params _ _ _ _ (by decide +kernel), by decide +kernel, by decide +kernel⟩, by decide +kernel,
    front_of _ _ _ (by decide +kernel), front_of _ _ _ (by decide +kernel), front_of _ _ _ (by decide +kernel), front_of _ _ _ (by decide +kernel),
    by decide +kernel, front_of _ _ _ (by decide +kernel), by decide, front_of _ _ _ (by decide +kernel)⟩

/-! ### CommandsControlTheRuntime -/

def taskP (op k : Nat) : Bytes := bytesOf 1 op ++ bytesOf 1 k ++ bytesOf 2 0
def taskCmdAt (s : State) (op k : Nat) : State := accepted s (rawCmd 0xA01 1 0 (taskP op k))

theorem taskFront_of (s : State) (op k : Nat) (h : frontB (taskCmdAt s op k) 0xA01 (taskP op k) = true)
    (h2 : (taskP op k).length = 4 ∧ field (taskP op k) 0 1 = op ∧ field (taskP op k) 1 1 = k ∧ field (taskP op k) 2 2 = 0) :
    TaskFront (taskCmdAt s op k) 0 [] op k := ⟨_, front_of _ _ _ h, h2⟩

theorem witness_taskCommands :
    TaskFront (taskCmdAt (mon.wr CRT_STATUS_IMAGE_OK 1) 0x01 0) 0 [] 0x01 0 ∧ TaskFront (taskCmdAt (mon.wr CRT_STATUS_STATE 1) 0x02 0) 0 [] 0x02 0 ∧
    TaskFront (taskCmdAt (mon.wr CRT_STATUS_STATE 2) 0x03 0) 0 [] 0x03 0 ∧ TaskFront (taskCmdAt (mon.wr (CRT_TASK_STAT_STATE 31) 2) 0x10 31) 0 [] 0x10 31 ∧
    TaskFront (taskCmdAt (mon.wr (CRT_TASK_STAT_STATE 0) 1) 0x11 0) 0 [] 0x11 0 ∧ TaskFront (taskCmdAt mon 0x12 0) 0 [] 0x12 0 ∧
    TaskFront (taskCmdAt mon 0x13 0) 0 [] 0x13 0 ∧ TaskFront (taskCmdAt mon 0x14 0) 0 [] 0x14 0 ∧ TaskFront (taskCmdAt mon 0x21 0) 0 [] 0x21 0 ∧
    TaskFront (taskCmdAt (mon.wr (CRT_STN_STAT_STATE 63) 3) 0x20 63) 0 [] 0x20 63 ∧ (mon.wr CRT_STATUS_IMAGE_OK 1).crtOn = true ∧
    (mon.wr (CRT_STN_STAT_STATE 63) 3).rd (CRT_STN_STAT_STATE 63) = 3 :=
  ⟨taskFront_of _ _ _ (by decide +kernel) (by decide), taskFront_of _ _ _ (by decide +kernel) (by decide), taskFront_of _ _ _ (by decide +kernel) (by decide),
    taskFront_of _ _ _ (by decide +kernel) (by decide), taskFront_of _ _ _ (by decide +kernel) (by decide), taskFront_of _ _ _ (by decide +kernel) (by decide),
    taskFront_of _ _ _ (by decide +kernel) (by decide), taskFront_of _ _ _ (by decide +kernel) (by decide), taskFront_of _ _ _ (by decide +kernel) (by decide),
    taskFront_of _ _ _ (by decide +kernel) (by decide), by decide, by decide⟩

/-! ### CommandsRunOnlyInTheirTurn -/

theorem witness_commandsOutOfTurn :
    (∃ s : State, s.mbx.order = []) ∧ (∃ (s : State) (n : Nat) (rest : List Nat), s.mbx.order = n :: rest ∧ cmdOp (s.box n).cmd ≠ 2) ∧
    (∃ (s : State) (n : Nat) (rest : List Nat), s.live = true ∧ s.mbx.order = n :: rest ∧ cmdOp (s.box n).cmd = 0x0601 ∧ s.barred 0x0601 (s.box n).src = true) ∧
    (∃ (s : State) (n : Nat) (rest : List Nat), s.live = true ∧ s.mbx.order = n :: rest ∧ cmdOp (s.box n).cmd = 1 ∧ cmdReserved (s.box n).cmd = true) ∧
    ∃ s : State, s.mbx.long ≠ none :=
  ⟨⟨mon, rfl⟩, ⟨accepted mon idCmd, 0, [], rfl, by decide +kernel⟩, ⟨accepted bulbed (rawCmd 0x601 1 0 []), 0, [], by decide, rfl, by decide +kernel, by decide +kernel⟩,
    ⟨accepted mon (rawCmd 1 1 4 []), 0, [], by decide, rfl, by decide +kernel, by decide +kernel⟩,
    ⟨{ mon with mbx := { mon.mbx with long := some (0, 0, []) } }, by decide⟩⟩

/-! ### CellLimitsKeepTheirOrder -/

theorem witness_CellLimitsKeepTheirOrder :
    (∃ (v : BitVec 32) (s : State), s.live = true ∧ ovMilli v.toNat ≤ uvMilli v.toNat) ∧ ovMilli 0x01130000 ≤ uvMilli 0x01130000 ∧
    Front (accepted mon (rawCmd 0x102 1 0 (regP 0x40000028 (bytesOf 4 0x00960000)))) 0 [] 0x102
      (bytesOf 8 0x40000028 ++ bytesOf 2 1 ++ bytesOf 2 0 ++ bytesOf 4 (0x00960000#32).toNat) ∧ ovMilli 0x00960000 = uvMilli 0x00960000 :=
  ⟨⟨0x00960000, mon, by decide⟩, by decide, front_of _ _ _ (by decide +kernel), by decide⟩

/-! ### EnabledChannelsKeepTheirCode -/

def enabledCh : State := mon.wr (GNB_CH_CFG_EN 23) 1

theorem witness_EnabledChannelsKeepTheirCode :
    enabledCh.live = true ∧ enabledCh.rd (GNB_CH_CFG_EN 23) ≠ 0 ∧ mon.rd (GNB_CH_CFG_EN 23) = 0 ∧ ChangesCode enabledCh 23 (0x6447#32).toNat ∧
    ChangesCode mon 23 (0x6447#32).toNat ∧ ¬ CodeInRange enabledCh 23 (0x7F7F#32).toNat ∧ CodeInRange mon 23 (0x6447#32).toNat ∧
    Front (accepted enabledCh (rawCmd 0x102 1 0 (regP (0x40030100 + 4 * 23) (bytesOf 4 (0x6447#32).toNat)))) 0 [] 0x102
      (bytesOf 8 (0x40030100 + 4 * 23) ++ bytesOf 2 1 ++ bytesOf 2 0 ++ bytesOf 4 (0x6447#32).toNat) :=
  ⟨by decide, by decide, by decide, by unfold ChangesCode; decide, by unfold ChangesCode; decide, by unfold CodeInRange; decide, by unfold CodeInRange; decide,
    front_of _ _ _ (by decide +kernel)⟩

/-! ### CheckIsTheCrc32OfR306 -/

theorem witness_CheckIsTheCrc32OfR306 : (∃ c : Bytes, cmdCheckOk c = true) ∧
    (∃ c d : Bytes, c ≠ d ∧ ∀ i < 16 + cmdLen c, c.getD i 0 = d.getD i 0) ∧ crcOfR306 (bytesOf 9 0x393837363534333231) = 0xCBF43926 :=
  ⟨⟨idCmd, by decide +kernel⟩, ⟨idCmd, idCmd ++ [1], by decide +kernel, by decide +kernel⟩, by decide +kernel⟩

end Slice0Tests
end

/-!
# Register reads

What a processor's read of a register delivers, and what it changes: the read's equation for each kind of register
(R3, R5, R62), and from it the reads of PMC_DUMP_PTR and PMC_LOG_STAT.
-/
namespace Sys2Proof.Machine

/-! ### What a delivered value and a latch leave alone -/

theorem whenLive_of_live {s : State} (h : s.live = true) (f : State → State) : whenLive s f = f s := if_pos h

/-- Memory reads as before where its stored bytes and check bytes are the same. -/
theorem memSame_of_eq {s t : State} (hmem : t.mem = s.mem) (hchk : t.chk = s.chk) : MemSame s t :=
  ⟨fun a => by simp only [State.rdByte, hmem], fun k => by simp only [State.rdChk, hchk]⟩

/-- The frame of one register write, for a state that has its register file. -/
theorem regsBut_of_regs_eq_wr {s t : State} {f : Fld} {v : Nat} (h : t.regs = (s.wr f v).regs) : RegsBut [f] s t := by
  intro g hg
  rw [← State.rd_wr_ne s (hg f (List.mem_singleton_self f)) v]
  simp only [State.rd, h]

@[simp] theorem State.deliver_regs (s : State) (who : Requester) (a v : Nat) : (s.deliver who a v).regs = s.regs := rfl
@[simp] theorem State.deliver_mem (s : State) (who : Requester) (a v : Nat) : (s.deliver who a v).mem = s.mem := rfl
@[simp] theorem State.deliver_chk (s : State) (who : Requester) (a v : Nat) : (s.deliver who a v).chk = s.chk := rfl
@[simp] theorem State.deliver_rd (s : State) (who : Requester) (a v : Nat) (f : Fld) : (s.deliver who a v).rd f = s.rd f := rfl
@[simp] theorem State.deliver_wideOf (s : State) (who : Requester) (a v : Nat) (w : Requester) (b : Nat) :
    (s.deliver who a v).wideOf w b = s.wideOf w b := rfl
@[simp] theorem State.deliver_reads_head? (s : State) (who : Requester) (a v : Nat) :
    (s.deliver who a v).reads.head? = some { who := who, addr := a, value := v } := rfl

@[simp] theorem State.setWide_regs (s : State) (w : WideSlot) : (s.setWide w).regs = s.regs := rfl
@[simp] theorem State.setWide_mem (s : State) (w : WideSlot) : (s.setWide w).mem = s.mem := rfl
@[simp] theorem State.setWide_chk (s : State) (w : WideSlot) : (s.setWide w).chk = s.chk := rfl
@[simp] theorem State.setWide_rd (s : State) (w : WideSlot) (f : Fld) : (s.setWide w).rd f = s.rd f := rfl

/-- A slot is listed under its own requester and register. -/
theorem State.wideOf_who_base (s : State) (who : Requester) (base : Nat) :
    (s.wideOf who base).who = who ∧ (s.wideOf who base).base = base := by
  unfold State.wideOf
  cases hfind : s.wide.find? (fun w => w.who = who && w.base = base) with
  | none => exact ⟨rfl, rfl⟩
  | some w => simpa using List.find?_some hfind

/-- A slot that was set is the slot of its requester and register: an empty one is not listed, and reads as empty. -/
theorem State.wideOf_setWide (s : State) {w : WideSlot} {who : Requester} {base : Nat} (hwho : w.who = who)
    (hbase : w.base = base) : (s.setWide w).wideOf who base = w := by
  subst hwho hbase
  cases hempty : w.latched.isEmpty && w.held.isEmpty with
  | true =>
    obtain ⟨hl, hh⟩ := Bool.and_eq_true_iff.mp hempty
    have hwide : (s.setWide w).wide = s.wide.filter fun x => !(x.who = w.who && x.base = w.base) := by
      rw [State.setWide, if_pos hempty, List.nil_append]
    have hfind : (s.setWide w).wide.find? (fun x => x.who = w.who && x.base = w.base) = none := by
      rw [hwide, List.find?_eq_none]
      intro x hx heq
      have hother := (List.mem_filter.mp hx).2
      rw [heq] at hother
      cases hother
    rw [State.wideOf, hfind, Option.getD_none]
    cases w
    simp_all
  | false => simp [State.wideOf, State.setWide, hempty]

/-! ### The equation of a read, for each kind of register -/

/-- A register of one word: the read delivers it and clears its RC fields (R3, R5). -/
theorem State.regRead_narrow (s : State) (who : Requester) {a : Nat} {l : RegLoc} (hl : findReg a = some l)
    (hcnt : l.row.name ≠ "PMC_CNT") (hwide : wideRow l.row = false) :
    s.regRead who a = (s.clearRC l (fun k => k = l.word), wordOf (s.regVal l) l.word) := by
  simp [State.regRead, hl, hcnt, hwide]

/-- The lowest word of a wide register: the read clears the RC fields of all words and latches the upper ones (R5, R62). -/
theorem State.regRead_wide_low (s : State) (who : Requester) {a : Nat} {l : RegLoc} (hl : findReg a = some l)
    (hcnt : l.row.name ≠ "PMC_CNT") (hwide : wideRow l.row = true) (hword : l.word = 0) :
    s.regRead who a =
      ((s.clearRC l fun _ => true).setWide
        { who := who, base := l.base, held := (s.wideOf who l.base).held,
          latched := (List.range (l.words - 1)).map fun k => (k + 1, wordOf (s.regVal l) (k + 1)) },
       wordOf (s.regVal l) 0) := by
  obtain ⟨hwho, hbase⟩ := s.wideOf_who_base who l.base
  simp [State.regRead, hl, hcnt, hwide, hword, hwho, hbase]

/-- An upper word of a wide register that its requester has latched: the read delivers it and lets go of it (R62). -/
theorem State.regRead_wide_latched (s : State) (who : Requester) {a : Nat} {l : RegLoc} {e : Nat × Nat}
    (hl : findReg a = some l) (hcnt : l.row.name ≠ "PMC_CNT") (hwide : wideRow l.row = true) (hword : l.word ≠ 0)
    (he : (s.wideOf who l.base).latched.find? (fun e => e.1 = l.word) = some e) :
    s.regRead who a =
      (s.setWide
        { who := who, base := l.base, held := (s.wideOf who l.base).held,
          latched := (s.wideOf who l.base).latched.filter fun x => x.1 ≠ l.word }, e.2) := by
  obtain ⟨hwho, hbase⟩ := s.wideOf_who_base who l.base
  simp [State.regRead, hl, hcnt, hwide, hword, he, hwho, hbase]

theorem inRegs_of_findReg {a : Nat} {l : RegLoc} (h : findReg a = some l) : inRegs a = true := by
  cases hin : inRegs a with
  | true => rfl
  | false =>
    rw [findReg, hin] at h
    cases h

/-- A processor's read of an aligned word of a register delivers what the read of the map answers. -/
theorem State.procRead_of_findReg (s : State) (who : Requester) {a : BitVec 64} {l : RegLoc}
    (hl : findReg a.toNat = some l) (halign : a.toNat % 4 = 0) {r : State × Nat} (hr : s.regRead who a.toNat = r) :
    s.procRead who a = r.1.deliver who a.toNat r.2 := by
  simp [State.procRead, inRegs_of_findReg hl, halign, hr]

theorem onWide_of_findReg (s : State) (f : State → State) (p : RegLoc → Bool) {a : BitVec 64} {l : RegLoc}
    (hl : findReg a.toNat = some l) (halign : a.toNat % 4 = 0) (hwide : wideRow l.row = true) (hp : p l = true) :
    onWide a p s f = f s := by
  simp [onWide, hl, halign, hwide, hp]

/-! ### PMC_DUMP_PTR and PMC_LOG_STAT in the map -/

/-- PMC_DUMP_PTR as the map locates it. -/
def dumpPtrLoc : RegLoc := { row := rowsPMC[6], n := 0, word := 0 }

/-- Word w of PMC_LOG_STAT as the map locates it. -/
def logStatLoc (w : Nat) : RegLoc := { row := rowsPMC[7], n := 0, word := w }

theorem findReg_dumpPtr : findReg 0x4010001C = some dumpPtrLoc := rfl
theorem findReg_logStat_low : findReg 0x40100020 = some (logStatLoc 0) := rfl
theorem findReg_logStat_high : findReg 0x40100024 = some (logStatLoc 1) := rfl

theorem State.regVal_dumpPtr (s : State) : s.regVal dumpPtrLoc =
    s.rd PMC_DUMP_PTR_WR + s.rd PMC_DUMP_PTR_RD <<< 12 + s.rd PMC_DUMP_PTR_DROP_CNT <<< 24 := by
  calc s.regVal dumpPtrLoc
      = 0 + s.rd PMC_DUMP_PTR_WR <<< 0 + s.rd PMC_DUMP_PTR_RD <<< 12 + s.rd PMC_DUMP_PTR_DROP_CNT <<< 24 := rfl
    _ = _ := by rw [Nat.zero_add, Nat.shiftLeft_zero]

theorem State.regVal_logStat (s : State) (w : Nat) : s.regVal (logStatLoc w) =
    s.rd PMC_LOG_STAT_NEXT + s.rd PMC_LOG_STAT_STAGED <<< 32 + s.rd PMC_LOG_STAT_LOST_CNT <<< 48 := by
  calc s.regVal (logStatLoc w)
      = 0 + s.rd PMC_LOG_STAT_NEXT <<< 0 + s.rd PMC_LOG_STAT_STAGED <<< 32 + s.rd PMC_LOG_STAT_LOST_CNT <<< 48 := rfl
    _ = _ := by rw [Nat.zero_add, Nat.shiftLeft_zero]

/-- DROP_CNT is the one RC field of PMC_DUMP_PTR. -/
theorem State.clearRC_dumpPtr (s : State) :
    s.clearRC dumpPtrLoc (fun k => k = dumpPtrLoc.word) = s.wr PMC_DUMP_PTR_DROP_CNT 0 := rfl

/-- LOST_CNT is the one RC field of PMC_LOG_STAT. -/
theorem State.clearRC_logStat (s : State) (w : Nat) :
    s.clearRC (logStatLoc w) (fun _ => true) = s.wr PMC_LOG_STAT_LOST_CNT 0 := rfl

/-! ### The three reads -/

/-- READ_CLEAR of PMC_DUMP_PTR delivers the register and writes 0 to DROP_CNT. -/
theorem exec_readClear_dumpPtr (who : Requester) (s : State) (hlive : s.live = true) :
    exec (.readClear who 0x4010001C) s =
      .next ((s.wr PMC_DUMP_PTR_DROP_CNT 0).deliver who 0x4010001C (wordOf (s.regVal dumpPtrLoc) 0)) := by
  have hread := s.regRead_narrow who findReg_dumpPtr (by decide) (by decide)
  rw [State.clearRC_dumpPtr] at hread
  calc exec (.readClear who 0x4010001C) s
      = .next (s.procRead who 0x4010001C) := congrArg _ (whenLive_of_live hlive _)
    _ = _ := congrArg _ (s.procRead_of_findReg (a := 0x4010001C) who findReg_dumpPtr (by decide) hread)

/-- WIDE_REG_LOW_READ of PMC_LOG_STAT delivers the lower word, latches the upper one as it stood, and writes 0 to
LOST_CNT. -/
theorem exec_wideRegLowRead_logStat (who : Requester) (s : State) (hlive : s.live = true) :
    exec (.wideRegLowRead who 0x40100020) s =
      .next (((s.wr PMC_LOG_STAT_LOST_CNT 0).setWide
        { who := who, base := 0x40100020, held := (s.wideOf who 0x40100020).held,
          latched := [(1, wordOf (s.regVal (logStatLoc 0)) 1)] }).deliver who 0x40100020
          (wordOf (s.regVal (logStatLoc 0)) 0)) := by
  have hread := s.regRead_wide_low who findReg_logStat_low (by decide) (by decide) rfl
  rw [State.clearRC_logStat] at hread
  calc exec (.wideRegLowRead who 0x40100020) s
      = .next (onWide 0x40100020 (fun l => l.word = 0) s fun s => s.procRead who 0x40100020) :=
        congrArg _ (whenLive_of_live hlive _)
    _ = .next (s.procRead who 0x40100020) :=
        congrArg _ (onWide_of_findReg (a := 0x40100020) s _ _ findReg_logStat_low (by decide) (by decide) rfl)
    _ = _ := congrArg _ (s.procRead_of_findReg (a := 0x40100020) who findReg_logStat_low (by decide) hread)

/-- WIDE_REG_HIGH_READ of PMC_LOG_STAT by a requester that has latched its upper word delivers that and empties the
latch. -/
theorem exec_wideRegHighRead_logStat (who : Requester) (x : Nat) (s : State) (hlive : s.live = true)
    (hlatch : (s.wideOf who 0x40100020).latched = [(1, x)]) :
    exec (.wideRegHighRead who 0x40100024) s =
      .next ((s.setWide
        { who := who, base := 0x40100020, held := (s.wideOf who 0x40100020).held, latched := [] }).deliver who
          0x40100024 x) := by
  have hbase : (logStatLoc 1).base = 0x40100020 := rfl
  have hread := s.regRead_wide_latched who findReg_logStat_high (e := (1, x)) (by decide) (by decide) (by decide)
    (by rw [hbase, hlatch]; rfl)
  simp only [hbase, hlatch] at hread
  calc exec (.wideRegHighRead who 0x40100024) s
      = .next (onWide 0x40100024 (fun l => 0 < l.word) s fun s => s.procRead who 0x40100024) :=
        congrArg _ (whenLive_of_live hlive _)
    _ = .next (s.procRead who 0x40100024) :=
        congrArg _ (onWide_of_findReg (a := 0x40100024) s _ _ findReg_logStat_high (by decide) (by decide) rfl)
    _ = _ := congrArg _ (s.procRead_of_findReg (a := 0x40100024) who findReg_logStat_high (by decide) hread)

theorem wordOf_zero (v : Nat) : wordOf v 0 = v % 2 ^ 32 := rfl

/-- The words of PMC_LOG_STAT: NEXT below, STAGED and LOST_CNT above. -/
theorem State.wordOf_logStat (s : State) (w : Nat) (hnext : s.rd PMC_LOG_STAT_NEXT < 2 ^ 32)
    (hstaged : s.rd PMC_LOG_STAT_STAGED < 2 ^ 13) (hlost : s.rd PMC_LOG_STAT_LOST_CNT < 2 ^ 16) :
    wordOf (s.regVal (logStatLoc w)) 0 = s.rd PMC_LOG_STAT_NEXT ∧
      wordOf (s.regVal (logStatLoc w)) 1 = s.rd PMC_LOG_STAT_STAGED + s.rd PMC_LOG_STAT_LOST_CNT * 2 ^ 16 := by
  simp only [wordOf, bits, State.regVal_logStat, Nat.shiftLeft_eq, Nat.shiftRight_eq_div_pow]
  omega

/-- Settles O11: each read's next state is written out by its lemma above, and the clauses are read off it. -/
theorem registerReadsDeliverAndClear : Obligations.RegisterReadsDeliverAndClear := by
  refine ⟨fun who s hlive => ?_, fun who s hlive hnext hstaged hlost => ?_, fun who x s hlive hlatch => ?_⟩
  · refine ⟨_, exec_readClear_dumpPtr who s hlive, ?_, ?_, regsBut_of_regs_eq_wr (v := 0) rfl, memSame_of_eq rfl rfl⟩
    · rw [State.deliver_reads_head?, wordOf_zero, State.regVal_dumpPtr, Nat.shiftLeft_eq, Nat.shiftLeft_eq]
    · simp
  · obtain ⟨hlow, hhigh⟩ := s.wordOf_logStat 0 hnext hstaged hlost
    refine ⟨_, exec_wideRegLowRead_logStat who s hlive, ?_, ?_, ?_, regsBut_of_regs_eq_wr (v := 0) rfl, memSame_of_eq rfl rfl⟩
    · rw [State.deliver_reads_head?, hlow]
    · simp
    · rw [State.deliver_wideOf, State.wideOf_setWide _ rfl rfl, hhigh]
  · refine ⟨_, exec_wideRegHighRead_logStat who x s hlive hlatch, rfl, ?_, rfl, memSame_of_eq rfl rfl⟩
    rw [State.deliver_wideOf, State.wideOf_setWide _ rfl rfl]

end Sys2Proof.Machine

/-!
# The role of the module

What a step keeps, whatever command stands in front (Laws/Keeps.lean), and from it the rules of the role: MONITOR before
a start has completed and in Bulb mode (R15), and the ways in which a role once taken can end (R16).
-/
namespace Sys2Proof.Machine

/-- A command keeps what its own meaning keeps. -/
theorem exec_keeps (c : Instr) (s : State) : OutKeeps s (exec c s) :=
  match c with
  | .registerWrite who addr v => execRegisterWrite_keeps who addr v (Keeps.refl s)
  | .readClear who addr => execReadClear_keeps who addr (Keeps.refl s)
  | .wideRegLowRead who addr => execWideRegLowRead_keeps who addr (Keeps.refl s)
  | .wideRegHighRead who addr => execWideRegHighRead_keeps who addr (Keeps.refl s)
  | .wideRegLowerWrite who addr v => execWideRegLowerWrite_keeps who addr v (Keeps.refl s)
  | .wideRegCommitWrite who addr v => execWideRegCommitWrite_keeps who addr v (Keeps.refl s)
  | .powerOnReset => execPowerOnReset_keeps (Keeps.refl s)
  | .resetPin high => execResetPin_keeps high (Keeps.refl s)
  | .brownOut high inTime collapse => execBrownOut_keeps high inTime collapse (Keeps.refl s)
  | .railOutOfWindow rail => execRailOutOfWindow_keeps rail (Keeps.refl s)
  | .railsQualified vin => execRailsQualified_keeps vin (Keeps.refl s)
  | .junctionHot tj => execJunctionHot_keeps tj (Keeps.refl s)
  | .tempCheckFail tj => execTempCheckFail_keeps tj (Keeps.refl s)
  | .junctionCool tj => execJunctionCool_keeps tj (Keeps.refl s)
  | .startSequence straps bad => execStartSequence_keeps straps bad
  | .refclkWaitTimeout => execRefclkWaitTimeout_keeps (Keeps.refl s)
  | .laneTrainTimeout => execLaneTrainTimeout_keeps (Keeps.refl s)
  | .startWatchdogExpiry => execStartWatchdogExpiry_keeps (Keeps.refl s)
  | .restartAfterRelease => execRestartAfterRelease_keeps (Keeps.refl s)
  | .tokenCountChange cnt => execTokenCountChange_keeps cnt (Keeps.refl s)
  | .tokenAssert => execTokenAssert_keeps (Keeps.refl s)
  | .dominoTake => execDominoTake_keeps (Keeps.refl s)
  | .tokenConfirm drive => execTokenConfirm_keeps drive (Keeps.refl s)
  | .tokenConfirmTimeout => execTokenConfirmTimeout_keeps (Keeps.refl s)
  | .tokenLineFault => execTokenLineFault_keeps (Keeps.refl s)
  | .vetoDetect => execVetoDetect_keeps (Keeps.refl s)
  | .prdRelease => execPrdRelease_keeps (Keeps.refl s)
  | .watchdogKick src => execWatchdogKick_keeps src (Keeps.refl s)
  | .watchdogExpiry => execWatchdogExpiry_keeps (Keeps.refl s)
  | .prdWdtWrite v => execPrdWdtWrite_keeps v (Keeps.refl s)
  | .heartbeatTick => execHeartbeatTick_keeps (Keeps.refl s)
  | .heartbeatLoss => execHeartbeatLoss_keeps (Keeps.refl s)
  | .statusBlockSend lane => execStatusBlockSend_keeps lane (Keeps.refl s)
  | .statusBlockReceive lane b => execStatusBlockReceive_keeps lane b (Keeps.refl s)
  | .laneTrained lane => execLaneTrained_keeps lane (Keeps.refl s)
  | .laneDown lane => execLaneDown_keeps lane (Keeps.refl s)
  | .prdCommit ci => execPrdCommit_keeps ci (Keeps.refl s)
  | .deltaFrame f => execDeltaFrame_keeps f (Keeps.refl s)
  | .cmdpageFrame f => execCmdpageFrame_keeps f (Keeps.refl s)
  | .bulkFrame f => execBulkFrame_keeps f (Keeps.refl s)
  | .commitFrame f img => execCommitFrame_keeps f img (Keeps.refl s)
  | .bulkSend => execBulkSend_keeps (Keeps.refl s)
  | .loadFrame f => execLoadFrame_keeps f (Keeps.refl s)
  | .loadConfirmFrame f => execLoadConfirmFrame_keeps f (Keeps.refl s)
  | .identFrame lane f => execIdentFrame_keeps lane f (Keeps.refl s)
  | .syncReqFrame f => execSyncReqFrame_keeps f (Keeps.refl s)
  | .prdSyncReq => execPrdSyncReq_keeps (Keeps.refl s)
  | .gnssPartnerFrame sweep off prs => execGnssPartnerFrame_keeps sweep off prs (Keeps.refl s)
  | .ns32Wrap => execNs32Wrap_keeps (Keeps.refl s)
  | .refclkLoss => execRefclkLoss_keeps (Keeps.refl s)
  | .refclkReturn => execRefclkReturn_keeps (Keeps.refl s)
  | .syncExchangeStart t1 => execSyncExchangeStart_keeps t1 (Keeps.refl s)
  | .delayReq port t2 t3 => execDelayReq_keeps port t2 t3 (Keeps.refl s)
  | .delayResp port t2 t3 t4 epoch pstate valid depth => execDelayResp_keeps port t2 t3 t4 epoch pstate valid depth (Keeps.refl s)
  | .exchangeMissing => execExchangeMissing_keeps (Keeps.refl s)
  | .ptuOffsetIn off t => execPtuOffsetIn_keeps off t (Keeps.refl s)
  | .ppsInEdge falling t => execPpsInEdge_keeps falling t (Keeps.refl s)
  | .holdoverEntry => execHoldoverEntry_keeps (Keeps.refl s)
  | .stepNotice delta tb => execStepNotice_keeps delta tb (Keeps.refl s)
  | .stepApply => execStepApply_keeps (Keeps.refl s)
  | .secondBoundary => execSecondBoundary_keeps (Keeps.refl s)
  | .rebase => execRebase_keeps (Keeps.refl s)
  | .tsqPop mask => execTsqPop_keeps mask (Keeps.refl s)
  | .portBlockLock p => execPortBlockLock_keeps p (Keeps.refl s)
  | .portLinkLoss p => execPortLinkLoss_keeps p (Keeps.refl s)
  | .guardTrip p long kib bad => execGuardTrip_keeps p long kib bad (Keeps.refl s)
  | .guardHoldExpiry p => execGuardHoldExpiry_keeps p (Keeps.refl s)
  | .frameReceive p hdr words ends => execFrameReceive_keeps p hdr words ends (Keeps.refl s)
  | .frameTransmitStart p => execFrameTransmitStart_keeps p (Keeps.refl s)
  | .txRingSubmit tail => execTxRingSubmit_keeps tail (Keeps.refl s)
  | .rxRingHead head => execRxRingHead_keeps head (Keeps.refl s)
  | .zfbRollStart => execZfbRollStart_keeps (Keeps.refl s)
  | .rollProbe => execRollProbe_keeps (Keeps.refl s)
  | .probeTimeout => execProbeTimeout_keeps (Keeps.refl s)
  | .rollPresent => execRollPresent_keeps (Keeps.refl s)
  | .authChal => execAuthChal_keeps (Keeps.refl s)
  | .authAnswer => execAuthAnswer_keeps (Keeps.refl s)
  | .authDeny => execAuthDeny_keeps (Keeps.refl s)
  | .rollAssign => execRollAssign_keeps (Keeps.refl s)
  | .rollTable => execRollTable_keeps (Keeps.refl s)
  | .rollAck => execRollAck_keeps (Keeps.refl s)
  | .portOpen => execPortOpen_keeps (Keeps.refl s)
  | .rollDone => execRollDone_keeps (Keeps.refl s)
  | .rollActivation => execRollActivation_keeps (Keeps.refl s)
  | .eventLinkUp => execEventLinkUp_keeps (Keeps.refl s)
  | .eventLinkDown => execEventLinkDown_keeps (Keeps.refl s)
  | .eventGuardTrip => execEventGuardTrip_keeps (Keeps.refl s)
  | .eventNewNode => execEventNewNode_keeps (Keeps.refl s)
  | .reversalNotice => execReversalNotice_keeps (Keeps.refl s)
  | .sweepFrameSend => execSweepFrameSend_keeps (Keeps.refl s)
  | .sweepFrameReceive => execSweepFrameReceive_keeps (Keeps.refl s)
  | .recallIssue sweep => execRecallIssue_keeps sweep (Keeps.refl s)
  | .recallRepeat sweep => execRecallRepeat_keeps sweep (Keeps.refl s)
  | .recallReceive => execRecallReceive_keeps (Keeps.refl s)
  | .commandFrameReceive => execCommandFrameReceive_keeps (Keeps.refl s)
  | .powerSetpoint => execPowerSetpoint_keeps (Keeps.refl s)
  | .signalWrite => execSignalWrite_keeps (Keeps.refl s)
  | .wakeItem => execWakeItem_keeps (Keeps.refl s)
  | .commandItemEffect => execCommandItemEffect_keeps (Keeps.refl s)
  | .cfeDownlinkSend => execCfeDownlinkSend_keeps (Keeps.refl s)
  | .cfeCommandFrame f => execCfeCommandFrame_keeps f (Keeps.refl s)
  | .cfeSyncFrame f => execCfeSyncFrame_keeps f (Keeps.refl s)
  | .cfeUplinkSend aux mod => execCfeUplinkSend_keeps aux mod (Keeps.refl s)
  | .cfeUplinkReceive f t => execCfeUplinkReceive_keeps f t (Keeps.refl s)
  | .cfeSilence => execCfeSilence_keeps (Keeps.refl s)
  | .cfeLinkLost => execCfeLinkLost_keeps (Keeps.refl s)
  | .hvWrite r v => execHvWrite_keeps r v (Keeps.refl s)
  | .hvResend => execHvResend_keeps (Keeps.refl s)
  | .stackRise => execStackRise_keeps (Keeps.refl s)
  | .stackFall => execStackFall_keeps (Keeps.refl s)
  | .snowdropAuto => execSnowdropAuto_keeps (Keeps.refl s)
  | .cfeEnable on => execCfeEnable_keeps on (Keeps.refl s)
  | .snowEnter => execSnowEnter_keeps (Keeps.refl s)
  | .hibEnter => execHibEnter_keeps (Keeps.refl s)
  | .snowdropCheck cells codes => execSnowdropCheck_keeps cells codes (Keeps.refl s)
  | .shuntWake => execShuntWake_keeps (Keeps.refl s)
  | .cellComparatorChange ch uv on => execCellComparatorChange_keeps ch uv on (Keeps.refl s)
  | .otFlagChange n on => execOtFlagChange_keeps n on (Keeps.refl s)
  | .balReqWrite req => execBalReqWrite_keeps req (Keeps.refl s)
  | .balLeaseExpiry => execBalLeaseExpiry_keeps (Keeps.refl s)
  | .balPhaseChange => execBalPhaseChange_keeps (Keeps.refl s)
  | .switchOvercurrent ch => execSwitchOvercurrent_keeps ch (Keeps.refl s)
  | .dieHotChange hot => execDieHotChange_keeps hot (Keeps.refl s)
  | .measPauseOpen sweep => execMeasPauseOpen_keeps sweep (Keeps.refl s)
  | .measPauseClose => execMeasPauseClose_keeps (Keeps.refl s)
  | .schRun run => execSchRun_keeps run (Keeps.refl s)
  | .schRespSelWrite idx => execSchRespSelWrite_keeps idx (Keeps.refl s)
  | .sweepPublish => execSweepPublish_keeps (Keeps.refl s)
  | .cseRun run => execCseRun_keeps run (Keeps.refl s)
  | .cseUpdate => execCseUpdate_keeps (Keeps.refl s)
  | .hibernateEntry => execHibernateEntry_keeps (Keeps.refl s)
  | .engineWake => execEngineWake_keeps (Keeps.refl s)
  | .cseWakeNow => execCseWakeNow_keeps (Keeps.refl s)
  | .replacementChallenge m => execReplacementChallenge_keeps m (Keeps.refl s)
  | .gnbRun run => execGnbRun_keeps run (Keeps.refl s)
  | .gnssClkLoss => execGnssClkLoss_keeps (Keeps.refl s)
  | .gnssClkReturn => execGnssClkReturn_keeps (Keeps.refl s)
  | .inputOverflow => execInputOverflow_keeps (Keeps.refl s)
  | .gnbChannelEnable n en => execGnbChannelEnable_keeps n en (Keeps.refl s)
  | .searchComplete n dwells bin cell => execSearchComplete_keeps n dwells bin cell (Keeps.refl s)
  | .pullInLock n => execPullInLock_keeps n (Keeps.refl s)
  | .pullInTimeout n => execPullInTimeout_keeps n (Keeps.refl s)
  | .bitSync n => execBitSync_keeps n (Keeps.refl s)
  | .frameSync n back => execFrameSync_keeps n back (Keeps.refl s)
  | .cycleSlip n => execCycleSlip_keeps n (Keeps.refl s)
  | .signalLoss n => execSignalLoss_keeps n (Keeps.refl s)
  | .navParityLoss n => execNavParityLoss_keeps n (Keeps.refl s)
  | .navWord n w t => execNavWord_keeps n w t (Keeps.refl s)
  | .correlatorMs samples t => execCorrelatorMs_keeps samples t (Keeps.refl s)
  | .firmwareErrorDeadline m => execFirmwareErrorDeadline_keeps m (Keeps.refl s)
  | .measurementLatch cn0 => execMeasurementLatch_keeps cn0 (Keeps.refl s)
  | .measurementPublish => execMeasurementPublish_keeps (Keeps.refl s)
  | .timeSolution week sats => execTimeSolution_keeps week sats (Keeps.refl s)
  | .fusRun run => execFusRun_keeps run (Keeps.refl s)
  | .fusSampleCommit => execFusSampleCommit_keeps (Keeps.refl s)
  | .fusInPush who v => execFusInPush_keeps who v (Keeps.refl s)
  | .fusRefEnable r en => execFusRefEnable_keeps r en (Keeps.refl s)
  | .fusUpdate => execFusUpdate_keeps (Keeps.refl s)
  | .fusPublish => execFusPublish_keeps (Keeps.refl s)
  | .slvRingSubmit tail => execSlvRingSubmit_keeps tail (Keeps.refl s)
  | .slvRequestRelease num => execSlvRequestRelease_keeps num (Keeps.refl s)
  | .slvLoad => execSlvLoad_keeps (Keeps.refl s)
  | .slvSolve => execSlvSolve_keeps (Keeps.refl s)
  | .slvClear => execSlvClear_keeps (Keeps.refl s)
  | .slvSetupComplete pip => execSlvSetupComplete_keeps pip (Keeps.refl s)
  | .slvIterationComplete dur pip => execSlvIterationComplete_keeps dur pip (Keeps.refl s)
  | .slvDeadline num phaseS begun => execSlvDeadline_keeps num phaseS begun (Keeps.refl s)
  | .hlmRun run => execHlmRun_keeps run (Keeps.refl s)
  | .hlmLawStart remote => execHlmLawStart_keeps remote (Keeps.refl s)
  | .hlmQpResult => execHlmQpResult_keeps (Keeps.refl s)
  | .hlmCommandPublish => execHlmCommandPublish_keeps (Keeps.refl s)
  | .hlmModeSet mode => execHlmModeSet_keeps mode (Keeps.refl s)
  | .hlmRestore => execHlmRestore_keeps (Keeps.refl s)
  | .loopEnWrite n en => execLoopEnWrite_keeps n en (Keeps.refl s)
  | .loopSample => execLoopSample_keeps (Keeps.refl s)
  | .loopPublish ovr => execLoopPublish_keeps ovr (Keeps.refl s)
  | .loopOpen n => execLoopOpen_keeps n (Keeps.refl s)
  | .loopClose n => execLoopClose_keeps n (Keeps.refl s)
  | .loopCommit n => execLoopCommit_keeps n (Keeps.refl s)
  | .loopClear n => execLoopClear_keeps n (Keeps.refl s)
  | .taskRelease t => execTaskRelease_keeps t (Keeps.refl s)
  | .inputCopy t => execInputCopy_keeps t (Keeps.refl s)
  | .instanceComplete t outs ints => execInstanceComplete_keeps t outs ints (Keeps.refl s)
  | .outputInstant t => execOutputInstant_keeps t (Keeps.refl s)
  | .eventRelease t => execEventRelease_keeps t (Keeps.refl s)
  | .latchedEventRelease t => execLatchedEventRelease_keeps t (Keeps.refl s)
  | .crtRunWrite run => execCrtRunWrite_keeps run (Keeps.refl s)
  | .crtResetWrite => execCrtResetWrite_keeps (Keeps.refl s)
  | .crtStnAckWrite mask => execCrtStnAckWrite_keeps mask (Keeps.refl s)
  | .stationInputSend cycle rj => execStationInputSend_keeps cycle rj (Keeps.refl s)
  | .stationInputFrame => execStationInputFrame_keeps (Keeps.refl s)
  | .stationOutputFrame => execStationOutputFrame_keeps (Keeps.refl s)
  | .stationApply => execStationApply_keeps (Keeps.refl s)
  | .fioEnable on => execFioEnable_keeps on (Keeps.refl s)
  | .fioDownlinkSend => execFioDownlinkSend_keeps (Keeps.refl s)
  | .fioCommandFrame d rb => execFioCommandFrame_keeps d rb (Keeps.refl s)
  | .fioSyncFrame d rb => execFioSyncFrame_keeps d rb (Keeps.refl s)
  | .fioUplinkSend => execFioUplinkSend_keeps (Keeps.refl s)
  | .fioUplinkReceive f => execFioUplinkReceive_keeps f (Keeps.refl s)
  | .fioSilence => execFioSilence_keeps (Keeps.refl s)
  | .fioLinkLost => execFioLinkLost_keeps (Keeps.refl s)
  | .fieldHeldWrite r v => execFieldHeldWrite_keeps r v (Keeps.refl s)
  | .fieldHeldResend => execFieldHeldResend_keeps (Keeps.refl s)
  | .fieldSupplyLow => execFieldSupplyLow_keeps (Keeps.refl s)
  | .fieldSupplyGood => execFieldSupplyGood_keeps (Keeps.refl s)
  | .fieldPor => execFieldPor_keeps (Keeps.refl s)
  | .fieldSupplyRise => execFieldSupplyRise_keeps (Keeps.refl s)
  | .inputDebounceChange n raw => execInputDebounceChange_keeps n raw (Keeps.refl s)
  | .outputOverload n => execOutputOverload_keeps n (Keeps.refl s)
  | .outputOverTemp n => execOutputOverTemp_keeps n (Keeps.refl s)
  | .outputRetry n holds => execOutputRetry_keeps n holds (Keeps.refl s)
  | .openWire n on => execOpenWire_keeps n on (Keeps.refl s)
  | .discrepancy n on => execDiscrepancy_keeps n on (Keeps.refl s)
  | .canBitTimingWrite n off v inFrame => execCanBitTimingWrite_keeps n off v inFrame (Keeps.refl s)
  | .canIntegrationDone n => execCanIntegrationDone_keeps n (Keeps.refl s)
  | .canSlotOccurrence n k => execCanSlotOccurrence_keeps n k (Keeps.refl s)
  | .canWindowEnd n k started => execCanWindowEnd_keeps n k started (Keeps.refl s)
  | .canArbitrationLost n m => execCanArbitrationLost_keeps n m (Keeps.refl s)
  | .canFrameComplete n m sof => execCanFrameComplete_keeps n m sof (Keeps.refl s)
  | .canBusError n kind transmitting dominant => execCanBusError_keeps n kind transmitting dominant (Keeps.refl s)
  | .canFrameReceive n f => execCanFrameReceive_keeps n f (Keeps.refl s)
  | .canTxreq n m => execCanTxreq_keeps n m (Keeps.refl s)
  | .canRecover n => execCanRecover_keeps n (Keeps.refl s)
  | .canRecoveryDone n => execCanRecoveryDone_keeps n (Keeps.refl s)
  | .canTxClr n => execCanTxClr_keeps n (Keeps.refl s)
  | .safDownlinkSend => execSafDownlinkSend_keeps (Keeps.refl s)
  | .safLaneFrame k f => execSafLaneFrame_keeps k f (Keeps.refl s)
  | .safUplinkReceive k valid => execSafUplinkReceive_keeps k valid (Keeps.refl s)
  | .safRefreshSilence k => execSafRefreshSilence_keeps k (Keeps.refl s)
  | .safLaneSilent k => execSafLaneSilent_keeps k (Keeps.refl s)
  | .laneSample k levels pins => execLaneSample_keeps k levels pins (Keeps.refl s)
  | .laneCycle k => execLaneCycle_keeps k (Keeps.refl s)
  | .inputPairDiscrepancy k p => execInputPairDiscrepancy_keeps k p (Keeps.refl s)
  | .functionSourceDiscrepancy k n => execFunctionSourceDiscrepancy_keeps k n (Keeps.refl s)
  | .telegramArrival record => execTelegramArrival_keeps record (Keeps.refl s)
  | .telegramTimeout k m => execTelegramTimeout_keeps k m (Keeps.refl s)
  | .voteSend partner => execVoteSend_keeps partner (Keeps.refl s)
  | .testPulseStart q => execTestPulseStart_keeps q (Keeps.refl s)
  | .testPulseEnd q mv => execTestPulseEnd_keeps q mv (Keeps.refl s)
  | .testPulseOverdue q m => execTestPulseOverdue_keeps q m (Keeps.refl s)
  | .safReset v => execSafReset_keeps v (Keeps.refl s)
  | .safReqWrite v => execSafReqWrite_keeps v (Keeps.refl s)
  | .memoryStore addr data => execMemoryStore_keeps addr data (Keeps.refl s)
  | .memoryRead who addr len code => execMemoryRead_keeps who addr len code (Keeps.refl s)
  | .busErrorAccess who addr => execBusErrorAccess_keeps who addr (Keeps.refl s)
  | .scrubRead dram code => execScrubRead_keeps dram code (Keeps.refl s)
  | .flashScrub => execFlashScrub_keeps (Keeps.refl s)
  | .doorbell mask => execDoorbell_keeps mask (Keeps.refl s)
  | .mbxAck mask => execMbxAck_keeps mask (Keeps.refl s)
  | .hostBufferWrite word v => execHostBufferWrite_keeps word v (Keeps.refl s)
  | .mbxPathWrite v => execMbxPathWrite_keeps v (Keeps.refl s)
  | .mailboxFrameReceive => execMailboxFrameReceive_keeps (Keeps.refl s)
  | .ethernetDatagram addr port b => execEthernetDatagram_keeps addr port b (Keeps.refl s)
  | .internalCommand n c => execInternalCommand_keeps n c (Keeps.refl s)
  | .longCommandComplete => execLongCommandComplete_keeps (Keeps.refl s)
  | .identify => execIdentify_keeps (Keeps.refl s)
  | .statusCommand => execStatusCommand_keeps (Keeps.refl s)
  | .restartCommand => execRestartCommand_keeps (Keeps.refl s)
  | .faultLogRead => execFaultLogRead_keeps (Keeps.refl s)
  | .regRead => execRegRead_keeps (Keeps.refl s)
  | .regWrite => execRegWrite_keeps (Keeps.refl s)
  | .memRead => execMemRead_keeps (Keeps.refl s)
  | .memWrite => execMemWrite_keeps (Keeps.refl s)
  | .shadowWrite => execShadowWrite_keeps (Keeps.refl s)
  | .shadowCheck => execShadowCheck_keeps (Keeps.refl s)
  | .flip => execFlip_keeps (Keeps.refl s)
  | .flipInstant => execFlipInstant_keeps (Keeps.refl s)
  | .setRead => execSetRead_keeps (Keeps.refl s)
  | .fwWrite => execFwWrite_keeps (Keeps.refl s)
  | .fwVerify => execFwVerify_keeps (Keeps.refl s)
  | .fwSelect => execFwSelect_keeps (Keeps.refl s)
  | .bulbClear => execBulbClear_keeps (Keeps.refl s)
  | .keyProvision => execKeyProvision_keeps (Keeps.refl s)
  | .keyErase => execKeyErase_keeps (Keeps.refl s)
  | .hlmSetpoint => execHlmSetpoint_keeps (Keeps.refl s)
  | .hlmJoystick => execHlmJoystick_keeps (Keeps.refl s)
  | .hlmMode => execHlmMode_keeps (Keeps.refl s)
  | .cseRestore => execCseRestore_keeps (Keeps.refl s)
  | .cseService => execCseService_keeps (Keeps.refl s)
  | .cseWake => execCseWake_keeps (Keeps.refl s)
  | .cseCommit => execCseCommit_keeps (Keeps.refl s)
  | .fusPush => execFusPush_keeps (Keeps.refl s)
  | .rollStart => execRollStart_keeps (Keeps.refl s)
  | .routeRead => execRouteRead_keeps (Keeps.refl s)
  | .taskControlRun => execTaskControlRun_keeps (Keeps.refl s)
  | .taskControlStop => execTaskControlStop_keeps (Keeps.refl s)
  | .taskControlReset => execTaskControlReset_keeps (Keeps.refl s)
  | .taskRun => execTaskRun_keeps (Keeps.refl s)
  | .taskStop => execTaskStop_keeps (Keeps.refl s)
  | .taskHold => execTaskHold_keeps (Keeps.refl s)
  | .taskStep => execTaskStep_keeps (Keeps.refl s)
  | .taskResume => execTaskResume_keeps (Keeps.refl s)
  | .stnAck => execStnAck_keeps (Keeps.refl s)
  | .taskTrigger => execTaskTrigger_keeps (Keeps.refl s)
  | .forceSet => execForceSet_keeps (Keeps.refl s)
  | .forceClear => execForceClear_keeps (Keeps.refl s)
  | .canBusoffReturn => execCanBusoffReturn_keeps (Keeps.refl s)
  | .pmcCounterWrap n k => execPmcCounterWrap_keeps n k (Keeps.refl s)
  | .pmcCntWrite n v => execPmcCntWrite_keeps n v (Keeps.refl s)
  | .pmcFreeze => execPmcFreeze_keeps (Keeps.refl s)
  | .periodicSnapshot manual => execPeriodicSnapshot_keeps manual (Keeps.refl s)
  | .faultLogMergeExpiry => execFaultLogMergeExpiry_keeps (Keeps.refl s)
  | .faultLogFlashWrite => execFaultLogFlashWrite_keeps (Keeps.refl s)
  | .learnedRecordCommit slot => execLearnedRecordCommit_keeps slot (Keeps.refl s)
  | .rollCallRestart => execRollCallRestart_keeps (Keeps.refl s)
  | .slvSolveComplete pip => execSlvSolveComplete_keeps pip (Keeps.refl s)
  | .mirrorLaneTransmit lane => execMirrorLaneTransmit_keeps lane (Keeps.refl s)
  | .dominoLaneFrame m => execDominoLaneFrame_keeps m (Keeps.refl s)
  | .hostEthernetFrame event t => execHostEthernetFrame_keeps event t (Keeps.refl s)

/-- A tick of the timing clock keeps what a command keeps, but for the tick count. -/
theorem State.tick_keeps (s : State) : Keeps { s with ticks := s.ticks + 1 } s.tick := by
  unfold State.tick
  extract_lets d a t0 ptu s1 s2 s3 s4 s5
  have h1 : Keeps { s with ticks := s.ticks + 1 } s1 := Keeps.field (Keeps.refl _)
  have h2 : Keeps { s with ticks := s.ticks + 1 } s2 := State.wr_keeps h1 _ _
  have h3 : Keeps { s with ticks := s.ticks + 1 } s3 :=
    Keeps.ite (fun _ => State.wrapInc_keeps _ h2) (fun _ => h2)
  have h4 : Keeps { s with ticks := s.ticks + 1 } s4 := State.gnbPps_keeps (State.gridRun_keeps _ h3)
  have h5 : Keeps { s with ticks := s.ticks + 1 } s5 :=
    Keeps.ite (fun _ => State.count_keeps _ _ _ h4) (fun _ => h4)
  exact Keeps.ite (fun _ => State.count_keeps _ _ _ h5) (fun _ => h5)

/-- A step keeps what a command keeps, seen from the state without its front command, or one tick on. -/
theorem step_keeps {s t : State} (h : step s = .next t) :
    ∃ u : State, u.start = s.start ∧ u.regs = s.regs ∧ u.mem = s.mem ∧ u.chk = s.chk ∧ Keeps u t := by
  unfold step at h
  split at h
  next c rest _ =>
    have hk := exec_keeps c (s.setPending rest)
    rw [h] at hk
    exact ⟨s.setPending rest, rfl, rfl, rfl, rfl, hk⟩
  next =>
    cases h
    exact ⟨{ s with ticks := s.ticks + 1 }, rfl, rfl, rfl, rfl, s.tick_keeps⟩

/-- R15 as the statements give it, and as Laws/Keeps.lean does. -/
theorem roleBeforeStart_iff (s : State) : RoleBeforeStart s ↔ RoleOk s := by
  rw [RoleBeforeStart, RoleOk, Decidable.imp_iff_not_or, Decidable.not_not]

/-- Settles O5: R15 is among what every step keeps. -/
theorem roleIsMonitorBeforeStartAndInBulb : Obligations.RoleIsMonitorBeforeStartAndInBulb := by
  intro s t hrole hstep
  obtain ⟨u, hstart, -, -, -, hkeeps⟩ := step_keeps hstep
  rw [roleBeforeStart_iff] at hrole ⊢
  refine hkeeps.role ?_
  rwa [RoleOk, hstart]

/-- Settles O6: R16 is among what every step keeps. -/
theorem roleChangesOnlyByTakeoverOrRestart : Obligations.RoleChangesOnlyByTakeoverOrRestart := by
  intro s t hrun hstep
  obtain ⟨u, hstart, -, -, -, hkeeps⟩ := step_keeps hstep
  have hmove := hkeeps.move
  rw [RoleStep, hstart] at hmove
  exact hmove hrun

/-- Settles O3: the reset state lists no memory cell, and its start has not begun. -/
theorem resetStateIsCanonical : Obligations.ResetStateIsCanonical := by
  have hcanonical : Canonical State.reset := ⟨rfl, rfl⟩
  have hidle : State.reset.start.phase = .idle := rfl
  exact ⟨hcanonical, fun _ => rfl, rfl, rfl, by rw [hidle]; decide⟩

end Sys2Proof.Machine

/-!
# What `OnlyBlock` asks of a state

`OnlyBlock b s t` speaks of every record of type `Fld` whose address lies outside block b, not of the fields of the
register map alone, and the register file holds a field under `Fld.key`, its address times 65536 plus its lowest bit. So
each field of block b shares its key with a record at address 0, and `OnlyBlock b` bars its change too: a statement that
gives `OnlyBlock b` beside the change of a field of block b fails wherever that field does change.
-/
namespace Sys2Proof.Machine

/-- The record at address 0 that the register file holds under the key of f. -/
def fldAtZero (f : Fld) : Fld := { f with addr := 0, lo := f.key }

@[simp] theorem fldAtZero_key (f : Fld) : (fldAtZero f).key = f.key := by
  rw [fldAtZero, Fld.key, Nat.zero_mul, Nat.zero_add]

@[simp] theorem State.rd_fldAtZero (s : State) (f : Fld) : s.rd (fldAtZero f) = s.rd f := by
  rw [State.rd, fldAtZero_key]; rfl

/-- No field changes under `OnlyBlock`, but those of the fault log and of the event counters. -/
theorem OnlyBlock.rd_eq {b : Nat} {s t : State} (h : OnlyBlock b s t) {f : Fld}
    (hf : ∀ g ∈ logFields ++ countFields, f.key ≠ g.key) : t.rd f = s.rd f := by
  have hkey : ∀ g ∈ logFields ++ countFields, (fldAtZero f).key ≠ g.key := fun g hg => by
    rw [fldAtZero_key]; exact hf g hg
  have hzero := h (fldAtZero f) hkey (.inl (by simp only [fldAtZero]; omega))
  rwa [State.rd_fldAtZero, State.rd_fldAtZero] at hzero

/-! ### Fusion -/

/-- Fusion set running. -/
def fusionRunning : State := State.reset.wr FUS_CTRL_RUN 1

/-- Refutes O27, by RUN = 0 written to fusion that runs: RUN goes from 1 to 0, and `OnlyBlock` of block 4, taken for the
record at address 0 with the key of RUN, asks that it stay 1. -/
theorem not_fusionTakesSamplesAndPublishes : ¬ Obligations.FusionTakesSamplesAndPublishes := by
  rintro ⟨-, -, hstop, -⟩
  obtain ⟨t, -, hrun, -, -, hblock, -⟩ := hstop fusionRunning rfl
  have hsame : t.rd FUS_CTRL_RUN = fusionRunning.rd FUS_CTRL_RUN := hblock.rd_eq (by decide)
  have hwas : fusionRunning.rd FUS_CTRL_RUN = 1 := rfl
  omega

/-! ### The loop engine -/

/-- A loop whose CLOSE was written at instant 0. -/
def closingLoop : LpeLoop := { LpeLoop.init with cmd := some (true, 0) }

/-- A MONITOR, 2 µs after the origin of its base ticks, whose loop 0 is enabled and OPEN. -/
def loopClosing : State :=
  let s := { State.reset with
    start := { StartState.init with phase := .running }
    lpe := { LpeState.init with loops := [closingLoop] } }
  s.wrAll [(LPE_CTRL_RUN, 1), (LPE_LOOP_CFG_EN 0, 1), (LPE_LOOP_STAT_STATE 0, 1), (PTU_TIME_NS32, 2000)]

theorem loopRuns_loopClosing : LoopRuns loopClosing 0 closingLoop 1 := by unfold LoopRuns; decide +kernel

/-- Refutes O34, by the sample in which an OPEN loop closes: STATE goes from 1 to 2, and `OnlyBlock` of block 7, taken for
the record at address 0 with the key of STATE, asks that it stay 1. -/
theorem not_loopsSampleAndPublish : ¬ Obligations.LoopsSampleAndPublish := by
  rintro ⟨-, -, -, hclose, -⟩
  obtain ⟨t, -, hstate, -, -, hblock, -⟩ :=
    hclose 0 closingLoop 0 loopClosing loopRuns_loopClosing rfl (by decide +kernel)
  have hsame : t.lst 0 = loopClosing.lst 0 := hblock.rd_eq (by decide)
  have hwas : loopClosing.lst 0 = 1 := rfl
  have hclosed : t.lst 0 = 2 := hstate
  omega

/-! ### The field crossing -/

/-- The frame that the field side answers with where it has nothing to report, under its CRC. -/
def quietUplink : FioUp :=
  let f := FieldSide.init.mkAnswer 0
  { f with crc := fioUpCrc f }

theorem quietUplink_crc : quietUplink.crc = fioUpCrc quietUplink := by decide +kernel

/-- Refutes O42, by the first good uplink frame after reset: LINK goes from 0 to 1, and `OnlyBlock` of block 13, taken for
the record at address 0 with the key of LINK, asks that it stay 0. -/
theorem not_theLogicSideDrivesTheField : ¬ Obligations.TheLogicSideDrivesTheField := by
  rintro ⟨-, -, huplink, -⟩
  obtain ⟨-, hgood, -⟩ := huplink quietUplink State.reset rfl
  obtain ⟨t, -, hlink, -, -, -, -, -, -, -, -, -, -, -, -, -, -, -, hblock, -⟩ := hgood quietUplink_crc (fun _ => rfl)
  have hsame : t.rd FIO_STATUS_LINK = State.reset.rd FIO_STATUS_LINK := hblock.rd_eq (by decide)
  have hwas : State.reset.rd FIO_STATUS_LINK = 0 := rfl
  omega

end Sys2Proof.Machine

/-!
# A search in a baseband without channel records

`State.gchan` gives `GnbChan.init` for a channel that the list of channel records does not reach, and `State.modGchan`
changes nothing there.
-/
namespace Sys2Proof.Machine

theorem State.gServe_chans (s : State) : s.gServe.gnb.chans = s.gnb.chans := by
  unfold State.gServe
  split
  · split <;> rfl
  · rfl

/-- A change of state leaves the channel records as they were. -/
theorem State.gTo_chans (s : State) (n st : Nat) : (s.gTo n st).gnb.chans = s.gnb.chans := by
  unfold State.gTo
  rw [State.gServe_chans]
  split
  · rfl
  · rw [State.stateLog_gnb]; rfl

/-- With no channel recorded a change of a channel's record is lost. -/
theorem State.gchan_modGchan_of_nil {s : State} (h : s.gnb.chans = []) (n k : Nat) (f : GnbChan → GnbChan) :
    (s.modGchan n f).gchan k = GnbChan.init := by
  simp only [State.gchan, State.modGchan, State.modGnb, modAt, h, List.modify_nil, List.getD_nil]

/-- A baseband that runs on a coordinator's unit and searches for channel 0, its list of channel records empty. -/
def searchUnrecorded : State :=
  let s := { State.reset with
    start := { StartState.init with phase := .running, role := .coordinator }
    gnb := { GnbState.init with chans := [], srch := some 0 } }
  s.wrAll [(GNB_CTRL_RUN, 1), (GNB_CH_STAT_STATE 0, 1)]

/-- The search that two dwells confirm in the bin of the hint at code cell 1 leaves channel 0 without a record. -/
theorem searchComplete_searchUnrecorded : ∃ t, exec (.searchComplete 0 2 0 1) searchUnrecorded = .next t ∧
    t.gchan 0 = GnbChan.init :=
  ⟨_, rfl, State.gchan_modGchan_of_nil (State.gTo_chans _ _ _) _ _ _⟩

/-- Refutes O24, by a search confirmed for a channel that the list of channel records does not reach: no hypothesis says
that the list has its 24 channels, and with none the code found, cell 1 for half a chip, is lost. -/
theorem not_gnssChannelsFollowTheirStates : ¬ Obligations.GnssChannelsFollowTheirStates := by
  rintro ⟨-, -, -, -, -, hsearch, -⟩
  obtain ⟨hfound, -⟩ := hsearch 0 2 0 1 searchUnrecorded rfl rfl
  obtain ⟨t, hexec, -, -, -, hcode⟩ := hfound rfl rfl (by decide) (by decide) (by decide)
  obtain ⟨u, hexec', hnone⟩ := searchComplete_searchUnrecorded
  obtain rfl : t = u := Host.Outcome.next.inj (hexec.symm.trans hexec')
  have hzero : (t.gchan ((0 : Fin 24) : Nat)).code = 0 := congrArg GnbChan.code hnone
  have hhalf : ((1 : Nat) : Rat) / 2 ≠ 0 := by decide +kernel
  exact hhalf (hcode.symm.trans hzero)

end Sys2Proof.Machine

/-!
# A start whose firmware selector names no slot

The module has the firmware slots 0 and 1, and MBX_START.SLOT_SEL one bit. A selector copy holds any number.
-/
namespace Sys2Proof.Machine

/-- A firmware image of one header word and one word of code, under the CRC given (R439). -/
def smallImage (crc : Nat) : Bytes :=
  bytesOf 32 (0x57465844 + 1 <<< 32 + 64 <<< 64 + crc <<< 96) ++ bytesOf 32 0

/-- The module as shipped, but that slot 0 has been erased, that its firmware selector names slot 3, and that a valid image
lies where slot 3 would. -/
def selectorThree : State :=
  let image := smallImage (crc32 (smallImage 0))
  let w := fwBase 3 / 32
  let s := (State.reset.wrWord w (image.take 32)).wrWord (w + 1) (image.drop 32)
  { s with start := { s.start with ship0 := false, fwX := some { seq := 0, value := 3 } } }

theorem selectorThree_image : (selectorThree.fwCheck selectorThree.fwSelected).2.isSome = true := by decide +kernel

/-- The factory set, which the set selector names, passes its checks: it sets MONITOR and holds no register record. -/
theorem selectorThree_set :
    let check := (selectorThree.checkSlot selectorThree.setSelected).2
    let secs := setSecs check.2
    check.1.code = 0 ∧ field (secIn secs 1) 0 1 = 0 ∧ recsOf (secIn secs 3) = [] ∧ aGet 8 secs = none ∧
      aGet 9 secs = none := by decide +kernel

/-- SLOT_SEL shows 1 for the selector 3, and slot 1 is erased: the start fails, held by source 7. -/
theorem startSequence_selectorThree_held :
    ∃ t, exec (.startSequence 0 []) selectorThree = .next t ∧ t.pwr.held = some 7 :=
  ⟨_, rfl, by decide +kernel⟩

/-- Refutes O18, by a selector copy that names slot 3: no hypothesis bounds the selector by the two slots that there are.
The hypothesis on the image speaks of slot 3, the start checks the slot that SLOT_SEL shows, slot 1, and fails. -/
theorem not_startSequenceSteps : ¬ Obligations.StartSequenceSteps := by
  rintro ⟨hcomplete, -⟩
  obtain ⟨hcode, hmonitor, hrecs, hcan, hsaf⟩ := selectorThree_set
  obtain ⟨t, hexec, -, hreleased, -⟩ :=
    hcomplete 0 selectorThree _ rfl rfl rfl rfl (by decide) selectorThree_image hcode rfl hmonitor hrecs hcan hsaf
  obtain ⟨u, hexec', hheld⟩ := startSequence_selectorThree_held
  obtain rfl : t = u := Host.Outcome.next.inj (hexec.symm.trans hexec')
  rw [hreleased] at hheld
  cases hheld

end Sys2Proof.Machine

/-!
# The tick of an idle step

A step on an empty queue is `State.tick`. With the event counters off the tick is three parts one after the other: the
counter takes its increment (R218, R219), the sweeps whose instants it reaches begin (R68, R69), and GNB_PPS follows the
second (R123). The first part gives the arithmetic; of the other two it is enough that they move none but their own
register fields.
-/
namespace Sys2Proof.Machine

/-! ### What moves no more than named register fields -/

/-- From s to t no register field but the named ones moves, and memory and the hidden state of plant time stand. -/
structure MovesOnly (fs : List Fld) (s t : State) : Prop where
  regs : RegsBut fs s t
  mem  : t.mem = s.mem
  chk  : t.chk = s.chk
  ptu  : t.ptu = s.ptu

theorem MovesOnly.refl (fs : List Fld) (s : State) : MovesOnly fs s s := ⟨fun _ _ => rfl, rfl, rfl, rfl⟩

theorem MovesOnly.trans {fs : List Fld} {s t u : State} (h : MovesOnly fs s t) (h' : MovesOnly fs t u) : MovesOnly fs s u :=
  ⟨fun g hg => (h'.regs g hg).trans (h.regs g hg), h'.mem.trans h.mem, h'.chk.trans h.chk, h'.ptu.trans h.ptu⟩

theorem MovesOnly.mono {fs fs' : List Fld} {s t : State} (h : MovesOnly fs s t) (hsub : fs ⊆ fs') : MovesOnly fs' s t :=
  ⟨fun g hg => h.regs g fun f hf => hg f (hsub hf), h.mem, h.chk, h.ptu⟩

theorem MovesOnly.wr {fs : List Fld} {f : Fld} (hf : f ∈ fs) (s : State) (v : Nat) : MovesOnly fs s (s.wr f v) :=
  ⟨fun _ hg => State.rd_wr_ne s (hg f hf) v, rfl, rfl, rfl⟩

theorem MovesOnly.foldl {α : Type} {fs : List Fld} {f : State → α → State} {l : List α}
    (hf : ∀ s, ∀ x ∈ l, MovesOnly fs s (f s x)) (s : State) : MovesOnly fs s (l.foldl f s) :=
  List.foldlRecOn l f (MovesOnly.refl fs s) fun t ht x hx => ht.trans (hf t x hx)

theorem MovesOnly.wrAll {fs : List Fld} {l : List (Fld × Nat)} (hl : ∀ e ∈ l, e.1 ∈ fs) (s : State) :
    MovesOnly fs s (s.wrAll l) :=
  MovesOnly.foldl (fun s e he => MovesOnly.wr (hl e he) s e.2) s

theorem MovesOnly.modSch (fs : List Fld) (s : State) (f : SchState → SchState) : MovesOnly fs s (s.modSch f) :=
  ⟨fun _ _ => rfl, rfl, rfl, rfl⟩

theorem MovesOnly.cfe (fs : List Fld) (s : State) (c : CfeState) : MovesOnly fs s { s with cfe := c } :=
  ⟨fun _ _ => rfl, rfl, rfl, rfl⟩

/-! ### Sweeps and the second marker -/

/-- The fields that the coming of a sweep's instant and of the GPS second may move (R68, R123). -/
def instantFields : List Fld :=
  [GNB_PPS_NS32, GNB_PPS_TOW_S, SCH_STATUS_RESP_ACT, SCH_STATUS_RESP_PEND, SCH_RESP_EFF_SWEEP]

theorem State.respSwitch_movesOnly (s : State) (k : Nat) : MovesOnly instantFields s (s.respSwitch k) := by
  unfold State.respSwitch
  split
  case h_1 =>
    split
    · exact (MovesOnly.wrAll (by simp [instantFields]) s).trans (MovesOnly.modSch _ _ _)
    · exact MovesOnly.refl _ s
  case h_2 => exact MovesOnly.refl _ s

/-- A sweep that is produced is entered in the chain's and the front end's records, which no register shows. -/
theorem State.sweepTurn_movesOnly (s : State) (k : Nat) : MovesOnly instantFields s (s.sweepTurn k) := by
  refine (s.respSwitch_movesOnly k).trans ?_
  unfold State.sweepTurn
  extract_lets u v
  split
  · exact (MovesOnly.modSch _ u _).trans (MovesOnly.cfe _ v _)
  · exact MovesOnly.refl _ u

theorem State.gridRun_movesOnly (s : State) (t0 : Nat) : MovesOnly instantFields s (s.gridRun t0) := by
  unfold State.gridRun
  split
  · exact MovesOnly.foldl (fun s i _ => s.sweepTurn_movesOnly _) s
  · exact MovesOnly.refl _ s

theorem State.gnbPps_movesOnly (s : State) : MovesOnly instantFields s s.gnbPps := by
  unfold State.gnbPps
  split
  · exact MovesOnly.wrAll (by simp [instantFields]) s
  · exact MovesOnly.refl _ s

/-- What a tick does after the increment, but for the counting of events. -/
theorem State.gridRun_gnbPps_movesOnly (s : State) (t0 : Nat) : MovesOnly instantFields s (s.gridRun t0).gnbPps :=
  (s.gridRun_movesOnly t0).trans (s.gridRun t0).gnbPps_movesOnly

/-! ### The increment -/

/-- The accumulator of a tick: NS32 above its fraction of 24 bits, with the increment and the carry of the dither (R218). -/
def State.accumulator (s : State) : Nat :=
  2 ^ 24 * s.rd PTU_TIME_NS32 + s.ptu.frac + s.rd PTU_INCR_INCR + (s.ptu.dith + s.ptu.incrFine) / 2 ^ 16

/-- The tick count and the hidden state of the counter after one increment: the fraction, and the dither (R218). -/
def State.tickOver (s : State) : State :=
  { s with
    ticks := s.ticks + 1
    ptu := { s.ptu with frac := s.accumulator % 2 ^ 24, dith := (s.ptu.dith + s.ptu.incrFine) % 2 ^ 16 } }

/-- The counter takes one increment, and the epoch advances where it wraps (R218, R219). -/
def State.increment (s : State) : State :=
  let u := s.tickOver.wr PTU_TIME_NS32 (s.accumulator / 2 ^ 24)
  if 2 ^ 56 ≤ s.accumulator then u.wrapInc PTU_TIME_EPOCH else u

@[simp] theorem State.rd_tickOver (s : State) (f : Fld) : s.tickOver.rd f = s.rd f := rfl

/-- Past the hidden state an increment moves NS32 and the epoch alone. -/
theorem State.increment_movesOnly (s : State) : MovesOnly [PTU_TIME_NS32, PTU_TIME_EPOCH] s.tickOver s.increment := by
  refine (MovesOnly.wr (f := PTU_TIME_NS32) (by simp) _ (s.accumulator / 2 ^ 24)).trans ?_
  unfold State.increment
  split
  · exact MovesOnly.wr (by simp) _ _
  · exact MovesOnly.refl _ _

theorem State.rd_increment_ns32 (s : State) : s.increment.rd PTU_TIME_NS32 = s.accumulator / 2 ^ 24 % 2 ^ 32 := by
  have hne : PTU_TIME_NS32.key ≠ PTU_TIME_EPOCH.key := by decide
  have hwidth : PTU_TIME_NS32.width = 32 := rfl
  unfold State.increment
  split
  · rw [State.wrapInc, State.rd_wr_ne _ hne, State.rd_wr, hwidth]
  · rw [State.rd_wr, hwidth]

theorem State.rd_increment_epoch (s : State) : s.increment.rd PTU_TIME_EPOCH =
    if 2 ^ 56 ≤ s.accumulator then (s.rd PTU_TIME_EPOCH + 1) % 2 ^ 32 else s.rd PTU_TIME_EPOCH := by
  have hne : PTU_TIME_EPOCH.key ≠ PTU_TIME_NS32.key := by decide
  have hwidth : PTU_TIME_EPOCH.width = 32 := rfl
  unfold State.increment
  split
  · rw [State.rd_wrapInc, State.rd_wr_ne _ hne, State.rd_tickOver, hwidth]
  · rw [State.rd_wr_ne _ hne, State.rd_tickOver]

/-! ### The tick -/

theorem State.count_of_not_run {s : State} (h : s.rd PMC_CTRL_RUN = 0) (evt src k : Nat) : s.count evt src k = s := by
  simp [State.count, State.on, h]

/-- The fields that a tick may move while no event is counted. -/
def tickFields : List Fld := PTU_TIME_NS32 :: PTU_TIME_EPOCH :: instantFields

theorem State.increment_gridRun_gnbPps_movesOnly (s : State) (t0 : Nat) :
    MovesOnly tickFields s.tickOver (s.increment.gridRun t0).gnbPps :=
  (s.increment_movesOnly.mono (List.cons_subset_cons _ (List.cons_subset_cons _ (List.nil_subset _)))).trans
    ((s.increment.gridRun_gnbPps_movesOnly t0).mono
      (List.subset_cons_of_subset _ (List.subset_cons_self _ _)))

theorem State.tick_eq (s : State) : s.tick =
    let t := (s.increment.gridRun s.now).gnbPps
    let u := if t.live && t.slv.run.isSome then t.count 6 0 1 else t
    if u.live then u.count 0x0E 0 1 else u := rfl

/-- While no event is counted a tick is the increment, the sweeps that it reaches, and the second marker. -/
theorem State.tick_of_not_run {s : State} (h : s.rd PMC_CTRL_RUN = 0) : s.tick = (s.increment.gridRun s.now).gnbPps := by
  have hrun : (s.increment.gridRun s.now).gnbPps.rd PMC_CTRL_RUN = 0 :=
    ((s.increment_gridRun_gnbPps_movesOnly s.now).regs PMC_CTRL_RUN (by decide)).trans h
  simp only [State.tick_eq, State.count_of_not_run hrun, ite_self]

theorem step_of_idle {s : State} (h : s.pending = []) : step s = .next s.tick := by
  rw [step, h]

/-- Settles O2: NS32, the epoch and the fraction are the increment's, and what follows it in the tick moves only fields
that the statement names. -/
theorem idleStepIsOneTick : Obligations.IdleStepIsOneTick := by
  intro s hidle hrun a
  have ha : a = s.accumulator := by rw [State.accumulator, Nat.mul_comm]
  have hafter := s.increment.gridRun_gnbPps_movesOnly s.now
  have hall := s.increment_gridRun_gnbPps_movesOnly s.now
  rw [← State.tick_of_not_run hrun] at hafter hall
  rw [ha]
  refine ⟨s.tick, step_of_idle hidle, s.tick_keeps.ticks, ?ns32, ?frac, ?epoch, hall.regs, memSame_of_eq hall.mem hall.chk⟩
  case ns32 => exact (hafter.regs _ (by decide)).trans s.rd_increment_ns32
  case frac => exact congrArg PtuState.frac hall.ptu
  case epoch => exact (hafter.regs _ (by decide)).trans s.rd_increment_epoch

end Sys2Proof.Machine

/-!
# A block of samples in a baseband without channel records

As with a search, what a channel makes of its samples is lost where the list of channel records does not reach it.
-/
namespace Sys2Proof.Machine

theorem State.gchan_of_nil {s : State} (h : s.gnb.chans = []) (n : Nat) : s.gchan n = GnbChan.init := by
  rw [State.gchan, h, List.getD_nil]

/-- A sample that ends no code period moves the code by the chips of one sample. -/
theorem GnbChan.code_block_singleton (k : CorrSet) (x : Int × Int) {c : GnbChan} (h : c.code + c.chips < 1023) :
    (GnbChan.block k [x] c).1.code = c.code + c.chips := by
  have hcode : (c.sample k x).code = c.code + c.chips := rfl
  have hinside : ¬ 1023 ≤ (c.sample k x).code := by rwa [hcode, Rat.not_le]
  rw [← hcode, GnbChan.block, if_neg hinside, GnbChan.block]

/-- A fresh channel's code advances by a sixteenth of a chip in a sample. -/
theorem GnbChan.chips_init : GnbChan.init.chips = 1 / 16 := by decide +kernel

/-- The baseband of `searchUnrecorded` with GNSS_CLK present, its channel 0 in PULL_IN. -/
def pullInUnrecorded : State := searchUnrecorded.wrAll [(GNB_STATUS_CLK_OK, 1), (GNB_CH_STAT_STATE 0, 2)]

/-- A sample leaves channel 0 without a record. -/
theorem correlatorMs_pullInUnrecorded :
    ∃ t, exec (.correlatorMs [0] 0) pullInUnrecorded = .next t ∧ t.gchan 0 = GnbChan.init :=
  ⟨_, rfl, State.gchan_of_nil (by decide +kernel) 0⟩

/-- Refutes O25, by a sample for a channel that the list of channel records does not reach: no hypothesis says that the
list has its 24 channels, and with none the sixteenth of a chip by which the sample advances the code is lost. -/
theorem not_gnssMeasuresAndSolvesTime : ¬ Obligations.GnssMeasuresAndSolvesTime := by
  rintro ⟨-, hblock, -⟩
  obtain ⟨t, hexec, -, -, -, hchan, -⟩ := hblock 0 [] 0 pullInUnrecorded rfl rfl rfl
  obtain ⟨u, hexec', hnone⟩ := correlatorMs_pullInUnrecorded
  obtain rfl : t = u := Host.Outcome.next.inj (hexec.symm.trans hexec')
  have hstill : (t.gchan 0).code = 0 := congrArg GnbChan.code hnone
  have hmoved : (t.gchan 0).code = GnbChan.init.code + GnbChan.init.chips :=
    (congrArg GnbChan.code (hchan 0 (by decide) (by decide))).trans
      (GnbChan.code_block_singleton _ _ (by decide +kernel))
  have hzero : (0 : Rat) = 0 + 1 / 16 := by
    calc 0 = GnbChan.init.code + GnbChan.init.chips := hstill.symm.trans hmoved
      _ = 0 + 1 / 16 := congrArg (GnbChan.init.code + ·) GnbChan.chips_init
  exact absurd hzero (by decide +kernel)

end Sys2Proof.Machine

/-!
# The write of a register of one word

The two ways to write a register, REGISTER_WRITE of a processor (R3) and REG_WRITE over a mailbox (R318): both end with
the answer of the register's block.
-/
namespace Sys2Proof.Machine

/-! ### Numbers in runs of bytes -/

@[simp] theorem length_bytesOf (k n : Nat) : (bytesOf k n).length = k := by
  induction k generalizing n with
  | zero => rfl
  | succ k ih => rw [bytesOf, List.length_cons, ih]

theorem natOf_bytesOf (k n : Nat) : natOf (bytesOf k n) = n % 256 ^ k := by
  induction k generalizing n with
  | zero => rw [bytesOf, natOf, Nat.pow_zero, Nat.mod_one]
  | succ k ih =>
    have hbyte : (BitVec.ofNat 8 n).toNat = n % 256 := BitVec.toNat_ofNat n 8
    rw [bytesOf, natOf, ih, hbyte, Nat.pow_succ', Nat.mod_mul]

/-- The bytes of the middle of three runs. -/
theorem slice_append (a m b : Bytes) : slice (a ++ m ++ b) a.length m.length = m := by
  refine List.ext_getElem (by simp [slice]) fun i hi hm => ?_
  have hget : (a ++ (m ++ b))[a.length + i]? = some m[i] := by
    rw [List.getElem?_append_right (Nat.le_add_right _ _), Nat.add_sub_cancel_left, List.getElem?_append_left hm,
      List.getElem?_eq_getElem hm]
  simp [slice, List.getD_eq_getElem?_getD, hget]

/-- A number is read back from between two runs of bytes. -/
theorem field_append (a b : Bytes) (k n : Nat) : field (a ++ bytesOf k n ++ b) a.length k = n % 256 ^ k := by
  have hslice := slice_append a (bytesOf k n) b
  rw [length_bytesOf] at hslice
  rw [field, hslice, natOf_bytesOf]

/-! ### The two ways to write a register -/

/-- A write of a register of one word goes to its block as it is. -/
theorem State.regWrite_narrow (s : State) (who : Requester) {a v : Nat} {l : RegLoc} (hl : findReg a = some l)
    (hwide : wideRow l.row = false) (hwords : l.words = 1) (hv : v < 2 ^ 32) : s.regWrite who a v = s.blockWrite who l v := by
  have hword : v % 2 ^ 32 = v := Nat.mod_eq_of_lt hv
  simp only [State.regWrite, hl, hwide, hwords, hword, Bool.not_false, if_true]

theorem exec_registerWrite_of_findReg (who : Requester) {a : BitVec 64} (v : BitVec 32) {s : State} (hlive : s.live = true)
    {l : RegLoc} (hl : findReg a.toNat = some l) (halign : a.toNat % 4 = 0) :
    exec (.registerWrite who a v) s = .next (s.regWrite who a.toNat v.toNat).1 := by
  calc exec (.registerWrite who a v) s
      = .next (atReg a s fun s => (s.regWrite who a.toNat v.toNat).1) := congrArg _ (whenLive_of_live hlive _)
    _ = _ := by rw [atReg, inRegs_of_findReg hl, halign]; rfl

/-- A command at the head of the order that nothing refuses, and that is no long one, ends with its effect's response. -/
theorem State.runCmd_of_front {s : State} {m : Fin 8} {rest : List Nat} {op : Nat} {p : Bytes} (hfront : Front s m rest op p)
    {mine : Bytes → Bool} {refuse : State → Nat → Bytes → Bool} {bad : State → Bytes → Bool}
    {run : State → Nat → Bytes → CmdOut} (hmine : mine p = true) (hrefuse : ∀ fl, refuse (s.popped rest) fl p = false)
    (hbad : bad (s.popped rest) p = false) (hlong : longOps.contains op = false) {o : CmdOut}
    (hrun : run (s.popped rest) m p = o) :
    s.runCmd op mine refuse bad run = o.fin (o.st.respond m o.status o.data) := by
  obtain ⟨-, horder, rfl, rfl, hbarred, hreserved⟩ := hfront
  subst hrun
  have hopen : (s.popped rest).barred (cmdOp (s.box m).cmd) ((s.popped rest).box m).src = false := hbarred
  have hserved : ¬ ((s.popped rest).barred (cmdOp (s.box m).cmd) ((s.popped rest).box m).src ||
      refuse (s.popped rest) (cmdFlags (s.box m).cmd) (cmdParams (s.box m).cmd)) = true := by
    simp [hopen, hrefuse]
  have hsound : ¬ (cmdReserved (s.box m).cmd &&
      decide ((run (s.popped rest) m (cmdParams (s.box m).cmd)).status ≠ 3)) = true := by
    simp [hreserved]
  rw [State.runCmd, horder]
  calc _ = _ := if_pos (by simp [hmine])
    _ = _ := if_neg hserved
    _ = _ := if_neg (by rw [Bool.not_eq_true]; exact hbad)
    _ = _ := if_neg hsound
    _ = _ := if_neg (by rw [Bool.not_eq_true]; exact hlong)

/-- The parameters of REG_WRITE for the word v at address a (R318). -/
def regWriteWord (a v : Nat) : Bytes := bytesOf 8 a ++ bytesOf 2 1 ++ bytesOf 2 0 ++ bytesOf 4 v

@[simp] theorem length_regWriteWord (a v : Nat) : (regWriteWord a v).length = 16 := by simp [regWriteWord]

theorem addr_regWriteWord {a : Nat} (ha : a < 2 ^ 64) (v : Nat) : field (regWriteWord a v) 0 8 = a := by
  have hfield := field_append [] (bytesOf 2 1 ++ (bytesOf 2 0 ++ bytesOf 4 v)) 8 a
  rw [List.nil_append, ← List.append_assoc, ← List.append_assoc] at hfield
  exact hfield.trans (Nat.mod_eq_of_lt ha)

theorem count_regWriteWord (a v : Nat) : field (regWriteWord a v) 8 2 = 1 := by
  have hfield := field_append (bytesOf 8 a) (bytesOf 2 0 ++ bytesOf 4 v) 2 1
  rwa [length_bytesOf, ← List.append_assoc] at hfield

theorem reserved_regWriteWord (a v : Nat) : field (regWriteWord a v) 10 2 = 0 := by
  have hfield := field_append (bytesOf 8 a ++ bytesOf 2 1) (bytesOf 4 v) 2 0
  rwa [List.length_append, length_bytesOf, length_bytesOf] at hfield

theorem data_regWriteWord (a : Nat) {v : Nat} (hv : v < 2 ^ 32) : field ((regWriteWord a v).drop 12) 0 4 = v := by
  have hdrop : (regWriteWord a v).drop 12 = bytesOf 4 v := List.drop_left' (by simp)
  have hfield := field_append [] [] 4 v
  rw [List.nil_append, List.append_nil] at hfield
  rw [hdrop]
  exact hfield.trans (Nat.mod_eq_of_lt hv)

/-- REG_WRITE of one whole register of one word, with its command at the head of the order, answers by the write's
outcome (R318). -/
theorem exec_regWrite_word {s : State} {m : Fin 8} {rest : List Nat} {a v : Nat} (hfront : Front s m rest 0x0102 (regWriteWord a v))
    (ha : a < 2 ^ 64) (hv : v < 2 ^ 32) (hwhole : wholeReg a 1 = true) {t : State} {w : WRes}
    (hwrite : (s.popped rest).regWrite .mbox a v = (t, w)) :
    exec .regWrite s = .next (t.respond m (writeStatus w) []) := by
  have hstatus : writeStatus w = (endedW (t, w)).status := by cases w <;> rfl
  have hwrites : State.regWrites 1 (s.popped rest) a ((regWriteWord a v).drop 12) .ok = (t, w) := by
    rw [State.regWrites, data_regWriteWord a hv, hwrite]
    rfl
  have hwell : (decide ((regWriteWord a v).length < 12) ||
      decide ((regWriteWord a v).length ≠ 12 + 4 * field (regWriteWord a v) 8 2) ||
      decide (field (regWriteWord a v) 10 2 ≠ 0) ||
      !wholeReg (field (regWriteWord a v) 0 8) (field (regWriteWord a v) 8 2)) = false := by
    simp [count_regWriteWord, reserved_regWriteWord, addr_regWriteWord ha, hwhole]
  have hlive : s.live = true := by
    obtain ⟨hlive, -⟩ := hfront
    exact hlive
  rw [exec, execRegWrite, whenLive_of_live hlive, hstatus]
  refine congrArg Host.Outcome.next (State.runCmd_of_front (o := endedW (t, w)) hfront rfl (fun _ => rfl) ?_ (by decide) ?_)
  · exact hwell
  · rw [count_regWriteWord, addr_regWriteWord ha, hwrites]

end Sys2Proof.Machine

/-!
# Channel configuration of the GNSS baseband

GNB_CHn_CFG in the register map, and what its block does with a write of it (R112, R115, R116).
-/
namespace Sys2Proof.Machine

/-! ### GNB_CHn_CFG in the map -/

/-- GNB_CHn_CFG as the map locates it. -/
def chCfgLoc (n : Nat) : RegLoc := { row := rowsGNB[12], n := n, word := 0 }

/-- The address of GNB_CHn_CFG. -/
def chCfgAddr (n : Nat) : Nat := 0x40030100 + 4 * n

/-- An address past the last register of a row is none of the row's. -/
theorem rowHolds_of_end_le {r : RegRow} {a : Nat} (hpos : 0 < r.stride) (hend : r.base + r.count * r.stride ≤ a) :
    rowHolds r a = false := by
  have hpast : r.count ≤ (a - r.base) / r.stride := (Nat.le_div_iff_mul_le hpos).mpr (by omega)
  simp [rowHolds, Nat.not_lt.mpr hpast]

theorem inRegs_chCfg {n : Nat} (h : n < 24) : inRegs (chCfgAddr n) = true := by
  have hlow : 0x40000000 ≤ chCfgAddr n := by rw [chCfgAddr]; omega
  have hhigh : chCfgAddr n < 0x40110000 := by rw [chCfgAddr]; omega
  rw [inRegs, decide_eq_true hlow, decide_eq_true hhigh, Bool.and_self]

theorem blockRows_chCfg {n : Nat} (h : n < 24) : blockRows (chCfgAddr n) = rowsGNB := by
  have hblock : (chCfgAddr n - 0x40000000) / 0x10000 = 3 := by rw [chCfgAddr]; omega
  rw [blockRows, hblock]
  rfl

/-- The rows before GNB_CH_CFG end below its registers. -/
theorem rowHolds_below_chCfg (n : Nat) : ∀ r ∈ rowsGNB.take 12, ¬ rowHolds r (chCfgAddr n) = true := by
  have hends : ∀ r ∈ rowsGNB.take 12, 0 < r.stride ∧ r.base + r.count * r.stride ≤ 0x40030100 := by decide
  intro r hr
  obtain ⟨hpos, hend⟩ := hends r hr
  have hbelow : r.base + r.count * r.stride ≤ chCfgAddr n := Nat.le_trans hend (Nat.le_add_right _ _)
  rw [rowHolds_of_end_le hpos hbelow]
  exact Bool.false_ne_true

theorem rowHolds_chCfg {n : Nat} (h : n < 24) : rowHolds (chCfgLoc n).row (chCfgAddr n) = true := by
  have hbase : (chCfgLoc n).row.base = 0x40030100 := rfl
  have hstride : (chCfgLoc n).row.stride = 4 := rfl
  have hcount : (chCfgLoc n).row.count = 24 := rfl
  have hbits : (chCfgLoc n).row.bits = 32 := rfl
  simp only [rowHolds, hbase, hstride, hcount, hbits, chCfgAddr, Bool.and_eq_true, decide_eq_true_eq]
  omega

theorem findReg_chCfg {n : Nat} (h : n < 24) : findReg (chCfgAddr n) = some (chCfgLoc n) := by
  have hrows : rowsGNB = rowsGNB.take 12 ++ (chCfgLoc n).row :: rowsGNB.drop 13 := rfl
  have hfind : rowsGNB.find? (fun r => rowHolds r (chCfgAddr n)) = some (chCfgLoc n).row := by
    rw [hrows, List.find?_append, List.find?_eq_none.mpr (rowHolds_below_chCfg n), Option.none_or]
    exact List.find?_cons_of_pos (rowHolds_chCfg h)
  have hindex : (chCfgAddr n - 0x40030100) / 4 = n := by rw [chCfgAddr]; omega
  have hword : (chCfgAddr n - 0x40030100) % 4 / 4 = 0 := by omega
  rw [findReg, if_pos (inRegs_chCfg h), blockRows_chCfg h, hfind]
  calc some (RegLoc.mk (chCfgLoc n).row ((chCfgAddr n - 0x40030100) / 4) ((chCfgAddr n - 0x40030100) % 4 / 4))
      = some (RegLoc.mk (chCfgLoc n).row n 0) := by rw [hindex, hword]
    _ = some (chCfgLoc n) := rfl

theorem blockOf_chCfg {n : Nat} (h : n < 24) : blockOf (chCfgLoc n).base = 3 := by
  have hbase : (chCfgLoc n).base = 0x40030100 + n * 4 := rfl
  rw [hbase, blockOf]
  omega

theorem words_chCfg (n : Nat) : (chCfgLoc n).words = 1 := by
  have hbits : (chCfgLoc n).row.bits = 32 := rfl
  rw [RegLoc.words, hbits]

theorem chCfgAddr_aligned (n : Nat) : chCfgAddr n % 4 = 0 := by rw [chCfgAddr]; omega

theorem chCfgAddr_lt {n : Nat} (h : n < 24) : chCfgAddr n < 2 ^ 64 := by rw [chCfgAddr]; omega

theorem wholeReg_chCfg {n : Nat} (h : n < 24) : wholeReg (chCfgAddr n) 1 = true := by
  have hword : (chCfgLoc n).word = 0 := rfl
  simp [wholeReg, chCfgAddr_aligned, findReg_chCfg h, words_chCfg, hword]

/-- A field of the register lies at its own lowest bit. -/
theorem get_chCfg (n v : Nat) {f : Fld} (h : f.addr = chCfgAddr n) : (chCfgLoc n).get v f = bits v f.lo f.width := by
  have hpos : (chCfgLoc n).pos f = 8 * (f.addr - (0x40030100 + n * 4)) + f.lo := rfl
  rw [RegLoc.get, hpos, h, chCfgAddr, Nat.mul_comm 4 n, Nat.sub_self, Nat.mul_zero, Nat.zero_add]

theorem flds_chCfg (n : Nat) : (chCfgLoc n).flds =
    [GNB_CH_CFG_PRN n, GNB_CH_CFG_EN n, GNB_CH_CFG_SPACING n, GNB_CH_CFG_DISC n, GNB_CH_CFG_DOPP_HINT n] := rfl

theorem addr_of_mem_chCfg {n : Nat} {f : Fld} (hf : f ∈ (chCfgLoc n).flds) : f.addr = chCfgAddr n ∧ f.lo < 32 := by
  simp only [flds_chCfg, List.mem_cons, List.not_mem_nil, or_false] at hf
  obtain rfl | rfl | rfl | rfl | rfl := hf <;> exact ⟨rfl, Nat.le_of_ble_eq_true rfl⟩

/-- A write of the register stores its five fields. -/
theorem State.wrReg_chCfg (s : State) (n v : Nat) : s.wrReg (chCfgLoc n) v =
    ((((s.wr (GNB_CH_CFG_PRN n) (bits v 0 6)).wr (GNB_CH_CFG_EN n) (bits v 6 1)).wr (GNB_CH_CFG_SPACING n) (bits v 8 7)).wr
      (GNB_CH_CFG_DISC n) (bits v 16 2)).wr (GNB_CH_CFG_DOPP_HINT n) (bits v 18 14) := by
  simp only [State.wrReg, flds_chCfg, List.foldl_cons, List.foldl_nil]
  rw [get_chCfg (f := GNB_CH_CFG_PRN n) _ _ rfl, get_chCfg (f := GNB_CH_CFG_EN n) _ _ rfl,
    get_chCfg (f := GNB_CH_CFG_SPACING n) _ _ rfl, get_chCfg (f := GNB_CH_CFG_DISC n) _ _ rfl,
    get_chCfg (f := GNB_CH_CFG_DOPP_HINT n) _ _ rfl]
  rfl

theorem Fld.key_ne_of_lo_ne {f g : Fld} (haddr : f.addr = g.addr) (hlo : f.lo ≠ g.lo) : f.key ≠ g.key := by
  rw [Fld.key, Fld.key, haddr]
  omega

/-- PRN, SPACING and DISC read as they were written. -/
theorem State.rd_wrReg_chCfg (s : State) (n v : Nat) :
    (s.wrReg (chCfgLoc n) v).rd (GNB_CH_CFG_PRN n) = bits v 0 6 ∧
      (s.wrReg (chCfgLoc n) v).rd (GNB_CH_CFG_SPACING n) = bits v 8 7 ∧
      (s.wrReg (chCfgLoc n) v).rd (GNB_CH_CFG_DISC n) = bits v 16 2 := by
  rw [State.wrReg_chCfg]
  refine ⟨?prn, ?spacing, ?disc⟩
  case prn =>
    rw [State.rd_wr_ne, State.rd_wr_ne, State.rd_wr_ne, State.rd_wr_ne, State.rd_wr]
    · exact Nat.mod_mod _ _
    all_goals exact Fld.key_ne_of_lo_ne rfl (Nat.ne_of_beq_eq_false rfl)
  case spacing =>
    rw [State.rd_wr_ne, State.rd_wr_ne, State.rd_wr]
    · exact Nat.mod_mod _ _
    all_goals exact Fld.key_ne_of_lo_ne rfl (Nat.ne_of_beq_eq_false rfl)
  case disc =>
    rw [State.rd_wr_ne, State.rd_wr]
    · exact Nat.mod_mod _ _
    · exact Fld.key_ne_of_lo_ne rfl (Nat.ne_of_beq_eq_false rfl)

theorem bits_lt (v lo w : Nat) : bits v lo w < 2 ^ w := Nat.mod_lt _ (Nat.two_pow_pos w)

theorem fldInRange_iff {f : Fld} (hf : f.sgn = false) (v : Nat) : fldInRange f v = true ↔ f.mn ≤ v ∧ (v : Int) ≤ f.mx := by
  simp [fldInRange, hf]

/-- PRN and SPACING alone have values that their bits hold and that are out of range. -/
theorem inRange_chCfg (n : Nat) {v : Nat} (hprn : bits v 0 6 ≤ 32) (hnarrow : 5 ≤ bits v 8 7) (hwide : bits v 8 7 ≤ 100) :
    (chCfgLoc n).inRange v = true := by
  have hen := bits_lt v 6 1
  have hdisc := bits_lt v 16 2
  have hhint := bits_lt v 18 14
  rw [RegLoc.inRange, List.all_eq_true]
  intro f hf
  obtain ⟨haddr, -⟩ := addr_of_mem_chCfg hf
  rw [get_chCfg n v haddr]
  simp only [flds_chCfg, List.mem_cons, List.not_mem_nil, or_false] at hf
  obtain rfl | rfl | rfl | rfl | rfl := hf
  · exact (fldInRange_iff (f := GNB_CH_CFG_PRN n) rfl _).mpr ⟨Int.natCast_nonneg _, Int.ofNat_le.mpr hprn⟩
  · exact (fldInRange_iff (f := GNB_CH_CFG_EN n) rfl _).mpr ⟨Int.natCast_nonneg _, Int.ofNat_le.mpr (Nat.le_pred_of_lt hen)⟩
  · exact (fldInRange_iff (f := GNB_CH_CFG_SPACING n) rfl _).mpr ⟨Int.ofNat_le.mpr hnarrow, Int.ofNat_le.mpr hwide⟩
  · exact (fldInRange_iff (f := GNB_CH_CFG_DISC n) rfl _).mpr ⟨Int.natCast_nonneg _, Int.ofNat_le.mpr (Nat.le_pred_of_lt hdisc)⟩
  · exact (fldInRange_iff (f := GNB_CH_CFG_DOPP_HINT n) rfl _).mpr
      ⟨Int.natCast_nonneg _, Int.ofNat_le.mpr (Nat.le_pred_of_lt hhint)⟩

/-! ### What its block does with a write -/

theorem State.gChanHeld_iff (s : State) (n : Fin 24) (v : Nat) :
    s.gChanHeld n v = true ↔ s.rd (GNB_CH_CFG_EN n) ≠ 0 ∧ ChangesCode s n v := by
  simp [State.gChanHeld, State.on, ChangesCode, or_assoc]

theorem State.gDiscBad_of_codeInRange {s : State} {n : Fin 24} {v : Nat} (h : CodeInRange s n v) :
    s.gDiscBad n (bits v 16 2) = false := by
  obtain ⟨-, -, -, hzero | ⟨hpath, htwo | ⟨hone, hopposite⟩⟩⟩ := h
  · simp [State.gDiscBad, hzero]
  · simp [State.gDiscBad, htwo, Nat.not_lt.mpr hpath]
  · simp [State.gDiscBad, hone, hopposite, Nat.not_lt.mpr hpath]

/-- A held channel's write is refused because of its state (R116). -/
theorem State.writeGnb_chCfg_held {s : State} {n v : Nat} (h : s.gChanHeld n v = true) :
    s.writeGnb (chCfgLoc n) v = (s.wr GNB_ERR_CFG_REJ 1, .state) := by
  have hname : (chCfgLoc n).row.name = "GNB_CH_CFG" := rfl
  have hn : (chCfgLoc n).n = n := rfl
  simp [State.writeGnb, hname, hn, h, State.set1]

/-- The channel takes its new configuration: it starts, or goes to IDLE (R115). -/
theorem State.writeGnb_chCfg_applied {s : State} {n v : Nat} (hheld : s.gChanHeld n v = false)
    (hrange : (chCfgLoc n).inRange v = true) (hdisc : s.gDiscBad n (bits v 16 2) = false) :
    (s.writeGnb (chCfgLoc n) v).1 =
      let t := s.wrReg (chCfgLoc n) v
      if bit v 6 then (t.gEnter n).modGchan n fun c => { c with hint := t.rdS (GNB_CH_CFG_DOPP_HINT n) } else t.gIdle n := by
  have hname : (chCfgLoc n).row.name = "GNB_CH_CFG" := rfl
  have hn : (chCfgLoc n).n = n := rfl
  simp [State.writeGnb, hname, hn, hheld, hrange, hdisc]

@[simp] theorem State.gServe_rd (s : State) (f : Fld) : s.gServe.rd f = s.rd f := by
  unfold State.gServe
  split
  · split <;> rfl
  · rfl

@[simp] theorem State.modGchan_rd (s : State) (n : Nat) (g : GnbChan → GnbChan) (f : Fld) : (s.modGchan n g).rd f = s.rd f := rfl

/-- A change of a channel's state moves its STATE field and the fault log's alone. -/
theorem State.gTo_rd (s : State) (n st : Nat) {f : Fld} (hlog : NotLog f) (hf : f.key ≠ (GNB_CH_STAT_STATE n).key) :
    (s.gTo n st).rd f = s.rd f := by
  unfold State.gTo
  rw [State.gServe_rd]
  split
  · exact State.rd_wr_ne _ hf _
  · rw [State.stateLog_rd _ _ _ _ _ _ _ hlog, State.rd_wr_ne _ hf]

theorem State.gEnter_rd (s : State) (n : Nat) {f : Fld} (hlog : NotLog f) (hf : f.key ≠ (GNB_CH_STAT_STATE n).key) :
    (s.gEnter n).rd f = s.rd f := by
  unfold State.gEnter
  extract_lets
  split
  · rw [State.modGchan_rd, State.gTo_rd _ _ _ hlog hf]
  · rfl

theorem State.gIdle_rd (s : State) (n : Nat) {f : Fld} (hlog : NotLog f) (hf : f.key ≠ (GNB_CH_STAT_STATE n).key) :
    (s.gIdle n).rd f = s.rd f := by
  rw [State.gIdle, State.modGchan_rd, State.gTo_rd _ _ _ hlog hf]

/-- The fields of GNB_CHn_CFG are none of the fault log's, nor the channel's STATE. -/
theorem notLog_of_mem_chCfg {n : Nat} (hn : n < 24) {f : Fld} (hf : f ∈ (chCfgLoc n).flds) :
    NotLog f ∧ f.key ≠ (GNB_CH_STAT_STATE n).key := by
  obtain ⟨haddr, hlo⟩ := addr_of_mem_chCfg hf
  have hkey : f.key = (0x40030100 + 4 * n) * 65536 + f.lo := by rw [Fld.key, haddr, chCfgAddr]
  have hstate : (GNB_CH_STAT_STATE n).key = (0x40030180 + 4 * n) * 65536 + 0 := rfl
  have hlog : logKeys = [0x40100020 * 65536 + 0, 0x40100020 * 65536 + 32, 0x40100020 * 65536 + 48] := rfl
  constructor
  · simp only [NotLog, hlog, List.mem_cons, List.not_mem_nil, or_false]
    omega
  · rw [hstate]
    omega

/-- Past the write of the register itself a new configuration moves none of its fields. -/
theorem State.writeGnb_chCfg_applied_rd {s : State} {n v : Nat} (hn : n < 24) (hheld : s.gChanHeld n v = false)
    (hrange : (chCfgLoc n).inRange v = true) (hdisc : s.gDiscBad n (bits v 16 2) = false) {f : Fld}
    (hf : f ∈ (chCfgLoc n).flds) : (s.writeGnb (chCfgLoc n) v).1.rd f = (s.wrReg (chCfgLoc n) v).rd f := by
  obtain ⟨hlog, hstate⟩ := notLog_of_mem_chCfg hn hf
  rw [State.writeGnb_chCfg_applied hheld hrange hdisc]
  dsimp only
  split
  · rw [State.modGchan_rd, State.gEnter_rd _ _ hlog hstate]
  · exact State.gIdle_rd _ _ hlog hstate

/-! ### The write of GNB_CHn_CFG as an instruction -/

theorem State.regWrite_chCfg (s : State) (who : Requester) {n v : Nat} (hn : n < 24) (hv : v < 2 ^ 32) :
    s.regWrite who (chCfgAddr n) v = s.writeGnb (chCfgLoc n) v := by
  rw [State.regWrite_narrow s who (findReg_chCfg hn) rfl (words_chCfg n) hv, State.blockWrite, blockOf_chCfg hn]
  rfl

/-- A processor's write of GNB_CHn_CFG is its block's. -/
theorem exec_registerWrite_chCfg (who : Requester) {n : Nat} (hn : n < 24) (v : BitVec 32) {s : State} (hlive : s.live = true) :
    exec (.registerWrite who (BitVec.ofNat 64 (chCfgAddr n)) v) s = .next (s.writeGnb (chCfgLoc n) v.toNat).1 := by
  have haddr : (BitVec.ofNat 64 (chCfgAddr n)).toNat = chCfgAddr n := by
    rw [BitVec.toNat_ofNat, Nat.mod_eq_of_lt (chCfgAddr_lt hn)]
  have hexec := exec_registerWrite_of_findReg who (a := BitVec.ofNat 64 (chCfgAddr n)) v hlive (l := chCfgLoc n)
  rw [haddr] at hexec
  rw [hexec (findReg_chCfg hn) (chCfgAddr_aligned n), State.regWrite_chCfg s who hn v.isLt]

/-! ### R116 -/

/-- Settles O59: the block refuses the write of a held channel because of its state, and both ways to write a register
end with its answer; a write that it applies stores the fields, and what follows moves none of them. -/
theorem enabledChannelsKeepTheirCode : Obligations.EnabledChannelsKeepTheirCode := by
  intro n v s hlive hchanges
  refine ⟨fun hen => ?held, fun hen hrange who => ?applied⟩
  case held =>
    have hheld : s.gChanHeld n v.toNat = true := (s.gChanHeld_iff n _).mpr ⟨hen, hchanges⟩
    refine ⟨fun who => ?_, fun m rest p hfront hp => ?_⟩
    · have hexec := exec_registerWrite_chCfg who n.isLt v hlive
      rwa [State.writeGnb_chCfg_held hheld] at hexec
    · subst hp
      have hwrite : (s.popped rest).regWrite .mbox (chCfgAddr n) v.toNat = ((s.popped rest).wr GNB_ERR_CFG_REJ 1, .state) := by
        rw [State.regWrite_chCfg _ _ n.isLt v.isLt]
        exact State.writeGnb_chCfg_held hheld
      calc exec .regWrite s
          = .next (((s.popped rest).wr GNB_ERR_CFG_REJ 1).respond m (writeStatus .state) []) :=
            exec_regWrite_word hfront (chCfgAddr_lt n.isLt) v.isLt (wholeReg_chCfg n.isLt) hwrite
        _ = .next (((s.popped rest).wr GNB_ERR_CFG_REJ 1).respond m 3 []) := rfl
  case applied =>
    have hfree : s.gChanHeld n v.toNat = false := by
      rw [← Bool.not_eq_true, s.gChanHeld_iff]
      exact fun ⟨hon, _⟩ => hon hen
    have hdisc := State.gDiscBad_of_codeInRange hrange
    obtain ⟨hprn, hnarrow, hwide, -⟩ := hrange
    have happlied {f : Fld} (hf : f ∈ (chCfgLoc n).flds) :=
      State.writeGnb_chCfg_applied_rd n.isLt hfree (inRange_chCfg n hprn hnarrow hwide) hdisc hf
    obtain ⟨hstoredPrn, hstoredSpacing, hstoredDisc⟩ := s.rd_wrReg_chCfg n v.toNat
    refine ⟨_, exec_registerWrite_chCfg who n.isLt v hlive, ?_, ?_, ?_⟩
    · rw [happlied (by simp [flds_chCfg]), hstoredPrn]
    · rw [happlied (by simp [flds_chCfg]), hstoredSpacing]
    · rw [happlied (by simp [flds_chCfg]), hstoredDisc]

end Sys2Proof.Machine

/-!
# What shared operations move

Which register fields the fault log, the release of TOKEN (R278), the loss of the sample clock at the controllers (R367),
the coming of a sweep (R68, R69) and a step of fabric time (R71, R125) may move, as `MovesOnly`.
-/
namespace Sys2Proof.Machine

/-! ### Further ways to move no more than named fields -/

/-- Where the register file stands, so does every field, whatever else has changed than memory and plant time. -/
theorem MovesOnly.of_regs_eq (fs : List Fld) {s t : State} (hregs : t.regs = s.regs) (hmem : t.mem = s.mem)
    (hchk : t.chk = s.chk) (hptu : t.ptu = s.ptu) : MovesOnly fs s t :=
  ⟨fun g _ => by simp only [State.rd, hregs], hmem, hchk, hptu⟩

theorem MovesOnly.ite {fs : List Fld} {s t u : State} {c : Prop} [Decidable c] (ht : MovesOnly fs s t)
    (hu : MovesOnly fs s u) : MovesOnly fs s (if c then t else u) := by
  split
  · exact ht
  · exact hu

theorem MovesOnly.memSame {fs : List Fld} {s t : State} (h : MovesOnly fs s t) : MemSame s t := memSame_of_eq h.mem h.chk

/-! ### The fault log -/

theorem notLog_of_ne_logFields {g : Fld} (hg : ∀ f ∈ logFields, g.key ≠ f.key) : NotLog g := by
  intro hmem
  obtain ⟨f, hf, hkey⟩ := List.mem_map.mp (show g.key ∈ logFields.map Fld.key from hmem)
  exact hg f hf hkey.symm

theorem State.logEvent_movesOnly (s : State) (source code inst status detail : Nat) :
    MovesOnly logFields s (s.logEvent source code inst status detail) :=
  ⟨fun _ hg => State.logEvent_rd _ _ _ _ _ _ (notLog_of_ne_logFields hg), State.logEvent_mem .., State.logEvent_chk ..,
    State.logEvent_ptu ..⟩

theorem State.errLog_movesOnly (s : State) (f : Fld) (inst : Nat) : MovesOnly (f :: logFields) s (s.errLog f inst) :=
  (MovesOnly.wr (List.mem_cons_self ..) s 1).trans
    (((s.wr f 1).logEvent_movesOnly ..).mono (List.subset_cons_self ..))

theorem State.wrState_movesOnly (s : State) (f : Fld) (idx inst new : Nat) :
    MovesOnly (f :: logFields) s (s.wrState f idx inst new) := by
  have hwr : MovesOnly (f :: logFields) s (s.wr f new) := MovesOnly.wr (List.mem_cons_self ..) s new
  exact hwr.trans (MovesOnly.ite (MovesOnly.refl _ _) (((s.wr f new).logEvent_movesOnly ..).mono (List.subset_cons_self ..)))

/-! ### The controllers without REFCLK, and the release of TOKEN -/

theorem State.modCan_movesOnly (fs : List Fld) (s : State) (n : Nat) (f : CanCtl → CanCtl) : MovesOnly fs s (s.modCan n f) :=
  MovesOnly.of_regs_eq fs rfl rfl rfl rfl

/-- STATE of the four CAN FD controllers. -/
def canStates : List Fld := (List.range 4).map CAN_STATUS_STATE

theorem State.canClkLoss_movesOnly (s : State) : MovesOnly canStates s s.canClkLoss := by
  refine MovesOnly.foldl (fun u n hn => ?_) s
  exact (MovesOnly.wr (List.mem_map_of_mem hn) u 0).trans (State.modCan_movesOnly ..)

theorem State.canClkLoss_start (s : State) : s.canClkLoss.start = s.start := rfl

/-- The field that shows the permission of outputs, and the bus monitoring mode that follows it (R357, R369). -/
def permitFields : List Fld := FIO_STATUS_OUT_PERMIT :: (List.range 4).map CAN_STATUS_MONITOR

theorem canMonitor_mem_permitFields {n : Nat} (hn : n ∈ List.range 4) : CAN_STATUS_MONITOR n ∈ permitFields :=
  List.mem_cons_of_mem _ (List.mem_map_of_mem hn)

theorem State.canRelease_movesOnly (s : State) : MovesOnly permitFields s s.canRelease := by
  refine MovesOnly.foldl (fun u n hn => ?_) s
  exact (u.modCan_movesOnly ..).trans (MovesOnly.wr (canMonitor_mem_permitFields hn) _ _)

theorem State.updPermit_movesOnly (s : State) : MovesOnly permitFields s s.updPermit := by
  have hpermit : MovesOnly permitFields s (s.wrB FIO_STATUS_OUT_PERMIT s.permit) :=
    MovesOnly.wr (List.mem_cons_self ..) s _
  refine hpermit.trans (MovesOnly.foldl (fun u n hn => ?_) _)
  exact MovesOnly.wr (canMonitor_mem_permitFields hn) u _

/-- The first of a release: the unit's TOKEN source and drive are off, and the gate leaves HOLD (R278). -/
def State.gateReleased (s : State) : State :=
  ({ s with prd := { s.prd with srcOn := false, outDrive := false } }).wrState PRD_STATUS_GATE 0 0 3

/-- Next its transmitters, its frames and its outputs. -/
def State.outputsReleased (s : State) : State :=
  (s.gateReleased.canRelease.endCidFrames.wrB ZFB_STATUS_DRIVE false).updPermit

/-- Then the cause is shown. -/
def State.causeShown (s : State) (cause check : Nat) : State :=
  s.wrAll [(PRD_CAUSE_CAUSE, cause), (PRD_CAUSE_CHECK, check), (PRD_CAUSE_T, s.ns32)]

/-- Last, the status blocks go out, and the restart is counted from now. -/
def State.restartDue (s : State) : State :=
  let u := s.sendBlocks
  { u with pwr := { u.pwr with restart := some u.ticks } }

theorem State.release_of_holds {s : State} (h : s.holds = true) (cause check : Nat) :
    s.release cause check = (s.outputsReleased.causeShown cause check).restartDue := by
  rw [State.release, if_pos h]
  rfl

theorem State.release_of_not_holds {s : State} (h : s.holds = false) (cause check : Nat) : s.release cause check = s := by
  rw [State.release, if_neg (by simp [h])]

/-- The fields that show the cause of a release. -/
def causeFields : List Fld := [PRD_CAUSE_CAUSE, PRD_CAUSE_CHECK, PRD_CAUSE_T]

/-- The fields that a release of TOKEN moves. -/
def releaseFields : List Fld := (PRD_STATUS_GATE :: logFields) ++ (ZFB_STATUS_DRIVE :: permitFields) ++ causeFields

theorem State.gateReleased_movesOnly (s : State) : MovesOnly (PRD_STATUS_GATE :: logFields) s s.gateReleased := by
  have hprd : MovesOnly (PRD_STATUS_GATE :: logFields) s { s with prd := { s.prd with srcOn := false, outDrive := false } } :=
    MovesOnly.of_regs_eq _ rfl rfl rfl rfl
  exact hprd.trans (State.wrState_movesOnly ..)

theorem State.outputsReleased_movesOnly (s : State) :
    MovesOnly (ZFB_STATUS_DRIVE :: permitFields) s.gateReleased s.outputsReleased := by
  have hcan := s.gateReleased.canRelease_movesOnly.mono (List.subset_cons_self ZFB_STATUS_DRIVE _)
  have hframes : MovesOnly (ZFB_STATUS_DRIVE :: permitFields) s.gateReleased.canRelease s.gateReleased.canRelease.endCidFrames :=
    MovesOnly.of_regs_eq _ rfl rfl rfl rfl
  exact (hcan.trans hframes).trans ((MovesOnly.wr (List.mem_cons_self ..) _ _).trans
    ((State.updPermit_movesOnly _).mono (List.subset_cons_self ..)))

theorem State.causeShown_movesOnly (s : State) (cause check : Nat) : MovesOnly causeFields s (s.causeShown cause check) :=
  MovesOnly.wrAll (by simp [causeFields]) s

theorem State.restartDue_movesOnly (fs : List Fld) (s : State) : MovesOnly fs s s.restartDue :=
  MovesOnly.of_regs_eq fs rfl rfl rfl rfl

theorem State.release_movesOnly (s : State) (cause check : Nat) : MovesOnly releaseFields s (s.release cause check) := by
  cases hholds : s.holds with
  | true =>
    have hgate := s.gateReleased_movesOnly.mono (List.subset_append_left _ (ZFB_STATUS_DRIVE :: permitFields))
    have hout := s.outputsReleased_movesOnly.mono (List.subset_append_right (PRD_STATUS_GATE :: logFields) _)
    have hboth := (hgate.trans hout).mono (List.subset_append_left _ causeFields)
    have hcause := (s.outputsReleased.causeShown_movesOnly cause check).mono (fs' := releaseFields) (List.subset_append_right ..)
    rw [State.release_of_holds hholds]
    exact (hboth.trans hcause).trans (State.restartDue_movesOnly ..)
  | false =>
    rw [State.release_of_not_holds hholds]
    exact MovesOnly.refl _ s

theorem State.gateReleased_start (s : State) : s.gateReleased.start = s.start := State.wrState_start _ PRD_STATUS_GATE 0 0 3

theorem State.release_start (s : State) (cause check : Nat) : (s.release cause check).start = s.start := by
  cases hholds : s.holds with
  | true =>
    rw [State.release_of_holds hholds]
    exact s.gateReleased_start
  | false => rw [State.release_of_not_holds hholds]

/-- A release is shown in the gate, which is in state 3, and in its cause. -/
theorem State.rd_release {s : State} (h : s.holds = true) (cause check : Nat) :
    (s.release cause check).rd PRD_STATUS_GATE = 3 ∧ (s.release cause check).rd PRD_CAUSE_CAUSE = cause % 2 ^ 4 ∧
      (s.release cause check).rd PRD_CAUSE_CHECK = check % 2 ^ 4 := by
  have hend := State.restartDue_movesOnly [] (s.outputsReleased.causeShown cause check)
  rw [State.release_of_holds h]
  refine ⟨?gate, ?shown, ?failed⟩
  case gate =>
    rw [hend.regs _ (by simp), (State.causeShown_movesOnly ..).regs _ (by decide), s.outputsReleased_movesOnly.regs _ (by decide)]
    exact State.wrState_rd _ PRD_STATUS_GATE 0 0 3 (by decide)
  case shown =>
    rw [hend.regs _ (by simp)]
    simp only [State.causeShown, State.wrAll, List.foldl_cons, List.foldl_nil]
    rw [State.rd_wr_ne _ (by decide), State.rd_wr_ne _ (by decide), State.rd_wr]
    rfl
  case failed =>
    rw [hend.regs _ (by simp)]
    simp only [State.causeShown, State.wrAll, List.foldl_cons, List.foldl_nil]
    rw [State.rd_wr_ne _ (by decide), State.rd_wr]
    rfl

theorem State.checkFail_movesOnly (s : State) (c : Nat) : MovesOnly releaseFields s (s.checkFail c) :=
  MovesOnly.ite (s.release_movesOnly 1 c) (MovesOnly.refl _ s)

theorem State.checkFail_start (s : State) (c : Nat) : (s.checkFail c).start = s.start := by
  unfold State.checkFail
  split
  · exact s.release_start 1 c
  · rfl

/-! ### Sweeps -/

/-- The fields that show the response in force and the pending one (R68). -/
def responseFields : List Fld := [SCH_STATUS_RESP_ACT, SCH_STATUS_RESP_PEND, SCH_RESP_EFF_SWEEP]

/-- Of the coming of a sweep the registers show no more than the response that it brings into force. -/
theorem State.sweepTurn_movesOnly_response (s : State) (k : Nat) : MovesOnly responseFields s (s.sweepTurn k) := by
  have hswitch : MovesOnly responseFields s (s.respSwitch k) := by
    unfold State.respSwitch
    split
    case h_1 =>
      exact MovesOnly.ite ((MovesOnly.wrAll (by simp [responseFields]) s).trans (MovesOnly.modSch ..)) (MovesOnly.refl _ s)
    case h_2 => exact MovesOnly.refl _ s
  refine hswitch.trans ?_
  unfold State.sweepTurn
  extract_lets u v
  exact MovesOnly.ite ((MovesOnly.modSch _ u _).trans (MovesOnly.cfe _ v _)) (MovesOnly.refl _ u)

theorem State.gridRun_movesOnly_response (s : State) (t0 : Nat) : MovesOnly responseFields s (s.gridRun t0) :=
  MovesOnly.ite (MovesOnly.foldl (fun u _ _ => u.sweepTurn_movesOnly_response _) s) (MovesOnly.refl _ s)

/-! ### A step of fabric time -/

/-- The fields that a step of fabric time moves in the subsystems: the sweeps that it skips or holds, and the instant of the
second marker (R71, R125). -/
def timeStepFields : List Fld := SCH_ERR_SWEEP_SKIP :: SCH_ERR_SWEEP_HELD :: instantFields

theorem subset_timeStepFields : instantFields ⊆ timeStepFields :=
  List.subset_cons_of_subset _ (List.subset_cons_self ..)

theorem State.schStep_movesOnly (s : State) (t0 : Nat) : MovesOnly timeStepFields s (s.schStep t0) := by
  unfold State.schStep
  extract_lets t1 u a b v w
  have hshift : MovesOnly timeStepFields s u := MovesOnly.modSch ..
  refine hshift.trans (MovesOnly.ite ?forward ?backward)
  case forward =>
    have hswitch : MovesOnly timeStepFields u v :=
      MovesOnly.ite ((State.respSwitch_movesOnly ..).mono subset_timeStepFields) (MovesOnly.refl ..)
    have hskip : MovesOnly timeStepFields v w :=
      MovesOnly.ite (MovesOnly.wr (by simp [timeStepFields]) v 1) (MovesOnly.refl ..)
    exact (hswitch.trans hskip).trans
      (MovesOnly.ite ((State.sweepTurn_movesOnly ..).mono subset_timeStepFields) (MovesOnly.refl ..))
  case backward =>
    split
    · exact MovesOnly.ite (MovesOnly.wr (by simp [timeStepFields]) u 1) (MovesOnly.refl ..)
    · exact MovesOnly.refl ..

theorem State.gnbStep_movesOnly (s : State) (d : Int) : MovesOnly timeStepFields s (s.gnbStep d) := by
  unfold State.gnbStep
  extract_lets g u
  have hgnb : MovesOnly timeStepFields s u := MovesOnly.of_regs_eq _ rfl rfl rfl rfl
  exact hgnb.trans (MovesOnly.ite (MovesOnly.wr (by simp [timeStepFields, instantFields]) u _) (MovesOnly.refl ..))

theorem State.timeStep_movesOnly (s : State) (t0 : Nat) : MovesOnly timeStepFields s (s.timeStep t0) := by
  unfold State.timeStep
  extract_lets d u
  have hcells : MovesOnly timeStepFields (s.schStep t0) u := MovesOnly.of_regs_eq _ rfl rfl rfl rfl
  have hcse : MovesOnly timeStepFields u { u with cse := u.cse.shift d } := MovesOnly.of_regs_eq _ rfl rfl rfl rfl
  have hfus : ∀ v : State, MovesOnly timeStepFields v (v.fusTimeStep d) := fun v => MovesOnly.of_regs_eq _ rfl rfl rfl rfl
  exact ((s.schStep_movesOnly t0).trans hcells).trans ((hcse.trans (State.gnbStep_movesOnly _ d)).trans (hfus _))

end Sys2Proof.Machine

/-!
# Plant time

What the commands of the plant time unit do (chapter 10): the counter and its steps, the loss of REFCLK, the exchange with
the parent, offsets while the servo is off, the second marker, and the timestamp queues.
-/
namespace Sys2Proof.Machine

/-! ### Frames of register fields and of memory -/

theorem RegsBut.mono {fs gs : List Fld} {s t : State} (h : RegsBut fs s t) (hsub : fs ⊆ gs) : RegsBut gs s t :=
  fun g hg => h g fun f hf => hg f (hsub hf)

theorem RegsBut.trans {fs : List Fld} {s t u : State} (h : RegsBut fs s t) (h' : RegsBut fs t u) : RegsBut fs s u :=
  fun g hg => (h' g hg).trans (h g hg)

theorem MemSame.trans {s t u : State} (h : MemSame s t) (h' : MemSame t u) : MemSame s u :=
  ⟨fun a => (h'.1 a).trans (h.1 a), fun k => (h'.2 k).trans (h.2 k)⟩

/-! ### Two's complement and rounding -/

theorem ofSigned_lt (i : Int) : ofSigned 32 i < 2 ^ 32 := by
  unfold ofSigned
  omega

theorem toSigned_bounds (n : Nat) : -(2 ^ 31) ≤ toSigned 32 n ∧ toSigned 32 n < 2 ^ 31 := by
  unfold toSigned
  split <;> omega

theorem satSigned_toSigned (n : Nat) : satSigned 32 (toSigned 32 n) = toSigned 32 n := by
  obtain ⟨hlow, hhigh⟩ := toSigned_bounds n
  unfold satSigned
  omega

theorem ofSigned_toSigned (n : Nat) : ofSigned 32 (toSigned 32 n) = n % 2 ^ 32 := by
  unfold ofSigned toSigned
  split <;> omega

theorem roundQ_intCast (i : Int) : roundQ (i : Rat) = i := by
  have hhalf : ((1 : Rat) / 2).floor = 0 := by decide +kernel
  have hfloor (k : Int) : ((k : Rat) + 1 / 2).floor = k := by
    rw [Rat.add_comm, Rat.floor_add_intCast, hhalf, Int.zero_add]
  unfold roundQ
  split
  · rw [← Rat.intCast_neg, hfloor, Int.neg_neg]
  · exact hfloor i

theorem absQ_le {q b : Rat} (hlow : -b ≤ q) (hhigh : q ≤ b) : absQ q ≤ b := by
  unfold absQ
  split
  · exact Rat.neg_le_iff.mpr hlow
  · exact hhigh

/-! ### The wrap of NS32 -/

/-- NS32 has wrapped, and the epoch has advanced (R219). -/
def State.epochAdvanced (s : State) : State := (s.wr PTU_TIME_NS32 0).wrapInc PTU_TIME_EPOCH

theorem State.epochAdvanced_movesOnly (s : State) : MovesOnly [PTU_TIME_NS32, PTU_TIME_EPOCH] s s.epochAdvanced :=
  (MovesOnly.wr (by simp) s 0).trans (MovesOnly.wr (by simp) _ _)

theorem State.rd_epochAdvanced (s : State) :
    s.epochAdvanced.rd PTU_TIME_NS32 = 0 ∧ s.epochAdvanced.rd PTU_TIME_EPOCH = (s.rd PTU_TIME_EPOCH + 1) % 2 ^ 32 := by
  constructor
  · rw [State.epochAdvanced, State.wrapInc, State.rd_wr_ne _ (by decide), State.rd_wr, Nat.zero_mod]
  · rw [State.epochAdvanced, State.rd_wrapInc, State.rd_wr_ne _ (by decide)]
    rfl

theorem exec_ns32Wrap (s : State) : ∃ t, exec .ns32Wrap s = .next t ∧ t.rd PTU_TIME_NS32 = 0 ∧
    t.rd PTU_TIME_EPOCH = (s.rd PTU_TIME_EPOCH + 1) % 2 ^ 32 ∧
    RegsBut ([PTU_TIME_NS32, PTU_TIME_EPOCH] ++ responseFields) s t ∧ MemSame s t := by
  obtain ⟨hns32, hepoch⟩ := s.rd_epochAdvanced
  have hgrid := s.epochAdvanced.gridRun_movesOnly_response s.now
  have hall := (s.epochAdvanced_movesOnly.mono (List.subset_append_left _ responseFields)).trans
    (hgrid.mono (List.subset_append_right ..))
  refine ⟨s.epochAdvanced.gridRun s.now, rfl, ?_, ?_, hall.regs, hall.memSame⟩
  · rw [hgrid.regs _ (by decide), hns32]
  · rw [hgrid.regs _ (by decide), hepoch]

/-! ### The loss of REFCLK -/

/-- The plant time unit once REFCLK is lost: it runs on its own oscillator, in FREE (R220). -/
def State.refclkLost (s : State) : State :=
  let u := (s.wrB PTU_STATUS_REFCLK_OK false).ptuTo 0
  { u with ptu := { u.ptu with intOsc := true, step := none, needEpoch := true } }

theorem State.rd_refclkLost (s : State) :
    s.refclkLost.rd PTU_STATUS_REFCLK_OK = 0 ∧ s.refclkLost.rd PTU_STATUS_STATE = 0 := by
  constructor
  · calc s.refclkLost.rd PTU_STATUS_REFCLK_OK
        = ((s.wrB PTU_STATUS_REFCLK_OK false).wr PTU_STATUS_STATE 0).rd PTU_STATUS_REFCLK_OK := rfl
      _ = 0 := by rw [State.rd_wr_ne _ (by decide), State.rd_wrB _ _ _ (by decide)]; rfl
  · exact State.rd_wr (s.wrB PTU_STATUS_REFCLK_OK false) PTU_STATUS_STATE 0

theorem State.rd_refclkLost_ne (s : State) {f : Fld} (hok : f.key ≠ PTU_STATUS_REFCLK_OK.key)
    (hstate : f.key ≠ PTU_STATUS_STATE.key) : s.refclkLost.rd f = s.rd f :=
  calc s.refclkLost.rd f = ((s.wr PTU_STATUS_REFCLK_OK 0).wr PTU_STATUS_STATE 0).rd f := rfl
    _ = s.rd f := by rw [State.rd_wr_ne _ hstate, State.rd_wr_ne _ hok]

/-- The module once REFCLK is lost, but for the check that fails: the flag stands, and the controllers are OFF (R367). -/
def State.refclkFlagged (s : State) : State := (s.refclkLost.errLog PTU_ERR_REFCLK_LOSS 0).canClkLoss

theorem State.refclkFlagged_movesOnly (s : State) :
    MovesOnly ((PTU_ERR_REFCLK_LOSS :: logFields) ++ canStates) s.refclkLost s.refclkFlagged :=
  ((s.refclkLost.errLog_movesOnly PTU_ERR_REFCLK_LOSS 0).mono (List.subset_append_left ..)).trans
    ((State.canClkLoss_movesOnly _).mono (List.subset_append_right ..))

theorem exec_refclkLoss_eq {s : State} (hlive : s.live = true) (hosc : s.ptu.intOsc = false) :
    exec .refclkLoss s = .next (s.refclkFlagged.checkFail 3) := by
  have hlive' : s.refclkLost.live = true := hlive
  calc exec .refclkLoss s
      = done (if s.refclkLost.live then s.refclkFlagged.checkFail 3 else s.refclkLost) := if_neg (by simp [hosc])
    _ = _ := congrArg done (if_pos hlive')

theorem exec_refclkLoss (s : State) (hlive : s.live = true) (hosc : s.ptu.intOsc = false) :
    ∃ t, exec .refclkLoss s = .next t ∧ t.rd PTU_STATUS_REFCLK_OK = 0 ∧ t.rd PTU_STATUS_STATE = 0 ∧
      t.rd PTU_ERR_REFCLK_LOSS = 1 ∧ t.ptu.intOsc = true ∧ t.start = s.start ∧ MemSame s t ∧
      (s.holds = true → (s.rd PRD_DIAG_EN_CHECK).testBit 3 = true →
        t.rd PRD_STATUS_GATE = 3 ∧ t.rd PRD_CAUSE_CAUSE = 1 ∧ t.rd PRD_CAUSE_CHECK = 3) := by
  obtain ⟨hok, hfree⟩ := s.rd_refclkLost
  have hflag := s.refclkFlagged_movesOnly
  have hcheck := s.refclkFlagged.checkFail_movesOnly 3
  refine ⟨_, exec_refclkLoss_eq hlive hosc, ?ok, ?free, ?loss, ?osc, ?start, ?mem, fun hholds henabled => ?release⟩
  case ok => rw [hcheck.regs _ (by decide), hflag.regs _ (by decide), hok]
  case free => rw [hcheck.regs _ (by decide), hflag.regs _ (by decide), hfree]
  case loss =>
    rw [hcheck.regs _ (by decide), State.refclkFlagged, (State.canClkLoss_movesOnly _).regs _ (by decide),
      State.errLog_rd _ _ _ (by decide) (by decide)]
  case osc => rw [hcheck.ptu, hflag.ptu]; rfl
  case start =>
    rw [State.checkFail_start, State.refclkFlagged, State.canClkLoss_start, State.errLog_start]
    rfl
  case mem => exact memSame_of_eq (hcheck.mem.trans hflag.mem) (hcheck.chk.trans hflag.chk)
  case release =>
    have hgate : s.refclkFlagged.rd PRD_STATUS_GATE = s.rd PRD_STATUS_GATE := by
      rw [hflag.regs _ (by decide), s.rd_refclkLost_ne (by decide) (by decide)]
    have hdiag : s.refclkFlagged.rd PRD_DIAG_EN_CHECK = s.rd PRD_DIAG_EN_CHECK := by
      rw [hflag.regs _ (by decide), s.rd_refclkLost_ne (by decide) (by decide)]
    have hholds' : s.refclkFlagged.holds = true := by rwa [State.holds, hgate]
    rw [State.checkFail, hdiag, if_pos henabled]
    exact State.rd_release hholds' 1 3

/-! ### The exchange with the parent -/

theorem exec_syncExchangeStart_mirror (t1 : BitVec 34) {s : State} (hlive : s.live = true) (hsrc : s.rd PTU_CTRL_SRC = 3)
    (hhalf : s.half2 = false) : exec (.syncExchangeStart t1) s =
      .next (({ s with ptu := { s.ptu with t1 := some (4, t1.toNat) } }).timeLaneSend .ml []) := by
  calc exec (.syncExchangeStart t1) s
      = done _ := congrArg done (whenLive_of_live hlive _)
    _ = _ := by simp [done, hsrc, hhalf, State.timeLane]

theorem exec_syncExchangeStart_domino (t1 : BitVec 34) {s : State} (hlive : s.live = true) (hsrc : s.rd PTU_CTRL_SRC = 3)
    (hhalf : s.half2 = true) : exec (.syncExchangeStart t1) s =
      .next (({ s with ptu := { s.ptu with t1 := some (5, t1.toNat) } }).timeLaneSend .dl []) := by
  calc exec (.syncExchangeStart t1) s
      = done _ := congrArg done (whenLive_of_live hlive _)
    _ = _ := by simp [done, hsrc, hhalf, State.timeLane]

theorem exec_delayReq_mirror (t2 t3 : BitVec 34) {s : State} (hlive : s.live = true) : exec (.delayReq 4 t2 t3) s =
    .next (s.timeLaneSend .ml
      [payWord (respWord t2.toNat t3.toNat (s.rd PTU_TIME_EPOCH) (s.rd PTU_STATUS_STATE) (!s.ptu.intOsc))]) :=
  congrArg done (whenLive_of_live hlive _)

/-- The offset that an exchange over a port shows (R224). -/
def State.exchangeOffset (s : State) (port t1 t2 t3 t4 : Nat) : Rat :=
  (diffQ t1 t2 - diffQ t3 t4 : Int) / 8 - (s.rdS (PTU_PORT_ASYM port) : Rat) / 10

/-- The reference's time at an exchange whose offset is e: that of its stamp t3, and the span since (R224, R225). -/
def State.referenceTime (s : State) (epoch t3 : Nat) (e : Rat) : Int :=
  (epoch * 2 ^ 32 + t3 / 4 : Nat) + diff32 (t3 / 4) ((s.ns32 + roundQ e) % 2 ^ 32).toNat

/-- A valid answer to the exchange in progress shows the depth, and goes on with the offset (R224, R225). -/
theorem exec_delayResp_valid {port : Fin 5} {t1 : Nat} {s : State} (hlive : s.live = true)
    (ht1 : s.ptu.t1 = some (port.val, t1)) (t2 t3 t4 : BitVec 34) (epoch : BitVec 32) {pstate : Fin 5} (hstate : pstate ≠ 0)
    (depth : Nat) : exec (.delayResp port.castSucc t2 t3 t4 epoch pstate true depth) s =
      .next ((s.wr PTU_STATUS_DEPTH (min (depth + 1) 255)).exchanged port.castSucc
        (diffQ t1 t2.toNat + diffQ t3.toNat t4.toNat) (s.exchangeOffset port t1 t2.toNat t3.toNat t4.toNat) (t4.toNat / 4)
        (s.referenceTime epoch.toNat t3.toNat (s.exchangeOffset port t1 t2.toNat t3.toNat t4.toNat))) := by
  have hport : ¬ port.val = 5 := Nat.ne_of_lt port.isLt
  calc exec (.delayResp port.castSucc t2 t3 t4 epoch pstate true depth) s
      = done _ := congrArg done (whenLive_of_live hlive _)
    _ = _ := by simp [done, ht1, hport, hstate, State.exchangeOffset, State.referenceTime]

/-- What the first exchange of a port shows, its delay d2 in quarter ns and doubled (R224, R225). -/
def State.firstExchange (s : State) (port : Nat) (d2 : Int) : State :=
  (({ s with ptu := { s.ptu with t1 := none, delays := [(port, d2)] } }).wr PTU_STATUS_PARENT_OK 1).wr
    (PTU_PORT_DELAY port) (roundQ ((d2 : Rat) * 10 / 8)).toNat

/-- The first exchange of a port is its own minimum, so that its offset is passed on. -/
theorem State.exchanged_first {s : State} (hdelays : s.ptu.delays = []) (hepoch : s.ptu.needEpoch = false) (port : Fin 5)
    (d2 : Int) (e : Rat) (t : Nat) (loc : Int) :
    s.exchanged port.castSucc d2 e t loc = (s.firstExchange port d2).offset e t 0 loc := by
  have hport : ¬ port.val = 5 := Nat.ne_of_lt port.isLt
  have htol (u : State) : ¬ 8 * (u.rd PTU_SYNC_CFG_DLY_TOL : Int) < 0 := by omega
  simp [State.exchanged, State.firstExchange, State.wrB, b2n, hdelays, hepoch, hport, htol]

/-! ### Offsets while the servo is off -/

theorem State.recordOff_movesOnly (s : State) (e : Rat) (t : Nat) :
    MovesOnly [PTU_LAST_OFF_OFFSET, PTU_LAST_OFF_T] s (s.recordOff e t) :=
  (MovesOnly.wr (f := PTU_LAST_OFF_OFFSET) (by simp) s _).trans (MovesOnly.wr (by simp) _ t)

theorem State.rd_recordOff (s : State) (e : Rat) (t : Nat) :
    (s.recordOff e t).rd PTU_LAST_OFF_OFFSET = ofSigned 32 (satSigned 32 (roundQ (e * 16))) ∧
      (s.recordOff e t).rd PTU_LAST_OFF_T = t % 2 ^ 32 := by
  constructor
  · rw [State.recordOff, State.rd_wr_ne _ (by decide), State.wrS, State.rd_wr]
    exact Nat.mod_eq_of_lt (ofSigned_lt _)
  · exact State.rd_wr ..

/-- With SERVO_EN = 0 a first offset of at most 1 s is recorded, and past plant time's hidden state nothing else moves
(notes/assumptions/10.md). -/
theorem State.offset_eq_of_servo_off {s : State} (hservo : s.rd PTU_CTRL_SERVO_EN = 0) (hlast : s.ptu.lastOff = none) {e : Rat}
    (he : absQ e ≤ 10 ^ 9) (t : Nat) (base load : Int) :
    ∃ p : PtuState, p.t1 = s.ptu.t1 ∧ s.offset e t base load = { s.recordOff e t with ptu := p } := by
  have hoff : s.on PTU_CTRL_SERVO_EN = false := by simp [State.on, hservo]
  have hsmall : ¬ 10 ^ 9 < absQ e := Rat.not_lt.mpr he
  by_cases hfree : s.rd PTU_STATUS_STATE = 0
  · refine ⟨s.ptu, rfl, ?_⟩
    simp only [State.offset, hfree, hoff, if_true, Bool.false_eq_true, if_false]
    rfl
  · refine ⟨{ s.offSeen.ptu with lastOff := some (s.nearNow t) }, rfl, ?_⟩
    simp only [State.offset, hfree, hoff, hsmall, hlast, Bool.false_eq_true, if_false, Bool.not_false, if_true]
    rfl

/-- What that leaves: the offset and its instant shown, and an exchange in progress as it was. -/
theorem State.offset_of_servo_off {s : State} (hservo : s.rd PTU_CTRL_SERVO_EN = 0) (hlast : s.ptu.lastOff = none) {e : Rat}
    (he : absQ e ≤ 10 ^ 9) (t : Nat) (base load : Int) :
    ∃ u, s.offset e t base load = u ∧ u.ptu.t1 = s.ptu.t1 ∧ u.rd PTU_LAST_OFF_T = t % 2 ^ 32 ∧
      u.rd PTU_LAST_OFF_OFFSET = ofSigned 32 (satSigned 32 (roundQ (e * 16))) ∧
      RegsBut [PTU_LAST_OFF_OFFSET, PTU_LAST_OFF_T] s u ∧ MemSame s u := by
  obtain ⟨p, hp, hoffset⟩ := State.offset_eq_of_servo_off hservo hlast he t base load
  obtain ⟨hrecorded, hinstant⟩ := s.rd_recordOff e t
  have hrecord := s.recordOff_movesOnly e t
  refine ⟨_, hoffset, hp, ?_, ?_, fun g hg => ?_, memSame_of_eq hrecord.mem hrecord.chk⟩
  · rw [State.rd_mk, hinstant]
  · rw [State.rd_mk, hrecorded]
  · rw [State.rd_mk, hrecord.regs g hg]

/-- SERVO_EN and what an answer shows are none of the fields of PTU_PORT. -/
theorem key_ne_portDelay : ∀ port : Fin 5, ∀ f ∈ [PTU_CTRL_SERVO_EN, PTU_STATUS_PARENT_OK, PTU_STATUS_DEPTH],
    f.key ≠ (PTU_PORT_DELAY port).key := by decide

theorem State.firstExchange_ptu (s : State) (port : Nat) (d2 : Int) :
    (s.firstExchange port d2).ptu = { s.ptu with t1 := none, delays := [(port, d2)] } := rfl

theorem State.firstExchange_memSame (s : State) (port : Nat) (d2 : Int) : MemSame s (s.firstExchange port d2) :=
  memSame_of_eq rfl rfl

theorem State.firstExchange_regsBut (s : State) (port : Nat) (d2 : Int) :
    RegsBut [PTU_STATUS_PARENT_OK, PTU_PORT_DELAY port] s (s.firstExchange port d2) := by
  intro g hg
  rw [State.firstExchange, State.rd_wr_ne _ (hg _ (by simp)), State.rd_wr_ne _ (hg _ (by simp))]
  rfl

theorem State.rd_firstExchange_parent (s : State) (port : Fin 5) (d2 : Int) :
    (s.firstExchange port d2).rd PTU_STATUS_PARENT_OK = 1 := by
  rw [State.firstExchange, State.rd_wr_ne _ (key_ne_portDelay port _ (by simp)), State.rd_wr]
  rfl

/-- With the servo off the offset of a first exchange is recorded, beside the delay and the parent. -/
theorem State.firstExchange_offset {s : State} (hservo : s.rd PTU_CTRL_SERVO_EN = 0) (hlast : s.ptu.lastOff = none)
    (port : Fin 5) (d2 : Int) {e : Rat} (he : absQ e ≤ 10 ^ 9) (t : Nat) (loc : Int) :
    ∃ u, (s.firstExchange port d2).offset e t 0 loc = u ∧ u.ptu.t1 = none ∧ u.rd PTU_STATUS_PARENT_OK = 1 ∧
      u.rd PTU_LAST_OFF_T = t % 2 ^ 32 ∧ u.rd PTU_LAST_OFF_OFFSET = ofSigned 32 (satSigned 32 (roundQ (e * 16))) ∧
      RegsBut [PTU_STATUS_PARENT_OK, PTU_PORT_DELAY port, PTU_LAST_OFF_OFFSET, PTU_LAST_OFF_T] s u ∧ MemSame s u := by
  have hshown := s.firstExchange_regsBut port d2
  have hservo' : (s.firstExchange port d2).rd PTU_CTRL_SERVO_EN = 0 := by
    rw [hshown _ (by simpa using ⟨by decide, key_ne_portDelay port _ (by simp)⟩), hservo]
  obtain ⟨u, hoffset, ht1, hinstant, hrecorded, hregs, hmem⟩ :=
    (s.firstExchange port d2).offset_of_servo_off hservo' hlast he t 0 loc
  refine ⟨u, hoffset, ?_, ?_, hinstant, hrecorded, (hshown.mono (by simp)).trans (hregs.mono (by simp)),
    (s.firstExchange_memSame port d2).trans hmem⟩
  · rw [ht1, State.firstExchange_ptu]
  · rw [hregs _ (by decide), s.rd_firstExchange_parent port d2]

/-- The first exchange of a port while the servo is off shows the parent, the depth and the offset of R224. -/
theorem exec_delayResp_first {port : Fin 5} {t1 : Nat} {s : State} (hlive : s.live = true)
    (ht1 : s.ptu.t1 = some (port.val, t1)) (t2 t3 t4 : BitVec 34) (epoch : BitVec 32) {pstate : Fin 5} (hstate : pstate ≠ 0)
    (depth : Nat) (hdelays : s.ptu.delays = []) (hepoch : s.ptu.needEpoch = false) (hservo : s.rd PTU_CTRL_SERVO_EN = 0)
    (hlast : s.ptu.lastOff = none) (he : absQ (s.exchangeOffset port t1 t2.toNat t3.toNat t4.toNat) ≤ 10 ^ 9) :
    ∃ t, exec (.delayResp port.castSucc t2 t3 t4 epoch pstate true depth) s = .next t ∧ t.ptu.t1 = none ∧
      t.rd PTU_STATUS_PARENT_OK = 1 ∧ t.rd PTU_STATUS_DEPTH = min (depth + 1) 255 ∧
      t.rd PTU_LAST_OFF_T = t4.toNat / 4 % 2 ^ 32 ∧ t.rd PTU_LAST_OFF_OFFSET =
        ofSigned 32 (satSigned 32 (roundQ (s.exchangeOffset port t1 t2.toNat t3.toNat t4.toNat * 16))) ∧
      RegsBut [PTU_STATUS_PARENT_OK, PTU_STATUS_DEPTH, PTU_PORT_DELAY port, PTU_LAST_OFF_OFFSET, PTU_LAST_OFF_T] s t ∧
      MemSame s t := by
  have hdepth : MovesOnly [PTU_STATUS_DEPTH] s (s.wr PTU_STATUS_DEPTH (min (depth + 1) 255)) := MovesOnly.wr (by simp) s _
  have hservo' : (s.wr PTU_STATUS_DEPTH (min (depth + 1) 255)).rd PTU_CTRL_SERVO_EN = 0 := by
    rw [hdepth.regs _ (by decide), hservo]
  obtain ⟨t, hoffset, ht1', hparent, hinstant, hrecorded, hregs, hmem⟩ := State.firstExchange_offset hservo' hlast port
    (diffQ t1 t2.toNat + diffQ t3.toNat t4.toNat) he (t4.toNat / 4) (s.referenceTime epoch.toNat t3.toNat
      (s.exchangeOffset port t1 t2.toNat t3.toNat t4.toNat))
  refine ⟨t, ?_, ht1', hparent, ?_, hinstant, hrecorded, ?_, hdepth.memSame.trans hmem⟩
  · rw [exec_delayResp_valid hlive ht1 t2 t3 t4 epoch hstate depth,
      State.exchanged_first (s := s.wr PTU_STATUS_DEPTH _) hdelays hepoch, hoffset]
  · rw [hregs _ (by simpa using ⟨by decide, key_ne_portDelay port _ (by simp), by decide⟩), State.rd_wr]
    exact Nat.mod_eq_of_lt (Nat.lt_of_le_of_lt (Nat.min_le_right ..) (by decide))
  · exact (hdepth.regs.mono (by simp)).trans (hregs.mono (by simp))

/-- PTU_OFFSET_IN holds at most 2^31 sixteenths of a nanosecond, which is below 1 s. -/
theorem absQ_hostOffset_le (off : Nat) : absQ ((toSigned 32 off : Rat) / 16) ≤ 10 ^ 9 := by
  obtain ⟨hlow, hhigh⟩ := toSigned_bounds off
  have hlow' : ((-(2 ^ 31) : Int) : Rat) ≤ toSigned 32 off := Rat.intCast_le_intCast.mpr hlow
  have hhigh' : (toSigned 32 off : Rat) < ((2 ^ 31 : Int) : Rat) := Rat.intCast_lt_intCast.mpr hhigh
  exact absQ_le (by grind) (by grind)

theorem exec_ptuOffsetIn_servo_off (off i : BitVec 32) {s : State} (hlive : s.live = true) (hsrc : s.rd PTU_CTRL_SRC = 4)
    (hservo : s.rd PTU_CTRL_SERVO_EN = 0) (hlast : s.ptu.lastOff = none) :
    ∃ t, exec (.ptuOffsetIn off i) s = .next t ∧ t.rd PTU_LAST_OFF_OFFSET = off.toNat ∧ t.rd PTU_LAST_OFF_T = i.toNat ∧
      RegsBut [PTU_LAST_OFF_OFFSET, PTU_LAST_OFF_T] s t ∧ MemSame s t := by
  have hwhole : roundQ ((toSigned 32 off.toNat : Rat) / 16 * 16) = toSigned 32 off.toNat := by
    rw [Rat.div_mul_cancel (by decide), roundQ_intCast]
  obtain ⟨t, hoffset, -, hinstant, hrecorded, hregs, hmem⟩ := State.offset_of_servo_off hservo hlast
    (absQ_hostOffset_le off.toNat) i.toNat 0 (s.now + roundQ ((toSigned 32 off.toNat : Rat) / 16))
  rw [hwhole, satSigned_toSigned, ofSigned_toSigned, Nat.mod_eq_of_lt off.isLt] at hrecorded
  rw [Nat.mod_eq_of_lt i.isLt] at hinstant
  refine ⟨t, ?_, hrecorded, hinstant, hregs, hmem⟩
  calc exec (.ptuOffsetIn off i) s
      = done (s.hostOffset off.toNat i.toNat).1 := congrArg done (whenLive_of_live hlive _)
    _ = .next t := by rw [State.hostOffset, if_pos hsrc]; exact congrArg done hoffset

theorem exec_ptuOffsetIn_other_source (off i : BitVec 32) {s : State} (hlive : s.live = true) (hsrc : s.rd PTU_CTRL_SRC ≠ 4) :
    exec (.ptuOffsetIn off i) s = .next (s.wr PTU_ERR_CFG_REJ 1) := by
  calc exec (.ptuOffsetIn off i) s
      = done (s.hostOffset off.toNat i.toNat).1 := congrArg done (whenLive_of_live hlive _)
    _ = _ := by rw [State.hostOffset, if_neg hsrc]; rfl

/-- An edge of PPS_IN whose source it is not is stamped and counted, and no more (R231). -/
theorem exec_ppsInEdge_other_source {falling : Bool} (i : BitVec 32) {s : State} (hlive : s.live = true)
    (hen : s.rd PTU_PPS_CFG_PPS_IN_EN ≠ 0) (hfall : s.on PTU_PPS_CFG_PPS_IN_FALL = falling) (hsrc : s.rd PTU_CTRL_SRC ≠ 5) :
    exec (.ppsInEdge falling i) s =
      .next ((s.wr PTU_PPS_IN_T i.toNat).wr PTU_PPS_IN_CNT (s.rd PTU_PPS_IN_CNT + 1)) := by
  have hon : s.on PTU_PPS_CFG_PPS_IN_EN = true := by simp [State.on, hen]
  have hcount : (s.wr PTU_PPS_IN_T i.toNat).wrapInc PTU_PPS_IN_CNT =
      (s.wr PTU_PPS_IN_T i.toNat).wr PTU_PPS_IN_CNT (s.rd PTU_PPS_IN_CNT + 1) := by
    rw [State.wrapInc, State.rd_wr_ne _ (by decide)]
  have hsrc' : ((s.wr PTU_PPS_IN_T i.toNat).wr PTU_PPS_IN_CNT (s.rd PTU_PPS_IN_CNT + 1)).rd PTU_CTRL_SRC ≠ 5 := by
    rwa [State.rd_wr_ne _ (by decide), State.rd_wr_ne _ (by decide)]
  calc exec (.ppsInEdge falling i) s
      = done _ := congrArg done (whenLive_of_live hlive _)
    _ = _ := by simp only [hon, hfall, decide_true, Bool.and_self, if_true, hcount, if_neg hsrc', done]

/-! ### Holdover -/

/-- The unit's frequency on the way into HOLDOVER: that of its integrator, or the one it held before a slew; with the servo
on the increment follows (R227). -/
def State.frequencyHeld (s : State) : State :=
  let fh := if s.rd PTU_STATUS_STATE = 1 then s.ptu.i else s.ptu.fh
  let u : State := { s with ptu := { s.ptu with fh := fh } }
  if u.on PTU_CTRL_SERVO_EN then u.setRate fh else u

theorem State.frequencyHeld_frame (s : State) : RegsBut [PTU_INCR_INCR] s s.frequencyHeld ∧ MemSame s s.frequencyHeld := by
  unfold State.frequencyHeld
  extract_lets fh u
  split
  · exact ⟨regsBut_of_regs_eq_wr rfl, memSame_of_eq rfl rfl⟩
  · exact ⟨fun _ _ => rfl, memSame_of_eq rfl rfl⟩

/-- LOCKED or SLEW without an offset for HOLD_T ends in HOLDOVER (R227). -/
theorem exec_holdoverEntry_eq {s : State} (hstate : s.rd PTU_STATUS_STATE = 1 ∨ s.rd PTU_STATUS_STATE = 3)
    (hlong : s.ptu.offTick + 2500000 * s.rd PTU_SYNC_CFG_HOLD_T ≤ s.ticks) : exec .holdoverEntry s =
      .next (((s.frequencyHeld.ptuTo 2).wr PTU_HOLD_DUR 0).errLog PTU_ERR_HOLDOVER_ENT 0) :=
  congrArg done (if_pos (by simp [hstate, hlong]))

theorem exec_holdoverEntry {s : State} (hstate : s.rd PTU_STATUS_STATE = 1 ∨ s.rd PTU_STATUS_STATE = 3)
    (hlong : s.ptu.offTick + 2500000 * s.rd PTU_SYNC_CFG_HOLD_T ≤ s.ticks) :
    ∃ t, exec .holdoverEntry s = .next t ∧ t.rd PTU_STATUS_STATE = 2 ∧ t.rd PTU_HOLD_DUR = 0 ∧ t.rd PTU_ERR_HOLDOVER_ENT = 1 ∧
      RegsBut (PTU_STATUS_STATE :: PTU_HOLD_DUR :: PTU_INCR_INCR :: PTU_ERR_HOLDOVER_ENT :: logFields) s t ∧ MemSame s t := by
  obtain ⟨hrate, hmem⟩ := s.frequencyHeld_frame
  have hentered : MovesOnly [PTU_STATUS_STATE, PTU_HOLD_DUR] s.frequencyHeld ((s.frequencyHeld.ptuTo 2).wr PTU_HOLD_DUR 0) :=
    (MovesOnly.wr (f := PTU_STATUS_STATE) (by simp) _ 2).trans (MovesOnly.wr (by simp) _ 0)
  have hlog := ((s.frequencyHeld.ptuTo 2).wr PTU_HOLD_DUR 0).errLog_movesOnly PTU_ERR_HOLDOVER_ENT 0
  refine ⟨_, exec_holdoverEntry_eq hstate hlong, ?state, ?duration, ?flag, ?regs, ?mem⟩
  case state =>
    rw [hlog.regs _ (by decide), State.rd_wr_ne _ (by decide)]
    exact State.rd_wr s.frequencyHeld PTU_STATUS_STATE 2
  case duration => rw [hlog.regs _ (by decide), State.rd_wr, Nat.zero_mod]
  case flag => exact State.errLog_rd _ _ _ (by decide) (by decide)
  case regs =>
    exact ((hrate.mono (by simp)).trans (hentered.regs.mono (by simp))).trans
      (hlog.regs.mono (List.subset_append_right [PTU_STATUS_STATE, PTU_HOLD_DUR, PTU_INCR_INCR] _))
  case mem => exact (hmem.trans hentered.memSame).trans hlog.memSame

/-- A node that follows its parent or its pair enters STEP_PEND with the step of the notice (R229). -/
theorem exec_stepNotice (delta : BitVec 32) (tb : BitVec 64) {s : State} (hlive : s.live = true)
    (hfree : s.rd PTU_STATUS_STATE ≠ 0) (hpend : s.rd PTU_STATUS_STATE ≠ 4)
    (hsrc : s.rd PTU_CTRL_SRC = 2 ∨ s.rd PTU_CTRL_SRC = 3) :
    exec (.stepNotice delta tb) s = .next (s.toStepPend { delta := delta.toInt, tb := tb.toNat }) := by
  calc exec (.stepNotice delta tb) s
      = done _ := congrArg done (whenLive_of_live hlive _)
    _ = _ := congrArg done (if_neg (by obtain hsrc | hsrc := hsrc <;> simp [hfree, hpend, hsrc]))

theorem State.toStepPend_frame (s : State) (p : PtuStep) : (s.toStepPend p).rd PTU_STATUS_STATE = 4 ∧
    (s.toStepPend p).ptu.step = some p ∧ RegsBut [PTU_STATUS_STATE] s (s.toStepPend p) ∧ MemSame s (s.toStepPend p) :=
  ⟨State.rd_wr _ PTU_STATUS_STATE 4, rfl, regsBut_of_regs_eq_wr rfl, memSame_of_eq rfl rfl⟩

/-! ### The load of a step -/

theorem State.rd_setNow (s : State) (t : Int) : ((s.setNow t).rd PTU_TIME_NS32 : Int) = t % 2 ^ 32 ∧
    ((s.setNow t).rd PTU_TIME_EPOCH : Int) = t / 2 ^ 32 % 2 ^ 32 := by
  have hwidths : PTU_TIME_NS32.width = 32 ∧ PTU_TIME_EPOCH.width = 32 := ⟨rfl, rfl⟩
  constructor
  · rw [State.setNow, State.rd_wr_ne _ (by decide), State.rd_wr, hwidths.1]
    omega
  · rw [State.setNow, State.rd_wr, hwidths.2]
    omega

theorem State.setNow_movesOnly (s : State) (t : Int) : MovesOnly [PTU_TIME_NS32, PTU_TIME_EPOCH] s (s.setNow t) :=
  (MovesOnly.wr (by simp) s _).trans (MovesOnly.wr (by simp) _ _)

/-- Past the load itself no field but those of `timeStepFields` moves. -/
theorem State.loadTime_regsBut (s : State) (t : Int) : RegsBut timeStepFields (s.setNow t) (s.loadTime t) :=
  (State.timeStep_movesOnly { s.setNow t with ptu := { (s.setNow t).ptu with
    t1 := none, lastOff := (s.setNow t).ptu.lastOff.map fun o => o + t - s.now } } s.now).regs

theorem State.rd_stepRecord (s : State) (delta : Int) (t : Nat) :
    (s.stepRecord delta t).rd PTU_STEP_T = t % 2 ^ 32 ∧ (s.stepRecord delta t).rd PTU_ERR_STEP = 1 := by
  constructor
  · rw [State.stepRecord, State.errLog_rd_ne _ _ _ (by decide) (by decide), State.rd_wr]
    rfl
  · exact State.errLog_rd _ _ _ (by decide) (by decide)

/-- The step's record stands, and the counter has been loaded (R229). -/
def State.stepLoaded (s : State) (p : PtuStep) : State :=
  (s.stepRecord p.delta (p.tb % 2 ^ 32)).loadTime (s.now + p.delta)

/-- After the load the marker may rise, and the unit is in LOCKED: no other register field moves. -/
theorem State.applyStep_frame (s : State) (p : PtuStep) : (s.applyStep p).rd PTU_STATUS_STATE = 1 ∧
    (s.applyStep p).ptu.step = none ∧ RegsBut [PTU_STATUS_STATE] (s.stepLoaded p) (s.applyStep p) := by
  unfold State.applyStep
  extract_lets u v i
  have hmark : v.regs = (s.stepLoaded p).regs := by
    change (if 0 < p.delta then u.ppsMark else u).regs = u.regs
    split <;> rfl
  refine ⟨State.rd_wr _ PTU_STATUS_STATE 1, rfl, regsBut_of_regs_eq_wr (v := 1) ?_⟩
  exact congrArg (aSet PTU_STATUS_STATE.rst PTU_STATUS_STATE.key (1 % 2 ^ PTU_STATUS_STATE.width)) hmark

/-- A field that the load of a step does not move reads as the record and the counter give it. -/
theorem State.rd_applyStep (s : State) (p : PtuStep) {f : Fld}
    (hf : ∀ g ∈ PTU_STATUS_STATE :: timeStepFields, f.key ≠ g.key) :
    (s.applyStep p).rd f = ((s.stepRecord p.delta (p.tb % 2 ^ 32)).setNow (s.now + p.delta)).rd f := by
  obtain ⟨hstate, hstep⟩ := List.forall_mem_cons.mp hf
  obtain ⟨-, -, hregs⟩ := s.applyStep_frame p
  rw [hregs f (by simpa using hstate)]
  exact (s.stepRecord p.delta (p.tb % 2 ^ 32)).loadTime_regsBut (s.now + p.delta) f hstep

theorem exec_stepApply_due {p : PtuStep} {s : State} (hpend : s.rd PTU_STATUS_STATE = 4) (hstep : s.ptu.step = some p)
    (hdue : p.tb ≤ s.now) : exec .stepApply s = .next (s.applyStep p) := by
  have hstepDue : s.stepDue = true := by simp [State.stepDue, hstep, hpend, hdue]
  simp [exec, execStepApply, hstep, hstepDue, done]

theorem exec_stepApply {p : PtuStep} {s : State} (hpend : s.rd PTU_STATUS_STATE = 4) (hstep : s.ptu.step = some p)
    (hdue : p.tb ≤ s.now) :
    ∃ t, exec .stepApply s = .next t ∧ t.rd PTU_STATUS_STATE = 1 ∧ t.rd PTU_ERR_STEP = 1 ∧ t.ptu.step = none ∧
      t.rd PTU_STEP_T = p.tb % 2 ^ 32 ∧ (t.rd PTU_TIME_NS32 : Int) = (s.now + p.delta) % 2 ^ 32 ∧
      (t.rd PTU_TIME_EPOCH : Int) = (s.now + p.delta) / 2 ^ 32 % 2 ^ 32 := by
  obtain ⟨hlocked, hnone, -⟩ := s.applyStep_frame p
  obtain ⟨hinstant, hflag⟩ := s.rd_stepRecord p.delta (p.tb % 2 ^ 32)
  have hload := (s.stepRecord p.delta (p.tb % 2 ^ 32)).setNow_movesOnly (s.now + p.delta)
  obtain ⟨hns32, hepoch⟩ := (s.stepRecord p.delta (p.tb % 2 ^ 32)).rd_setNow (s.now + p.delta)
  refine ⟨_, exec_stepApply_due hpend hstep hdue, hlocked, ?flag, hnone, ?instant, ?ns32, ?epoch⟩
  case flag => rw [s.rd_applyStep p (by decide), hload.regs _ (by decide), hflag]
  case instant => rw [s.rd_applyStep p (by decide), hload.regs _ (by decide), hinstant, Nat.mod_mod]
  case ns32 => rw [s.rd_applyStep p (by decide), hns32]
  case epoch => rw [s.rd_applyStep p (by decide), hepoch]

/-! ### The second marker and BASE -/

theorem State.ppsMark_rd (s : State) (f : Fld) : s.ppsMark.rd f = s.rd f := rfl

/-- Where no step is due the marker rises if it is enabled, and a second of HOLDOVER is counted (R227, R230). -/
theorem exec_secondBoundary_eq {s : State} (hdue : s.stepDue = false) : exec .secondBoundary s =
    .next (if s.rd PTU_STATUS_STATE = 2 then s.ppsMark.satInc PTU_HOLD_DUR else s.ppsMark) := by
  have hmark : (if s.stepDue then s else s.ppsMark) = s.ppsMark := if_neg (by simp [hdue])
  simp only [exec, execSecondBoundary, hmark, State.ppsMark_rd, done]

theorem exec_secondBoundary {s : State} (hdue : s.stepDue = false) :
    ∃ t, exec .secondBoundary s = .next t ∧ t.ptu.ppsOut = (if s.on PTU_CTRL_PPS_EN then some s.ticks else none) ∧
      t.rd PTU_HOLD_DUR = (if s.rd PTU_STATUS_STATE = 2 then min (s.rd PTU_HOLD_DUR + 1) (2 ^ 32 - 1) else s.rd PTU_HOLD_DUR) ∧
      RegsBut [PTU_HOLD_DUR] s t ∧ MemSame s t := by
  refine ⟨_, exec_secondBoundary_eq hdue, ?_⟩
  split
  · exact ⟨rfl, State.rd_satInc s.ppsMark PTU_HOLD_DUR, regsBut_of_regs_eq_wr rfl, memSame_of_eq rfl rfl⟩
  · exact ⟨rfl, rfl, fun _ _ => rfl, memSame_of_eq rfl rfl⟩

/-- REBASE is taken in FREE and in HOLDOVER (R230). -/
theorem exec_rebase_taken {s : State} (hlive : s.live = true) (hstate : s.rd PTU_STATUS_STATE = 0 ∨ s.rd PTU_STATUS_STATE = 2) :
    exec .rebase s = .next ((s.wr PTU_STATUS_BASE_SET 0).wr PTU_GPS_BASE_BASE 0) := by
  calc exec .rebase s
      = done s.rebase.1 := congrArg done (whenLive_of_live hlive _)
    _ = _ := by simp [State.rebase, hstate, done]

theorem exec_rebase_refused {s : State} (hlive : s.live = true) (hfree : s.rd PTU_STATUS_STATE ≠ 0)
    (hhold : s.rd PTU_STATUS_STATE ≠ 2) : exec .rebase s = .next (s.wr PTU_ERR_CFG_REJ 1) := by
  calc exec .rebase s
      = done s.rebase.1 := congrArg done (whenLive_of_live hlive _)
    _ = _ := by simp [State.rebase, hfree, hhold, State.set1, done]

/-! ### Timestamp queues -/

/-- TSQ_POP at one port (R232). -/
def State.tsqPopPort (mask : Nat) (s : State) (p : Nat) : State :=
  if mask.testBit p then ({ s with ptu := { s.ptu with tsq := modAt s.ptu.tsq p (List.drop 1) } }).tsqShow p else s

theorem State.tsqPop_eq (s : State) (mask : Nat) : s.tsqPop mask = (List.range 6).foldl (State.tsqPopPort mask) s := rfl

/-- The queue of port p, head first. -/
def State.tsqOf (s : State) (p : Nat) : List (Nat × Nat) := s.ptu.tsq.getD p []

/-- One queue of a list without its head; a queue that the list does not reach is empty. -/
theorem getD_modify_drop {α : Type} (l : List (List α)) (k p : Nat) :
    (l.modify k (List.drop 1)).getD p [] = if k = p then (l.getD p []).drop 1 else l.getD p [] := by
  simp only [List.getD_eq_getElem?_getD, List.getElem?_modify]
  cases l[p]? with
  | none => simp
  | some q => split <;> simp

theorem State.tsqOf_tsqPopPort (mask : Nat) (s : State) (k p : Nat) :
    (s.tsqPopPort mask k).tsqOf p = if mask.testBit k ∧ k = p then (s.tsqOf p).drop 1 else s.tsqOf p := by
  unfold State.tsqPopPort
  by_cases hbit : mask.testBit k
  · simp only [hbit, if_true, true_and]
    exact getD_modify_drop s.ptu.tsq k p
  · simp [hbit]

theorem State.tsqPopPort_memSame (mask : Nat) (s : State) (p : Nat) : MemSame s (s.tsqPopPort mask p) := by
  unfold State.tsqPopPort
  split
  · exact memSame_of_eq rfl rfl
  · exact memSame_of_eq rfl rfl

/-- The first n ports served: of those that the mask names each has lost its head. -/
theorem State.tsqOf_foldl_tsqPopPort (mask : Nat) (s : State) (n p : Nat) :
    ((List.range n).foldl (State.tsqPopPort mask) s).tsqOf p =
      if p < n ∧ mask.testBit p then (s.tsqOf p).drop 1 else s.tsqOf p := by
  induction n with
  | zero => simp
  | succ n ih =>
    rw [List.range_succ, List.foldl_append, List.foldl_cons, List.foldl_nil, State.tsqOf_tsqPopPort, ih]
    by_cases hport : n = p
    · simp [hport]
    · have hlt : p < n + 1 ↔ p < n := by omega
      simp [hport, hlt]

theorem State.tsqPop_memSame (s : State) (mask : Nat) : MemSame s (s.tsqPop mask) := by
  rw [State.tsqPop_eq]
  exact List.foldlRecOn _ _ (memSame_of_eq rfl rfl) fun u hu p _ => hu.trans (u.tsqPopPort_memSame mask p)

theorem exec_tsqPop (mask : BitVec 6) {s : State} (hlive : s.live = true) :
    ∃ t, exec (.tsqPop mask) s = .next t ∧ (∀ p < 6, t.tsqOf p =
      if mask.toNat.testBit p then (s.tsqOf p).drop 1 else s.tsqOf p) ∧ MemSame s t := by
  refine ⟨s.tsqPop mask.toNat, congrArg done (whenLive_of_live hlive _), fun p hp => ?_, s.tsqPop_memSame mask.toNat⟩
  rw [State.tsqPop_eq, State.tsqOf_foldl_tsqPopPort]
  simp only [hp, true_and]

/-- Settles O23: each clause is read off the equation of its command, with the frame of what the command moves. -/
theorem plantTimeFollowsItsSources : Obligations.PlantTimeFollowsItsSources := by
  refine ⟨exec_ns32Wrap, exec_refclkLoss, ?mirror, ?domino, ?answer, ?answered, ?missing, ?hostOffset, ?hostRefused, ?edge,
    fun _ => exec_holdoverEntry, ?notice, fun _ _ => exec_stepApply, fun _ => exec_secondBoundary, fun _ => exec_rebase_taken,
    fun _ => exec_rebase_refused, ?pop⟩
  case mirror =>
    exact fun t1 s hlive hsrc hhalf =>
      ⟨_, exec_syncExchangeStart_mirror t1 hlive hsrc hhalf, rfl, rfl, rfl, memSame_of_eq rfl rfl⟩
  case domino =>
    exact fun t1 s hlive hsrc hhalf =>
      ⟨_, exec_syncExchangeStart_domino t1 hlive hsrc hhalf, rfl, rfl, rfl, memSame_of_eq rfl rfl⟩
  case answer =>
    exact fun t2 t3 s hlive => ⟨_, exec_delayReq_mirror t2 t3 hlive, rfl, rfl, memSame_of_eq rfl rfl⟩
  case answered =>
    exact fun port t1 t2 t3 t4 epoch pstate depth s hlive ht1 hstate hdelays hepoch hservo hlast he =>
      exec_delayResp_first hlive ht1 t2 t3 t4 epoch hstate depth hdelays hepoch hservo hlast he
  case missing => exact fun s hlive => congrArg done (whenLive_of_live hlive _)
  case hostOffset => exact fun off i s hlive hsrc hservo hlast => exec_ptuOffsetIn_servo_off off i hlive hsrc hservo hlast
  case hostRefused => exact fun off i s hlive hsrc => exec_ptuOffsetIn_other_source off i hlive hsrc
  case edge => exact fun falling i s hlive hen hfall hsrc => exec_ppsInEdge_other_source i hlive hen hfall hsrc
  case notice =>
    exact fun delta tb s hlive hfree hpend hsrc =>
      ⟨_, exec_stepNotice delta tb hlive hfree hpend hsrc, State.toStepPend_frame s _⟩
  case pop => exact fun mask s hlive _ => exec_tsqPop mask hlive

end Sys2Proof.Machine

/-!
# Changes of the fabric's and the runtime's registers under `OnlyBlock`

What the fabric's commands leave unchanged, its statements say by `FabricOnly` or `FabOnly`, which both give `OnlyBlock` of
block 9; the runtime's clause on LINK_DOWN gives `OnlyBlock` of block 12. By `OnlyBlock.rd_eq` none of the block's own
fields may then change, so each of these statements fails at a state in which a command that it describes changes one.
-/
namespace Sys2Proof.Machine

/-- A command that moves a field, other than those of the fault log and of the event counters, goes beyond every
`OnlyBlock`. -/
theorem not_onlyBlock_of_exec {b : Nat} {c : Instr} {f : Fld} {s t : State} (hexec : exec c s = .next t)
    (hmoves : ∃ u, exec c s = .next u ∧ u.rd f ≠ s.rd f) (hf : ∀ g ∈ logFields ++ countFields, f.key ≠ g.key) :
    ¬ OnlyBlock b s t := by
  intro hblock
  obtain ⟨u, hexec', hmoved⟩ := hmoves
  obtain rfl : t = u := Host.Outcome.next.inj (hexec.symm.trans hexec')
  exact hmoved (hblock.rd_eq hf)

/-! ### A port that gets block lock (R249) -/

/-- A node, no group member, whose fabric runs and whose ports are all DOWN. -/
def portsDown : State := State.reset.wr ZFB_CTRL_RUN 1

/-- Port 0 goes from DOWN to RESTRICTED. -/
theorem portBlockLock_portsDown :
    ∃ t, exec (.portBlockLock 0) portsDown = .next t ∧ t.rd (ZFB_PORT_STATE 0) ≠ portsDown.rd (ZFB_PORT_STATE 0) :=
  ⟨_, rfl, by decide +kernel⟩

/-- Refutes O35, by block lock at a port that is DOWN: `PortOnly` asks for `OnlyBlock` of block 9, which, taken for the
record at address 0 with the key of the port's STATE, asks that the port stay DOWN. -/
theorem not_fabricPortsCarryFrames : ¬ Obligations.FabricPortsCarryFrames := by
  rintro ⟨hports, -⟩
  obtain ⟨hlock, -⟩ := hports 0 portsDown rfl
  obtain ⟨t, hexec, -, -, honly⟩ := hlock rfl rfl
  obtain ⟨hblock, -⟩ := honly rfl
  exact not_onlyBlock_of_exec hexec portBlockLock_portsDown (by decide) hblock

/-! ### The activation of a pending ID (R252, R253) -/

/-- What Roll call has given a node so far: node ID 5, no table, to be active from instant 0 on. -/
def pendingId : RollPend :=
  { gen := 1, coord := 0, cN := [], proven := true, id := some 5, dom := 0, up := 7, table := [], route := 7, rate := [],
    act := some 0 }

/-- A node without an ID that has one pending. -/
def idPending : State := { State.reset with zfb := { ZfbState.init with pend := some pendingId } }

/-- ASSIGNED goes from 0 to 1. -/
theorem rollActivation_idPending :
    ∃ t, exec .rollActivation idPending = .next t ∧ t.rd ZFB_STATUS_ASSIGNED ≠ idPending.rd ZFB_STATUS_ASSIGNED :=
  ⟨_, rfl, by decide +kernel⟩

/-- Refutes O37, by the activation of the first ID of a node: `FabOnly` asks for `OnlyBlock` of block 9, which, taken for
the record at address 0 with the key of ASSIGNED, asks that it stay 0. -/
theorem not_rollCallGivesANodeItsTables : ¬ Obligations.RollCallGivesANodeItsTables := by
  rintro ⟨-, -, -, -, -, -, -, -, hactivation, -⟩
  obtain ⟨t, hexec, hfab, -⟩ := hactivation pendingId 0 idPending rfl rfl rfl (by decide) (by decide)
  obtain ⟨hblock, -⟩ := hfab
  exact not_onlyBlock_of_exec hexec rollActivation_idPending (by decide) hblock

/-! ### The begin of a run (R252, R253) -/

/-- A holder of TOKEN with no run under way. -/
def idleHolder : State := State.reset.wr PRD_STATUS_GATE 2

/-- ROLL_RUN goes from 0 to 1. -/
theorem zfbRollStart_idleHolder :
    ∃ t, exec .zfbRollStart idleHolder = .next t ∧ t.rd ZFB_STATUS_ROLL_RUN ≠ idleHolder.rd ZFB_STATUS_ROLL_RUN :=
  ⟨_, rfl, by decide +kernel⟩

/-- Refutes O38, by a run that the holder of TOKEN begins: `RunBegun` asks for `OnlyBlock` of block 9, which, taken for the
record at address 0 with the key of ROLL_RUN, asks that it stay 0. -/
theorem not_theCoordinatorRunsRollCall : ¬ Obligations.TheCoordinatorRunsRollCall := by
  rintro ⟨hstart, -⟩
  obtain ⟨-, hbegins, -⟩ := hstart idleHolder rfl
  obtain ⟨⟨t, hexec, hbegun⟩, -⟩ := hbegins rfl rfl rfl
  obtain ⟨-, -, -, ⟨hblock, -⟩, -⟩ := hbegun
  exact not_onlyBlock_of_exec hexec zfbRollStart_idleHolder (by decide) hblock

/-- `RunBegun` asks for ROLL_RUN = 1 and, by `OnlyBlock` of block 9, for the ROLL_RUN of before. -/
theorem not_runBegun_of_rollRun_ne_one {s t : State} (h : s.rd ZFB_STATUS_ROLL_RUN ≠ 1) : ¬ RunBegun s t := by
  rintro ⟨hrun, -, -, ⟨hblock, -⟩, -⟩
  have hsame : t.rd ZFB_STATUS_ROLL_RUN = s.rd ZFB_STATUS_ROLL_RUN := hblock.rd_eq (by decide)
  exact h (hsame.symm.trans hrun)

/-- ROLL_START without parameters, as a mailbox holds it. -/
def rollStartBox : Mailbox := { Mailbox.init with cmd := bytesOf 2 0x0901 ++ List.replicate 30 0 }

/-- The same holder with ROLL_START in mailbox 0, alone in the order of acceptance. -/
def rollStartFront : State :=
  { idleHolder with mbx := { idleHolder.mbx with boxes := [rollStartBox], order := [0] } }

theorem front_rollStartFront : Front rollStartFront 0 [] 0x0901 [] := by unfold Front; decide +kernel

/-- Refutes O53, by the mailbox command ROLL_START at a holder of TOKEN with no run under way: its answer would be given in
a state in which ROLL_RUN is 1 and, by the `OnlyBlock` of `RunBegun`, 0. -/
theorem not_commandsReachTheModule : ¬ Obligations.CommandsReachTheModule := by
  intro hcommands
  obtain ⟨-, -, -, -, -, -, -, -, -, hstart⟩ := hcommands rollStartFront 0 [] []
  obtain ⟨hbegins, -⟩ := hstart front_rollStartFront
  obtain ⟨u, -, hbegun⟩ := hbegins rfl rfl rfl
  exact not_runBegun_of_rollRun_ne_one (by decide) hbegun

/-! ### A station behind a link that went down (R349) -/

/-- A SIGNALS section without signals and with one station, at node 5. -/
def stationSection : Bytes := bytesOf 4 0 ++ bytesOf 2 1 ++ List.replicate 26 0 ++ bytesOf 4 5 ++ List.replicate 12 0

/-- Node 5 in the Roll call map, its port 1 the one by which it was reached. -/
def stationNode : RollNode :=
  { id := 5, uid := 0, parent := 0, pport := 0, up := 1, level := 0, path := [], front := false }

/-- The EVENT frame by which node 5 reports that the link at its port 1 is down. -/
def linkDownEvent : ZFrame :=
  { hdr := { cls := 7, dst := 0, src := 5, aux := 1, blocks := 1 }
    words := [pipEncode (bytesOf 32 (5 + 1 <<< 18))] }

/-- A holder of TOKEN whose station 0, at node 5, is ONLINE when that frame stands delivered. -/
def stationCutOff : State :=
  let s := { State.reset with
    cfg := { CfgState.init with secs := [(7, stationSection)] }
    zfb := { ZfbState.init with map := [stationNode], deliv := some (0, linkDownEvent) } }
  s.wrAll [(PRD_STATUS_GATE, 2), (ZFB_STATUS_GROUP, 1), (CRT_STN_STAT_STATE 0, 1)]

/-- Station 0 goes from ONLINE to LOST. -/
theorem eventLinkDown_stationCutOff : ∃ t, exec .eventLinkDown stationCutOff = .next t ∧
    t.rd (CRT_STN_STAT_STATE 0) ≠ stationCutOff.rd (CRT_STN_STAT_STATE 0) :=
  ⟨_, rfl, by decide +kernel⟩

/-- Refutes O40, by a LINK_DOWN that cuts an ONLINE station off: `OnlyBlock` of block 12, taken for the record at address 0
with the key of the station's STATE, asks that it stay ONLINE. -/
theorem not_theRuntimeObeysItsCommandsAndStations : ¬ Obligations.TheRuntimeObeysItsCommandsAndStations := by
  rintro ⟨-, -, -, -, -, -, -, hlinkDown⟩
  obtain ⟨t, hexec, -, hblock, -⟩ := hlinkDown 0 linkDownEvent stationCutOff rfl rfl rfl rfl rfl (by decide +kernel)
  exact not_onlyBlock_of_exec hexec eventLinkDown_stationCutOff (by decide) hblock

end Sys2Proof.Machine
